-- ==== Sys2Proof/Word.lean ====
section
/-! DEFINITION. The machine's words and register numbers: plain abbreviations and nothing a test could show wrong. -/

namespace Sys2Proof

/-- A 64-bit value: an `x` register, an address, a dword (R2, R7). -/
abbrev Word := BitVec 64
/-- A 32-bit value: an instruction word, a packet lane, an accumulator entry. -/
abbrev W32 := BitVec 32
/-- A byte of memory. -/
abbrev Byte := BitVec 8
/-- An absolute cell, die[1:0] row[5:0] col[5:0] (R1, R211). -/
abbrev CellId := BitVec 14
/-- The number of an `x` register. -/
abbrev XIdx := BitVec 5
/-- The number of a `v` register. -/
abbrev VIdx := BitVec 5
/-- The number of a predicate. -/
abbrev PIdx := BitVec 3
/-- The number of a channel. -/
abbrev ChIdx := BitVec 5
/-- A 7-bit format descriptor: S in bit 6, I in bit 5, the code in bits 4:0 (R31). -/
abbrev FmtDesc := BitVec 7
/-- A PC: a byte address in the instruction store (R12). -/
abbrev Pc := BitVec 14

end Sys2Proof
end

