-- ==== Sys2Proof/Syntax.lean ====
section
/-! DEFINITION. Syntax: one constructor of `Instr` for each of the 333 rows of spec/opcode_table.json, and the
data that the hardware steps among them carry (a request on the Driten link, an answer, an offer of algorithms). -/

namespace Sys2Proof

/-- The file a full/empty instruction names (R97): an `x` register, a `v` register, a cell-store word. -/
inductive FeFile where
  | x | v | word
  deriving DecidableEq, Repr

/-- The engines a command names (R62, R71). -/
inductive Engine where
  | mx | cp | kv | sk | ch | gs
  deriving DecidableEq, Repr

/-- The fields of command word 0 beside engine and verb (R62). -/
structure CmdHead where
  subst : BitVec 4
  done : BitVec 2
  chan : BitVec 5
  sb : BitVec 3
  deriving DecidableEq, Repr

/-- What a remote request asks of its target (R355, R359, R362, R366, R385-R392). -/
inductive RemoteOp where
  /-- `rld`: n bytes at a remote address. -/
  | load (addr : Word) (n : Nat)
  /-- `rst` and the flits of remote copies; `bad` lists the (offset, size) ranges of the data that are poisoned (R331). -/
  | store (addr : Word) (data : List Byte) (bad : List (Nat × Nat))
  /-- `rst.o`, with the S counts it carries (R359). -/
  | flag (addr : Word) (data : List Byte) (counts : List W32)
  /-- `ramo`: a recipe, its width, whether it returns, its operands, the rounding mode and SAT at issue. -/
  | recipe (addr : Word) (n : BitVec 6) (w4 ret : Bool) (a0 a1 : Word) (rm : BitVec 3) (sat : Bool)
  /-- `mcred`: a contribution to a round of a group. -/
  | contrib (group : Byte) (round : Nat) (data : List Byte)
  /-- `cv.open`: the image read at issue; none where it could not be read. -/
  | convOpen (image : Option (List Word))
  /-- `cv.bind`: the conversation word, the issuing cell's channel and its DEPTH. -/
  | convBind (w : Word) (ch : ChIdx) (depth : Nat)
  /-- `cv.send` and `cv.choose`. -/
  | convTurn (w : Word) (choice : Bool) (lanes : List W32)
  /-- `cv.deleg`: the conversation word and the new endpoint. -/
  | convDeleg (w : Word) (target : Word)
  /-- `cv.close`. -/
  | convClose (w : Word)
  /-- `cv.state`, with the state waited for. -/
  | convState (w : Word) (want : Option Byte)
  deriving DecidableEq, Repr

/-- A request packet on the Driten link (R358, R360, R404). `sealed` says that its end-to-end tag checks, and `port` by which port it comes,
whose run tag covers it (R368). -/
structure RemoteReq where
  seq : BitVec 48
  tag : BitVec 2
  ctx : BitVec 6
  cell : CellId
  epoch : Word
  sealed : Bool
  port : BitVec 5
  op : RemoteOp
  deriving DecidableEq, Repr

/-- The verdict of a conversation's home on a send, choice, delegation or close (R388). -/
inductive Verdict where
  | accepted | broken | role
  | turn (state : Byte)
  deriving DecidableEq, Repr

/-- What a reply carries back to the issuing cell. -/
inductive RemoteAnswer where
  /-- The bytes of an `rld`, and whether they meet data that cannot be corrected (R331). -/
  | bytes (data : List Byte) (poison : Bool)
  /-- The result of `ramo.r` and its flags. -/
  | result (val : Word) (flags : BitVec 5)
  /-- The status of `mcred` and its flags, of `cv.open`, of `cv.bind`, the word of `cv.state`. -/
  | status (val : Word) (flags : BitVec 5)
  /-- The status of `mcred` with the result to write at an address of the member's package first (R366, R376). -/
  | reduced (addr : Word) (data : List Byte) (flags : BitVec 5)
  /-- The verdict on a turn, delegation or close. -/
  | verdict (v : Verdict)
  deriving DecidableEq, Repr

/-- The head of a reply packet: the number of the request it answers (R360), whether its end-to-end tag checks (R404, R405) and its epoch
(R409). Outside a trust domain packets are not sealed and their epoch is 0. -/
structure ReplyHead where
  seq : BitVec 48
  good : Bool := true
  epoch : Word := 0
  deriving DecidableEq, Repr

/-- What a negative notice names: the packet that was refused, a request or the reply to one (R368, R405). -/
structure RefusedPacket extends ReplyHead where
  reply : Bool := false
  deriving DecidableEq, Repr

/-- An arrival of a fabric packet: which packet of the wire, and whether an error on the way that could not be corrected has set its PSN
(R115, R116). -/
structure Arrival where
  index : Nat
  damaged : Bool := false
  deriving DecidableEq, Repr

/-- An endpoint: package, cell, channel (R383). -/
structure Endpoint where
  pkg : Byte
  cell : CellId
  ch : ChIdx
  deriving DecidableEq, Repr

/-- Which message a MESSAGE_DELIVERY moves (R383). -/
inductive Delivery where
  /-- The oldest one that has its credit in the buffer of a conversation homed here, for a role. -/
  | buffered (entry : BitVec 12) (role : BitVec 3)
  /-- One that another package's home sends to an endpoint here. -/
  | incoming (home : Byte) (ctx : BitVec 6) (entry : BitVec 12) (role : BitVec 3) (cell : CellId) (ch : ChIdx) (lanes : List W32)
  /-- The oldest one for a channel in a cell's conversation port. -/
  | waiting (cell : CellId) (ch : ChIdx)
  /-- The record that another package's home sends here when a conversation breaks (R397). -/
  | broken (ctx : BitVec 6) (home : Byte) (entry : BitVec 12) (record : List Word)
  /-- What another package says of a delegation notice: whether it was taken there, or refused (R390). -/
  | noticed (entry : BitVec 12) (role : BitVec 3) (pkg : Byte) (cell : CellId) (ch : ChIdx) (taken : Bool)
  deriving DecidableEq, Repr

/-- What a NEGOTIATE_ALGORITHMS request offers: whether each supported algorithm of R401 is among its choices. -/
structure AlgOffer where
  mlDsa87 : Bool
  sha3 : Bool
  mlKem1024 : Bool
  aesGcm : Bool
  deriving DecidableEq, Repr

/-- The function by which a host request comes: the physical one, or virtual function n (1-16), with whether the request came on the
interface's IDE stream with T = 1 (R411, R413). -/
inductive HostPath where
  | pf
  | vf (n : BitVec 5) (tee : Bool)
  deriving DecidableEq, Repr

/-- The registers that locking a TDISP interface freezes (R411). -/
inductive FrozenReg where
  | vfBar | vfBar2 | numVfs | vfEnable | command | msix
  deriving DecidableEq, Repr

/-- Every row of the opcode table. The scalar and packet words and the engine commands are read by the decoder from
the instruction store; the rows without an encoding are steps of the hardware, whose arguments say which unit acts
(a cell, the k-th of its accesses in flight, a launch, a package) and what came in from outside the machine. -/
inductive Instr where
  -- scalar and packet words (R56-R61)
  /-- ADD, R87: Adds two x registers, 64-bit or .w 32-bit sign-extended, modulo 2^N -/
  | add (d a b : XIdx) (w : Bool)
  /-- SUB, R87: Subtracts x[b] from x[a] modulo 2^N -/
  | sub (d a b : XIdx) (w : Bool)
  /-- AND, R87: Bitwise AND of two x registers -/
  | and (d a b : XIdx)
  /-- OR, R87: Bitwise OR of two x registers -/
  | or (d a b : XIdx)
  /-- XOR, R87: Bitwise XOR of two x registers -/
  | xor (d a b : XIdx)
  /-- ANDN, R87: x[a] AND NOT x[b] -/
  | andn (d a b : XIdx)
  /-- ORN, R87: x[a] OR NOT x[b] -/
  | orn (d a b : XIdx)
  /-- SHL, R87: Shifts left by the low bits of x[b], zeros in -/
  | shl (d a b : XIdx) (w : Bool)
  /-- SHR, R87: Logical shift right by the low bits of x[b] -/
  | shr (d a b : XIdx) (w : Bool)
  /-- SRA, R87: Arithmetic shift right by the low bits of x[b] -/
  | sra (d a b : XIdx) (w : Bool)
  /-- ROTL, R87: Rotates x[a] left by the low bits of x[b] -/
  | rotl (d a b : XIdx) (w : Bool)
  /-- MIN, R87: Signed minimum of two x registers -/
  | min (d a b : XIdx)
  /-- MAX, R87: Signed maximum of two x registers -/
  | max (d a b : XIdx)
  /-- MINU, R87: Unsigned minimum of two x registers -/
  | minu (d a b : XIdx)
  /-- MAXU, R87: Unsigned maximum of two x registers -/
  | maxu (d a b : XIdx)
  /-- MUL, R87: Low N bits of the product -/
  | mul (d a b : XIdx) (w : Bool)
  /-- MULH, R87: High 64 bits of the signed 128-bit product -/
  | mulh (d a b : XIdx)
  /-- MULHU, R87: High 64 bits of the unsigned 128-bit product -/
  | mulhu (d a b : XIdx)
  /-- DIV, R88: Signed division truncating toward zero, DZ on a zero divisor -/
  | div (d a b : XIdx) (w : Bool)
  /-- DIVU, R88: Unsigned division, DZ on a zero divisor -/
  | divu (d a b : XIdx) (w : Bool)
  /-- REM, R88: Signed remainder with the sign of the dividend -/
  | rem (d a b : XIdx) (w : Bool)
  /-- REMU, R88: Unsigned remainder -/
  | remu (d a b : XIdx) (w : Bool)
  /-- SLT, R87: Writes 1 if x[a] is less than x[b] signed -/
  | slt (d a b : XIdx)
  /-- SLTU, R87: Writes 1 if x[a] is less than x[b] unsigned -/
  | sltu (d a b : XIdx)
  /-- CLZ, R87: Counts leading zero bits -/
  | clz (d a : XIdx) (w : Bool)
  /-- CTZ, R87: Counts trailing zero bits -/
  | ctz (d a : XIdx) (w : Bool)
  /-- POPC, R87: Counts one bits -/
  | popc (d a : XIdx) (w : Bool)
  /-- BSWAP, R87: Reverses the bytes of x[a] -/
  | bswap (d a : XIdx) (w : Bool)
  /-- SEL, R87: Selects x[a] or x[b] by a predicate -/
  | sel (d a b : XIdx) (p : PIdx)
  /-- ADDI, R90: Adds a sign-extended 16-bit immediate -/
  | addi (d a : XIdx) (i : BitVec 16)
  /-- ANDI, R90: ANDs a zero-extended immediate -/
  | andi (d a : XIdx) (i : BitVec 16)
  /-- ORI, R90: ORs a zero-extended immediate -/
  | ori (d a : XIdx) (i : BitVec 16)
  /-- XORI, R90: XORs a zero-extended immediate -/
  | xori (d a : XIdx) (i : BitVec 16)
  /-- SHLI, R90: Shifts left by an immediate amount -/
  | shli (d a : XIdx) (s : BitVec 6)
  /-- SHRI, R90: Logical shift right by an immediate amount -/
  | shri (d a : XIdx) (s : BitVec 6)
  /-- SRAI, R90: Arithmetic shift right by an immediate amount -/
  | srai (d a : XIdx) (s : BitVec 6)
  /-- SLTI, R90: Signed compare against a sign-extended immediate -/
  | slti (d a : XIdx) (i : BitVec 16)
  /-- SLTUI, R90: Unsigned compare against a zero-extended immediate -/
  | sltui (d a : XIdx) (i : BitVec 16)
  /-- LUI, R90: Writes the immediate shifted to bits 31:16, sign-extended -/
  | lui (d : XIdx) (i : BitVec 16)
  /-- LHI, R90: Writes the immediate into bits 47:32 or 63:48 of x[d], keeping the rest -/
  | lhi (d : XIdx) (h : Bool) (i : BitVec 16)
  /-- LEA, R92: Adds x[b] shifted left by s to x[a] -/
  | lea (d a b : XIdx) (s : BitVec 3)
  /-- EXTF, R92: Extracts a bit field, zero-extended -/
  | extf (d a : XIdx) (w p : BitVec 6)
  /-- EXTFS, R92: Extracts a bit field, sign-extended -/
  | extfs (d a : XIdx) (w p : BitVec 6)
  /-- INSF, R92: Inserts the low bits of x[a] into a field of x[d] -/
  | insf (d a : XIdx) (w p : BitVec 6)
  /-- CMP_EQ, R93: Sets a predicate when two x registers are equal -/
  | cmpEq (d : PIdx) (a b : XIdx)
  /-- CMP_NE, R93: Sets a predicate when two x registers differ -/
  | cmpNe (d : PIdx) (a b : XIdx)
  /-- CMP_LT, R93: Signed less-than compare into a predicate -/
  | cmpLt (d : PIdx) (a b : XIdx)
  /-- CMP_GE, R93: Signed greater-or-equal compare into a predicate -/
  | cmpGe (d : PIdx) (a b : XIdx)
  /-- CMP_LTU, R93: Unsigned less-than compare into a predicate -/
  | cmpLtu (d : PIdx) (a b : XIdx)
  /-- CMP_GEU, R93: Unsigned greater-or-equal compare into a predicate -/
  | cmpGeu (d : PIdx) (a b : XIdx)
  /-- PAND, R93: AND of two predicates -/
  | pand (d a b : PIdx)
  /-- POR, R93: OR of two predicates -/
  | por (d a b : PIdx)
  /-- PXOR, R93: XOR of two predicates -/
  | pxor (d a b : PIdx)
  /-- PNOT, R93: Inverts a predicate -/
  | pnot (d a : PIdx)
  /-- PMOV, R93: Copies a predicate -/
  | pmov (d a : PIdx)
  /-- B, R94: Branches unconditionally by a word displacement -/
  | b (disp : BitVec 21)
  /-- BP, R94: Branches when a predicate is true -/
  | bp (p : PIdx) (disp : BitVec 21)
  /-- BNP, R94: Branches when a predicate is false -/
  | bnp (p : PIdx) (disp : BitVec 21)
  /-- BZ, R94: Branches when an x register is zero -/
  | bz (c : XIdx) (disp : BitVec 21)
  /-- BNZ, R94: Branches when an x register is non-zero -/
  | bnz (c : XIdx) (disp : BitVec 21)
  /-- CALL, R94: Writes the return PC to x31 and branches -/
  | call (disp : BitVec 21)
  /-- LOOP, R95: Decrements a count register and branches while it was above 1 -/
  | loop (c : XIdx) (disp : BitVec 21)
  /-- JR, R96: Jumps to the address in x[a] -/
  | jr (a : XIdx)
  /-- JALR, R96: Jumps to x[a] and writes the link to x[d] -/
  | jalr (d a : XIdx)
  /-- RET, R96: Jumps to the address in x31 -/
  | ret
  /-- LD, R231: Loads 1 to 8 bytes sign-extended into x[d], making it PENDING -/
  | ld (d b : XIdx) (c s w : BitVec 3) (z : BitVec 2) (o : BitVec 5)
  /-- LDU, R231: Loads 1 to 8 bytes zero-extended into x[d] -/
  | ldu (d b : XIdx) (c s w : BitVec 3) (z : BitVec 2) (o : BitVec 5)
  /-- ST, R231: Stores 1 to 8 bytes of x[d] -/
  | st (d b : XIdx) (c s w : BitVec 3) (z : BitVec 2) (o : BitVec 5)
  /-- LD_S, R242: Strong load that acts as an acquire at its scope -/
  | ldS (d b : XIdx) (scope s w : BitVec 3) (z : BitVec 2) (o : BitVec 5)
  /-- ST_S, R242: Strong store that first acts as a release at its scope -/
  | stS (d b : XIdx) (scope s w : BitVec 3) (z : BitVec 2) (o : BitVec 5)
  /-- LD_SYNC, R233: Waits until cell-store words are full, reads them and optionally empties them -/
  | ldSync (d b : XIdx) (c : BitVec 2) (take : Bool) (s w : BitVec 3) (z : Bool) (o : BitVec 5)
  /-- ST_FILL, R234: Stores into cell store, sets the words full and wakes WORD parks -/
  | stFill (d b : XIdx) (c s w : BitVec 3) (z : BitVec 2) (o : BitVec 5)
  /-- LD_P, R235: Loads from a parameter window with bound checks -/
  | ldP (d b : XIdx) (n s w : BitVec 3) (z : BitVec 2) (o : BitVec 5)
  /-- LD_V, R236: Loads n lanes of a packet register from memory -/
  | ldV (v : VIdx) (b : BitVec 4) (c s w l : BitVec 3) (o : BitVec 4)
  /-- ST_V, R236: Stores n lanes of a packet register to memory -/
  | stV (v : VIdx) (b : BitVec 4) (c s w l : BitVec 3) (o : BitVec 4)
  /-- AMO_ADD, R244: Atomic add at the home slice, returning or reducing -/
  | amoAdd (d a b : XIdx) (w ret : Bool) (scope : BitVec 3)
  /-- AMO_AND, R244: Atomic AND -/
  | amoAnd (d a b : XIdx) (w ret : Bool) (scope : BitVec 3)
  /-- AMO_OR, R244: Atomic OR -/
  | amoOr (d a b : XIdx) (w ret : Bool) (scope : BitVec 3)
  /-- AMO_XOR, R244: Atomic XOR -/
  | amoXor (d a b : XIdx) (w ret : Bool) (scope : BitVec 3)
  /-- AMO_MIN, R244: Atomic signed minimum -/
  | amoMin (d a b : XIdx) (w ret : Bool) (scope : BitVec 3)
  /-- AMO_MAX, R244: Atomic signed maximum -/
  | amoMax (d a b : XIdx) (w ret : Bool) (scope : BitVec 3)
  /-- AMO_MINU, R244: Atomic unsigned minimum -/
  | amoMinu (d a b : XIdx) (w ret : Bool) (scope : BitVec 3)
  /-- AMO_MAXU, R244: Atomic unsigned maximum -/
  | amoMaxu (d a b : XIdx) (w ret : Bool) (scope : BitVec 3)
  /-- AMO_SWAP, R244: Atomic swap -/
  | amoSwap (d a b : XIdx) (w ret : Bool) (scope : BitVec 3)
  /-- AMO_CAS, R244: Atomic compare-and-swap, returning form only -/
  | amoCas (d a b : XIdx) (w : Bool) (scope : BitVec 3)
  /-- AMO_FADD_F32, R246: Atomic FP32 add rounded under KFRM -/
  | amoFaddF32 (d a b : XIdx) (ret : Bool) (scope : BitVec 3)
  /-- AMO_FADD_BF16, R246: Atomic BF16 add rounded under KFRM -/
  | amoFaddBf16 (d a b : XIdx) (ret : Bool) (scope : BitVec 3)
  /-- AMO_FMIN_F32, R244: Atomic FP32 minimum as vfmin -/
  | amoFminF32 (d a b : XIdx) (ret : Bool) (scope : BitVec 3)
  /-- AMO_FMAX_F32, R244: Atomic FP32 maximum as vfmax -/
  | amoFmaxF32 (d a b : XIdx) (ret : Bool) (scope : BitVec 3)
  /-- SBIND, R249: Binds or unbinds a stream number to a record and returns a status -/
  | sbind (d a b : XIdx)
  /-- SJOIN, R249: Asks the home stream unit for a tether slot -/
  | sjoin (d a : XIdx)
  /-- SLEAVE, R249: Releases the cell's tether slot -/
  | sleave (a : XIdx)
  /-- SPUB, R249: Publishes the stream head after earlier writes to it -/
  | spub (a b : XIdx)
  /-- SREL, R249: Advances the cell's tether after earlier reads land -/
  | srel (a b : XIdx)
  /-- SHEAD, R249: Reads HEAD and CLOSED at the home unit -/
  | shead (d a : XIdx)
  /-- STAIL, R249: Reads TAIL at the home unit -/
  | stail (d a : XIdx)
  /-- SCLOSE, R249: Closes the stream after earlier writes to it -/
  | sclose (a : XIdx)
  /-- FENCE, R238: Acquire, release or full fence at a scope, parking after 8 cycles -/
  | fence (k : BitVec 2) (scope : BitVec 3)
  /-- L1_INV, R240: Invalidates the whole L1 -/
  | l1Inv
  /-- SBWAIT, R240: Waits until the named scoreboard slots are zero -/
  | sbwait (m : BitVec 7)
  /-- FENCE_ENG, R241: Waits until an engine completion counter reaches a target, then invalidates L1 -/
  | fenceEng (n : BitVec 3) (b : XIdx)
  /-- FE_SET, R98: Marks a register or cell-store word full and wakes its waiters -/
  | feSet (a : XIdx) (f : FeFile)
  /-- FE_CLR, R98: Marks a register or cell-store word empty -/
  | feClr (a : XIdx) (f : FeFile)
  /-- FE_TEST, R98: Writes the full state of a register or word to a predicate -/
  | feTest (d : PIdx) (a : XIdx) (f : FeFile)
  /-- FE_MODE, R100: Sets the reader mode bit of a register -/
  | feMode (m : Bool) (a : XIdx) (vfile : Bool)
  /-- PARK, R98: Parks until a register or cell-store word is full -/
  | park (a : XIdx) (f : FeFile)
  /-- VADD, R171: Element-wise integer add, wrapping or saturating -/
  | vadd (d a b : VIdx) (f : BitVec 3)
  /-- VSUB, R171: Element-wise integer subtract -/
  | vsub (d a b : VIdx) (f : BitVec 3)
  /-- VMUL, R171: Element-wise integer multiply -/
  | vmul (d a b : VIdx) (f : BitVec 3)
  /-- VMIN, R171: Element-wise integer minimum -/
  | vmin (d a b : VIdx) (f : BitVec 3)
  /-- VMAX, R171: Element-wise integer maximum -/
  | vmax (d a b : VIdx) (f : BitVec 3)
  /-- VABS, R171: Element-wise integer absolute value -/
  | vabs (d a : VIdx) (f : BitVec 3)
  /-- VNEG, R171: Element-wise integer negation -/
  | vneg (d a : VIdx) (f : BitVec 3)
  /-- VAND, R171: Lane-wise AND -/
  | vand (d a b : VIdx)
  /-- VOR, R171: Lane-wise OR -/
  | vor (d a b : VIdx)
  /-- VXOR, R171: Lane-wise XOR -/
  | vxor (d a b : VIdx)
  /-- VSHL, R171: Element-wise shift left -/
  | vshl (d a b : VIdx) (f : BitVec 3)
  /-- VSHR, R171: Element-wise logical shift right -/
  | vshr (d a b : VIdx) (f : BitVec 3)
  /-- VSRA, R171: Element-wise arithmetic shift right -/
  | vsra (d a b : VIdx) (f : BitVec 3)
  /-- VCMP, R171: Element-wise three-way integer compare -/
  | vcmp (d a b : VIdx) (f : BitVec 3)
  /-- VSEL, R171: Selects elements of va or vb by the old elements of vd -/
  | vsel (d a b : VIdx) (f : BitVec 3)
  /-- VFADD, R173: Element-wise float add with one rounding -/
  | vfadd (d a b : VIdx) (f : FmtDesc)
  /-- VFSUB, R173: Element-wise float subtract -/
  | vfsub (d a b : VIdx) (f : FmtDesc)
  /-- VFMUL, R173: Element-wise float multiply -/
  | vfmul (d a b : VIdx) (f : FmtDesc)
  /-- VFMA, R173: Element-wise fused multiply-add into vd -/
  | vfma (d a b : VIdx) (f : FmtDesc)
  /-- VFMIN, R174: Element-wise float minimum -/
  | vfmin (d a b : VIdx) (f : FmtDesc)
  /-- VFMAX, R174: Element-wise float maximum -/
  | vfmax (d a b : VIdx) (f : FmtDesc)
  /-- VFABS, R174: Clears the sign of float elements -/
  | vfabs (d a : VIdx) (f : FmtDesc)
  /-- VFNEG, R174: Inverts the sign of float elements -/
  | vfneg (d a : VIdx) (f : FmtDesc)
  /-- VFCMP, R174: Element-wise float compare into integer codes -/
  | vfcmp (d a b : VIdx) (f : FmtDesc)
  /-- VCVT, R177: Converts source elements densely to a destination format -/
  | vcvt (d a : VIdx) (dst src : FmtDesc)
  /-- VPACK, R177: Converts element 0 of each lane and packs the results -/
  | vpack (d a : VIdx) (dst src : FmtDesc)
  /-- VUNPACK, R177: Converts up to 8 elements, one per lane -/
  | vunpack (d a : VIdx) (dst src : FmtDesc)
  /-- VRCP, R179: 12-bit reciprocal approximation of FP32 lanes -/
  | vrcp (d a : VIdx)
  /-- VRSQ, R179: 12-bit reciprocal square root approximation -/
  | vrsq (d a : VIdx)
  /-- VEXP2, R181: Correctly rounded 2^x of FP32 lanes -/
  | vexp2 (d a : VIdx)
  /-- VLOG2, R181: Correctly rounded log2 of FP32 lanes -/
  | vlog2 (d a : VIdx)
  /-- VRCPSTEP, R180: One Newton step toward the reciprocal -/
  | vrcpstep (d a b : VIdx)
  /-- VRSQSTEP, R180: One Newton step toward the reciprocal square root -/
  | vrsqstep (d a b : VIdx)
  /-- VSUM, R183: Sums all elements into lane 0 -/
  | vsum (d a : VIdx) (f : FmtDesc)
  /-- VMAXR, R183: Finds the greatest element and its index -/
  | vmaxr (d a : VIdx) (f : FmtDesc)
  /-- VPERM, R184: Permutes lanes by indices in vb -/
  | vperm (d a b : VIdx)
  /-- VBCAST, R184: Broadcasts element i to all elements of 8 lanes -/
  | vbcast (d a : VIdx) (i : BitVec 5) (f : FmtDesc)
  /-- VBFLY, R184: Butterfly sums and differences at distance 2^s -/
  | vbfly (d a : VIdx) (k : BitVec 3) (f : FmtDesc)
  /-- VLEN, R184: Copies all 8 lanes and sets the length to n -/
  | vlen (d a : VIdx) (n : BitVec 5)
  /-- VBSCALE, R186: Folds a running absolute maximum and derives an E8M0 scale -/
  | vbscale (d a b : VIdx) (f : FmtDesc)
  /-- VQUANT, R187: Quantises FP32 lanes to a narrow format with a scale -/
  | vquant (d a b : VIdx) (f : FmtDesc)
  /-- VDEQUANT, R187: Dequantises narrow elements to FP32 lanes with a scale -/
  | vdequant (d a b : VIdx) (f : FmtDesc)
  /-- VSMERGE, R188: Merges two partial softmax states -/
  | vsmerge (d a b : VIdx)
  /-- VDICE, R190: Draws counter-based random values for each index lane -/
  | vdice (d a : VIdx) (s : BitVec 5) (f32 : Bool)
  /-- VCSC, R191: Converts pixel colours by a 3x3 matrix and offsets -/
  | vcsc (d a b : VIdx)
  /-- VNORM, R192: Normalises UINT8 channels with per-channel mean and scale -/
  | vnorm (d a b : VIdx) (f : FmtDesc)
  /-- RECV, R150: Takes the oldest packet of a channel into a v register, raw or widened -/
  | recv (d : VIdx) (c : ChIdx) (g : Option (BitVec 3)) (p : PIdx)
  /-- PEEK, R150: Reads the oldest packet of a channel without removing it -/
  | peek (d : VIdx) (c : ChIdx) (g : Option (BitVec 3)) (p : PIdx)
  /-- SEND, R154: Places a packet from a v register in an out-queue -/
  | send (q : BitVec 3) (a : VIdx) (psn inv : Bool) (p : PIdx)
  /-- SENDX, R154: Places 1 or 2 lanes from an x register in an out-queue -/
  | sendx (q : BitVec 3) (a : XIdx) (psn inv : Bool) (p : PIdx) (w : Bool)
  /-- DROP, R153: Removes the oldest packet of a QUEUE channel and returns a credit -/
  | drop (c : ChIdx)
  /-- CLEN, R153: Reads the occupancy and oldest header of a channel -/
  | clen (d : XIdx) (c : ChIdx)
  /-- HND_END, R20: Ends the activation, leaving the handler IDLE or RUNNABLE -/
  | hndEnd
  /-- HND_MASK, R157: Masks a handler from selection -/
  | hndMask (a : XIdx)
  /-- HND_UNMASK, R157: Unmasks a handler -/
  | hndUnmask (a : XIdx)
  /-- HND_PRIO, R157: Sets a handler's live priority -/
  | hndPrio (a b : XIdx)
  /-- HND_BIND, R158: Moves a channel's live target to another handler -/
  | hndBind (a b : XIdx)
  /-- HND_SELF, R157: Writes the running handler's index -/
  | hndSelf (d : XIdx)
  /-- CTL_DONE, R160: Sends a one-lane done token to a controller parent -/
  | ctlDone (q : BitVec 3) (a : XIdx)
  /-- CTL_PERMIT, R160: Sends a two-lane permit to a controller child -/
  | ctlPermit (q : BitVec 3) (a b : XIdx)
  /-- CTL_WAIT, R160: Takes a 1- or 2-lane token into an x register -/
  | ctlWait (d : XIdx) (c : ChIdx)
  /-- ARG_SET, R161: Requests replacement of a configuration constant of a board cell -/
  | argSet (a : XIdx) (b : VIdx)
  /-- CFG_LOAD, R162: Asks the loader to load an image over a board in drain or graceful mode -/
  | cfgLoad (d a b : XIdx)
  /-- CFG_DRAIN, R164: Loads the drain configuration over a board -/
  | cfgDrain (d b : XIdx)
  /-- RLD, R355: Remote load from another package into a register or cell store -/
  | rld (d a b : XIdx) (u : Bool) (z : BitVec 3)
  /-- RST, R355: Remote store to another package -/
  | rst (d a b : XIdx) (z : BitVec 3)
  /-- RST_O, R359: Ordered remote flag store held until earlier writes are performed -/
  | rstO (d a b : XIdx) (z : BitVec 2)
  /-- RFENCE, R371: Waits until earlier remote writes are acknowledged or failed and returns a status -/
  | rfence (d : XIdx)
  /-- MCRED, R366: Contributes elements to the next round of a switch reduction group -/
  | mcred (d a b : XIdx)
  /-- GRP_SET, R365: Installs or removes a reduction group from a descriptor -/
  | grpSet (d a b : XIdx)
  /-- RAMO, R362: Invokes a recipe as a remote atomic, returning or reducing -/
  | ramo (d a b : XIdx) (w ret : Bool) (n : BitVec 6)
  /-- CV_OPEN, R386: Opens a conversation at a home package from a protocol image -/
  | cvOpen (d a b : XIdx)
  /-- CV_BIND, R387: Binds a role to an endpoint channel of the cell -/
  | cvBind (d a b : XIdx)
  /-- CV_SEND, R388: Sends a message turn and parks for the verdict -/
  | cvSend (d a : XIdx) (b : VIdx)
  /-- CV_RECV, R389: Takes a conversation message from an endpoint channel -/
  | cvRecv (d : VIdx) (a : XIdx) (c : ChIdx) (p : PIdx)
  /-- CV_CHOOSE, R388: Sends a branch choice and parks for the verdict -/
  | cvChoose (d a : XIdx)
  /-- CV_OFFER, R389: Takes a choice or break notice header into an x register -/
  | cvOffer (d a : XIdx) (c : ChIdx)
  /-- CV_DELEG, R390: Hands a role to another endpoint -/
  | cvDeleg (d a b : XIdx)
  /-- CV_CLOSE, R391: Closes a conversation or unbinds the role after a break -/
  | cvClose (d a : XIdx)
  /-- CV_STATE, R392: Asks the home for the state word, optionally when a wanted state is reached -/
  | cvState (d a b : XIdx)
  /-- TD_BAR, R407: Runs the epoch barrier of the trust domain -/
  | tdBar (d a : XIdx)
  /-- TD_STAT, R408: Returns the trust domain status word -/
  | tdStat (d : XIdx)
  /-- NOP, R103: Does nothing -/
  | nop
  /-- TRAP, R104: Raises a trap condition on purpose when a predicate holds -/
  | trap (c e : BitVec 5) (p : PIdx)
  /-- ERET, R106: Returns from a trap handler to KEPC -/
  | eret
  /-- FAULT, R107: Ends the fabric load with a fault code -/
  | fault (c : BitVec 5)
  /-- BRK, R105: Raises BREAKPOINT -/
  | brk
  /-- CSRR, R108: Reads a k-register -/
  | csrr (d : XIdx) (k : BitVec 9)
  /-- CSRW, R108: Writes a k-register, returning the old value -/
  | csrw (d a : XIdx) (k : BitVec 9)
  /-- CSRS, R108: Sets bits of a k-register -/
  | csrs (d a : XIdx) (k : BitVec 9)
  /-- CSRC, R108: Clears bits of a k-register -/
  | csrc (d a : XIdx) (k : BitVec 9)
  -- engine commands (R62, R71)
  /-- MX_LD, R275: Loads a tile register from memory, plain or transposed -/
  | mxLd (h : CmdHead) (w1 w2 w3 : W32)
  /-- MX_ST, R275: Stores a tile register to memory -/
  | mxSt (h : CmdHead) (w1 w2 w3 : W32)
  /-- MX_MMA, R277: Multiply-accumulates two tiles into accumulator entries -/
  | mxMma (h : CmdHead) (w1 w2 w3 : W32)
  /-- MX_MV, R278: Streams weight rows past vectors into accumulator entries -/
  | mxMv (h : CmdHead) (w1 w2 w3 : W32)
  /-- MX_ZERO, R279: Writes zero to a rectangle of accumulator entries -/
  | mxZero (h : CmdHead) (w1 w2 w3 : W32)
  /-- MX_DRAIN, R281: Converts accumulator rows to a format and writes them to memory -/
  | mxDrain (h : CmdHead) (w1 w2 w3 : W32)
  /-- MX_SMAX, R283: Online softmax step or final normalisation over accumulator rows -/
  | mxSmax (h : CmdHead) (w1 w2 w3 : W32)
  /-- MX_ACCLD, R284: Copies cell-store words into accumulator entries -/
  | mxAccld (h : CmdHead) (w1 w2 w3 : W32)
  /-- MX_ACCST, R284: Copies accumulator entries into cell store -/
  | mxAccst (h : CmdHead) (w1 w2 w3 : W32)
  /-- MX_LOOP, R285: Captures the next body commands into a free-running section -/
  | mxLoop (h : CmdHead) (w1 w2 w3 : W32)
  /-- CP_ND, R293: Copies a tensor of up to seven dimensions, locally or remotely -/
  | cpNd (h : CmdHead) (w1 w2 w3 : W32)
  /-- CP_GATHER, R293: Copies with the outer dimension indexed by a list -/
  | cpGather (h : CmdHead) (w1 w2 w3 : W32)
  /-- CP_FILL, R293: Fills a tensor with a pattern -/
  | cpFill (h : CmdHead) (w1 w2 w3 : W32)
  /-- KV_WALK, R298: Opens or ends a walk over a string of KV pages -/
  | kvWalk (h : CmdHead) (w1 w2 w3 : W32)
  /-- KV_LDK, R300: Loads key slabs of the cursor page, rotated, with a bias row -/
  | kvLdk (h : CmdHead) (w1 w2 w3 : W32)
  /-- KV_LDV, R300: Loads value slabs of the cursor page -/
  | kvLdv (h : CmdHead) (w1 w2 w3 : W32)
  /-- KV_PAGEIN, R304: Copies a page from the far tier and sets TIER to 0 -/
  | kvPagein (h : CmdHead) (w1 w2 w3 : W32)
  /-- KV_FREE, R305: Frees pages below a low edge from the front of a string -/
  | kvFree (h : CmdHead) (w1 w2 w3 : W32)
  /-- SK_SCORE, R306: Scores pages by key sketches into a survivor bitmap -/
  | skScore (h : CmdHead) (w1 w2 w3 : W32)
  /-- CH_RUN, R195: Runs elements through a chain of up to eight operations -/
  | chRun (h : CmdHead) (w1 w2 w3 : W32)
  /-- GS_ARM, R286: Adds to a section's pending count -/
  | gsArm (h : CmdHead) (w1 w2 w3 : W32)
  /-- GS_WAIT, R286: Completes when a section's count is zero and no loop is pending -/
  | gsWait (h : CmdHead) (w1 w2 w3 : W32)
  -- hardware steps (the table's rows without an encoding)
  /-- VALUE_LANDING, R15: A long-latency result lands, the register becomes FULL and its waiters wake -/
  | valueLanding (c : CellId) (k : Nat)
  /-- ACCESS_PERFORMED, R228: An access reaches its ordering point, clearing its scoreboard slot and advancing fences -/
  | accessPerformed (c : CellId) (k : Nat)
  /-- MEMORY_FLAGS_WRITE, R247: The home ORs an atomic's flags into the memory-flags word -/
  | memoryFlagsWrite (k : Nat)
  /-- RESUME_DOORBELL, R208: A write of a context's resume doorbell makes its stalled accesses walk again -/
  | resumeDoorbell (via : HostPath) (ctx : BitVec 6)
  /-- HANDLER_SELECTION, R145: The free core selects the next RUNNABLE unmasked handler -/
  | handlerSelection (c : CellId)
  /-- AGE_ADVANCE, R145: A handler's pass count reaches 4096 and its age advances -/
  | ageAdvance (c : CellId) (h : BitVec 6)
  /-- TOKEN_ARRIVAL, R117: A packet arrives at a channel, merging or taking a place and firing its handler -/
  | tokenArrival (k : Arrival)
  /-- PACKET_DEPARTURE, R123: A packet leaves its out-queue in its slot, spending a credit -/
  | packetDeparture (c : CellId) (q : BitVec 3) (slot : BitVec 8)
  /-- CREDIT_RETURN, R123: A credit arrives back at an out-queue -/
  | creditReturn (k : Nat)
  /-- CONTROLLER_NODE_TOKEN, R141: A controller node takes a permit or done token and sends permits or done -/
  | controllerNodeToken (c : CellId) (n : BitVec 2) (ch : ChIdx)
  /-- ARBITER_NODE_TOKEN, R142: An arbiter node takes a request, reply or release and grants or forwards -/
  | arbiterNodeToken (c : CellId) (n : BitVec 2) (reply : Bool)
  /-- GENERATOR_NODE_TOKEN, R143: A generator node takes an index token and sends four random lanes -/
  | generatorNodeToken (c : CellId) (n : BitVec 2) (ch : ChIdx)
  /-- CONSTANT_INSTALL, R161: The last accepted arg.set constant replaces the held constant at a round boundary -/
  | constantInstall (c : CellId) (ch : ChIdx)
  /-- ENGINE_COMPLETION, R64: An engine command completes and reports by full/empty, token or counter -/
  | engineCompletion (c : CellId) (e : Engine)
  /-- COMPLETION_TOKEN_ENTRY, R66: A completion token held for space enters its channel -/
  | completionTokenEntry (c : CellId) (e : Engine)
  /-- LOOP_TAKE, R285: An mx.loop at the queue head takes a non-zero pending count and runs its body -/
  | loopTake (c : CellId)
  /-- TIER_POLL, R302: The walker rereads TIER after its poll interval expires -/
  | tierPoll (c : CellId) (w : BitVec 2)
  /-- LOAD_ACCEPTANCE, R134: The loader accepts a checked cfg.load and begins the drain phase -/
  | loadAcceptance (k : Nat)
  /-- SWITCH_OVER, R134: Slot tables change at a round boundary and the new load first fires -/
  | switchOver (k : Nat)
  /-- BOARD_QUIESCENT, R163: A board becomes quiescent and a graceful load proceeds -/
  | boardQuiescent (k : Nat)
  /-- JOIN, R215: The home stream unit gives a tether slot to a cell or the host -/
  | join (c : CellId) (k : Nat)
  /-- LEAVE, R215: The home stream unit frees a slot and recomputes TAIL -/
  | leave (c : CellId) (k : Nat)
  /-- RELEASE, R215: The home stream unit advances a tether and TAIL, waking window parks -/
  | release (c : CellId) (k : Nat)
  /-- PUBLISH, R215: The home stream unit advances HEAD, waking head parks -/
  | publish (c : CellId) (k : Nat)
  /-- CLOSE, R215: The home stream unit marks the stream closed -/
  | close (c : CellId) (k : Nat)
  /-- STREAM_BIND, R212: The home checks a record and frame table and binds or refuses it -/
  | streamBind (c : CellId) (k : Nat)
  /-- RECORD_FETCH, R266: A cell's stream window unit receives a fetched record, evicting the least recent -/
  | recordFetch (c : CellId) (stream : BitVec 15)
  /-- OVERFLOW_RECORD_PUBLISH, R225: A record waiting in the overflow buffer is published when space frees -/
  | overflowRecordPublish (ctx : BitVec 6)
  /-- APERTURE_BIND, R220: A host write of BIND attaches or detaches an aperture slot -/
  | apertureBind (via : HostPath) (slot : Byte) (val : Word)
  /-- APERTURE_HEAD, R220: A host write of HEAD publishes a host-produced stream -/
  | apertureHead (via : HostPath) (slot : Byte) (val : Word)
  /-- APERTURE_TETHER, R220: A host write of TETHER releases slot 7 -/
  | apertureTether (via : HostPath) (slot : Byte) (val : Word)
  /-- APERTURE_DATA_READ, R221: A host read of stream data is performed or refused with Completer Abort -/
  | apertureDataRead (via : HostPath) (slot : Byte) (off : BitVec 16) (n : Nat)
  /-- APERTURE_DATA_WRITE, R221: A host write of stream data is performed or discarded with a refusal record -/
  | apertureDataWrite (via : HostPath) (slot : Byte) (off : BitVec 16) (data : List Byte)
  /-- FAULT_ACCEPTANCE, R332: The sequencer accepts a fault, freezes the board, publishes the record and drains the gang -/
  | faultAcceptance (b : Nat)
  /-- WATCHDOG_EXPIRY, R337: The board's watchdog count reaches the limit and the board faults -/
  | watchdogExpiry (b : Nat)
  /-- BOARD_RELEASE, R338: The occupancy tree reads not busy twice and the board is released -/
  | boardRelease (b : Nat)
  /-- LAUNCH_RECORD_READ, R320: The sequencer reads and checks a launch record and its tables -/
  | launchRecordRead (ctx : BitVec 6) (prio : BitVec 4)
  /-- ALLOCATOR_ACTION, R318: The allocator takes candidates in order and admits the first that fits -/
  | allocatorAction
  /-- CANDIDATE_RESERVED, R319: A candidate passed over 64 times becomes reserved -/
  | candidateReserved (ctx : BitVec 6) (prio : BitVec 4)
  /-- NEXT_LOAD, R324: The sequencer starts the next load of a graph once the board is quiescent -/
  | nextLoad (l : Nat) (m : BitVec 2)
  /-- CLASSIFICATION, R322: A load is classified after 65,536 counted cycles -/
  | classification (b : Nat) (lines : Nat)
  /-- LAUNCH_COMPLETION, R327: A launch completes, boards are released and a completion record is published -/
  | launchCompletion (l : Nat)
  /-- PREEMPTION_SAVE, R339: The collector writes the save area, releases boards and publishes the acknowledgement -/
  | preemptionSave (l : Nat)
  /-- PREEMPTION_TIMEOUT, R341: Pre-emption exceeds its limit and the launch ends with WATCHDOG -/
  | preemptionTimeout (l : Nat)
  /-- LINK_DOWN, R351: A link receiver sees silence for the down time and takes the link down -/
  | linkDown (port : BitVec 5)
  /-- PATH_DOWN_NOTICE, R351: A source switch receives a path-down notice and marks paths dead -/
  | pathDownNotice (first : Byte × BitVec 2) (others : List (Byte × BitVec 2))
  /-- REMOTE_REQUEST_ARRIVAL, R361: A request reaches its target, is filtered and performed, held or refused -/
  | remoteRequestArrival (src : Byte) (r : RemoteReq)
  /-- REMOTE_ACKNOWLEDGEMENT, R360: An acknowledgement of a remote request reaches the source -/
  | remoteAcknowledgement (target : Byte) (head : ReplyHead) (poison : Bool)
  /-- HOLD_NOTICE, R356: A hold notice reaches the source and defers resends -/
  | holdNotice (target : Byte) (head : ReplyHead)
  /-- REMOTE_REPLY, R355: A reply to rld or ramo.r reaches the source and lands -/
  | remoteReply (target : Byte) (head : ReplyHead) (r : RemoteAnswer)
  /-- NEGATIVE_NOTICE, R405: A negative notice makes the source resend at once -/
  | negativeNotice (target : Byte) (packet : RefusedPacket)
  /-- RESEND_TIMEOUT, R360: A request unanswered for the resend interval is resent -/
  | resendTimeout (target : Byte) (seq : BitVec 48)
  /-- PEER_FAILURE, R369: The link timeout expires and the peer is declared failed with a record -/
  | peerFailure (target : Byte) (cause : BitVec 2)
  /-- ORDERED_FLAG_RELEASE, R359: A held rst.o is performed once the counts cover its S values -/
  | orderedFlagRelease (src : Byte) (seq : BitVec 48)
  /-- LINK_RUN_TAG, R368: A run's integrity tag arrives and is checked -/
  | linkRunTag (port : BitVec 5) (good : Bool)
  /-- RUN_END, R368: A run ends early after 16 idle base-die cycles and its tag is sent -/
  | runEnd (port : BitVec 5)
  /-- GROUP_CONTRIBUTION, R366: The home takes a contribution and, when complete, computes and writes the round -/
  | groupContribution (src : Byte) (r : RemoteReq)
  /-- GROUP_TIMEOUT, R367: The absence timeout expires and the home closes the round with a mask -/
  | groupTimeout (ctx : BitVec 6) (g : Byte)
  /-- CONV_OPEN_REQUEST, R386: The home allocates an entry for a protocol image or refuses -/
  | convOpenRequest (src : Byte) (r : RemoteReq)
  /-- CONV_BIND_REQUEST, R387: The home binds a role to an endpoint -/
  | convBindRequest (src : Byte) (r : RemoteReq)
  /-- TURN_REQUEST, R388: The home decides a send or choice verdict and delivers the message -/
  | turnRequest (src : Byte) (r : RemoteReq)
  /-- DELEGATION_REQUEST, R390: The home moves a role to a new endpoint and sends a notice -/
  | delegationRequest (src : Byte) (r : RemoteReq)
  /-- CLOSE_REQUEST, R391: The home closes, breaks or unbinds for a close -/
  | closeRequest (src : Byte) (r : RemoteReq)
  /-- STATE_REQUEST, R392: The home answers a state request now or when the wanted state is reached -/
  | stateRequest (src : Byte) (r : RemoteReq)
  /-- MESSAGE_DELIVERY, R383: A buffered message enters an endpoint channel when a credit or place is available -/
  | messageDelivery (d : Delivery)
  /-- CONVERSATION_CREDIT, R383: A freed endpoint place returns a credit to the home -/
  | conversationCredit (entry : BitVec 12) (role : BitVec 3) (pkg : Byte) (cell : CellId) (ch : ChIdx)
  /-- CONVERSATION_BREAK, R395: The home breaks a conversation, discards buffers and sends notices -/
  | conversationBreak (entry : BitVec 12) (role : BitVec 3) (e : Endpoint)
  /-- BARRIER_MESSAGE, R407: A DRAINED or READY message arrives and, when all are in, the epoch switches -/
  | barrierMessage (src : Byte) (ready : Bool) (head : ReplyHead)
  /-- GET_VERSION, R401: SPDM version request answered by the security engine -/
  | getVersion (who : BitVec 9)
  /-- GET_CAPABILITIES, R401: SPDM capabilities request -/
  | getCapabilities (who : BitVec 9)
  /-- NEGOTIATE_ALGORITHMS, R401: SPDM algorithm negotiation -/
  | negotiateAlgorithms (who : BitVec 9) (offer : AlgOffer)
  /-- GET_DIGESTS, R401: SPDM certificate digest request -/
  | getDigests (who : BitVec 9)
  /-- GET_CERTIFICATE, R401: SPDM certificate chain request -/
  | getCertificate (who : BitVec 9) (slot : BitVec 4)
  /-- CHALLENGE, R401: SPDM challenge authentication -/
  | challenge (who : BitVec 9)
  /-- GET_MEASUREMENTS, R402: SPDM measurement request -/
  | getMeasurements (who : BitVec 9) (index : Byte)
  /-- KEY_EXCHANGE, R401: SPDM session key exchange -/
  | keyExchange (who : BitVec 9)
  /-- FINISH, R401: SPDM session finish -/
  | finish (who : BitVec 9)
  /-- END_SESSION, R401: SPDM session end -/
  | endSession (who : BitVec 9)
  /-- KEY_UPDATE, R401: SPDM session key update -/
  | keyUpdate (who : BitVec 9)
  /-- HEARTBEAT, R401: SPDM session heartbeat -/
  | heartbeat (who : BitVec 9)
  /-- IDE_KM, R410: Vendor-defined IDE key management programs an IDE stream -/
  | ideKm (fn : BitVec 5) (key : BitVec 256)
  /-- LOCK_INTERFACE_REQUEST, R411: Locks a TDISP interface's configuration and takes measurement 6 -/
  | lockInterfaceRequest (vf : BitVec 5)
  /-- START_INTERFACE_REQUEST, R411: Moves a locked interface to RUN -/
  | startInterfaceRequest (vf : BitVec 5)
  /-- STOP_INTERFACE_REQUEST, R412: Starts the scrub of an interface's contexts -/
  | stopInterfaceRequest (vf : BitVec 5)
  /-- SCRUB_COMPLETE, R412: The scrub ends and the interface returns to CONFIG_UNLOCKED -/
  | scrubComplete (vf : BitVec 5)
  /-- FROZEN_REGISTER_WRITE, R411: A configuration write changing a frozen register sends interfaces to ERROR -/
  | frozenRegisterWrite (vf : BitVec 5) (reg : FrozenReg) (val : Word)
  /-- IDE_INTEGRITY_FAILURE, R411: An IDE integrity failure sends the interface to ERROR -/
  | ideIntegrityFailure (vf : BitVec 5)
  /-- TRIP_CLEAR, R415: A W1C write clears STATE.TRIP -/
  | tripClear
  /-- REGISTER_WRITE, R415: A host write to a register with no behaviour of its own -/
  | registerWrite (via : HostPath) (slot : Option Byte) (off : BitVec 16) (val : Word)
  /-- MAILBOX_COMPLETION, R415: A mailbox operation ends, clearing BUSY and writing MBSTAT -/
  | mailboxCompletion
  /-- CONTEXT_SET_UP, R312: Mailbox operation 1 sets up a context from DESC -/
  | contextSetUp
  /-- CONTEXT_TEARDOWN, R416: Mailbox operation 2 tears a context down -/
  | contextTeardown
  /-- TLB_SHOOTDOWN, R209: Mailbox operation 3 removes a context's translations from every TLB -/
  | tlbShootdown
  /-- PRE_EMPTION, R339: Mailbox operation 4 requests pre-emption of a launch -/
  | preEmption
  /-- ROUTE_ENTRY, R350: Mailbox operation 5 writes a route table path -/
  | routeEntry
  /-- PATH_REVIVE, R351: Mailbox operation 6 revives a dead path and releases held writes -/
  | pathRevive
  /-- PEER_CLEAR, R369: Mailbox operation 7 clears this package's side of a pair -/
  | peerClear
  /-- LINK_SETTINGS, R416: Mailbox operation 8 sets link timeout, resend interval and skid mode -/
  | linkSettings
  /-- WATCHDOG_LIMIT, R337: Mailbox operation 9 sets the watchdog limit -/
  | watchdogLimit
  /-- PACKAGE_NUMBER, R416: Mailbox operation 10 sets KDOM.PKG -/
  | packageNumber
  /-- PENDING_MEMBERSHIP, R406: Mailbox operation 11 writes the pending membership and epoch -/
  | pendingMembership
  /-- POWER_STATE_PS0, R417: Power operation PS0 sets the clock and ungates all blocks -/
  | powerStatePs0
  /-- POWER_STATE_PS1, R417: Power operation PS1 clock-gates the blocks of the mask -/
  | powerStatePs1
  /-- POWER_STATE_PS2, R417: Power operation PS2 turns the fabric dies off with HBM in self-refresh -/
  | powerStatePs2
  /-- POWER_STATE_PS3, R417: Power operation PS3 turns the module off -/
  | powerStatePs3
  /-- CLOCK_RESTART, R417: The arithmetic clock restarts after a clock change -/
  | clockRestart
  /-- THERMAL_TRIP, R418: An over-temperature input turns the module off and records the source -/
  | thermalTrip (src : BitVec 3)
  /-- POWER_ON, R419: Applied power starts bring-up at STAGE 1 -/
  | powerOn
  /-- STAGE_ADVANCE, R419: A bring-up stage completes and STAGE advances or fails -/
  | stageAdvance (ok : Bool)
  /-- RESERVED_ENCODING, R68: A word whose major opcode, fn value or field is reserved issues and faults with ILLEGAL -/
  | reservedEncoding (word : W32)
  /-- HOLD_EXPIRY, R17: An instruction or command held at issue for 8 cycles without its condition being met parks the activation -/
  | holdExpiry (c : CellId)
  /-- LOOKAHEAD_FILL, R299: A string walker reads the header of a page entering its lookahead, posting a tier miss and starting a page-in when needed -/
  | lookaheadFill (c : CellId) (w : BitVec 2)
  /-- REMOTE_REQUEST_REFUSAL, R357: A refusal with ACCESS or MISALIGNED from a target reaches the source and raises a fault on the issuing board -/
  | remoteRequestRefusal (target : Byte) (head : ReplyHead) (misaligned : Bool)
  /-- MSIX_VECTOR_UNMASK, R414: A host write that unmasks an MSI-X vector sends the message whose pending bit is set -/
  | msixVectorUnmask (vf : BitVec 5) (vec : Bool)
  deriving DecidableEq, Repr

end Sys2Proof
end

