-- ==== Sys2Proof/WellFormed.lean ====
section
/-! DEFINITION. Well-formedness: the limits that R55 step 1 puts on the operand fields of an instruction, beyond what
their types say. A decoder answers only well-formed instructions; steps of the hardware carry no such limits. -/

namespace Sys2Proof

/-- The code of a format descriptor (R31). -/
def FmtDesc.code (f : FmtDesc) : Nat := (f.extractLsb' 0 5).toNat

/-- The variant bit S (R31). -/
def FmtDesc.s (f : FmtDesc) : Bool := f.getLsbD 6

/-- The variant bit I (R31). -/
def FmtDesc.i (f : FmtDesc) : Bool := f.getLsbD 5

/-- Codes 17-23, the P3109 formats, which alone may carry variant bits (R31). -/
def FmtDesc.isP3109 (f : FmtDesc) : Bool := 17 ≤ f.code && f.code ≤ 23

/-- The descriptors R32 does not refuse. -/
def FmtDesc.valid (f : FmtDesc) : Bool := f.isP3109 || (f.code ≤ 13 && !f.s && !f.i)

/-- The integer codes 0-7 (R31). -/
def FmtDesc.isInt (f : FmtDesc) : Bool := f.valid && f.code ≤ 7

/-- The float descriptors: codes 8-13 and 17-23 (R167 VF). -/
def FmtDesc.isFloat (f : FmtDesc) : Bool := f.valid && 8 ≤ f.code

/-- The narrow float descriptors: codes 11-13 and 17-23 (R167 VMX). -/
def FmtDesc.isNarrow (f : FmtDesc) : Bool := f.valid && 11 ≤ f.code

/-- The k-register numbers R27 lists. -/
def csrListed (k : BitVec 9) : Bool :=
  k ≤ 0x010#9 || (0x018#9 ≤ k && k ≤ 0x01F#9) || (0x020#9 ≤ k && k ≤ 0x027#9) || (0x030#9 ≤ k && k ≤ 0x03F#9)

/-- The scope of strong accesses, atomics and fences: 0-5 (R58, R70, R237). -/
def scopeOk (s : BitVec 3) : Bool := s ≤ 5#3

/-- A field of w + 1 bits at position p ends within 64 (R70, R92). -/
def fieldFits (w p : BitVec 6) : Bool := w.toNat + 1 + p.toNat ≤ 64

/-- An atomic: its scope, and d = 0 in the reduction form (R244). -/
def amoOk (d : XIdx) (ret : Bool) (scope : BitVec 3) : Bool := scopeOk scope && (ret || d == 0)

/-- A substituted word holds a register number and nothing else (R63). -/
def substWordOk (on : Bool) (w : W32) : Bool := !on || w.extractLsb' 5 27 == 0

/-- The head of a command and the words a substitution names (R62, R63). -/
def cmdOk (h : CmdHead) (w1 w2 w3 : W32) : Bool :=
  let pair := h.subst.getLsbD 3
  (if h.done == 2 then true else if h.done == 3 then h.chan.toNat ≤ 7 else h.chan == 0) &&
  !(pair && (h.subst.getLsbD 0 || h.subst.getLsbD 1)) &&
  substWordOk (h.subst.getLsbD 0 || pair) w1 && substWordOk (h.subst.getLsbD 1) w2 && (!pair || w2 == 0) &&
  substWordOk (h.subst.getLsbD 2) w3

/-- The limits on the fields of each instruction. -/
def Instr.wf : Instr → Bool
  | .extf _ _ w p | .extfs _ _ w p | .insf _ _ w p => fieldFits w p
  | .ldS _ _ sc _ _ _ _ | .stS _ _ sc _ _ _ _ => scopeOk sc
  | .amoAdd d _ _ _ r sc | .amoAnd d _ _ _ r sc | .amoOr d _ _ _ r sc | .amoXor d _ _ _ r sc
  | .amoMin d _ _ _ r sc | .amoMax d _ _ _ r sc | .amoMinu d _ _ _ r sc | .amoMaxu d _ _ _ r sc
  | .amoSwap d _ _ _ r sc => amoOk d r sc
  | .amoCas _ _ _ _ sc => scopeOk sc
  | .amoFaddF32 d _ _ r sc | .amoFaddBf16 d _ _ r sc | .amoFminF32 d _ _ r sc | .amoFmaxF32 d _ _ r sc => amoOk d r sc
  | .fence k sc => k != 3 && scopeOk sc
  | .sbwait m => m != 0
  | .vfadd _ _ _ f | .vfsub _ _ _ f | .vfmul _ _ _ f | .vfma _ _ _ f | .vfmin _ _ _ f | .vfmax _ _ _ f
  | .vfcmp _ _ _ f | .vfabs _ _ f | .vfneg _ _ f | .vnorm _ _ _ f => f.isFloat
  | .vcvt _ _ dst src | .vpack _ _ dst src | .vunpack _ _ dst src => dst.valid && src.valid
  | .vsum _ _ f | .vmaxr _ _ f | .vbcast _ _ _ f | .vbfly _ _ _ f => f.valid
  | .vlen _ _ n => n != 0 && n ≤ 8#5
  | .vbscale _ _ _ f | .vquant _ _ _ f | .vdequant _ _ _ f => f.isNarrow
  | .rld _ _ _ u z => z ≤ 5#3 && (!u || z ≤ 2#3)
  | .rst _ _ _ z => z ≤ 5#3
  | .ramo d _ _ w _ n => d ≤ 30#5 && (!w || n < 10#6)
  | .trap c _ _ => c != 0 && c ≤ 0x1D#5
  | .fault c => c ≤ 0x1D#5
  | .csrr _ k | .csrw _ _ k | .csrs _ _ k | .csrc _ _ k => csrListed k
  | .mxLd h u v w | .mxSt h u v w | .mxMma h u v w | .mxMv h u v w | .mxZero h u v w | .mxDrain h u v w
  | .mxSmax h u v w | .mxAccld h u v w | .mxAccst h u v w | .mxLoop h u v w | .cpNd h u v w | .cpGather h u v w
  | .cpFill h u v w | .kvWalk h u v w | .kvLdk h u v w | .kvLdv h u v w | .kvPagein h u v w | .kvFree h u v w
  | .skScore h u v w | .chRun h u v w | .gsArm h u v w | .gsWait h u v w => cmdOk h u v w
  | _ => true

end Sys2Proof
end

