-- ==== Sys2Proof/Decode.lean ====
section
/-! DEFINITION. The decoder of the instruction store's words (R54-R72), total and rejecting by name, and after it the
encoder, written from the same layouts. -/

namespace Sys2Proof

/-- Why a word is not an instruction (R55 step 1, R68). -/
inductive DecodeErr where
  /-- The major opcode is reserved (R67). -/
  | reservedMajor
  /-- The fn value, the operation field, the engine or the verb is reserved (R67, R71). -/
  | reservedFn
  /-- A field the instruction does not use is non-zero (R68). -/
  | unusedField
  /-- A reserved value stands in a field, a format descriptor among them (R32, R55, R63). -/
  | reservedValue
  /-- A command with fewer than four words (no word of an instruction store lacks them, R54). -/
  | truncated
  deriving DecidableEq, Repr

/-! ### Fields -/

/-- The major opcode, bits 31:26 (R54). -/
def fMajor (w : W32) : BitVec 6 := w.extractLsb' 26 6
/-- Field d of formats R, I and M, vd of V and VM, c of B (R56-R61). -/
def fD (w : W32) : BitVec 5 := w.extractLsb' 21 5
/-- Field a, base or va (R56-R60). -/
def fA (w : W32) : BitVec 5 := w.extractLsb' 16 5
/-- Field b or vb (R56, R60). -/
def fB (w : W32) : BitVec 5 := w.extractLsb' 11 5
/-- The immediate of format I (R57). -/
def fImm (w : W32) : BitVec 16 := w.extractLsb' 0 16
/-- The displacement of format B (R59). -/
def fDisp (w : W32) : BitVec 21 := w.extractLsb' 0 21
/-- The operation of format R, fn[5:0] (R56). -/
def fOp (w : W32) : BitVec 6 := w.extractLsb' 0 6
/-- The `.w` bit, fn[6] (R56). -/
def fW (w : W32) : BitVec 1 := w.extractLsb' 6 1
/-- The predicate, fn[9:7] (R56). -/
def fP (w : W32) : BitVec 3 := w.extractLsb' 7 3
/-- fn[10] (R56). -/
def fZ (w : W32) : BitVec 1 := w.extractLsb' 10 1
/-- The class, scope or window of format M and VM (R58, R61). -/
def fClass (w : W32) : BitVec 3 := w.extractLsb' 13 3
/-- The scoreboard slot set (R58, R61). -/
def fSet (w : W32) : BitVec 3 := w.extractLsb' 10 3
/-- The scoreboard slot waited on (R58, R61). -/
def fWait (w : W32) : BitVec 3 := w.extractLsb' 7 3
/-- The size of format M (R58). -/
def fSize (w : W32) : BitVec 2 := w.extractLsb' 5 2
/-- The offset of format M (R58). -/
def fOff (w : W32) : BitVec 5 := w.extractLsb' 0 5
/-- The operation of format V, fn[3:0] (R60). -/
def fVop (w : W32) : BitVec 4 := w.extractLsb' 0 4
/-- The variant bits of format V, fn[5:4] (R60). -/
def fVar (w : W32) : BitVec 2 := w.extractLsb' 4 2
/-- The format code of format V (R60). -/
def fFmt (w : W32) : BitVec 5 := w.extractLsb' 6 5
/-- The descriptor {fn[5], fn[4], fmt} of format V (R60). -/
def fDesc (w : W32) : FmtDesc := fVar w ++ fFmt w
/-- The source descriptor of VCVT: {fn[3], fn[2], vb} (R60). -/
def fSrcDesc (w : W32) : FmtDesc := w.extractLsb' 2 2 ++ fB w
/-- A bit as a Bool. -/
def bit (b : BitVec 1) : Bool := b == 1#1

/-! ### The decoder -/

/-- The instruction, unless a field it does not use is non-zero (R68). -/
def unlessUsed (bad : Bool) (i : Instr) : Except DecodeErr Instr := if bad then .error .unusedField else .ok i

/-- The file of a full/empty instruction (major 0x24, field b). -/
def fileOf (b : BitVec 5) : Option FeFile :=
  if b = 0 then some .x else if b = 1 then some .v else if b = 2 then some .word else none

/-- Major 0x01 (R67, R89). -/
def decodeAlu (w : W32) : Except DecodeErr Instr :=
  let d := fD w; let a := fA w; let b := fB w
  match (fOp w).toNat with
  | 0 => unlessUsed (fP w != 0 || fZ w != 0) (.add d a b (bit (fW w)))
  | 1 => unlessUsed (fP w != 0 || fZ w != 0) (.sub d a b (bit (fW w)))
  | 2 => unlessUsed (fW w != 0 || fP w != 0 || fZ w != 0) (.and d a b)
  | 3 => unlessUsed (fW w != 0 || fP w != 0 || fZ w != 0) (.or d a b)
  | 4 => unlessUsed (fW w != 0 || fP w != 0 || fZ w != 0) (.xor d a b)
  | 5 => unlessUsed (fW w != 0 || fP w != 0 || fZ w != 0) (.andn d a b)
  | 6 => unlessUsed (fW w != 0 || fP w != 0 || fZ w != 0) (.orn d a b)
  | 7 => unlessUsed (fP w != 0 || fZ w != 0) (.shl d a b (bit (fW w)))
  | 8 => unlessUsed (fP w != 0 || fZ w != 0) (.shr d a b (bit (fW w)))
  | 9 => unlessUsed (fP w != 0 || fZ w != 0) (.sra d a b (bit (fW w)))
  | 10 => unlessUsed (fP w != 0 || fZ w != 0) (.rotl d a b (bit (fW w)))
  | 11 => unlessUsed (fW w != 0 || fP w != 0 || fZ w != 0) (.min d a b)
  | 12 => unlessUsed (fW w != 0 || fP w != 0 || fZ w != 0) (.max d a b)
  | 13 => unlessUsed (fW w != 0 || fP w != 0 || fZ w != 0) (.minu d a b)
  | 14 => unlessUsed (fW w != 0 || fP w != 0 || fZ w != 0) (.maxu d a b)
  | 15 => unlessUsed (fP w != 0 || fZ w != 0) (.mul d a b (bit (fW w)))
  | 16 => unlessUsed (fW w != 0 || fP w != 0 || fZ w != 0) (.mulh d a b)
  | 17 => unlessUsed (fW w != 0 || fP w != 0 || fZ w != 0) (.mulhu d a b)
  | 18 => unlessUsed (fP w != 0 || fZ w != 0) (.div d a b (bit (fW w)))
  | 19 => unlessUsed (fP w != 0 || fZ w != 0) (.divu d a b (bit (fW w)))
  | 20 => unlessUsed (fP w != 0 || fZ w != 0) (.rem d a b (bit (fW w)))
  | 21 => unlessUsed (fP w != 0 || fZ w != 0) (.remu d a b (bit (fW w)))
  | 22 => unlessUsed (fW w != 0 || fP w != 0 || fZ w != 0) (.slt d a b)
  | 23 => unlessUsed (fW w != 0 || fP w != 0 || fZ w != 0) (.sltu d a b)
  | 24 => unlessUsed (b != 0 || fP w != 0 || fZ w != 0) (.clz d a (bit (fW w)))
  | 25 => unlessUsed (b != 0 || fP w != 0 || fZ w != 0) (.ctz d a (bit (fW w)))
  | 26 => unlessUsed (b != 0 || fP w != 0 || fZ w != 0) (.popc d a (bit (fW w)))
  | 27 => unlessUsed (b != 0 || fP w != 0 || fZ w != 0) (.bswap d a (bit (fW w)))
  | 28 => unlessUsed (fW w != 0 || fZ w != 0) (.sel d a b (fP w))
  | _ => .error .reservedFn

/-- Major 0x06 (R57, R91). -/
def decodeShiftImm (w : W32) : Except DecodeErr Instr :=
  let d := fD w; let a := fA w; let s : BitVec 6 := w.extractLsb' 0 6
  match (w.extractLsb' 6 10).toNat with
  | 0 => .ok (.shli d a s)
  | 1 => .ok (.shri d a s)
  | 2 => .ok (.srai d a s)
  | 3 => .error .reservedFn
  | _ => .error .unusedField

/-- Major 0x0A (R70). -/
def decodeField (w : W32) : Except DecodeErr Instr :=
  let d := fD w; let a := fA w; let width : BitVec 6 := w.extractLsb' 8 6; let p : BitVec 6 := w.extractLsb' 0 6
  let gap := w.extractLsb' 6 2 != 0
  match (w.extractLsb' 14 2).toNat with
  | 0 => unlessUsed (w.extractLsb' 11 3 != 0 || w.extractLsb' 3 3 != 0) (.lea d a (w.extractLsb' 6 5) (w.extractLsb' 0 3))
  | 1 => unlessUsed gap (.extf d a width p)
  | 2 => unlessUsed gap (.extfs d a width p)
  | 3 => unlessUsed gap (.insf d a width p)
  | _ => .error .reservedFn

/-- Major 0x0B (R67, R93). -/
def decodeCmp (w : W32) : Except DecodeErr Instr :=
  let a := fA w; let b := fB w; let p : PIdx := w.extractLsb' 21 3; let pa : PIdx := w.extractLsb' 16 3
  let pb : PIdx := w.extractLsb' 11 3; let hi := fW w != 0 || fP w != 0 || fZ w != 0 || w.extractLsb' 24 2 != 0
  let ha := hi || w.extractLsb' 19 2 != 0; let hb := ha || w.extractLsb' 14 2 != 0
  match (fOp w).toNat with
  | 0 => unlessUsed hi (.cmpEq p a b)
  | 1 => unlessUsed hi (.cmpNe p a b)
  | 2 => unlessUsed hi (.cmpLt p a b)
  | 3 => unlessUsed hi (.cmpGe p a b)
  | 4 => unlessUsed hi (.cmpLtu p a b)
  | 5 => unlessUsed hi (.cmpGeu p a b)
  | 6 => unlessUsed hb (.pand p pa pb)
  | 7 => unlessUsed hb (.por p pa pb)
  | 8 => unlessUsed hb (.pxor p pa pb)
  | 9 => unlessUsed (ha || b != 0) (.pnot p pa)
  | 10 => unlessUsed (ha || b != 0) (.pmov p pa)
  | _ => .error .reservedFn

/-- Major 0x16 (R96). -/
def decodeJump (w : W32) : Except DecodeErr Instr :=
  let d := fD w; let a := fA w; let b := fB w
  let hi := b != 0 || fW w != 0 || fP w != 0 || fZ w != 0
  match (fOp w).toNat with
  | 0 => unlessUsed (hi || d != 0) (.jr a)
  | 1 => unlessUsed hi (.jalr d a)
  | 2 => unlessUsed (hi || d != 0 || a != 0) .ret
  | _ => .error .reservedFn

/-- Major 0x21 (R70, R244). -/
def decodeAmo (w : W32) : Except DecodeErr Instr :=
  let d := fD w; let a := fA w; let b := fB w
  let sc : BitVec 3 := w.extractLsb' 5 3; let r := bit (w.extractLsb' 8 1); let wd := bit (w.extractLsb' 9 1); let z := fZ w != 0
  match (w.extractLsb' 0 5).toNat with
  | 0 => unlessUsed z (.amoAdd d a b wd r sc)
  | 1 => unlessUsed z (.amoAnd d a b wd r sc)
  | 2 => unlessUsed z (.amoOr d a b wd r sc)
  | 3 => unlessUsed z (.amoXor d a b wd r sc)
  | 4 => unlessUsed z (.amoMin d a b wd r sc)
  | 5 => unlessUsed z (.amoMax d a b wd r sc)
  | 6 => unlessUsed z (.amoMinu d a b wd r sc)
  | 7 => unlessUsed z (.amoMaxu d a b wd r sc)
  | 8 => unlessUsed z (.amoSwap d a b wd r sc)
  | 9 => if r then unlessUsed z (.amoCas d a b wd sc) else .error .reservedValue
  | 10 => unlessUsed (z || wd) (.amoFaddF32 d a b r sc)
  | 11 => unlessUsed (z || wd) (.amoFaddBf16 d a b r sc)
  | 12 => unlessUsed (z || wd) (.amoFminF32 d a b r sc)
  | 13 => unlessUsed (z || wd) (.amoFmaxF32 d a b r sc)
  | _ => .error .reservedFn

/-- Major 0x22 (R67, R249). -/
def decodeStream (w : W32) : Except DecodeErr Instr :=
  let d := fD w; let a := fA w; let b := fB w
  let hi := fW w != 0 || fP w != 0 || fZ w != 0
  match (fOp w).toNat with
  | 0 => unlessUsed hi (.sbind d a b)
  | 1 => unlessUsed (hi || b != 0) (.sjoin d a)
  | 2 => unlessUsed (hi || b != 0 || d != 0) (.sleave a)
  | 3 => unlessUsed (hi || d != 0) (.spub a b)
  | 4 => unlessUsed (hi || d != 0) (.srel a b)
  | 5 => unlessUsed (hi || b != 0) (.shead d a)
  | 6 => unlessUsed (hi || b != 0) (.stail d a)
  | 7 => unlessUsed (hi || b != 0 || d != 0) (.sclose a)
  | _ => .error .reservedFn

/-- Major 0x23 (R237). -/
def decodeFence (w : W32) : Except DecodeErr Instr :=
  let d := fD w; let a := fA w; let b := fB w
  let hi := fW w != 0 || fP w != 0 || fZ w != 0 || d != 0
  match (fOp w).toNat with
  | 0 => unlessUsed (hi || b != 0) (.fence (w.extractLsb' 19 2) (w.extractLsb' 16 3))
  | 1 => unlessUsed (hi || b != 0 || a != 0) .l1Inv
  | 2 => unlessUsed (hi || w.extractLsb' 13 3 != 0) (.sbwait (w.extractLsb' 11 2 ++ a))
  | 3 => unlessUsed (hi || w.extractLsb' 19 2 != 0) (.fenceEng (w.extractLsb' 16 3) b)
  | _ => .error .reservedFn

/-- Major 0x24 (R97, R102). -/
def decodeFe (w : W32) : Except DecodeErr Instr :=
  let d := fD w; let a := fA w; let b := fB w
  let hi := fW w != 0 || fP w != 0 || fZ w != 0
  match (fOp w).toNat with
  | 0 => match fileOf b with | some f => unlessUsed (hi || d != 0) (.feSet a f) | none => .error .reservedValue
  | 1 => match fileOf b with | some f => unlessUsed (hi || d != 0) (.feClr a f) | none => .error .reservedValue
  | 2 => match fileOf b with | some f => unlessUsed (hi || w.extractLsb' 24 2 != 0) (.feTest (w.extractLsb' 21 3) a f) | none => .error .reservedValue
  | 3 => if b = 0 then unlessUsed (hi || w.extractLsb' 22 4 != 0) (.feMode (bit (w.extractLsb' 21 1)) a false) else if b = 1 then unlessUsed (hi || w.extractLsb' 22 4 != 0) (.feMode (bit (w.extractLsb' 21 1)) a true) else .error .reservedValue
  | 4 => match fileOf b with | some f => unlessUsed (hi || d != 0) (.park a f) | none => .error .reservedValue
  | _ => .error .reservedFn

/-- Major 0x28 (R167, R171). -/
def decodeVi (w : W32) : Except DecodeErr Instr :=
  let d := fD w; let a := fA w; let b := fB w
  let f : BitVec 3 := w.extractLsb' 6 3; let big := fVar w != 0 || w.extractLsb' 9 2 != 0
  match (fVop w).toNat with
  | 0 => if big then .error .reservedValue else .ok (.vadd d a b f)
  | 1 => if big then .error .reservedValue else .ok (.vsub d a b f)
  | 2 => if big then .error .reservedValue else .ok (.vmul d a b f)
  | 3 => if big then .error .reservedValue else .ok (.vmin d a b f)
  | 4 => if big then .error .reservedValue else .ok (.vmax d a b f)
  | 5 => if big then .error .reservedValue else unlessUsed (b != 0) (.vabs d a f)
  | 6 => if big then .error .reservedValue else unlessUsed (b != 0) (.vneg d a f)
  | 7 => if fDesc w != 0 then .error .reservedValue else .ok (.vand d a b)
  | 8 => if fDesc w != 0 then .error .reservedValue else .ok (.vor d a b)
  | 9 => if fDesc w != 0 then .error .reservedValue else .ok (.vxor d a b)
  | 10 => if big then .error .reservedValue else .ok (.vshl d a b f)
  | 11 => if big then .error .reservedValue else .ok (.vshr d a b f)
  | 12 => if big then .error .reservedValue else .ok (.vsra d a b f)
  | 13 => if big then .error .reservedValue else .ok (.vcmp d a b f)
  | 14 => if big then .error .reservedValue else .ok (.vsel d a b f)
  | _ => .error .reservedFn

/-- Major 0x29 (R67, R173, R174). -/
def decodeVf (w : W32) : Except DecodeErr Instr :=
  let d := fD w; let a := fA w; let b := fB w
  let f := fDesc w
  match (fVop w).toNat with
  | 0 => .ok (.vfadd d a b f)
  | 1 => .ok (.vfsub d a b f)
  | 2 => .ok (.vfmul d a b f)
  | 3 => .ok (.vfma d a b f)
  | 4 => .ok (.vfmin d a b f)
  | 5 => .ok (.vfmax d a b f)
  | 6 => unlessUsed (b != 0) (.vfabs d a f)
  | 7 => unlessUsed (b != 0) (.vfneg d a f)
  | 8 => .ok (.vfcmp d a b f)
  | _ => .error .reservedFn

/-- Major 0x2A (R60). -/
def decodeVcvt (w : W32) : Except DecodeErr Instr :=
  let d := fD w; let a := fA w
  match (w.extractLsb' 0 2).toNat with
  | 0 => .ok (.vcvt d a (fDesc w) (fSrcDesc w))
  | 1 => .ok (.vpack d a (fDesc w) (fSrcDesc w))
  | 2 => .ok (.vunpack d a (fDesc w) (fSrcDesc w))
  | _ => .error .reservedFn

/-- Major 0x2B (R179-R182): FP32 only. -/
def decodeVsf (w : W32) : Except DecodeErr Instr :=
  let d := fD w; let a := fA w; let b := fB w
  if fDesc w != 8 then .error .reservedValue else
  match (fVop w).toNat with
  | 0 => unlessUsed (b != 0) (.vrcp d a)
  | 1 => unlessUsed (b != 0) (.vrsq d a)
  | 2 => unlessUsed (b != 0) (.vexp2 d a)
  | 3 => unlessUsed (b != 0) (.vlog2 d a)
  | 4 => .ok (.vrcpstep d a b)
  | 5 => .ok (.vrsqstep d a b)
  | _ => .error .reservedFn

/-- Major 0x2C (R183-R185). -/
def decodeVperm (w : W32) : Except DecodeErr Instr :=
  let d := fD w; let a := fA w; let b := fB w
  let f := fDesc w
  match (fVop w).toNat with
  | 0 => unlessUsed (b != 0) (.vsum d a f)
  | 1 => unlessUsed (b != 0) (.vmaxr d a f)
  | 2 => if f != 0 then .error .reservedValue else .ok (.vperm d a b)
  | 3 => .ok (.vbcast d a b f)
  | 4 => unlessUsed (w.extractLsb' 14 2 != 0) (.vbfly d a (w.extractLsb' 11 3) f)
  | 5 => if f != 0 then .error .reservedValue else .ok (.vlen d a b)
  | _ => .error .reservedFn

/-- Major 0x2D (R186-R189). -/
def decodeVmx (w : W32) : Except DecodeErr Instr :=
  let d := fD w; let a := fA w; let b := fB w
  let f := fDesc w
  match (fVop w).toNat with
  | 0 => .ok (.vbscale d a b f)
  | 1 => .ok (.vquant d a b f)
  | 2 => .ok (.vdequant d a b f)
  | 3 => if f != 8 then .error .reservedValue else .ok (.vsmerge d a b)
  | _ => .error .reservedFn

/-- Major 0x2E (R190): UINT32 or FP32. -/
def decodeVdice (w : W32) : Except DecodeErr Instr :=
  let d := fD w; let a := fA w; let b := fB w
  match (fVop w).toNat with
  | 0 => if fDesc w = 5 then .ok (.vdice d a b false) else if fDesc w = 8 then .ok (.vdice d a b true) else .error .reservedValue
  | _ => .error .reservedFn

/-- Major 0x2F (R191, R192). -/
def decodeVpre (w : W32) : Except DecodeErr Instr :=
  let d := fD w; let a := fA w; let b := fB w
  let f := fDesc w
  match (fVop w).toNat with
  | 0 => if f != 1 then .error .reservedValue else .ok (.vcsc d a b)
  | 1 => .ok (.vnorm d a b f)
  | _ => .error .reservedFn

/-- The element group of `recv` and `peek`: field b holds the mode in bits 4:3 and the group in bits 2:0 (R149). -/
def groupOf (b : BitVec 5) : Option (Option (BitVec 3)) :=
  let g := b.extractLsb' 0 3
  if b.extractLsb' 3 2 = 0#2 then (if g = 0 then some none else none)
  else if b.extractLsb' 3 2 = 1#2 then some (some g) else none

/-- Major 0x30 (R149-R156). -/
def decodeChannel (w : W32) : Except DecodeErr Instr :=
  let d := fD w; let a := fA w; let b := fB w
  match (fOp w).toNat with
  | 0 => match groupOf b with | some g => unlessUsed (fW w != 0 || fZ w != 0) (.recv d a g (fP w)) | none => .error .reservedValue
  | 1 => match groupOf b with | some g => unlessUsed (fW w != 0 || fZ w != 0) (.peek d a g (fP w)) | none => .error .reservedValue
  | 2 => unlessUsed (fW w != 0 || fZ w != 0 || w.extractLsb' 13 3 != 0 || w.extractLsb' 24 2 != 0) (.send (w.extractLsb' 21 3) a (bit (w.extractLsb' 12 1)) (bit (w.extractLsb' 11 1)) (fP w))
  | 3 => unlessUsed (fZ w != 0 || w.extractLsb' 13 3 != 0 || w.extractLsb' 24 2 != 0) (.sendx (w.extractLsb' 21 3) a (bit (w.extractLsb' 12 1)) (bit (w.extractLsb' 11 1)) (fP w) (bit (fW w)))
  | 4 => unlessUsed (fW w != 0 || fP w != 0 || fZ w != 0 || d != 0 || b != 0) (.drop a)
  | 5 => unlessUsed (fW w != 0 || fP w != 0 || fZ w != 0 || b != 0) (.clen d a)
  | _ => .error .reservedFn

/-- Major 0x31 (R157). -/
def decodeHandler (w : W32) : Except DecodeErr Instr :=
  let d := fD w; let a := fA w; let b := fB w
  let hi := fW w != 0 || fP w != 0 || fZ w != 0
  match (fOp w).toNat with
  | 0 => unlessUsed (hi || d != 0 || a != 0 || b != 0) .hndEnd
  | 1 => unlessUsed (hi || d != 0 || b != 0) (.hndMask a)
  | 2 => unlessUsed (hi || d != 0 || b != 0) (.hndUnmask a)
  | 3 => unlessUsed (hi || d != 0) (.hndPrio a b)
  | 4 => unlessUsed (hi || d != 0) (.hndBind a b)
  | 5 => unlessUsed (hi || a != 0 || b != 0) (.hndSelf d)
  | _ => .error .reservedFn

/-- Major 0x32 (R160). -/
def decodeController (w : W32) : Except DecodeErr Instr :=
  let d := fD w; let a := fA w; let b := fB w
  let hi := fW w != 0 || fP w != 0 || fZ w != 0
  let hq := hi || w.extractLsb' 24 2 != 0
  match (fOp w).toNat with
  | 0 => unlessUsed (hq || b != 0) (.ctlDone (w.extractLsb' 21 3) a)
  | 1 => unlessUsed hq (.ctlPermit (w.extractLsb' 21 3) a b)
  | 2 => unlessUsed (hi || b != 0) (.ctlWait d a)
  | _ => .error .reservedFn

/-- Major 0x33 (R161-R165). -/
def decodeConfig (w : W32) : Except DecodeErr Instr :=
  let d := fD w; let a := fA w; let b := fB w
  let hi := fW w != 0 || fP w != 0 || fZ w != 0
  match (fOp w).toNat with
  | 0 => unlessUsed (hi || d != 0) (.argSet a b)
  | 1 => unlessUsed hi (.cfgLoad d a b)
  | 2 => unlessUsed (hi || a != 0) (.cfgDrain d b)
  | _ => .error .reservedFn

/-- Major 0x34 (R354). -/
def decodeRemote (w : W32) : Except DecodeErr Instr :=
  let d := fD w; let a := fA w; let b := fB w
  let hi := fW w != 0 || fP w != 0 || fZ w != 0
  match (fOp w).toNat with
  | 0 => unlessUsed (fW w != 0) (.rld d a b (bit (fZ w)) (fP w))
  | 1 => unlessUsed (fW w != 0 || fZ w != 0) (.rst d a b (fP w))
  | 2 => if w.extractLsb' 9 1 != 0 then .error .reservedValue else unlessUsed (fW w != 0 || fZ w != 0) (.rstO d a b (w.extractLsb' 7 2))
  | 3 => unlessUsed (hi || a != 0 || b != 0) (.rfence d)
  | 4 => unlessUsed hi (.mcred d a b)
  | 5 => unlessUsed hi (.grpSet d a b)
  | _ => .error .reservedFn

/-- Major 0x36 (R385). -/
def decodeConv (w : W32) : Except DecodeErr Instr :=
  let d := fD w; let a := fA w; let b := fB w
  let hw := fW w != 0 || fZ w != 0; let hi := hw || fP w != 0
  match (fOp w).toNat with
  | 0 => unlessUsed hi (.cvOpen d a b)
  | 1 => unlessUsed hi (.cvBind d a b)
  | 2 => unlessUsed hi (.cvSend d a b)
  | 3 => unlessUsed hw (.cvRecv d a b (fP w))
  | 4 => unlessUsed (hi || b != 0) (.cvChoose d a)
  | 5 => unlessUsed hi (.cvOffer d a b)
  | 6 => unlessUsed hi (.cvDeleg d a b)
  | 7 => unlessUsed (hi || b != 0) (.cvClose d a)
  | 8 => unlessUsed hi (.cvState d a b)
  | _ => .error .reservedFn

/-- Major 0x37 (R407, R408). -/
def decodeTrust (w : W32) : Except DecodeErr Instr :=
  let d := fD w; let a := fA w; let b := fB w
  let hi := fW w != 0 || fP w != 0 || fZ w != 0 || b != 0
  match (fOp w).toNat with
  | 0 => unlessUsed hi (.tdBar d a)
  | 1 => unlessUsed (hi || a != 0) (.tdStat d)
  | _ => .error .reservedFn

/-- Major 0x38 (R103-R108). -/
def decodeSystem (w : W32) : Except DecodeErr Instr :=
  let d := fD w; let a := fA w; let b := fB w
  let hi := fW w != 0 || fP w != 0 || fZ w != 0
  let all := hi || d != 0 || a != 0 || b != 0
  match (fOp w).toNat with
  | 0 => unlessUsed all .nop
  | 1 => unlessUsed (fW w != 0 || fZ w != 0 || d != 0) (.trap a b (fP w))
  | 2 => unlessUsed all .eret
  | 3 => unlessUsed (hi || d != 0 || b != 0) (.fault a)
  | 4 => unlessUsed all .brk
  | 5 => unlessUsed (fW w != 0 || a != 0) (.csrr d (w.extractLsb' 7 4 ++ b))
  | 6 => unlessUsed (fW w != 0) (.csrw d a (w.extractLsb' 7 4 ++ b))
  | 7 => unlessUsed (fW w != 0) (.csrs d a (w.extractLsb' 7 4 ++ b))
  | 8 => unlessUsed (fW w != 0) (.csrc d a (w.extractLsb' 7 4 ++ b))
  | _ => .error .reservedFn

/-- One scalar or packet word by its layout (R67). The limits on values are `Instr.wf`. -/
def layoutWord (w : W32) : Except DecodeErr Instr :=
  let d := fD w; let a := fA w
  let top := w.extractLsb' 21 5
  match (fMajor w).toNat with
  | 0x01 => decodeAlu w
  | 0x02 => .ok (.addi d a (fImm w))
  | 0x03 => .ok (.andi d a (fImm w))
  | 0x04 => .ok (.ori d a (fImm w))
  | 0x05 => .ok (.xori d a (fImm w))
  | 0x06 => decodeShiftImm w
  | 0x07 => .ok (.slti d a (fImm w))
  | 0x08 => unlessUsed (a != 0) (.lui d (fImm w))
  | 0x09 => if w.extractLsb' 17 4 != 0 then .error .reservedValue else .ok (.lhi d (bit (w.extractLsb' 16 1)) (fImm w))
  | 0x0A => decodeField w
  | 0x0B => decodeCmp w
  | 0x0E => .ok (.sltui d a (fImm w))
  | 0x10 => unlessUsed (top != 0) (.b (fDisp w))
  | 0x11 => unlessUsed (w.extractLsb' 24 2 != 0) (.bp (w.extractLsb' 21 3) (fDisp w))
  | 0x12 => unlessUsed (w.extractLsb' 24 2 != 0) (.bnp (w.extractLsb' 21 3) (fDisp w))
  | 0x13 => .ok (.bz d (fDisp w))
  | 0x14 => .ok (.bnz d (fDisp w))
  | 0x15 => unlessUsed (top != 0) (.call (fDisp w))
  | 0x16 => decodeJump w
  | 0x17 => .ok (.loop d (fDisp w))
  | 0x18 => .ok (.ld d a (fClass w) (fSet w) (fWait w) (fSize w) (fOff w))
  | 0x19 => .ok (.ldu d a (fClass w) (fSet w) (fWait w) (fSize w) (fOff w))
  | 0x1A => .ok (.st d a (fClass w) (fSet w) (fWait w) (fSize w) (fOff w))
  | 0x1B => .ok (.ldS d a (fClass w) (fSet w) (fWait w) (fSize w) (fOff w))
  | 0x1C => .ok (.stS d a (fClass w) (fSet w) (fWait w) (fSize w) (fOff w))
  | 0x1D => if w.extractLsb' 6 1 != 1#1 then .error .reservedValue
      else .ok (.ldSync d a (w.extractLsb' 14 2) (bit (w.extractLsb' 13 1)) (fSet w) (fWait w) (bit (w.extractLsb' 5 1)) (fOff w))
  | 0x1E => .ok (.stFill d a (fClass w) (fSet w) (fWait w) (fSize w) (fOff w))
  | 0x1F => .ok (.ldP d a (fClass w) (fSet w) (fWait w) (fSize w) (fOff w))
  | 0x20 => if bit (w.extractLsb' 20 1)
      then .ok (.stV d (w.extractLsb' 16 4) (fClass w) (fSet w) (fWait w) (w.extractLsb' 4 3) (w.extractLsb' 0 4))
      else .ok (.ldV d (w.extractLsb' 16 4) (fClass w) (fSet w) (fWait w) (w.extractLsb' 4 3) (w.extractLsb' 0 4))
  | 0x21 => decodeAmo w
  | 0x22 => decodeStream w
  | 0x23 => decodeFence w
  | 0x24 => decodeFe w
  | 0x28 => decodeVi w
  | 0x29 => decodeVf w
  | 0x2A => decodeVcvt w
  | 0x2B => decodeVsf w
  | 0x2C => decodeVperm w
  | 0x2D => decodeVmx w
  | 0x2E => decodeVdice w
  | 0x2F => decodeVpre w
  | 0x30 => decodeChannel w
  | 0x31 => decodeHandler w
  | 0x32 => decodeController w
  | 0x33 => decodeConfig w
  | 0x34 => decodeRemote w
  | 0x35 => unlessUsed (w.extractLsb' 8 3 != 0) (.ramo d a (fB w) (bit (w.extractLsb' 7 1)) (bit (w.extractLsb' 6 1)) (w.extractLsb' 0 6))
  | 0x36 => decodeConv w
  | 0x37 => decodeTrust w
  | 0x38 => decodeSystem w
  | _ => .error .reservedMajor

/-- A command: word 0 and the three after it (R62, R71). -/
def layoutCommand (w w1 w2 w3 : W32) : Except DecodeErr Instr :=
  if w.extractLsb' 0 2 != 0 then .error .unusedField else
  let h : CmdHead := ⟨w.extractLsb' 12 4, w.extractLsb' 10 2, w.extractLsb' 5 5, w.extractLsb' 2 3⟩
  match (w.extractLsb' 22 4).toNat, (w.extractLsb' 16 6).toNat with
  | 0, 0 => .ok (.mxLd h w1 w2 w3)
  | 0, 1 => .ok (.mxSt h w1 w2 w3)
  | 0, 2 => .ok (.mxMma h w1 w2 w3)
  | 0, 3 => .ok (.mxMv h w1 w2 w3)
  | 0, 4 => .ok (.mxZero h w1 w2 w3)
  | 0, 5 => .ok (.mxDrain h w1 w2 w3)
  | 0, 6 => .ok (.mxSmax h w1 w2 w3)
  | 0, 7 => .ok (.mxAccld h w1 w2 w3)
  | 0, 8 => .ok (.mxAccst h w1 w2 w3)
  | 0, 9 => .ok (.mxLoop h w1 w2 w3)
  | 1, 0 => .ok (.cpNd h w1 w2 w3)
  | 1, 1 => .ok (.cpGather h w1 w2 w3)
  | 1, 2 => .ok (.cpFill h w1 w2 w3)
  | 2, 0 => .ok (.kvWalk h w1 w2 w3)
  | 2, 1 => .ok (.kvLdk h w1 w2 w3)
  | 2, 2 => .ok (.kvLdv h w1 w2 w3)
  | 2, 3 => .ok (.kvPagein h w1 w2 w3)
  | 2, 4 => .ok (.kvFree h w1 w2 w3)
  | 3, 0 => .ok (.skScore h w1 w2 w3)
  | 4, 0 => .ok (.chRun h w1 w2 w3)
  | 5, 0 => .ok (.gsArm h w1 w2 w3)
  | 5, 1 => .ok (.gsWait h w1 w2 w3)
  | _, _ => .error .reservedFn

/-- The layout of the words at the PC: word 0 with the three after it, which a command takes (R54). -/
def layout : List W32 → Except DecodeErr Instr
  | [] => .error .truncated
  | w :: rest =>
    if fMajor w = 0x3F#6 then
      match rest with
      | w1 :: w2 :: w3 :: _ => layoutCommand w w1 w2 w3
      | _ => .error .truncated
    else layoutWord w

/-- An instruction whose fields hold no reserved value (R55 step 1). -/
def checked (r : Except DecodeErr Instr) : Except DecodeErr Instr :=
  match r with
  | .ok i => if i.wf then .ok i else .error .reservedValue
  | .error e => .error e

/-- The instruction that the words from the PC on encode, or why they encode none. -/
def decode (ws : List W32) : Except DecodeErr Instr := checked (layout ws)

/-- Word k of the number w, whose bit 0 is the least significant bit of the first word. -/
def wordOf (w k : Nat) : W32 := BitVec.ofNat 32 (w / 2 ^ (32 * k))

/-- The instruction of the opcode table's word: the first nbits bits of w, every bit above them 0. -/
def decodeTableWord (nbits w : Nat) : Option Instr :=
  let n := w % 2 ^ nbits
  match decode [wordOf n 0, wordOf n 1, wordOf n 2, wordOf n 3] with
  | .ok i => some i
  | .error _ => none

/-! ### The encoder -/

/-- Format R: major, d, a, b, fn (R56). -/
def formatR (m : BitVec 6) (d a b : BitVec 5) (fn : BitVec 11) : W32 := m ++ d ++ a ++ b ++ fn
/-- The fn field of format R: a predicate, the `.w` bit, an operation (R56). -/
def fnR (p : BitVec 3) (w : Bool) (op : BitVec 6) : BitVec 11 := 0#1 ++ p ++ BitVec.ofBool w ++ op
/-- Format I (R57). -/
def formatI (m : BitVec 6) (d a : BitVec 5) (i : BitVec 16) : W32 := m ++ d ++ a ++ i
/-- Format B (R59). -/
def formatB (m : BitVec 6) (c : BitVec 5) (disp : BitVec 21) : W32 := m ++ c ++ disp
/-- Format M (R58). -/
def formatM (m : BitVec 6) (d b : BitVec 5) (c s w : BitVec 3) (z : BitVec 2) (o : BitVec 5) : W32 :=
  m ++ d ++ b ++ c ++ s ++ w ++ z ++ o
/-- Format V: the descriptor's variant bits stand in fn[5:4] and its code in fmt (R60). -/
def formatV (m : BitVec 6) (d a b : BitVec 5) (f : FmtDesc) (op : BitVec 4) : W32 :=
  m ++ d ++ a ++ b ++ f.extractLsb' 0 5 ++ f.extractLsb' 5 2 ++ op
/-- Format V of a VCVT word (R60). -/
def formatVcvt (d a : BitVec 5) (dst src : FmtDesc) (op : BitVec 2) : W32 :=
  0x2A#6 ++ d ++ a ++ src.extractLsb' 0 5 ++ dst.extractLsb' 0 5 ++ dst.extractLsb' 5 2 ++ src.extractLsb' 5 2 ++ op
/-- Format VM (R61). -/
def formatVM (store : Bool) (v : BitVec 5) (b : BitVec 4) (c s w l : BitVec 3) (o : BitVec 4) : W32 :=
  0x20#6 ++ v ++ BitVec.ofBool store ++ b ++ c ++ s ++ w ++ l ++ o
/-- The AMO layout (R70). -/
def formatAmo (d a b : BitVec 5) (w r : Bool) (sc : BitVec 3) (op : BitVec 5) : W32 :=
  0x21#6 ++ d ++ a ++ b ++ 0#1 ++ BitVec.ofBool w ++ BitVec.ofBool r ++ sc ++ op
/-- The 0x0A layout of `extf`, `extfs` and `insf` (R70). -/
def formatF (op : BitVec 2) (d a : BitVec 5) (w p : BitVec 6) : W32 := 0x0A#6 ++ d ++ a ++ op ++ w ++ 0#2 ++ p
/-- Word 0 of a command (R62). -/
def formatC (e : BitVec 4) (v : BitVec 6) (h : CmdHead) : W32 := 0x3F#6 ++ e ++ v ++ h.subst ++ h.done ++ h.chan ++ h.sb ++ 0#2
/-- A predicate number in a five-bit field. -/
def inP (p : BitVec 3) : BitVec 5 := 0#2 ++ p
/-- The csr layout: the number is {fn[10:7], b} (R70). -/
def formatK (d a : BitVec 5) (k : BitVec 9) (op : BitVec 6) : W32 := 0x38#6 ++ d ++ a ++ k.extractLsb' 0 5 ++ k.extractLsb' 5 4 ++ 0#1 ++ op
/-- Field b of `recv` and `peek` (R149). -/
def inGroup : Option (BitVec 3) → BitVec 5
  | none => 0
  | some g => 1#2 ++ g
/-- Field b of a full/empty instruction. -/
def inFile : FeFile → BitVec 5
  | .x => 0
  | .v => 1
  | .word => 2
/-- Field b of `send` and `sendx`: PSN in bit 1, the inverted predicate in bit 0 (R154). -/
def inSend (psn inv : Bool) : BitVec 5 := 0#3 ++ BitVec.ofBool psn ++ BitVec.ofBool inv

/-- The word of a scalar or packet instruction; the all-zero word, which is reserved, for everything else. -/
def encodeWord : Instr → W32
  | .add d a b w => formatR 0x01 d a b (fnR 0 w 0)
  | .sub d a b w => formatR 0x01 d a b (fnR 0 w 1)
  | .and d a b => formatR 0x01 d a b (fnR 0 false 2)
  | .or d a b => formatR 0x01 d a b (fnR 0 false 3)
  | .xor d a b => formatR 0x01 d a b (fnR 0 false 4)
  | .andn d a b => formatR 0x01 d a b (fnR 0 false 5)
  | .orn d a b => formatR 0x01 d a b (fnR 0 false 6)
  | .shl d a b w => formatR 0x01 d a b (fnR 0 w 7)
  | .shr d a b w => formatR 0x01 d a b (fnR 0 w 8)
  | .sra d a b w => formatR 0x01 d a b (fnR 0 w 9)
  | .rotl d a b w => formatR 0x01 d a b (fnR 0 w 10)
  | .min d a b => formatR 0x01 d a b (fnR 0 false 11)
  | .max d a b => formatR 0x01 d a b (fnR 0 false 12)
  | .minu d a b => formatR 0x01 d a b (fnR 0 false 13)
  | .maxu d a b => formatR 0x01 d a b (fnR 0 false 14)
  | .mul d a b w => formatR 0x01 d a b (fnR 0 w 15)
  | .mulh d a b => formatR 0x01 d a b (fnR 0 false 16)
  | .mulhu d a b => formatR 0x01 d a b (fnR 0 false 17)
  | .div d a b w => formatR 0x01 d a b (fnR 0 w 18)
  | .divu d a b w => formatR 0x01 d a b (fnR 0 w 19)
  | .rem d a b w => formatR 0x01 d a b (fnR 0 w 20)
  | .remu d a b w => formatR 0x01 d a b (fnR 0 w 21)
  | .slt d a b => formatR 0x01 d a b (fnR 0 false 22)
  | .sltu d a b => formatR 0x01 d a b (fnR 0 false 23)
  | .clz d a w => formatR 0x01 d a 0 (fnR 0 w 24)
  | .ctz d a w => formatR 0x01 d a 0 (fnR 0 w 25)
  | .popc d a w => formatR 0x01 d a 0 (fnR 0 w 26)
  | .bswap d a w => formatR 0x01 d a 0 (fnR 0 w 27)
  | .sel d a b p => formatR 0x01 d a b (fnR p false 28)
  | .addi d a i => formatI 0x02 d a i
  | .andi d a i => formatI 0x03 d a i
  | .ori d a i => formatI 0x04 d a i
  | .xori d a i => formatI 0x05 d a i
  | .slti d a i => formatI 0x07 d a i
  | .sltui d a i => formatI 0x0E d a i
  | .shli d a s => formatI 0x06 d a (0#8 ++ 0#2 ++ s)
  | .shri d a s => formatI 0x06 d a (0#8 ++ 1#2 ++ s)
  | .srai d a s => formatI 0x06 d a (0#8 ++ 2#2 ++ s)
  | .lui d i => formatI 0x08 d 0 i
  | .lhi d h i => formatI 0x09 d (0#4 ++ BitVec.ofBool h) i
  | .lea d a b s => formatI 0x0A d a (0#2 ++ 0#3 ++ b ++ 0#3 ++ s)
  | .extf d a w p => formatF 1 d a w p
  | .extfs d a w p => formatF 2 d a w p
  | .insf d a w p => formatF 3 d a w p
  | .cmpEq d a b => formatR 0x0B (inP d) a b 0
  | .cmpNe d a b => formatR 0x0B (inP d) a b 1
  | .cmpLt d a b => formatR 0x0B (inP d) a b 2
  | .cmpGe d a b => formatR 0x0B (inP d) a b 3
  | .cmpLtu d a b => formatR 0x0B (inP d) a b 4
  | .cmpGeu d a b => formatR 0x0B (inP d) a b 5
  | .pand d a b => formatR 0x0B (inP d) (inP a) (inP b) 6
  | .por d a b => formatR 0x0B (inP d) (inP a) (inP b) 7
  | .pxor d a b => formatR 0x0B (inP d) (inP a) (inP b) 8
  | .pnot d a => formatR 0x0B (inP d) (inP a) 0 9
  | .pmov d a => formatR 0x0B (inP d) (inP a) 0 10
  | .b d => formatB 0x10 0 d
  | .bp p d => formatB 0x11 (inP p) d
  | .bnp p d => formatB 0x12 (inP p) d
  | .bz c d => formatB 0x13 c d
  | .bnz c d => formatB 0x14 c d
  | .call d => formatB 0x15 0 d
  | .loop c d => formatB 0x17 c d
  | .jr a => formatR 0x16 0 a 0 0
  | .jalr d a => formatR 0x16 d a 0 1
  | .ret => formatR 0x16 0 0 0 2
  | .ld d b c s w z o => formatM 0x18 d b c s w z o
  | .ldu d b c s w z o => formatM 0x19 d b c s w z o
  | .st d b c s w z o => formatM 0x1A d b c s w z o
  | .ldS d b c s w z o => formatM 0x1B d b c s w z o
  | .stS d b c s w z o => formatM 0x1C d b c s w z o
  | .stFill d b c s w z o => formatM 0x1E d b c s w z o
  | .ldP d b c s w z o => formatM 0x1F d b c s w z o
  | .ldSync d b c t s w z o => formatM 0x1D d b (c ++ BitVec.ofBool t) s w (1#1 ++ BitVec.ofBool z) o
  | .ldV v b c s w l o => formatVM false v b c s w l o
  | .stV v b c s w l o => formatVM true v b c s w l o
  | .amoAdd d a b w r sc => formatAmo d a b w r sc 0
  | .amoAnd d a b w r sc => formatAmo d a b w r sc 1
  | .amoOr d a b w r sc => formatAmo d a b w r sc 2
  | .amoXor d a b w r sc => formatAmo d a b w r sc 3
  | .amoMin d a b w r sc => formatAmo d a b w r sc 4
  | .amoMax d a b w r sc => formatAmo d a b w r sc 5
  | .amoMinu d a b w r sc => formatAmo d a b w r sc 6
  | .amoMaxu d a b w r sc => formatAmo d a b w r sc 7
  | .amoSwap d a b w r sc => formatAmo d a b w r sc 8
  | .amoCas d a b w sc => formatAmo d a b w true sc 9
  | .amoFaddF32 d a b r sc => formatAmo d a b false r sc 10
  | .amoFaddBf16 d a b r sc => formatAmo d a b false r sc 11
  | .amoFminF32 d a b r sc => formatAmo d a b false r sc 12
  | .amoFmaxF32 d a b r sc => formatAmo d a b false r sc 13
  | .sbind d a b => formatR 0x22 d a b 0
  | .sjoin d a => formatR 0x22 d a 0 1
  | .sleave a => formatR 0x22 0 a 0 2
  | .spub a b => formatR 0x22 0 a b 3
  | .srel a b => formatR 0x22 0 a b 4
  | .shead d a => formatR 0x22 d a 0 5
  | .stail d a => formatR 0x22 d a 0 6
  | .sclose a => formatR 0x22 0 a 0 7
  | .fence k sc => formatR 0x23 0 (k ++ sc) 0 0
  | .l1Inv => formatR 0x23 0 0 0 1
  | .sbwait m => formatR 0x23 0 (m.extractLsb' 0 5) (0#3 ++ m.extractLsb' 5 2) 2
  | .fenceEng n b => formatR 0x23 0 (inP n) b 3
  | .feSet a f => formatR 0x24 0 a (inFile f) 0
  | .feClr a f => formatR 0x24 0 a (inFile f) 1
  | .feTest d a f => formatR 0x24 (inP d) a (inFile f) 2
  | .feMode m a v => formatR 0x24 (0#4 ++ BitVec.ofBool m) a (0#4 ++ BitVec.ofBool v) 3
  | .park a f => formatR 0x24 0 a (inFile f) 4
  | .vadd d a b f => formatV 0x28 d a b (0#4 ++ f) 0
  | .vsub d a b f => formatV 0x28 d a b (0#4 ++ f) 1
  | .vmul d a b f => formatV 0x28 d a b (0#4 ++ f) 2
  | .vmin d a b f => formatV 0x28 d a b (0#4 ++ f) 3
  | .vmax d a b f => formatV 0x28 d a b (0#4 ++ f) 4
  | .vabs d a f => formatV 0x28 d a 0 (0#4 ++ f) 5
  | .vneg d a f => formatV 0x28 d a 0 (0#4 ++ f) 6
  | .vand d a b => formatV 0x28 d a b 0 7
  | .vor d a b => formatV 0x28 d a b 0 8
  | .vxor d a b => formatV 0x28 d a b 0 9
  | .vshl d a b f => formatV 0x28 d a b (0#4 ++ f) 10
  | .vshr d a b f => formatV 0x28 d a b (0#4 ++ f) 11
  | .vsra d a b f => formatV 0x28 d a b (0#4 ++ f) 12
  | .vcmp d a b f => formatV 0x28 d a b (0#4 ++ f) 13
  | .vsel d a b f => formatV 0x28 d a b (0#4 ++ f) 14
  | .vfadd d a b f => formatV 0x29 d a b f 0
  | .vfsub d a b f => formatV 0x29 d a b f 1
  | .vfmul d a b f => formatV 0x29 d a b f 2
  | .vfma d a b f => formatV 0x29 d a b f 3
  | .vfmin d a b f => formatV 0x29 d a b f 4
  | .vfmax d a b f => formatV 0x29 d a b f 5
  | .vfabs d a f => formatV 0x29 d a 0 f 6
  | .vfneg d a f => formatV 0x29 d a 0 f 7
  | .vfcmp d a b f => formatV 0x29 d a b f 8
  | .vcvt d a dst src => formatVcvt d a dst src 0
  | .vpack d a dst src => formatVcvt d a dst src 1
  | .vunpack d a dst src => formatVcvt d a dst src 2
  | .vrcp d a => formatV 0x2B d a 0 8 0
  | .vrsq d a => formatV 0x2B d a 0 8 1
  | .vexp2 d a => formatV 0x2B d a 0 8 2
  | .vlog2 d a => formatV 0x2B d a 0 8 3
  | .vrcpstep d a b => formatV 0x2B d a b 8 4
  | .vrsqstep d a b => formatV 0x2B d a b 8 5
  | .vsum d a f => formatV 0x2C d a 0 f 0
  | .vmaxr d a f => formatV 0x2C d a 0 f 1
  | .vperm d a b => formatV 0x2C d a b 0 2
  | .vbcast d a i f => formatV 0x2C d a i f 3
  | .vbfly d a k f => formatV 0x2C d a (inP k) f 4
  | .vlen d a n => formatV 0x2C d a n 0 5
  | .vbscale d a b f => formatV 0x2D d a b f 0
  | .vquant d a b f => formatV 0x2D d a b f 1
  | .vdequant d a b f => formatV 0x2D d a b f 2
  | .vsmerge d a b => formatV 0x2D d a b 8 3
  | .vdice d a s f => formatV 0x2E d a s (if f then 8 else 5) 0
  | .vcsc d a b => formatV 0x2F d a b 1 0
  | .vnorm d a b f => formatV 0x2F d a b f 1
  | .recv d c g p => formatR 0x30 d c (inGroup g) (fnR p false 0)
  | .peek d c g p => formatR 0x30 d c (inGroup g) (fnR p false 1)
  | .send q a k v p => formatR 0x30 (inP q) a (inSend k v) (fnR p false 2)
  | .sendx q a k v p w => formatR 0x30 (inP q) a (inSend k v) (fnR p w 3)
  | .drop c => formatR 0x30 0 c 0 4
  | .clen d c => formatR 0x30 d c 0 5
  | .hndEnd => formatR 0x31 0 0 0 0
  | .hndMask a => formatR 0x31 0 a 0 1
  | .hndUnmask a => formatR 0x31 0 a 0 2
  | .hndPrio a b => formatR 0x31 0 a b 3
  | .hndBind a b => formatR 0x31 0 a b 4
  | .hndSelf d => formatR 0x31 d 0 0 5
  | .ctlDone q a => formatR 0x32 (inP q) a 0 0
  | .ctlPermit q a b => formatR 0x32 (inP q) a b 1
  | .ctlWait d c => formatR 0x32 d c 0 2
  | .argSet a b => formatR 0x33 0 a b 0
  | .cfgLoad d a b => formatR 0x33 d a b 1
  | .cfgDrain d b => formatR 0x33 d 0 b 2
  | .rld d a b u z => formatR 0x34 d a b (BitVec.ofBool u ++ z ++ 0#1 ++ 0#6)
  | .rst d a b z => formatR 0x34 d a b (fnR z false 1)
  | .rstO d a b z => formatR 0x34 d a b (fnR (0#1 ++ z) false 2)
  | .rfence d => formatR 0x34 d 0 0 3
  | .mcred d a b => formatR 0x34 d a b 4
  | .grpSet d a b => formatR 0x34 d a b 5
  | .ramo d a b w r n => formatR 0x35 d a b (0#3 ++ BitVec.ofBool w ++ BitVec.ofBool r ++ n)
  | .cvOpen d a b => formatR 0x36 d a b 0
  | .cvBind d a b => formatR 0x36 d a b 1
  | .cvSend d a b => formatR 0x36 d a b 2
  | .cvRecv d a c p => formatR 0x36 d a c (fnR p false 3)
  | .cvChoose d a => formatR 0x36 d a 0 4
  | .cvOffer d a c => formatR 0x36 d a c 5
  | .cvDeleg d a b => formatR 0x36 d a b 6
  | .cvClose d a => formatR 0x36 d a 0 7
  | .cvState d a b => formatR 0x36 d a b 8
  | .tdBar d a => formatR 0x37 d a 0 0
  | .tdStat d => formatR 0x37 d 0 0 1
  | .nop => formatR 0x38 0 0 0 0
  | .trap c e p => formatR 0x38 0 c e (fnR p false 1)
  | .eret => formatR 0x38 0 0 0 2
  | .fault c => formatR 0x38 0 c 0 3
  | .brk => formatR 0x38 0 0 0 4
  | .csrr d k => formatK d 0 k 5
  | .csrw d a k => formatK d a k 6
  | .csrs d a k => formatK d a k 7
  | .csrc d a k => formatK d a k 8
  | _ => 0

/-- The words of an instruction in the instruction store: one, or four for a command; none for a hardware step. -/
def encode : Instr → List W32
  | .mxLd h w1 w2 w3 => [formatC 0 0 h, w1, w2, w3]
  | .mxSt h w1 w2 w3 => [formatC 0 1 h, w1, w2, w3]
  | .mxMma h w1 w2 w3 => [formatC 0 2 h, w1, w2, w3]
  | .mxMv h w1 w2 w3 => [formatC 0 3 h, w1, w2, w3]
  | .mxZero h w1 w2 w3 => [formatC 0 4 h, w1, w2, w3]
  | .mxDrain h w1 w2 w3 => [formatC 0 5 h, w1, w2, w3]
  | .mxSmax h w1 w2 w3 => [formatC 0 6 h, w1, w2, w3]
  | .mxAccld h w1 w2 w3 => [formatC 0 7 h, w1, w2, w3]
  | .mxAccst h w1 w2 w3 => [formatC 0 8 h, w1, w2, w3]
  | .mxLoop h w1 w2 w3 => [formatC 0 9 h, w1, w2, w3]
  | .cpNd h w1 w2 w3 => [formatC 1 0 h, w1, w2, w3]
  | .cpGather h w1 w2 w3 => [formatC 1 1 h, w1, w2, w3]
  | .cpFill h w1 w2 w3 => [formatC 1 2 h, w1, w2, w3]
  | .kvWalk h w1 w2 w3 => [formatC 2 0 h, w1, w2, w3]
  | .kvLdk h w1 w2 w3 => [formatC 2 1 h, w1, w2, w3]
  | .kvLdv h w1 w2 w3 => [formatC 2 2 h, w1, w2, w3]
  | .kvPagein h w1 w2 w3 => [formatC 2 3 h, w1, w2, w3]
  | .kvFree h w1 w2 w3 => [formatC 2 4 h, w1, w2, w3]
  | .skScore h w1 w2 w3 => [formatC 3 0 h, w1, w2, w3]
  | .chRun h w1 w2 w3 => [formatC 4 0 h, w1, w2, w3]
  | .gsArm h w1 w2 w3 => [formatC 5 0 h, w1, w2, w3]
  | .gsWait h w1 w2 w3 => [formatC 5 1 h, w1, w2, w3]
  | .reservedEncoding w => [w]
  | i => if encodeWord i = 0 then [] else [encodeWord i]

end Sys2Proof
end

