-- ==== Sys2Proof/Config.lean ====
section
/-! DEFINITION. What one implementation fixes and the spec leaves open: constants without a body, about which nothing
can be proved. Each is named in the assumption log. -/

namespace Sys2Proof.Config

/-- How many cycles beyond one the n-th issued instruction holds the cell's clock (R4, R30 KCYC; log 5). -/
opaque extraCycles : Nat → Nat
/-- Which of the held lines the n-th fill of a full L1 replaces (R202, R203; log 6). -/
opaque l1Victim : Nat → Nat
/-- Which of the lanes still to be moved the n-th move of an `ld.v` or `st.v` takes (R262; log 67). -/
opaque laneOrder : Nat → Nat
/-- The page index that TIER_FAIL of an explicit `kv.pagein` of a header records (R304, R330; log 69). -/
opaque pageinIndex : Word → W32
/-- Whether a request that reaches a side not yet cleared is taken as a duplicate or dropped (R369; log 7). -/
opaque unclearedTakenAsDuplicate : Nat → Bool
/-- Byte i of the private control region or header of a save area (R342; log 8). -/
opaque saveAreaByte : Nat → Nat → Byte
/-- DEPTH of a channel of another package, which the home of a conversation knows when a role is delegated there, less 1 (R383,
R390; log 11). -/
opaque remoteDepth : Byte → BitVec 14 → BitVec 5 → BitVec 3
/-- The cycles that the n-th completion or acknowledgement record counts (R327, R343; log 12). -/
opaque elapsedCycles : Nat → BitVec 64
/-- The lines that the load of a board moved between HBM and L2 when it ends at a step before it is classified (R322; log 13). -/
opaque linesMoved : Nat → Nat → Nat
/-- What the level below the L2 holds of a byte when its line is invalidated without write-back at a step, where the line was modified (R412;
log 75). -/
opaque belowL2 : Nat → Nat → Option Byte
/-- The ranges that the runtime programs into the far-tier port's decoders, base and bytes of each (R413; log 2). -/
opaque farRanges : List (Nat × Nat)
/-- The content measured under indices 1-4 of R402, fixed from power-up (log 9). -/
opaque measured : Nat → List Nat
/-- SHA3-512 (R401, R402; log 9). -/
opaque sha3 : List Nat → BitVec 512
/-- The security engine's signature over a transcript (ML-DSA-87; log 9). -/
opaque signature : Nat → Nat
/-- The export secret of a session opened at a step with a package, or with the host's manager, 256 (ML-KEM-1024; log 9). -/
opaque sessionSecret : Nat → Nat → BitVec 256
/-- HKDF-Expand of a pair's export secret over the label of R403: link or seal, epoch, source, destination (log 9). -/
opaque pairKey : BitVec 256 → Bool → Word → Byte → Byte → BitVec 256
/-- Whether the n-th mutual authentication of an SPDM session with a package succeeds (R401; log 9). -/
opaque peerGenuine : Nat → Byte → Bool
/-- The package at the other end of the link of a port, of which the route table does not tell (R403, R404; log 76). -/
opaque neighbour : BitVec 5 → Byte
/-- The part's certificate chain and its digest (R401; log 9). -/
opaque certificate : List Byte

end Sys2Proof.Config
end

