-- ==== Sys2Proof/Machine/State.lean ====
section
/-! DEFINITION. The state of one N960 package as plain data: the cell whose core is in focus, the other cells, and what
the package holds beside its cells. INVENTORY.md lists every piece with its rule and reset value. -/

namespace Sys2Proof.Machine

/-! ### A cell's registers and accesses -/

/-- The full/empty state of a register (R15). -/
inductive Fe where
  | full | empty | pending
  deriving DecidableEq, Repr

/-- An `x` register (R7, R15). -/
structure XReg where
  val : Word
  st : Fe
  deriving DecidableEq, Repr

/-- A `v` register: eight lanes, the encoded length (0 means 8, R9) and the full/empty state. -/
structure VReg where
  lanes : Vector W32 8
  len : BitVec 3
  st : Fe
  deriving DecidableEq, Repr

/-- The destination of a long-latency producer (R15). -/
inductive Dst where
  | none
  | x (r : XIdx)
  | v (r : VIdx)
  deriving DecidableEq, Repr

/-- The atomic operations (R70, R244). -/
inductive AmoOp where
  | add | and | or | xor | min | max | minu | maxu | swap | cas | faddF32 | faddBf16 | fminF32 | fmaxF32
  deriving DecidableEq, Repr

/-- An operation on a stream's record (R215, R249). -/
inductive StreamOp where
  | bind (record : Word)
  | join | leave
  | publish (q : BitVec 48)
  | release (q : BitVec 48)
  | head | tail | close
  deriving DecidableEq, Repr

/-- What an access in flight does when it is performed. -/
inductive AccOp where
  /-- A load of n bytes into an `x` register, sign-extended or not. -/
  | load (n : Nat) (sext : Bool)
  /-- A load of n lanes into a `v` register, with the lanes it has read so far: each is a unit of its own (R262). -/
  | loadV (n : Nat) (got : List (Nat × W32))
  /-- A store; `fill` also sets the words full (R234). -/
  | store (data : List Byte) (fill : Bool)
  /-- `st.v` of n lanes: those still to be written, each a unit of its own (R262). -/
  | storeV (n : Nat) (left : List (Nat × W32))
  /-- An `ld.sync` of n bytes that waits behind an earlier access (R229, R255), and whether it takes its
  words. -/
  | sync (n : Nat) (take : Bool)
  /-- An atomic of n bytes with its operands, whether it returns, and the rounding mode and SAT at issue (R246). -/
  | amo (op : AmoOp) (n : Nat) (b c : Word) (ret : Bool) (rm : BitVec 3) (sat : Bool)
  /-- An operation on the record of a stream. -/
  | stream (num : BitVec 15) (op : StreamOp)
  /-- A result on its way to an `x` register, with the flags that merge when it lands. -/
  | value (val : Word) (flags : BitVec 5)
  /-- A packet on its way to a `v` register. -/
  | packet (lanes : List W32)
  /-- A result that another unit has still to supply. -/
  | await
  /-- `rld.l`: 128 bytes that another package has still to supply, for the cell store at an offset. -/
  | awaitLine (off : Nat)
  deriving DecidableEq, Repr

/-- Where an access in flight lies. -/
inductive Loc where
  | none
  /-- The issuing cell's own store, at a byte offset. -/
  | cell (off : Nat)
  /-- Memory at a physical address, with the low eight bits of the leaf entry. -/
  | phys (pa : Nat) (attr : Byte)
  /-- A translation stall at a page-table level (R208). -/
  | stall (level : Nat)
  /-- Stream space: a position of a stream. -/
  | stream (num : BitVec 15) (pos : BitVec 48)
  deriving DecidableEq, Repr

/-- An access or long-latency result in flight, oldest first in the cell's list. `after` holds the accesses it waits on
(R229, R238, R242, R249, R255); `acq` makes its landing an acquire; `l1` lets the L1 answer it. -/
structure Access where
  id : Nat
  hnd : BitVec 6
  pc : Pc
  word : W32
  op : AccOp
  dst : Dst
  va : Word
  loc : Loc
  cls : BitVec 3
  set : BitVec 3
  after : List Nat
  acq : Bool
  l1 : Bool
  /-- The activation that issued it has not ended. -/
  live : Bool
  /-- The load that issued it has ended: its reply is discarded, and what it meets is no fault (R134, R332). -/
  gone : Bool
  deriving DecidableEq, Repr

/-- What a parked activation waits for: the kinds and keys of R84. -/
inductive ParkKey where
  | regX (n : XIdx)
  | regV (n : VIdx)
  | word (off : Nat)
  | head (num : BitVec 15) (pos : BitVec 48)
  | window (num : BitVec 15) (pos : BitVec 48)
  | chanIn (ch : ChIdx)
  | chanOut (q : BitVec 3)
  | turn (w : Word)
  | counter (n : BitVec 3) (target : W32)
  | slot (n : BitVec 3)
  | covered
  | queue (e : Engine)
  deriving DecidableEq, Repr

/-- An instruction held at issue: a hold that ends in a park after 8 cycles (R17, R65, R154, R230), or one that waits
without limit (R16, R127, R230, R249, R360), of which one may be a translation stall of what it reads at issue (R208). -/
inductive Hold where
  | expiring (k : ParkKey)
  | staying
  | stalled
  | fetching (num : BitVec 15) (at_ : W32)
  deriving DecidableEq, Repr

/-- The states of a handler entry (R20). -/
inductive HState where
  | idle | runnable | running | parked
  deriving DecidableEq, Repr

/-- What a handler entry holds beside its PC for an instruction that is retried (R238, R371, R388, R407). -/
inductive Pend where
  | none
  /-- The set that a release or an acquire fixed at first issue: the covered accesses that were still in flight, the cell, and the number of its next
  access, before which its writes are covered (R238, R239). -/
  | fence (ids : List Nat) (cell : CellId) (before : Nat)
  /-- The covered writes that are still out, and the failed peers among the covered ones. -/
  | rfence (reqs : List (Byte × BitVec 48)) (failed : List Byte)
  /-- The conversation request sent, with its epoch and sequence, its conversation word, and whether the destination was full before
  (R388). -/
  | request (target : Byte) (epoch : Word) (seq : BitVec 48) (w : Word) (full : Bool)
  | verdict (v : Verdict) (w : Word) (full : Bool)
  /-- `td.bar` before its fence has passed: the accesses and remote writes it covers, E, and the status of the barrier if that has ended. -/
  | barFence (ids : List Nat) (reqs : List (Byte × BitVec 48)) (epoch : W32) (status : Option Word)
  | barrier (epoch : W32)
  | barrierDone (status : Word)
  deriving DecidableEq, Repr

/-- A handler entry: its configuration (R130), its live state (R148), its activation (R20) and its aging (R144). -/
structure Handler where
  v : Bool
  start : Bool
  maskCfg : Bool
  prioCfg : BitVec 4
  entry : Pc
  mask : Bool
  prio : BitVec 4
  st : HState
  pc : Pc
  key : Option ParkKey
  wide : Bool
  age : Nat
  pass : Nat
  chan : ChIdx
  byStart : Bool
  pend : Pend
  deriving DecidableEq, Repr

/-- A packet (R115): its lanes, header bits, the out-queue it left with its number there, whether it was read
(R117, R120), and its place in the cell's order of arrival (R334). -/
structure Packet where
  lanes : List W32
  ends : Bool
  psn : Bool
  src : Option (CellId × BitVec 3 × Nat)
  conv : Option (Byte × BitVec 12 × BitVec 3)
  read : Bool
  stamp : Nat
  deriving DecidableEq, Repr

/-- A channel: entry (R118), format and scale entry (R131), live target (R148), packets, constants (R121, R161). -/
structure Channel where
  en : Bool
  fire : Bool
  merge : Bool
  latest : Bool
  depth : Nat
  scale : BitVec 3
  fmt : FmtDesc
  prio : BitVec 4
  tgtCfg : BitVec 7
  sat : Bool
  rm : BitVec 3
  ssrc : Bool
  blk : BitVec 2
  tgt : BitVec 7
  pkts : List Packet
  const : Bool
  nextConst : Option (List W32)
  circuit : Bool
  deriving DecidableEq, Repr

/-- An out-queue (R118, R119, R123): `toQueue` says that some end of its circuit is a QUEUE channel. -/
structure OutQueue where
  en : Bool
  infl : Nat
  dch : ChIdx
  pkts : List Packet
  credits : Nat
  toQueue : Bool
  sent : Nat
  deriving DecidableEq, Repr

/-- A node slot (R140-R143). The controller holds its words, whether it runs, the parent's index, the iterations, and the permits sent to and dones
returned by each child, and the dones of an earlier streaming run still due; the arbiter the arc last granted and its grant FIFO. -/
inductive Node where
  | none
  | controller (w0 w1 : Word) (run : Bool) (ended : Bool) (j : W32) (n : Nat) (sent returned late : List Nat)
  | arbiter (w0 w1 : Word) (last : Nat) (fifo : List Nat)
  | generator (key w1 : Word)
  deriving DecidableEq, Repr

/-- The inner integer accumulator of an entry and its product count (R52). -/
structure Inner where
  val : Int
  cnt : Nat
  deriving DecidableEq, Repr

/-- A command an engine has accepted (R62-R65), with what it takes at issue (R110) and the unit it has reached. -/
structure Cmd where
  verb : Nat
  w1 : W32
  w2 : W32
  w3 : W32
  word0 : W32
  hnd : BitVec 6
  pc : Pc
  done : BitVec 2
  chan : BitVec 5
  sb : BitVec 3
  rm : BitVec 3
  sat : Bool
  scales : Vector Byte 8
  dkey : Word
  draw : W32
  unit : Nat
  flags : BitVec 5
  stalled : Bool
  note : Nat
  /-- A page-in that a walker started itself, or whose board is gone (R302, R340): no completion is reported. -/
  internal : Bool
  /-- The context in which its memory is found: a page-in may outlive its board (R340). -/
  ctx : BitVec 6
  /-- A page-in that goes on after its board has been released: it is no command of a board (R338, R340). -/
  orphan : Bool
  /-- Which of the units of its kind performs it: commands of one unit keep their order (R291). -/
  lane : Nat
  /-- The unit has read its descriptor, `desc`, and begun (R291). -/
  begun : Bool
  desc : List Word
  /-- The writes to cell store that the issuing activation had in flight at issue (R258). -/
  after : List Nat
  /-- Of an `mx.loop`: the iteration it is in, the command of its body, and that command's `note` (R285). -/
  iter : Nat
  index : Nat
  bodyNote : Nat
  /-- The stream head or window the command waits at, for which it holds an entry of the wait table (R222). -/
  waits : Option ParkKey
  /-- Of a remote copy: the units of the chunk it has read and not yet sent, with their addresses and whether they are
  poisoned (R294). -/
  buf : List (Word × List Byte × Bool)
  deriving DecidableEq, Repr

/-- A completion token held for channel space (R66). -/
structure HeldToken where
  chan : ChIdx
  lane : W32
  sb : BitVec 3
  flags : BitVec 5
  /-- The unit whose place the command still takes. -/
  unit : Nat
  deriving DecidableEq, Repr

/-- The commands of one engine for this cell, oldest first, and the tokens it holds. -/
structure EngineQ where
  q : List Cmd
  held : List HeldToken
  deriving DecidableEq, Repr

/-- A section of the matrix engine (R285): the pending count and the body buffered for its loop. -/
structure Section where
  count : Nat
  body : List Cmd
  deriving DecidableEq, Repr

/-- A page header as read (R296, R299). -/
structure Page where
  hdr : Word
  next : Word
  tier : BitVec 2
  tcount : Nat
  posBase : Nat
  data : Word
  far : Word
  sketch : Word
  index : Nat
  /-- The code of the fault that a load of the page raises: a malformed or unreadable header, a failed page-in; 0 none. -/
  err : Byte
  /-- The walk was restored and has not read the header again (R299, R308). -/
  stale : Bool
  deriving DecidableEq, Repr

/-- A walk of the string walker (R298, R299). `pages` holds the cursor's page and the lookahead, in string order; `faddr` is FTAB, and
`ftabDue` says that it has still to be read. -/
structure Walk where
  auto : Bool
  pair : Bool
  cap : Nat
  hd : Nat
  kf : FmtDesc
  vf : FmtDesc
  low : Nat
  faddr : Word
  ftabDue : Bool
  ftab : List W32
  index : Nat
  next : Word
  pages : List Page
  /-- The pages for which a tier-miss record was posted (R302). -/
  posted : List Nat
  deriving DecidableEq, Repr

/-- A record in a cell's stream window unit (R266): the values pushed to it and the fixed fields. -/
structure WinRec where
  num : BitVec 15
  head : BitVec 48
  tail : BitVec 48
  closed : Bool
  slot : Option (BitVec 48)
  ftab : Word
  back : BitVec 2
  k : Nat
  logn : Nat
  deriving DecidableEq, Repr

/-- The fields of a fault record that are fixed when the fault is raised (R330, R333). -/
structure FaultRec where
  code : Byte
  detail : Byte
  t : Bool
  src : BitVec 2
  hnd : BitVec 7
  word : W32
  pc : Pc
  info : W32
  aux0 : W32
  aux1 : Word
  deriving DecidableEq, Repr

/-- The k-registers that hold state of their own (R30). KSB, KHND, KDOM and parts of KMXSTAT are derived. -/
structure KRegs where
  prio : BitVec 4
  prte : Bool
  lvl : Bool
  t : Bool
  cause : Word
  epc : Pc
  vec : Pc
  tven : Bool
  fflags : BitVec 5
  te : BitVec 5
  sat : Bool
  rm : BitVec 3
  femode0 : W32
  femode1 : W32
  cyc : Word
  dkey : Word
  ctx : BitVec 6
  wovf : W32
  ovi : Bool
  kidx : BitVec 16
  row : BitVec 5
  scale : Vector Byte 8
  ecnt : Vector W32 8
  pwb : Vector Word 8
  pws : Vector Word 8
  deriving DecidableEq, Repr

/-- A configuration group that was addressed to a cell: its number there, its table and the instruction-store range it
wrote, or the node slot it configured (R334). -/
structure CfgMark where
  number : Nat
  table : Nat
  first : Nat
  count : Nat
  deriving DecidableEq, Repr

/-- One cell (R7), with the units that serve it alone. Sparse stores list only what differs from their reset value. -/
structure Cell where
  x : Vector XReg 32
  p : Vector Bool 8
  v : Vector VReg 32
  tiles : List (Nat × Byte)
  acc : List (Nat × W32)
  inner : List (Nat × Inner)
  poison : List (Nat × Bool)
  store : List (Nat × Byte)
  emptyWords : List (Nat × Bool)
  istore : List (Nat × W32)
  /-- The aligned 8-byte units of cell store, tile rows (32 × tile + row) and instruction words that hold an error that
  cannot be corrected (R288, R331). -/
  badStore : List (Nat × Bool)
  /-- Those units of cell store that a copy or the link poisoned (R295). -/
  poisonStore : List (Nat × Bool)
  badTiles : List (Nat × Bool)
  badCode : List (Nat × Bool)
  k : KRegs
  draw : Word
  pc : Pc
  cur : Option (BitVec 6)
  hold : Option Hold
  hnd : Vector Handler 64
  ptr : Vector (BitVec 6) 16
  sb : Vector Nat 8
  inflight : List Access
  nextId : Nat
  l1 : List (Nat × List Byte)
  /-- The units of 8 bytes of the lines in the L1 that came damaged (R331). -/
  l1Bad : List (Nat × Bool)
  win : List WinRec
  chan : Vector Channel 32
  outq : Vector OutQueue 8
  slots : List (Nat × W32)
  node : Vector Node 4
  mx : EngineQ
  cp : EngineQ
  kv : EngineQ
  sk : EngineQ
  ch : EngineQ
  gs : EngineQ
  sections : Vector Section 8
  collecting : Option (BitVec 3 × Nat)
  walks : Vector (Option Walk) 4
  arrivals : Nat
  /-- The messages that wait in the conversation port for a place (R383), oldest first. -/
  port : List (ChIdx × Packet)
  /-- This load has posted its stall notice for the wide wait list (R222). -/
  widePosted : Bool
  failedTo : List Byte
  fault : Option FaultRec
  stopped : Bool
  board : Option Nat
  marks : List CfgMark
  deriving DecidableEq, Repr

/-! ### The package -/

/-- A user recipe (R363): constant, width, and micro-ops as (OPC, D, SA, SB). -/
structure Recipe where
  imm : Word
  w4 : Bool
  ops : List (Nat × Nat × Nat × Nat)
  deriving DecidableEq, Repr

/-- A unit beside the cells that has met a translation stall in a context, and waits for its resume doorbell (R208): the publishing of its
event records (R225), the reading of a launch stream (R320), the placing of the pipes of a launch (R317), the check of a load (R162, R324),
the check of a load while the one before it runs, the save of a launch (R339), and the write of a round's result at its home (R376). -/
inductive StallUnit where
  | events
  | read (prio : BitVec 4)
  | place (launch : Nat)
  | load (board : Nat) (issuer : Option (CellId × Nat))
  | ahead (board : Nat)
  | save (launch : Nat)
  | round (g : Byte)
  deriving DecidableEq, Repr

/-- A context (R312) with its event overflow buffer (R225). -/
structure Context where
  root : Nat
  seed : Word
  mflags : Word
  strec : Word
  prioMask : BitVec 16
  maxBlk : Nat
  rtok : Bool
  owner : BitVec 5
  recipes : List (Nat × Recipe)
  overflow : List (List Word)
  lost : Nat
  /-- The 64 KiB units on which a stall notice was posted since the last resume (R208). -/
  noticed : List Nat
  /-- The units beside the cells that wait for the resume (R208). -/
  stalled : List StallUnit
  /-- The position of the next record to read of each launch stream. -/
  readPos : Vector (BitVec 48) 16
  deriving DecidableEq, Repr

/-- A translation a TLB holds (R209): context, page number of 64 KiB, physical address of that unit, entry bits 7:0. -/
structure TlbEntry where
  ctx : BitVec 6
  page : Nat
  pa : Nat
  attr : Byte
  deriving DecidableEq, Repr

/-- A stream number bound to a record (R210, R249). The record's fields stand in memory (R267); the frame table was read at the
bind. -/
structure Bound where
  ctx : BitVec 6
  num : BitVec 15
  va : Word
  pa : Nat
  /-- The frame entries that the home unit read when it bound the record (R265). -/
  frames : List Word
  /-- The launch whose own `sbind` bound it (R345). -/
  by_ : Option Nat
  deriving DecidableEq, Repr

/-- Flags waiting to be ORed into a memory-flags word (R247). -/
structure FlagWrite where
  cell : CellId
  ctx : BitVec 6
  flags : BitVec 5
  stalled : Bool
  deriving DecidableEq, Repr

/-- A packet travelling a circuit toward one end (R123, R125). -/
structure Flight where
  src : CellId
  q : BitVec 3
  dst : CellId
  ch : ChIdx
  pkt : Packet
  deriving DecidableEq, Repr

/-- The places still to free for one packet of a branching circuit (R123). -/
structure CreditJoin where
  cell : CellId
  q : BitVec 3
  n : Nat
  remaining : Nat
  deriving DecidableEq, Repr

/-- What a board is doing (R134, R326, R338, R339): `empty` while a load is on its way to it. -/
inductive Phase where
  | empty | running | draining | preempting
  deriving DecidableEq, Repr

/-- One group of a configuration image (R128). -/
structure CfgGroup where
  hop : Nat
  row : Nat
  table : Nat
  index : Nat
  empty : Bool
  data : List Word
  deriving DecidableEq, Repr

/-- A board (R112) and the fabric load on it. -/
structure Board where
  id : Nat
  ctx : BitVec 6
  die : Nat
  brow : Nat
  bcol : Nat
  h : Nat
  w : Nat
  lvl : Bool
  launch : Option Nat
  member : Nat
  phase : Phase
  load : Nat
  generation : Nat
  /-- The watchdog count (R337). -/
  watchdog : Nat
  /-- The products of the load's matrix engines so far, M of R322. -/
  products : Nat
  cls : Option Bool
  drainFor : Option (CellId × Nat)
  /-- The check of the next load of its graph, once made while the current one runs: the groups, or none where it failed (R324). -/
  ahead : Option (Option (List CfgGroup))
  deriving DecidableEq, Repr

/-- Where a load request stands (R134, R163, R164). -/
inductive LoadPhase where
  | asked | graceful | words
  deriving DecidableEq, Repr

/-- A request to the loader: a `cfg.load` or `cfg.drain` of a cell, or a load of a graph (issuer none). -/
structure LoadReq where
  issuer : Option (CellId × Nat)
  ctx : BitVec 6
  addr : Word
  desc : Word
  windows : List (Word × Word)
  drain : Bool
  phase : LoadPhase
  groups : List CfgGroup
  board : Nat
  deriving DecidableEq, Repr

/-- One fabric load of a graph (R316). -/
structure GraphLoad where
  img : Word
  len : Nat
  arms : List Word
  armsOk : Bool
  deriving DecidableEq, Repr

/-- A member graph of a gang (R314, R316). -/
structure Member where
  graph : Word
  lvl : Bool
  h : Nat
  w : Nat
  loads : List GraphLoad
  board : Option Nat
  fired : Nat
  ended : Bool
  cls : Option Bool
  deriving DecidableEq, Repr

/-- A named pipe of a launch (R317). -/
structure Pipe where
  record : Word
  member : Nat
  stream : BitVec 15
  deriving DecidableEq, Repr

/-- Where a launch stands. -/
inductive LaunchSt where
  | candidate | admitted | ended
  deriving DecidableEq, Repr

/-- A pre-emption request on a launch (R339). -/
structure PreReq where
  save : Word
  limit : Nat
  deriving DecidableEq, Repr

/-- A board as pre-emption saved it (R342): where it stood and its cells in board-relative order. -/
structure Saved where
  member : Nat
  die : Nat
  brow : Nat
  bcol : Nat
  load : Nat
  products : Nat
  cls : Option Bool
  cells : List Cell
  joins : List CreditJoin
  /-- The slots that its cells hold in streams: the address of the record, and the cell. -/
  slots : List (Nat × CellId)
  deriving DecidableEq, Repr

/-- A launch (R314, R318, R327). -/
structure Launch where
  id : Nat
  ctx : BitVec 6
  prio : Nat
  pos : BitVec 48
  tag : BitVec 16
  ser : Bool
  clsHint : BitVec 2
  windows : List (Word × Word)
  members : List Member
  pipes : List Pipe
  st : LaunchSt
  passes : Nat
  reserved : Option Nat
  status : Option Byte
  preempt : Option PreReq
  /-- The save addresses of pre-emption requests that the launch's completion answers (R347). -/
  late : List Word
  saved : List Saved
  /-- Where the boards were saved, and the number of that save (R342). -/
  saveAt : Word × Nat
  /-- Restored only at the dies and origins of the boards saved (R345). -/
  pinned : Bool
  /-- The requests to the loader that a pre-emption holds until every board is restored, each with the member that it belongs to while that
  one is saved (R339, R344). -/
  requests : List (Option Nat × LoadReq)
  deriving DecidableEq, Repr

/-- The end-to-end seal of a packet (R404): its key, where the session of the pair gives one, its nonce, and the routing header that is
the additional data, but for the kind, which the message says itself. -/
structure Seal where
  key : Option (BitVec 256)
  nonce : BitVec 96
  target : Byte
  tag : BitVec 2
  seq : BitVec 48
  deriving DecidableEq, Repr

/-- The tag of a run (R368, R404): CRC-64 with the ECMA-182 polynomial, or AES-GMAC under Klink of the link's ends, with its nonce. -/
inductive RunTag where
  | crc64
  | gmac (key : Option (BitVec 256)) (nonce : BitVec 96)
  deriving DecidableEq, Repr

/-- What leaves the package: to peers, to the host, to SPDM requesters. The model keeps it in order. -/
inductive OutMsg where
  | request (target : Byte) (path : BitVec 2) (r : RemoteReq)
  | acknowledge (target : Byte) (seq : BitVec 48) (poison : Bool)
  | answer (target : Byte) (seq : BitVec 48) (a : RemoteAnswer)
  | holdNotice (target : Byte) (seq : BitVec 48)
  /-- A packet was refused: a request, or a reply (R405). -/
  | negative (target : Byte) (seq : BitVec 48) (reply : Bool)
  | refusal (target : Byte) (seq : BitVec 48) (misaligned : Bool)
  | pathDown (port : BitVec 5)
  | message (e : Endpoint) (ctx : BitVec 6) (entry : BitVec 12) (role : BitVec 3) (lanes : List W32)
  | convCredit (target : Byte) (entry : BitVec 12) (role : BitVec 3) (cell : CellId) (ch : ChIdx)
  /-- The negative notice for a run whose tag has failed (R368). -/
  | runRefused (port : BitVec 5)
  | barrier (target : Byte) (ready : Bool) (epoch : Word)
  | runTag (port : BitVec 5) (tag : RunTag)
  /-- A packet of a trust domain, sealed end to end (R404). -/
  | sealed (q : Seal) (m : OutMsg)
  /-- The load of the endpoint of a role has ended here (R396). -/
  | endpointEnded (target : Byte) (entry : BitVec 12) (role : BitVec 3) (e : Endpoint)
  /-- A delegation notice has been taken here, or refused (R390). -/
  | noticed (target : Byte) (entry : BitVec 12) (role : BitVec 3) (cell : CellId) (ch : ChIdx) (taken : Bool)
  | hostRead (data : List Byte)
  | hostAbort
  | hostUnsupported
  | msix (vf : BitVec 5) (vec : Bool) (addr : Word) (data : W32)
  | convBroken (target : Byte) (ctx : BitVec 6) (rec : List Word)
  | spdm (who : BitVec 9) (code : String) (data : List Nat)
  deriving DecidableEq, Repr

/-- A request this package has sent and that is not yet answered (R360), with the instruction it came from. `access` is
the access in flight of the cell that the answer completes; `path` none says that it is held for a live path (R358). -/
structure OutReq where
  req : RemoteReq
  path : Option (BitVec 2)
  access : Option Nat
  hnd : BitVec 6
  pc : Pc
  word : W32
  write : Bool
  engine : Bool
  /-- Of a flit of a copy: the first element of its chunk (R295). -/
  unit : Nat
  refused : Nat
  /-- A hold notice has come since the last resend (R356). -/
  noticed : Bool
  /-- The load that issued it has ended. -/
  gone : Bool
  /-- The launch whose load issued it. -/
  launch : Option Nat
  /-- The answer that has come and whose result write meets a translation stall here (R376). -/
  due : Option RemoteAnswer
  /-- The member, and the place on its board, of the cell that issued it, while a pre-emption keeps that board saved (R340, R346, R388). -/
  away : Option (Nat × Nat)
  deriving DecidableEq, Repr

/-- Both sides of the pair of this package and one other (R350, R351, R358, R360, R361, R369). -/
structure Peer where
  ports : Vector (Option (BitVec 5)) 4
  live : Vector Bool 4
  last : Option (BitVec 2)
  nextSeq : BitVec 48
  out : List OutReq
  s : Vector W32 4
  failed : Bool
  seen : List (BitVec 48)
  top : Option (BitVec 48)
  results : List (BitVec 48 × RemoteAnswer)
  /-- The requests that were refused, with whether it was with MISALIGNED (R357). -/
  refusals : List (BitVec 48 × Bool)
  /-- The answers that went back to the other package, with the tags of their paths: they are resent when one is refused (R405), and a poison
  mark is repeated for a duplicate (R361, R368). -/
  replies : List (BitVec 48 × BitVec 2 × OutMsg)
  held : List RemoteReq
  q : Vector W32 4
  badRun : Nat
  deriving DecidableEq, Repr

/-- A contribution the home holds (R366, R377). -/
structure Contrib where
  src : Byte
  req : RemoteReq
  round : Nat
  data : List Byte
  deriving DecidableEq, Repr

/-- A group installed on this package (R365-R367, R377). `mine` counts this package's own contributions. -/
structure Group where
  ctx : BitVec 6
  g : Byte
  members : List Byte
  home : Byte
  gto : W32
  count : Nat
  multicast : Bool
  outF32 : Bool
  inF32 : Bool
  dst : Word
  round : Nat
  mine : Nat
  contribs : List Contrib
  /-- Masks of the rounds closed with members absent. -/
  closed : List (Nat × Word)
  deriving DecidableEq, Repr

/-- A `grp.set` at the home that waits for the round in progress to end: the access it answers, and the group it installs; none
removes (R365). -/
structure GroupOp where
  cell : CellId
  id : Nat
  ctx : BitVec 6
  g : Byte
  new : Option Group
  deriving DecidableEq, Repr

/-- A transition of a protocol (R380). -/
structure Trans where
  state : Byte
  role : BitVec 3
  kind : BitVec 6
  next : Byte
  recv : Byte
  choice : Bool
  deriving DecidableEq, Repr

/-- A message the home has not delivered: for which role, its lanes, whether it has a credit, without which it takes a place of the buffer
(R383), its endpoint once there is one, with the launch that holds it there, and whether it is a delegation notice sent to another package that
has not said yet whether it took it (R390). -/
structure ConvMsg where
  role : BitVec 3
  lanes : List W32
  credit : Bool
  dest : Option Endpoint
  own : Option Nat
  sent : Bool
  deriving DecidableEq, Repr

/-- An entry of the conversation table in use (R378). -/
structure Conv where
  ctx : BitVec 6
  image : List Word
  roles : Nat
  trans : List Trans
  state : Byte
  turns : W32
  brk : Bool
  cause : BitVec 3
  role : Vector (Option Endpoint) 8
  /-- The launch whose load holds a role, of an endpoint on the home's own package (R396). -/
  owner : Vector (Option Nat) 8
  /-- The credits the home holds for an endpoint (R383). -/
  credits : List (Endpoint × Nat)
  msgs : List ConvMsg
  heldTurns : List (Byte × RemoteReq)
  heldClose : List (Byte × RemoteReq)
  /-- A close has broken it: the entry is freed once the notices are sent (R391). -/
  closing : Bool
  waiting : List (Byte × RemoteReq × Byte)
  deriving DecidableEq, Repr

/-- A role that a cell of this package holds in a conversation homed elsewhere (R397), and the launch whose load holds it. -/
structure Binding where
  home : Byte
  entry : BitVec 12
  ctx : BitVec 6
  role : BitVec 3
  cell : CellId
  ch : ChIdx
  launch : Option Nat
  deriving DecidableEq, Repr

/-- The epoch barrier in progress (R407): whether this package has drained. -/
structure Barrier where
  drained : Bool
  deriving DecidableEq, Repr

/-- What a reply packet or a notice says: an acknowledgement, an answer, a refusal, that a request is held, or that a packet was refused. -/
inductive Reply where
  | acknowledge (poison : Bool)
  | answer (a : RemoteAnswer)
  | refusal (misaligned : Bool)
  | held
  | negative (reply : Bool)
  deriving DecidableEq, Repr

/-- Trust-domain state (R406-R409). -/
structure Trust where
  td : Bool
  epoch : Word
  mask : BitVec 256
  pending : Option (BitVec 256 × Word)
  barrier : Option Barrier
  /-- The DRAINED and READY messages that have come: from which package, for which epoch e (R407). -/
  reports : List (Byte × Word)
  /-- Packets of the next epoch that came before the switch (R409). -/
  ahead : List (Byte × RemoteReq)
  /-- Replies and notices of the next epoch that came before the switch: from which package, with which seal (R409). -/
  aheadReplies : List (Byte × ReplyHead × Reply)
  epDrop : Byte
  sealF : Byte
  /-- The pair keys of the current epoch: with each other member, Kseal toward it and from it (R403). -/
  keys : List (Nat × BitVec 256 × BitVec 256)
  /-- The export secrets of the sessions that this package opened as requester (R401, R403). -/
  sessions : List (Nat × BitVec 256)
  deriving DecidableEq, Repr

/-- How far an SPDM requester has come, and its session (R401). -/
structure Spdm where
  version : Bool
  caps : Bool
  algs : Bool
  exchanged : Option (BitVec 256)
  session : Option (BitVec 256)
  updates : Nat
  deriving DecidableEq, Repr

/-- The states of a TDISP interface (R411). -/
inductive Tdisp where
  | unlocked | locked | run | error
  deriving DecidableEq, Repr

/-- A virtual function: its interface, which a stop leaves in its state until the scrub completes, IDE key, frozen registers, MSI-X vectors' mask
and pending bits, and the address and data of their table (R411, R414). -/
structure Vf where
  st : Tdisp
  stopping : Bool
  ideKey : Option (BitVec 256)
  command : Word
  msix : Word
  masked : Vector Bool 2
  pendingBit : Vector Bool 2
  table : Vector (Word × W32) 2
  deriving DecidableEq, Repr

/-- An aperture slot (R220). -/
structure Aperture where
  en : Bool
  ctx : BitVec 6
  num : BitVec 15
  view : BitVec 48
  deriving DecidableEq, Repr

/-- PF BAR 0 and the power state (R415-R418). `result` is the outcome of the mailbox operation in progress once it has
been performed. -/
structure HostPort where
  powered : Bool
  stage : BitVec 3
  ps : BitVec 2
  clk : Byte
  trip : Bool
  tsrc : BitVec 3
  mbop : Byte
  arg0 : Word
  arg1 : Word
  busy : Bool
  mbstat : Byte
  desc : List Byte
  result : Option Byte
  clockStopped : Bool
  gated : BitVec 144
  /-- The context set-up in progress has met a translation stall, and waits for the resume doorbell of its context (R208, R312). -/
  held : Bool
  vfBar : Word
  vfBar2 : Word
  numVfs : Word
  vfEnable : Word
  ideKey : Option (BitVec 256)
  vfs : Vector Vf 16
  deriving DecidableEq, Repr

/-- A request of a run whose tag has still to come, in skid mode (R368): the bytes it wrote, as (cell or memory, offset or key,
size), and its answer. The run is that of the port by which the request came. -/
structure SkidReq where
  src : Byte
  tag : BitVec 2
  port : BitVec 5
  seq : BitVec 48
  pieces : List (Option CellId × Nat × Nat)
  msg : Option OutMsg
  /-- The run's tag has failed before the request was performed. -/
  failed : Bool
  /-- A duplicate in its own run: it writes nothing (R361). -/
  again : Bool
  deriving DecidableEq, Repr

/-- What the package holds beside its cells. -/
structure Package where
  number : Byte
  mem : List (Nat × Byte)
  /-- The far-tier bytes (T = 1) last written by an access: the cell and the number of the access, or `none` once the CXL device has completed
  the write (R239). -/
  cxl : List (Nat × Option (CellId × Nat))
  /-- The aligned 8-byte units that hold data that cannot be corrected, and those of them that a copy poisoned (R295, R331). -/
  bad : List (Nat × Bool)
  poison : List (Nat × Bool)
  /-- The ranges of the far-tier port's decoders, base and bytes of each (R413). -/
  far : List (Nat × Nat)
  updates : List (Nat × BitVec 16)
  tlb : List TlbEntry
  contexts : List (Nat × Context)
  bound : List Bound
  flagWrites : List FlagWrite
  boards : List Board
  nextBoard : Nat
  /-- The cells that have raised a fault, in the order in which they raised it (R336). -/
  raised : List CellId
  launches : List Launch
  nextLaunch : Nat
  reservations : Nat
  /-- A record was published, a launch completed or a board was released since the allocator last acted (R318). -/
  allocDue : Bool
  saves : Nat
  lastAdmitted : Vector (BitVec 6) 16
  classes : List (Word × Bool)
  loads : List LoadReq
  wire : List Flight
  creditWire : List (CellId × BitVec 3)
  joins : List CreditJoin
  watchdogLimit : Nat
  peers : List (Nat × Peer)
  linkTimeout : Nat
  resendInterval : Nat
  skid : Bool
  runs : List (Nat × Nat)
  /-- The runs sent by each port in this epoch (R404). -/
  runCounts : List (Nat × Nat)
  skidRun : List SkidReq
  groups : List Group
  /-- Contributions for a group that the home has not installed yet (R377), and the groups it has removed (R365). -/
  early : List Contrib
  removed : List (BitVec 6 × Byte)
  groupOps : List GroupOp
  convs : List (Nat × Conv)
  /-- Endpoints of this package that held a role of a conversation homed here when their load ended (R396). -/
  endings : List (BitVec 12 × BitVec 3 × Endpoint)
  bindings : List Binding
  /-- Credits on their way back to conversations homed here (R383). -/
  convCredits : List (BitVec 12 × BitVec 3 × CellId × ChIdx)
  trust : Trust
  spdm : List (Nat × Spdm)
  apertures : List (Nat × Aperture)
  host : HostPort
  outbox : List OutMsg
  deriving DecidableEq, Repr

/-! ### The machine -/

/-- Who moves next: the core of a cell, or one step of the hardware. -/
inductive Move where
  | core (c : CellId)
  | event (i : Instr)
  deriving DecidableEq, Repr

/-- The machine. `here` is the cell in focus and `cell` its state; `others` lists the cells that differ from a cell no
load has fired on. `agenda` fixes the order of moves where the spec leaves it open (timing); when it is empty the
default order of `Step.lean` applies. `tick` numbers the free values. -/
structure State where
  agenda : List Move
  tick : Nat
  here : CellId
  cell : Cell
  others : List (Nat × Cell)
  pkg : Package
  deriving DecidableEq, Repr

/-- Where the machine stops for good. -/
inductive Fault where
  /-- Raised by `step` when the module is off (R417 PS3, R418) and a core would issue: the spec gives a powered-off
  module no step but the application of power. Safe: the model stops. -/
  | poweredOff
  deriving DecidableEq, Repr

/-- Where the model gives no meaning. -/
inductive Refusal where
  /-- Raised by an arm of `exec` for an instruction that has no meaning yet. Safe. -/
  | notModelled (mnemonic : String)
  deriving DecidableEq, Repr

/-! ### Reset -/

/-- A register as R11 leaves it. -/
def XReg.reset : XReg := ⟨0, .full⟩
/-- A packet register as R11 leaves it: zero, length 8 (encoded 0), full. -/
def VReg.reset : VReg := ⟨Vector.replicate 8 0, 0, .full⟩
/-- A handler entry no configuration word has written (R130). -/
def Handler.reset : Handler :=
  ⟨false, false, false, 0, 0, false, 0, .idle, 0, none, false, 0, 0, 0, false, .none⟩
/-- A channel entry no configuration word has written (R118, R131: RM 7). -/
def Channel.reset : Channel :=
  ⟨false, false, false, false, 0, 0, 0, 0, 0, false, 7, false, 0, 0, [], false, none, false⟩
/-- An out-queue entry no configuration word has written (R118). -/
def OutQueue.reset : OutQueue := ⟨false, 0, 0, [], 0, false, 0⟩
/-- The k-registers at the values of R30; "load" values are zero until a load fires. -/
def KRegs.reset : KRegs :=
  { prio := 0, prte := false, lvl := false, t := false, cause := 0, epc := 0, vec := 0, tven := false, fflags := 0,
    te := 0, sat := false, rm := 0, femode0 := 0, femode1 := 0, cyc := 0, dkey := 0, ctx := 0, wovf := 0, ovi := false,
    kidx := 0, row := 0, scale := Vector.replicate 8 0x7F, ecnt := Vector.replicate 8 0, pwb := Vector.replicate 8 0,
    pws := Vector.replicate 8 0 }
/-- No command and no held token. -/
def EngineQ.reset : EngineQ := ⟨[], []⟩

/-- A cell as R11 leaves it, without what a configuration image places. -/
def Cell.reset : Cell :=
  { x := Vector.replicate 32 XReg.reset, p := Vector.replicate 8 false, v := Vector.replicate 32 VReg.reset,
    tiles := [], acc := [], inner := [], poison := [], store := [], emptyWords := [], istore := [],
    badStore := [], poisonStore := [], badTiles := [], badCode := [],
    k := KRegs.reset, draw := 0, pc := 0, cur := none, hold := none, hnd := Vector.replicate 64 Handler.reset,
    ptr := Vector.replicate 16 63, sb := Vector.replicate 8 0, inflight := [], nextId := 0, l1 := [], l1Bad := [], win := [],
    chan := Vector.replicate 32 Channel.reset, outq := Vector.replicate 8 OutQueue.reset, slots := [],
    node := Vector.replicate 4 .none, mx := .reset, cp := .reset, kv := .reset, sk := .reset, ch := .reset, gs := .reset,
    sections := Vector.replicate 8 ⟨0, []⟩, collecting := none, walks := Vector.replicate 4 none, arrivals := 0, port := [],
    widePosted := false, failedTo := [], fault := none, stopped := false, board := none, marks := [] }

/-- A pair never used: no path, counts and sequences at 0 (R360). -/
def Peer.reset : Peer :=
  { ports := Vector.replicate 4 none, live := Vector.replicate 4 false, last := none, nextSeq := 0, out := [],
    s := Vector.replicate 4 0, failed := false, seen := [], top := none, results := [], refusals := [], replies := [], held := [],
    q := Vector.replicate 4 0, badRun := 0 }

/-- A virtual function before any request (R411). -/
def Vf.reset : Vf := ⟨.unlocked, false, none, 0, 0, Vector.replicate 2 true, Vector.replicate 2 false, Vector.replicate 2 (0, 0)⟩

/-- The host port at reset (R415). -/
def HostPort.reset : HostPort :=
  { powered := false, stage := 0, ps := 0, clk := 25, trip := false, tsrc := 0, mbop := 0, arg0 := 0, arg1 := 0, busy := false,
    mbstat := 0, desc := List.replicate 64 0, result := none, clockStopped := false, gated := 0, held := false, vfBar := 0, vfBar2 := 0,
    numVfs := 0, vfEnable := 0, ideKey := none, vfs := Vector.replicate 16 Vf.reset }

/-- The package at reset: no context, board, launch or conversation. -/
def Package.reset : Package :=
  { number := 0, mem := [], cxl := [], bad := [], poison := [], far := [], updates := [], tlb := [], contexts := [], bound := [],
    flagWrites := [], boards := [], nextBoard := 0, raised := [], launches := [], nextLaunch := 0, reservations := 0, allocDue := false, saves := 0,
    lastAdmitted := Vector.replicate 16 63, classes := [], loads := [], wire := [], creditWire := [], joins := [],
    watchdogLimit := 2 ^ 28, peers := [], linkTimeout := 50, resendInterval := 8, skid := false, runs := [], runCounts := [], skidRun := [],
    groups := [], early := [], removed := [], groupOps := [], convs := [], endings := [], bindings := [], convCredits := [], trust := ⟨false, 0, 0, none, none, [], [], [], 0, 0, [], []⟩, spdm := [], apertures := [],
    host := .reset, outbox := [] }

/-- The machine right after reset. -/
def State.reset : State :=
  { agenda := [], tick := 0, here := 0, cell := .reset, others := [], pkg := .reset }

end Sys2Proof.Machine
end

