-- ==== Sys2Proof/Machine/Ops.lean ====
section
/-! DEFINITION. The named operations every meaning is written over: sparse maps, bytes, the cell in focus, reading and
writing registers (R15-R19), holding at issue, faults (R330-R334), taking a trap (R24) and returning from one (R106). -/

namespace Sys2Proof.Machine

/-- What a meaning answers. -/
abbrev Result := Host.Outcome State Fault Refusal

/-! ### Sparse maps: keys strictly rising, and no entry equal to the default -/

/-- What a sparse map holds at a key. -/
def sget {α : Type} (dflt : α) : List (Nat × α) → Nat → α
  | [], _ => dflt
  | (j, v) :: r, k => if j = k then v else sget dflt r k

/-- A keyed list with a key that it does not have, put before the first greater one. -/
def sinsert {α : Type} (k : Nat) (v : α) : List (Nat × α) → List (Nat × α)
  | [] => [(k, v)]
  | (j, w) :: r => if k < j then (k, v) :: (j, w) :: r else (j, w) :: sinsert k v r

/-- A sparse map with one key rewritten. -/
def sput {α : Type} [DecidableEq α] (dflt : α) (k : Nat) (v : α) (m : List (Nat × α)) : List (Nat × α) :=
  let rest := m.filter fun e => e.1 != k
  if v = dflt then rest else sinsert k v rest

/-- The canonical form, for a map whose keys start at lo. -/
def sparseFrom {α : Type} [DecidableEq α] (dflt : α) : Nat → List (Nat × α) → Bool
  | _, [] => true
  | lo, (j, v) :: r => decide (lo ≤ j) && (!decide (v = dflt)) && sparseFrom dflt (j + 1) r

/-- The canonical form of a sparse map. -/
def sparseWf {α : Type} [DecidableEq α] (dflt : α) (l : List (Nat × α)) : Bool := sparseFrom dflt 0 l

/-- A sparse map with the keys from k on rewritten by a list of values. -/
def sputs {α : Type} [DecidableEq α] (dflt : α) : Nat → List α → List (Nat × α) → List (Nat × α)
  | _, [], m => m
  | k, v :: vs, m => sputs dflt (k + 1) vs (sput dflt k v m)

/-- The n values from key k on. -/
def sgets {α : Type} (dflt : α) (m : List (Nat × α)) (k n : Nat) : List α := (List.range n).map fun i => sget dflt m (k + i)

/-- The entry of a key in a keyed list, if there is one. -/
def aget {α : Type} : List (Nat × α) → Nat → Option α
  | [], _ => none
  | (j, v) :: r, k => if j = k then some v else aget r k

/-- A keyed list, keys rising, with one entry put in or replaced. -/
def aput {α : Type} (k : Nat) (v : α) : List (Nat × α) → List (Nat × α)
  | [] => [(k, v)]
  | (j, w) :: r => if k < j then (k, v) :: (j, w) :: r else if k = j then (k, v) :: r else (j, w) :: aput k v r

/-- A keyed list without one entry. -/
def adel {α : Type} (k : Nat) (l : List (Nat × α)) : List (Nat × α) := l.filter fun e => e.1 != k

/-- A list with its i-th entry changed. -/
def modNth {α : Type} (f : α → α) : Nat → List α → List α
  | _, [] => []
  | 0, a :: r => f a :: r
  | i + 1, a :: r => a :: modNth f i r

/-- A list without its i-th entry. -/
def delNth {α : Type} : Nat → List α → List α
  | _, [] => []
  | 0, _ :: r => r
  | i + 1, a :: r => a :: delNth i r

/-! ### Bytes, least significant first (R2) -/

/-- The n low bytes of a number. -/
def bytesOf : Nat → Nat → List Byte
  | 0, _ => []
  | n + 1, v => BitVec.ofNat 8 v :: bytesOf n (v / 256)

/-- The number that bytes spell. -/
def ofBytes : List Byte → Nat
  | [] => 0
  | b :: r => b.toNat + 256 * ofBytes r

/-- A word of 64 bits from its bytes. -/
def wordOfBytes (l : List Byte) : Word := BitVec.ofNat 64 (ofBytes l)

/-- The lanes that bytes spell, four bytes each. -/
def lanesOfBytes : Nat → List Byte → List W32
  | 0, _ => []
  | n + 1, l => BitVec.ofNat 32 (ofBytes (l.take 4)) :: lanesOfBytes n (l.drop 4)

/-- The bytes of lanes. -/
def bytesOfLanes (l : List W32) : List Byte := l.flatMap fun w => bytesOf 4 w.toNat

/-- The 64-bit words that bytes spell. -/
def wordsOfBytes : Nat → List Byte → List Word
  | 0, _ => []
  | n + 1, l => wordOfBytes (l.take 8) :: wordsOfBytes n (l.drop 8)

/-- The low n bytes of a value sign-extended to 64 bits, `Sext(v, 8n)` (R83). -/
def sextBytes (n : Nat) (v : Nat) : Word := (BitVec.ofNat (8 * n) v).signExtend 64

/-- A field of a number: `w` bits from bit `lo`. -/
def bits (v lo w : Nat) : Nat := v / 2 ^ lo % 2 ^ w

/-- A bit of a number. -/
def bitOf (v i : Nat) : Bool := v.testBit i

/-! ### The cell in focus and the others -/

/-- The state with the cell in focus changed. -/
def State.onCell (f : Cell → Cell) (s : State) : State := { s with cell := f s.cell }
/-- The state with the package changed. -/
def State.onPkg (f : Package → Package) (s : State) : State := { s with pkg := f s.pkg }

/-- A cell of the package, in focus or not. -/
def State.cellAt (s : State) (c : CellId) : Cell := if c = s.here then s.cell else sget Cell.reset s.others c.toNat

/-- The state with one cell, in focus or not, put in place. -/
def State.putCell (c : CellId) (x : Cell) (s : State) : State :=
  if c = s.here then { s with cell := x } else { s with others := sput Cell.reset c.toNat x s.others }

/-- The state with one cell, in focus or not, changed. -/
def State.atCell (c : CellId) (f : Cell → Cell) (s : State) : State := s.putCell c (f (s.cellAt c))

/-- The same machine with another cell in focus. -/
def State.focus (c : CellId) (s : State) : State :=
  if c = s.here then s
  else { s with here := c, cell := sget Cell.reset s.others c.toNat,
                others := sput Cell.reset c.toNat Cell.reset (sput Cell.reset s.here.toNat s.cell s.others) }

/-- Run an operation with a cell in focus, and come back. -/
def State.within (c : CellId) (f : State → State) (s : State) : State := (f (s.focus c)).focus s.here

/-- Every cell of the package changed by a function that leaves a cell at reset as it is. -/
def State.mapCells (f : CellId → Cell → Cell) (s : State) : State :=
  { s with cell := f s.here s.cell,
           others := (s.others.map fun e => (e.1, f (BitVec.ofNat 14 e.1) e.2)).filter fun e => e.2 != Cell.reset }

/-- The cells that are not at reset, with their numbers. -/
def State.cells (s : State) : List (CellId × Cell) := (s.here, s.cell) :: s.others.map fun e => (BitVec.ofNat 14 e.1, e.2)

/-! ### Registers -/

/-- An `x` register; `x0` is zero and full (R8). -/
def Cell.xreg (c : Cell) (n : XIdx) : XReg := if n = 0 then XReg.reset else c.x[n.toNat]'n.isLt
/-- A `v` register. -/
def Cell.vreg (c : Cell) (n : VIdx) : VReg := c.v[n.toNat]'n.isLt
/-- `ReadP` (R83): `p0` reads true. -/
def Cell.pred (c : Cell) (n : PIdx) : Bool := if n = 0 then true else c.p[n.toNat]'n.isLt
/-- The cell with an `x` register put in place; a write to `x0` is discarded (R8). -/
def Cell.putX (n : XIdx) (r : XReg) (c : Cell) : Cell := if n = 0 then c else { c with x := c.x.set n.toNat r n.isLt }
/-- The cell with a `v` register put in place. -/
def Cell.putV (n : VIdx) (r : VReg) (c : Cell) : Cell := { c with v := c.v.set n.toNat r n.isLt }
/-- `WriteP` (R83): a write to `p0` is discarded. -/
def Cell.putP (n : PIdx) (b : Bool) (c : Cell) : Cell := if n = 0 then c else { c with p := c.p.set n.toNat b n.isLt }

/-- The valid lanes of a `v` register, 1 to 8 (R9). -/
def VReg.length (r : VReg) : Nat := if r.len = 0 then 8 else r.len.toNat
/-- The lanes of a `v` register below its length. -/
def VReg.packet (r : VReg) : List W32 := r.lanes.toList.take r.length
/-- The encoded length of n lanes (R9). -/
def lenOf (n : Nat) : BitVec 3 := BitVec.ofNat 3 n
/-- A `v` register whose first lanes are replaced; the others keep their bits (R9, R168). -/
def VReg.write (lanes : List W32) (r : VReg) : VReg :=
  { lanes := Vector.ofFn fun (i : Fin 8) => lanes.getD i.val (r.lanes[i.val]'i.isLt), len := lenOf lanes.length, st := .full }
/-! ### Wakes -/

/-- A parked entry becomes RUNNABLE and retries from its kept PC (R20, R83). -/
def Handler.wake (h : Handler) : Handler := { h with st := .runnable, key := none, wide := false }

/-- A hold that would end in a park on a key that is met ends: the instruction goes on (R17, R83). -/
def Cell.unhold (p : ParkKey → Bool) (c : Cell) : Cell :=
  match c.hold with
  | some (.expiring k) => if p k then { c with hold := none } else c
  | _ => c

/-- A wake event reaches the cell: every activation parked on a key it meets becomes RUNNABLE (R19), and so does every
activation of the wide wait list (R223). -/
def Cell.wakeWhere (p : ParkKey → Bool) (c : Cell) : Cell :=
  { c.unhold p with hnd := c.hnd.map fun h =>
      if h.st = .parked && (h.wide || (match h.key with | some k => p k | none => false)) then h.wake else h }

/-- A wake event of one key. -/
def Cell.wakeOn (k : ParkKey) (c : Cell) : Cell := c.wakeWhere (· == k)

/-- An `x` register becomes FULL with a value, and its waiters wake (R19). -/
def Cell.landX (d : XIdx) (v : Word) (c : Cell) : Cell := (c.putX d ⟨v, .full⟩).wakeOn (.regX d)

/-- A `v` register becomes FULL with lanes, and its waiters wake (R19). -/
def Cell.landV (d : VIdx) (lanes : List W32) (c : Cell) : Cell := (c.putV d ((c.vreg d).write lanes)).wakeOn (.regV d)

/-- An engine completion counter has changed: every park on it whose target it has reached wakes (R84, R241). -/
def Cell.wakeCounter (n : BitVec 3) (c : Cell) : Cell :=
  c.wakeWhere fun k =>
    match k with
    | .counter m t => m == n && (c.k.ecnt[n.toNat]'n.isLt - t).toNat < 2 ^ 31
    | _ => false

/-- An instruction's write to an `x` register that is FULL or EMPTY: it becomes FULL (R16), which wakes whoever is parked
on an EMPTY one (R19). -/
def Cell.fillX (d : XIdx) (v : Word) (c : Cell) : Cell := if (c.xreg d).st = .full then c.putX d ⟨v, .full⟩ else c.landX d v

/-- The same for a `v` register. -/
def Cell.fillV (d : VIdx) (lanes : List W32) (c : Cell) : Cell :=
  if (c.vreg d).st = .full then c.putV d ((c.vreg d).write lanes) else c.landV d lanes

/-- `WriteX` on a register that is not PENDING: the register becomes FULL (R16). -/
def setX (d : XIdx) (v : Word) (s : State) : State := s.onCell (Cell.fillX d v)
/-- `WriteP`. -/
def setP (d : PIdx) (b : Bool) (s : State) : State := s.onCell (Cell.putP d b)
/-- A register becomes PENDING at the issue of a long-latency producer (R15). -/
def pendX (d : XIdx) (s : State) : State := s.onCell fun c => c.putX d { c.xreg d with st := .pending }
/-- The same for a `v` register. -/
def pendV (d : VIdx) (s : State) : State := s.onCell fun c => c.putV d { c.vreg d with st := .pending }

/-- `WriteV` on a register that is not PENDING (R83). -/
def setV (d : VIdx) (lanes : List W32) (s : State) : State := s.onCell (Cell.fillV d lanes)

/-! ### Issue: advancing, holding, faulting, trapping -/

/-- The instruction is performed: the PC moves on, modulo 16 KiB (R12). -/
def advance (n : Nat) (s : State) : State := s.onCell fun c => { c with pc := c.pc + BitVec.ofNat 14 n, hold := none }

/-- The PC moves to a target (R12). -/
def jump (t : Pc) (s : State) : State := s.onCell fun c => { c with pc := t, hold := none }

/-- The instruction is held at issue; no other state changes (R17). -/
def hold (h : Hold) (s : State) : State := s.onCell fun c => { c with hold := some h }

/-- The word at a PC. -/
def Cell.wordAt (c : Cell) (pc : Pc) : W32 := sget 0 c.istore (pc.toNat / 4)

/-- The running handler's number in a record: 127 when none runs (R333). -/
def Cell.hndNum (c : Cell) : BitVec 7 := match c.cur with | some h => h.setWidth 7 | none => 127

/-- `KCAUSE` and `KEPC` of a record: the values they hold when T is 1 (R24, R333). -/
def Cell.traceOf (c : Cell) : W32 × Word := if c.k.t then (c.k.epc.setWidth 32, c.k.cause) else (0, 0)

/-- The cell with a fault raised: its first one is kept (R336), and it stops issuing and selecting (R332). -/
def Cell.withFault (f : FaultRec) (c : Cell) : Cell :=
  { c with fault := (match c.fault with | some g => some g | none => some f), stopped := true, hold := none }

/-- A fabric-load fault of the instruction at the PC (R332-R334). -/
def raise (code detail : Byte) (info : W32) (s : State) : State :=
  s.onCell fun c => c.withFault
    { code := code, detail := detail, t := c.k.t, src := 0, hnd := c.hndNum, word := c.wordAt c.pc, pc := c.pc, info := info,
      aux0 := c.traceOf.1, aux1 := c.traceOf.2 }

/-- The codes of R330 that meanings raise. -/
abbrev cILLEGAL : Byte := 0x01
abbrev cPRIVILEGED : Byte := 0x02
abbrev cFE_TRAP : Byte := 0x03
abbrev cFE_SPACE : Byte := 0x04
abbrev cMISALIGNED : Byte := 0x05
abbrev cACCESS : Byte := 0x06
abbrev cSTREAM_BEHIND : Byte := 0x07
abbrev cSTREAM_PUBLISHED : Byte := 0x08
abbrev cSTREAM_CLOSED : Byte := 0x09
abbrev cSTREAM_DEADLOCK : Byte := 0x0A
abbrev cPARAM_BOUND : Byte := 0x0B
abbrev cPARAM_UNBOUND : Byte := 0x0C
abbrev cARITH : Byte := 0x0D
abbrev cCHANNEL_FORMAT : Byte := 0x0E
abbrev cWAIT_ILLEGAL : Byte := 0x0F
abbrev cENGINE_FAULT : Byte := 0x10
abbrev cCONV_TURN : Byte := 0x11
abbrev cCONV_ROLE : Byte := 0x12
abbrev cCONV_BROKEN : Byte := 0x13
abbrev cPEER_FAIL : Byte := 0x14
abbrev cSEAL_FAIL : Byte := 0x15
abbrev cENGINE_CMD : Byte := 0x16
abbrev cUNCORRECTABLE : Byte := 0x17
abbrev cWATCHDOG : Byte := 0x18
abbrev cBREAKPOINT : Byte := 0x19
abbrev cCONFIG_CHECK : Byte := 0x1A
abbrev cTIER_FAIL : Byte := 0x1B
abbrev cGROUP_ABSENT : Byte := 0x1C
abbrev cDOMAIN_EPOCH : Byte := 0x1D

/-- The running handler's entry changed. -/
def Cell.onHnd (h : BitVec 6) (f : Handler → Handler) (c : Cell) : Cell :=
  { c with hnd := c.hnd.set h.toNat (f (c.hnd[h.toNat]'h.isLt)) h.isLt }

/-- What the running handler's entry holds for its retry. -/
def Cell.pend (c : Cell) : Pend := match c.cur with | some h => (c.hnd[h.toNat]'h.isLt).pend | none => .none

/-- The running handler's entry holds something for its retry. -/
def Cell.setPend (p : Pend) (c : Cell) : Cell := match c.cur with | some h => c.onHnd h fun e => { e with pend := p } | none => c

/-- What a release or an acquire fixed at first issue is dropped: the instruction is performed, or it traps and issues afresh (R238, R24). -/
def Cell.unfence (c : Cell) : Cell := match c.pend with | .fence _ _ _ => c.setPend .none | _ => c

/-- The state after trap entry on `done`, the state the trapping instruction leaves (R24): `KEPC` saves the PC, `KCAUSE`
the condition, T is set and the PC goes to the vector. -/
def trapEntry (code detail : Byte) (info : W32) (epc : Pc) (done : State) : State :=
  (done.onCell Cell.unfence).onCell fun c =>
    { c with hold := none, pc := c.k.vec,
             k := { c.k with epc := epc, t := true, cause := info ++ 0#8 ++ detail ++ 0#8 ++ code } }

/-- A trap condition met by the instruction at the PC of s (R24). `done` is s when the instruction is not performed, and
the state it leaves when it is (R23). Without a vector, or inside a trap handler, the condition is a fault. -/
def trap (code detail : Byte) (info : W32) (epc : Pc) (done s : State) : State :=
  if s.cell.k.tven && !s.cell.k.t then trapEntry code detail info epc done else raise code detail info s

/-- A trap condition under which the instruction is not performed: `KEPC` is the instruction itself (R23). -/
def trapHere (code detail : Byte) (info : W32) (s : State) : State := trap code detail info s.cell.pc s s

/-- The return from a trap handler (R106). -/
def trapReturn (s : State) : State :=
  if s.cell.k.t then
    s.onCell fun c => { c with pc := c.k.epc &&& 0x3FFC#14, hold := none, k := { c.k with t := false } }
  else raise cILLEGAL 0 0 s

/-- Whether the reader mode of an `x` register is trap (R18). -/
def Cell.trapModeX (c : Cell) (n : XIdx) : Bool := c.k.femode0.getLsbD n.toNat
/-- Whether the reader mode of a `v` register is trap (R18). -/
def Cell.trapModeV (c : Cell) (n : VIdx) : Bool := c.k.femode1.getLsbD n.toNat

/-- `ReadX` under R17 and R18, followed by what is done with the value. -/
def readX (n : XIdx) (s : State) (k : Word → State) : State :=
  match (s.cell.xreg n).st with
  | .full => k (s.cell.xreg n).val
  | .empty => if s.cell.trapModeX n then trapHere cFE_TRAP (0#3 ++ n) 0 s else hold (.expiring (.regX n)) s
  | .pending => hold (.expiring (.regX n)) s

/-- `ReadV` under R17 and R18, followed by what is done with the register. -/
def readV (n : VIdx) (s : State) (k : VReg → State) : State :=
  match (s.cell.vreg n).st with
  | .full => k (s.cell.vreg n)
  | .empty => if s.cell.trapModeV n then trapHere cFE_TRAP (1#3 ++ n) 0 s else hold (.expiring (.regV n)) s
  | .pending => hold (.expiring (.regV n)) s

/-- The wait of R16: while the destination is PENDING the instruction is held without limit. -/
def freeX (d : XIdx) (s t : State) : State := if (s.cell.xreg d).st = .pending then hold .staying s else t
/-- The same for a `v` destination. -/
def freeV (d : VIdx) (s t : State) : State := if (s.cell.vreg d).st = .pending then hold .staying s else t

/-- An instruction that writes one `x` register and goes on. -/
def retireX (d : XIdx) (v : Word) (s : State) : State := freeX d s (advance 4 (setX d v s))

/-- Whether the board of the cell runs at runtime level (R28). -/
def State.runtime (s : State) : Bool := s.cell.k.lvl

/-- An instruction that only a board at runtime level may issue (R72). -/
def privileged (s t : State) : State := if s.runtime then t else raise cPRIVILEGED 0 0 s

/-! ### Flags -/

/-- Flags merge into `KFFLAGS` (R22, R30). -/
def Cell.mergeFlags (f : BitVec 5) (c : Cell) : Cell := { c with k := { c.k with fflags := c.k.fflags ||| f } }

/-- An instruction that has raised flags f and left `done` is performed: the flags merge, and an enabled one traps with
ARITH at the next instruction (R23, R24). -/
def withFlags (f : BitVec 5) (done s : State) : State :=
  let merged := done.onCell (Cell.mergeFlags f)
  let on := f &&& s.cell.k.te
  if on = 0 then merged else trap cARITH (0#3 ++ on) 0 merged.cell.pc merged s

/-! ### Roles held in conversations of other homes (R397) -/

/-- A cell here holds a role of a conversation of another home from now on (R387, R390). -/
def Package.bindHere (b : Binding) (p : Package) : Package :=
  { p with bindings := (p.bindings.filter fun q => !(q.home == b.home && q.entry == b.entry && q.role == b.role)) ++ [b] }

/-- The roles that cells here hold in a conversation of another home are bound no more: a close has ended it, and its entry is free once its notices
are sent (R391). -/
def Package.dropBindings (home : Byte) (entry : BitVec 12) (p : Package) : Package :=
  { p with bindings := p.bindings.filter fun b => !(b.home == home && b.entry == entry) }

end Sys2Proof.Machine
end

