-- ==== Sys2Proof/Machine/Operands.lean ====
section
/-! DEFINITION. Operand forms: the number formats (R31-R38), their elements in lanes and memory (R33), and the exact value
of an element. -/

namespace Sys2Proof.Machine

/-- An exact value: NaN (signalling or not), an infinity, or (-1)^neg * m * 2^e. -/
inductive Num where
  | nan (sig : Bool)
  | inf (neg : Bool)
  | fin (neg : Bool) (m : Nat) (e : Int)
  deriving DecidableEq, Repr

/-- An integer as an exact value. -/
def Num.ofInt (i : Int) : Num := .fin (i < 0) i.natAbs 0

/-- Whether a value is NaN. -/
def Num.isNan : Num → Bool
  | .nan _ => true
  | _ => false

/-- Whether a value is a signalling NaN. -/
def Num.isSig : Num → Bool
  | .nan g => g
  | _ => false

/-- Whether a value is a zero of either sign. -/
def Num.isZero : Num → Bool
  | .fin _ m _ => m == 0
  | _ => false

/-- The value with its sign inverted. -/
def Num.negate : Num → Num
  | .nan g => .nan g
  | .inf n => .inf !n
  | .fin n m e => .fin (!n) m e

/-- The parameters of a float format (R35, R36): whether it has a sign bit, w, t and b, the code of the largest finite
magnitude, the codes of +∞ and of the canonical NaN where it has them, and whether it has −0. -/
structure FloatFmt where
  signed : Bool
  w : Nat
  t : Nat
  b : Int
  cmax : Nat
  inf : Option Nat
  nan : Option Nat
  negZero : Bool
  deriving DecidableEq, Repr

/-- The float format of a descriptor (R35, R36). -/
def floatFmt (f : FmtDesc) : FloatFmt :=
  match f.code with
  | 8 => ⟨true, 8, 23, 127, 0x7F7F_FFFF, some 0x7F80_0000, some 0x7FC0_0000, true⟩
  | 9 => ⟨true, 8, 7, 127, 0x7F7F, some 0x7F80, some 0x7FC0, true⟩
  | 10 => ⟨true, 5, 10, 15, 0x7BFF, some 0x7C00, some 0x7E00, true⟩
  | 11 => ⟨true, 2, 1, 1, 7, none, none, true⟩
  | 12 => ⟨true, 4, 3, 7, 0x7E, none, some 0x7F, true⟩
  | 13 => ⟨true, 5, 2, 15, 0x7B, some 0x7C, some 0x7E, true⟩
  | c =>
    let P := c - 16
    if f.s then ⟨true, 8 - P, P - 1, 2 ^ (7 - P), if f.i then 0x7E else 0x7F, if f.i then some 0x7F else none, some 0x80, false⟩
    else ⟨false, 9 - P, P - 1, 2 ^ (8 - P), if f.i then 0xFD else 0xFE, if f.i then some 0xFE else none, some 0xFF, false⟩

/-- Element bits (R31). -/
def width (f : FmtDesc) : Nat :=
  match f.code with
  | 2 | 3 | 9 | 10 => 16
  | 4 | 5 | 8 => 32
  | 6 | 7 | 11 => 4
  | _ => 8

/-- Whether an integer code is signed (R34): INT8, INT16, INT32 and INT4. -/
def intSigned (f : FmtDesc) : Bool := f.code % 2 == 0

/-- The least value of an integer format (R34). -/
def intMin (f : FmtDesc) : Int := if intSigned f then -(2 ^ (width f - 1) : Nat) else 0
/-- The greatest value of an integer format (R34). -/
def intMax (f : FmtDesc) : Int := if intSigned f then (2 ^ (width f - 1) : Nat) - 1 else (2 ^ width f : Nat) - 1

/-- A two's complement or unsigned code as an integer (R34). -/
def intOf (f : FmtDesc) (c : Nat) : Int := if intSigned f && c.testBit (width f - 1) then (c : Int) - (2 ^ width f : Nat) else c

/-- An integer's code: its low bits. -/
def intCode (f : FmtDesc) (i : Int) : Nat := (i % (2 ^ width f : Nat)).toNat

/-- The value of a magnitude code of a float format (R35). -/
def magValue (ff : FloatFmt) (neg : Bool) (c : Nat) : Num :=
  let e := c / 2 ^ ff.t
  let m := c % 2 ^ ff.t
  if e = 0 then .fin neg m (1 - ff.b - ff.t) else .fin neg (2 ^ ff.t + m) (e - ff.b - ff.t)

/-- The value of a float code (R35-R37). -/
def floatValue (f : FmtDesc) (c : Nat) : Num :=
  let ff := floatFmt f
  if f.isP3109 && some c == ff.nan then .nan false
  else
    let top := width f - 1
    let neg := ff.signed && c.testBit top
    let mag := if ff.signed then c % 2 ^ top else c
    if some mag == ff.inf then .inf neg
    else if mag ≤ ff.cmax then magValue ff neg mag
    else .nan (width f ≥ 16 && !mag.testBit (ff.t - 1))

/-- The exact value of an element (R34-R37). -/
def valueOf (f : FmtDesc) (c : Nat) : Num := if f.isInt then Num.ofInt (intOf f c) else floatValue f c

/-- The elements of lanes, in packing order (R33). -/
def unpack (f : FmtDesc) (lanes : List W32) : List Nat :=
  lanes.flatMap fun w => (List.range (32 / width f)).map fun j => bits w.toNat (j * width f) (width f)

/-- One lane of elements, the first in the least significant bits (R33). -/
def packLane (f : FmtDesc) : List Nat → Nat
  | [] => 0
  | c :: r => c + 2 ^ width f * packLane f r

/-- Elements placed densely in n lanes, the last lane's rest zero (R33, R168). -/
def packLanes (f : FmtDesc) : Nat → List Nat → List W32
  | 0, _ => []
  | n + 1, l =>
    let per := 32 / width f
    BitVec.ofNat 32 (packLane f (l.take per)) :: packLanes f n (l.drop per)

/-- Elements placed densely, at least one lane (R168). -/
def pack (f : FmtDesc) (l : List Nat) : List W32 := packLanes f (max 1 ((l.length * width f + 31) / 32)) l

/-- The elements that bytes spell, in packing order (R33): n of them. -/
def elementsOfBytes (f : FmtDesc) (n : Nat) (l : List Byte) : List Nat :=
  let v := ofBytes l
  (List.range n).map fun j => bits v (j * width f) (width f)

/-- The bytes of elements, in packing order (R33). -/
def bytesOfElements (f : FmtDesc) (l : List Nat) : List Byte := bytesOf ((l.length * width f + 7) / 8) (packLane f l)

/-- The value of an E8M0 scale: none for NaN (R38). -/
def scaleExp (c : Nat) : Option Int := if c = 0xFF then none else some ((c : Int) - 127)

/-- An element's value times its block's scale, exactly; a NaN scale gives NaN (R38). -/
def scaled (x : Num) (scale : Nat) : Num :=
  match x, scaleExp scale with
  | .nan g, _ => .nan g
  | _, none => .nan false
  | .fin n m e, some k => .fin n m (e + k)
  | x, some _ => x

/-- The descriptors of the formats that instructions name outright. -/
abbrev fUINT8 : FmtDesc := 1
abbrev fINT32 : FmtDesc := 4
abbrev fUINT32 : FmtDesc := 5
abbrev fFP32 : FmtDesc := 8
abbrev fBF16 : FmtDesc := 9
abbrev fFP16 : FmtDesc := 10
abbrev fE2M1 : FmtDesc := 11

end Sys2Proof.Machine
end

