-- ==== Sys2Proof/Machine/Flags.lean ====
section
/-! DEFINITION. Rounding, saturation and flags (R39-R47), exact arithmetic on values, and the dice (R43-R45). -/

namespace Sys2Proof.Machine

/-- Flags NV, DZ, OF, UF, IX, NV in bit 4 (R30, R47). -/
abbrev Flags := BitVec 5
abbrev flNV : Flags := 0b10000
abbrev flDZ : Flags := 0b01000
abbrev flOF : Flags := 0b00100
abbrev flUF : Flags := 0b00010
abbrev flIX : Flags := 0b00001

/-- A rounding in force: the mode of R39 (0 RNE, 1 RTZ, 2 RUP, 3 RDN, 4 SR) and SAT. -/
structure Rounding where
  mode : BitVec 3
  sat : Bool
  deriving DecidableEq, Repr

/-- RNE without SAT. -/
def rne : Rounding := ⟨0, false⟩

/-! ### The dice: Philox-4x32-10 (R43) -/

/-- One round of Philox. -/
def philoxRound (k0 k1 : W32) (c : W32 × W32 × W32 × W32) : W32 × W32 × W32 × W32 :=
  let p0 : Word := 0xD251_1F53#64 * c.1.setWidth 64
  let p1 : Word := 0xCD9E_8D57#64 * c.2.2.1.setWidth 64
  (p1.extractLsb' 32 32 ^^^ c.2.1 ^^^ k0, p1.extractLsb' 0 32, p0.extractLsb' 32 32 ^^^ c.2.2.2 ^^^ k1, p0.extractLsb' 0 32)

/-- n rounds, the keys growing between them. -/
def philoxRounds : Nat → W32 → W32 → W32 × W32 × W32 × W32 → W32 × W32 × W32 × W32
  | 0, _, _, c => c
  | n + 1, k0, k1, c => philoxRounds n (k0 + 0x9E37_79B9#32) (k1 + 0xBB67_AE85#32) (philoxRound k0 k1 c)

/-- The outputs o0, o1, o2, o3 of a key and a counter (c0, c1, c2, c3) (R43). -/
def philox (key : Word) (c0 c1 c2 c3 : W32) : W32 × W32 × W32 × W32 :=
  philoxRounds 10 (key.extractLsb' 0 32) (key.extractLsb' 32 32) (c0, c1, c2, c3)

/-- The 128 output bits as a number. -/
def philoxBits (key : Word) (c0 c1 c2 c3 : W32) : Nat :=
  let o := philox key c0 c1 c2 c3
  o.1.toNat + o.2.1.toNat * 2 ^ 32 + o.2.2.1.toNat * 2 ^ 64 + o.2.2.2.toNat * 2 ^ 96

/-- Rnd of element j of lane L for a cell's instruction (R44). -/
def drawBits (key draw : Word) (lane j : Nat) : Nat :=
  bits (philoxBits key (BitVec.ofNat 32 lane) 0 (draw.extractLsb' 0 32) (draw.extractLsb' 32 32)) (16 * j) 16

/-! ### Rounding a magnitude (R40, R41) -/

/-- Rounding a positive magnitude m * 2^e to precision t + 1 with the subnormal spacing of bias b: the code below it, whether
it is inexact, whether it lies above or at the middle of the step, and the first 16 bits of the step fraction. -/
structure Bracket where
  code : Nat
  inexact : Bool
  above : Bool
  tie : Bool
  frac : Nat
  deriving DecidableEq, Repr

/-- m * 2^sh cut to an integer, with what was cut. -/
def cut (m : Nat) (sh : Int) : Bracket :=
  match sh with
  | .ofNat k => ⟨m * 2 ^ k, false, false, false, 0⟩
  | .negSucc k =>
    let d := 2 ^ (k + 1)
    let r := m % d
    ⟨m / d, r != 0, d < 2 * r, 2 * r == d, r * 2 ^ 16 / d⟩

/-- The code below a positive magnitude, as if the exponent range were unbounded above (R40 step 1). -/
def bracket (t : Nat) (b : Int) (m : Nat) (e : Int) : Bracket :=
  let E := (Nat.log2 m : Int) + e
  let low := if E < 1 - b then 1 - b else E
  let q := cut m (e - (low - t))
  { q with code := if E < 1 - b then q.code else (E + b - 1).toNat * 2 ^ t + q.code }

/-- Whether a value rounds away from zero (R39, R41). -/
def roundsUp (mode : BitVec 3) (neg : Bool) (rnd : Nat) (q : Bracket) : Bool :=
  match mode.toNat with
  | 0 => q.above || (q.tie && q.code % 2 == 1)
  | 2 => q.inexact && !neg
  | 3 => q.inexact && neg
  | 4 => q.inexact && 2 ^ 16 ≤ q.frac + rnd
  | _ => false

/-- Whether an overflow rounds away from zero (R42). -/
def overflowsAway (mode : BitVec 3) (neg up : Bool) : Bool :=
  match mode.toNat with
  | 0 => true
  | 2 => !neg
  | 3 => neg
  | 4 => up
  | _ => false

/-- A float code from its sign and magnitude code. -/
def signed (f : FmtDesc) (neg : Bool) (c : Nat) : Nat := if neg && (floatFmt f).signed then c + 2 ^ (width f - 1) else c

/-- The canonical NaN of a format; +0 where it has none (R37, R46). -/
def nanCode (f : FmtDesc) : Nat := ((floatFmt f).nan).getD 0

/-- The overflow result (R42). -/
def overflowCode (f : FmtDesc) (r : Rounding) (neg up : Bool) : Nat :=
  let ff := floatFmt f
  if r.sat || !overflowsAway r.mode neg up then signed f neg ff.cmax
  else match ff.inf, ff.nan with
    | some c, _ => signed f neg c
    | none, some c => c
    | none, none => signed f neg ff.cmax

/-- A NaN delivered to a float format (R37, R46). -/
def deliverNan (f : FmtDesc) (sig : Bool) : Nat × Flags :=
  (nanCode f, if sig || (floatFmt f).nan.isNone then flNV else 0)

/-- A negative value that an unsigned P3109 format cannot hold (R46). -/
def refuseNegative (f : FmtDesc) (sat : Bool) : Nat × Flags := (if sat then 0 else nanCode f, flNV)

/-- An infinity delivered to a float format (R46). -/
def deliverInf (f : FmtDesc) (r : Rounding) (neg : Bool) : Nat × Flags :=
  let ff := floatFmt f
  if neg && !ff.signed then refuseNegative f r.sat
  else match ff.inf with
    | some c => (signed f neg c, 0)
    | none =>
      match ff.nan with
      | some c => if r.sat then (signed f neg ff.cmax, 0) else (c, flNV)
      | none => (signed f neg ff.cmax, if r.sat then 0 else flNV)

/-- A finite value rounded to a float format (R40-R42, R46). -/
def roundFinite (f : FmtDesc) (r : Rounding) (rnd : Nat) (neg : Bool) (m : Nat) (e : Int) : Nat × Flags :=
  let ff := floatFmt f
  if m = 0 then (if ff.negZero then signed f neg 0 else 0, 0)
  else
    let q := bracket ff.t ff.b m e
    let up := roundsUp r.mode neg rnd q
    let c := if up then q.code + 1 else q.code
    let ix : Flags := if q.inexact then flIX else 0
    let uf : Flags := if q.inexact && c != 0 && c < 2 ^ ff.t then flUF else 0
    if neg && !ff.signed then (if c = 0 then (0, ix) else refuseNegative f r.sat)
    else if ff.cmax < c then (overflowCode f r neg up, flOF ||| flIX)
    else if c = 0 then (if ff.negZero then signed f neg 0 else 0, ix)
    else (signed f neg c, ix ||| uf)

/-- A value rounded to an integer by a mode, with whether it was inexact (R46). -/
def roundInt (mode : BitVec 3) (rnd : Nat) (neg : Bool) (m : Nat) (e : Int) : Int × Bool :=
  let q := cut m e
  let n := if roundsUp mode neg rnd q then q.code + 1 else q.code
  (if neg then -(n : Int) else n, q.inexact)

/-- An integer clamped to a range. -/
def clampInt (lo hi i : Int) : Int := if i < lo then lo else if hi < i then hi else i

/-- A value converted to an integer format (R46). -/
def roundToInt (f : FmtDesc) (r : Rounding) (rnd : Nat) : Num → Nat × Flags
  | .nan _ => (0, flNV)
  | .inf neg => (intCode f (if neg then intMin f else intMax f), flNV)
  | .fin neg m e =>
    let (i, ix) := roundInt r.mode rnd neg m e
    if i < intMin f || intMax f < i then (intCode f (clampInt (intMin f) (intMax f) i), flNV)
    else (intCode f i, if ix then flIX else 0)

/-- `RoundTo` and the conversions of R46: a value delivered to a format, with the flags raised. -/
def roundTo (f : FmtDesc) (r : Rounding) (rnd : Nat) (x : Num) : Nat × Flags :=
  if f.isInt then roundToInt f r rnd x
  else match x with
    | .nan sig => deliverNan f sig
    | .inf neg => deliverInf f r neg
    | .fin neg m e => roundFinite f r rnd neg m e

/-! ### Exact arithmetic -/

/-- The signed numerator of a finite value over 2^e, for an e at or below its exponent. -/
def numerator (neg : Bool) (m : Nat) (e low : Int) : Int :=
  let n : Int := (m * 2 ^ (e - low).toNat : Nat)
  if neg then -n else n

/-- A NaN out of operands: NV for a signalling one (R37). -/
def nanFrom (l : List Num) : Num × Flags := (.nan false, if l.any Num.isSig then flNV else 0)

/-- The sign of an exact zero sum: + under every mode but RDN (R173). -/
def zeroSum (mode : BitVec 3) : Num := .fin (mode == 3) 0 0

/-- The exact sum of two values; a zero sum of zeros of one sign keeps it (R173). -/
def addExact (mode : BitVec 3) (a b : Num) : Num × Flags :=
  match a, b with
  | .nan _, _ => nanFrom [a, b]
  | _, .nan _ => nanFrom [a, b]
  | .inf n, .inf k => if n = k then (.inf n, 0) else (.nan false, flNV)
  | .inf n, .fin .. => (.inf n, 0)
  | .fin .., .inf n => (.inf n, 0)
  | .fin n m e, .fin k l d =>
    let low := min e d
    let t := numerator n m e low + numerator k l d low
    if t = 0 then (if n = k && m == 0 && l == 0 then .fin n 0 0 else zeroSum mode, 0)
    else (.fin (t < 0) t.natAbs low, 0)

/-- The exact product of two values (R47: ∞ × 0 raises NV). -/
def mulExact (a b : Num) : Num × Flags :=
  match a, b with
  | .nan _, _ => nanFrom [a, b]
  | _, .nan _ => nanFrom [a, b]
  | .inf n, .inf k => (.inf (n != k), 0)
  | .inf n, .fin k l _ => if l = 0 then (.nan false, flNV) else (.inf (n != k), 0)
  | .fin k l _, .inf n => if l = 0 then (.nan false, flNV) else (.inf (n != k), 0)
  | .fin n m e, .fin k l d => (.fin (n != k) (m * l) (e + d), 0)

/-- The exact sum a × b + c. -/
def fmaExact (mode : BitVec 3) (a b c : Num) : Num × Flags :=
  let (p, f) := mulExact a b
  let (s, g) := addExact mode p c
  (s, f ||| g ||| (if c.isSig then flNV else 0))

/-- Whether a is less than b, for values that are not NaN; zeros of either sign are equal. -/
def Num.lt (a b : Num) : Bool :=
  match a, b with
  | .inf n, .inf k => n && !k
  | .inf n, .fin .. => n
  | .fin .., .inf k => !k
  | .fin n m e, .fin k l d => let low := min e d; numerator n m e low < numerator k l d low
  | _, _ => false

/-- Whether a number ranks below another with −0 below +0 (R174). -/
def Num.ranksBelow (a b : Num) : Bool :=
  match a, b with
  | .fin n 0 _, .fin k 0 _ => n && !k
  | a, b => a.lt b

/-- The lesser or the greater of two float elements (R174). -/
def minMax (f : FmtDesc) (greatest : Bool) (a b : Nat) : Nat × Flags :=
  let x := valueOf f a
  let y := valueOf f b
  let fl : Flags := if x.isSig || y.isSig then flNV else 0
  if x.isNan then (if y.isNan then nanCode f else b, fl)
  else if y.isNan then (a, fl)
  else (if (if greatest then x.ranksBelow y else y.ranksBelow x) then b else a, fl)

/-- The OR of flags. -/
def orFlags (l : List Flags) : Flags := l.foldl (· ||| ·) 0

/-- Results with their flags ORed together (R33). -/
def collect (l : List (Nat × Flags)) : List Nat × Flags := (l.map Prod.fst, orFlags (l.map Prod.snd))

/-- The rounding a cell has in force (R39). -/
def Cell.rounding (c : Cell) : Rounding := ⟨c.k.rm, c.k.sat⟩

/-- The draw count advances when an instruction that rounds is performed under SR (R44). -/
def Cell.drew (c : Cell) : Cell := if c.k.rm = 4 then { c with draw := c.draw + 1 } else c

end Sys2Proof.Machine
end

