-- ==== Sys2Proof/Machine/Mem.lean ====
section
/-! DEFINITION. Memory: physical bytes, the address map (R200), translation (R205-R209), cell stores (R13, R14), stream
records and frames (R210-R217), the event stream (R224-R226), and parking (R83, R222). -/

namespace Sys2Proof.Machine

/-! ### Physical memory -/

/-- The far tier's bytes stand above the HBM's: the key of a far-tier address PA is 2^52 + PA (R204). -/
def farBase : Nat := 2 ^ 52

/-- Bits 7:0 of a leaf entry (R206). -/
def attrIL (a : Byte) : Bool := a.getLsbD 7
def attrNC (a : Byte) : Bool := a.getLsbD 6
def attrT (a : Byte) : Bool := a.getLsbD 5
def attrMS (a : Byte) : Bool := a.getLsbD 4
def attrW (a : Byte) : Bool := a.getLsbD 3
def attrRD (a : Byte) : Bool := a.getLsbD 2

/-- What a byte of memory that nothing has written reads as (log 2). -/
def unlisted : Byte := 0

/-- The canonical form of the package's memory. -/
def Memory.wf (m : List (Nat × Byte)) : Bool := sparseWf unlisted m

/-- Where an address of package-interleaved HBM lies: line n on die n mod 4, as line n / 4 of that die (R204; log 25). -/
def interleaved (pa : Nat) : Nat := pa / 128 % 4 * 2 ^ 38 + pa / 512 * 128 + pa % 128

/-- The key of a physical address under a leaf's attributes (R204). -/
def physKey (a : Byte) (pa : Nat) : Nat := if attrT a then farBase + pa else if attrIL a then interleaved pa else pa

/-- One byte of memory by its key. -/
def Package.byte (p : Package) (k : Nat) : Byte := sget unlisted p.mem k

/-- The n bytes from a key on. -/
def Package.read (p : Package) (k n : Nat) : List Byte := sgets unlisted p.mem k n

/-- Whether a byte lies where no far-tier device answers. -/
def Package.absent (p : Package) (k : Nat) : Bool :=
  farBase ≤ k && !(p.far.any fun r => farBase + r.1 ≤ k && k < farBase + r.1 + r.2)

/-- Whether n bytes meet data that cannot be corrected, by aligned units of 8 bytes (R262, R331). -/
def Package.damaged (p : Package) (k n : Nat) : Bool :=
  (List.range ((k + n - 1) / 8 - k / 8 + 1)).any (fun i => sget false p.bad (k / 8 + i)) ||
    (farBase < k + n && (List.range n).any fun i => p.absent (k + i))

/-- The aligned units of 8 bytes that n bytes from k cover fully. -/
def unitsCovered (k n : Nat) : List Nat :=
  (List.range ((k + n + 7) / 8 - k / 8)).filterMap fun i =>
    let u := k / 8 + i
    if k ≤ 8 * u && 8 * u + 8 ≤ k + n then some u else none

/-- The lines of 128 bytes that n bytes from k touch. -/
def linesTouched (k n : Nat) : List Nat := (List.range ((k + n - 1) / 128 - k / 128 + 1)).map (k / 128 + ·)

/-- Bytes written: a damaged unit that is fully covered is repaired (R331), and the update counter of every line written
goes to 0 (R45). Of a far-tier byte the CXL device has the new value still to complete (R239). -/
def Package.write (k : Nat) (data : List Byte) (p : Package) : Package :=
  { p with mem := sputs unlisted k data p.mem,
           cxl := p.cxl.filter fun e => !(k ≤ e.1 && e.1 < k + data.length),
           bad := (unitsCovered k data.length).foldl (fun b u => sput false u false b) p.bad,
           poison := (unitsCovered k data.length).foldl (fun b u => sput false u false b) p.poison,
           updates := (linesTouched k data.length).foldl (fun m l => sput 0 l 0 m) p.updates }

/-- The writes of far-tier bytes that a release at system scope covers have been completed by the CXL device (R239): those of the cell that issued it
by accesses before a number, and those that the cell now in focus has carried out for accesses of its set. -/
def Package.cxlDone (here : CellId) (ids : List Nat) (cell : CellId) (before : Nat) (p : Package) : Package :=
  { p with cxl := p.cxl.map fun e =>
      match e.2 with
      | some (c, i) => if (c == cell && decide (i < before)) || (c == here && ids.contains i) then (e.1, none) else e
      | none => e }

/-- The damaged units that n written bytes cover fully are repaired (R331). -/
def Package.repair (k n : Nat) (p : Package) : Package :=
  { p with bad := (unitsCovered k n).foldl (fun b u => sput false u false b) p.bad,
           poison := (unitsCovered k n).foldl (fun b u => sput false u false b) p.poison }

/-- The aligned units of 8 bytes that n bytes from k touch. -/
def unitsTouched (k n : Nat) : List Nat := if n = 0 then [] else (List.range ((k + n - 1) / 8 - k / 8 + 1)).map (k / 8 + ·)

/-- Bytes marked as poisoned: what a copy carries on from data that cannot be corrected (R331). -/
def Package.poisoned (k n : Nat) (p : Package) : Package :=
  { p with bad := (unitsTouched k n).foldl (fun b i => sput false i true b) p.bad,
           poison := (unitsTouched k n).foldl (fun b i => sput false i true b) p.poison }

/-! ### The address map (R200) -/

/-- Where an address falls. -/
inductive Region where
  | global
  | cell (off : Nat)
  | stream (num : BitVec 15) (pos : BitVec 48)
  | none
  deriving DecidableEq, Repr

/-- The region of one address. -/
def regionOf (va : Word) : Region :=
  if va.getLsbD 63 then .stream (va.extractLsb' 48 15) (va.extractLsb' 0 48)
  else if va.extractLsb' 17 47 = 0x2000_0000_0000#47 then .cell (va.extractLsb' 0 17).toNat
  else if va.extractLsb' 56 8 = 0#8 then .global
  else .none

/-- The kind of a region, by which R200 tells its rows apart. -/
def Region.row : Region → Nat
  | .global => 0
  | .cell _ => 1
  | .stream _ _ => 2
  | .none => 3

/-- The region of an access of n bytes: one that begins in one row and ends in another has none (R13, R200). -/
def region (va : Word) (n : Nat) : Region :=
  let r := regionOf va
  if va.toNat + n ≤ 2 ^ 64 ∧ (regionOf (va + BitVec.ofNat 64 (n - 1))).row = r.row then r else .none

/-! ### Translation (R205-R209) -/

/-- What a translation gives. -/
inductive Got (α : Type) where
  | ok (a : α)
  /-- V = 0 at a level, for a virtual address (R208). -/
  | stall (level : Nat) (va : Word)
  /-- A malformed entry or a missing permission: ACCESS (R207). -/
  | bad
  deriving DecidableEq, Repr

/-- A translation: the physical address and the leaf's attributes. -/
abbrev Xlat := Nat × Byte

/-- The levels below one: number, lowest address bit, index bits (R205). -/
def levels : List (Nat × Nat × Nat) := [(0, 48, 8), (1, 39, 9), (2, 30, 9), (3, 21, 9), (4, 16, 5)]

/-- Whether a leaf's physical address lies in the HBM (R204), for a page with T = 0. -/
def hbmOk (il : Bool) (pa : Nat) : Bool :=
  if il then pa < 960 * 10 ^ 9 else pa % 2 ^ 38 < 240 * 10 ^ 9 && pa / 2 ^ 40 == 0

/-- A leaf entry at a level whose pages have 2^lo bytes (R206, R207). -/
def leafAt (e lvl lo : Nat) (va : Word) : Got Xlat :=
  let pa := bits e 16 36 * 2 ^ 16
  let a : Byte := BitVec.ofNat 8 e
  if lvl < 2 || bits e 8 8 != 0 || pa % 2 ^ lo != 0 || (attrMS a && attrT a) || (!attrT a && !hbmOk (attrIL a) pa) then .bad
  else .ok (pa + va.toNat % 2 ^ lo, a)

/-- The walk from a table on (R205-R208). R204's range for T = 0 is asked of leaves: R206 ignores bits 7:2 of another entry, T and IL among them
(log 25). -/
def walkFrom (p : Package) (va : Word) : List (Nat × Nat × Nat) → Nat → Got Xlat
  | [], _ => .bad
  | (lvl, lo, w) :: r, table =>
    let e := ofBytes (p.read (table + 8 * bits va.toNat lo w) 8)
    if !bitOf e 0 then .stall lvl va
    else if bits e 52 12 != 0 then .bad
    else if bitOf e 1 then leafAt e lvl lo va
    else
      let next := bits e 8 44 * 2 ^ 8
      if lvl = 4 || next % (if lvl = 3 then 256 else 4096) != 0 then .bad else walkFrom p va r next

/-- A virtual address of a context, from a translation that a TLB holds or by a walk that the TLB then holds (R209). An address
outside the global space has none (R200). -/
def translate (ctx : BitVec 6) (va : Word) (p : Package) : Got Xlat × Package :=
  let page := va.toNat / 2 ^ 16
  if va.extractLsb' 56 8 ≠ 0 then (.bad, p) else
  match p.tlb.find? fun t => t.ctx == ctx && t.page == page with
  | some t => (.ok (t.pa + va.toNat % 2 ^ 16, t.attr), p)
  | none =>
    match aget p.contexts ctx.toNat with
    | none => (.bad, p)
    | some c =>
      match walkFrom p va levels c.root with
      | .ok (pa, a) => (.ok (pa, a), { p with tlb := p.tlb ++ [⟨ctx, page, pa / 2 ^ 16 * 2 ^ 16, a⟩] })
      | .stall l v => (.stall l v, p)
      | .bad => (.bad, p)

/-- A translation with the permissions an access needs (R207). -/
def translateFor (rd wr : Bool) (ctx : BitVec 6) (va : Word) (p : Package) : Got Xlat × Package :=
  match translate ctx va p with
  | (.ok (pa, a), p') => (if (rd && !attrRD a) || (wr && !attrW a) then .bad else .ok (pa, a), p')
  | r => r

/-- The pieces of n bytes at a virtual address that no 64 KiB unit divides. -/
def pieces : Nat → Nat → Nat → List (Nat × Nat)
  | 0, _, _ => []
  | fuel + 1, va, n =>
    if n = 0 then []
    else
      let m := min n (2 ^ 16 - va % 2 ^ 16)
      (va, m) :: pieces fuel (va + m) (n - m)

/-- The pieces of n bytes at an address that no line divides. -/
def linePieces : Nat → Nat → Nat → List (Nat × Nat)
  | 0, _, _ => []
  | fuel + 1, pa, n =>
    if n = 0 then []
    else
      let m := min n (128 - pa % 128)
      (pa, m) :: linePieces fuel (pa + m) (n - m)

/-- The keys and sizes of n bytes at a physical address of one page: interleaved lines lie apart (R204). -/
def keysOf (a : Byte) (pa n : Nat) : List (Nat × Nat) :=
  if !attrT a && attrIL a then (linePieces (n / 128 + 2) pa n).map fun e => (physKey a e.1, e.2) else [(physKey a pa, n)]

/-- The physical pieces of n bytes of a context's memory: keys and sizes (R205-R208). -/
def place (rd wr : Bool) (ctx : BitVec 6) : List (Nat × Nat) → Package → Got (List (Nat × Nat)) × Package
  | [], p => (.ok [], p)
  | (va, n) :: r, p =>
    match translateFor rd wr ctx (BitVec.ofNat 64 va) p with
    | (.ok (pa, a), p') =>
      match place rd wr ctx r p' with
      | (.ok l, p'') => (.ok (keysOf a pa n ++ l), p'')
      | x => x
    | (.stall l v, p') => (.stall l v, p')
    | (.bad, p') => (.bad, p')

/-- The physical pieces of a range of a context's memory. -/
def placeRange (rd wr : Bool) (ctx : BitVec 6) (va n : Nat) (p : Package) : Got (List (Nat × Nat)) × Package :=
  place rd wr ctx (pieces (n / 2 ^ 16 + 2) va n) p

/-- Bytes of a context's memory, with whether they meet damaged data. -/
def readVirtual (ctx : BitVec 6) (va n : Nat) (p : Package) : Got (List Byte × Bool) × Package :=
  match placeRange true false ctx va n p with
  | (.ok l, p') => (.ok (l.flatMap fun e => p'.read e.1 e.2, l.any fun e => p'.damaged e.1 e.2), p')
  | (.stall l v, p') => (.stall l v, p')
  | (.bad, p') => (.bad, p')

/-- Bytes written to physical pieces, in order. -/
def Package.writePieces : List (Nat × Nat) → List Byte → Package → Package
  | [], _, p => p
  | (k, n) :: r, data, p => Package.writePieces r (data.drop n) (p.write k (data.take n))

/-- Whether bytes of memory belong to the record of a bound stream (R267). -/
def Package.inRecord (p : Package) (k n : Nat) : Bool := p.bound.any fun b => k < b.pa + 128 && b.pa < k + n

/-- Bytes written to a context's memory, if every page may be written and none of them belongs to a bound record (R267). -/
def writeVirtual (ctx : BitVec 6) (va : Nat) (data : List Byte) (p : Package) : Got Unit × Package :=
  match placeRange false true ctx va data.length p with
  | (.ok l, p') => if l.any fun q => p'.inRecord q.1 q.2 then (.bad, p') else (.ok (), p'.writePieces l data)
  | (.stall l v, p') => (.stall l v, p')
  | (.bad, p') => (.bad, p')

/-! ### Cell stores -/

/-- The n bytes at an offset of a cell store. -/
def Cell.load (c : Cell) (off n : Nat) : List Byte := sgets 0 c.store off n

/-- Bytes stored at an offset of a cell store; full/empty bits stay (R14), and a damaged unit that is fully covered is
repaired (R331). -/
def Cell.storeAt (off : Nat) (data : List Byte) (c : Cell) : Cell :=
  { c with store := sputs 0 off data c.store,
           badStore := (unitsCovered off data.length).foldl (fun b u => sput false u false b) c.badStore,
           poisonStore := (unitsCovered off data.length).foldl (fun b u => sput false u false b) c.poisonStore }

/-- The damaged units of a cell store that n written bytes cover fully are repaired (R331). -/
def Cell.repair (off n : Nat) (c : Cell) : Cell :=
  { c with badStore := (unitsCovered off n).foldl (fun b u => sput false u false b) c.badStore,
           poisonStore := (unitsCovered off n).foldl (fun b u => sput false u false b) c.poisonStore }

/-- Bytes of a cell store marked as poisoned (R331). -/
def Cell.poisoned (off n : Nat) (c : Cell) : Cell :=
  { c with badStore := (unitsTouched off n).foldl (fun b u => sput false u true b) c.badStore,
           poisonStore := (unitsTouched off n).foldl (fun b u => sput false u true b) c.poisonStore }

/-- Whether n bytes of a cell store meet data that cannot be corrected (R331). -/
def Cell.damagedAt (c : Cell) (off n : Nat) : Bool := (unitsTouched off n).any (sget false c.badStore)

/-- Whether the word that holds an offset is full (R14). -/
def Cell.wordFull (c : Cell) (off : Nat) : Bool := !sget false c.emptyWords (off / 4)

/-- The words that n bytes at an offset touch, by their offsets. -/
def wordsTouched (off n : Nat) : List Nat :=
  if n = 0 then [] else (List.range ((off + n - 1) / 4 - off / 4 + 1)).map fun i => 4 * (off / 4 + i)

/-- A word becomes full and whoever is parked on it wakes (R84 WORD). -/
def Cell.fillWord (off : Nat) (c : Cell) : Cell :=
  ({ c with emptyWords := sput false (off / 4) false c.emptyWords }).wakeOn (.word (4 * (off / 4)))

/-- Every word of a range becomes full (R14, R234). -/
def Cell.fillWords (off n : Nat) (c : Cell) : Cell := (wordsTouched off n).foldl (fun c o => c.fillWord o) c

/-- A word becomes empty. -/
def Cell.emptyWord (off : Nat) (c : Cell) : Cell := { c with emptyWords := sput false (off / 4) true c.emptyWords }

/-- The damaged units of the lines in the L1 that n written bytes cover fully are repaired (R331). -/
def Cell.l1Repair (k n : Nat) (c : Cell) : Cell :=
  { c with l1Bad := (unitsCovered k n).foldl (fun b u => sput false u false b) c.l1Bad }

/-- The lines of the L1 that hold bytes of a range take the cell's own performed write (R203, R254), which repairs the damaged units that
it covers fully (R331). -/
def Cell.l1Write (k : Nat) (data : List Byte) (c : Cell) : Cell :=
  let line (e : Nat × List Byte) : Nat × List Byte :=
    (e.1, e.2.mapIdx fun i b => let a := 128 * e.1 + i; if k ≤ a ∧ a < k + data.length then data.getD (a - k) b else b)
  Cell.l1Repair k data.length { c with l1 := c.l1.map line }

/-! ### Stream records (R211) -/

/-- A tether slot of a record: V, OWNER and TETHER (R211). -/
structure Tether where
  v : Bool
  owner : CellId
  pos : BitVec 48
  deriving DecidableEq, Repr

/-- The fields of a stream record. -/
structure StreamRec where
  head : BitVec 48
  tail : BitVec 48
  slots : List Tether
  ftab : Word
  err : Byte
  closed : Bool
  hread : Bool
  hprod : Bool
  back : BitVec 2
  k : Nat
  logn : Nat
  deriving DecidableEq, Repr

/-- A tether slot from its dword. -/
def slotOf (w : Word) : Tether := ⟨w.getLsbD 63, w.extractLsb' 48 14, w.extractLsb' 0 48⟩

/-- The dword of a tether slot. -/
def slotWord (t : Tether) : Word := BitVec.ofBool t.v ++ 0#1 ++ t.owner ++ t.pos

/-- The owner and the position of a slot that is taken. -/
def Tether.taken (t : Tether) : Option (CellId × BitVec 48) := if t.v then some (t.owner, t.pos) else none

/-- The slots of a record, those that are free as none. -/
def StreamRec.taken (r : StreamRec) : List (Option (CellId × BitVec 48)) := r.slots.map Tether.taken

/-- A record from its sixteen dwords. -/
def recordOf (d : List Word) : StreamRec :=
  let w (i : Nat) : Word := d.getD i 0
  { head := (w 0).extractLsb' 0 48, tail := (w 1).extractLsb' 0 48, slots := (List.range 8).map fun i => slotOf (w (2 + i)),
    ftab := w 10, err := (w 11).extractLsb' 32 8, closed := (w 11).getLsbD 31, hread := (w 11).getLsbD 30,
    hprod := (w 11).getLsbD 29, back := (w 11).extractLsb' 24 2, k := ((w 11).extractLsb' 16 5).toNat,
    logn := ((w 11).extractLsb' 0 4).toNat }

/-- The dwords of a record that the stream unit keeps: 0-9 and 11. -/
def recordBytes (r : StreamRec) : List Byte :=
  let b (x : Bool) (i : Nat) : Nat := if x then 2 ^ i else 0
  bytesOf 8 r.head.toNat ++ bytesOf 8 r.tail.toNat ++ r.slots.flatMap (fun o => bytesOf 8 (slotWord o).toNat) ++
    bytesOf 8 r.ftab.toNat ++
    bytesOf 8 (r.err.toNat * 2 ^ 32 + b r.closed 31 + b r.hread 30 + b r.hprod 29 + r.back.toNat * 2 ^ 24 + r.k * 2 ^ 16 +
      r.logn) ++ List.replicate 32 0

/-- The binding of a stream number. -/
def Package.boundOf (p : Package) (ctx : BitVec 6) (num : BitVec 15) : Option Bound :=
  p.bound.find? fun b => b.ctx == ctx && b.num == num

/-- The record at its line. -/
def Package.record (p : Package) (pa : Nat) : StreamRec := recordOf (wordsOfBytes 16 (p.read pa 128))

/-- a is before b, as serial numbers (R213). -/
def before (a b : BitVec 48) : Bool := let d := (b - a).toNat; 1 ≤ d && d < 2 ^ 47

/-- The capacity N × 2^K (R215). -/
def StreamRec.cap (r : StreamRec) : BitVec 48 := BitVec.ofNat 48 (2 ^ r.logn * 2 ^ r.k)

/-- The least of the valid tethers as serial numbers, or HEAD when no slot is taken (R211). -/
def StreamRec.lowest (r : StreamRec) : BitVec 48 :=
  match r.taken.filterMap (Option.map Prod.snd) with
  | [] => r.head
  | t :: ts => ts.foldl (fun m u => if before u m then u else m) t

/-- The slot of a cell in a record. -/
def StreamRec.slotFor (r : StreamRec) (c : CellId) : Option Nat := r.taken.findIdx? fun o => o.any (·.1 == c)

/-- The tether of a cell in a record. -/
def StreamRec.tetherOf (r : StreamRec) (c : CellId) : Option (BitVec 48) := (r.taken.find? fun o => o.any (·.1 == c)).bind (·.map Prod.snd)

/-- What a cell's window unit holds of a record (R266). -/
def StreamRec.pushed (r : StreamRec) (num : BitVec 15) (c : CellId) : WinRec :=
  { num := num, head := r.head, tail := r.tail, closed := r.closed, slot := r.tetherOf c, ftab := r.ftab, back := r.back,
    k := r.k, logn := r.logn }

/-- A command that waits at a stream head or window which is met no longer waits: its entry of the wait table is freed (R222). -/
def EngineQ.wakeWhere (p : ParkKey → Bool) (q : EngineQ) : EngineQ :=
  { q with q := q.q.map fun x => if x.waits.any p then { x with waits := none } else x }

/-- Every activation and every command of a cell whose wait meets a condition is woken. -/
def Cell.wakeAll (p : ParkKey → Bool) (c : Cell) : Cell :=
  { c.wakeWhere p with
    mx := c.mx.wakeWhere p, cp := c.cp.wakeWhere p, kv := c.kv.wakeWhere p, sk := c.sk.wakeWhere p, ch := c.ch.wakeWhere p, gs := c.gs.wakeWhere p }

/-- A push reaches a cell (R214): its window record takes the values, and parks that HEAD or TAIL now satisfies wake; a close
wakes every park on the stream (R215, R217, R218). -/
def Cell.push (r : StreamRec) (num : BitVec 15) (id : CellId) (c : Cell) : Cell :=
  if c.win.any (fun w : WinRec => w.num == num) then
    ({ c with win := c.win.map fun (w : WinRec) => if w.num == num then r.pushed num id else w }).wakeAll fun k =>
      match k with
      | .head n p => n == num && (r.closed || !before r.head p)
      | .window n p => n == num && (r.closed || !before (r.tail + r.cap) p)
      | _ => false
  else c

/-- What leaves the package. -/
def emit (m : OutMsg) (s : State) : State := s.onPkg fun p => { p with outbox := p.outbox ++ [m] }

/-- MSI-X Enable and Function Mask, bits 15 and 14 of the capability's Message Control, which is bits 31:16 of its first word as PCIe
lays it out (log 55). -/
def Vf.msixOn (f : Vf) : Bool := f.msix.getLsbD 31
def Vf.allMasked (f : Vf) : Bool := f.msix.getLsbD 30

/-- A vector of MSI-X is signalled to VF n (1 to 16): masked, by itself or with the whole function, its pending bit is set; otherwise the
message is sent (R414). A function whose MSI-X is not enabled sends none (log 55). -/
def signal (n : Nat) (vec : Bool) (s : State) : State :=
  if h : 1 ≤ n ∧ n ≤ 16 then
    let f := s.pkg.host.vfs[n - 1]'(by omega)
    let i : Fin 2 := if vec then 1 else 0
    if !f.msixOn then s
    else if f.masked[i] || f.allMasked then
      s.onPkg fun p => { p with host := { p.host with
        vfs := p.host.vfs.set (n - 1) { f with pendingBit := f.pendingBit.set i.val true } (by omega) } }
    else emit (.msix (BitVec.ofNat 5 n) vec f.table[i].1 f.table[i].2) s
  else s

/-- The VFs that have an aperture slot attached to a stream: slot j belongs to VF j / 16 + 1 (R220). -/
def Package.attached (p : Package) (ctx : BitVec 6) (num : BitVec 15) : List Nat :=
  (p.apertures.filterMap fun e => if e.2.en && e.2.ctx == ctx && e.2.num == num then some (e.1 / 16 + 1) else none).eraseDups

/-- The record of a bound stream takes new values and they are pushed to every cell that holds it (R214); vector 1 of the VFs
attached to it is signalled when HEAD advances and when it is closed (R414). An advance of a launch stream's HEAD publishes a launch record,
on which the allocator acts (R318). -/
def setRecord (b : Bound) (r : StreamRec) (s : State) : State :=
  let old := s.pkg.record b.pa
  let launch : Bool := r.head != old.head && 1 ≤ b.num.toNat && b.num.toNat ≤ 16
  let s1 := (s.onPkg fun p => { p.write b.pa (recordBytes r) with allocDue := p.allocDue || launch }).mapCells fun id c => if c.k.ctx = b.ctx then c.push r b.num id else c
  if r.head ≠ old.head ∨ (r.closed && !old.closed) then (s.pkg.attached b.ctx b.num).foldl (fun s n => signal n true s) s1 else s1

/-- Where a byte of a stream lies. -/
inductive Place where
  | cell (c : CellId) (off : Nat)
  | phys (key : Nat)
  deriving DecidableEq, Repr

/-- Whether a cell lies on a board. -/
def Board.holds (b : Board) (c : CellId) : Bool :=
  (c.extractLsb' 12 2).toNat == b.die && 8 * b.brow ≤ (c.extractLsb' 6 6).toNat && (c.extractLsb' 6 6).toNat < 8 * (b.brow + b.h) &&
    8 * b.bcol ≤ (c.extractLsb' 0 6).toNat && (c.extractLsb' 0 6).toNat < 8 * (b.bcol + b.w)

/-- Whether a cell lies on a board of a context (R211, R313). -/
def Package.cellOf (p : Package) (ctx : BitVec 6) (c : CellId) : Bool := p.boards.any fun b => b.ctx == ctx && b.holds c

/-- The cell that a frame entry of a cell-store stream names (R211). -/
def entryCell (e : Nat) : CellId := BitVec.ofNat 14 (bits e 54 2 * 2 ^ 12 + bits e 48 6 * 2 ^ 6 + bits e 40 6)

/-- The frame byte at a position (R211, R213), for a read or a write, from the frame entries that the bind read (R265) and the fixed
fields of the record. A cell of no board of the context is denied (R313), and so is a number that no cell has; a frame not aligned to its size is
used where its entry says (log 77). -/
def framePlace (wr : Bool) (ctx : BitVec 6) (frames : List Word) (back : BitVec 2) (k logn : Nat) (pos : BitVec 48)
    (p : Package) : Got Place × Package :=
  let e := (frames.getD (pos.toNat / 2 ^ k % 2 ^ logn) 0).toNat
  if back = 0 then
    if p.cellOf ctx (entryCell e) then (.ok (.cell (entryCell e) (bits e 0 17 + pos.toNat % 2 ^ k)), p) else (.bad, p)
  else
    match translateFor (!wr) wr ctx (BitVec.ofNat 64 (e + pos.toNat % 2 ^ k)) p with
    | (.ok (pa, a), p') => (.ok (.phys (physKey a pa)), p')
    | (.stall l v, p') => (.stall l v, p')
    | (.bad, p') => (.bad, p')

/-- The places of n bytes that lie in one frame (R211, R213). -/
def frameSpan (wr : Bool) (ctx : BitVec 6) (frames : List Word) (back : BitVec 2) (k logn : Nat) (pos : BitVec 48) (n : Nat)
    (p : Package) : Got (List (Place × Nat)) × Package :=
  if back = 0 then
    match framePlace wr ctx frames back k logn pos p with
    | (.ok pl, p') => (.ok [(pl, n)], p')
    | (.stall l v, p') => (.stall l v, p')
    | (.bad, p') => (.bad, p')
  else
    match placeRange (!wr) wr ctx ((frames.getD (pos.toNat / 2 ^ k % 2 ^ logn) 0).toNat + pos.toNat % 2 ^ k) n p with
    | (.ok l, p') => (.ok (l.map fun q => (.phys q.1, q.2)), p')
    | (.stall l v, p') => (.stall l v, p')
    | (.bad, p') => (.bad, p')

/-- Whether n bytes at a place may be written: those of a bound record are not (R267). -/
def Package.writable (p : Package) (pl : Place) (n : Nat) : Bool :=
  match pl with
  | .cell _ _ => true
  | .phys k => !p.inRecord k n

/-- The pieces of n bytes from a position that lie in one frame and, in memory, in one line: positions and sizes (R204, R213). -/
def framePieces (k : Nat) : Nat → BitVec 48 → Nat → List (BitVec 48 × Nat)
  | 0, _, _ => []
  | fuel + 1, pos, n =>
    if n = 0 then []
    else
      let u := 2 ^ min k 7
      let m := min n (u - pos.toNat % u)
      (pos, m) :: framePieces k fuel (pos + BitVec.ofNat 48 m) (n - m)

/-- The places of every frame that n bytes cover; a write finds none in the record of a bound stream (R267). -/
def framePlaces (wr : Bool) (b : Bound) (r : StreamRec) : List (BitVec 48 × Nat) → Package → Got (List (Place × Nat)) × Package
  | [], p => (.ok [], p)
  | (pos, n) :: l, p =>
    match framePlace wr b.ctx b.frames r.back r.k r.logn pos p with
    | (.ok pl, p1) =>
      if wr && !p1.writable pl n then (.bad, p1) else
      match framePlaces wr b r l p1 with
      | (.ok x, p2) => (.ok ((pl, n) :: x), p2)
      | y => y
    | (.stall a v, p1) => (.stall a v, p1)
    | (.bad, p1) => (.bad, p1)

/-- Bytes at a place, with whether they meet damaged data. -/
def readPlace (pl : Place) (n : Nat) (s : State) : List Byte × Bool :=
  match pl with
  | .cell c off => ((s.cellAt c).load off n, (s.cellAt c).damagedAt off n)
  | .phys k => (s.pkg.read k n, s.pkg.damaged k n)

/-- The units that n bytes i before a place begin cover are repaired (R331). -/
def repairPlace (pl : Place) (i n : Nat) (s : State) : State :=
  match pl with
  | .cell c off => s.atCell c (Cell.repair (off - i) n)
  | .phys k => s.onPkg (Package.repair (k - i) n)

/-- Bytes written at a place; the full/empty bits of a cell store stay (R268). -/
def writePlace (pl : Place) (data : List Byte) (s : State) : State :=
  match pl with
  | .cell c off => s.atCell c (Cell.storeAt off data)
  | .phys k => s.onPkg (Package.write k data)

/-- Bytes written at places, in order. -/
def writePlaces : List (Place × Nat) → List Byte → State → State
  | [], _, s => s
  | (pl, n) :: r, d, s => writePlaces r (d.drop n) (writePlace pl (d.take n) s)

/-! ### The event stream (R224-R226) -/

/-- A context changed. -/
def Package.onCtx (ctx : BitVec 6) (f : Context → Context) (p : Package) : Package :=
  match aget p.contexts ctx.toNat with
  | some c => { p with contexts := aput ctx.toNat (f c) p.contexts }
  | none => p

/-- A record is dropped and counted (R225). -/
def dropRecord (ctx : BitVec 6) (s : State) : State :=
  s.onPkg (Package.onCtx ctx fun c => { c with lost := min (c.lost + 1) 0xFFFF })

/-- What publishing a record into the event stream met. -/
inductive Published where
  | done (s : State)
  | waits
  | stalls
  | dropped
  deriving DecidableEq, Repr

/-- A record with its LOST field (R224). -/
def withLost (lost : Nat) (d : List Word) : List Word :=
  match d with
  | [] => []
  | w :: r => (w &&& ~~~(0xFFFF_0000#64) ||| BitVec.ofNat 64 (lost * 2 ^ 16)) :: r

/-- Write and publish one record of 64 bytes, over every frame that it covers (R213), into stream 0 of a context, if there is room (R224, R225). Log
64: that the stream is CLOSED makes no difference, since R224 and R225 name no such condition. -/
def publishNow (ctx : BitVec 6) (d : List Word) (s : State) : Published :=
  match s.pkg.boundOf ctx 0, aget s.pkg.contexts ctx.toNat with
  | some b, some c =>
    let r := s.pkg.record b.pa
    let q := r.head + 64
    if before (r.tail + r.cap) q then .waits
    else
      match framePlaces true b r (framePieces r.k 64 r.head 64) s.pkg with
      | (.ok l, p') =>
        let bytes := (withLost c.lost d).flatMap fun w => bytesOf 8 w.toNat
        let s1 := writePlaces l bytes { s with pkg := p'.onCtx ctx fun c => { c with lost := 0 } }
        let taken := r.taken.any Option.isSome
        .done (signal c.owner.toNat false (setRecord b { r with head := q, tail := if taken then r.tail else q } s1))
      | (.stall _ _, _) => .stalls
      | (.bad, _) => .dropped
  | _, _ => .dropped

/-- Whether a unit beside the cells waits for the resume of a context (R208). -/
def Package.stalledAt (p : Package) (ctx : BitVec 6) (u : StallUnit) : Bool := (aget p.contexts ctx.toNat).any fun c => c.stalled.contains u

/-- A unit beside the cells waits for the resume of a context (R208). -/
def Package.stallAt (ctx : BitVec 6) (u : StallUnit) (p : Package) : Package := p.onCtx ctx fun c => { c with stalled := u :: c.stalled }

/-- A record is posted to a context's event stream: published, or held in the overflow buffer, or dropped (R225). -/
def post (ctx : BitVec 6) (d : List Word) (s : State) : State :=
  match aget s.pkg.contexts ctx.toNat with
  | none => s
  | some c =>
    let wait := if c.overflow.length < 256 then s.onPkg (Package.onCtx ctx fun c => { c with overflow := c.overflow ++ [d] }) else dropRecord ctx s
    if c.overflow ≠ [] then wait
    else match publishNow ctx d s with
      | .done s' => s'
      | .waits => wait
      | .stalls => wait.onPkg (Package.stallAt ctx .events)
      | .dropped => dropRecord ctx s

/-- A 64-bit record word from fields given as value and lowest bit. -/
def fields (l : List (Nat × Nat)) : Word := BitVec.ofNat 64 (l.foldl (fun a e => a + e.1 * 2 ^ e.2) 0)

/-- The units a stall notice names in SRC (R226). -/
def stallNotice (cell : CellId) (src acc : Nat) (level : Nat) (va : Word) : List Word :=
  [fields [(2, 0), (cell.toNat, 32)], va, fields [(src, 8), (acc, 6), (level, 0)], 0, 0, 0, 0, 0]

/-- Every request that is out changed. -/
def Package.mapOut (f : OutReq → OutReq) (p : Package) : Package :=
  { p with peers := p.peers.map fun e => (e.1, { e.2 with out := e.2.out.map f }) }

/-- A translation stall posts one notice for a 64 KiB unit until the next resume (R208). -/
def noteStall (ctx : BitVec 6) (cell : CellId) (src acc level : Nat) (va : Word) (s : State) : State :=
  let unit := va.toNat / 2 ^ 16
  match aget s.pkg.contexts ctx.toNat with
  | none => s
  | some c =>
    if c.noticed.contains unit then s
    else post ctx (stallNotice cell src acc level va) (s.onPkg (Package.onCtx ctx fun c => { c with noticed := unit :: c.noticed }))

/-- A unit beside the cells meets a translation stall: its notice is posted, and it waits for the resume (R208). -/
def stallUnit (u : StallUnit) (ctx : BitVec 6) (cell : CellId) (src acc level : Nat) (va : Word) (s : State) : State :=
  (noteStall ctx cell src acc level va s).onPkg (Package.stallAt ctx u)

/-! ### Parking (R83, R222, R223) -/

/-- The engines of a cell. -/
def Cell.engine (c : Cell) : Engine → EngineQ
  | .mx => c.mx
  | .cp => c.cp
  | .kv => c.kv
  | .sk => c.sk
  | .ch => c.ch
  | .gs => c.gs

/-- A cell with one engine's queue put in place. -/
def Cell.putEngine (e : Engine) (q : EngineQ) (c : Cell) : Cell :=
  match e with
  | .mx => { c with mx := q }
  | .cp => { c with cp := q }
  | .kv => { c with kv := q }
  | .sk => { c with sk := q }
  | .ch => { c with ch := q }
  | .gs => { c with gs := q }

/-- Every engine. -/
def allEngines : List Engine := [.mx, .cp, .kv, .sk, .ch, .gs]

/-- The entries of the wait table that are taken (R222). -/
def Cell.waitEntries (c : Cell) : Nat :=
  (c.hnd.toList.filter fun h => h.st = .parked && !h.wide).length +
    (allEngines.map fun e => ((c.engine e).q.filter (·.waits.isSome)).length).sum

/-- The running activation's entry takes the park, and the core is released (R20, R222). -/
def Cell.parkEntry (h : BitVec 6) (k : ParkKey) (wide : Bool) (c : Cell) : Cell :=
  { c.onHnd h (fun e => { e with st := .parked, pc := c.pc, key := some k, wide := wide }) with
    cur := none, hold := none,
    k := if wide then { c.k with wovf := if c.k.wovf = 0xFFFF_FFFF#32 then c.k.wovf else c.k.wovf + 1 } else c.k }

/-- The notice of the first placement on a cell's wide wait list in a load (R222, R226). -/
def wideNotice (s : State) : State :=
  if s.cell.widePosted then s
  else post s.cell.k.ctx [fields [(2, 0), (s.here.toNat, 32), (1, 48)], 0, fields [(s.cell.k.wovf.toNat, 32)], 0, 0, 0, 0, 0]
    (s.onCell fun c => { c with widePosted := true })

/-- `Park(kind, key)` (R83): inside a trap handler it is a fault (R25). -/
def park (k : ParkKey) (s : State) : State :=
  if s.cell.k.t then raise cWAIT_ILLEGAL 0 0 s
  else match s.cell.cur with
    | none => s
    | some h =>
      if s.cell.waitEntries < 64 then s.onCell (Cell.parkEntry h k false)
      else wideNotice (s.onCell (Cell.parkEntry h k true))

end Sys2Proof.Machine
end

