-- ==== Sys2Proof/Machine/Scalar.lean ====
section
/-! DEFINITION. Scalar instructions: majors 0x01-0x17, 0x24 and 0x38 (R85-R111). -/

namespace Sys2Proof.Machine

/-! ### ALU, major 0x01 (R87) -/

/-- The `.w` form computes on 32 bits and sign-extends (R56, R87). -/
def inWidth (w : Bool) (f : (n : Nat) → BitVec n → BitVec n → BitVec n) (A B : Word) : Word :=
  if w then (f 32 (A.setWidth 32) (B.setWidth 32)).signExtend 64 else f 64 A B

/-- Two sources, one result (R87). -/
def alu (d a b : XIdx) (f : Word → Word → Word) (s : State) : State :=
  readX a s fun A => readX b s fun B => retireX d (f A B) s

/-- One source, one result. -/
def alu1 (d a : XIdx) (f : Word → Word) (s : State) : State := readX a s fun A => retireX d (f A) s

/-- 1 or 0. -/
def ofFlag (b : Bool) : Word := if b then 1 else 0

/-- Rotation left by an amount below the width. -/
def rotl {n : Nat} (A : BitVec n) (k : Nat) : BitVec n := (A <<< k) ||| (A >>> (n - k))

/-- Leading zero bits (R87). -/
def clzOf {n : Nat} (A : BitVec n) : BitVec n := BitVec.ofNat n (((List.range n).find? fun i => A.getMsbD i).getD n)
/-- Trailing zero bits (R87). -/
def ctzOf {n : Nat} (A : BitVec n) : BitVec n := BitVec.ofNat n (((List.range n).find? fun i => A.getLsbD i).getD n)
/-- One bits (R87). -/
def popcOf {n : Nat} (A : BitVec n) : BitVec n := BitVec.ofNat n ((List.range n).countP fun i => A.getLsbD i)
/-- The bytes in reverse order (R87). -/
def bswapOf {n : Nat} (A : BitVec n) : BitVec n := BitVec.ofNat n (ofBytes (bytesOf (n / 8) A.toNat).reverse)

def execAdd (d a b : XIdx) (w : Bool) (s : State) : Result := .next (alu d a b (inWidth w fun _ A B => A + B) s)
def execSub (d a b : XIdx) (w : Bool) (s : State) : Result := .next (alu d a b (inWidth w fun _ A B => A - B) s)
def execAnd (d a b : XIdx) (s : State) : Result := .next (alu d a b (· &&& ·) s)
def execOr (d a b : XIdx) (s : State) : Result := .next (alu d a b (· ||| ·) s)
def execXor (d a b : XIdx) (s : State) : Result := .next (alu d a b (· ^^^ ·) s)
def execAndn (d a b : XIdx) (s : State) : Result := .next (alu d a b (fun A B => A &&& ~~~B) s)
def execOrn (d a b : XIdx) (s : State) : Result := .next (alu d a b (fun A B => A ||| ~~~B) s)
def execShl (d a b : XIdx) (w : Bool) (s : State) : Result := .next (alu d a b (inWidth w fun n A B => A <<< (B.toNat % n)) s)
def execShr (d a b : XIdx) (w : Bool) (s : State) : Result := .next (alu d a b (inWidth w fun n A B => A >>> (B.toNat % n)) s)
def execSra (d a b : XIdx) (w : Bool) (s : State) : Result := .next (alu d a b (inWidth w fun n A B => A.sshiftRight (B.toNat % n)) s)
def execRotl (d a b : XIdx) (w : Bool) (s : State) : Result := .next (alu d a b (inWidth w fun n A B => rotl A (B.toNat % n)) s)
def execMin (d a b : XIdx) (s : State) : Result := .next (alu d a b (fun A B => if A.slt B then A else B) s)
def execMax (d a b : XIdx) (s : State) : Result := .next (alu d a b (fun A B => if A.slt B then B else A) s)
def execMinu (d a b : XIdx) (s : State) : Result := .next (alu d a b (fun A B => if A.ult B then A else B) s)
def execMaxu (d a b : XIdx) (s : State) : Result := .next (alu d a b (fun A B => if A.ult B then B else A) s)
def execMul (d a b : XIdx) (w : Bool) (s : State) : Result := .next (alu d a b (inWidth w fun _ A B => A * B) s)
def execMulh (d a b : XIdx) (s : State) : Result :=
  .next (alu d a b (fun A B => BitVec.ofInt 64 (A.toInt * B.toInt / 2 ^ 64)) s)
def execMulhu (d a b : XIdx) (s : State) : Result :=
  .next (alu d a b (fun A B => BitVec.ofNat 64 (A.toNat * B.toNat / 2 ^ 64)) s)

/-- The division family: DZ on a zero divisor (R88). -/
def divide (d a b : XIdx) (w : Bool) (f : (n : Nat) → BitVec n → BitVec n → BitVec n) (s : State) : State :=
  readX a s fun A => readX b s fun B =>
    let zero := if w then B.setWidth 32 = 0#32 else B = 0
    freeX d s (withFlags (if zero then flDZ else 0) (advance 4 (setX d (inWidth w f A B) s)) s)

def execDiv (d a b : XIdx) (w : Bool) (s : State) : Result :=
  .next (divide d a b w (fun _ A B => if B = 0 then -1 else A.sdiv B) s)
def execDivu (d a b : XIdx) (w : Bool) (s : State) : Result :=
  .next (divide d a b w (fun _ A B => if B = 0 then -1 else A / B) s)
def execRem (d a b : XIdx) (w : Bool) (s : State) : Result :=
  .next (divide d a b w (fun _ A B => if B = 0 then A else A.srem B) s)
def execRemu (d a b : XIdx) (w : Bool) (s : State) : Result :=
  .next (divide d a b w (fun _ A B => if B = 0 then A else A % B) s)
def execSlt (d a b : XIdx) (s : State) : Result := .next (alu d a b (fun A B => ofFlag (A.slt B)) s)
def execSltu (d a b : XIdx) (s : State) : Result := .next (alu d a b (fun A B => ofFlag (A.ult B)) s)
def execClz (d a : XIdx) (w : Bool) (s : State) : Result := .next (alu1 d a (fun A => inWidth w (fun _ A _ => clzOf A) A 0) s)
def execCtz (d a : XIdx) (w : Bool) (s : State) : Result := .next (alu1 d a (fun A => inWidth w (fun _ A _ => ctzOf A) A 0) s)
def execPopc (d a : XIdx) (w : Bool) (s : State) : Result := .next (alu1 d a (fun A => inWidth w (fun _ A _ => popcOf A) A 0) s)
def execBswap (d a : XIdx) (w : Bool) (s : State) : Result := .next (alu1 d a (fun A => inWidth w (fun _ A _ => bswapOf A) A 0) s)
def execSel (d a b : XIdx) (p : PIdx) (s : State) : Result :=
  .next (alu d a b (fun A B => if s.cell.pred p then A else B) s)

/-! ### Immediates and fields (R90, R92) -/

def execAddi (d a : XIdx) (i : BitVec 16) (s : State) : Result := .next (alu1 d a (· + i.signExtend 64) s)
def execAndi (d a : XIdx) (i : BitVec 16) (s : State) : Result := .next (alu1 d a (· &&& i.setWidth 64) s)
def execOri (d a : XIdx) (i : BitVec 16) (s : State) : Result := .next (alu1 d a (· ||| i.setWidth 64) s)
def execXori (d a : XIdx) (i : BitVec 16) (s : State) : Result := .next (alu1 d a (· ^^^ i.setWidth 64) s)
def execShli (d a : XIdx) (sh : BitVec 6) (s : State) : Result := .next (alu1 d a (· <<< sh.toNat) s)
def execShri (d a : XIdx) (sh : BitVec 6) (s : State) : Result := .next (alu1 d a (· >>> sh.toNat) s)
def execSrai (d a : XIdx) (sh : BitVec 6) (s : State) : Result := .next (alu1 d a (fun A => A.sshiftRight sh.toNat) s)
def execSlti (d a : XIdx) (i : BitVec 16) (s : State) : Result := .next (alu1 d a (fun A => ofFlag (A.slt (i.signExtend 64))) s)
def execSltui (d a : XIdx) (i : BitVec 16) (s : State) : Result := .next (alu1 d a (fun A => ofFlag (A.ult (i.setWidth 64))) s)
def execLui (d : XIdx) (i : BitVec 16) (s : State) : Result := .next (retireX d ((i ++ 0#16).signExtend 64) s)
def execLhi (d : XIdx) (h : Bool) (i : BitVec 16) (s : State) : Result :=
  .next (alu1 d d (fun X => if h then i ++ X.extractLsb' 0 48 else X.extractLsb' 48 16 ++ i ++ X.extractLsb' 0 32) s)
def execLea (d a b : XIdx) (sh : BitVec 3) (s : State) : Result := .next (alu d a b (fun A B => A + (B <<< sh.toNat)) s)

/-- A field of w + 1 bits at position p, zero-extended (R92). -/
def fieldOf (w p : BitVec 6) (A : Word) : Word := (A >>> p.toNat) &&& (BitVec.ofNat 64 (2 ^ (w.toNat + 1) - 1))

def execExtf (d a : XIdx) (w p : BitVec 6) (s : State) : Result := .next (alu1 d a (fieldOf w p) s)
def execExtfs (d a : XIdx) (w p : BitVec 6) (s : State) : Result :=
  .next (alu1 d a (fun A => (A <<< (63 - w.toNat - p.toNat)).sshiftRight (63 - w.toNat)) s)
/-- The destination is read before the source, as R92 writes it. -/
def execInsf (d a : XIdx) (w p : BitVec 6) (s : State) : Result :=
  .next (alu d d a (fun X A =>
    let m : Word := BitVec.ofNat 64 (2 ^ (w.toNat + 1) - 1) <<< p.toNat
    (X &&& ~~~m) ||| ((A <<< p.toNat) &&& m)) s)

/-! ### Compares and predicates, major 0x0B (R93) -/

/-- A compare writes a predicate (R93). -/
def compare (d : PIdx) (a b : XIdx) (f : Word → Word → Bool) (s : State) : State :=
  readX a s fun A => readX b s fun B => advance 4 (setP d (f A B) s)

def execCmpEq (d : PIdx) (a b : XIdx) (s : State) : Result := .next (compare d a b (· == ·) s)
def execCmpNe (d : PIdx) (a b : XIdx) (s : State) : Result := .next (compare d a b (· != ·) s)
def execCmpLt (d : PIdx) (a b : XIdx) (s : State) : Result := .next (compare d a b BitVec.slt s)
def execCmpGe (d : PIdx) (a b : XIdx) (s : State) : Result := .next (compare d a b (fun A B => !A.slt B) s)
def execCmpLtu (d : PIdx) (a b : XIdx) (s : State) : Result := .next (compare d a b BitVec.ult s)
def execCmpGeu (d : PIdx) (a b : XIdx) (s : State) : Result := .next (compare d a b (fun A B => !A.ult B) s)

/-- A predicate operation (R93). -/
def predicate (d : PIdx) (v : Bool) (s : State) : State := advance 4 (setP d v s)

def execPand (d a b : PIdx) (s : State) : Result := .next (predicate d (s.cell.pred a && s.cell.pred b) s)
def execPor (d a b : PIdx) (s : State) : Result := .next (predicate d (s.cell.pred a || s.cell.pred b) s)
def execPxor (d a b : PIdx) (s : State) : Result := .next (predicate d (s.cell.pred a != s.cell.pred b) s)
def execPnot (d a : PIdx) (s : State) : Result := .next (predicate d (!s.cell.pred a) s)
def execPmov (d a : PIdx) (s : State) : Result := .next (predicate d (s.cell.pred a) s)

/-! ### Branches, calls, loops and jumps (R94-R96) -/

/-- The target PC + 4 × Sext(disp21, 21), modulo 16 KiB (R59, R94). -/
def target (disp : BitVec 21) (s : State) : Pc := s.cell.pc + (disp.setWidth 14 <<< 2)

/-- The address after the instruction, as `call` and `jalr` write it (R94, R96). -/
def link (s : State) : Word := (s.cell.pc + 4).setWidth 64

/-- A branch taken or not (R94). -/
def branch (taken : Bool) (disp : BitVec 21) (s : State) : State := if taken then jump (target disp s) s else advance 4 s

def execB (disp : BitVec 21) (s : State) : Result := .next (branch true disp s)
def execBp (p : PIdx) (disp : BitVec 21) (s : State) : Result := .next (branch (s.cell.pred p) disp s)
def execBnp (p : PIdx) (disp : BitVec 21) (s : State) : Result := .next (branch (!s.cell.pred p) disp s)
def execBz (c : XIdx) (disp : BitVec 21) (s : State) : Result := .next (readX c s fun C => branch (C == 0) disp s)
def execBnz (c : XIdx) (disp : BitVec 21) (s : State) : Result := .next (readX c s fun C => branch (C != 0) disp s)
def execCall (disp : BitVec 21) (s : State) : Result := .next (freeX 31 s (jump (target disp s) (setX 31 (link s) s)))
def execLoop (c : XIdx) (disp : BitVec 21) (s : State) : Result :=
  .next (readX c s fun n =>
    if 1#64 < n then jump (target disp s) (setX c (n - 1) s) else advance 4 (setX c 0 s))

/-- A jump to the address a register holds; bits 1:0 must be zero (R12, R96). -/
def jumpTo (t : Word) (done s : State) : State :=
  if t.extractLsb' 0 2 = 0#2 then jump (t.setWidth 14) done else raise cMISALIGNED 0 (t.setWidth 32) s

def execJr (a : XIdx) (s : State) : Result := .next (readX a s fun t => jumpTo t s s)
def execJalr (d a : XIdx) (s : State) : Result := .next (readX a s fun t => freeX d s (jumpTo t (setX d (link s) s) s))
def execRet (s : State) : Result := .next (readX 31 s fun t => jumpTo t s s)

/-! ### Full/empty instructions, major 0x24 (R97-R102) -/

/-- Whether a load, store or other access of the running activation to the cell's own store is in flight (R99, R255). -/
def Cell.storeBusy (c : Cell) : Bool :=
  c.inflight.any fun a => a.live && some a.hnd == c.cur && (match a.loc with | .cell _ => true | _ => false)

/-- The address of a cell-store word: outside the store FE_SPACE, off a word boundary MISALIGNED; the instruction then waits,
without parking, for the earlier accesses of the activation to cell store (R99). -/
def onWord (a : XIdx) (s : State) (k : Nat → State) : State :=
  readX a s fun addr =>
    match regionOf addr with
    | .cell off =>
      if off % 4 ≠ 0 then raise cMISALIGNED 0 (addr.setWidth 32) s
      else if s.cell.storeBusy then hold .staying s else k off
    | _ => raise cFE_SPACE 0 (addr.setWidth 32) s

/-- `fe.set` (R98, R99). -/
def execFeSet (a : XIdx) (f : FeFile) (s : State) : Result :=
  .next (match f with
    | .x => if a = 0 then advance 4 s else freeX a s (advance 4 (setX a (s.cell.xreg a).val s))
    | .v => freeV a s (advance 4 (s.onCell fun c => if (c.vreg a).st = .full then c else (c.putV a { c.vreg a with st := .full }).wakeOn (.regV a)))
    | .word => onWord a s fun off => advance 4 (s.onCell (Cell.fillWord off)))

/-- `fe.clr` (R98, R99). -/
def execFeClr (a : XIdx) (f : FeFile) (s : State) : Result :=
  .next (match f with
    | .x => freeX a s (advance 4 (s.onCell fun c => c.putX a { c.xreg a with st := .empty }))
    | .v => freeV a s (advance 4 (s.onCell fun c => c.putV a { c.vreg a with st := .empty }))
    | .word => onWord a s fun off => advance 4 (s.onCell (Cell.emptyWord off)))

/-- `fe.test` (R98, R99). -/
def execFeTest (d : PIdx) (a : XIdx) (f : FeFile) (s : State) : Result :=
  .next (match f with
    | .x => advance 4 (setP d ((s.cell.xreg a).st == .full) s)
    | .v => advance 4 (setP d ((s.cell.vreg a).st == .full) s)
    | .word => onWord a s fun off => advance 4 (setP d (s.cell.wordFull off) s))

/-- `fe.mode` (R100); bit 0 of `KFEMODE0` is reserved (R28, R30). -/
def execFeMode (m : Bool) (a : XIdx) (vfile : Bool) (s : State) : Result :=
  let put (w : W32) : W32 := (w &&& ~~~(1#32 <<< a.toNat)) ||| (if m then 1#32 <<< a.toNat else 0)
  .next (advance 4 (s.onCell fun c =>
    { c with k := if vfile then { c.k with femode1 := put c.k.femode1 }
                  else if a = 0 then c.k else { c.k with femode0 := put c.k.femode0 } }))

/-- `park` (R98, R99). -/
def execPark (a : XIdx) (f : FeFile) (s : State) : Result :=
  .next (match f with
    | .x => if (s.cell.xreg a).st = .full then advance 4 s else park (.regX a) s
    | .v => if (s.cell.vreg a).st = .full then advance 4 s else park (.regV a) s
    | .word => onWord a s fun off => if s.cell.wordFull off then advance 4 s else park (.word off) s)

/-! ### Traps and system, major 0x38 (R103-R107) -/

def execNop (s : State) : Result := .next (advance 4 s)

/-- The conditions that vector (R23). -/
def vectors (code : Byte) (prte : Bool) : Bool :=
  code == cFE_TRAP || code == cBREAKPOINT || code == cARITH || code == cCONV_TURN ||
    ((code == cPARAM_BOUND || code == cPARAM_UNBOUND) && prte)

/-- `Trap(code, detail, info)` (R83). -/
def trapOr (code detail : Byte) (info : W32) (epc : Pc) (done s : State) : State :=
  if vectors code s.cell.k.prte then trap code detail info epc done s else raise code detail info s

/-- `trap` (R104). -/
def execTrap (c e : BitVec 5) (p : PIdx) (s : State) : Result :=
  .next (if s.cell.pred p then
      trapOr (c.setWidth 8) (e.setWidth 8) 0 (s.cell.pc + 4) (advance 4 s) s
    else advance 4 s)

/-- `eret` (R106). -/
def execEret (s : State) : Result := .next (trapReturn s)

/-- `fault` (R107). -/
def execFault (c : BitVec 5) (s : State) : Result :=
  let code : Byte := s.cell.k.cause.setWidth 8
  .next (raise (if c ≠ 0 then c.setWidth 8 else if code ≠ 0 ∧ code ≤ 0x1D#8 then code else cILLEGAL) 0 0 s)

/-- `brk` (R105). -/
def execBrk (s : State) : Result := .next (trap cBREAKPOINT 0 0 (s.cell.pc + 4) (advance 4 s) s)

/-! ### Control and status registers (R27-R30, R108-R111) -/

/-- A bit as a number. -/
def b2n (b : Bool) : Nat := if b then 1 else 0

/-- The value of a k-register (R30). -/
def csrValue (k : BitVec 9) (s : State) : Word :=
  let c := s.cell
  match k.toNat with
  | 0x000 => fields [(c.k.prio.toNat, 4), (b2n c.k.prte, 2), (b2n c.k.lvl, 1), (b2n c.k.t, 0)]
  | 0x001 => c.k.cause
  | 0x002 => c.k.epc.setWidth 64
  | 0x003 => fields [(c.k.vec.toNat, 0), (b2n c.k.tven, 0)]
  | 0x004 => c.k.fflags.setWidth 64
  | 0x005 => fields [(c.k.te.toNat, 8), (b2n c.k.sat, 3), (c.k.rm.toNat, 0)]
  | 0x006 => c.k.femode0.setWidth 64
  | 0x007 => c.k.femode1.setWidth 64
  | 0x008 => fields ((List.range 7).map fun i => (b2n (c.sb.toList.getD (i + 1) 0 != 0), i + 1))
  | 0x009 =>
    match c.cur with
    | some h =>
      let e := c.hnd[h.toNat]'h.isLt
      fields [(b2n e.byStart, 13), (if e.byStart then 0 else e.chan.toNat, 8), (h.toNat, 0)]
    | none => 0
  | 0x00A => c.k.cyc
  | 0x00B => c.k.dkey
  | 0x00C => c.k.ctx.setWidth 64
  | 0x00D =>
    let t := s.pkg.trust
    fields [(if t.td then t.epoch.toNat % 2 ^ 32 else 0, 32), (b2n t.td, 8), (s.pkg.number.toNat, 0)]
  | 0x00E => c.k.wovf.setWidth 64
  | 0x00F => fields [(b2n (c.poison != []), 2), (b2n (c.mx.q != [] || c.mx.held != []), 1), (b2n c.k.ovi, 0)]
  | 0x010 => fields [(c.k.kidx.toNat, 16), (c.k.row.toNat, 0)]
  | n =>
    let i := n % 8
    if n < 0x20 then fields [((c.k.scale.toList.getD i 0).toNat, 0)]
    else if n < 0x30 then fields [((c.k.ecnt.toList.getD i 0).toNat, 0)]
    else if n < 0x38 then c.k.pwb.toList.getD i 0
    else c.k.pws.toList.getD i 0

/-- The bits of a k-register that only runtime level may write, RP (R28, R30). -/
def csrRpMask (k : BitVec 9) : Word :=
  match k.toNat with
  | 0x00A => -1
  | 0x00E => 0xFFFF_FFFF
  | 0x010 => 0xFFFF_001F
  | n => if 0x30 ≤ n ∧ n < 0x38 then ~~~0x3F#64 else if 0x38 ≤ n ∧ n < 0x40 then 0xFF_FFFF_FFFF else 0

/-- A k-register written field by field (R28, R30, R108). -/
def csrPut (k : BitVec 9) (v : Word) (r : KRegs) : KRegs :=
  let i := k.toNat % 8
  match k.toNat with
  | 0x000 => { r with prte := v.getLsbD 2 }
  | 0x001 => { r with cause := v &&& 0xFFFF_FFFF_00FF_00FF#64 }
  | 0x002 => { r with epc := v.setWidth 14 &&& 0x3FFC#14 }
  | 0x003 => { r with vec := v.setWidth 14 &&& 0x3FFC#14, tven := v.getLsbD 0 }
  | 0x004 => { r with fflags := v.setWidth 5 }
  | 0x005 =>
    let rm : BitVec 3 := v.setWidth 3
    { r with te := v.extractLsb' 8 5, sat := v.getLsbD 3, rm := if rm < 5#3 then rm else r.rm }
  | 0x006 => { r with femode0 := v.setWidth 32 &&& ~~~1#32 }
  | 0x007 => { r with femode1 := v.setWidth 32 }
  | 0x00A => { r with cyc := v }
  | 0x00B => { r with dkey := v }
  | 0x00E => { r with wovf := v.setWidth 32 }
  | 0x00F => { r with ovi := v.getLsbD 0 }
  | 0x010 => { r with kidx := v.extractLsb' 16 16, row := v.setWidth 5 }
  | n =>
    if n < 0x18 then r
    else if n < 0x20 then { r with scale := r.scale.setIfInBounds i (v.setWidth 8) }
    else if n < 0x28 then { r with ecnt := r.ecnt.setIfInBounds i (v.setWidth 32) }
    else if n < 0x38 then { r with pwb := r.pwb.setIfInBounds i (v &&& ~~~0x3F#64) }
    else { r with pws := r.pws.setIfInBounds i (v &&& 0xFF_FFFF_FFFF#64) }

/-- A write of a k-register; a counter that reaches a target wakes its waiters (R84). -/
def csrWrite (k : BitVec 9) (v : Word) (c : Cell) : Cell :=
  let c' := { c with k := csrPut k v c.k }
  if 0x020#9 ≤ k ∧ k ≤ 0x027#9 then c'.wakeCounter (k.setWidth 3) else c'

/-- Whether an access in flight of the running activation still merges flags when it lands: a returning atomic, `ramo.r`,
`mcred` (R29, R110). -/
def Cell.flagsPending (c : Cell) : Bool :=
  c.inflight.any fun a => a.live && some a.hnd == c.cur &&
    (match a.op with
     | .amo _ _ _ _ ret _ _ => ret
     | .value _ _ | .await => fMajor a.word == 0x35#6 || (fMajor a.word == 0x34#6 && fOp a.word == 4#6)
     | _ => false)

/-- A read of a k-register followed by what is done with it; `KFFLAGS` waits for the flags that have still to merge
(R29, R110). -/
def csrRead (k : BitVec 9) (s : State) (f : Word → State) : State :=
  if k = 0x004#9 ∧ s.cell.flagsPending then hold .staying s else f (csrValue k s)

/-- `csrw`, `csrs` and `csrc`: the new value from the old one and `x[a]`, and the privilege check of R109. -/
def csrUpdate (d a : XIdx) (k : BitVec 9) (f : Word → Word → Word) (s : State) : State :=
  readX a s fun A => csrRead k s fun old =>
    let new := f old A
    if !s.runtime && (old ^^^ new) &&& csrRpMask k != 0 then raise cPRIVILEGED 0 0 s
    else freeX d s (advance 4 (setX d old (s.onCell (csrWrite k new))))

def execCsrr (d : XIdx) (k : BitVec 9) (s : State) : Result := .next (csrRead k s fun v => retireX d v s)
def execCsrw (d a : XIdx) (k : BitVec 9) (s : State) : Result := .next (csrUpdate d a k (fun _ A => A) s)
def execCsrs (d a : XIdx) (k : BitVec 9) (s : State) : Result := .next (csrUpdate d a k (fun old A => old ||| A) s)
def execCsrc (d a : XIdx) (k : BitVec 9) (s : State) : Result := .next (csrUpdate d a k (fun old A => old &&& ~~~A) s)

/-- A reserved encoding faults with ILLEGAL and changes nothing else (R55, R68). -/
def execReservedEncoding (word : W32) (s : State) : Result :=
  .next (s.onCell fun c => c.withFault
    { code := cILLEGAL, detail := 0, t := c.k.t, src := 0, hnd := c.hndNum, word := word, pc := c.pc, info := 0,
      aux0 := c.traceOf.1, aux1 := c.traceOf.2 })

end Sys2Proof.Machine
end

