-- ==== Sys2Proof/Machine/Memory.lean ====
section
/-! DEFINITION. Memory instructions, majors 0x18-0x21 and 0x23: issuing an access, the order it keeps (R228-R230, R238, R242,
R255), and performing it (R228). -/

namespace Sys2Proof.Machine

/-! ### Accesses in flight -/

/-- Whether an access writes (R229). -/
def Access.writes (a : Access) : Bool :=
  match a.op with
  | .store _ _ | .storeV _ _ | .amo .. => true
  | .sync _ take => take
  | _ => false

/-- Whether a release covers an access (R238). -/
def Access.released (a : Access) : Bool :=
  match a.op with
  | .store _ _ | .storeV _ _ | .amo .. => true
  | .stream _ (.publish _) | .stream _ (.release _) | .stream _ .close => true
  | _ => false

/-- Whether an acquire covers an access (R238); the value of an `ld.sync` on its way counts as one. -/
def Access.acquired (a : Access) : Bool :=
  match a.op with
  | .load _ _ | .loadV _ _ | .sync _ _ => true
  | .amo _ _ _ _ ret _ _ => ret
  | .value _ _ => fMajor a.word == 0x1D#6
  | _ => false

/-- Whether an access is strong: `ld.s`, `st.s` or an atomic (R243). -/
def Access.strong (a : Access) : Bool := let m := fMajor a.word; m == 0x1B#6 || m == 0x1C#6 || m == 0x21#6

/-- Whether an access belongs to the running activation. -/
def Cell.own (c : Cell) (a : Access) : Bool := a.live && some a.hnd == c.cur

/-- The accesses in flight that meet a condition, by their numbers. -/
def Cell.idsWhere (c : Cell) (p : Access → Bool) : List Nat := (c.inflight.filter p).map (·.id)

/-- Whether an access in flight has a number. -/
def Cell.flying (c : Cell) (id : Nat) : Bool := c.inflight.any (·.id == id)

/-- Whether a location lies in the cell's own store. -/
def Loc.inCell : Loc → Bool
  | .cell _ => true
  | _ => false

/-- Whether a location is reached over the best-effort networks (R126, R127). -/
def Loc.remote : Loc → Bool
  | .phys _ _ | .stall _ | .stream _ _ => true
  | _ => false

/-- The reply buffers in use (R127). -/
def Cell.buffers (c : Cell) : Nat :=
  (c.inflight.filter fun a => a.loc.remote || (match a.op with | .awaitLine _ | .stream _ _ => true | .await => fMajor a.word != 0x33#6 | _ => false)).length

/-- The accesses that the class of a later access of the running activation puts before it (R229). -/
def Cell.classBefore (c : Cell) (cls : BitVec 3) (writes : Bool) : List Nat :=
  if cls = 7 then [] else c.idsWhere fun a => c.own a && a.cls == cls && (writes || a.writes)

/-- The accesses that a cell-store access waits on whatever its class: an `ld.sync` of the activation (R255). -/
def Cell.syncBefore (c : Cell) : List Nat := c.idsWhere fun a => c.own a && fMajor a.word == 0x1D#6

/-- The count of a scoreboard slot (R230). -/
def Cell.slot (c : Cell) (n : BitVec 3) : Nat := c.sb[n.toNat]'n.isLt

/-- A scoreboard slot changed; slot 0 is none. -/
def Cell.onSlot (n : BitVec 3) (f : Nat → Nat) (c : Cell) : Cell :=
  if n = 0 then c else { c with sb := c.sb.set n.toNat (f (c.slot n)) n.isLt }

/-- A destination becomes PENDING (R15). -/
def pendDst (d : Dst) (s : State) : State :=
  match d with
  | .none => s
  | .x r => pendX r s
  | .v r => pendV r s

/-- The wait for a PENDING destination (R16). -/
def freeDst (d : Dst) (s t : State) : State :=
  match d with
  | .none => t
  | .x r => freeX r s t
  | .v r => freeV r s t

/-- An access joins the accesses in flight, its slot counts it and its destination becomes PENDING (R15, R230). -/
def launch (op : AccOp) (dst : Dst) (va : Word) (loc : Loc) (cls set : BitVec 3) (after : List Nat) (acq l1 : Bool)
    (s : State) : State :=
  pendDst dst (s.onCell fun c =>
    ({ c with
        inflight := c.inflight ++ [(⟨c.nextId, c.cur.getD 0, c.pc, c.wordAt c.pc, op, dst, va, loc, cls, set, after, acq, l1, true, false⟩ : Access)],
        nextId := c.nextId + 1 }).onSlot set (· + 1))

/-- Whether an acquiring access of the running activation has still to land: no later access issues before (R242). -/
def Cell.acquiring (c : Cell) : Bool := c.inflight.any fun a => c.own a && a.acq

/-- The holds that precede an access: an acquire of the activation, the slot it waits on, and a full count (R230, R242). -/
def issuable (set wait : BitVec 3) (s t : State) : State :=
  if s.cell.acquiring then hold .staying s
  else if wait ≠ 0 ∧ s.cell.slot wait ≠ 0 then hold (.expiring (.slot wait)) s
  else if set ≠ 0 ∧ s.cell.slot set ≥ 63 then hold .staying s
  else t

/-- The hold for a reply buffer (R127). -/
def buffered (s t : State) : State := if s.cell.buffers ≥ 32 then hold .staying s else t

/-- ACCESS with the address (R330). -/
def denied (va : Word) (s : State) : State := raise cACCESS 0 (va.setWidth 32) s

/-- What an instruction asks of memory. -/
structure Req where
  op : AccOp
  dst : Dst
  va : Word
  n : Nat
  cls : BitVec 3
  set : BitVec 3
  rd : Bool
  wr : Bool
  acq : Bool
  weak : Bool
  /-- The further accesses it is performed after. -/
  after : List Nat

/-- A global access: translation, permissions, stalls (R205-R208); a write to the record of a bound stream is denied (R267). -/
def globalAccess (q : Req) (s : State) : State :=
  buffered s (freeDst q.dst s
    (let s0 := s
     match translateFor q.rd q.wr s.cell.k.ctx q.va s.pkg with
     | (.ok (pa, a), p) =>
       if q.wr && p.inRecord (physKey a pa) q.n then denied q.va s0
       else advance 4 (launch q.op q.dst q.va (.phys pa a) q.cls q.set (q.after ++ s.cell.classBefore q.cls q.wr) q.acq q.weak { s with pkg := p })
     | (.stall l va, p) =>
       advance 4 (launch q.op q.dst q.va (.stall l) q.cls q.set (q.after ++ s.cell.classBefore q.cls q.wr) q.acq q.weak
         (noteStall s.cell.k.ctx s.here 0 (if q.wr then (if q.rd then 2 else 1) else 0) l va { s with pkg := p }))
     | (.bad, _) => denied q.va s0))

/-- An access to the cell's own store (R13): after the activation's `ld.sync`, whatever the class (R255). -/
def cellAccess (q : Req) (off : Nat) (s : State) : State :=
  freeDst q.dst s (advance 4 (launch q.op q.dst q.va (.cell off) q.cls q.set
    (q.after ++ s.cell.classBefore q.cls q.wr ++ s.cell.syncBefore) q.acq false s))

/-- Whether an operation on a stream's record is in flight from the cell: later accesses to the stream are held (R249). -/
def Cell.streamPending (c : Cell) (num : BitVec 15) : Bool :=
  c.inflight.any fun a => match a.op with | .stream n _ => n == num | _ => false

/-- A stream's record in the cell's window unit; where it is not held, the instruction at an address waits for the fetch (R266). -/
def withWindow (num : BitVec 15) (va : Word) (s : State) (k : WinRec → State) : State :=
  match s.cell.win.find? fun w : WinRec => w.num == num with
  | some w => k w
  | none => hold (.fetching num (va.setWidth 32)) s

/-- The window record was used: it becomes the most recent (R266). -/
def Cell.touchWin (num : BitVec 15) (c : Cell) : Cell :=
  { c with win := c.win.filter (fun w : WinRec => w.num != num) ++ c.win.filter (fun w : WinRec => w.num == num) }

/-- The capacity of a pushed record. -/
def WinRec.cap (w : WinRec) : BitVec 48 := BitVec.ofNat 48 (2 ^ w.logn * 2 ^ w.k)

/-- Whether bytes of a stream span two frames. -/
def spansFrames (k : Nat) (pos : BitVec 48) (n : Nat) : Bool := pos.toNat / 2 ^ k != (pos.toNat + n - 1) / 2 ^ k

/-! ### Deadlock of a stream (R219) -/

/-- Whether a key waits at the window of a stream. -/
def ParkKey.atWindow (num : BitVec 15) : ParkKey → Bool
  | .window n _ => n == num
  | _ => false

/-- Whether a key waits at the head of a stream. -/
def ParkKey.atHead (num : BitVec 15) : ParkKey → Bool
  | .head n _ => n == num
  | _ => false

/-- Whether a party of a cell, an activation or an engine, waits on a key that meets a condition. -/
def Cell.waitsOn (c : Cell) (p : ParkKey → Bool) : Bool :=
  c.hnd.toList.any (fun h => h.st == .parked && h.key.any p) || allEngines.any fun e => (c.engine e).q.any fun x => x.waits.any p

/-- The fault of a producer parked at the window of a stream (R219, R334). -/
def Cell.deadlocked (num : BitVec 15) (c : Cell) : Cell :=
  let found (src : BitVec 2) (h : BitVec 7) (w : W32) (pc : Pc) (aux0 : W32) (aux1 : Word) : FaultRec :=
    ⟨cSTREAM_DEADLOCK, 0, c.k.t, src, h, w, pc, num.setWidth 32, aux0, aux1⟩
  match (List.range 64).find? fun i => (c.hnd.toList.getD i Handler.reset).key.any (ParkKey.atWindow num) with
  | some i =>
    let h := c.hnd.toList.getD i Handler.reset
    c.withFault (found 0 (BitVec.ofNat 7 i) (c.wordAt h.pc) h.pc c.traceOf.1 c.traceOf.2)
  | none =>
    match (allEngines.flatMap fun e => (c.engine e).q).find? fun x => x.waits.any (ParkKey.atWindow num) with
    | some x => c.withFault (found 2 (x.hnd.setWidth 7) x.word0 x.pc x.w3 (x.w2 ++ x.w1))
    | none => c

/-- The check made each time a party of a stream parks and each time HEAD or TAIL changes (R219). Of several producers parked at the
window the first in the order of the cells faults, and a slot of the sequencers is never held by a parked party (log 79). -/
def deadlockCheck (ctx : BitVec 6) (num : BitVec 15) (s : State) : State :=
  match s.pkg.boundOf ctx num with
  | none => s
  | some b =>
    let r := s.pkg.record b.pa
    let holders := (r.taken.filterMap id).filter fun o => o.2 == r.tail
    let producer := s.cells.find? fun e => e.2.k.ctx == ctx && e.2.waitsOn (ParkKey.atWindow num)
    match producer with
    | none => s
    | some e =>
      if holders ≠ [] && holders.all fun o => o.1 != 0x3FFF && (s.cellAt o.1).k.ctx == ctx && (s.cellAt o.1).waitsOn (ParkKey.atHead num) then
        (setRecord b { r with err := cSTREAM_DEADLOCK } s).atCell e.1 (Cell.deadlocked num)
      else s

/-- A park at a stream's head or window, with the check it calls for (R216, R217, R219); it uses the window record (R266). -/
def parkStream (num : BitVec 15) (k : ParkKey) (s : State) : State := deadlockCheck s.cell.k.ctx num (park k (s.onCell (Cell.touchWin num)))

/-- The frame entries of a bound stream (R265). -/
def Package.framesOf (p : Package) (ctx : BitVec 6) (num : BitVec 15) : List Word := (p.boundOf ctx num).elim [] (·.frames)

/-- An access in stream space that its checks let through (R213, R216, R217): it uses the window record, also while it is held (R266); a write to the
record of a bound stream is denied (R267). -/
def streamLaunch (q : Req) (num : BitVec 15) (pos : BitVec 48) (w : WinRec) (s0 : State) : State :=
  let s := s0.onCell (Cell.touchWin num)
  buffered s (freeDst q.dst s
    (let go (loc : Loc) (s : State) : State :=
       advance 4 (launch q.op q.dst q.va loc q.cls q.set (q.after ++ s.cell.classBefore q.cls q.wr) q.acq false s)
     match framePlace q.wr s.cell.k.ctx (s.pkg.framesOf s.cell.k.ctx num) w.back w.k w.logn pos s.pkg with
     | (.ok pl, p) => if q.wr && !p.writable pl q.n then denied q.va s else go (.stream num pos) { s with pkg := p }
     | (.stall l va, p) => go (.stall l) (noteStall s.cell.k.ctx s.here 0 (if q.wr then 1 else 0) l va { s with pkg := p })
     | (.bad, _) => denied q.va s))

/-- A read in stream space (R216). -/
def streamRead (q : Req) (num : BitVec 15) (pos : BitVec 48) (w : WinRec) (s : State) : State :=
  let fin := pos + BitVec.ofNat 48 q.n
  match w.slot with
  | none => denied q.va s
  | some t =>
    if before pos t then raise cSTREAM_BEHIND 0 (pos.setWidth 32) s
    else if spansFrames w.k pos q.n then raise cMISALIGNED 0 (q.va.setWidth 32) s
    else if !before w.head fin then streamLaunch q num pos w s
    else if w.closed then raise cSTREAM_CLOSED 0 (pos.setWidth 32) s
    else parkStream num (.head num fin) s

/-- A write in stream space (R217). -/
def streamWrite (q : Req) (num : BitVec 15) (pos : BitVec 48) (w : WinRec) (s : State) : State :=
  let fin := pos + BitVec.ofNat 48 q.n
  if w.closed then raise cSTREAM_CLOSED 0 (pos.setWidth 32) s
  else if before pos w.head then raise cSTREAM_PUBLISHED 0 (pos.setWidth 32) s
  else if spansFrames w.k pos q.n then raise cMISALIGNED 0 (q.va.setWidth 32) s
  else if before (w.tail + w.cap) fin then parkStream num (.window num fin) s
  else streamLaunch q num pos w s

/-- An access in stream space: held while an operation on the stream is in flight (R249); a number without a record is
denied (R210). -/
def streamAccess (q : Req) (num : BitVec 15) (pos : BitVec 48) (s : State) : State :=
  if s.cell.streamPending num then hold .staying s
  else withWindow num q.va s fun w => if q.wr then streamWrite q num pos w s else streamRead q num pos w s

/-- An access of any region (R200, R231). -/
def access (q : Req) (s : State) : State :=
  match region q.va q.n with
  | .global => globalAccess q s
  | .cell off => cellAccess q off s
  | .stream num pos => streamAccess q num pos s
  | .none => denied q.va s

/-- The effective address `x[base]` + offset × n (R231). -/
def effective (base : Word) (o : Nat) (n : Nat) : Word := base + BitVec.ofNat 64 (o * n)

/-- The alignment check, which comes before the region check (R200, R231; log 65). -/
def aligned (va : Word) (n : Nat) (s t : State) : State := if va.toNat % n ≠ 0 then raise cMISALIGNED 0 (va.setWidth 32) s else t

/-- The bytes of a size field (R58). -/
def sizeOf (z : BitVec 2) : Nat := 2 ^ z.toNat

/-! ### Loads and stores (R231, R234-R236, R242) -/

/-- `ld` and `ldu` (R231). -/
def loadX (sext : Bool) (d b : XIdx) (c si w : BitVec 3) (z : BitVec 2) (o : BitVec 5) (s : State) : State :=
  let n := sizeOf z
  readX b s fun base => issuable si w s
    (let va := effective base o.toNat n
     aligned va n s (access ⟨.load n sext, .x d, va, n, c, si, true, false, false, true, []⟩ s))

def execLd (d b : XIdx) (c si w : BitVec 3) (z : BitVec 2) (o : BitVec 5) (s : State) : Result := .next (loadX true d b c si w z o s)
def execLdu (d b : XIdx) (c si w : BitVec 3) (z : BitVec 2) (o : BitVec 5) (s : State) : Result := .next (loadX false d b c si w z o s)

/-- `st` (R231). -/
def execSt (d b : XIdx) (c si w : BitVec 3) (z : BitVec 2) (o : BitVec 5) (s : State) : Result :=
  let n := sizeOf z
  .next (readX b s fun base => readX d s fun v => issuable si w s
    (let va := effective base o.toNat n
     aligned va n s (access ⟨.store (bytesOf n v.toNat) false, .none, va, n, c, si, false, true, false, false, []⟩ s)))

/-- The accesses of the whole cell that a release covers (R238). -/
def Cell.releaseSet (c : Cell) : List Nat := c.idsWhere Access.released

/-- The accesses a fence covers (R238). -/
def Cell.fenceSet (c : Cell) (k : BitVec 2) : List Nat :=
  c.idsWhere fun a => (k != 0#2 && a.released) || (k != 1#2 && c.own a && a.acquired)

/-- The accesses an instruction waits for as a release or an acquire: the set that its first issue fixed, or the one that it fixes now (R238). -/
def Cell.cover (first : List Nat) (c : Cell) : List Nat := match c.pend with | .fence l _ _ => l | _ => first

/-- A release or an acquire before what an instruction does (R238, R242, R245): it waits for the accesses that it covers, as a fence does, and keeps
the set in the handler entry until the instruction is performed. With `sys` it is a release at system scope, for which the CXL device has also
completed the covered writes (R239; log 82). -/
def afterCovered (sys : Bool) (first : List Nat) (s : State) (k : State → State) : State :=
  let ids := s.cell.cover first
  let (cell, n) := match s.cell.pend with | .fence _ c n => (c, n) | _ => (s.here, s.cell.nextId)
  if ids.any s.cell.flying then hold (.expiring .covered) (s.onCell (Cell.setPend (.fence ids cell n)))
  else
    let t := k (if sys then s.onPkg (Package.cxlDone s.here ids cell n) else s)
    if t.cell.hold.isSome then t else t.onCell Cell.unfence

/-- A strong access reaches global memory or the cell's own store only (R242). -/
def strongAccess (q : Req) (s : State) : State :=
  match region q.va q.n with
  | .global => globalAccess q s
  | .cell off => cellAccess q off s
  | _ => denied q.va s

/-- `ld.s`: an acquire when its value lands (R242). -/
def execLdS (d b : XIdx) (_ si w : BitVec 3) (z : BitVec 2) (o : BitVec 5) (s : State) : Result :=
  let n := sizeOf z
  .next (readX b s fun base => issuable si w s
    (let va := effective base o.toNat n
     aligned va n s (strongAccess ⟨.load n true, .x d, va, n, 7, si, true, false, true, false, s.cell.idsWhere fun a => s.cell.own a && a.strong⟩ s)))

/-- `st.s`: a release before its store (R242). -/
def execStS (d b : XIdx) (scope si w : BitVec 3) (z : BitVec 2) (o : BitVec 5) (s : State) : Result :=
  let n := sizeOf z
  .next (readX b s fun base => readX d s fun v => issuable si w s
    (let va := effective base o.toNat n
     aligned va n s (afterCovered (scope == 5) s.cell.releaseSet s
       (strongAccess ⟨.store (bytesOf n v.toNat) false, .none, va, n, 7, si, false, true, false, false, []⟩))))

/-- Whether every word that n bytes at an offset touch is full (R233). -/
def Cell.allFull (c : Cell) (off n : Nat) : Bool := (wordsTouched off n).all c.wordFull

/-- Every word of a range becomes empty (R233). -/
def Cell.emptyWordsOf (off n : Nat) (c : Cell) : Cell := (wordsTouched off n).foldl (fun c x => c.emptyWord x) c

/-- `ld.sync`: the test of the bits, the read and the emptying are one step (R233). Behind an earlier access of its class, of which one
that takes its words counts as a write, or behind an earlier `ld.sync` (R255), it issues and makes that step when its turn
comes (R229; log 66). -/
def execLdSync (d b : XIdx) (c : BitVec 2) (take : Bool) (si w : BitVec 3) (z : Bool) (o : BitVec 5) (s : State) : Result :=
  let n := if z then 8 else 4
  .next (readX b s fun base => issuable si w s
    (let va := effective base o.toNat n
     match regionOf va with
     | .cell off =>
       if off % n ≠ 0 then raise cMISALIGNED 0 (va.setWidth 32) s
       else
         let before := s.cell.classBefore (0#1 ++ c) take ++ s.cell.syncBefore
         if before ≠ [] then freeX d s (advance 4 (launch (.sync n take) (.x d) va (.cell off) (0#1 ++ c) si before false false s))
         else
           match (wordsTouched off n).find? fun x => !s.cell.wordFull x with
           | some x => park (.word x) s
           | none =>
             if s.cell.damagedAt off n then raise cUNCORRECTABLE 0 (va.setWidth 32) s else
             freeX d s (advance 4 (launch (.value (sextBytes n (ofBytes (s.cell.load off n))) 0) (.x d) va (.cell off) (0#1 ++ c) si
               [] false false (if take then s.onCell (Cell.emptyWordsOf off n) else s)))
     | _ => raise cFE_SPACE 0 (va.setWidth 32) s))

/-- `st.fill`: after every earlier access of the activation to cell store (R234, R255). -/
def execStFill (d b : XIdx) (c si w : BitVec 3) (z : BitVec 2) (o : BitVec 5) (s : State) : Result :=
  let n := sizeOf z
  .next (readX b s fun base => readX d s fun v => issuable si w s
    (let va := effective base o.toNat n
     match regionOf va with
     | .cell off =>
       aligned va n s (cellAccess ⟨.store (bytesOf n v.toNat) true, .none, va, n, c, si, false, true, false, false,
         s.cell.idsWhere fun a => s.cell.own a && a.loc.inCell⟩ off s)
     | _ => raise cFE_SPACE 0 (va.setWidth 32) s))

/-- `ld.p` (R201, R235). -/
def execLdP (d b : XIdx) (num si w : BitVec 3) (z : BitVec 2) (o : BitVec 5) (s : State) : Result :=
  let n := sizeOf z
  let size := (s.cell.k.pws[num.toNat]'num.isLt).toNat
  .next (readX b s fun base => issuable si w s
    (let off := effective base o.toNat n
     let refuse (code : Byte) := trapOr code (num.setWidth 8) (off.setWidth 32) s.cell.pc s s
     if size = 0 then refuse cPARAM_UNBOUND
     else if off.toNat + n > size then refuse cPARAM_BOUND
     else
       let va := s.cell.k.pwb[num.toNat]'num.isLt + off
       aligned va n s (match region va n with
         | .global => globalAccess ⟨.load n true, .x d, va, n, 7, si, true, false, false, true, []⟩ s
         | _ => denied va s)))

/-- `ld.v` (R236). -/
def execLdV (v : VIdx) (b : BitVec 4) (c si w l : BitVec 3) (o : BitVec 4) (s : State) : Result :=
  let n := if l = 0 then 8 else l.toNat
  .next (readX (b.setWidth 5) s fun base => issuable si w s
    (let va := effective base o.toNat 32
     aligned va 32 s (access ⟨.loadV n [], .v v, va, 4 * n, c, si, true, false, false, true, []⟩ s)))

/-- `st.v`: n lanes whatever the length of the register (R236). -/
def execStV (v : VIdx) (b : BitVec 4) (c si w l : BitVec 3) (o : BitVec 4) (s : State) : Result :=
  let n := if l = 0 then 8 else l.toNat
  .next (readX (b.setWidth 5) s fun base => readV v s fun r => issuable si w s
    (let va := effective base o.toNat 32
     aligned va 32 s (access ⟨.storeV n ((List.range n).map fun i => (i, r.lanes.toList.getD i 0)), .none, va, 4 * n, c, si, false, true, false, false, []⟩ s)))

/-! ### Atomics, major 0x21 (R244-R247) -/

/-- The bytes of an atomic (R244). -/
def amoBytes (op : AmoOp) (w4 : Bool) : Nat :=
  match op with
  | .faddF32 | .fminF32 | .fmaxF32 => 4
  | .faddBf16 => 2
  | _ => if w4 then 4 else 8

/-- The value an atomic of n bytes stores, from the old one and the operands B and C, with its flags (R244, R246). -/
def amoNew (op : AmoOp) (n : Nat) (old b c : Nat) (r : Rounding) (rnd : Nat) : Nat × Flags :=
  let m := 2 ^ (8 * n)
  let sgn (v : Nat) : Int := (BitVec.ofNat (8 * n) v).toInt
  let fadd (f : FmtDesc) : Nat × Flags :=
    let (x, f1) := addExact r.mode (valueOf f old) (valueOf f b)
    let (v, f2) := roundTo f r rnd x
    (v, f1 ||| f2)
  match op with
  | .add => ((old + b) % m, 0)
  | .and => (old &&& b, 0)
  | .or => (old ||| b, 0)
  | .xor => (old ^^^ b, 0)
  | .min => (if sgn old < sgn b then old else b, 0)
  | .max => (if sgn old < sgn b then b else old, 0)
  | .minu => (min old b, 0)
  | .maxu => (max old b, 0)
  | .swap => (b, 0)
  | .cas => (if old = c then b else old, 0)
  | .faddF32 => fadd fFP32
  | .faddBf16 => fadd fBF16
  | .fminF32 => minMax fFP32 false old b
  | .fmaxF32 => minMax fFP32 true old b

/-- Whether an atomic counts as a floating-point reduction for the update counter (R45, R246). -/
def AmoOp.reduces : AmoOp → Bool
  | .faddF32 | .faddBf16 => true
  | _ => false

/-- What an atomic returns (R244). -/
def amoResult (op : AmoOp) (n old : Nat) : Word :=
  match op with
  | .faddF32 | .faddBf16 | .fminF32 | .fmaxF32 => BitVec.ofNat 64 old
  | _ => sextBytes n old

/-- Flags of an atomic wait to be ORed into the context's memory-flags word; a waiting write takes later ones (R247). -/
def postFlags (cell : CellId) (ctx : BitVec 6) (f : Flags) (p : Package) : Package :=
  if f = 0 then p
  else if p.flagWrites.any fun w => w.ctx == ctx && w.stalled then
    { p with flagWrites := p.flagWrites.map fun w => if w.ctx == ctx && w.stalled then { w with flags := w.flags ||| f } else w }
  else { p with flagWrites := p.flagWrites ++ [⟨cell, ctx, f, false⟩] }

/-- Rnd of a reduction at memory (R45). -/
def memoryDraw (ctx : BitVec 6) (va : Word) (line : Nat) (p : Package) : Nat :=
  let seed := (aget p.contexts ctx.toNat).elim 0 (·.seed)
  (philox seed (va.extractLsb' 0 32) (va.extractLsb' 32 32) ((sget 0 p.updates line).setWidth 32) 0).1.toNat % 2 ^ 16

/-- One atomic at its home: the read, the operation and the write are one step (R245). Answers the old value and the flags. -/
def amoAt (cell : CellId) (ctx : BitVec 6) (op : AmoOp) (n : Nat) (b c : Word) (r : Rounding) (va : Word) (key : Nat)
    (p : Package) : (Nat × Flags) × Package :=
  let old := ofBytes (p.read key n)
  let u := sget 0 p.updates (key / 128)
  let (new, f) := amoNew op n old (b.toNat % 2 ^ (8 * n)) (c.toNat % 2 ^ (8 * n)) r (memoryDraw ctx va (key / 128) p)
  let p1 := p.write key (bytesOf n new)
  let p2 := if op.reduces then { p1 with updates := sput 0 (key / 128) (u + 1) p1.updates } else p1
  ((old, f), postFlags cell ctx f p2)

/-- An atomic: once its address is known to be good, a release of the whole cell comes before its issue; in the returning form an acquire when it
lands (R245). -/
def atomic (op : AmoOp) (d a b : XIdx) (w4 ret : Bool) (scope : BitVec 3) (s : State) : State :=
  let n := amoBytes op w4
  let go (B C : Word) (va : Word) : State :=
    issuable 0 0 s (aligned va n s (match region va n, (translateFor true true s.cell.k.ctx va s.pkg).1 with
      | .global, .bad => denied va s
      | .global, _ => afterCovered (scope == 5) s.cell.releaseSet s
          (globalAccess ⟨.amo op n B C ret s.cell.k.rm s.cell.k.sat, if ret then .x d else .none, va, n, 7, 0, true, true, ret, false, []⟩)
      | _, _ => denied va s))
  readX a s fun va => readX b s fun B => if op = .cas then readX d s fun C => go B C va else go B 0 va

def execAmoAdd (d a b : XIdx) (w ret : Bool) (scope : BitVec 3) (s : State) : Result := .next (atomic .add d a b w ret scope s)
def execAmoAnd (d a b : XIdx) (w ret : Bool) (scope : BitVec 3) (s : State) : Result := .next (atomic .and d a b w ret scope s)
def execAmoOr (d a b : XIdx) (w ret : Bool) (scope : BitVec 3) (s : State) : Result := .next (atomic .or d a b w ret scope s)
def execAmoXor (d a b : XIdx) (w ret : Bool) (scope : BitVec 3) (s : State) : Result := .next (atomic .xor d a b w ret scope s)
def execAmoMin (d a b : XIdx) (w ret : Bool) (scope : BitVec 3) (s : State) : Result := .next (atomic .min d a b w ret scope s)
def execAmoMax (d a b : XIdx) (w ret : Bool) (scope : BitVec 3) (s : State) : Result := .next (atomic .max d a b w ret scope s)
def execAmoMinu (d a b : XIdx) (w ret : Bool) (scope : BitVec 3) (s : State) : Result := .next (atomic .minu d a b w ret scope s)
def execAmoMaxu (d a b : XIdx) (w ret : Bool) (scope : BitVec 3) (s : State) : Result := .next (atomic .maxu d a b w ret scope s)
def execAmoSwap (d a b : XIdx) (w ret : Bool) (scope : BitVec 3) (s : State) : Result := .next (atomic .swap d a b w ret scope s)
def execAmoCas (d a b : XIdx) (w : Bool) (scope : BitVec 3) (s : State) : Result := .next (atomic .cas d a b w true scope s)
def execAmoFaddF32 (d a b : XIdx) (ret : Bool) (scope : BitVec 3) (s : State) : Result := .next (atomic .faddF32 d a b false ret scope s)
def execAmoFaddBf16 (d a b : XIdx) (ret : Bool) (scope : BitVec 3) (s : State) : Result := .next (atomic .faddBf16 d a b false ret scope s)
def execAmoFminF32 (d a b : XIdx) (ret : Bool) (scope : BitVec 3) (s : State) : Result := .next (atomic .fminF32 d a b false ret scope s)
def execAmoFmaxF32 (d a b : XIdx) (ret : Bool) (scope : BitVec 3) (s : State) : Result := .next (atomic .fmaxF32 d a b false ret scope s)

/-! ### Fences and waits, major 0x23 (R237-R241) -/

/-- `fence` (R238, R239): kind 0 is an acquire, 1 a release and 2 both. -/
def execFence (k : BitVec 2) (scope : BitVec 3) (s : State) : Result :=
  .next (afterCovered (k != 0 && scope == 5) (s.cell.fenceSet k) s fun s =>
    advance 4 (if k = 1 then s else s.onCell fun c => { c with l1 := [] }))

/-- `l1.inv` (R240). -/
def execL1Inv (s : State) : Result := .next (advance 4 (s.onCell fun c => { c with l1 := [] }))

/-- `sbwait` (R240): bit j − 1 of the mask names slot j. -/
def execSbwait (m : BitVec 7) (s : State) : Result :=
  .next (match (List.range 7).find? fun j => m.getLsbD j && s.cell.slot (BitVec.ofNat 3 (j + 1)) != 0 with
    | some j => hold (.expiring (.slot (BitVec.ofNat 3 (j + 1)))) s
    | none => advance 4 s)

/-- `fence.eng` (R241). -/
def execFenceEng (n : BitVec 3) (b : XIdx) (s : State) : Result :=
  .next (readX b s fun B =>
    let t : W32 := B.setWidth 32
    if (s.cell.k.ecnt[n.toNat]'n.isLt - t).toNat ≥ 2 ^ 31 then hold (.expiring (.counter n t)) s
    else advance 4 (s.onCell fun c => { c with l1 := [] }))

/-! ### Performing an access (R228) -/

/-- A fault found when an access is performed; it names the instruction that issued it (R249, R332). Of a load that has ended it is
none. -/
def Cell.accessFault (a : Access) (code : Byte) (info : W32) (c : Cell) : Cell :=
  if a.gone then c else c.withFault
    { code := code, detail := 0, t := c.k.t, src := 0, hnd := a.hnd.setWidth 7, word := a.word, pc := a.pc, info := info,
      aux0 := c.traceOf.1, aux1 := c.traceOf.2 }

/-- Whether what an entry waits for under `Park(ENG, 0)` has come: the accesses a fence covers are performed (R238), the remote
writes an `rfence` covers are acknowledged or failed (R371), or the barrier has ended (R407). -/
def Cell.covered (c : Cell) : Pend → Bool
  | .fence ids _ _ => !(ids.any c.flying)
  | .rfence reqs _ => reqs.isEmpty
  | .barFence ids reqs _ _ => !(ids.any c.flying) && reqs.isEmpty
  | .barrierDone _ => true
  | _ => false

/-- A handler entry is parked on the accesses it covers, and they are done. -/
def Cell.fenceDone (c : Cell) (h : Handler) : Bool := h.st == .parked && h.key == some .covered && c.covered h.pend

/-- A fence that is held or parked and whose accesses are done goes on or wakes (R84 ENG). The wake reaches the wide wait list
as well (R223). -/
def Cell.wakeFences (c : Cell) : Cell :=
  let c1 := c.unhold fun k => k == .covered && c.covered c.pend
  if c.hnd.toList.any c.fenceDone then
    { c1 with hnd := c.hnd.map fun h => if c.fenceDone h || (h.st = .parked && h.wide) then h.wake else h }
  else c1

/-- An access leaves the accesses in flight: its slot counts down, and waits on it wake (R228, R230). -/
def Cell.finish (a : Access) (c : Cell) : Cell :=
  let c1 := ({ c with inflight := c.inflight.filter fun x => x.id != a.id }).onSlot a.set (· - 1)
  let c2 := if a.set ≠ 0 && c1.slot a.set == 0 then c1.wakeOn (.slot a.set) else c1
  c2.wakeFences

/-- A value lands in the destination, which becomes FULL (R15, R19); an acquiring access invalidates the L1 (R242). -/
def Cell.land (a : Access) (v : Word) (f : Flags) (c : Cell) : Cell :=
  let c1 := match a.dst with | .x d => c.landX d v | _ => c
  let c2 := c1.mergeFlags (if a.gone then 0 else f)
  (if a.acq then { c2 with l1 := [] } else c2).finish a

/-- Lanes land in the destination. -/
def Cell.landLanes (a : Access) (l : List W32) (c : Cell) : Cell :=
  ((match a.dst with | .v d => c.landV d l | _ => c)).finish a

/-- A line enters the L1; a full one gives up a line that the spec does not name (R202, R203; log 6). -/
def Cell.l1Fill (tick line : Nat) (bytes : List Byte) (c : Cell) : Cell :=
  { c with l1 := (if c.l1.length < 256 then c.l1 else delNth (Config.l1Victim tick % 256) c.l1) ++ [(line, bytes)] }

/-- Units of the lines in the L1 noted as damaged or not (R331). -/
def Cell.l1Mark (bad : Nat → Bool) (units : List Nat) (c : Cell) : Cell :=
  { c with l1Bad := units.foldl (fun m u => sput false u (bad u) m) c.l1Bad }

/-- Whether an access fills the L1: `ld`, `ldu` and `ld.v` do, and `ld.p` only reads it (R203, R235). -/
def Access.fills (a : Access) : Bool := fMajor a.word != 0x1F#6

/-- The bytes a load finds, whether they are damaged, and the state with the L1 filled (R203, R216, R331). None while the frame of a
stream stalls, with the level and the address. -/
def loadBytes (a : Access) (n : Nat) (s : State) : Got ((List Byte × Bool) × State) :=
  match a.loc with
  | .cell off => .ok ((s.cell.load off n, s.cell.damagedAt off n), s)
  | .phys pa at' =>
    let k := physKey at' pa
    if a.l1 && !attrMS at' && !attrNC at' then
      match aget s.cell.l1 (k / 128) with
      | some line => .ok (((line.drop (k % 128)).take n, (unitsTouched k n).any (sget false s.cell.l1Bad)), s)
      | none =>
        .ok ((s.pkg.read k n, s.pkg.damaged k n),
          if a.fills then s.onCell fun c =>
            (c.l1Fill s.tick (k / 128) (s.pkg.read (k / 128 * 128) 128)).l1Mark (fun u => s.pkg.damaged (8 * u) 8) (unitsTouched (k / 128 * 128) 128)
          else s)
    else .ok ((s.pkg.read k n, s.pkg.damaged k n), s)
  | .stream num pos =>
    match s.pkg.boundOf s.cell.k.ctx num with
    | none => .bad
    | some b =>
      let r := s.pkg.record b.pa
      match framePlace false s.cell.k.ctx b.frames r.back r.k r.logn pos s.pkg with
      | (.ok pl, p) => let s1 := { s with pkg := p }; .ok (readPlace pl n s1, s1)
      | (.stall l v, _) => .stall l v
      | (.bad, _) => .bad
  | _ => .bad

/-- An access i bytes on. -/
def Access.shifted (i : Nat) (a : Access) : Access :=
  { a with loc := match a.loc with
      | .cell off => .cell (off + i)
      | .phys pa t => .phys (pa + i) t
      | .stream n p => .stream n (p + BitVec.ofNat 48 i)
      | l => l }

/-- An access is found to stall when it is performed (R208). -/
def stallAt (a : Access) (acc level : Nat) (va : Word) (s : State) : State :=
  noteStall s.cell.k.ctx s.here 0 acc level va
    (s.onCell fun c => { c with inflight := c.inflight.map fun x => if x.id == a.id then { x with loc := .stall level } else x })

/-- A load of n bytes, i bytes into its access, is performed: its value lands, or damaged data faults (R228, R331). -/
def performLoad (a : Access) (i n : Nat) (land : List Byte → Cell → Cell) (s : State) : State :=
  match loadBytes (a.shifted i) n s with
  | .ok ((bytes, bad), s1) =>
    s1.onCell (if bad then fun c => (c.accessFault a cUNCORRECTABLE (a.va.setWidth 32)).finish a else land bytes)
  | .stall l v => stallAt a 0 l v s
  | .bad => s.onCell fun c => (c.accessFault a cACCESS (a.va.setWidth 32)).finish a

/-- n bytes from a key were written for an access: a far-tier byte is known by it until the CXL device has completed the write (R239). -/
def State.wrote (a : Access) (k n : Nat) (s : State) : State :=
  if k < farBase then s else s.onPkg fun p => { p with cxl := p.cxl ++ (List.range n).map fun i => (k + i, some (s.here, a.id)) }

/-- A stream write of bytes of an access at its home: checked again, and discarded with a fault where another party has published or
closed past it (R217), or where the frame covers the record of a bound stream (R267). -/
def performStreamWrite (a : Access) (num : BitVec 15) (pos : BitVec 48) (i : Nat) (data : List Byte) (covered : Nat) (fin : Cell → Cell) (s : State) : State :=
  let fault (code : Byte) (info : W32) (s : State) : State := s.onCell fun c => (c.accessFault a code info).finish a
  match s.pkg.boundOf s.cell.k.ctx num with
  | none => fault cACCESS (a.va.setWidth 32) s
  | some b =>
    let r := s.pkg.record b.pa
    let refuse (code : Byte) : State := fault code (pos.setWidth 32) (setRecord b { r with err := code } s)
    if r.closed then refuse cSTREAM_CLOSED
    else if before pos r.head then refuse cSTREAM_PUBLISHED
    else
      match framePlace true s.cell.k.ctx b.frames r.back r.k r.logn pos s.pkg with
      | (.ok pl, p) =>
        if !p.writable pl data.length then fault cACCESS (a.va.setWidth 32) s else
        let s1 := repairPlace pl i covered (writePlace pl data { s with pkg := p })
        let s1 := match pl with | .phys k => s1.wrote a k data.length | _ => s1
        s1.onCell fun c => fin ((match pl with | .phys k => (c.l1Write k data).l1Repair (k - i) covered | _ => c))
      | (.stall l v, _) => stallAt a 1 l v s
      | (.bad, _) => fault cACCESS (a.va.setWidth 32) s

/-- Bytes of a store, i bytes into its access, are performed at their ordering point (R228). `covered` bytes of the access are then
written (R331), and `fin` is what the access does. -/
def performStore (a : Access) (i : Nat) (data : List Byte) (fill : Bool) (covered : Nat) (fin : Cell → Cell) (s : State) : State :=
  match a.loc with
  | .cell off => s.onCell fun c =>
      let c1 := (c.storeAt (off + i) data).repair off covered
      fin (if fill then c1.fillWords (off + i) data.length else c1)
  | .phys pa at' =>
    let k := physKey at' (pa + i)
    if s.pkg.inRecord k data.length then s.onCell fun c => (c.accessFault a cACCESS (a.va.setWidth 32)).finish a
    else ((s.onPkg fun p => (p.write k data).repair (k - i) covered).wrote a k data.length).onCell fun c => fin ((c.l1Write k data).l1Repair (k - i) covered)
  | .stream num pos => performStreamWrite a num (pos + BitVec.ofNat 48 i) i data covered fin s
  | _ => s

/-- An access in flight goes on with another operation. -/
def Cell.setOp (a : Access) (op : AccOp) (c : Cell) : Cell :=
  { c with inflight := c.inflight.map fun x => if x.id == a.id then { x with op := op } else x }

/-- One of n lanes still to be moved: which, the spec leaves open (R262; log 67). -/
def nextLane (tick n : Nat) : Nat := Config.laneOrder tick % n

/-- One lane of an `st.v` is written; with the last one the access is performed (R228, R262). -/
def performLane (a : Access) (n : Nat) (left : List (Nat × W32)) (s : State) : State :=
  let j := nextLane s.tick left.length
  match left[j]? with
  | none => s.onCell (Cell.finish a)
  | some (i, w) =>
    let rest := delNth j left
    if rest = [] then performStore a (4 * i) (bytesOf 4 w.toNat) false (4 * n) (Cell.finish a) s
    else performStore a (4 * i) (bytesOf 4 w.toNat) false 0 (Cell.setOp a (.storeV n rest)) s

/-- An atomic is performed at its home (R245). -/
def performAmo (a : Access) (op : AmoOp) (n : Nat) (b c : Word) (ret : Bool) (r : Rounding) (s : State) : State :=
  match a.loc with
  | .phys pa at' =>
    let k := physKey at' pa
    if s.pkg.inRecord k n then s.onCell fun x => (x.accessFault a cACCESS (a.va.setWidth 32)).finish a
    else if s.pkg.damaged k n then s.onCell fun x => (x.accessFault a cUNCORRECTABLE (a.va.setWidth 32)).finish a
    else
      let ((old, f), p) := amoAt s.here s.cell.k.ctx op n b c r a.va k s.pkg
      (({ s with pkg := p } : State).wrote a k n).onCell (if ret then Cell.land a (amoResult op n old) f else Cell.finish a)
  | _ => s

/-- Whether an access may be performed now: it stalls no more, its answer is there, and nothing it waits on is in flight. -/
def Access.ready (c : Cell) (a : Access) : Bool :=
  !(a.after.any c.flying) &&
    (match a.loc with | .stall _ => false | _ => true) &&
    (match a.op with | .await | .awaitLine _ => false | _ => true)

/-- The k-th access in flight of the cell in focus, if it may be performed. -/
def State.due (s : State) (k : Nat) : Option Access :=
  match s.cell.inflight[k]? with
  | some a => if a.ready s.cell then some a else none
  | none => none

/-- The lanes of an `ld.v` that are read together with lane i: those of an aligned unit of 8 bytes where the access reads the record of a
bound stream (R267), and lane i alone elsewhere (R262). -/
def lanesWith (a : Access) (n i : Nat) (s : State) : List Nat :=
  match a.loc with
  | .phys pa at' => if s.pkg.inRecord (physKey at' pa) (4 * n) then [i / 2 * 2, i / 2 * 2 + 1].filter (· < n) else [i]
  | _ => [i]

/-- One unit of an `ld.v` is read; with the last one the packet lands (R236, R262, R267). -/
def loadLane (a : Access) (n : Nat) (got : List (Nat × W32)) (s : State) : State :=
  let left := (List.range n).filter fun i => !got.any (·.1 == i)
  let unit := lanesWith a n (left.getD (nextLane s.tick left.length) 0) s
  performLoad a (4 * unit.headD 0) (4 * unit.length) (fun l =>
    let got' := got.filter (fun e => !unit.contains e.1) ++ unit.mapIdx fun j i => (i, BitVec.ofNat 32 (ofBytes ((l.drop (4 * j)).take 4)))
    if (left.filter fun i => !unit.contains i) = [] then Cell.landLanes a ((List.range n).map fun j => (aget got' j).getD 0)
    else Cell.setOp a (.loadV n got')) s

/-- An `ld.sync` that waited makes its step once its words are full (R233). -/
def performSync (a : Access) (n : Nat) (take : Bool) (s : State) : State :=
  match a.loc with
  | .cell off =>
    if !s.cell.allFull off n then s
    else if s.cell.damagedAt off n then s.onCell fun c => (c.accessFault a cUNCORRECTABLE (a.va.setWidth 32)).finish a
    else
      let v := sextBytes n (ofBytes (s.cell.load off n))
      (if take then s.onCell (Cell.emptyWordsOf off n) else s).onCell (Cell.land a v 0)
  | _ => s

/-- The lanes or the value of a load land. -/
def landing (a : Access) (s : State) : State :=
  match a.op with
  | .load n sext => performLoad a 0 n (fun l => Cell.land a (if sext then sextBytes n (ofBytes l) else wordOfBytes l) 0) s
  | .loadV n got => loadLane a n got s
  | .sync n take => performSync a n take s
  | .amo op n b c true rm sat => performAmo a op n b c true ⟨rm, sat⟩ s
  | .value v f => s.onCell (Cell.land a v f)
  | .packet l => s.onCell (Cell.landLanes a l)
  | _ => s

/-- A write or a reduction is performed. -/
def performing (a : Access) (s : State) : State :=
  match a.op with
  | .store data fill => performStore a 0 data fill 0 (Cell.finish a) s
  | .storeV n left => performLane a n left s
  | .amo op n b c false rm sat => performAmo a op n b c false ⟨rm, sat⟩ s
  | _ => s

/-- ACCESS_PERFORMED (R228). -/
def execAccessPerformed (c : CellId) (k : Nat) (s : State) : Result :=
  .next (s.within c fun s => match s.due k with | some a => performing a s | none => s)

/-- MEMORY_FLAGS_WRITE: the OR into the memory-flags word (R247). -/
def execMemoryFlagsWrite (k : Nat) (s : State) : Result :=
  .next (match s.pkg.flagWrites[k]? with
    | none => s
    | some w =>
      if w.stalled then s
      else
        let drop (p : Package) : Package := { p with flagWrites := delNth k p.flagWrites }
        match aget s.pkg.contexts w.ctx.toNat with
        | none => s.onPkg drop
        | some c =>
          if c.mflags.toNat % 8 ≠ 0 ∨ regionOf c.mflags ≠ .global then s.onPkg drop
          else match translateFor true true w.ctx c.mflags s.pkg with
            | (.ok (pa, a), p) =>
              let k8 := physKey a pa
              if p.inRecord k8 8 then s.onPkg drop else
              { s with pkg := drop (p.write k8 (bytesOf 8 (ofBytes (p.read k8 8) ||| w.flags.toNat))) }
            | (.stall l va, p) =>
              noteStall w.ctx w.cell 0 1 l va { s with pkg := { p with flagWrites := modNth (fun w => { w with stalled := true }) k p.flagWrites } }
            | (.bad, p) => { s with pkg := drop p })

/-- A stalled access walks again after a resume (R208). -/
def rewalk (id : Nat) (s : State) : State :=
  match s.cell.inflight.find? (·.id == id) with
  | none => s
  | some a =>
    let relocate (l : Loc) (s : State) : State :=
      s.onCell fun c => { c with inflight := c.inflight.map fun x => if x.id == id then { x with loc := l } else x }
    match a.loc, a.op, regionOf a.va with
    | .stall _, .stream _ _, _ => relocate .none s
    | .stall _, _, .stream num pos => relocate (.stream num pos) s
    | .stall _, op, _ =>
      let wr := a.writes
      let rd := match op with | .store _ _ | .storeV _ _ => false | _ => true
      match translateFor rd wr s.cell.k.ctx a.va s.pkg with
      | (.ok (pa, at'), p) => relocate (.phys pa at') { s with pkg := p }
      | (.stall l va, p) => noteStall s.cell.k.ctx s.here 0 (if wr then (if rd then 2 else 1) else 0) l va (relocate (.stall l) { s with pkg := p })
      | (.bad, _) => s.onCell fun c => (c.accessFault a cACCESS (a.va.setWidth 32)).finish a
    | _, _, _ => s

/-- The stalled accesses of the cell in focus walk again, and an instruction held at issue in a stall is tried again. -/
def rewalkCell (s : State) : State :=
  (s.cell.inflight.map (·.id)).foldl (fun s id => rewalk id s) (s.onCell fun c => if c.hold == some .stalled then { c with hold := none } else c)

/-- The pending requests of the cell in focus are issued again: those that were translated and not yet performed walk anew (R344). -/
def reissueCell (s : State) : State :=
  rewalkCell (s.onCell fun c => { c with inflight := c.inflight.map fun a => { a with loc := match a.loc with | .phys _ _ => .stall 0 | l => l } })

/-- The stalled commands of a cell that belong to a context try again: a page-in may have outlived the board of its own (R340). -/
def Cell.resumeEngines (ctx : BitVec 6) (c : Cell) : Cell :=
  allEngines.foldl (fun c e => c.putEngine e { c.engine e with q := (c.engine e).q.map fun x => if x.ctx = ctx then { x with stalled := false } else x }) c

/-- The stalled accesses, commands, flag writes and other units of a context go on (R208, R247). -/
def resumeCells (ctx : BitVec 6) (s : State) : State :=
  let s1 := s.onPkg fun p =>
    { p.onCtx ctx (fun c => { c with noticed := [], stalled := [] }) with
      flagWrites := p.flagWrites.map fun w => if w.ctx == ctx then { w with stalled := false } else w }
  s1.cells.foldl (fun s e => s.within e.1 fun s =>
    let t := s.onCell (Cell.resumeEngines ctx)
    if e.2.k.ctx = ctx then rewalkCell t else t) s1

end Sys2Proof.Machine
end

