-- ==== Sys2Proof/Machine/Elementary.lean ====
section
/-! DEFINITION. Elementary functions of exact values: truncated reciprocals (R179), Newton steps (R180), powers and logarithms of
two (R181), sines (R297). A transcendental value is carried to 2^-160 or better, which decides every rounding (log 10). -/

namespace Sys2Proof.Machine

/-- The integer square root of n, found bit by bit from bit b down. -/
def isqrtFrom (n : Nat) : Nat → Nat → Nat
  | 0, r => r
  | b + 1, r => isqrtFrom n b (if (r + 2 ^ b) * (r + 2 ^ b) ≤ n then r + 2 ^ b else r)

/-- The integer square root. -/
def isqrt (n : Nat) : Nat := isqrtFrom n (Nat.log2 n / 2 + 1) 0

/-- Σ (k from 1 to n) of 2^P / (k * 2^k). -/
def ln2Sum (P : Nat) : Nat → Nat
  | 0 => 0
  | k + 1 => ln2Sum P k + 2 ^ P / ((k + 1) * 2 ^ (k + 1))

/-- Σ of y^k / k! from term number k on, for a y of P fraction bits. -/
def expSum (P y : Nat) : Nat → Nat → Nat → Nat
  | 0, _, _ => 0
  | n + 1, k, term => term + expSum P y n (k + 1) (term * y / 2 ^ P / (k + 1))

/-- 2^f for an f in [0, 1) of P fraction bits, with P fraction bits. -/
def exp2Fixed (P f : Nat) : Nat := expSum P (f * ln2Sum P P / 2 ^ P) 100 0 (2 ^ P)

/-- 2^x for an exact value x (R181). Below −1024 every smaller power rounds alike. -/
def exp2Of : Num → Num
  | .nan g => .nan g
  | .inf neg => if neg then .fin false 0 0 else .inf false
  | .fin neg m e =>
    let P := 128 + max 128 (-e).toNat
    if neg && m != 0 && (10 < (Nat.log2 m : Int) + e) then .fin false 1 (-1024)
    else
      let x := numerator neg m e (-(P : Int))
      let n := x / (2 ^ P : Nat)
      let f := (x % (2 ^ P : Nat)).toNat
      if f = 0 then .fin false 1 n else .fin false (exp2Fixed P f) (n - P)

/-- Bits of log2 v for a fixed-point v in [1, 2) of `prec` fraction bits, by repeated squaring. -/
def log2Bits (prec : Nat) : Nat → Nat → Nat → Nat
  | 0, _, acc => acc
  | n + 1, v, acc =>
    let w := v * v / 2 ^ prec
    if 2 ^ (prec + 1) ≤ w then log2Bits prec n (w / 2) (2 * acc + 1) else log2Bits prec n w (2 * acc)

/-- log2 of a positive value m * 2^e. -/
def log2Fin (m : Nat) (e : Int) : Num :=
  let E := Nat.log2 m
  let whole : Int := E + e
  let v : Int := whole * 2 ^ 160 + log2Bits 384 160 (m * 2 ^ 384 / 2 ^ E) 0
  if v = 0 then .fin false 0 0 else .fin (v < 0) v.natAbs (-160)

/-- log2 x with its flags (R181). -/
def log2Of : Num → Num × Flags
  | .nan g => (.nan false, if g then flNV else 0)
  | .inf neg => if neg then (.nan false, flNV) else (.inf false, 0)
  | .fin neg m e => if m = 0 then (.inf true, flDZ) else if neg then (.nan false, flNV) else (log2Fin m e, 0)

/-- Σ of (−1)^k / ((2k + 1) x^(2k + 1)), the arctangent of 1 / x, with P fraction bits: term is 2^P / x^(2k + 1). -/
def atanSum (x : Nat) : Nat → Nat → Nat → Int
  | 0, _, _ => 0
  | n + 1, k, term => (if k % 2 = 0 then (1 : Int) else -1) * (term / (2 * k + 1) : Nat) + atanSum x n (k + 1) (term / (x * x))

/-- π with P fraction bits: 16 atan(1/5) − 4 atan(1/239). -/
def piFixed (P : Nat) : Int := 16 * atanSum 5 P 0 (2 ^ P / 5) - 4 * atanSum 239 P 0 (2 ^ P / 239)

/-- Σ of (−1)^k y^(2k + 1) / (2k + 1)!, the sine of a y of P fraction bits. -/
def sinSum (P y : Nat) : Nat → Nat → Nat → Int
  | 0, _, _ => 0
  | n + 1, k, term => (if k % 2 = 0 then (1 : Int) else -1) * term + sinSum P y n (k + 1) (term * y / 2 ^ P * y / 2 ^ P / ((2 * k + 2) * (2 * k + 3)))

/-- Q[m]: sin(π m / 2048) rounded to FP32 under RNE, for m from 0 to 1024 (R301). -/
def quarterSine (m : Nat) : Nat :=
  if m = 0 then 0
  else if m = 1024 then 0x3F80_0000
  else
    let y := (piFixed 256 * m / 2048).toNat
    (roundTo fFP32 rne 0 (.fin false (sinSum 256 y 40 0 y).toNat (-256))).1

/-- A truncated FP32 result: the code toward zero, without its flags (R179). -/
def truncFP32 (neg : Bool) (m : Nat) (e : Int) : Nat := (roundFinite fFP32 ⟨1, false⟩ 0 neg m e).1

/-- `vrcp` of an FP32 code (R179). -/
def rcpCode (c : Nat) : Nat × Flags :=
  match valueOf fFP32 c with
  | .nan g => (nanCode fFP32, if g then flNV else 0)
  | .inf neg => (signed fFP32 neg 0, 0)
  | .fin neg m e =>
    if m = 0 then (signed fFP32 neg 0x7F80_0000, flDZ)
    else if (Nat.log2 m : Int) + e < -128 ∨ ((Nat.log2 m : Int) + e = -128 ∧ m = 2 ^ Nat.log2 m) then
      (signed fFP32 neg 0x7F80_0000, flOF ||| flIX)
    else (truncFP32 neg (2 ^ (Nat.log2 m + 12) / m) (-(Nat.log2 m + 12 : Nat) - e), 0)

/-- `vrsq` of an FP32 code (R179). -/
def rsqCode (c : Nat) : Nat × Flags :=
  match valueOf fFP32 c with
  | .nan g => (nanCode fFP32, if g then flNV else 0)
  | .inf neg => if neg then (nanCode fFP32, flNV) else (0, 0)
  | .fin neg m e =>
    if m = 0 then (signed fFP32 neg 0x7F80_0000, flDZ)
    else if neg then (nanCode fFP32, flNV)
    else
      let m' := if e % 2 = 0 then m else 2 * m
      let h := if e % 2 = 0 then e / 2 else (e - 1) / 2
      let L := Nat.log2 m'
      let k := if L % 2 = 0 then (L + 24) / 2 else (L + 23) / 2
      (truncFP32 false (isqrt (2 ^ (2 * k) / m')) (-(k : Int) - h), 0)

/-- A Newton step toward 1 / x or 1 / √x from y (R180). -/
def stepCode (root : Bool) (r : Rounding) (rnd x y : Nat) : Nat × Flags :=
  let X := valueOf fFP32 x
  let Y := valueOf fFP32 y
  if Y.isZero then (y, 0)
  else match Y with
    | .inf _ => (y, 0)
    | _ =>
      if X.isNan || Y.isNan then (nanCode fFP32, if X.isSig || Y.isSig then flNV else 0)
      else
        let (p, f1) := mulExact X Y
        let (q, f2) := if root then mulExact p Y else (p, 0)
        let (d, f3) := addExact r.mode (.fin false (if root then 3 else 2) 0) q.negate
        let (z, f4) := mulExact Y d
        let z := if root then (match z with | .fin n m e => .fin n m (e - 1) | z => z) else z
        let (c, f5) := roundTo fFP32 r rnd z
        (c, f1 ||| f2 ||| f3 ||| f4 ||| f5)

/-- The exact sum of values none of which is NaN or infinite. -/
def sumFinite (l : List Num) : Int × Int :=
  let low := l.foldl (fun a x => match x with | .fin _ _ e => min a e | _ => a) 0
  (l.foldl (fun t x => match x with | .fin n m e => t + numerator n m e low | _ => t) 0, low)

/-- The exact sum of any values (R183): a NaN among them, opposite infinities, the sign of a zero sum. DEDUCED (log 73): a NaN beside both
infinities gives the NaN and no NV; a sum of zeros that are all +0 is −0 under RDN too, since R183 makes every exact sum of zero −0 there and
excepts only the sum of −0 alone. -/
def sumExact (mode : BitVec 3) (l : List Num) : Num × Flags :=
  if l.any Num.isNan then nanFrom l
  else
    let up := l.contains (.inf false)
    let down := l.contains (.inf true)
    if up && down then (.nan false, flNV)
    else if up then (.inf false, 0)
    else if down then (.inf true, 0)
    else
      let (t, low) := sumFinite l
      let neg (x : Num) : Bool := match x with | .fin n _ _ => n | _ => false
      if t = 0 then (.fin (l.all neg || mode == 3) 0 0, 0) else (.fin (t < 0) t.natAbs low, 0)

end Sys2Proof.Machine
end

