-- ==== Sys2Proof/Machine/Packet.lean ====
section
/-! DEFINITION. Packet and vector instructions: majors 0x28-0x2F (R167-R192). -/

namespace Sys2Proof.Machine

/-- A packet instruction is performed: `v[d]` takes its lanes, an instruction that rounds under SR advances the draw count, and
the flags merge or trap (R168-R170). -/
def packetDone (rounds : Bool) (d : VIdx) (lanes : List W32) (f : Flags) (s : State) : State :=
  freeV d s (withFlags f (advance 4 ((setV d lanes s).onCell fun c => if rounds then c.drew else c)) s)

/-- Rnd of the k-th element of a result packed at a width (R44, R169). -/
def Cell.rnd (c : Cell) (f : FmtDesc) (k : Nat) : Nat := let per := 32 / width f; drawBits c.k.dkey c.draw (k / per) (k % per)

/-- The least length of two packets (R168). -/
def least (A B : VReg) : Nat := min A.length B.length

/-- The elements of the first n lanes of a register. -/
def VReg.elems (f : FmtDesc) (n : Nat) (r : VReg) : List Nat := unpack f (r.lanes.toList.take n)

/-- One source; the result has its length. -/
def packet1 (rounds : Bool) (d a : VIdx) (f : FmtDesc) (op : Nat → Nat → Nat × Flags) (s : State) : State :=
  readV a s fun A =>
    let n := A.length
    let (l, fl) := collect ((A.elems f n).mapIdx op)
    packetDone rounds d (packLanes f n l) fl s

/-- Two sources, element by element; the operation is told the element's number. -/
def packet2 (rounds : Bool) (d a b : VIdx) (f : FmtDesc) (op : Nat → Nat → Nat → Nat × Flags) (s : State) : State :=
  readV a s fun A => readV b s fun B =>
    let n := least A B
    let (l, fl) := collect (((A.elems f n).zip (B.elems f n)).mapIdx fun k e => op k e.1 e.2)
    packetDone rounds d (packLanes f n l) fl s

/-- Three sources, the third the old destination. -/
def packet3 (rounds : Bool) (d a b : VIdx) (f : FmtDesc) (op : Nat → Nat → Nat → Nat → Nat × Flags) (s : State) : State :=
  readV a s fun A => readV b s fun B => readV d s fun C =>
    let n := min (least A B) C.length
    let (l, fl) := collect (((A.elems f n).zip ((B.elems f n).zip (C.elems f n))).mapIdx fun k e => op k e.1 e.2.1 e.2.2)
    packetDone rounds d (packLanes f n l) fl s

/-! ### Integer lanes, major 0x28 (R171) -/

/-- The descriptor of a 3-bit integer code. -/
def intDesc (f : BitVec 3) : FmtDesc := f.setWidth 7

/-- An exact integer result kept or clamped under `KFRM.SAT` (R171). -/
def narrow (f : FmtDesc) (sat : Bool) (i : Int) : Nat := intCode f (if sat then clampInt (intMin f) (intMax f) i else i)

/-- A VI operation whose exact result is narrowed. -/
def viExact (d a b : VIdx) (f : BitVec 3) (op : Int → Int → Int) (s : State) : State :=
  let F := intDesc f
  packet2 false d a b F (fun _ x y => (narrow F s.cell.k.sat (op (intOf F x) (intOf F y)), 0)) s

/-- A VI operation of one source. -/
def viOne (d a : VIdx) (f : BitVec 3) (op : Int → Int) (s : State) : State :=
  let F := intDesc f
  packet1 false d a F (fun _ x => (narrow F s.cell.k.sat (op (intOf F x)), 0)) s

/-- A VI operation on codes. -/
def viCode (d a b : VIdx) (f : BitVec 3) (op : FmtDesc → Nat → Nat → Nat) (s : State) : State :=
  packet2 false d a b (intDesc f) (fun _ x y => (op (intDesc f) x y, 0)) s

/-- A shift by the low log2(e) bits of an element (R171). -/
def viShift (d a b : VIdx) (f : BitVec 3) (op : (n : Nat) → BitVec n → Nat → BitVec n) (s : State) : State :=
  viCode d a b f (fun F x y => (op (width F) (BitVec.ofNat (width F) x) (y % width F)).toNat) s

/-- All ones of a width. -/
def allOnes (f : FmtDesc) : Nat := 2 ^ width f - 1

def execVadd (d a b : VIdx) (f : BitVec 3) (s : State) : Result := .next (viExact d a b f (· + ·) s)
def execVsub (d a b : VIdx) (f : BitVec 3) (s : State) : Result := .next (viExact d a b f (· - ·) s)
def execVmul (d a b : VIdx) (f : BitVec 3) (s : State) : Result := .next (viExact d a b f (· * ·) s)
def execVmin (d a b : VIdx) (f : BitVec 3) (s : State) : Result :=
  .next (viCode d a b f (fun F x y => if intOf F y < intOf F x then y else x) s)
def execVmax (d a b : VIdx) (f : BitVec 3) (s : State) : Result :=
  .next (viCode d a b f (fun F x y => if intOf F x < intOf F y then y else x) s)
def execVabs (d a : VIdx) (f : BitVec 3) (s : State) : Result := .next (viOne d a f (fun i => i.natAbs) s)
def execVneg (d a : VIdx) (f : BitVec 3) (s : State) : Result := .next (viOne d a f (fun i => -i) s)
/-- Whole lanes, as UINT32 elements (R171). -/
def execVand (d a b : VIdx) (s : State) : Result := .next (viCode d a b 5 (fun _ x y => x &&& y) s)
def execVor (d a b : VIdx) (s : State) : Result := .next (viCode d a b 5 (fun _ x y => x ||| y) s)
def execVxor (d a b : VIdx) (s : State) : Result := .next (viCode d a b 5 (fun _ x y => x ^^^ y) s)
def execVshl (d a b : VIdx) (f : BitVec 3) (s : State) : Result := .next (viShift d a b f (fun _ x k => x <<< k) s)
def execVshr (d a b : VIdx) (f : BitVec 3) (s : State) : Result := .next (viShift d a b f (fun _ x k => x >>> k) s)
def execVsra (d a b : VIdx) (f : BitVec 3) (s : State) : Result := .next (viShift d a b f (fun _ x k => x.sshiftRight k) s)
def execVcmp (d a b : VIdx) (f : BitVec 3) (s : State) : Result :=
  .next (viCode d a b f (fun F x y => if x = y then 0 else if intOf F y < intOf F x then 1 else allOnes F) s)
def execVsel (d a b : VIdx) (f : BitVec 3) (s : State) : Result :=
  .next (packet3 false d a b (intDesc f) (fun _ x y c => (if c ≠ 0 then x else y, 0)) s)

/-! ### Float lanes, major 0x29 (R173-R175) -/

/-- One element of a VF operation: the exact value, rounded once. -/
def vfRound (c : Cell) (f : FmtDesc) (k : Nat) (x : Num × Flags) : Nat × Flags :=
  let (v, fl) := roundTo f c.rounding (c.rnd f k) x.1
  (v, x.2 ||| fl)

/-- A VF operation of two sources that rounds (R173). -/
def vfTwo (d a b : VIdx) (f : FmtDesc) (op : Num → Num → Num × Flags) (s : State) : State :=
  packet2 true d a b f (fun k x y => vfRound s.cell f k (op (valueOf f x) (valueOf f y))) s

/-- `vfabs` and `vfneg` of one code (R174). -/
def signCode (negate : Bool) (f : FmtDesc) (c : Nat) : Nat × Flags :=
  let x := valueOf f c
  if x.isNan then (nanCode f, if x.isSig then flNV else 0)
  else if !(floatFmt f).signed then (if !negate || c = 0 then (c, 0) else (nanCode f, flNV))
  else if f.isP3109 && c == 0 then (0, 0)
  else (if negate then c ^^^ 2 ^ (width f - 1) else c % 2 ^ (width f - 1), 0)

/-- `vfcmp` of two codes (R174). -/
def cmpCode (f : FmtDesc) (a b : Nat) : Nat × Flags :=
  let x := valueOf f a
  let y := valueOf f b
  let fl : Flags := if x.isSig || y.isSig then flNV else 0
  if x.isNan || y.isNan then (2, fl) else (if x.lt y then allOnes f else if y.lt x then 1 else 0, fl)

def execVfadd (d a b : VIdx) (f : FmtDesc) (s : State) : Result := .next (vfTwo d a b f (addExact s.cell.k.rm) s)
def execVfsub (d a b : VIdx) (f : FmtDesc) (s : State) : Result :=
  .next (vfTwo d a b f (fun x y => addExact s.cell.k.rm x y.negate) s)
def execVfmul (d a b : VIdx) (f : FmtDesc) (s : State) : Result := .next (vfTwo d a b f mulExact s)
def execVfma (d a b : VIdx) (f : FmtDesc) (s : State) : Result :=
  .next (packet3 true d a b f (fun k x y c =>
    vfRound s.cell f k (fmaExact s.cell.k.rm (valueOf f x) (valueOf f y) (valueOf f c))) s)
def execVfmin (d a b : VIdx) (f : FmtDesc) (s : State) : Result := .next (packet2 false d a b f (fun _ x y => minMax f false x y) s)
def execVfmax (d a b : VIdx) (f : FmtDesc) (s : State) : Result := .next (packet2 false d a b f (fun _ x y => minMax f true x y) s)
def execVfabs (d a : VIdx) (f : FmtDesc) (s : State) : Result := .next (packet1 false d a f (fun _ x => signCode false f x) s)
def execVfneg (d a : VIdx) (f : FmtDesc) (s : State) : Result := .next (packet1 false d a f (fun _ x => signCode true f x) s)
def execVfcmp (d a b : VIdx) (f : FmtDesc) (s : State) : Result := .next (packet2 false d a b f (fun _ x y => cmpCode f x y) s)

/-! ### Changing format, major 0x2A (R177) -/

/-- Elements converted under `KFRM` and placed densely. -/
def convertDense (d : VIdx) (dst src : FmtDesc) (l : List Nat) (s : State) : State :=
  let (out, fl) := collect (l.mapIdx fun k c => roundTo dst s.cell.rounding (s.cell.rnd dst k) (valueOf src c))
  packetDone true d (pack dst out) fl s

/-- A converted element alone in a lane: a signed integer is sign-extended (R177). -/
def laneOf (f : FmtDesc) (c : Nat) : W32 := if f.isInt && intSigned f then BitVec.ofInt 32 (intOf f c) else BitVec.ofNat 32 c

def execVcvt (d a : VIdx) (dst src : FmtDesc) (s : State) : Result :=
  .next (readV a s fun A => convertDense d dst src ((A.elems src A.length).take (256 / width dst)) s)
def execVpack (d a : VIdx) (dst src : FmtDesc) (s : State) : Result :=
  .next (readV a s fun A => convertDense d dst src (A.packet.map fun w => w.toNat % 2 ^ width src) s)
def execVunpack (d a : VIdx) (dst src : FmtDesc) (s : State) : Result :=
  .next (readV a s fun A =>
    let (out, fl) := collect (((A.elems src A.length).take 8).mapIdx fun k c =>
      roundTo dst s.cell.rounding (drawBits s.cell.k.dkey s.cell.draw k 0) (valueOf src c))
    packetDone true d (out.map (laneOf dst)) fl s)

/-! ### Approximations and special functions, major 0x2B (R179-R181) -/

def execVrcp (d a : VIdx) (s : State) : Result := .next (packet1 false d a fFP32 (fun _ x => rcpCode x) s)
def execVrsq (d a : VIdx) (s : State) : Result := .next (packet1 false d a fFP32 (fun _ x => rsqCode x) s)
def execVexp2 (d a : VIdx) (s : State) : Result :=
  .next (packet1 true d a fFP32 (fun k x => vfRound s.cell fFP32 k (exp2Of (valueOf fFP32 x), 0)) s)
def execVlog2 (d a : VIdx) (s : State) : Result :=
  .next (packet1 true d a fFP32 (fun k x => vfRound s.cell fFP32 k (log2Of (valueOf fFP32 x))) s)
def execVrcpstep (d a b : VIdx) (s : State) : Result :=
  .next (packet2 true d a b fFP32 (fun k x y => stepCode false s.cell.rounding (s.cell.rnd fFP32 k) x y) s)
def execVrsqstep (d a b : VIdx) (s : State) : Result :=
  .next (packet2 true d a b fFP32 (fun k x y => stepCode true s.cell.rounding (s.cell.rnd fFP32 k) x y) s)

/-! ### Reductions and lane movement, major 0x2C (R183, R184) -/

/-- The integer sum of `vsum`: INT32 or UINT32, kept or clamped (R183). -/
def sumInt (f : FmtDesc) (sat : Bool) (l : List Nat) : Nat :=
  narrow (if intSigned f then fINT32 else fUINT32) sat (l.foldl (fun t c => t + intOf f c) 0)

def execVsum (d a : VIdx) (f : FmtDesc) (s : State) : Result :=
  .next (readV a s fun A =>
    let l := A.elems f A.length
    if f.isInt then packetDone false d [BitVec.ofNat 32 (sumInt f s.cell.k.sat l)] 0 s
    else
      let (v, fl) := vfRound s.cell fFP32 0 (sumExact s.cell.k.rm (l.map (valueOf f)))
      packetDone true d [BitVec.ofNat 32 v] fl s)

/-- Whether an element ranks below another in `vmaxr`: +0 above −0 (R183). -/
def ranksBelow (f : FmtDesc) (a b : Nat) : Bool :=
  if f.isInt then intOf f a < intOf f b else (valueOf f a).ranksBelow (valueOf f b)

/-- The greatest element and its first index, NaN passed over (R183). -/
def greatest (f : FmtDesc) (l : List Nat) : Option (Nat × Nat) :=
  (l.mapIdx fun k c => (c, k)).foldl (fun best e =>
    if !f.isInt && (valueOf f e.1).isNan then best
    else match best with
      | none => some e
      | some b => if ranksBelow f b.1 e.1 then some e else some b) none

def execVmaxr (d a : VIdx) (f : FmtDesc) (s : State) : Result :=
  .next (readV a s fun A =>
    let l := A.elems f A.length
    let fl : Flags := if !f.isInt && l.any (fun c => (valueOf f c).isSig) then flNV else 0
    let (c, k) := (greatest f l).getD (nanCode f, 0)
    packetDone false d [BitVec.ofNat 32 c, BitVec.ofNat 32 k] fl s)

def execVperm (d a b : VIdx) (s : State) : Result :=
  .next (readV a s fun A => readV b s fun B =>
    packetDone false d (B.packet.map fun w =>
      let i := w.toNat % 8
      if w.getLsbD 3 || A.length ≤ i then 0 else A.lanes.toList.getD i 0) 0 s)

def execVbcast (d a : VIdx) (i : BitVec 5) (f : FmtDesc) (s : State) : Result :=
  .next (readV a s fun A =>
    packetDone false d (packLanes f 8 (List.replicate (256 / width f) ((A.elems f A.length).getD i.toNat 0))) 0 s)

/-- One output of `vbfly` (R184): a sum or a difference. -/
def flyOut (c : Cell) (f : FmtDesc) (k : Nat) (minus : Bool) (x y : Nat) : Nat × Flags :=
  if f.isInt then (narrow f c.k.sat (if minus then intOf f x - intOf f y else intOf f x + intOf f y), 0)
  else vfRound c f k (addExact c.k.rm (valueOf f x) (if minus then (valueOf f y).negate else valueOf f y))

def execVbfly (d a : VIdx) (k : BitVec 3) (f : FmtDesc) (s : State) : Result :=
  .next (readV a s fun A =>
    let l := A.elems f A.length
    let dist := 2 ^ k.toNat
    let (out, fl) := collect (l.mapIdx fun i x =>
      if i.testBit k.toNat then flyOut s.cell f i true (l.getD (i - dist) 0) x
      else if i + dist < l.length then flyOut s.cell f i false x (l.getD (i + dist) 0)
      else (x, 0))
    packetDone (!f.isInt) d (packLanes f A.length out) fl s)

/-- `vlen`: all 8 lanes are copied, and the length is n (R184). -/
def execVlen (d a : VIdx) (n : BitVec 5) (s : State) : Result :=
  .next (readV a s fun A => freeV d s (advance 4 ((setV d A.lanes.toList s).onCell fun c =>
    c.putV d { c.vreg d with len := n.setWidth 3 })))

/-! ### Block scales and softmax states, major 0x2D (R186-R188) -/

/-- floor(log2) of a positive value. -/
def floorLog2 (m : Nat) (e : Int) : Int := (Nat.log2 m : Int) + e

/-- floor(log2) of the largest finite value of a format (R186). -/
def emax (f : FmtDesc) : Int :=
  match magValue (floatFmt f) false (floatFmt f).cmax with
  | .fin _ m e => floorLog2 m e
  | _ => 0

/-- The greater of two magnitudes, NaN winning (R186). -/
def maxMagnitude (a b : Num) : Num :=
  match a, b with
  | .nan _, _ => .nan false
  | _, .nan _ => .nan false
  | a, b => let x := (match a with | .fin _ m e => Num.fin false m e | _ => .inf false)
            let y := (match b with | .fin _ m e => Num.fin false m e | _ => .inf false)
            if x.lt y then y else x

/-- The E8M0 code for a running maximum (R186). -/
def blockScale (f : FmtDesc) (amax : Num) : Nat :=
  match amax with
  | .fin _ m e => if m = 0 then 0 else (clampInt 0 254 (floorLog2 m e - emax f + 127)).toNat
  | _ => 0xFF

def execVbscale (d a b : VIdx) (f : FmtDesc) (s : State) : Result :=
  .next (readV a s fun A => readV b s fun B =>
    let amax := (A.packet ++ [B.lanes[0]]).foldl (fun m w => maxMagnitude m (valueOf fFP32 w.toNat)) (.fin false 0 0)
    packetDone false d [BitVec.ofNat 32 (roundTo fFP32 rne 0 amax).1, BitVec.ofNat 32 (blockScale f amax)] 0 s)

/-- The scale byte of `vquant` and `vdequant`: lane 0 bits 7:0 (R187). -/
def scaleByte (B : VReg) : Nat := B.lanes[0].toNat % 256

/-- A value times 2^(127 − s); a NaN scale gives NaN (R187). -/
def unscaled (x : Num) (scale : Nat) : Num := if scale = 0xFF then scaled x 0xFF else scaled x (254 - scale)

def execVquant (d a b : VIdx) (f : FmtDesc) (s : State) : Result :=
  .next (readV a s fun A => readV b s fun B =>
    let (out, fl) := collect (A.packet.mapIdx fun k w => vfRound s.cell f k (unscaled (valueOf fFP32 w.toNat) (scaleByte B), 0))
    packetDone true d (pack f out) fl s)
def execVdequant (d a b : VIdx) (f : FmtDesc) (s : State) : Result :=
  .next (readV a s fun A => readV b s fun B =>
    let (out, fl) := collect (((A.elems f A.length).take 8).mapIdx fun k c =>
      vfRound s.cell fFP32 k (scaled (valueOf f c) (scaleByte B), 0))
    packetDone true d (out.map (BitVec.ofNat 32)) fl s)

/-- The weight of one side of a merge, with its flags (R188). -/
def mergeWeight (mi m : Num) : Num × Flags :=
  if !mi.lt m && !m.lt mi then (.fin false 1 0, 0)
  else
    let (x, f1) := addExact 0 mi m.negate
    let (c, f2) := roundTo fFP32 rne 0 (exp2Of x)
    (valueOf fFP32 c, f1 ||| f2)

/-- The lanes of a merge of two softmax states of n lanes (R188). DESIGN CHOICE (log 73): of two maxima that are zeros of either sign the
first one's code is delivered, and where a maximum is NaN or both are −∞ no output lane is looked at, so a signalling NaN there raises no
flag. -/
def mergeStates (c : Cell) (a b : List W32) : List Nat × Flags :=
  let m1 := valueOf fFP32 (a.headD 0).toNat
  let m2 := valueOf fFP32 (b.headD 0).toNat
  if m1 = .inf true ∧ m2 = .inf true then (0xFF80_0000 :: (a.tail.map fun _ => 0), 0)
  else if m1.isNan || m2.isNan then (a.map fun _ => nanCode fFP32, if m1.isSig || m2.isSig then flNV else 0)
  else
    let first := !m1.lt m2
    let m := if first then m1 else m2
    let (w1, f1) := mergeWeight m1 m
    let (w2, f2) := mergeWeight m2 m
    let (out, fl) := collect ((a.tail.zip b.tail).mapIdx fun k e =>
      let (p, g1) := mulExact (valueOf fFP32 e.1.toNat) w1
      let (q, g2) := mulExact (valueOf fFP32 e.2.toNat) w2
      let (t, g3) := addExact c.k.rm p q
      vfRound c fFP32 (k + 1) (t, g1 ||| g2 ||| g3))
    ((if first then (a.headD 0).toNat else (b.headD 0).toNat) :: out, f1 ||| f2 ||| fl)

def execVsmerge (d a b : VIdx) (s : State) : Result :=
  .next (readV a s fun A => readV b s fun B =>
    let n := least A B
    let (out, fl) := mergeStates s.cell (A.lanes.toList.take n) (B.lanes.toList.take n)
    packetDone true d (out.map (BitVec.ofNat 32)) fl s)

/-! ### Dice and input pipelines, majors 0x2E and 0x2F (R190-R192) -/

def execVdice (d a : VIdx) (si : BitVec 5) (f32 : Bool) (s : State) : Result :=
  .next (readV a s fun A =>
    packetDone false d (A.packet.map fun i =>
      let o := (philox s.cell.k.dkey i 0 (si.setWidth 32) 0x8000_0000).1
      if f32 then BitVec.ofNat 32 (roundTo fFP32 rne 0 (.fin false (o.toNat / 256) (-24))).1 else o) 0 s)

/-- Coefficient i of the table of `vcsc` (R191). -/
def cscCoef (B : VReg) (i : Nat) : Num := valueOf fBF16 (bits (B.lanes.toList.getD (i / 2) 0).toNat (16 * (i % 2)) 16)

/-- Output channel k of a pixel of element number e (R191). -/
def cscOut (c : Cell) (B : VReg) (pixel : W32) (lane k : Nat) : Nat × Flags :=
  let ch (i : Nat) : Num := .fin false (bits pixel.toNat (8 * i) 8) 0
  let terms := [(mulExact (cscCoef B (3 * k)) (ch 0)).1, (mulExact (cscCoef B (3 * k + 1)) (ch 1)).1,
    (mulExact (cscCoef B (3 * k + 2)) (ch 2)).1, cscCoef B (9 + k)]
  let finite (x : Num) : Bool := match x with | .fin .. => true | _ => false
  if [cscCoef B (3 * k), cscCoef B (3 * k + 1), cscCoef B (3 * k + 2), cscCoef B (9 + k)].all finite then
    match (sumExact c.k.rm terms).1 with
    | .fin neg m e => ((clampInt 0 255 (roundInt c.k.rm (drawBits c.k.dkey c.draw lane k) neg m e).1).toNat, 0)
    | _ => (0, 0)
  else (0, flNV)

def execVcsc (d a b : VIdx) (s : State) : Result :=
  .next (readV a s fun A => readV b s fun B =>
    let (out, fl) := collect (A.packet.mapIdx fun j w =>
      let o (k : Nat) := cscOut s.cell B w j k
      ((o 0).1 + 2 ^ 8 * (o 1).1 + 2 ^ 16 * (o 2).1 + 2 ^ 24 * bits w.toNat 24 8, (o 0).2 ||| (o 1).2 ||| (o 2).2))
    packetDone true d (out.map (BitVec.ofNat 32)) fl s)

def execVnorm (d a b : VIdx) (f : FmtDesc) (s : State) : Result :=
  .next (readV a s fun A => readV b s fun B =>
    let t (i : Nat) : Num := valueOf fFP32 (B.lanes.toList.getD i 0).toNat
    let (out, fl) := collect (((A.elems fUINT8 A.length).take (256 / width f)).mapIdx fun k x =>
      let (y, f1) := addExact s.cell.k.rm (.fin false x 0) (t (k % 4)).negate
      let (z, f2) := mulExact y (t (4 + k % 4))
      vfRound s.cell f k (z, f1 ||| f2))
    packetDone true d (pack f out) fl s)

end Sys2Proof.Machine
end

