-- ==== Sys2Proof/Machine/Fabric.lean ====
section
/-! DEFINITION. The fabric: channels, out-queues, circuits and credits (R115-R125), nodes (R140-R143), handler selection
(R144-R147), and the instructions of majors 0x30-0x32 (R148-R160). -/

namespace Sys2Proof.Machine

/-! ### Channels and out-queues -/

/-- A channel of a cell. -/
def Cell.chanAt (c : Cell) (ch : ChIdx) : Channel := c.chan[ch.toNat]'ch.isLt
/-- A channel changed. -/
def Cell.onChan (ch : ChIdx) (f : Channel → Channel) (c : Cell) : Cell := { c with chan := c.chan.set ch.toNat (f (c.chanAt ch)) ch.isLt }
/-- An out-queue of a cell. -/
def Cell.queue (c : Cell) (q : BitVec 3) : OutQueue := c.outq[q.toNat]'q.isLt
/-- An out-queue changed. -/
def Cell.onQueue (q : BitVec 3) (f : OutQueue → OutQueue) (c : Cell) : Cell := { c with outq := c.outq.set q.toNat (f (c.queue q)) q.isLt }
/-- A handler entry of a cell. -/
def Cell.handler (c : Cell) (h : BitVec 6) : Handler := c.hnd[h.toNat]'h.isLt

/-- The oldest packet of a channel. -/
def Channel.oldest (ch : Channel) : Option Packet := ch.pkts.head?

/-- Whether a token waits on a channel (R20). -/
def Channel.waiting (ch : Channel) : Bool := if ch.latest then ch.pkts.any fun p => !p.read else !ch.pkts.isEmpty

/-- Whether a channel may take one more packet (R120). -/
def Channel.room (ch : Channel) : Bool := ch.latest || ch.pkts.length < ch.depth

/-- An IDLE handler becomes RUNNABLE by a token of a channel (R20). -/
def Handler.fired (ch : ChIdx) (h : Handler) : Handler :=
  if h.st = .idle then { h with st := .runnable, chan := ch, byStart := false } else h

/-- The handler of a firing channel becomes RUNNABLE (R20). -/
def Cell.fire (ch : ChIdx) (c : Cell) : Cell :=
  let C := c.chanAt ch
  if C.fire && C.tgt.toNat < 64 then c.onHnd (C.tgt.setWidth 6) (Handler.fired ch) else c

/-- The newest packet of a channel, when the next arrival merges into it (R117). -/
def Channel.mergesWith (ch : Channel) (p : Packet) : Option Packet :=
  match ch.pkts.getLast? with
  | some h => if ch.merge && !ch.latest && !h.read && !h.ends && h.lanes.length + p.lanes.length ≤ 8 then some h else none
  | none => none

/-- A channel after an arrival: replaced, merged, or with one more packet (R117, R120). DEDUCED (log 71): with MODE = LATEST an arrival
replaces also where MERGE is 1 (R118), and a QUEUE channel at which two circuits end keeps every packet, also past DEPTH. -/
def Channel.arrive (merging : Bool) (p : Packet) (ch : Channel) : Channel :=
  if ch.latest then { ch with pkts := [{ p with read := false, src := none, conv := none }] }
  else match (if merging then ch.mergesWith p else none) with
    | some h => { ch with pkts := ch.pkts.dropLast ++ [{ h with lanes := h.lanes ++ p.lanes, ends := p.ends, psn := h.psn || p.psn }] }
    | none => { ch with pkts := ch.pkts ++ [{ p with read := false }] }

/-- A packet enters a channel of a cell: it takes its place in the order of arrival, fires the handler and wakes whoever waits
on the channel (R20, R117, R120, R150). -/
def Cell.enter (merging : Bool) (ch : ChIdx) (p : Packet) (c : Cell) : Cell :=
  (({ c with arrivals := c.arrivals + 1 }).onChan ch (Channel.arrive merging { p with stamp := c.arrivals })).fire ch
    |>.wakeOn (.chanIn ch)

/-- A place frees at a channel: its credit starts back, when every end of a branching circuit has freed its own (R123), or to the
conversation's home (R383). -/
def freed (at' : CellId) (ch : ChIdx) (p : Packet) (s : State) : State :=
  let s1 := match p.src with
    | none => s
    | some (c, q, n) =>
      s.onPkg fun k =>
        match k.joins.find? fun j => j.cell == c && j.q == q && j.n == n with
        | none => { k with creditWire := k.creditWire ++ [(c, q)] }
        | some j =>
          let rest := k.joins.filter fun j => !(j.cell == c && j.q == q && j.n == n)
          if j.remaining ≤ 1 then { k with joins := rest, creditWire := k.creditWire ++ [(c, q)] }
          else { k with joins := rest ++ [{ j with remaining := j.remaining - 1 }] }
  match p.conv with
  | none => s1
  | some (home, entry, role) =>
    if home = s.pkg.number then s1.onPkg fun k => { k with convCredits := k.convCredits ++ [(entry, role, at', ch)] }
    else emit (.convCredit home entry role at' ch) s1

/-- The oldest packet of a channel is taken: removed from a QUEUE channel, with its credit, or marked read (R150). -/
def takePacket (ch : ChIdx) (s : State) : State :=
  let C := s.cell.chanAt ch
  match C.pkts with
  | [] => s
  | p :: r =>
    if C.latest then s.onCell (Cell.onChan ch fun C => { C with pkts := { p with read := true } :: r })
    else freed s.here ch p (s.onCell (Cell.onChan ch fun C => { C with pkts := r }))

/-- The oldest packet of a channel is marked read (R150). -/
def markRead (ch : ChIdx) (s : State) : State :=
  s.onCell (Cell.onChan ch fun C => { C with pkts := match C.pkts with | [] => [] | p :: r => { p with read := true } :: r })

/-- A packet in an out-queue that an instruction or a node has made (R154). -/
def packetOf (lanes : List W32) (ends psn : Bool) : Packet := ⟨lanes, ends, psn, none, none, false, 0⟩

/-- A packet goes to the back of an out-queue. -/
def Cell.enqueue (q : BitVec 3) (p : Packet) (c : Cell) : Cell := c.onQueue q fun Q => { Q with pkts := Q.pkts ++ [p] }

/-! ### Taking packets: recv, peek, drop, clen (R150-R153) -/

/-- CHANNEL_FORMAT naming a channel or an out-queue (R330). -/
def misformed (n : Nat) (s : State) : State := raise cCHANNEL_FORMAT (BitVec.ofNat 8 n) 0 s

/-- The first line of R150: the channel exists and no node owns it. -/
def ownChannel (ch : ChIdx) (s : State) (k : Channel → State) : State :=
  let C := s.cell.chanAt ch
  if !C.en || 64 ≤ C.tgt.toNat then misformed ch.toNat s else k C

/-- The oldest packet: an empty channel parks, a poisoned packet faults (R150). -/
def withPacket (ch : ChIdx) (s : State) (k : Channel → Packet → State) : State :=
  ownChannel ch s fun C =>
    match C.oldest with
    | none => park (.chanIn ch) s
    | some p => if p.psn then raise cUNCORRECTABLE 0 0 s else k C p

/-- The rounding of a channel on receipt (R131): code 7 is `KFRM`. -/
def Channel.rounding (C : Channel) (c : Cell) : Rounding := if C.rm = 7 then c.rounding else ⟨C.rm, C.sat⟩

/-- The scale code of element k of a packet (R151). None when its byte lies outside the scale lane. -/
def Channel.scaleOf (C : Channel) (c : Cell) (lane : W32) (k : Nat) : Option Nat :=
  if !C.ssrc then some (c.k.scale[C.scale.toNat]'C.scale.isLt).toNat
  else if C.blk = 0 then some 127
  else
    let i := k / (if C.blk = 1 then 16 else 32)
    if 3 < i then none else some (bits lane.toNat (8 * i) 8)

/-- `Widen` (R151): the converted elements of a group, or none for CHANNEL_FORMAT. With SSRC = 1 the last lane is no data, whatever BLK is
(R131; log 28). -/
def widen (C : Channel) (c : Cell) (lanes : List W32) (g : Nat) : Option (List Nat × Flags) :=
  let data := if C.ssrc then lanes.dropLast else lanes
  let elems := unpack C.fmt data
  if elems.length ≤ 8 * g then none
  else
    let dst := if C.fmt.isInt then fINT32 else fFP32
    let group := (elems.drop (8 * g)).take 8
    let scales := (List.range group.length).map fun j => C.scaleOf c (lanes.getLastD 0) (8 * g + j)
    if scales.any Option.isNone then none
    else some (collect (group.mapIdx fun j e =>
      roundTo dst (C.rounding c) (drawBits c.k.dkey c.draw j 0) (scaled (valueOf C.fmt e) ((scales.getD j none).getD 127))))

/-- `recv` and `peek` (R150). -/
def receive (remove : Bool) (d : VIdx) (ch : ChIdx) (g : Option (BitVec 3)) (p : PIdx) (s : State) : State :=
  withPacket ch s fun C P =>
    let done (lanes : List W32) (f : Flags) (draws : Bool) : State :=
      freeV d s (withFlags f
        (let s1 := advance 4 (setP p P.ends (launch (.packet lanes) (.v d) 0 .none 7 0 [] false false s))
         let s2 := if remove then takePacket ch s1 else markRead ch s1
         if draws then s2.onCell fun c => { c with draw := c.draw + 1 } else s2) s)
    match g with
    | none => done P.lanes 0 false
    | some g =>
      match widen C s.cell P.lanes g.toNat with
      | none => misformed ch.toNat s
      | some (l, f) => done (l.map (BitVec.ofNat 32)) f ((C.rounding s.cell).mode == 4)

def execRecv (d : VIdx) (c : ChIdx) (g : Option (BitVec 3)) (p : PIdx) (s : State) : Result := .next (receive true d c g p s)
def execPeek (d : VIdx) (c : ChIdx) (g : Option (BitVec 3)) (p : PIdx) (s : State) : Result := .next (receive false d c g p s)

/-- `drop` (R153): nothing on an empty or a LATEST channel. -/
def execDrop (c : ChIdx) (s : State) : Result :=
  .next (ownChannel c s fun C => advance 4 (if C.latest then s else takePacket c s))

/-- `clen` (R153). -/
def execClen (d : XIdx) (c : ChIdx) (s : State) : Result :=
  .next (ownChannel c s fun C => retireX d (match C.oldest with
    | none => 0
    | some p => fields [(if p.psn then 1 else 0, 9), (if p.ends then 1 else 0, 8), (p.lanes.length, 4), (C.pkts.length, 0)]) s)

/-! ### Sending packets: send, sendx (R154) -/

/-- A packet is placed in an out-queue; a full one holds the instruction (R154). -/
def place2 (q : BitVec 3) (p : Packet) (s : State) : State :=
  if 2 ≤ (s.cell.queue q).pkts.length then hold (.expiring (.chanOut q)) s
  else advance 4 (s.onCell (Cell.enqueue q p))

/-- The out-queue must exist (R154). -/
def ownQueue (q : BitVec 3) (s t : State) : State := if !(s.cell.queue q).en then misformed q.toNat s else t

def execSend (q : BitVec 3) (a : VIdx) (psn inv : Bool) (p : PIdx) (s : State) : Result :=
  .next (readV a s fun A => ownQueue q s (place2 q (packetOf A.packet (s.cell.pred p != inv) psn) s))
def execSendx (q : BitVec 3) (a : XIdx) (psn inv : Bool) (p : PIdx) (w : Bool) (s : State) : Result :=
  .next (readX a s fun A => ownQueue q s (place2 q
    (packetOf (if w then [A.setWidth 32] else [A.setWidth 32, A.extractLsb' 32 32]) (s.cell.pred p != inv) psn) s))

/-! ### Handler instructions (R157-R159) -/

/-- The lowest firing channel of a handler on which a token waits (R20). -/
def Cell.waitingChannel (c : Cell) (h : BitVec 6) : Option ChIdx :=
  ((List.range 32).map (BitVec.ofNat 5)).find? fun ch =>
    let C := c.chanAt ch
    C.fire && C.tgt.toNat == h.toNat && C.waiting

/-- The activation ends: its handler is RUNNABLE when a token waits and IDLE otherwise, at its entry PC (R20). -/
def Cell.endActivation (h : BitVec 6) (c : Cell) : Cell :=
  let w := c.waitingChannel h
  let e (x : Handler) : Handler :=
    { x with st := if w.isSome then .runnable else .idle, pc := x.entry, chan := w.getD x.chan, byStart := x.byStart && w.isNone,
             pend := .none, key := none, wide := false }
  { c.onHnd h e with
    cur := none, hold := none,
    inflight := c.inflight.map fun a => if a.hnd == h then { a with live := false } else a }

/-- `hnd.end`: ILLEGAL inside a trap handler (R159). -/
def execHndEnd (s : State) : Result :=
  .next (if s.cell.k.t then raise cILLEGAL 0 0 s
    else match s.cell.cur with
      | some h => s.onCell (Cell.endActivation h)
      | none => s)

/-- An instruction on the handler that `x[a]` names, which must exist (R157). -/
def onHandler (a : XIdx) (s : State) (f : BitVec 6 → State) : State :=
  readX a s fun A => let h : BitVec 6 := A.setWidth 6; if (s.cell.handler h).v then f h else misformed 0 s

def execHndMask (a : XIdx) (s : State) : Result :=
  .next (onHandler a s fun h => advance 4 (s.onCell (Cell.onHnd h fun e => { e with mask := true })))
def execHndUnmask (a : XIdx) (s : State) : Result :=
  .next (onHandler a s fun h => advance 4 (s.onCell (Cell.onHnd h fun e => { e with mask := false })))
def execHndPrio (a b : XIdx) (s : State) : Result :=
  .next (readX a s fun A => readX b s fun B =>
    let h : BitVec 6 := A.setWidth 6
    if (s.cell.handler h).v then advance 4 (s.onCell (Cell.onHnd h fun e => { e with prio := B.setWidth 4 })) else misformed 0 s)

/-- A channel moves to another handler, which becomes RUNNABLE if it is IDLE and a token waits (R158). -/
def Cell.bindChannel (ch : ChIdx) (h : BitVec 6) (c : Cell) : Cell :=
  let c1 := c.onChan ch fun C => { C with tgt := h.setWidth 7 }
  if (c1.chanAt ch).waiting then c1.fire ch else c1

def execHndBind (a b : XIdx) (s : State) : Result :=
  .next (readX a s fun A => readX b s fun B =>
    let ch : ChIdx := A.setWidth 5
    let h : BitVec 6 := B.setWidth 6
    let C := s.cell.chanAt ch
    if !C.en || 64 ≤ C.tgt.toNat || !(s.cell.handler h).v then misformed ch.toNat s
    else advance 4 (s.onCell (Cell.bindChannel ch h)))

/-- `hnd.self` (R157). -/
def execHndSelf (d : XIdx) (s : State) : Result := .next (retireX d ((s.cell.cur.getD 0).setWidth 64) s)

/-! ### Controller instructions (R160) -/

def execCtlDone (q : BitVec 3) (a : XIdx) (s : State) : Result :=
  .next (readX a s fun A => ownQueue q s (place2 q (packetOf [A.setWidth 32] true false) s))
def execCtlPermit (q : BitVec 3) (a b : XIdx) (s : State) : Result :=
  .next (readX a s fun A => readX b s fun B => ownQueue q s (place2 q (packetOf [A.setWidth 32, B.setWidth 32] true false) s))

/-- `ctl.wait` (R160). -/
def execCtlWait (d : XIdx) (c : ChIdx) (s : State) : Result :=
  .next (withPacket c s fun _ P =>
    let take (v : Word) : State := freeX d s (takePacket c (advance 4 (launch (.value v 0) (.x d) 0 .none 7 0 [] false false s)))
    match P.lanes with
    | [a] => take (a.setWidth 64)
    | [a, b] => take (b ++ a)
    | _ => misformed c.toNat s)

/-! ### Circuits (R122-R125) -/

/-- Whether the packets and nodes of a cell's board move: it is not drained or reloaded. -/
def State.moving (s : State) (c : Cell) : Bool :=
  match c.board with
  | none => true
  | some b => match s.pkg.boards.find? (·.id == b) with | some x => x.phase == .running || x.phase == .preempting | none => true

/-- Whether the handlers and engines of a cell's board go on: it is not being pre-empted either (R339). -/
def State.active (s : State) (c : Cell) : Bool :=
  match c.board with
  | none => true
  | some b => match s.pkg.boards.find? (·.id == b) with | some x => x.phase == .running | none => true

/-- Whether the out-queues of a cell's board have stopped: it is being pre-empted and every core is free (R339). -/
def State.sent (s : State) (c : Cell) : Bool := !s.active c && !(s.cells.any fun e => e.2.board == c.board && e.2.cur.isSome)

/-- A slot-table entry of a cell. -/
def Cell.slotEntry (c : Cell) (slot : Nat) : Nat := (sget 0 c.slots (slot % 256)).toNat
/-- The source of an output: 0 N, 1 E, 2 S, 3 W, 4 local (R122). -/
def sourceOf (e : Nat) (out : Nat) : Nat := bits e (3 * out) 3

/-- The cell that an output faces: rows grow southward and columns eastward (R122). -/
def neighbour (c : CellId) (out : Nat) : CellId :=
  let row := c.extractLsb' 6 6
  let col := c.extractLsb' 0 6
  let die := c.extractLsb' 12 2
  match out with
  | 0 => die ++ (row - 1) ++ col
  | 1 => die ++ row ++ (col + 1)
  | 2 => die ++ (row + 1) ++ col
  | _ => die ++ row ++ (col - 1)

/-- The source code of the input at which a beat from an output arrives: from the east output to the west input. -/
def inputOf (out : Nat) : Nat := match out with | 0 => 3 | 1 => 4 | 2 => 1 | _ => 2

/-- The ends that a beat reaches from an input of a cell in a slot, with its hops so far; `entry` gives every slot table. -/
def endsFrom (entry : CellId → Nat → Nat) : Nat → CellId → Nat → Nat → Nat → List (CellId × Nat)
  | 0, _, _, _, _ => []
  | fuel + 1, c, src, slot, hops =>
    let e := entry c slot
    (if sourceOf e 4 = src then [(c, hops)] else []) ++
      ((List.range 4).filter fun o => sourceOf e o == src).flatMap fun o =>
        endsFrom entry fuel (neighbour c o) (inputOf o) (slot + 1) (hops + 1)

/-- More hops than any path on a die has: each link output of its 2304 cells takes part in each of the 256 slots at most once. -/
def circuitFuel : Nat := 2359297

/-- The ends of the circuit of an out-queue in one of its slots. -/
def State.circuitEnds (s : State) (c : CellId) (slot : Nat) : List CellId :=
  ((endsFrom (fun d n => (s.cellAt d).slotEntry n) circuitFuel c 5 slot 0).map Prod.fst).eraseDups

/-- Whether a slot of a cell feeds the local input from an out-queue. -/
def Cell.feeds (c : Cell) (q : BitVec 3) (slot : Nat) : Bool :=
  let e := c.slotEntry slot
  (List.range 5).any (fun o => sourceOf e o == 5) && bits e 16 3 == q.toNat

/-- Whether the oldest packet of an out-queue may leave in a slot (R123). -/
def Cell.departs (c : Cell) (q : BitVec 3) (slot : Nat) : Bool :=
  let Q := c.queue q
  Q.en && !Q.pkts.isEmpty && c.feeds q slot && (!Q.toQueue || Q.credits != 0)

/-- PACKET_DEPARTURE: the packet leaves toward every end, and leaving spends a credit (R123). -/
def execPacketDeparture (c : CellId) (q : BitVec 3) (slot : BitVec 8) (s : State) : Result :=
  let x := s.cellAt c
  let Q := x.queue q
  .next (match Q.pkts with
    | [] => s
    | p :: r =>
      if !x.departs q slot.toNat || !s.moving x || s.sent x then s
      else
        let ends := s.circuitEnds c slot.toNat
        let queues := (ends.filter fun d => !((s.cellAt d).chanAt Q.dch).latest).length
        let s1 := s.atCell c fun x =>
          (x.onQueue q fun Q => { Q with pkts := r, credits := if Q.toQueue then Q.credits - 1 else Q.credits, sent := Q.sent + 1 }).wakeOn (.chanOut q)
        s1.onPkg fun k =>
          { k with
            wire := k.wire ++ ends.map fun d => ⟨c, q, d, Q.dch, { p with src := some (c, q, Q.sent) }⟩,
            joins := if 2 ≤ queues then k.joins ++ [⟨c, q, Q.sent, queues⟩] else k.joins })

/-- Whether a packet on the wire is the oldest of its circuit toward its end (R124, R155). -/
def Package.firstOnWire (p : Package) (k : Nat) (f : Flight) : Bool :=
  !((p.wire.take k).any fun g => g.src == f.src && g.q == f.q && g.dst == f.dst)

/-- TOKEN_ARRIVAL: a packet enters its channel; a merge frees the place of the arriving one (R117). An error on the way that could
not be corrected has set its PSN (R115, R116). -/
def execTokenArrival (k : Arrival) (s : State) : Result :=
  .next (match s.pkg.wire[k.index]? with
    | none => s
    | some f =>
      let pkt : Packet := { f.pkt with psn := f.pkt.psn || k.damaged }
      if !s.pkg.firstOnWire k.index f then s
      else
        let x := s.cellAt f.dst
        let s1 := s.onPkg fun p => { p with wire := delNth k.index p.wire }
        if !s.moving x then s1
        else
          let s2 := s1.atCell f.dst (Cell.enter true f.ch pkt)
          if ((x.chanAt f.ch).mergesWith pkt).isSome then freed f.dst f.ch pkt s2 else s2)

/-- CREDIT_RETURN (R123). -/
def execCreditReturn (k : Nat) (s : State) : Result :=
  .next (match s.pkg.creditWire[k]? with
    | none => s
    | some (c, q) =>
      (s.onPkg fun p => { p with creditWire := delNth k p.creditWire }).atCell c (Cell.onQueue q fun Q => { Q with credits := Q.credits + 1 }))

/-! ### Nodes (R140-R143) -/

/-- A fault of a node (R140, R333): CHANNEL_FORMAT naming the channel. -/
def Cell.nodeFault (n : BitVec 2) (ch : Nat) (c : Cell) : Cell :=
  c.withFault ⟨cCHANNEL_FORMAT, BitVec.ofNat 8 ch, c.k.t, 1, 64#7 + n.setWidth 7, 0, 0, 0, 0, 0⟩

/-- The token a node finds on a channel that names it (R140). -/
def Cell.nodeToken (c : Cell) (n : BitVec 2) (ch : ChIdx) : Option Packet :=
  let C := c.chanAt ch
  if C.en && C.tgt.toNat == 64 + n.toNat && C.waiting then C.oldest else none

/-- Whether an out-queue can take a node's packet (R140). R140 has no fault for a node whose named out-queue has EN = 0: the node waits (log 29). -/
def Cell.queueRoom (c : Cell) (q : BitVec 3) : Bool := (c.queue q).en && (c.queue q).pkts.length < 2

/-- A node slot of a cell. -/
def Cell.nodeAt (c : Cell) (n : BitVec 2) : Node := c.node[n.toNat]'n.isLt
/-- A node slot put in place. -/
def Cell.putNode (n : BitVec 2) (x : Node) (c : Cell) : Cell := { c with node := c.node.set n.toNat x n.isLt }

/-- The fields of a controller node (R141). -/
def ctlKind (w0 : Word) : Nat := bits w0.toNat 38 2
def ctlChildren (w0 : Word) : Nat := bits w0.toNat 36 2 + 1
def ctlRoot (w0 : Word) : Bool := w0.getLsbD 32
def ctlCount (w0 : Word) : Nat := bits w0.toNat 0 32
def ctlParent (w1 : Word) : ChIdx := BitVec.ofNat 5 (bits w1.toNat 43 5)
def ctlDoneQueue (w1 : Word) : BitVec 3 := BitVec.ofNat 3 (bits w1.toNat 40 3)
def ctlChildChannel (w1 : Word) (c : Nat) : ChIdx := BitVec.ofNat 5 (bits w1.toNat (8 * c + 3) 5)
def ctlChildQueue (w1 : Word) (c : Nat) : BitVec 3 := BitVec.ofNat 3 (bits w1.toNat (8 * c) 3)

/-- The iterations each child is given in a run: one under streaming (R141). -/
def ctlRounds (w0 : Word) (n : Nat) : Nat := if ctlKind w0 = 2 then min n 1 else n

/-- Whether the next permit may go to a child (R141). -/
def ctlMaySend (w0 : Word) (n : Nat) (sent returned : List Nat) (c : Nat) : Bool :=
  let i := sent.getD c 0
  let ret (k : Nat) : Nat := returned.getD k 0
  decide (i < ctlRounds w0 n) &&
    (match ctlKind w0 with
     | 0 => if c = 0 then decide (i ≤ ret (ctlChildren w0 - 1)) else decide (i < ret (c - 1))
     | 1 => decide (i ≤ ret c) && (c == 0 || decide (i < ret (c - 1)))
     | _ => true)

/-- Permits go to the children that may have one and whose out-queue has room (R141). -/
def ctlSend (n : BitVec 2) : Nat → Cell → Cell
  | 0, x => x
  | fuel + 1, x =>
    match x.nodeAt n with
    | .controller w0 w1 true ended j m sent returned late =>
      match (List.range (ctlChildren w0)).find? fun c => ctlMaySend w0 m sent returned c && x.queueRoom (ctlChildQueue w1 c) with
      | none => x
      | some c =>
        let i := sent.getD c 0
        let lanes : List W32 := if ctlKind w0 = 2 then [0, BitVec.ofNat 32 m] else [BitVec.ofNat 32 i, 1]
        ctlSend n fuel ((x.enqueue (ctlChildQueue w1 c) (packetOf lanes true false)).putNode n
          (.controller w0 w1 true ended j m (modNth (· + 1) c sent) returned late))
    | _ => x

/-- Whether a run is complete: the last child has returned its last done, and no permit is left to send (R141). -/
def ctlComplete (w0 : Word) (m : Nat) (sent returned : List Nat) : Bool :=
  returned.getD (ctlChildren w0 - 1) 0 == ctlRounds w0 m && (List.range (ctlChildren w0)).all fun c => sent.getD c 0 == ctlRounds w0 m

/-- A complete run ends: done j goes to the parent when its queue has room; a root sends none and does not start again (R141). -/
def ctlFinish (n : BitVec 2) (x : Cell) : Cell :=
  match x.nodeAt n with
  | .controller w0 w1 true ended j m sent returned late =>
    if ctlComplete w0 m sent returned then
      let late' := (List.range 4).map fun c => late.getD c 0 + (sent.getD c 0 - returned.getD c 0)
      if ctlRoot w0 then x.putNode n (.controller w0 w1 false true j m [0, 0, 0, 0] [0, 0, 0, 0] late')
      else if x.queueRoom (ctlDoneQueue w1) then
        (x.enqueue (ctlDoneQueue w1) (packetOf [j] true false)).putNode n (.controller w0 w1 false ended j m [0, 0, 0, 0] [0, 0, 0, 0] late')
      else x
    else x
  | _ => x

/-- What a controller node does with the token of a channel (R141): none for a token it does not take yet, the fault of R140, or
the node after it. -/
inductive CtlTaken where
  | later
  | wrong
  | node (x : Node)
  deriving DecidableEq, Repr

/-- A controller node and a token of one of its channels (R140, R141). DEDUCED (log 29): the PSN of a permit or of a done token is not
looked at. -/
def ctlTake (w0 w1 : Word) (run ended : Bool) (j : W32) (m : Nat) (sent returned late : List Nat) (ch : ChIdx) (p : Packet) : CtlTaken :=
  if ch = ctlParent w1 && !ctlRoot w0 then
    match p.lanes with
    | [a, b] =>
      if run then .later
      else .node (.controller w0 w1 true ended a (if ctlCount w0 = 0 then b.toNat else ctlCount w0) [0, 0, 0, 0] [0, 0, 0, 0] late)
    | _ => .wrong
  else
    match (List.range (ctlChildren w0)).find? fun c => ctlChildChannel w1 c == ch with
    | none => .wrong
    | some c =>
      if p.lanes = [0] ∧ late.getD c 0 ≠ 0 then .node (.controller w0 w1 run ended j m sent returned (modNth (· - 1) c late))
      else if returned.getD c 0 < sent.getD c 0 ∧ p.lanes = [BitVec.ofNat 32 (returned.getD c 0)] then
        .node (.controller w0 w1 run ended j m sent (modNth (· + 1) c returned) late)
      else .wrong

/-- CONTROLLER_NODE_TOKEN: the node takes the token of a channel, if one waits, and sends what it then may (R141). DEDUCED (log 71): a
channel may name a node slot that no table configures, whose tokens nothing takes. -/
def execControllerNodeToken (c : CellId) (n : BitVec 2) (ch : ChIdx) (s : State) : Result :=
  let x := s.cellAt c
  let go (s : State) : State := s.atCell c fun x => ctlFinish n (ctlSend n 16 x)
  .next (if !s.moving x || x.stopped then s
    else match x.nodeAt n with
      | .controller w0 w1 run ended j m sent returned late =>
        match x.nodeToken n ch with
        | none => go s
        | some p =>
          match ctlTake w0 w1 run ended j m sent returned late ch p with
          | .later => go s
          | .wrong => s.atCell c (Cell.nodeFault n ch.toNat)
          | .node y => go (s.within c fun s => takePacket ch (s.onCell (Cell.putNode n y)))
      | _ => s)

/-- The fields of an arbiter node (R142). -/
def arbChannel (w0 : Word) (a : Nat) : ChIdx := BitVec.ofNat 5 (bits w0.toNat (8 * a + 3) 5)
def arbQueue (w0 : Word) (a : Nat) : BitVec 3 := BitVec.ofNat 3 (bits w0.toNat (8 * a) 3)
def arbLock (w1 : Word) : Bool := w1.getLsbD 15
def arbArcs (w1 : Word) : Nat := bits w1.toNat 12 3 + 1
def arbLimit (w1 : Word) : Nat := bits w1.toNat 8 4
def arbReplies (w1 : Word) : ChIdx := BitVec.ofNat 5 (bits w1.toNat 3 5)
def arbForward (w1 : Word) : BitVec 3 := BitVec.ofNat 3 (bits w1.toNat 0 3)

/-- The arc granted next: the first from the one after the last granted that holds a request (R142). -/
def arbNext (n : BitVec 2) (w0 w1 : Word) (last : Nat) (x : Cell) : Option Nat :=
  ((List.range (arbArcs w1)).map fun i => (last + 1 + i) % arbArcs w1).find? fun a => (x.nodeToken n (arbChannel w0 a)).isSome

/-- A channel of the node that is neither an arc's nor the reply channel holds a token (R140). A channel that only an arc byte above NARC
names is none of these: its token waits (R142; log 71). -/
def arbStray (n : BitVec 2) (w0 w1 : Word) (x : Cell) : Option Nat :=
  (List.range 32).find? fun ch =>
    (x.nodeToken n (BitVec.ofNat 5 ch)).isSome && BitVec.ofNat 5 ch != arbReplies w1 &&
      !((List.range 8).any fun a => arbChannel w0 a == BitVec.ofNat 5 ch)

/-- ARBITER_NODE_TOKEN: a grant, or a reply or release (R142). DEDUCED (log 29): the grant of a lock arbiter has END = 1 and PSN = 0, and
the PSN of a release is not looked at. -/
def execArbiterNodeToken (c : CellId) (n : BitVec 2) (reply : Bool) (s : State) : Result :=
  let x := s.cellAt c
  .next (if !s.moving x || x.stopped then s
    else match x.nodeAt n with
      | .arbiter w0 w1 last fifo =>
        if reply then
          match x.nodeToken n (arbReplies w1), fifo with
          | none, _ => s
          | some _, [] => s.atCell c (Cell.nodeFault n (arbReplies w1).toNat)
          | some p, a :: r =>
            let pop (s : State) : State := s.within c fun s => takePacket (arbReplies w1) (s.onCell (Cell.putNode n (.arbiter w0 w1 last r)))
            if arbLock w1 then pop s
            else if x.queueRoom (arbQueue w0 a) then (pop s).atCell c (Cell.enqueue (arbQueue w0 a) (packetOf p.lanes p.ends p.psn))
            else s
        else match arbStray n w0 w1 x with
          | some ch => s.atCell c (Cell.nodeFault n ch)
          | none =>
            if arbLimit w1 ≤ fifo.length then s
            else match arbNext n w0 w1 last x with
              | none => s
              | some a =>
                let q := if arbLock w1 then arbQueue w0 a else arbForward w1
                match x.nodeToken n (arbChannel w0 a) with
                | none => s
                | some p =>
                  if !x.queueRoom q then s
                  else
                    let out := if arbLock w1 then packetOf [BitVec.ofNat 32 a] true false else packetOf p.lanes p.ends p.psn
                    (s.within c fun s => takePacket (arbChannel w0 a) (s.onCell (Cell.putNode n (.arbiter w0 w1 a (fifo ++ [a]))))).atCell c
                      (Cell.enqueue q out)
      | _ => s)

/-- GENERATOR_NODE_TOKEN: four random lanes for an index (R143). -/
def execGeneratorNodeToken (c : CellId) (n : BitVec 2) (ch : ChIdx) (s : State) : Result :=
  let x := s.cellAt c
  .next (if !s.moving x || x.stopped then s
    else match x.nodeAt n, x.nodeToken n ch with
      | .generator key w1, some p =>
        let q : BitVec 3 := w1.setWidth 3
        match p.lanes with
        | [i] =>
          if ch ≠ w1.extractLsb' 3 5 then s.atCell c (Cell.nodeFault n ch.toNat)
          else if !x.queueRoom q then s
          else
            let o := philox key i 0 0 0
            (s.within c (takePacket ch)).atCell c (Cell.enqueue q (packetOf [o.1, o.2.1, o.2.2.1, o.2.2.2] p.ends p.psn))
        | _ => s.atCell c (Cell.nodeFault n ch.toNat)
      | _, _ => s)

/-! ### Selection (R144-R147) -/

/-- `EffPrio` (R144). A constant that lies in a channel whose EN is 0 counts for no priority: the spec does not say whether it does (log 71). -/
def Cell.effPrio (c : Cell) (h : BitVec 6) : Nat :=
  let e := c.handler h
  let base := c.chan.toList.foldl (fun m C => if C.en && C.tgt.toNat == h.toNat && !C.pkts.isEmpty then max m C.prio.toNat else m) e.prio.toNat
  min 15 (base + e.age)

/-- The candidates of a selection (R145). -/
def Cell.candidates (c : Cell) : List (BitVec 6) :=
  ((List.range 64).map (BitVec.ofNat 6)).filter fun h => let e := c.handler h; e.st == .runnable && !e.mask

/-- A handler passed over 4096 times ages (R145). -/
def Handler.aged (h : Handler) : Handler := if 4096 ≤ h.pass then { h with age := h.age + 1, pass := 0 } else h

/-- The handler that R145 selects, with its level. -/
def Cell.selects (c : Cell) : Option (BitVec 6 × Nat) :=
  let cand := c.candidates
  let L := cand.foldl (fun m h => max m (c.effPrio h)) 0
  let start := (c.ptr.toList.getD L 63).toNat
  (((List.range 64).map fun i => BitVec.ofNat 6 (start + 1 + i)).find? fun h => cand.contains h && c.effPrio h == L).map fun h => (h, L)

/-- The selected handler runs at its kept PC, and every other candidate is passed over (R145). -/
def Cell.selected (h : BitVec 6) (L : Nat) (c : Cell) : Cell :=
  let cand := c.candidates
  let hnd := c.hnd.mapFinIdx fun i e _ =>
    if i = h.toNat then { e with st := .running, age := 0, pass := 0, key := none, wide := false }
    else if cand.contains (BitVec.ofNat 6 i) then { e with pass := e.pass + 1 } else e
  { c with hnd := hnd, ptr := if hL : L < 16 then c.ptr.set L h hL else c.ptr, cur := some h, pc := (c.handler h).pc, hold := none,
           k := { c.k with prio := BitVec.ofNat 4 L } }

/-- HANDLER_SELECTION (R145); ages that are due advance first. -/
def execHandlerSelection (c : CellId) (s : State) : Result :=
  let x := s.cellAt c
  let y : Cell := { x with hnd := x.hnd.map Handler.aged }
  .next (if x.cur.isSome || x.stopped || !s.active x then s
    else match y.selects with
      | none => s
      | some (h, L) => s.putCell c (y.selected h L))

/-- AGE_ADVANCE (R145). -/
def execAgeAdvance (c : CellId) (h : BitVec 6) (s : State) : Result := .next (s.atCell c (Cell.onHnd h Handler.aged))

/-- HOLD_EXPIRY: the held activation parks (R17, R65, R154, R230). A hold at issue of R16 and R127 has no limit. -/
def execHoldExpiry (c : CellId) (s : State) : Result :=
  .next (match (s.cellAt c).hold with
    | some (.expiring k) => s.within c fun s => park k s
    | _ => s)

end Sys2Proof.Machine
end

