-- ==== Sys2Proof/Machine/Stream.lean ====
section
/-! DEFINITION. Streams: the instructions of major 0x22 (R249, R250), the operations of the home stream unit (R212-R215), a
cell's window unit (R266), the event overflow buffer (R225) and the host aperture (R220, R221). -/

namespace Sys2Proof.Machine

/-! ### Stream instructions (R249) -/

/-- A stream instruction issues its operation: held while another on the same stream is in flight (R249). It uses the window record, also while it
is held for a reply buffer or for its destination (R266). -/
def streamOp (num : BitVec 15) (op : StreamOp) (dst : Dst) (va : Word) (after : List Nat) (s : State) : State :=
  let t := s.onCell (Cell.touchWin num)
  issuable 0 0 s
    (if s.cell.streamPending num then hold .staying s
     else buffered t (freeDst dst t (advance 4 (launch (.stream num op) dst va .none 7 0 after false false t))))

/-- A stream instruction on a bound stream, its sources read (R55): bits of the number above 14 are denied (R249), the record must be in
the window unit (R266), and a number without one is denied when it is fetched (R210). -/
def onStream (A : Word) (s : State) (k : BitVec 15 → State) : State :=
  if A.extractLsb' 15 49 ≠ 0 then denied A s
  else if s.cell.streamPending (A.setWidth 15) then hold .staying s
  else withWindow (A.setWidth 15) A s fun _ => k (A.setWidth 15)

/-- The earlier writes of the activation to a stream (R215, R249). -/
def Cell.writesTo (c : Cell) (num : BitVec 15) : List Nat :=
  c.idsWhere fun a => c.own a && a.writes && (match regionOf a.va with | .stream n _ => n == num | _ => false)

/-- The earlier reads of the activation from a stream (R249). -/
def Cell.readsFrom (c : Cell) (num : BitVec 15) : List Nat :=
  c.idsWhere fun a => c.own a && !a.writes && (match a.op with | .load _ _ | .loadV _ _ => true | _ => false) &&
    (match regionOf a.va with | .stream n _ => n == num | _ => false)

/-- The answer of an `sbind` whose number has bits above 14: the status ACCESS (R249, R250; log 68). -/
def refuseBind (d : XIdx) (A : Word) (s : State) : State :=
  issuable 0 0 s (freeX d s (advance 4 (launch (.value (cACCESS.setWidth 64) 0) (.x d) A .none 7 0 [] false false s)))

/-- `sbind`: privileged on streams 0-16 (R72, R250). -/
def execSbind (d a b : XIdx) (s : State) : Result :=
  .next (readX a s fun A => readX b s fun B =>
    if A.extractLsb' 15 49 ≠ 0 then refuseBind d A s
    else if A.setWidth 15 ≤ 16#15 && !s.runtime then raise cPRIVILEGED 0 0 s
    else streamOp (A.setWidth 15) (.bind B) (.x d) B [] s)
def execSjoin (d a : XIdx) (s : State) : Result := .next (readX a s fun A => onStream A s fun num => streamOp num .join (.x d) A [] s)
def execSleave (a : XIdx) (s : State) : Result := .next (readX a s fun A => onStream A s fun num => streamOp num .leave .none A [] s)
/-- `spub`: after the activation's earlier writes to the stream; stream 0 is denied (R249). -/
def execSpub (a b : XIdx) (s : State) : Result :=
  .next (readX a s fun A => readX b s fun B => onStream A s fun num =>
    if num = 0 then denied A s else streamOp num (.publish (B.setWidth 48)) .none A (s.cell.writesTo num) s)
/-- `srel`: after the activation's earlier reads from the stream have landed (R249). -/
def execSrel (a b : XIdx) (s : State) : Result :=
  .next (readX a s fun A => readX b s fun B => onStream A s fun num => streamOp num (.release (B.setWidth 48)) .none A (s.cell.readsFrom num) s)
def execShead (d a : XIdx) (s : State) : Result := .next (readX a s fun A => onStream A s fun num => streamOp num .head (.x d) A [] s)
def execStail (d a : XIdx) (s : State) : Result := .next (readX a s fun A => onStream A s fun num => streamOp num .tail (.x d) A [] s)
def execSclose (a : XIdx) (s : State) : Result :=
  .next (readX a s fun A => onStream A s fun num => streamOp num .close .none A (s.cell.writesTo num) s)

/-! ### The home stream unit (R212, R214, R215) -/

/-- A change of a record, followed by the check for a deadlock (R219). -/
def changeRecord (b : Bound) (r : StreamRec) (s : State) : State := deadlockCheck b.ctx b.num (setRecord b r s)

/-- An operation that the home unit refuses: ERR takes the code (R211). -/
def refuseRecord (b : Bound) (r : StreamRec) (code : Byte) (s : State) : State := setRecord b { r with err := code } s

/-- A slot of a record taken, or its tether moved. -/
def StreamRec.putSlot (i : Nat) (owner : CellId) (pos : BitVec 48) (r : StreamRec) : StreamRec :=
  { r with slots := modNth (fun _ => ⟨true, owner, pos⟩) i r.slots }

/-- A slot of a record freed: V falls, and the other fields stay (R215). -/
def StreamRec.freeSlot (i : Nat) (r : StreamRec) : StreamRec := { r with slots := modNth (fun t => { t with v := false }) i r.slots }

/-- Join: the slot taken, if one is free (R215). Slot 7 is the host's when HREAD is 1. -/
def StreamRec.join (owner : CellId) (r : StreamRec) : Option (Nat × StreamRec) :=
  match r.slotFor owner with
  | some i => some (i, r)
  | none =>
    let i? := if owner = 0x3FFF then (if r.hread && (r.taken.getD 7 none).isNone then some 7 else none)
      else (List.range (if r.hread then 7 else 8)).find? fun i => (r.taken.getD i none).isNone
    i?.map fun i => (i, r.putSlot i owner r.tail)

/-- Leave: the slot is free and TAIL is recomputed (R215). -/
def StreamRec.leave (owner : CellId) (r : StreamRec) : StreamRec :=
  match r.slotFor owner with
  | none => r
  | some i => let r' := r.freeSlot i; { r' with tail := r'.lowest }

/-- Release to q (R215): the code of the refusal, or the record. -/
def StreamRec.release (owner : CellId) (q : BitVec 48) (r : StreamRec) : Byte × StreamRec :=
  match r.slotFor owner, r.tetherOf owner with
  | some i, some t =>
    if before q t then (cSTREAM_BEHIND, r)
    else if before r.head q then (cACCESS, r)
    else let r' := r.putSlot i owner q; (0, { r' with tail := r'.lowest })
  | _, _ => (cACCESS, r)

/-- Publish to q (R215): the code of the refusal, or the record. -/
def StreamRec.publish (q : BitVec 48) (r : StreamRec) : Byte × StreamRec :=
  if r.closed then (cSTREAM_CLOSED, r)
  else if !before r.head q then (0, r)
  else if before (r.tail + r.cap) q then (cACCESS, r)
  else (0, { r with head := q, tail := if r.taken.any Option.isSome then r.tail else q })

/-- The operation of an instruction on a bound record (R215, R249). A join or leave whose load has ended changes nothing: what the load
held in the stream was released at its end (R218; log 78). -/
def performRecord (a : Access) (b : Bound) (op : StreamOp) (s : State) : State :=
  let r := s.pkg.record b.pa
  let done (v : Word) (s : State) : State := s.onCell (Cell.land a v 0)
  let change (r' : StreamRec) : State := done 0 ((changeRecord b r' s).wrote a b.pa 128)
  let refuse (code : Byte) (info : W32) : State :=
    (refuseRecord b r code s).onCell fun c => (c.accessFault a code info).finish a
  match op with
  | .join =>
    if a.gone then done 0 s else
    match r.join s.here with
    | some (i, r') => done (BitVec.ofNat 64 i) (changeRecord b r' s)
    | none => done (-1) s
  | .leave => done 0 (if a.gone then s else changeRecord b (r.leave s.here) s)
  | .publish q =>
    let (code, r') := if r.hprod then (cACCESS, r) else r.publish q
    if code ≠ 0 then refuse code (q.setWidth 32) else change r'
  | .release q =>
    let (code, r') := r.release s.here q
    if code ≠ 0 then refuse code (q.setWidth 32) else change r'
  | .head => done (BitVec.ofBool r.closed ++ 0#15 ++ r.head) s
  | .tail => done (r.tail.setWidth 64) s
  | .close => change { r with closed := true }
  | .bind _ => s

/-- The k-th access in flight of the cell in focus performs its operation on a stream, if it is due and of the kind asked. -/
def performStreamOp (kind : StreamOp → Bool) (k : Nat) (s : State) : State :=
  match s.due k with
  | some a =>
    match a.op with
    | .stream num op =>
      if kind op then
        match s.pkg.boundOf s.cell.k.ctx num with
        | some b => performRecord a b op s
        | none => s.onCell fun c => (c.accessFault a cACCESS (a.va.setWidth 32)).finish a
      else s
    | _ => s
  | none => s

def execJoin (c : CellId) (k : Nat) (s : State) : Result :=
  .next (s.within c (performStreamOp (fun o => match o with | .join => true | _ => false) k))
def execLeave (c : CellId) (k : Nat) (s : State) : Result :=
  .next (s.within c (performStreamOp (fun o => match o with | .leave => true | _ => false) k))
def execRelease (c : CellId) (k : Nat) (s : State) : Result :=
  .next (s.within c (performStreamOp (fun o => match o with | .release _ => true | _ => false) k))
def execPublish (c : CellId) (k : Nat) (s : State) : Result :=
  .next (s.within c (performStreamOp (fun o => match o with | .publish _ => true | _ => false) k))
def execClose (c : CellId) (k : Nat) (s : State) : Result :=
  .next (s.within c (performStreamOp (fun o => match o with | .close => true | _ => false) k))

/-! ### Binding (R212, R250) -/

/-- Whether the reserved fields of a record are zero (R211, R212). -/
def reservedZero (d : List Word) : Bool :=
  let w (i : Nat) : Nat := (d.getD i 0).toNat
  bits (w 0) 48 16 == 0 && bits (w 1) 48 16 == 0 && (List.range 8).all (fun i => !bitOf (w (2 + i)) 62) &&
    bits (w 11) 40 24 == 0 && bits (w 11) 26 3 == 0 && bits (w 11) 21 3 == 0 && bits (w 11) 4 12 == 0 &&
    (List.range 4).all fun i => w (12 + i) == 0

/-- Whether a record's own fields may be bound (R212). -/
def StreamRec.bindable (r : StreamRec) : Bool :=
  r.back != 3#2 && (if r.back = 0 then 2 ≤ r.k && r.k ≤ 21 else 7 ≤ r.k && r.k ≤ 21) && r.logn ≤ 12 && r.head == r.tail &&
    r.taken.all Option.isNone && !r.closed && r.err == 0

/-- Whether a frame entry of a cell-store stream is well formed and its frame ends within the store (R211, R212). DEDUCED (log 77): an
entry that names row or column 48–63, where no cell is, is well formed, and the accesses to its frame are denied (`framePlace`). -/
def cellEntryOk (k : Nat) (e : Word) : Bool :=
  let v := e.toNat
  bits v 56 8 == 0 && bits v 46 2 == 0 && bits v 17 23 == 0 && bits v 0 17 + 2 ^ k ≤ 2 ^ 17

/-- The home slice of a line by its physical address and attributes (R204): die and slice. -/
def homeSlice (pa : Nat) (a : Byte) : Nat × Nat :=
  if attrIL a || attrT a then let n := pa % 2 ^ 40 / 128; (n % 4, n / 4 % 72) else (pa / 2 ^ 38 % 4, pa % 2 ^ 38 / 128 % 72)

/-- The home slices of the lines of one frame whose pages are found. -/
def frameSlices (ctx : BitVec 6) (va n : Nat) (p : Package) : List (Nat × Nat) :=
  (List.range (n / 128)).filterMap fun i =>
    match (translateFor true true ctx (BitVec.ofNat 64 (va + 128 * i)) p).1 with
    | .ok (pa, a) => some (homeSlice pa a)
    | _ => none

/-- Whether frames would pin more than 1 MiB, 8192 lines, in any one slice (R212): those of the record being bound alone (log 77). -/
def overPinned (ctx : BitVec 6) (k : Nat) (entries : List Word) (p : Package) : Bool :=
  let all := entries.flatMap fun e => frameSlices ctx e.toNat (2 ^ k) p
  (List.range 288).any fun i => (all.filter fun x => x == (i / 72, i % 72)).length > 8192

/-- What `sbind` answers: a status, with the binding it makes (R250). It refuses no FTAB or frame that is not aligned as R211 asks (log 77). -/
def bindStatus (ctx : BitVec 6) (num : BitVec 15) (va : Word) (p : Package) : Got (Byte × Option Bound) × Package :=
  let refuse (c : Byte) (p : Package) : Got (Byte × Option Bound) × Package := (.ok (c, none), p)
  if va.toNat % 128 ≠ 0 then refuse cMISALIGNED p
  else if regionOf va ≠ .global ∨ (p.boundOf ctx num).isSome then refuse cACCESS p
  else match translateFor true true ctx va p with
    | (.bad, p) => refuse cACCESS p
    | (.stall l v, p) => (.stall l v, p)
    | (.ok (pa, a), p) =>
      let key := physKey a pa
      let d := wordsOfBytes 16 (p.read key 128)
      let r := recordOf d
      if !reservedZero d || !r.bindable then refuse cCONFIG_CHECK p
      else match readVirtual ctx r.ftab.toNat (8 * 2 ^ r.logn) p with
        | (.bad, p) => refuse cACCESS p
        | (.stall l v, p) => (.stall l v, p)
        | (.ok (bytes, _), p) =>
          let entries := wordsOfBytes (2 ^ r.logn) bytes
          let ok : Got (Byte × Option Bound) × Package := (.ok (0, some ⟨ctx, num, va, key, entries, none⟩), p)
          if r.back = 0 then (if entries.all (cellEntryOk r.k) then ok else refuse cCONFIG_CHECK p)
          else if r.back = 1 then
            match place true true ctx (entries.flatMap fun e => pieces (2 ^ r.k / 2 ^ 16 + 2) e.toNat (2 ^ r.k)) p with
            | (.bad, p) => refuse cACCESS p
            | (.stall l v, p) => (.stall l v, p)
            | (.ok _, p) => if overPinned ctx r.k entries p then refuse cCONFIG_CHECK p else (.ok (0, some ⟨ctx, num, va, key, entries, none⟩), p)
          else ok

/-- A record leaves a cell's window unit, and every park keyed on the stream wakes (R266). -/
def Cell.evict (num : BitVec 15) (c : Cell) : Cell :=
  if c.win.any (fun w : WinRec => w.num == num) then
    ({ c with win := c.win.filter fun w : WinRec => w.num != num }).wakeAll fun k =>
      match k with | .head n _ | .window n _ => n == num | _ => false
  else c

/-- An unbind: refused while a slot is taken or when the number has no record (R250). -/
def unbind (ctx : BitVec 6) (num : BitVec 15) (s : State) : Byte × State :=
  match s.pkg.boundOf ctx num with
  | none => (cACCESS, s)
  | some b =>
    if (s.pkg.record b.pa).taken.any Option.isSome then (cACCESS, s)
    else (0, (s.onPkg fun p => { p with bound := p.bound.filter fun x => !(x.ctx == ctx && x.num == num) }).mapCells
      fun _ c => if c.k.ctx = ctx then c.evict num else c)

/-- The launch whose board a cell lies on. -/
def Package.launchOf (p : Package) (c : Cell) : Option Nat := c.board.bind fun id => (p.boards.find? (·.id == id)).bind (·.launch)

/-- STREAM_BIND: the home checks the record and its frame table, and binds or refuses it (R212, R250). -/
def execStreamBind (c : CellId) (k : Nat) (s : State) : Result :=
  .next (s.within c fun s =>
    match s.due k with
    | some a =>
      match a.op with
      | .stream num (.bind va) =>
        let answer (code : Byte) (s : State) : State := s.onCell (Cell.land a (code.setWidth 64) 0)
        if va = 0 then let (code, s') := unbind s.cell.k.ctx num s; answer code s'
        else match bindStatus s.cell.k.ctx num va s.pkg with
          | (.ok (code, b), p) =>
            answer code { s with pkg := (match b with | some b => { p with bound := p.bound ++ [{ b with by_ := p.launchOf s.cell }] } | none => p) }
          | (.stall l v, p) => stallAt a 0 l v { s with pkg := p }
          | (.bad, _) => s
      | _ => s
    | none => s)

/-- The values of `shead` and `stail` land as well (R249). -/
def landingAny (a : Access) (k : Nat) (s : State) : State :=
  match a.op with
  | .stream _ .head | .stream _ .tail => performStreamOp (fun o => match o with | .head | .tail => true | _ => false) k s
  | _ => landing a s

/-- VALUE_LANDING (R15, R228). -/
def execValueLanding (c : CellId) (k : Nat) (s : State) : Result :=
  .next (s.within c fun s => match s.due k with | some a => landingAny a k s | none => s)

/-- The record of a stream enters a cell's window unit; a full unit evicts the record used least recently (R266). -/
def fetchRecord (num : BitVec 15) (s : State) : State :=
  match s.pkg.boundOf s.cell.k.ctx num with
  | none => s
  | some b =>
    let w := (s.pkg.record b.pa).pushed num s.here
    s.onCell fun c =>
      let c1 := if c.win.length < 8 then c else match c.win.head? with | some v => c.evict v.num | none => c
      { c1 with win := c1.win.filter (fun w : WinRec => w.num != num) ++ [w] }

/-- RECORD_FETCH: what the held instruction waits for; a number without a record is denied (R210, R266). -/
def execRecordFetch (c : CellId) (stream : BitVec 15) (s : State) : Result :=
  .next (s.within c fun s =>
    match s.cell.hold with
    | some (.fetching num va) =>
      if num ≠ stream then s
      else match s.pkg.boundOf s.cell.k.ctx stream with
        | some _ => (fetchRecord stream s).onCell fun c => { c with hold := none }
        | none => raise cACCESS 0 va s
    | _ => s)

/-! ### The event overflow buffer (R225) -/

/-- OVERFLOW_RECORD_PUBLISH: the oldest record of the buffer is published once space has freed; one whose frame is not mapped waits for
the resume. -/
def execOverflowRecordPublish (ctx : BitVec 6) (s : State) : Result :=
  .next (match aget s.pkg.contexts ctx.toNat with
    | none => s
    | some c =>
      match c.overflow with
      | [] => s
      | d :: r =>
        let rest := Package.onCtx ctx fun c => { c with overflow := r }
        if s.pkg.stalledAt ctx .events then s
        else match publishNow ctx d (s.onPkg rest) with
        | .done s' => s'
        | .waits => s
        | .stalls => s.onPkg (Package.stallAt ctx .events)
        | .dropped => dropRecord ctx (s.onPkg rest))

/-! ### The host aperture (R220, R221) -/

/-- The host as the owner of a tether slot (R211). -/
def hostOwner : CellId := 0x3FFF

/-- An attached aperture slot with its stream's record. -/
def apertureStream (slot : Byte) (p : Package) : Option (Aperture × Bound) :=
  match aget p.apertures slot.toNat with
  | some a => if a.en then (p.boundOf a.ctx a.num).map fun b => (a, b) else none
  | none => none

/-- The record of a refused host request (R226, KIND 8). -/
def refusalRecord (slot code : Byte) (wr : Bool) (num : BitVec 15) (pos : BitVec 48) (len : Nat) : List Word :=
  [fields [(8, 0), (code.toNat, 8), (slot.toNat, 40)], BitVec.ofBool wr ++ num ++ pos, fields [(len, 0)], 0, 0, 0, 0, 0]

/-- The interface of a virtual function; none for the physical one or a number out of range. -/
def State.vfOf (s : State) (n : Nat) : Option Vf := if n = 0 then none else s.pkg.host.vfs.toList[n - 1]?

/-- Whether the interface that a request comes by lets it through to a TEE range: in RUN only on its IDE stream with T = 1, in ERROR
never (R411, R412). -/
def admitted (via : HostPath) (s : State) : Bool :=
  match via with
  | .pf => true
  | .vf n tee =>
    match s.vfOf n.toNat with
    | none => false
    | some f => f.st != .error && (f.st != .run || tee)

/-- A host request that its interface does not let through completes with Unsupported Request (R411, R412). -/
def hostRequest (via : HostPath) (s t : State) : State := if admitted via s then t else emit .hostUnsupported s

/-- A request to an aperture slot: a virtual function reaches the slots of its own BAR 2 (R413), in RUN only on its IDE stream. -/
def slotRequest (via : HostPath) (slot : Byte) (s t : State) : State :=
  match via with
  | .pf => t
  | .vf n tee =>
    match s.vfOf n.toNat with
    | none => s
    | some f => if slot.toNat / 16 + 1 ≠ n.toNat then s else if f.st == .run && !tee then emit .hostUnsupported s else t

/-- The slots of an interface in ERROR refuse (R412). -/
def slotDown (slot : Byte) (s : State) : Bool := (s.vfOf (slot.toNat / 16 + 1)).any fun f => f.st == .error

/-- A refused host request posts its record (R221). -/
def refuseHost (a : Aperture) (slot code : Byte) (wr : Bool) (pos : BitVec 48) (len : Nat) (s : State) : State :=
  post a.ctx (refusalRecord slot code wr a.num pos len) s

/-- APERTURE_BIND: EN = 1 attaches, with a join of slot 7 when HREAD = 1; EN = 0 detaches, with a Leave (R220). Bits of the value outside
the fields of R220's map are ignored here and in the HEAD and TETHER writes (log 64). DEDUCED (log 64): EN = 1 on a slot that is attached
leaves its old stream first. -/
def execApertureBind (via : HostPath) (slot : Byte) (val : Word) (s : State) : Result :=
  let leave (s : State) : State :=
    match apertureStream slot s.pkg with
    | some (_, b) => changeRecord b ((s.pkg.record b.pa).leave hostOwner) s
    | none => s
  let view := (aget s.pkg.apertures slot.toNat).elim 0 (·.view)
  let put (a : Aperture) (s : State) : State := s.onPkg fun p => { p with apertures := aput slot.toNat a p.apertures }
  .next (slotRequest via slot s (if slotDown slot s then s
    else if val.getLsbD 63 then
      let a : Aperture := ⟨true, val.extractLsb' 16 6, val.extractLsb' 0 15, view⟩
      let s1 := put a (leave s)
      match s1.pkg.boundOf a.ctx a.num with
      | some b =>
        let r := s1.pkg.record b.pa
        if r.hread then (match r.join hostOwner with | some (_, r') => changeRecord b r' s1 | none => s1) else s1
      | none => s1
    else put ⟨false, val.extractLsb' 16 6, val.extractLsb' 0 15, view⟩ (leave s)))

/-- APERTURE_HEAD: a Publish when HPROD = 1; otherwise discarded with ERR ← ACCESS (R215, R220). -/
def execApertureHead (via : HostPath) (slot : Byte) (val : Word) (s : State) : Result :=
  .next (slotRequest via slot s (match apertureStream slot s.pkg with
    | none => s
    | some (a, b) =>
      let r := s.pkg.record b.pa
      let q : BitVec 48 := val.setWidth 48
      let (code, r') := if r.hprod && !slotDown slot s then r.publish q else (cACCESS, r)
      if code ≠ 0 then refuseHost a slot code true q 8 (refuseRecord b r code s) else changeRecord b r' s))

/-- APERTURE_TETHER: a Release of slot 7 (R220). A Release that R215 refuses with STREAM_BEHIND leaves that code in ERR and ACCESS in the record,
whose CODE R226 confines to three codes (log 56). -/
def execApertureTether (via : HostPath) (slot : Byte) (val : Word) (s : State) : Result :=
  .next (slotRequest via slot s (match apertureStream slot s.pkg with
    | none => s
    | some (a, b) =>
      let r := s.pkg.record b.pa
      let q : BitVec 48 := val.setWidth 48
      let (code, r') := if slotDown slot s then (cACCESS, r) else r.release hostOwner q
      if code ≠ 0 then refuseHost a slot cACCESS true q 8 (refuseRecord b r code s) else changeRecord b r' s))

/-- The position a data offset of an aperture slot stands for (R220). -/
def Aperture.pos (a : Aperture) (off : BitVec 16) : BitVec 48 := a.view + (off - 0x1000#16).setWidth 48

/-- APERTURE_DATA_READ: performed over every frame, or completed with Completer Abort (R221), also where a frame cannot be reached (log 56). -/
def execApertureDataRead (via : HostPath) (slot : Byte) (off : BitVec 16) (n : Nat) (s : State) : Result :=
  .next (slotRequest via slot s (match apertureStream slot s.pkg with
    | none => emit .hostAbort s
    | some (a, b) =>
      let r := s.pkg.record b.pa
      let pos := a.pos off
      let refuse : State := refuseHost a slot cACCESS false pos n (emit .hostAbort s)
      if slotDown slot s || before pos r.tail || before r.head (pos + BitVec.ofNat 48 n) then refuse
      else match framePlaces false b r (framePieces r.k (n / 2 ^ min r.k 7 + 2) pos n) s.pkg with
        | (.ok l, p) => emit (.hostRead (l.flatMap fun e => (readPlace e.1 e.2 s).1)) { s with pkg := p }
        | _ => refuse))

/-- APERTURE_DATA_WRITE: performed over every frame, or discarded with ERR and a record (R221), with ACCESS where a frame cannot be reached
(log 56). -/
def execApertureDataWrite (via : HostPath) (slot : Byte) (off : BitVec 16) (data : List Byte) (s : State) : Result :=
  .next (slotRequest via slot s (match apertureStream slot s.pkg with
    | none => s
    | some (a, b) =>
      let r := s.pkg.record b.pa
      let pos := a.pos off
      let n := data.length
      let refuse (code : Byte) : State := refuseHost a slot code true pos n (refuseRecord b r code s)
      if slotDown slot s then refuse cACCESS
      else if r.closed then refuse cSTREAM_CLOSED
      else if before pos r.head then refuse cSTREAM_PUBLISHED
      else if before (r.tail + r.cap) (pos + BitVec.ofNat 48 n) then refuse cACCESS
      else match framePlaces true b r (framePieces r.k (n / 2 ^ min r.k 7 + 2) pos n) s.pkg with
        | (.ok l, p) => writePlaces l data { s with pkg := p }
        | _ => refuse cACCESS))

end Sys2Proof.Machine
end

