-- ==== Sys2Proof/Machine/Image.lean ====
section
/-! DEFINITION. Configuration images: the loader's checks (R112-R114, R118-R131, R133, R139), the cells an image makes, the first
firing of a load (R11, R134, R325), and the end of one (R134, R163, R218, R335). -/

namespace Sys2Proof.Machine

/-! ### Groups (R128, R129) -/

/-- One bit of the CRC-16 of R128: polynomial 0x1021. -/
def crcBit (c : BitVec 16) : BitVec 16 := if c.getLsbD 15 then (c <<< 1) ^^^ 0x1021#16 else c <<< 1

/-- One byte of the CRC, most significant bit first. -/
def crcByte (c : BitVec 16) (b : Byte) : BitVec 16 := (List.range 8).foldl (fun c _ => crcBit c) (c ^^^ (b ++ 0#8))

/-- The CRC-16 of a group (R128). -/
def groupCrc (h : Word) (data : List Word) : BitVec 16 :=
  (bytesOf 6 (h.toNat / 2 ^ 16) ++ data.flatMap fun w => bytesOf 8 w.toNat).foldl crcByte 0xFFFF#16

/-- The groups of an image; none when a header or a CRC is refused (R128). -/
def parseGroups : Nat → List Word → Option (List CfgGroup)
  | _, [] => some []
  | 0, _ => none
  | fuel + 1, h :: r =>
    let v := h.toNat
    let table := bits v 44 4
    let n := if table = 5 then bits v 16 15 else bits v 16 16
    let data := r.take n
    if n = 0 || r.length < n || 10 ≤ table || groupCrc h data != h.setWidth 16 then none
    else (parseGroups fuel (r.drop n)).map fun l => ⟨bits v 56 8, bits v 48 8, table, bits v 32 12, table == 5 && bitOf v 31, data⟩ :: l

/-- The limits of R129, and the place of R133 on a board of h by w cells. -/
def CfgGroup.inLimits (h w : Nat) (g : CfgGroup) : Bool :=
  let n := g.data.length
  g.hop < w && g.row < h &&
    (match g.table with
     | 0 => g.index + n ≤ 40
     | 1 => g.index % 2 == 0 && g.index / 2 + n ≤ 128
     | 2 => g.index < 32 && n ≤ 4
     | 3 => g.index + n ≤ 64
     | 4 => g.index + n ≤ 2048
     | 5 => 32 * g.index + 8 * n ≤ 131072
     | 6 | 7 => g.index < 4 && n == 2
     | 8 => g.index + n ≤ 32
     | _ => if g.index = 0 then n == 1 else g.index ≤ 4 && n == 2)

/-- The entries a group writes, as a range in the units of its table. -/
def CfgGroup.span (g : CfgGroup) : Nat × Nat :=
  match g.table with
  | 1 => (g.index / 2, g.data.length)
  | 2 | 6 | 7 | 9 => (g.index, 1)
  | 5 => (4 * g.index, g.data.length)
  | _ => (g.index, g.data.length)

/-- The node slot a group configures (R129). -/
def CfgGroup.nodeSlot (g : CfgGroup) : Option Nat :=
  match g.table with
  | 6 | 7 => some g.index
  | 9 => if g.index = 0 then none else some (g.index - 1)
  | _ => none

/-- Two groups of one cell that write one entry, or configure one node slot (R128, R129). -/
def CfgGroup.clashes (a b : CfgGroup) : Bool :=
  a.hop == b.hop && a.row == b.row &&
    ((a.table == b.table && a.span.1 < b.span.1 + b.span.2 && b.span.1 < a.span.1 + a.span.2) ||
      (a.nodeSlot.isSome && a.nodeSlot == b.nodeSlot))

/-- No two groups clash. -/
def noClash : List CfgGroup → Bool
  | [] => true
  | g :: r => !(r.any g.clashes) && noClash r

/-! ### Entries (R118, R122, R130, R131, R141-R143) -/

/-- A channel entry that R118 does not refuse; a non-zero reserved field is refused (log 14). -/
def channelOk (d : Word) : Bool :=
  let v := d.toNat
  let depth := bits v 21 4
  bits v 29 35 == 0 && (!bitOf v 28 || (1 ≤ depth && depth ≤ 8)) && (FmtDesc.valid (BitVec.ofNat 7 (bits v 11 7))) && bits v 0 7 < 68

/-- A channel as its entry makes it (R118). -/
def channelEntry (d : Word) (c : Channel) : Channel :=
  let v := d.toNat
  { c with en := bitOf v 28, fire := bitOf v 27, merge := bitOf v 26, latest := bitOf v 25, depth := bits v 21 4, scale := d.extractLsb' 18 3, fmt := d.extractLsb' 11 7, prio := d.extractLsb' 7 4, tgtCfg := d.extractLsb' 0 7, tgt := d.extractLsb' 0 7 }

/-- An out-queue entry (R118). -/
def queueOk (d : Word) : Bool := bits d.toNat 14 50 == 0 && bits d.toNat 5 4 == 0
def queueEntry (d : Word) (q : OutQueue) : OutQueue := { q with en := d.getLsbD 13, infl := bits d.toNat 9 4, dch := d.extractLsb' 0 5 }

/-- A slot entry that R122 does not refuse. -/
def slotOk (e : Nat) : Bool :=
  bits e 19 13 == 0 && !bitOf e 15 && (List.range 5).all (fun o => sourceOf e o ≤ 5 && sourceOf e o != o + 1) &&
    (bits e 16 3 == 0 || (List.range 5).any fun o => sourceOf e o == 5)

/-- A handler entry (R130). -/
def handlerOk (d : Word) : Bool := bits d.toNat 23 41 == 0 && bits d.toNat 14 2 == 0 && bits d.toNat 0 2 == 0
def handlerEntry (d : Word) (h : Handler) : Handler :=
  { h with v := d.getLsbD 22, start := d.getLsbD 21, maskCfg := d.getLsbD 20, mask := d.getLsbD 20, prioCfg := d.extractLsb' 16 4, prio := d.extractLsb' 16 4, entry := d.extractLsb' 0 14, pc := d.extractLsb' 0 14 }

/-- A format and scale entry (R131). -/
def formatOk (d : Word) : Bool := bits d.toNat 7 57 == 0 && bits d.toNat 3 3 != 5 && bits d.toNat 3 3 != 6 && bits d.toNat 0 2 != 3
def formatEntry (d : Word) (c : Channel) : Channel :=
  { c with sat := d.getLsbD 6, rm := d.extractLsb' 3 3, ssrc := d.getLsbD 2, blk := d.extractLsb' 0 2 }

/-- The words of a node (R141-R143). -/
def controllerOk (w0 w1 : Word) : Bool :=
  bits w0.toNat 40 24 == 0 && ctlKind w0 != 3 && bits w0.toNat 33 3 == 0 && bits w1.toNat 48 16 == 0 && bits w1.toNat 32 8 == 0
def arbiterOk (w1 : Word) : Bool := bits w1.toNat 16 48 == 0 && 1 ≤ arbLimit w1 && arbLimit w1 ≤ 8
def generatorOk (w1 : Word) : Bool := bits w1.toNat 8 56 == 0

/-- Whether the data words of a group are refused. -/
def CfgGroup.entriesOk (g : CfgGroup) : Bool :=
  let w (i : Nat) : Word := g.data.getD i 0
  match g.table with
  | 0 => (g.data.mapIdx fun i d => if g.index + i < 32 then channelOk d else queueOk d).all id
  | 1 => g.data.all fun d => slotOk (bits d.toNat 0 32) && slotOk (bits d.toNat 32 32)
  | 3 => g.data.all handlerOk
  | 6 => controllerOk (w 0) (w 1)
  | 7 => arbiterOk (w 1)
  | 8 => g.data.all formatOk
  | 9 => g.index == 0 || generatorOk (w 1)
  | _ => true

/-! ### The cells an image makes -/

/-- A cell that an image configures takes the words of one group. -/
def Cell.configure (g : CfgGroup) (c : Cell) : Cell :=
  let w (i : Nat) : Word := g.data.getD i 0
  let each (f : Nat → Word → Cell → Cell) (c : Cell) : Cell := (g.data.mapIdx fun i d => (g.index + i, d)).foldl (fun c e => f e.1 e.2 c) c
  match g.table with
  | 0 => each (fun n d c =>
      if n < 32 then c.onChan (BitVec.ofNat 5 n) (channelEntry d) else c.onQueue (BitVec.ofNat 3 (n - 32)) (queueEntry d)) c
  | 1 => { c with slots := sputs 0 g.index (g.data.flatMap fun d => [d.extractLsb' 0 32, d.extractLsb' 32 32]) c.slots }
  | 2 => c.onChan (BitVec.ofNat 5 g.index) fun C =>
      { C with const := true, nextConst := some (g.data.flatMap fun d => [d.extractLsb' 0 32, d.extractLsb' 32 32]) }
  | 3 => each (fun n d c => c.onHnd (BitVec.ofNat 6 n) (handlerEntry d)) c
  | 4 => { c with istore := sputs 0 (2 * g.index) (g.data.flatMap fun d => [d.extractLsb' 0 32, d.extractLsb' 32 32]) c.istore }
  | 5 =>
    let c1 := c.storeAt (32 * g.index) (g.data.flatMap fun d => bytesOf 8 d.toNat)
    if g.empty then { c1 with emptyWords := sputs false (8 * g.index) (List.replicate (2 * g.data.length) true) c1.emptyWords } else c1
  | 6 => c.putNode (BitVec.ofNat 2 g.index) (.controller (w 0) (w 1) false false 0 0 [0, 0, 0, 0] [0, 0, 0, 0] [0, 0, 0, 0])
  | 7 => c.putNode (BitVec.ofNat 2 g.index) (.arbiter (w 0) (w 1) (arbArcs (w 1) - 1) [])
  | 8 => each (fun n d c => c.onChan (BitVec.ofNat 5 n) (formatEntry d)) c
  | _ => if g.index = 0 then { c with k := { c.k with dkey := w 0 } }
      else c.putNode (BitVec.ofNat 2 (g.index - 1)) (.generator (w 0) (w 1))

/-- The mark of a group, for CFGIDX (R334): table 4, 6, 7 and 9 groups with what they wrote. -/
def CfgGroup.mark (number : Nat) (g : CfgGroup) : CfgMark := ⟨number, g.table, g.index, g.data.length⟩

/-- The board-relative place of a group, as a key. -/
def CfgGroup.key (g : CfgGroup) : Nat := 64 * g.row + g.hop

/-- The configured cells of a board, by board-relative row and column (64 × row + column). -/
def configured : List CfgGroup → List (Nat × Cell) → List (Nat × Cell)
  | [], m => m
  | g :: r, m =>
    let c := (aget m g.key).getD Cell.reset
    configured r (aput g.key { c.configure g with marks := c.marks ++ [g.mark c.marks.length] } m)

/-! ### Circuits and cycles (R114, R124, R139) -/

/-- A cell of a configured board. -/
def imgCell (m : List (Nat × Cell)) (key : Nat) : Cell := (aget m key).getD Cell.reset

/-- The board-relative neighbour in a direction, if it lies on a board of h by w cells (R114). -/
def imgNeighbour (h w key : Nat) (out : Nat) : Option Nat :=
  let r := key / 64
  let c := key % 64
  match out with
  | 0 => if r = 0 then none else some (key - 64)
  | 1 => if c + 1 < w then some (key + 1) else none
  | 2 => if r + 1 < h then some (key + 64) else none
  | _ => if c = 0 then none else some (key - 1)

/-- The direction opposite to one. -/
def opposite (out : Nat) : Nat := (out + 2) % 4

/-- Whether the connections of one slot of a cell match those of its neighbours (R114, R124). -/
def slotMatches (m : List (Nat × Cell)) (h w key slot : Nat) : Bool :=
  let e := (imgCell m key).slotEntry slot
  let out (o : Nat) : Bool :=
    let src := sourceOf e o
    src == 0 ||
      ((o == 4 || (match imgNeighbour h w key o with
          | none => false
          | some k => let e' := (imgCell m k).slotEntry (slot + 1); (List.range 5).any fun p => sourceOf e' p == inputOf o)) &&
       (src == 5 || (match imgNeighbour h w key (src - 1) with
          | none => false
          | some k => sourceOf ((imgCell m k).slotEntry (slot + 255)) (opposite (src - 1)) != 0)))
  (List.range 5).all out && (!((List.range 5).any fun o => sourceOf e o == 5) || ((imgCell m key).queue (BitVec.ofNat 3 (bits e 16 3))).en)

/-- The ends of a circuit on a configured board, with their hops. -/
def imgEnds (m : List (Nat × Cell)) (h w : Nat) : Nat → Nat → Nat → Nat → Nat → List (Nat × Nat)
  | 0, _, _, _, _ => []
  | fuel + 1, key, src, slot, hops =>
    let e := (imgCell m key).slotEntry slot
    (if sourceOf e 4 = src then [(key, hops)] else []) ++
      ((List.range 4).filter fun o => sourceOf e o == src).flatMap fun o =>
        match imgNeighbour h w key o with
        | none => []
        | some k => imgEnds m h w fuel k (inputOf o) (slot + 1) (hops + 1)

/-- The slots that feed the local input of a cell from an out-queue. -/
def feedSlots (c : Cell) (q : BitVec 3) : List Nat := (List.range 256).filter fun s => c.feeds q s

/-- The ends of an out-queue's circuit, when its slots agree on them and on their hops and each is an existing channel (R124). -/
def queueEnds (m : List (Nat × Cell)) (h w key : Nat) (q : BitVec 3) : Option (List Nat) :=
  let c := imgCell m key
  let per := (feedSlots c q).map fun s => imgEnds m h w circuitFuel key 5 s 0
  let all := per.flatten
  let ends := (all.map Prod.fst).eraseDups
  let same := per.all fun l => ends.all fun e => l.any fun x => x.1 == e
  let hops := all.all fun x => all.all fun y => x.1 != y.1 || x.2 == y.2
  if same && hops && ends.all fun e => ((imgCell m e).chanAt (c.queue q).dch).en then some ends else none

/-- The edges of R139: from, to, capacity less INFL. LATEST ends are none. -/
def cycleEdges (m : List (Nat × Cell)) (h w : Nat) : List (Nat × Nat × Int) :=
  m.flatMap fun e => (List.range 8).flatMap fun i =>
    let q := BitVec.ofNat 3 i
    let Q := e.2.queue q
    ((queueEnds m h w e.1 q).getD []).filterMap fun d =>
      let C := (imgCell m d).chanAt Q.dch
      if C.latest then none else some (e.1, d, (C.depth : Int) + 2 - Q.infl)

/-- One relaxation of every edge of a graph with weights scaled so that a cycle of weight 0 or less becomes negative. -/
def relax (v : Int) (edges : List (Nat × Nat × Int)) (dist : List (Nat × Int)) : List (Nat × Int) :=
  edges.foldl (fun d e =>
    let a := (aget d e.1).getD 0 + (e.2.2 * (v + 1) - 1)
    if a < (aget d e.2.1).getD 0 then aput e.2.1 a d else d) dist

/-- n relaxations. -/
def relaxes (v : Int) (edges : List (Nat × Nat × Int)) : Nat → List (Nat × Int) → List (Nat × Int)
  | 0, d => d
  | n + 1, d => relaxes v edges n (relax v edges d)

/-- Whether every directed cycle holds more than its out-queues declare in flight (R139). -/
def cyclesOk (edges : List (Nat × Nat × Int)) : Bool :=
  let v := (edges.flatMap fun e => [e.1, e.2.1]).eraseDups.length
  let d := relaxes v edges v []
  relax v edges d == d

/-- Whether the channels of a cell are consistent with its handlers and constants (R121, R130). -/
def Cell.channelsOk (c : Cell) : Bool :=
  c.chan.toList.all fun C =>
    (!C.const || C.latest) && (!C.en || 64 ≤ C.tgt.toNat || ((c.hnd.toList.getD C.tgt.toNat Handler.reset).v))

/-- The loader's check of an image for a board of h by w cells: its groups, or none for CONFIG_CHECK (R114, R124, R128, R139). -/
def checkImage (h w : Nat) (words : List Word) : Option (List CfgGroup) :=
  match parseGroups words.length words with
  | none => none
  | some gs =>
    let m := configured gs []
    if gs.all (fun g => g.inLimits h w && g.entriesOk) && noClash gs && m.all (fun e => e.2.channelsOk) &&
        m.all (fun e => (List.range 256).all fun s => slotMatches m h w e.1 s) &&
        m.all (fun e => (List.range 8).all fun q => (queueEnds m h w e.1 (BitVec.ofNat 3 q)).isSome) && cyclesOk (cycleEdges m h w)
    then some gs else none

/-! ### Boards (R112, R113) -/

/-- The absolute cell of a board-relative row and column (R113). -/
def Board.cellAt (b : Board) (r c : Nat) : CellId := BitVec.ofNat 2 b.die ++ BitVec.ofNat 6 (8 * b.brow + r) ++ BitVec.ofNat 6 (8 * b.bcol + c)

/-- Every cell of a board, in board-relative row and column order. -/
def Board.cells (b : Board) : List CellId :=
  (List.range (8 * b.h)).flatMap fun r => (List.range (8 * b.w)).map fun c => b.cellAt r c

/-- A board by its number. -/
def Package.board (p : Package) (id : Nat) : Option Board := p.boards.find? (·.id == id)

/-- A board changed. -/
def Package.onBoard (id : Nat) (f : Board → Board) (p : Package) : Package :=
  { p with boards := p.boards.map fun b => if b.id == id then f b else b }

/-- The board a cell lies on. -/
def State.boardOf (s : State) (c : Cell) : Option Board := c.board.bind fun id => s.pkg.board id

/-- The launch whose load runs on a cell. -/
def State.launchAt (s : State) (c : CellId) : Option Nat := (s.pkg.boards.find? fun b => b.holds c).bind (·.launch)

/-! ### The end of a load (R134, R163, R218, R335) -/

/-- Whether an access outlives its load: stores, atomics and the operations on streams that publish, release or close (R134, R332). -/
def Access.outlives (a : Access) : Bool := a.released

/-- Whether an access keeps its reply buffer when its load ends: its reply is still due and is discarded (R134, R338). Of a request to
another package, or to a home of a group or conversation, the request itself says so (`State.busy`). -/
def Access.replyDue (a : Access) : Bool :=
  match a.op with
  | .await | .awaitLine _ => false
  | .stream _ _ => true
  | _ => a.loc.remote

/-- What a cell keeps when its load ends: the writes on their way, the loads whose reply is discarded, and page-ins, which are never
cancelled (R134, R335, R338, R340). -/
def Cell.emptied (c : Cell) : Cell :=
  { Cell.reset with
    inflight := (c.inflight.filter fun a => a.outlives || a.replyDue).map fun a =>
      { a with dst := .none, set := 0, acq := false, l1 := false, live := false, gone := true }
    nextId := c.nextId
    cp := ⟨(c.cp.q.filter fun x : Cmd => x.internal) ++ (c.kv.q.filter fun x : Cmd => x.verb == 3).map fun x : Cmd =>
      { x with internal := true, lane := 1, sb := 0, done := 0, waits := none }, []⟩
    board := c.board
    stopped := true
    k := { KRegs.reset with ctx := c.k.ctx, lvl := c.k.lvl } }

/-- The slots that cells of a board hold in the streams of its context are released by Leave (R218), but those that a pre-empted launch took
there. -/
def leaveStreams (b : Board) (s : State) : State :=
  (s.pkg.bound.filter fun x => x.ctx == b.ctx).foldl (fun s x =>
    ((s.pkg.record x.pa).taken.filterMap id).foldl (fun s o =>
      if o.1 != 0x3FFF && o.1 != 0x3FFE && b.holds o.1 && !(s.pkg.launches.any fun l : Launch => l.saved.any fun v => v.slots.contains (x.pa, o.1)) then changeRecord x ((s.pkg.record x.pa).leave o.1) s else s) s) s

/-- Whether a request in flight is one of the load of a board. -/
def OutReq.on (b : Board) (o : OutReq) : Bool := b.holds o.req.cell && o.launch == b.launch && o.away.isNone

/-- The packets and credits on the circuits of a board are discarded, and replies still due to its cells find no access (R134). -/
def Package.clearBoard (b : Board) (p : Package) : Package :=
  { p with
    wire := p.wire.filter fun f => !b.holds f.src
    creditWire := p.creditWire.filter fun e => !b.holds e.1
    joins := p.joins.filter fun j => !b.holds j.cell
    raised := p.raised.filter fun c => !b.holds c
    peers := (p.mapOut fun o => if o.on b then { o with access := none, gone := true } else o).peers }

/-- The roles that the load of a board holds in conversations: those homed here are noted, and the other homes are told (R396). What is still to be
delivered to it for a role that it has delegated goes with it. -/
def endRoles (b : Board) (s : State) : State :=
  let gone := s.pkg.convs.flatMap fun e =>
    (List.range 8).filterMap fun i =>
      match e.2.role.toList.getD i none with
      | some x => if x.pkg == s.pkg.number && b.holds x.cell && e.2.owner.toList.getD i none == b.launch then some (BitVec.ofNat 12 e.1, BitVec.ofNat 3 i, x) else none
      | none => none
  let mine (q : Binding) : Bool := b.holds q.cell && q.launch == b.launch
  let left (v : Conv) (m : ConvMsg) : Bool :=
    m.own == b.launch && m.dest != v.role.toList.getD m.role.toNat none && m.dest.any fun x => x.pkg == s.pkg.number && b.holds x.cell
  let s1 := s.onPkg fun p =>
    { p with
      convs := p.convs.map fun e => (e.1, { e.2 with msgs := e.2.msgs.filter fun m => !left e.2 m })
      endings := p.endings ++ gone
      bindings := p.bindings.filter fun q => !mine q }
  (s.pkg.bindings.filter mine).foldl (fun s q => emit (.endpointEnded q.home q.entry q.role ⟨s.pkg.number, q.cell, q.ch⟩) s) s1

/-- The load of a board ends: its slots leave their streams and its cells are emptied (R134, R218, R335). -/
def endLoad (b : Board) (s : State) : State :=
  endRoles b (leaveStreams b ((s.onPkg (Package.clearBoard b)).mapCells fun id c => if b.holds id && c.board == some b.id then c.emptied else c))

/-- Whether an entry in flight is a request to memory or to another package: a value on its way from a unit of the cell is none, nor is the
status of the loader (R163). -/
def Access.request (a : Access) : Bool :=
  match a.op with
  | .value _ _ | .packet _ => a.loc != .none
  | .await => fMajor a.word != 0x33#6
  | _ => true

/-- Whether a cell has nothing outstanding and nothing waiting (R163). A page-in that a walker started itself is no command of the board here,
though its release waits for it (R338); R163 does not say (log 72). -/
def Cell.quiescent (c : Cell) : Bool :=
  c.hnd.toList.all (fun h => h.st == .idle) && c.chan.toList.all (fun C => C.latest || C.pkts.isEmpty) && c.outq.toList.all (·.pkts.isEmpty) &&
    c.inflight.all (fun a => a.gone || !a.request) && allEngines.all (fun e => (c.engine e).q.all (·.internal) && (c.engine e).held.isEmpty) && c.chan.toList.all fun C => C.nextConst.isNone

/-- Whether a board is quiescent (R163). -/
def State.quiescent (s : State) (b : Board) : Bool :=
  (s.cells.all fun e => !b.holds e.1 || e.2.quiescent) &&
    !(s.pkg.peers.any fun e => e.2.out.any fun o => o.on b && !o.gone)

/-! ### First firing (R11, R121, R134, R325) -/

/-- The credits of an out-queue at first firing, and whether it needs any: LATEST ends take no part (R123; log 71). -/
def firstCredits (m : List (Nat × Cell)) (h w key : Nat) (q : BitVec 3) (Q : OutQueue) : OutQueue :=
  let depths := ((queueEnds m h w key q).getD []).filterMap fun d =>
    let C := (imgCell m d).chanAt Q.dch
    if C.latest then none else some C.depth
  match depths with
  | [] => Q
  | d :: r => { Q with toQueue := true, credits := r.foldl min d }

/-- A root controller starts with COUNT iterations (R141). -/
def Node.first : Node → Node
  | .controller w0 w1 run ended j n sent returned late =>
    if ctlRoot w0 then .controller w0 w1 true ended j (ctlCount w0) sent returned late else .controller w0 w1 run ended j n sent returned late
  | x => x

/-- The constants of a cell arrive, as packets with END = 1, as those of `arg.set` do (R121, R161). DEDUCED (log 71): also in a channel
whose EN is 0, where FIRE still makes the handler of TGT RUNNABLE. -/
def Cell.constants (c : Cell) : Cell :=
  ((List.range 32).map (BitVec.ofNat 5)).foldl (fun c ch =>
    match (c.chanAt ch).nextConst with
    | some lanes => (c.onChan ch fun C => { C with nextConst := none }).enter false ch (packetOf lanes true false)
    | none => c) c

/-- What a load gives every cell of its board beside the image (R162, R325). -/
structure Fire where
  board : Board
  lvl : Bool
  ctx : BitVec 6
  windows : List (Word × Word)
  deriving DecidableEq, Repr

/-- The channels at which circuits of a configured board end, as (cell, channel). -/
def circuitChannels (m : List (Nat × Cell)) (h w : Nat) : List (Nat × Nat) :=
  m.flatMap fun e => (List.range 8).flatMap fun i =>
    ((queueEnds m h w e.1 (BitVec.ofNat 3 i)).getD []).map fun d => (d, (e.2.queue (BitVec.ofNat 3 i)).dch.toNat)

/-- A cell at the first firing of a load: R11, its configuration, the load's k-registers, its START handlers RUNNABLE, where they exist
(V = 1; R130, log 71), and its constants present. The accesses that outlive the old load go on. -/
def Cell.first (f : Fire) (m : List (Nat × Cell)) (ends : List (Nat × Nat)) (key : Nat) (old : Cell) : Cell :=
  let c := imgCell m key
  let started : Cell :=
    { c with
      outq := c.outq.mapFinIdx fun i Q _ => firstCredits m (8 * f.board.h) (8 * f.board.w) key (BitVec.ofNat 3 i) Q
      chan := c.chan.mapFinIdx fun i C _ => { C with circuit := ends.contains (key, i) }
      node := c.node.map Node.first
      hnd := c.hnd.map fun h => if h.start && h.v then { h with st := .runnable, byStart := true } else h
      inflight := old.inflight
      nextId := old.nextId
      cp := old.cp
      board := some f.board.id
      k := { c.k with
        lvl := f.lvl
        ctx := f.ctx
        pwb := Vector.ofFn fun i => ((f.windows.getD i.val (0, 0)).1 &&& ~~~(0x3F#64))
        pws := Vector.ofFn fun i => (f.windows.getD i.val (0, 0)).2 &&& 0xFF_FFFF_FFFF#64 } }
  started.constants

/-- The next load of a board first fires on every cell (R134). -/
def fireBoard (f : Fire) (gs : List CfgGroup) (s : State) : State :=
  let m := configured gs []
  let ends := circuitChannels m (8 * f.board.h) (8 * f.board.w)
  (List.range (8 * f.board.h)).foldl (fun s r =>
    (List.range (8 * f.board.w)).foldl (fun s c => s.atCell (f.board.cellAt r c) (Cell.first f m ends (64 * r + c))) s) s

end Sys2Proof.Machine
end

