-- ==== Sys2Proof/Machine/Engine.lean ====
section
/-! DEFINITION. What the engines share: issuing a command (R62-R66, R230, R258), an engine's accesses to memory (R200, R207, R216,
R217, R272), its stalls and waits (R208, R222), its faults (R333, R334) and its reports (R64, R66). -/

namespace Sys2Proof.Machine

/-! ### Issue (R63, R65) -/

/-- The unit code of a stall notice (R226). -/
def engineSrc : Engine → Nat
  | .mx => 1 | .cp => 2 | .kv => 3 | .sk => 4 | .ch => 5 | .gs => 6

/-- The commands a unit accepts from a cell before they complete (R193, R269, R291); the sequencer has no limit. The commands `queued` of R193 are
taken as all uncompleted ones, the one in progress and tokens held included, as R269 and R291 count (log 32). -/
def engineLimit : Engine → Option Nat
  | .mx | .cp | .kv => some 4
  | .sk | .ch => some 2
  | .gs => none

/-- The commands that count against the limit of a unit, held tokens included (R66). -/
def EngineQ.load (q : EngineQ) (lane : Nat) : Nat := (q.q.filter (·.lane == lane)).length + (q.held.filter (·.unit == lane)).length

/-- Words 1 to 3 of a command after substitution (R63), read in order. -/
def substituted (h : CmdHead) (w1 w2 w3 : W32) (s : State) (k : W32 → W32 → W32 → State) : State :=
  let one (on : Bool) (w : W32) (f : W32 → State) : State := if on then readX (w.setWidth 5) s fun v => f (v.setWidth 32) else f w
  let rest (a b : W32) : State := one (h.subst.getLsbD 2) w3 fun c => k a b c
  if h.subst.getLsbD 3 then readX (w1.setWidth 5) s fun v => rest (v.setWidth 32) (v.extractLsb' 32 32)
  else one (h.subst.getLsbD 0) w1 fun a => one (h.subst.getLsbD 1) w2 fun b => rest a b

/-- The command as its engine accepts it, with what it takes at issue (R63, R110, R273), and the accesses to cell store it begins after: the
activation's writes and its `ld.sync` (R255, R258). -/
def Cell.command (c : Cell) (verb : Nat) (h : CmdHead) (w1 w2 w3 : W32) (lane : Nat) : Cmd :=
  { verb := verb, w1 := w1, w2 := w2, w3 := w3, word0 := c.wordAt c.pc, hnd := c.cur.getD 0, pc := c.pc, done := h.done, chan := h.chan,
    sb := h.sb, rm := c.k.rm, sat := c.k.sat, scales := c.k.scale, dkey := c.k.dkey, draw := c.draw.setWidth 32, unit := 0, flags := 0,
    stalled := false, note := 0, internal := false, ctx := c.k.ctx, orphan := false, waits := none, lane := lane, begun := false, desc := [],
    after := c.idsWhere fun a => c.own a && (a.writes || fMajor a.word == 0x1D#6) && a.loc.inCell, iter := 0, index := 0, bodyNote := 0, buf := [] }

/-- The address in words 1 and 2 of a command. -/
def Cmd.addr (x : Cmd) : Word := x.w2 ++ x.w1

/-- The unit that performs a command (R291): for engine 3 the sketch unit of the home slice of the descriptor; 288 where its
page is not found. -/
def unitOf (e : Engine) (a : Word) (s : State) : Nat :=
  match e with
  | .sk =>
    match (translate s.cell.k.ctx a s.pkg).1 with
    | .ok (pa, at') => let h := homeSlice pa at'; 72 * h.1 + h.2
    | _ => 288
  | _ => 0

/-- A command joins its engine's queue, and its slot counts it (R230). -/
def Cell.accept (e : Engine) (x : Cmd) (c : Cell) : Cell :=
  (c.putEngine e { c.engine e with q := (c.engine e).q ++ [x] }).onSlot x.sb (· + 1)

/-- A command is offered to its engine: held while its slot is full (R230) or its unit is (R65); `take` is what acceptance does. -/
def issueTo (e : Engine) (verb : Nat) (h : CmdHead) (w1 w2 w3 : W32) (s : State) (take : Cmd → State → State) : State :=
  substituted h w1 w2 w3 s fun a b c =>
    let lane := unitOf e (b ++ a) s
    if s.cell.acquiring then hold .staying s
    else if h.sb ≠ 0 ∧ s.cell.slot h.sb ≥ 63 then hold .staying s
    else if (engineLimit e).any (· ≤ (s.cell.engine e).load lane) then hold (.expiring (.queue e)) s
    else advance 16 (take (s.cell.command verb h a b c lane) s)

/-- A command of an engine without sections. -/
def issue (e : Engine) (verb : Nat) (h : CmdHead) (w1 w2 w3 : W32) (s : State) : State :=
  issueTo e verb h w1 w2 w3 s fun x s => s.onCell (Cell.accept e x)

/-! ### Faults of a command (R272, R333, R334) -/

/-- A fabric-load fault of a command: its record names the four words. -/
def Cell.cmdFault (x : Cmd) (code : Byte) (info : W32) (c : Cell) : Cell :=
  c.withFault { code := code, detail := 0, t := c.k.t, src := 2, hnd := x.hnd.setWidth 7, word := x.word0, pc := x.pc, info := info,
                aux0 := x.w3, aux1 := x.addr }

/-! ### Accesses of an engine -/

/-- What an access of an engine meets. -/
inductive Io (α : Type) where
  | ok (a : α) (s : State)
  /-- It cannot go on: the head or window it waits at, or a translation stall. -/
  | block (wait : Option ParkKey) (stalled : Bool) (s : State)
  | fault (code : Byte) (s : State)

/-- The next access after one that succeeded. -/
def Io.bind {α β : Type} (x : Io α) (f : α → State → Io β) : Io β :=
  match x with
  | .ok a s => f a s
  | .block w b s => .block w b s
  | .fault c s => .fault c s

/-- Where the bytes of an engine's access lie. -/
inductive Spot where
  | cell (off : Nat)
  | phys (l : List (Nat × Nat))
  | frame (l : List (Place × Nat))
  deriving DecidableEq, Repr

/-- The places of n bytes in stream space (R216, R217, R272); a write to the record of a bound stream is a fault (R267). -/
def streamSpot (wr : Bool) (e : Engine) (num : BitVec 15) (pos : BitVec 48) (n : Nat) (s : State) : Io Spot :=
  let s1 := if s.cell.win.any (fun w : WinRec => w.num == num) then s else fetchRecord num s
  match s1.cell.win.find? fun w : WinRec => w.num == num with
  | none => .fault cENGINE_FAULT s1
  | some w =>
    let fin := pos + BitVec.ofNat 48 n
    let go : Io Spot :=
      match frameSpan wr s1.cell.k.ctx (s1.pkg.framesOf s1.cell.k.ctx num) w.back w.k w.logn pos n s1.pkg with
      | (.ok l, p) =>
        if wr && l.any fun q => !p.writable q.1 q.2 then .fault cENGINE_FAULT { s1 with pkg := p } else .ok (.frame l) (({ s1 with pkg := p }).onCell (Cell.touchWin num))
      | (.stall l v, p) =>
        .block none true (noteStall s1.cell.k.ctx s1.here (engineSrc e) (if wr then 1 else 0) l v (({ s1 with pkg := p }).onCell (Cell.touchWin num)))
      | (.bad, p) => .fault cENGINE_FAULT { s1 with pkg := p }
    if wr then
      if w.closed || before pos w.head || spansFrames w.k pos n then .fault cENGINE_FAULT s1
      else if before (w.tail + w.cap) fin then .block (some (.window num fin)) false s1
      else go
    else
      match w.slot with
      | none => .fault cENGINE_FAULT s1
      | some t =>
        if before pos t || spansFrames w.k pos n then .fault cENGINE_FAULT s1
        else if !before w.head fin then go
        else if w.closed then .fault cENGINE_FAULT s1
        else .block (some (.head num fin)) false s1

/-- The places of n bytes of an engine's access. A write to the record of a bound stream is a fault (R267). -/
def spot (wr : Bool) (e : Engine) (va : Word) (n : Nat) (s : State) : Io Spot :=
  match region va n with
  | .none => .fault cENGINE_FAULT s
  | .cell off => .ok (.cell off) s
  | .stream num pos => streamSpot wr e num pos n s
  | .global =>
    match placeRange (!wr) wr s.cell.k.ctx va.toNat n s.pkg with
    | (.ok l, p) => if wr && l.any fun q => p.inRecord q.1 q.2 then .fault cENGINE_FAULT { s with pkg := p } else .ok (.phys l) { s with pkg := p }
    | (.stall l v, p) => .block none true (noteStall s.cell.k.ctx s.here (engineSrc e) (if wr then 1 else 0) l v { s with pkg := p })
    | (.bad, p) => .fault cENGINE_FAULT { s with pkg := p }

/-- The bytes at a spot. -/
def spotBytes (sp : Spot) (n : Nat) (s : State) : List Byte :=
  match sp with
  | .cell off => s.cell.load off n
  | .phys l => l.flatMap fun q => s.pkg.read q.1 q.2
  | .frame l => l.flatMap fun q => (readPlace q.1 q.2 s).1

/-- Whether the bytes at a spot meet data that cannot be corrected (R331). -/
def spotBad (sp : Spot) (n : Nat) (s : State) : Bool :=
  match sp with
  | .cell off => s.cell.damagedAt off n
  | .phys l => l.any fun q => s.pkg.damaged q.1 q.2
  | .frame l => l.any fun q => (readPlace q.1 q.2 s).2

/-- Bytes written at a spot. -/
def writeSpot (sp : Spot) (data : List Byte) (s : State) : State :=
  match sp with
  | .cell off => s.onCell (Cell.storeAt off data)
  | .phys l => s.onPkg (Package.writePieces l data)
  | .frame l => writePlaces l data s

/-- An engine reads n bytes that may not be damaged. -/
def readMem (e : Engine) (va : Word) (n : Nat) (s : State) : Io (List Byte) :=
  (spot false e va n s).bind fun sp s => if spotBad sp n s then .fault cUNCORRECTABLE s else .ok (spotBytes sp n s) s

/-- An engine writes bytes. -/
def writeMem (e : Engine) (va : Word) (data : List Byte) (s : State) : Io Unit :=
  (spot true e va data.length s).bind fun sp s => .ok () (writeSpot sp data s)

/-- Several accesses in order. -/
def Io.each {α β : Type} (f : α → State → Io β) : List α → State → Io (List β)
  | [], s => .ok [] s
  | a :: r, s => (f a s).bind fun b s => (Io.each f r s).bind fun l s => .ok (b :: l) s

/-- Several writes that either all happen or none: every place is found before the first byte is written. -/
def writeAll (e : Engine) (l : List (Word × List Byte)) (s : State) : Io Unit :=
  (Io.each (fun (q : Word × List Byte) s => spot true e q.1 q.2.length s) l s).bind fun sp s =>
    .ok () ((sp.zip l).foldl (fun s q => writeSpot q.1 q.2.2 s) s)

/-! ### What one unit of a command comes to -/

/-- The outcome of one unit of a command. -/
inductive Ran where
  /-- The command has units left. -/
  | more (x : Cmd) (s : State)
  /-- The command has had its last effect: the token's lane, and the cell-store ranges that become full under mode 1. -/
  | done (x : Cmd) (lane : W32) (fill : List (Nat × Nat)) (s : State)
  | block (wait : Option ParkKey) (stalled : Bool) (s : State)
  | fault (code : Byte) (info : W32) (s : State)

/-- A unit that goes on after an access; a fault records the unit reached. -/
def Io.ran {α : Type} (info : W32) (x : Io α) (f : α → State → Ran) : Ran :=
  match x with
  | .ok a s => f a s
  | .block w b s => .block w b s
  | .fault c s => .fault c info s

/-- The command fails with ENGINE_CMD and takes no effect (R272). -/
def refused (s : State) : Ran := .fault cENGINE_CMD 0 s

/-- The channel that mode 2 names may take a completion token (R66). -/
def Cell.tokenChannel (c : Cell) (x : Cmd) : Bool :=
  x.done != 2 || (let C := c.chanAt x.chan; C.en && C.tgt.toNat < 64 && !C.circuit)

/-! ### Reports (R64, R66) -/

/-- A token of a command enters its channel through the local port: it never merges (R66). -/
def Cell.tokenIn (t : HeldToken) (c : Cell) : Cell := c.enter false t.chan (packetOf [t.lane] true false)

/-- The slot of a command counts down, and waits on it wake (R64, R230). -/
def Cell.slotDown (sb : BitVec 3) (c : Cell) : Cell :=
  let c1 := c.onSlot sb (· - 1)
  if sb ≠ 0 && c1.slot sb == 0 then c1.wakeOn (.slot sb) else c1

/-- A place frees in an engine's queue (R65). -/
def Cell.engineFree (e : Engine) (c : Cell) : Cell := c.wakeOn (.queue e)

/-- A completion counter advances (R64). -/
def Cell.count (n : BitVec 3) (c : Cell) : Cell :=
  ({ c with k := { c.k with ecnt := c.k.ecnt.set n.toNat (c.k.ecnt[n.toNat]'n.isLt + 1) n.isLt } }).wakeCounter n

/-- Whether a token may enter its channel now: there is room, and no earlier token of the engine waits for it. -/
def Cell.tokenRoom (e : Engine) (ch : ChIdx) (c : Cell) : Bool := (c.chanAt ch).room && !((c.engine e).held.any (·.chan == ch))

/-- The i-th command of an engine's queue is gone. -/
def Cell.dequeue (e : Engine) (i : Nat) (c : Cell) : Cell := c.putEngine e { c.engine e with q := delNth i (c.engine e).q }

/-- A command has completed: its flags merge, and it reports by its mode (R64, R66, R273). -/
def Cell.report (e : Engine) (i : Nat) (x : Cmd) (lane : W32) (fill : List (Nat × Nat)) (c : Cell) : Cell :=
  let c1 := c.dequeue e i
  if x.internal then c1
  else
    let finish (c : Cell) : Cell := ((c.mergeFlags x.flags).slotDown x.sb).engineFree e
    if x.done = 1 then finish (fill.foldl (fun c r => c.fillWords r.1 r.2) c1)
    else if x.done = 2 then
      let t : HeldToken := ⟨x.chan, lane, x.sb, x.flags, x.lane⟩
      if c1.tokenRoom e x.chan then finish (c1.tokenIn t) else c1.putEngine e { c1.engine e with held := (c1.engine e).held ++ [t] }
    else if x.done = 3 then finish (c1.count (x.chan.setWidth 3))
    else finish c1

/-- COMPLETION_TOKEN_ENTRY: the oldest held token whose channel has room enters it, and its command is complete (R66). -/
def execCompletionTokenEntry (c : CellId) (e : Engine) (s : State) : Result :=
  .next (s.atCell c fun x =>
    let held := (x.engine e).held
    if x.stopped then x
    else match held.findIdx? fun t => (x.chanAt t.chan).room with
      | none => x
      | some i =>
        match held[i]? with
        | none => x
        | some t =>
          ((((x.putEngine e { x.engine e with held := delNth i held }).tokenIn t).mergeFlags t.flags).slotDown t.sb).engineFree e)

/-! ### One step of an engine -/

/-- The i-th command of an engine's queue replaced. -/
def Cell.putCmd (e : Engine) (i : Nat) (x : Cmd) (c : Cell) : Cell := c.putEngine e { c.engine e with q := modNth (fun _ => x) i (c.engine e).q }

/-- The stream a key waits on. -/
def ParkKey.streamNum : ParkKey → BitVec 15
  | .head n _ | .window n _ => n
  | _ => 0

/-- A command cannot go on: it stalls, or it takes an entry of the wait table for a head or window where one is free (R208, R222), with the check
for a deadlock (R219); its access uses the window record either way (R266). -/
def blockCmd (e : Engine) (i : Nat) (x : Cmd) (w : Option ParkKey) (stalled : Bool) (s : State) : State :=
  match w with
  | none => s.onCell (Cell.putCmd e i { x with stalled := stalled })
  | some k =>
    if x.waits = some k then s
    else
      let s1 := s.onCell (Cell.putCmd e i { x with waits := none })
      if s1.cell.waitEntries < 64 then
        deadlockCheck s1.cell.k.ctx k.streamNum (s1.onCell fun c => (c.putCmd e i { x with waits := some k }).touchWin k.streamNum)
      else s1.onCell (Cell.touchWin k.streamNum)

/-- Whether a command is a page-in: `kv.pagein`, or one that a walker started (R302, R304). -/
def Cmd.isPagein (e : Engine) (x : Cmd) : Bool := x.verb == 3 && (e == .kv || e == .cp)

/-- What the outcome of a unit does to the i-th command of an engine; a page-in that faults is over. -/
def settle (e : Engine) (i : Nat) (x : Cmd) (r : Ran) : State :=
  match r with
  | .more y s => s.onCell (Cell.putCmd e i { y with waits := none })
  | .done y lane fill s => s.onCell (Cell.report e i y lane fill)
  | .block w b s => blockCmd e i x w b s
  | .fault code info s =>
    let t := s.onCell (Cell.cmdFault x code info)
    if x.isPagein e then t.onCell (Cell.dequeue e i) else t

/-- The commands of a queue that are the board's own: not the page-ins that a board released before has left (R338, R340). -/
def EngineQ.own (q : EngineQ) : List Cmd := q.q.filter fun x => !x.orphan

/-- The commands of a queue that are first of their unit, by their places. -/
def EngineQ.heads (q : EngineQ) : List Nat :=
  (List.range q.q.length).filter fun i =>
    match q.q[i]? with
    | some x => !((q.q.take i).any (·.lane == x.lane))
    | none => false

/-- One unit of the i-th command of an engine, if the command may move: it does not stall, and the writes it must see are
performed (R208, R258). -/
def stepCmd (e : Engine) (run : Cmd → State → Ran) (i : Nat) (s : State) : State :=
  match (s.cell.engine e).q[i]? with
  | none => s
  | some x =>
    if x.stalled || (!x.begun && x.after.any s.cell.flying) then s
    else settle e i x (run x s)

/-- The first command of an engine that moves, moves by one unit. In a cell that has stopped, or whose board is frozen or being
pre-empted, only page-ins move: they are never stopped (R332, R340). -/
def stepEngine (e : Engine) (run : Cmd → State → Ran) (s : State) : State :=
  let frozen := s.cell.stopped || !s.active s.cell
  let may (i : Nat) : Bool := !frozen || (((s.cell.engine e).q[i]?).any (Cmd.isPagein e))
  ((((s.cell.engine e).heads.filter may).map fun i => stepCmd e run i s).find? fun t => t != s).getD s

end Sys2Proof.Machine
end

