-- ==== Sys2Proof/Machine/Copy.lean ====
section
/-! DEFINITION. The copy engines: descriptors, the order of elements, and one chunk of a copy within the package (R291-R293, R295). -/

namespace Sys2Proof.Machine

/-- The verbs of engine 1 (R71). -/
abbrev vNd : Nat := 0
abbrev vGather : Nat := 1
abbrev vFill : Nat := 2

/-- A dword of a descriptor. -/
def dw (d : List Word) (i : Nat) : Word := d.getD i 0

/-! ### The descriptor (R292): fields of its 24 dwords -/

def cpSrc (d : List Word) : Word := dw d 0
def cpDst (d : List Word) : Word := dw d 1
def cpPkg (d : List Word) : Byte := (dw d 2).extractLsb' 16 8
def cpPaths (d : List Word) : Nat := bits (dw d 2).toNat 14 2 + 1
def cpRem (d : List Word) : Bool := (dw d 2).getLsbD 13
def cpIw (d : List Word) : Nat := bits (dw d 2).toNat 12 1
def cpNdim (d : List Word) : Nat := bits (dw d 2).toNat 3 3
def cpEsz (d : List Word) : Nat := bits (dw d 2).toNat 0 3
/-- The bytes of an element. -/
def cpElem (d : List Word) : Nat := 2 ^ cpEsz d
/-- CNT0 to CNT7. -/
def cpCnt (d : List Word) (i : Nat) : Nat := bits (dw d (3 + i / 2)).toNat (32 * (i % 2)) 32
def cpSstr (d : List Word) (i : Nat) : Word := dw d (7 + i)
def cpDstr (d : List Word) (i : Nat) : Word := dw d (14 + i)
def cpIdx (d : List Word) : Word := dw d 21
def cpPat (d : List Word) : Word := dw d 22

/-- The counts of the dimensions used. -/
def cpCounts (d : List Word) : List Nat := (List.range (cpNdim d)).map (cpCnt d)
/-- The number of elements. -/
def cpTotal (d : List Word) : Nat := (cpCounts d).foldl (· * ·) 1

/-- The index vector of the i-th element visited: dimension 0 varies fastest (R293). -/
def indexVector : List Nat → Nat → List Nat
  | [], _ => []
  | c :: r, i => i % c :: indexVector r (i / c)

/-- Σ nd × stride d, modulo 2^64 (R293). -/
def strideSum (stride : Nat → Word) (n : List Nat) : Word := ((n.mapIdx fun i k => BitVec.ofNat 64 k * stride i).foldl (· + ·) 0)

/-- The destination of the i-th element. -/
def cpDstAt (d : List Word) (i : Nat) : Word := cpDst d + strideSum (cpDstr d) (indexVector (cpCounts d) i)

/-- The checks of a descriptor (R292). -/
def cpOk (verb : Nat) (d : List Word) : Bool :=
  let v := (dw d 2).toNat
  let e := cpElem d
  let mult (w : Word) : Bool := w.toNat % e == 0
  bits v 24 40 == 0 && bits v 6 6 == 0 && cpNdim d != 0 && cpEsz d != 7 && (List.range 8).all (fun i => i < cpNdim d || cpCnt d i == 0) &&
    dw d 23 == 0 && (verb == vFill || mult (cpSrc d)) && mult (cpDst d) && (List.range 7).all (fun i => mult (cpSstr d i) && mult (cpDstr d i)) &&
    mult (cpIdx d) && (cpIdx d).toNat % 2 ^ (2 + cpIw d) == 0 && (verb != vFill || (!cpRem d && cpEsz d ≤ 3))

/-- Whether every destination lies in the issuing cell's store, which mode 1 needs (R64). -/
def cpInStore (d : List Word) : Bool :=
  !cpRem d && (List.range (cpTotal d)).all fun i => (match region (cpDstAt d i) (cpElem d) with | .cell _ => true | _ => false)

/-- The cell-store ranges of a copy. -/
def cpRanges (d : List Word) : List (Nat × Nat) :=
  (List.range (cpTotal d)).map fun i => (((cpDstAt d i).extractLsb' 0 17).toNat, cpElem d)

/-- The copy engine begins: it reads and checks the descriptor (R291, R292). -/
def cpBegin (x : Cmd) (s : State) : Ran :=
  if x.addr.toNat % 64 ≠ 0 || x.w3 != 0 || !s.cell.tokenChannel x then refused s
  else (readMem .cp x.addr 192 s).ran 0 fun bytes s =>
    let d := wordsOfBytes 24 bytes
    if cpOk x.verb d && (x.done != 1 || cpInStore d) then .more { x with begun := true, desc := d } s else refused s

/-! ### One chunk (R293, R295) -/

/-- The elements of a chunk of 4 KiB (R293): the first, and how many. -/
def cpChunk (d : List Word) (u : Nat) : Nat × Nat :=
  let n := 4096 / cpElem d
  (n * u, min n (cpTotal d - n * u))

/-- The aligned units of at most 8 bytes of an element (R293). -/
def elemUnits (a : Word) (n : Nat) : List (Word × Nat) :=
  if n ≤ 8 then [(a, n)] else (List.range (n / 8)).map fun i => (a + BitVec.ofNat 64 (8 * i), 8)

/-- Whether bytes at a spot are data that a copy has poisoned (R295). -/
def spotPoisoned (sp : Spot) (n : Nat) (s : State) : Bool :=
  let hit (k n : Nat) : Bool := (unitsTouched k n).any (sget false s.pkg.poison)
  let inCell (c : Cell) (off n : Nat) : Bool := (unitsTouched off n).any (sget false c.poisonStore)
  match sp with
  | .cell off => inCell s.cell off n
  | .phys l => l.any fun q => hit q.1 q.2
  | .frame l => l.any fun q => match q.1 with | .phys k => hit k q.2 | .cell c off => inCell (s.cellAt c) off q.2

/-- The bytes at a spot become poisoned (R331). -/
def poisonSpot (sp : Spot) (n : Nat) (s : State) : State :=
  match sp with
  | .cell off => s.onCell (Cell.poisoned off n)
  | .phys l => l.foldl (fun s q => s.onPkg (Package.poisoned q.1 q.2)) s
  | .frame l => l.foldl (fun s q =>
      match q.1 with | .phys k => s.onPkg (Package.poisoned k q.2) | .cell c off => s.atCell c (Cell.poisoned off q.2)) s

/-- A unit that a copy reads: its bytes, and whether they carry an error on. A poisoned unit is a fault (R295, R331). -/
def carry (a : Word) (n : Nat) (s : State) : Io (List Byte × Bool) :=
  (spot false .cp a n s).bind fun sp s =>
    if spotPoisoned sp n s then .fault cUNCORRECTABLE s else .ok (spotBytes sp n s, spotBad sp n s) s

/-- The source address of the i-th element, with the index list read for `cp.gather` (R293). -/
def cpSrcAt (verb : Nat) (d : List Word) (i : Nat) (s : State) : Io Word :=
  let n := indexVector (cpCounts d) i
  let so := strideSum (cpSstr d) n
  if verb = vGather then
    let D := cpNdim d - 1
    let nD := n.getD D 0
    let w := 4 * 2 ^ cpIw d
    (readMem .cp (cpIdx d + BitVec.ofNat 64 (nD * w)) w s).bind fun l s =>
      .ok (cpSrc d + so - BitVec.ofNat 64 nD * cpSstr d D + BitVec.ofNat 64 (ofBytes l) * cpSstr d D) s
  else .ok (cpSrc d + so) s

/-- The units of the i-th element with what is copied into them. -/
def cpElement (verb : Nat) (d : List Word) (i : Nat) (s : State) : Io (List (Word × List Byte × Bool)) :=
  let e := cpElem d
  if verb = vFill then .ok [(cpDstAt d i, bytesOf e (cpPat d).toNat, false)] s
  else
    (cpSrcAt verb d i s).bind fun a s =>
      (Io.each (fun (q : Word × Nat) s => carry q.1 q.2 s) (elemUnits a e) s).bind fun l s =>
        .ok (((elemUnits (cpDstAt d i) e).zip l).map fun q => (q.1.1, q.2.1, q.2.2)) s

/-- Every unit of a chunk, read before any is written (R293). -/
def cpGatherChunk (verb : Nat) (d : List Word) (u : Nat) (s : State) : Io (List (Word × List Byte × Bool)) :=
  let (k, n) := cpChunk d u
  (Io.each (fun i s => cpElement verb d (k + i) s) (List.range n) s).bind fun l s => .ok l.flatten s

/-- A chunk written: every place is found first (R295); errors are carried on as poison (R331). -/
def cpWriteChunk (l : List (Word × List Byte × Bool)) (s : State) : Io Unit :=
  (Io.each (fun (q : Word × List Byte × Bool) s => spot true .cp q.1 q.2.1.length s) l s).bind fun sps s =>
    .ok () ((sps.zip l).foldl (fun s q =>
      let s1 := writeSpot q.1 q.2.2.1 s
      if q.2.2.2 then poisonSpot q.1 q.2.2.1.length s1 else s1) s)

/-- One chunk of a copy within the package. -/
def cpLocal (x : Cmd) (s : State) : Ran :=
  let d := x.desc
  let (k, n) := cpChunk d x.unit
  if n = 0 then .done x (BitVec.ofNat 32 x.verb) (if x.done = 1 then cpRanges d else []) s
  else
    (cpGatherChunk x.verb d x.unit s).ran (BitVec.ofNat 32 k) fun l s =>
      (cpWriteChunk l s).ran (BitVec.ofNat 32 k) fun _ s => .more { x with unit := x.unit + 1 } s

end Sys2Proof.Machine
end

