-- ==== Sys2Proof/Machine/Walk.lean ====
section
/-! DEFINITION. The string walkers: page headers (R296), walks and their lookahead (R298, R299), loads (R300, R301), tier misses and
page-in (R302-R304), freed pages (R305), faults (R308). -/

namespace Sys2Proof.Machine

/-! ### Page headers (R296, R308) -/

/-- A header from its eight dwords, for the page of an index. -/
def pageOf (hdr : Word) (index : Nat) (d : List Word) : Page :=
  let v := (dw d 1).toNat
  { hdr := hdr, next := dw d 0, tier := BitVec.ofNat 2 (bits v 48 2), tcount := bits v 32 6, posBase := bits v 0 32, data := dw d 2,
    far := dw d 3, sketch := dw d 4, index := index, err := 0, stale := false }

/-- Whether a header is well formed for a page capacity (R296, R308). -/
def headerOk (cap : Nat) (d : List Word) : Bool :=
  let v := (dw d 1).toNat
  bits (dw d 0).toNat 0 6 == 0 && bits v 50 14 == 0 && bits v 38 10 == 0 && bits v 32 6 ≤ 32 && bits v 32 6 ≤ cap && (dw d 2).toNat % 128 == 0

/-- A header read by a unit: a header that is not aligned is malformed. -/
def readHeader (e : Engine) (cap : Nat) (hdr : Word) (index : Nat) (s : State) : Io Page :=
  if hdr.toNat % 64 ≠ 0 then .fault cENGINE_FAULT s
  else (readMem e hdr 64 s).bind fun bytes s =>
    let d := wordsOfBytes 8 bytes
    if headerOk cap d then .ok (pageOf hdr index d) s else .fault cENGINE_FAULT s

/-- TIER alone, read again (R299, R302). -/
def readTier (hdr : Word) (s : State) : Io (BitVec 2) :=
  (readMem .kv (hdr + 8) 8 s).bind fun bytes s => .ok ((wordOfBytes bytes).extractLsb' 48 2) s

/-- A token of a page is valid (R300). -/
def Page.valid (p : Page) (low j : Nat) : Bool := j < p.tcount && low ≤ p.posBase + j

/-! ### Walks (R297, R298) -/

/-- The bytes of a key and of a value (R297). -/
def Walk.kb (w : Walk) : Nat := w.hd * width w.kf / 8
def Walk.vb (w : Walk) : Nat := w.hd * width w.vf / 8

/-- A walk of a cell. -/
def Cell.walkAt (c : Cell) (n : Nat) : Option Walk := (c.walks.toList.getD n none)
/-- A walk put in place. -/
def Cell.putWalk (n : Nat) (w : Option Walk) (c : Cell) : Cell := { c with walks := c.walks.mapFinIdx fun i x _ => if i = n then w else x }
/-- A walk changed. -/
def Cell.onWalk (n : Nat) (f : Walk → Walk) (c : Cell) : Cell := { c with walks := c.walks.mapFinIdx fun i x _ => if i = n then x.map f else x }

/-- The walker that serves a cell: die and number (R291). -/
def walkerOf (c : CellId) : Nat × Nat :=
  let row := (c.extractLsb' 6 6).toNat
  let col := (c.extractLsb' 0 6).toNat
  ((c.extractLsb' 12 2).toNat, (6 * (row / 8) + col / 8) % 8)

/-- The walks that the walker of the cell in focus holds (R298). -/
def State.openWalks (s : State) : Nat :=
  ((s.cells.filter fun e => walkerOf e.1 == walkerOf s.here).map fun e => (e.2.walks.toList.filter Option.isSome).length).sum

/-- A walk from its descriptor (R298), before its table and its header are read. -/
def walkOf (d : List Word) : Walk :=
  let v := (dw d 2).toNat
  { auto := bitOf v 52, pair := bitOf v 51, cap := 8 * 2 ^ bits v 49 2, hd := 32 * 2 ^ bits v 47 2, kf := BitVec.ofNat 7 (bits v 33 7),
    vf := BitVec.ofNat 7 (bits v 40 7), low := bits v 0 32, faddr := dw d 1, ftabDue := true, ftab := [], index := 0, next := dw d 0, pages := [], posted := [] }

/-- The checks of a walk descriptor (R298). -/
def walkOk (d : List Word) : Bool :=
  let v := (dw d 2).toNat
  let w := walkOf d
  let fits (n : Nat) : Bool := n % 64 == 0 && n ≤ 512
  (dw d 0).toNat % 64 == 0 && (dw d 1).toNat % 64 == 0 && bits v 53 11 == 0 && bits v 49 2 != 3 && !bitOf v 32 && w.vf.valid &&
    ([8, 9, 10, 12, 13].contains w.kf.code && w.kf.valid) && (List.range 5).all (fun i => dw d (3 + i) == 0) && fits w.kb && fits w.vb

/-- A page joins the pages a walk holds. -/
def Walk.hold (p : Page) (w : Walk) : Walk := { w with pages := w.pages ++ [p], next := if p.err = 0 then p.next else 0 }

/-- The page after those a walk holds, if the string goes on: its header address and its index. -/
def Walk.following (w : Walk) : Option (Word × Nat) := if w.next = 0 then none else some (w.next, w.index + w.pages.length)

/-- A page of the walk whose header has been read again; the last one tells how the string goes on (R299, R308). -/
def Walk.refreshed (q : Page) (w : Walk) : Walk :=
  { w with
    pages := w.pages.map fun p => if p.index == q.index then q else p
    next := if w.pages.getLast?.any (·.index == q.index) then (if q.err = 0 then q.next else 0) else w.next }

/-- Whether the cursor lies past the string's end. -/
def Walk.past (w : Walk) : Bool := w.pages.isEmpty && w.next == 0

/-! ### Tier misses and page-ins (R302-R304) -/

/-- A tier-miss record (R303). -/
def missRecord (cell : CellId) (wid : Nat) (p : Page) (auto : Bool) : List Word :=
  [fields [(3, 0), (cell.toNat, 32), (wid, 46)], p.hdr, p.far, fields [(p.index % 2 ^ 32, 0), (if auto then 1 else 0, 32)], 0, 0, 0, 0]

/-- A page-in that a walker starts, on its own copy engine (R302). -/
def autoPagein (ctx : BitVec 6) (w : Walk) (p : Page) : Cmd :=
  { verb := 3, w1 := p.hdr.setWidth 32, w2 := p.hdr.extractLsb' 32 32, w3 := BitVec.ofNat 32 (w.cap * (w.kb + w.vb) / 64), word0 := 0, hnd := 0, pc := 0,
    done := 0, chan := 0, sb := 0, rm := 0, sat := false, scales := Vector.replicate 8 0, dkey := 0, draw := 0, unit := 0, flags := 0,
    stalled := false, note := 0, internal := true, ctx := ctx, orphan := false, waits := none, lane := 1, begun := false, desc := [], after := [], iter := 0, index := 0, bodyNote := 0, buf := [] }

/-- A page with TIER ≠ 0 is met: one record in that walk, and a page-in when AUTO asks for it (R302). -/
def meetTier (wid : Nat) (p : Page) (s : State) : State :=
  match s.cell.walkAt wid with
  | none => s
  | some w =>
    if p.tier = 0 || w.posted.contains p.index then s
    else
      let start := w.auto && p.tier == 1
      let s1 := post s.cell.k.ctx (missRecord s.here wid p start)
        (s.onCell (Cell.onWalk wid fun w => { w with posted := w.posted ++ [p.index] }))
      if start then s1.onCell fun c => { c with cp := { c.cp with q := c.cp.q ++ [autoPagein c.k.ctx w p] } } else s1

/-- The pages of a cell's walks with a header take a TIER read again, or the fault of a page-in that failed otherwise. -/
def Cell.retier (hdr : Word) (f : Page → Page) (c : Cell) : Cell :=
  { c with walks := c.walks.map fun w => w.map fun w => { w with pages := w.pages.map fun p => if p.hdr == hdr then f p else p } }

/-- TIER of a header written with one atomic at its home: the old value is answered (R304). -/
def swapTier (hdr : Word) (f : BitVec 2 → BitVec 2) (s : State) : Io (BitVec 2) :=
  (spot false .cp (hdr + 8) 8 s).bind fun r s =>
    if spotBad r 8 s then .fault cUNCORRECTABLE s
    else (spot true .cp (hdr + 8) 8 s).bind fun sp s =>
      let v := wordOfBytes (spotBytes sp 8 s)
      let old := v.extractLsb' 48 2
      let new := (v &&& ~~~(3#64 <<< 48)) ||| ((f old).setWidth 64 <<< 48)
      .ok old (if f old = old then s else writeSpot sp (bytesOf 8 new.toNat) s)

/-- A page-in that ends well: the walks of the cell read TIER again (R302). -/
def pageinDone (x : Cmd) (s : State) : Ran :=
  .done x (BitVec.ofNat 32 (x.note % 4)) [] (if x.internal then s.onCell (Cell.retier x.addr fun p => { p with tier := 0 }) else s)

/-- INFO of a `kv.pagein` that cannot go on (R330): while it copies, the first of its elements of 64 bytes that is not written (R295); before that
the page index, a free value (R308; log 69). -/
def pageinInfo (x : Cmd) : W32 := if x.unit < 2 then Config.pageinIndex x.addr else BitVec.ofNat 32 (64 * (x.unit - 2))

/-- A page-in that cannot go on: a fault of the command, or of the load that waits for a walker's own page-in. -/
def pageinStops (x : Cmd) (code : Byte) (s : State) : Ran :=
  if x.internal then .done x 0 [] (s.onCell (Cell.retier x.addr fun p => { p with err := code })) else .fault code (pageinInfo x) s

/-- A page-in that meets a malformed header or a forbidden address (R308). -/
def pageinRan {α : Type} (x : Cmd) (r : Io α) (f : α → State → Ran) : Ran :=
  match r with
  | .ok a s => f a s
  | .block w b s => .block w b s
  | .fault code s => pageinStops x code s

/-- A page-in that has failed: TIER becomes 3 when it holds the page, and the command faults with TIER_FAIL (R304); its page index is a
free value (R330; log 69). A page-in of a walker has no command to fault: the walks read TIER again. -/
def pageinFails (x : Cmd) (own : Bool) (s : State) : Ran :=
  let gone (s : State) : Ran :=
    if x.internal then .done x 0 [] (s.onCell (Cell.retier x.addr fun p => { p with tier := 3 })) else .fault cTIER_FAIL (Config.pageinIndex x.addr) s
  if own then pageinRan x (swapTier x.addr (fun _ => 3) s) fun _ s => gone s else gone s

/-- The same while it holds the page: TIER ends at 3 (R304, R348), which is what the walks read again where a walker started it (R302). -/
def pageinCopies {α : Type} (x : Cmd) (r : Io α) (f : α → State → Ran) : Ran :=
  match r with
  | .ok a s => f a s
  | .block w b s => .block w b s
  | .fault code s => if x.internal then pageinFails x true s else pageinRan x (swapTier x.addr (fun _ => 3) s) fun _ s => pageinStops x code s

/-- The chunks of 4 KiB of a page-in. -/
def pageinChunk (x : Cmd) (u : Nat) : Nat × Nat := let n := 64 * bits x.w3.toNat 0 24; (4096 * u, min 4096 (n - 4096 * u))

/-- One unit of a page-in (R304). Unit 0 reads the header, which must be well formed (R296, R308), and takes the page; unit 1 waits for
another page-in; later units copy and finish. `note` holds old; `desc` holds DATA and FAR. -/
def pageinUnit (x : Cmd) (s : State) : Ran :=
  let hdr := x.addr
  match x.unit with
  | 0 =>
    pageinRan x (readHeader .cp 32 hdr 0 s) fun p s =>
      pageinRan x (swapTier hdr (fun t => if t = 1 then 2 else t) s) fun old s =>
        let y := { x with begun := true, note := old.toNat }
        if old = 0 then pageinDone y s
        else if old = 2 then .more { y with unit := 1 } s
        else if old = 3 then pageinFails y false s
        else .more { y with unit := 2, desc := [p.data, p.far] } s
  | 1 =>
    pageinRan x (readTier hdr s) fun t s =>
      if t = 2 then .block none false s else if t = 0 then pageinDone x s else pageinFails x false s
  | u + 2 =>
    let (off, n) := pageinChunk x u
    if n = 0 then pageinRan x (swapTier hdr (fun _ => 0) s) fun _ s => pageinDone x s
    else
      match spot false .cp (dw x.desc 1 + BitVec.ofNat 64 off) n s with
      | .block w b s => .block w b s
      | .fault code s => pageinCopies x (α := Unit) (.fault code s) fun _ s => .more x s
      | .ok sp s =>
        if spotBad sp n s then pageinFails x true s
        else pageinCopies x (writeMem .cp (dw x.desc 0 + BitVec.ofNat 64 off) (spotBytes sp n s) s) fun _ s => .more { x with unit := x.unit + 1 } s

/-- The same unit run with another context in the cell's `KCTX`, whose walks are then not those of the cell (R302, R340). -/
def inContext (ctx : BitVec 6) (run : State → Ran) (s : State) : Ran :=
  let set (ctx : BitVec 6) (walks : Vector (Option Walk) 4) (s : State) : State :=
    s.onCell fun c => { c with k := { c.k with ctx := ctx }, walks := walks }
  let back : State → State := set s.cell.k.ctx s.cell.walks
  if ctx = s.cell.k.ctx then run s
  else match run (set ctx (Vector.replicate 4 none) s) with
  | .more x t => .more x (back t)
  | .done x lane fill t => .done x lane fill (back t)
  | .block w b t => .block w b (back t)
  | .fault code info t => .fault code info (back t)

/-- One unit of a page-in, in the context that started it, whatever board the cell belongs to now (R340). -/
def pagein (x : Cmd) (s : State) : Ran := inContext x.ctx (pageinUnit x) s

/-- The checks of `kv.pagein` (R304). `done=fe` is refused whatever DATA is: near-tier memory is taken to be global (R64, R296; log 37). -/
def pageinOk (x : Cmd) : Bool := x.addr.toNat % 64 == 0 && bits x.w3.toNat 24 8 == 0 && bits x.w3.toNat 0 24 != 0 && x.done != 1

/-! ### Opening a walk (R298) -/

/-- FTAB of an open walk is read, whole (R299). -/
def readFtab (wid : Nat) (w : Walk) (s : State) : Io Unit :=
  (readMem .kv w.faddr (2 * w.hd) s).bind fun l s =>
    .ok () (s.onCell (Cell.onWalk wid fun w => { w with ftab := lanesOfBytes (w.hd / 2) l, ftabDue := false }))

/-- One unit of `kv.walk`: the old walk ends; once a walk is free the descriptor is read and opens the new one; its table is read; HEAD's
header is read. -/
def kvWalk (x : Cmd) (s : State) : Ran :=
  let wid := bits x.w3.toNat 0 2
  match x.unit with
  | 0 =>
    let s1 := s.onCell (Cell.putWalk wid none)
    if x.addr = 0 then .done x 0 [] s1 else .more { x with unit := 1, begun := true } s1
  | 1 =>
    if 16 ≤ s.openWalks then .block none false s
    else
      (readMem .kv x.addr 64 s).ran 0 fun bytes s =>
        let d := wordsOfBytes 8 bytes
        if !walkOk d then refused s else .more { x with unit := 2 } (s.onCell (Cell.putWalk wid (some (walkOf d))))
  | _ =>
    match s.cell.walkAt wid with
    | none => refused s
    | some w =>
      if w.ftabDue then (readFtab wid w s).ran 0 fun _ s => .more x s else
      match w.following with
      | none => .done x 0 [] s
      | some (hdr, i) =>
        if !w.pages.isEmpty then .done x 0 [] s
        else (readHeader .kv w.cap hdr i s).ran 0 fun p s => .done x 0 [] (s.onCell (Cell.onWalk wid (Walk.hold p)))

/-! ### Loads (R300, R301) -/

/-- The checks of `kv.ldk` and `kv.ldv` (R300), for an open walk. -/
def loadOk (x : Cmd) (w : Walk) : Bool :=
  let k := x.verb == 1
  let v := x.w3.toNat
  let doff := bits x.w1.toNat 0 17
  let boff := bits x.w2.toNat 0 17
  let n := (if k then w.kb else w.vb) / 64
  bits x.w1.toNat 17 15 == 0 && bits x.w2.toNat 17 15 == 0 && bits v 8 24 == 0 && bits v 2 3 == 0 && doff % 64 == 0 &&
    (k || (bits v 6 2 == 0 && x.w2 == 0)) && (if bitOf v 6 then boff % 16 == 0 && boff + 144 ≤ 0x2_0000 else x.w2 == 0) && doff + 2048 * n ≤ 0x2_0000

/-- The points of the sine table at n (R301): sine and cosine. -/
def sinePoint (n : Nat) : Num × Num :=
  let q (m : Nat) : Num := valueOf fFP32 (quarterSine m)
  let m := n % 1024
  match n / 1024 % 4 with
  | 0 => (q m, q (1024 - m))
  | 1 => (q (1024 - m), (q m).negate)
  | 2 => ((q m).negate, (q (1024 - m)).negate)
  | _ => ((q (1024 - m)).negate, q m)

/-- A value rounded to FP32 under RNE, with its flags. -/
def toFP32 (x : Num × Flags) : Num × Flags := let (c, f) := roundTo fFP32 rne 0 x.1; (valueOf fFP32 c, x.2 ||| f)

/-- a + (b − a) × g, rounded at each step (R301). -/
def interpolate (a b g : Num) : Num × Flags :=
  let (d, f1) := toFP32 (addExact 0 b a.negate)
  let (p, f2) := toFP32 (mulExact d g)
  let (r, f3) := toFP32 (addExact 0 a p)
  (r, f1 ||| f2 ||| f3)

/-- The sine and the cosine of a phase (R301). -/
def phasePoint (phi : Nat) : (Num × Num) × Flags :=
  let n := phi / 2 ^ 20
  let g := phi % 2 ^ 20
  let (s0, c0) := sinePoint n
  if g = 0 then ((s0, c0), 0)
  else
    let (s1, c1) := sinePoint ((n + 1) % 4096)
    let (sn, f1) := interpolate s0 s1 (.fin false g (-20))
    let (cs, f2) := interpolate c0 c1 (.fin false g (-20))
    ((sn, cs), f1 ||| f2)

/-- a × b ± c × d, exact inside and rounded to FP32, then to the key format (R301). -/
def rotated (kf : FmtDesc) (a b c d : Num) (minus : Bool) : Nat × Flags :=
  let (p, f1) := mulExact a b
  let (q, f2) := mulExact c d
  let (t, f3) := toFP32 (addExact 0 p (if minus then q.negate else q))
  let (r, f4) := roundTo kf rne 0 t
  (r, f1 ||| f2 ||| f3 ||| f4)

/-- The elements of a key rotated (R301). -/
def rotateKey (w : Walk) (pos : Nat) (l : List Nat) : List Nat × Flags :=
  let half := w.hd / 2
  let one (i : Nat) : Nat × Bool := if w.pair then (if i < half then (i, false) else (i - half, true)) else (i / 2, i % 2 == 1)
  let mate (i : Nat) (second : Bool) : Nat := if w.pair then (if second then i + half else i) else 2 * i + (if second then 1 else 0)
  collect ((List.range w.hd).map fun k =>
    let (i, second) := one k
    let x := valueOf w.kf (l.getD (mate i false) 0)
    let y := valueOf w.kf (l.getD (mate i true) 0)
    let ((sn, cs), f) := phasePoint (pos * (w.ftab.getD i 0).toNat % 2 ^ 32)
    let (r, g) := if second then rotated w.kf x sn y cs false else rotated w.kf x cs y sn true
    (r, f ||| g))

/-- The row of a valid token as it is delivered. -/
def deliveredRow (x : Cmd) (w : Walk) (p : Page) (j : Nat) (bytes : List Byte) : List Byte × Flags :=
  if x.verb = 1 && bitOf x.w3.toNat 7 then
    let (l, f) := rotateKey w (p.posBase + j) (elementsOfBytes w.kf w.hd bytes)
    (bytesOfElements w.kf l, f)
  else (bytes, 0)

/-- What a load writes: the slabs from the rows of valid tokens, and the bias row (R297, R300). -/
def Cell.deliver (x : Cmd) (w : Walk) (p : Option Page) (rows : List (Nat × List Byte)) (c : Cell) : Cell :=
  let n := (if x.verb = 1 then w.kb else w.vb) / 64
  let doff := bits x.w1.toNat 0 17
  let boff := bits x.w2.toNat 0 17
  let row (j : Nat) : List Byte := (aget rows j).getD (List.replicate (64 * n) 0)
  let slab (s : Nat) : List Byte := (List.range 32).flatMap fun j => ((row j).drop (64 * s)).take 64
  let c1 := (List.range n).foldl (fun c s => c.storeAt (doff + 2048 * s) (slab s)) c
  if bitOf x.w3.toNat 6 then
    let bias := (List.range 32).flatMap fun j => bytesOf 4 (if (aget rows j).isSome then 0 else 0xFF80_0000)
    let meta' := match p with | some p => p.tcount * 2 ^ 32 + p.posBase | none => 0
    c1.storeAt boff (bias ++ bytesOf 8 meta' ++ bytesOf 8 w.index)
  else c1

/-- The ranges a load writes (R64). -/
def loadRanges (x : Cmd) (w : Walk) : List (Nat × Nat) :=
  (bits x.w1.toNat 0 17, 2048 * ((if x.verb = 1 then w.kb else w.vb) / 64)) ::
    (if bitOf x.w3.toNat 6 then [(bits x.w2.toNat 0 17, 144)] else [])

/-- A load has been delivered: the cursor moves with ADV, and the token carries {END, page index} (R300). -/
def loadDone (x : Cmd) (wid : Nat) (w : Walk) (past : Bool) (fl : Flags) (s : State) : Ran :=
  let s1 := if bitOf x.w3.toNat 5 && !past then s.onCell (Cell.onWalk wid fun w => { w with pages := w.pages.tail, index := w.index + 1 }) else s
  .done { x with flags := x.flags ||| fl } (BitVec.ofBool past ++ BitVec.ofNat 31 w.index) (loadRanges x w) s1

/-- `kv.ldk` and `kv.ldv`: one page (R300, R302, R308). -/
def kvLoad (x : Cmd) (s : State) : Ran :=
  let wid := bits x.w3.toNat 0 2
  match s.cell.walkAt wid with
  | none => refused s
  | some w =>
    if !loadOk x w then refused s
    else
      let info := BitVec.ofNat 32 w.index
      if w.ftabDue then (readFtab wid w s).ran info fun _ s => .more { x with begun := true } s else
      match w.pages with
      | [] =>
        match w.following with
        | none => loadDone x wid w true 0 (s.onCell (Cell.deliver x w none []))
        | some (hdr, i) =>
          (readHeader .kv w.cap hdr i s).ran info fun p s => .more { x with begun := true } (s.onCell (Cell.onWalk wid (Walk.hold p)))
      | p :: _ =>
        if p.stale then
          (readHeader .kv w.cap p.hdr p.index s).ran info fun q s => .more { x with begun := true } (s.onCell (Cell.onWalk wid (Walk.refreshed q)))
        else if p.err ≠ 0 then .fault p.err info s
        else if p.tier ≠ 0 then
          let s1 := meetTier wid p s
          if p.tier = 3 then .fault cTIER_FAIL info s1 else .block none false s1
        else
          let n := if x.verb = 1 then w.kb else w.vb
          let base := p.data + BitVec.ofNat 64 (if x.verb = 1 then 0 else w.cap * w.kb)
          let js := (List.range 32).filter fun j => p.valid w.low j
          (Io.each (fun j s => readMem .kv (base + BitVec.ofNat 64 (j * n)) n s) js s).ran info fun l s =>
            let rows := (js.zip l).map fun q => (q.1, deliveredRow x w p q.1 q.2)
            loadDone x wid w false (orFlags (rows.map fun q => q.2.2)) (s.onCell (Cell.deliver x w (some p) (rows.map fun q => (q.1, q.2.1))))

/-! ### The lookahead (R299, R302) -/

/-- A header is read for the lookahead: one that cannot be read is a fault of the load that meets its page (R308). `enters` says that its page is
one of the lookahead, and not the cursor's, which only a load meets (R302). -/
def fillPage (wid : Nat) (enters : Bool) (cap : Nat) (hdr : Word) (i : Nat) (f : Page → Walk → Walk) (s : State) : State :=
  match readHeader .kv cap hdr i s with
  | .ok p s => let t := s.onCell (Cell.onWalk wid (f p)); if enters then meetTier wid p t else t
  | .block _ _ s => s
  | .fault code s => s.onCell (Cell.onWalk wid (f { pageOf hdr i [] with err := code }))

/-- LOOKAHEAD_FILL: the header of the page that enters the lookahead is read. After a restore the table and the headers of the pages
already held come first (R299, R308). -/
def execLookaheadFill (c : CellId) (wid : BitVec 2) (s : State) : Result :=
  .next (s.within c fun s =>
    if s.cell.stopped || !s.active s.cell then s
    else match s.cell.walkAt wid.toNat with
      | none => s
      | some w =>
        if w.ftabDue then (match readFtab wid.toNat w s with | .ok _ s => s | .block _ _ s => s | .fault _ s => s)
        else match w.pages.find? (·.stale) with
          | some p => fillPage wid.toNat (p.index != w.index) w.cap p.hdr p.index Walk.refreshed s
          | none =>
            match w.following with
            | none => s
            | some (hdr, i) => if w.pages.isEmpty || 5 ≤ w.pages.length then s else fillPage wid.toNat true w.cap hdr i Walk.hold s)

/-- TIER_POLL: TIER of the pages a walk holds that are not near, also of one whose page-in has failed, is read again (R302). -/
def execTierPoll (c : CellId) (wid : BitVec 2) (s : State) : Result :=
  .next (s.within c fun s =>
    if s.cell.stopped || !s.active s.cell then s
    else match s.cell.walkAt wid.toNat with
      | none => s
      | some w =>
        (w.pages.filter fun p => !p.stale && p.tier != 0 && p.err == 0).foldl (fun s p =>
          match readTier p.hdr s with
          | .ok t s => s.onCell (Cell.onWalk wid.toNat fun w => { w with pages := w.pages.map fun q => if q.index == p.index then { q with tier := t } else q })
          | .block _ _ s => s
          | .fault code s => s.onCell (Cell.onWalk wid.toNat fun w => { w with pages := w.pages.map fun q => if q.index == p.index then { q with err := code } else q })) s)

/-! ### kv.free (R305) -/

/-- The address of DONE: dword 3 of the descriptor itself takes the count (R305). -/
def freeCount (x : Cmd) : Word := x.addr + 24

/-- The checks of a free descriptor (R305). -/
def freeOk (x : Cmd) (d : List Word) : Bool :=
  let v := (dw d 2).toNat
  let store (a : Word) (n : Nat) : Bool := match region a n with | .cell _ => true | _ => false
  bits v 48 16 == 0 && bits v 32 16 != 0 && (dw d 1).toNat % 8 == 0 &&
    (x.done != 1 || (store (dw d 1) (8 * bits v 32 16) && store (dw d 0) 8 && store (freeCount x) 8))

/-- The end of `kv.free`: DONE, then HEADW (R305). -/
def freeDone (x : Cmd) (s : State) : Ran :=
  let d := x.desc
  let off (a : Word) : Nat := (a.extractLsb' 0 17).toNat
  (writeAll .kv [(freeCount x, bytesOf 8 x.note), (dw d 0, bytesOf 8 (dw d 4).toNat)] s).ran (BitVec.ofNat 32 x.note) fun _ s =>
    .done x (BitVec.ofNat 32 x.note) [(off (dw d 1), 8 * x.note), (off (freeCount x), 8), (off (dw d 0), 8)] s

/-- One unit of `kv.free`: the descriptor, the head, then one page (R291, R305). `note` counts the pages freed; dword 4 of `desc`
holds the header met. -/
def kvFree (x : Cmd) (s : State) : Ran :=
  if !x.begun then
    (readMem .kv x.addr 32 s).ran 0 fun bytes s =>
      let d := wordsOfBytes 4 bytes
      if !freeOk x d then refused s else .more { x with begun := true, desc := d } s
  else if x.unit = 0 then
    let d := x.desc
    if (dw d 0).toNat % 8 ≠ 0 then .fault cENGINE_FAULT 0 s
    else (readMem .kv (dw d 0) 8 s).ran 0 fun h s => .more { x with unit := 1, desc := d ++ [wordOfBytes h] } s
  else
    let d := x.desc
    let v := (dw d 2).toNat
    let hdr := dw d 4
    if hdr = 0 || bits v 32 16 ≤ x.note then freeDone x s
    else
      (readHeader .kv 32 hdr x.note s).ran (BitVec.ofNat 32 x.note) fun p s =>
        if bits v 0 32 < p.posBase + p.tcount then freeDone x s
        else
          (writeMem .kv (dw d 1 + BitVec.ofNat 64 (8 * x.note)) (bytesOf 8 hdr.toNat) s).ran (BitVec.ofNat 32 x.note) fun _ s =>
            .more { x with note := x.note + 1, desc := d.take 4 ++ [p.next] } s

/-! ### The walker's commands -/

/-- The checks of a walker command that need no memory (R298, R304, R305). -/
def kvOk (x : Cmd) : Bool :=
  match x.verb with
  | 0 => bits x.w3.toNat 2 30 == 0 && x.done != 1
  | 3 => pageinOk x
  | 4 => x.w3 == 0
  | _ => true

/-- One unit of a walker command. -/
def runKv (x : Cmd) (s : State) : Ran :=
  if !x.begun && (!kvOk x || !s.cell.tokenChannel x) then refused s
  else match x.verb with
    | 0 => kvWalk x s
    | 1 | 2 => kvLoad x s
    | 3 => pagein x s
    | _ => kvFree x s

def execKvWalk (h : CmdHead) (w1 w2 w3 : W32) (s : State) : Result := .next (issue .kv 0 h w1 w2 w3 s)
def execKvLdk (h : CmdHead) (w1 w2 w3 : W32) (s : State) : Result := .next (issue .kv 1 h w1 w2 w3 s)
def execKvLdv (h : CmdHead) (w1 w2 w3 : W32) (s : State) : Result := .next (issue .kv 2 h w1 w2 w3 s)
def execKvPagein (h : CmdHead) (w1 w2 w3 : W32) (s : State) : Result := .next (issue .kv 3 h w1 w2 w3 s)
def execKvFree (h : CmdHead) (w1 w2 w3 : W32) (s : State) : Result := .next (issue .kv 4 h w1 w2 w3 s)

end Sys2Proof.Machine
end

