-- ==== Sys2Proof/Machine/Link.lean ====
section
/-! DEFINITION. The Driten link: paths (R350, R351), sending and resending (R358, R360), what comes back to the source (R355-R357,
R360, R371), the target's answers (R361), and integrity runs (R368). -/

namespace Sys2Proof.Machine

/-! ### Pairs and paths (R350, R351) -/

/-- This package's side of the pair with a package. -/
def Package.peer (p : Package) (t : Byte) : Peer := (aget p.peers t.toNat).getD Peer.reset
/-- This package's side of a pair changed. -/
def Package.onPeer (t : Byte) (f : Peer → Peer) (p : Package) : Package := { p with peers := aput t.toNat (f (p.peer t)) p.peers }

/-- P of a target: its own package counts as one path (R350). -/
def Package.pathCount (p : Package) (t : Byte) : Nat :=
  if t = p.number then 1 else ((p.peer t).ports.toList.takeWhile Option.isSome).length

/-- Whether a path of a target is live. -/
def Package.pathLive (p : Package) (t : Byte) (i : Nat) : Bool :=
  i < p.pathCount t && (t == p.number || (p.peer t).live.toList.getD i false)

/-- The first live path in rising order modulo P from one on. -/
def Package.livePath (p : Package) (t : Byte) (start : Nat) : Option Nat :=
  let n := p.pathCount t
  ((List.range n).map fun i => (start + i) % n).find? (p.pathLive t)

/-- The path at which the choice for a request starts (R351, R353). -/
def Package.startPath (p : Package) (t : Byte) (fix : Option Nat) : Nat :=
  let n := p.pathCount t
  match fix with
  | some f => if f < n then f else 0
  | none => match (p.peer t).last with | some l => (l.toNat + 1) % max n 1 | none => 0

/-- Whether requests to a package behave as to a failed peer: it is declared failed (R369), unreachable (R350), or outside the
trust domain of this package (R404). -/
def Package.cutOff (p : Package) (t : Byte) : Bool :=
  t != p.number && ((p.peer t).failed || p.pathCount t == 0 || (p.trust.td && !p.trust.mask.getLsbD t.toNat))

/-- The port by which the path of a tag leaves toward a package. -/
def Package.portOf (p : Package) (t : Byte) (tag : BitVec 2) : Option (BitVec 5) := (p.peer t).ports.toList.getD tag.toNat none

/-- Whether an activation is in a `td.bar` of the pending epoch that has still to pass its fence: requests are held from its issue on (R407). -/
def State.fencing (s : State) : Bool :=
  s.pkg.trust.pending.any fun m => s.cells.any fun e => e.2.hnd.toList.any fun h => match h.pend with | .barFence _ _ E none => E == m.2.setWidth 32 | _ => false

/-- Whether requests to a package are cut off now: a barrier holds them instead (R407). -/
def State.cutNow (t : Byte) (s : State) : Bool := s.pkg.trust.barrier.isNone && !s.fencing && s.pkg.cutOff t

/-- Whether the counts of a source cover the S values of an `rst.o`, as serial numbers (R358, R359). -/
def Peer.covers (P : Peer) (counts : List W32) : Bool :=
  (List.range 4).all fun i => ((P.q.toList.getD i 0) - counts.getD i 0).toNat < 2 ^ 31

/-! ### Keys, seals and run tags (R368, R403, R404) -/

/-- A requester nobody has spoken with: packages 0-255, and 256 for the host's security manager (R401). -/
def Spdm.reset : Spdm := ⟨false, false, false, none, none, 0⟩

/-- What the security engine holds of a requester. -/
def Package.spdmOf (p : Package) (who : BitVec 9) : Spdm := (aget p.spdm who.toNat).getD Spdm.reset

/-- The export master secret of the session of a pair: of the two the package with the lower number is requester (R401, R403). -/
def Package.prk (p : Package) (t : Byte) : Option (BitVec 256) :=
  if t.toNat < p.number.toNat then (p.spdmOf (t.setWidth 9)).session else aget p.trust.sessions t.toNat

/-- Kseal of a source and a destination, of which one is this package, for an epoch; none without a session (R403). -/
def sealKey (epoch : Word) (src dst : Byte) (p : Package) : Option (BitVec 256) :=
  (p.prk (if src = p.number then dst else src)).map fun k => Config.pairKey k true epoch src dst

/-- Klink of the ends of a link, of which this package is one, for an epoch (R403). -/
def linkKey (epoch : Word) (from' dest : Byte) (p : Package) : Option (BitVec 256) :=
  (p.prk (if from' = p.number then dest else from')).map fun k => Config.pairKey k false epoch from' dest

/-- The 96-bit nonce of a sealed packet (R404). -/
def sealNonce (epoch : Word) (src dst : Byte) (tag : BitVec 2) (seq : BitVec 48) : BitVec 96 := epoch.extractLsb' 0 30 ++ src ++ dst ++ tag ++ seq

/-- The 96-bit nonce of a link tag (R404). -/
def linkNonce (epoch : Word) (from' dest : Byte) (runs : BitVec 48) : BitVec 96 := epoch.extractLsb' 0 30 ++ from' ++ dest ++ 0#2 ++ runs

/-- The seal of a packet to a package: the key of the epoch, and the nonce (R404). -/
def Package.seal (p : Package) (t : Byte) (tag : BitVec 2) (seq : BitVec 48) : Seal :=
  ⟨(aget p.trust.keys t.toNat).map Prod.fst, sealNonce p.trust.epoch p.number t tag seq, t, tag, seq⟩

/-- A request or reply packet as it leaves: within a trust domain it is sealed end to end (R404). -/
def Package.packet (p : Package) (t : Byte) (tag : BitVec 2) (seq : BitVec 48) (m : OutMsg) : OutMsg :=
  if p.trust.td then .sealed (p.seal t tag seq) m else m

/-- A request or reply packet leaves. -/
def emitPacket (t : Byte) (tag : BitVec 2) (seq : BitVec 48) (m : OutMsg) (s : State) : State := emit (s.pkg.packet t tag seq m) s

/-- The tag of the run that a port has sent: AES-GMAC in a trust domain, numbered by the runs of the epoch, and otherwise CRC-64 (R368,
R404). -/
def Package.tagOf (p : Package) (port : BitVec 5) : RunTag :=
  if p.trust.td then
    let dest := Config.neighbour port
    .gmac (linkKey p.trust.epoch p.number dest p) (linkNonce p.trust.epoch p.number dest (BitVec.ofNat 48 ((aget p.runCounts port.toNat).getD 0)))
  else .crc64

/-- A run of a port ends, and its tag is sent (R368). -/
def endRun (port : BitVec 5) (s : State) : State :=
  emit (.runTag port (s.pkg.tagOf port)) (s.onPkg fun p =>
    { p with runs := adel port.toNat p.runs, runCounts := aput port.toNat ((aget p.runCounts port.toNat).getD 0 + 1) p.runCounts })

/-- A flit leaves by a port: the fifth of a run brings the run's tag (R368). -/
def flitOut (port : Option (BitVec 5)) (s : State) : State :=
  match port with
  | none => s
  | some q =>
    let n := (aget s.pkg.runs q.toNat).getD 0 + 1
    if n < 5 then s.onPkg fun p => { p with runs := aput q.toNat n p.runs } else endRun q s

/-! ### Sending (R358, R360) -/

/-- A request on its way to the source switch. -/
structure Sending where
  target : Byte
  fix : Option Nat
  op : RemoteOp
  access : Option Nat
  write : Bool
  engine : Bool
  hnd : BitVec 6
  pc : Pc
  word : W32
  unit : Nat

/-- Whether a request to a package that has not been answered lies 1024 sequences back, or 1024 of them are out (R360): so no sequence sent
again falls below the window of its target (R361; log 80). -/
def Package.windowFull (p : Package) (t : Byte) : Bool :=
  let P := p.peer t
  1024 ≤ P.out.length || P.out.any fun o => (t == p.number || o.req.epoch == p.trust.epoch) && 1024 ≤ (P.nextSeq - o.req.seq).toNat

/-- Whether a request is held at issue: by the barrier, from the issue of its first `td.bar` on (R407), by the window (R360), by the last
sequences of an epoch (R404). -/
def State.linkHeld (t : Byte) (s : State) : Bool :=
  s.pkg.trust.barrier.isSome || s.fencing || s.pkg.windowFull t || (s.pkg.trust.td && 2 ^ 48 - 1024 ≤ (s.pkg.peer t).nextSeq.toNat)

/-- A request packet leaves on a path; one to the own package uses no link (R350). -/
def transmit (t : Byte) (path : Option Nat) (r : RemoteReq) (s : State) : State :=
  match path with
  | none => s
  | some i =>
    if t = s.pkg.number then s
    else flitOut (s.pkg.portOf t (BitVec.ofNat 2 i)) (emitPacket t r.tag r.seq (.request t (BitVec.ofNat 2 i) r) s)

/-- The switch accepts a request of the cell in focus: its path and tag, its sequence, and its count in S (R351, R358, R360). -/
def sendRequest (q : Sending) (s : State) : State :=
  let p := s.pkg
  let P := p.peer q.target
  let want := p.startPath q.target q.fix
  let live := p.livePath q.target want
  let tag : BitVec 2 := BitVec.ofNat 2 (live.getD want)
  let op := match q.op with | .flag a d _ => .flag a d P.s.toList | o => o
  let r : RemoteReq := ⟨P.nextSeq, tag, s.cell.k.ctx, s.here, p.trust.epoch, true, 0, op⟩
  let o : OutReq := ⟨r, live.map (BitVec.ofNat 2), q.access, q.hnd, q.pc, q.word, q.write, q.engine, q.unit, 0, false, false, s.launchAt s.here, none, none⟩
  transmit q.target live r (s.onPkg (Package.onPeer q.target fun P =>
    { P with
      last := match live with | some i => some (BitVec.ofNat 2 i) | none => P.last
      nextSeq := P.nextSeq + 1
      out := P.out ++ [o]
      s := if q.write then P.s.set tag.toNat (P.s[tag.toNat]'tag.isLt + 1) tag.isLt else P.s }))

/-- Whether a request in flight to a package is the one of a sequence in the current epoch: sequences begin again with each epoch, and what
is still unanswered of an earlier one is never answered (R407, R409; log 74). Requests to the own package are not sealed. -/
def Package.isOut (p : Package) (t : Byte) (seq : BitVec 48) (o : OutReq) : Bool :=
  o.req.seq == seq && (t == p.number || o.req.epoch == p.trust.epoch)

/-- A request in flight from this package. -/
def Package.outReq (p : Package) (t : Byte) (seq : BitVec 48) : Option OutReq := (p.peer t).out.find? (p.isOut t seq)

/-- The launch whose load issued a request of this package to itself. -/
def State.launchOf (s : State) (r : RemoteReq) : Option Nat := (s.pkg.outReq s.pkg.number r.seq).elim (s.launchAt r.cell) (·.launch)

/-- A request in flight changed. -/
def Package.onOut (t : Byte) (seq : BitVec 48) (f : OutReq → OutReq) (p : Package) : Package :=
  p.onPeer t fun P => { P with out := P.out.map fun o => if p.isOut t seq o then f o else o }

/-- Whether the board that issued a request is saved: what it had not sent resumes with it (R340). -/
def OutReq.saved (o : OutReq) (p : Package) : Bool := o.away.isSome && p.launches.any fun l : Launch => some l.id == o.launch

/-- The cell that issued a request, changed: on a saved board, as pre-emption saved it (R340, R346, R388). -/
def onIssuer (o : OutReq) (f : Cell → Cell) (s : State) : State :=
  match o.away with
  | none => s.atCell o.req.cell f
  | some (m, i) =>
    let put (v : Saved) : Saved := if v.member = m then { v with cells := modNth f i v.cells } else v
    s.onPkg fun p => { p with launches := p.launches.map fun l : Launch => if some l.id == o.launch then { l with saved := l.saved.map put } else l }

/-- A request is resent on the first live path after the one last tried; one never sent starts from its tag, once its launch is not saved
(R340, R358, R360). -/
def resend (t : Byte) (seq : BitVec 48) (s : State) : State :=
  match s.pkg.outReq t seq with
  | none => s
  | some o =>
    if o.path.isNone && o.saved s.pkg then s else
    match s.pkg.livePath t (match o.path with | some i => i.toNat + 1 | none => o.req.tag.toNat) with
    | none => s
    | some i => transmit t (some i) o.req (s.onPkg (Package.onOut t seq fun o => { o with path := some (BitVec.ofNat 2 i), noticed := false }))

/-- A path of a package carries nothing from now on (R351). -/
def killPath (t : Byte) (i : Nat) (p : Package) : Package := p.onPeer t fun P => { P with live := P.live.mapFinIdx fun j b _ => if j = i then false else b }

/-- The requests sent on a path that has died are resent at once (R351, R360). -/
def resendFrom (t : Byte) (i : Nat) (s : State) : State :=
  if (s.pkg.peer t).failed then s
  else (((s.pkg.peer t).out.filter fun o => o.path == some (BitVec.ofNat 2 i)).map (·.req.seq)).foldl (fun s q => resend t q s) s

/-- Some paths are dead from now on, and then what was sent on them is resent (R351, R360). -/
def deadPaths (l : List (Byte × Nat)) (s : State) : State :=
  let hit := l.filter fun q => s.pkg.pathLive q.1 q.2 && q.1 != s.pkg.number
  hit.foldl (fun s q => resendFrom q.1 q.2 s) (s.onPkg fun p => hit.foldl (fun p q => killPath q.1 q.2 p) p)

/-- LINK_DOWN: the paths that leave by the port are dead together, so that nothing more is sent by it, its runs of both directions end without a tag, and
the notice goes back along the others that cross it (R351). The requests of an unchecked run are taken as received; a duplicate brings their outcome
(log 43). -/
def execLinkDown (port : BitVec 5) (s : State) : Result :=
  let hit := s.pkg.peers.flatMap fun e =>
    (List.range 4).filterMap fun i => if (e.2.ports.toList.getD i none) == some port then some (BitVec.ofNat 8 e.1, i) else none
  .next (emit (.pathDown port) (deadPaths hit (s.onPkg fun p =>
    { p with runs := adel port.toNat p.runs, skidRun := p.skidRun.filter fun e => e.failed || e.port != port })))

/-- PATH_DOWN_NOTICE: the paths of this package's route table that include the down link, at least one, are dead together (R351; log 41). -/
def execPathDownNotice (first : Byte × BitVec 2) (others : List (Byte × BitVec 2)) (s : State) : Result :=
  .next (deadPaths ((first :: others).map fun q => (q.1, q.2.toNat)) s)

/-- RESEND_TIMEOUT: a request without an answer for the interval is resent (R360). -/
def execResendTimeout (target : Byte) (seq : BitVec 48) (s : State) : Result :=
  .next (match s.pkg.outReq target seq with
    | none => s
    | some o => if o.noticed then s.onPkg (Package.onOut target seq fun o => { o with noticed := false }) else resend target seq s)

/-- RUN_END: a run that has begun ends early and its tag is sent (R368). -/
def execRunEnd (port : BitVec 5) (s : State) : Result :=
  .next (match aget s.pkg.runs port.toNat with
    | none => s
    | some _ => endRun port s)

/-! ### What comes back to the source -/

/-- The address a request names; the conversation word of a conversation's. -/
def remoteAddr : RemoteOp → Word
  | .load a _ | .store a _ _ | .flag a _ _ | .recipe a .. => a
  | .contrib .. | .convOpen _ => 0
  | .convBind w .. | .convTurn w .. | .convDeleg w _ | .convClose w | .convState w _ => w

/-- The INFO of a refusal (R295, R357). -/
def OutReq.info (o : OutReq) : W32 :=
  match o.req.op with
  | .contrib .. => BitVec.ofNat 32 o.unit
  | op => if o.engine then BitVec.ofNat 32 o.unit else (remoteAddr op).setWidth 32

/-- The issuing cell of a request faults, naming the instruction (R357), or the copy whose flit it is (R294, R295). -/
def OutReq.faultCell (o : OutReq) (code : Byte) (info : W32) (c : Cell) : Cell :=
  let c1 := match o.access.bind fun id => c.inflight.find? (·.id == id) with | some a => c.finish a | none => c
  if o.engine then
    match c1.cp.q.find? fun x : Cmd => x.lane == 0 && x.begun with
    | some x => c1.cmdFault x code info
    | none => c1
  else
    c1.withFault { code := code, detail := 0, t := c1.k.t, src := 0, hnd := o.hnd.setWidth 7, word := o.word, pc := o.pc, info := info,
                   aux0 := c1.traceOf.1, aux1 := c1.traceOf.2 }

/-- The issuing board of a request faults, if its load has not ended; a saved one has the fault when it is restored (R346; log 51). -/
def OutReq.fault (o : OutReq) (code : Byte) (info : W32) (s : State) : State :=
  if o.gone then s else onIssuer o (o.faultCell code info) s

/-- The access of its issuing cell that a request was to complete, if it is still in flight. -/
def OutReq.onAccess (o : OutReq) (f : Access → Cell → Cell) (c : Cell) : Cell :=
  match o.access.bind fun id => c.inflight.find? (·.id == id) with
  | some a => f a c
  | none => c

/-- A remote write no longer stands out for the fences that cover it; `failed` says that its peer has failed. -/
def Pend.uncover (q : Byte × BitVec 48) (failed : Bool) : Pend → Pend
  | .rfence l f => .rfence (l.filter (· != q)) (if failed && l.contains q then q.1 :: f else f)
  | .barFence ids l e v => .barFence ids (l.filter (· != q)) e v
  | p => p

/-- The fences of a cell let go of a remote write, and those that are covered wake (R371). -/
def Cell.uncover (q : Byte × BitVec 48) (failed : Bool) (c : Cell) : Cell :=
  ({ c with hnd := c.hnd.map fun h : Handler => { h with pend := h.pend.uncover q failed } }).wakeFences

/-- A request is no longer in flight. -/
def closeOut (t : Byte) (o : OutReq) (s : State) : State :=
  let s1 := s.onPkg (Package.onPeer t fun P => { P with out := P.out.filter fun x => x.req.seq != o.req.seq || x.req.epoch != o.req.epoch })
  if o.write then onIssuer o (Cell.uncover (t, o.req.seq) false) s1 else s1

/-- Whether a handler entry waits for the verdict on a request. -/
def Handler.awaits (t : Byte) (r : RemoteReq) (h : Handler) : Bool :=
  match h.pend with | .request t' e q _ _ => t' == t && e == r.epoch && q == r.seq | _ => false

/-- A verdict reaches the activation that waits for it, which wakes, and the wide wait list with it (R223, R388). -/
def Cell.takeVerdict (t : Byte) (r : RemoteReq) (v : Verdict) (c : Cell) : Cell :=
  if !c.hnd.toList.any (Handler.awaits t r) then c
  else { c with hnd := c.hnd.map fun h =>
    let h1 := if h.awaits t r then { h with pend := (match h.pend with | .request _ _ _ w full => .verdict v w full | p => p) } else h
    if h.st = .parked && (h.awaits t r || h.wide) then h1.wake else h1 }

/-- A verdict reaches the issuing cell of a request (R388). -/
def giveVerdict (t : Byte) (o : OutReq) (v : Verdict) (s : State) : State := onIssuer o (Cell.takeVerdict t o.req v) s

/-- The bytes of an `rld` land as its size field says (R355). -/
def Cell.landBytes (a : Access) (data : List Byte) (c : Cell) : Cell :=
  match a.op, a.dst with
  | .awaitLine off, _ => ((c.storeAt off data).fillWords off data.length).finish a
  | _, .v _ => c.landLanes a (lanesOfBytes 8 data)
  | _, _ => c.land a (if a.word.getLsbD 10 then wordOfBytes data else sextBytes data.length (ofBytes data)) 0

/-- Bytes written to a context's memory on behalf of another package or of a home: every page must be writable (R207), and the
record of a bound stream is denied (R267). -/
def storeVirtual (ctx : BitVec 6) (va : Nat) (data : List Byte) (p : Package) : Got Unit × Package :=
  match placeRange false true ctx va data.length p with
  | (.ok l, p') => if l.any fun q => p'.inRecord q.1 q.2 then (.bad, p') else (.ok (), p'.writePieces l data)
  | (.stall l v, p') => (.stall l v, p')
  | (.bad, p') => (.bad, p')

/-- An answer lands at the source: the first one closes the request (R355, R361, R362, R366, R388). A result whose write meets a translation
stall waits here for the resume (R208, R376), and a refused one faults with the address of the write (R357). -/
def answered (t : Byte) (o : OutReq) (a : RemoteAnswer) (s : State) : State :=
  let s1 := closeOut t o s
  let onAccess (f : Access → Cell → Cell) : State := onIssuer o (o.onAccess f) s1
  match a with
  | .bytes data poison => if poison then o.fault cUNCORRECTABLE o.info s1 else onAccess fun x c => c.landBytes x data
  | .reduced addr data f =>
    match storeVirtual o.req.ctx addr.toNat data s.pkg with
    | (.ok _, p) => onIssuer o (o.onAccess fun x c => c.land x 0 f) (closeOut t o { s with pkg := p })
    | (.stall l v, p) =>
      (noteStall o.req.ctx (t.setWidth 14) 7 1 l v { s with pkg := p }).onPkg (Package.onOut t o.req.seq fun o => { o with due := some a })
    | (.bad, p) => o.fault cACCESS (addr.setWidth 32) (closeOut t o { s with pkg := p })
  | .result v f | .status v f => onAccess fun x c => c.land x v f
  | .verdict v => if o.gone then s1 else giveVerdict t o v s1

/-- An acknowledgement reaches the source; a poison mark faults the issuing board (R360, R368). -/
def acknowledged (t : Byte) (o : OutReq) (poison : Bool) (s : State) : State :=
  let s1 := closeOut t o s
  if poison then o.fault cSEAL_FAIL (t.setWidth 32) s1 else s1

/-- A refusal reaches the source (R357); a refused flit is a fault of its copy (R295). -/
def turnedAway (t : Byte) (o : OutReq) (misaligned : Bool) (s : State) : State :=
  o.fault (if o.engine then cENGINE_FAULT else if misaligned then cMISALIGNED else cACCESS) o.info (closeOut t o s)

/-! ### What the target answers (R356, R357, R361, R368) -/

/-- The bytes of a failed run become uncorrectable (R368). -/
def spoil (l : List (Option CellId × Nat × Nat)) (s : State) : State :=
  l.foldl (fun s q =>
    match q.1 with
    | some c => s.atCell c fun x => { x with badStore := (unitsTouched q.2.1 q.2.2).foldl (fun b u => sput false u true b) x.badStore }
    | none => s.onPkg fun p => { p with bad := (unitsTouched q.2.1 q.2.2).foldl (fun b u => sput false u true b) p.bad }) s

/-- The target remembers how a request ended, for its duplicates; a load is performed again instead (R361). -/
def Package.saveAnswer (src : Byte) (r : RemoteReq) (m : OutMsg) (p : Package) : Package :=
  let seq := r.seq
  p.onPeer src fun P =>
    match m with
    | .answer _ _ a => (match r.op with | .load .. => P | _ => { P with results := P.results ++ [(seq, a)] })
    | .refusal _ _ mis => { P with refusals := P.refusals ++ [(seq, mis)] }
    | _ => P

/-- An answer that goes back is kept, in case its packet is refused there (R405); a notice is not. -/
def Peer.keepReply (tag : BitVec 2) (seq : BitVec 48) (m : OutMsg) (P : Peer) : Peer :=
  match m with
  | .acknowledge .. | .answer .. | .refusal .. => { P with replies := P.replies.filter (·.1 != seq) ++ [(seq, tag, m)] }
  | _ => P

/-- A packet goes back toward a source by the path of a tag, or where that is dead by the first live one after it (R351; log 76); without a live
path it is lost. -/
def sendBack (src : Byte) (tag : BitVec 2) (seq : BitVec 48) (m : OutMsg) (s : State) : State :=
  let s1 := s.onPkg (Package.onPeer src (Peer.keepReply tag seq m))
  match s.pkg.livePath src tag.toNat with
  | none => s1
  | some i => flitOut (s.pkg.portOf src (BitVec.ofNat 2 i)) (emitPacket src tag seq m s1)

/-- Whether an entry of the runs of skid mode is that of a request. -/
def SkidReq.is (src : Byte) (seq : BitVec 48) (e : SkidReq) : Bool := e.src == src && e.seq == seq

/-- A request of a run that is not checked has its outcome; what it wrote is its own, and a duplicate wrote nothing (R361, R368). -/
def SkidReq.brings (m : OutMsg) (pieces : List (Option CellId × Nat × Nat)) (e : SkidReq) : SkidReq :=
  { e with msg := some m, pieces := if e.again then [] else pieces }

/-- The outcome of a request goes back: to the own cells at once, to another package by its link; in skid mode the answers of a
run wait for its tag (R368). `pieces` are the bytes the request wrote. -/
def respond (src : Byte) (r : RemoteReq) (m : OutMsg) (pieces : List (Option CellId × Nat × Nat)) (s : State) : State :=
  let s1 := s.onPkg (Package.saveAnswer src r m)
  if src = s.pkg.number then
    match s1.pkg.outReq src r.seq, m with
    | some o, .acknowledge _ _ p => acknowledged src o p s1
    | some o, .answer _ _ a => answered src o a s1
    | some o, .refusal _ _ mis => turnedAway src o mis s1
    | _, _ => s1
  else
    match s.pkg.skidRun.find? (SkidReq.is src r.seq) with
    | none => sendBack src r.tag r.seq m s1
    | some e =>
      if e.failed then spoil pieces (s1.onPkg fun p => { p with skidRun := p.skidRun.filter fun e => !e.is src r.seq })
      else s1.onPkg fun p => { p with skidRun := p.skidRun.map fun e => if e.is src r.seq then e.brings m pieces else e }

/-- LINK_RUN_TAG: in containment mode the flits of a run that fails are dropped and the sender is told; in skid mode the answers of
the run go out, or its bytes are spoiled and every request is acknowledged with a poison mark (R368). -/
def execLinkRunTag (port : BitVec 5) (good : Bool) (s : State) : Result :=
  let mine (e : SkidReq) : Bool := !e.failed && e.port == port
  .next (if !s.pkg.skid && s.pkg.skidRun.isEmpty then (if good then s else emit (.runRefused port) s)
    else
      let run := s.pkg.skidRun.filter mine
      if good then
        run.foldl (fun s e => match e.msg with | some m => sendBack e.src e.tag e.seq m s | none => s)
          (s.onPkg fun p => { p with skidRun := p.skidRun.filter fun e => !mine e })
      else
        run.foldl (fun s e => sendBack e.src e.tag e.seq (.acknowledge e.src e.seq true) (spoil e.pieces s))
          (s.onPkg fun p => { p with skidRun := (p.skidRun.filter fun e => !mine e) ++ (run.filter fun e => e.msg.isNone && !e.again).map fun e => { e with failed := true } }))

end Sys2Proof.Machine
end

