-- ==== Sys2Proof/Machine/Loader.lean ====
section
/-! DEFINITION. Constants and configuration, major 0x33 (R161-R165), and the loader's acceptance of a request (R134, R162-R164). -/

namespace Sys2Proof.Machine

/-! ### arg.set (R161) -/

/-- The bits of a target that must be 0 (R161). -/
def argReserved (A : Word) : Bool := bits A.toNat 22 42 == 0 && bits A.toNat 14 2 == 0 && bits A.toNat 5 3 == 0

/-- The cell that an `arg.set` names, on the board of the issuer. -/
def argCell (A : Word) (s : State) : Option CellId :=
  match s.boardOf s.cell with
  | none => none
  | some b =>
    let r := bits A.toNat 16 6
    let c := bits A.toNat 8 6
    if argReserved A && r < 8 * b.h && c < 8 * b.w then some (b.cellAt r c) else none

def execArgSet (a : XIdx) (b : VIdx) (s : State) : Result :=
  .next (readX a s fun A => readV b s fun B =>
    match argCell A s with
    | none => denied A s
    | some c =>
      let ch : ChIdx := A.setWidth 5
      if !((s.cellAt c).chanAt ch).const then misformed ch.toNat s
      else advance 4 (s.atCell c (Cell.onChan ch fun C => { C with nextConst := some B.packet })))

/-- CONSTANT_INSTALL: the last accepted constant replaces the held one, as an arrival (R121, R161). -/
def execConstantInstall (c : CellId) (ch : ChIdx) (s : State) : Result :=
  .next (s.atCell c fun x =>
    match (x.chanAt ch).nextConst with
    | some lanes => if x.stopped then x else (x.onChan ch fun C => { C with nextConst := none }).enter false ch (packetOf lanes true false)
    | none => x)

/-! ### cfg.load and cfg.drain (R162-R165) -/

/-- The parameter windows of a cell. -/
def Cell.windows (c : Cell) : List (Word × Word) := c.k.pwb.toList.zip c.k.pws.toList

/-- A request goes to the loader; the access that will take its status waits (R162). -/
def requestLoad (d : XIdx) (addr desc : Word) (drain : Bool) (s : State) : State :=
  freeX d s
    (let id := s.cell.nextId
     let s1 := advance 4 (launch .await (.x d) 0 .none 7 0 [] false false s)
     s1.onPkg fun p => { p with loads := p.loads ++ [⟨some (s.here, id), s.cell.k.ctx, addr, desc, s.cell.windows, drain, .asked, [], 0⟩] })

def execCfgLoad (d a b : XIdx) (s : State) : Result :=
  .next (privileged s (readX a s fun A => readX b s fun B => requestLoad d A B false s))
def execCfgDrain (d b : XIdx) (s : State) : Result :=
  .next (privileged s (readX b s fun B => requestLoad d 0 B true s))

/-- A value for an access of a cell that waits for one: it lands as an access performed; an access that is gone discards it. -/
def landValue (c : CellId) (id : Nat) (v : Word) (f : Flags) (s : State) : State :=
  s.atCell c fun x =>
    match x.inflight.find? (·.id == id) with
    | some a => x.land a v f
    | none => x

/-- The status of a request reaches its issuer (R162, R164). -/
def answerLoad (q : LoadReq) (code : Byte) (s : State) : State :=
  match q.issuer with
  | some (c, id) => landValue c id (code.setWidth 64) 0 s
  | none => s

/-- The board that a description names, if it belongs to the context (R162). -/
def describedBoard (ctx : BitVec 6) (d : Word) (p : Package) : Option Board :=
  let v := d.toNat
  p.boards.find? fun b =>
    b.ctx == ctx && b.die == bits v 14 2 && b.h == bits v 11 3 + 1 && b.w == bits v 8 3 + 1 && b.brow == bits v 3 3 && b.bcol == bits v 0 3

/-- The reserved bits of a description (R162, R164). -/
def descOk (drain : Bool) (d : Word) : Bool :=
  let v := d.toNat
  bits v 48 16 == 0 && bits v 18 6 == 0 && bits v 6 2 == 0 &&
    (if drain then bits v 24 24 == 0 && bits v 16 2 == 0 else bits v 24 24 != 0)

/-- What the loader finds of a request. -/
inductive LoadCheck where
  /-- The board already takes the drain configuration: the request waits for its release (log 72). -/
  | later
  | refused (code : Byte)
  | waits (level : Nat) (va : Word) (b : Board)
  | accepted (b : Board) (gs : List CfgGroup)

/-- The loader's check of a request of an instruction (R162, R164). Of several conditions the first in this order gives the status:
alignment, the board, LEN and the reserved bits, reading the image, its checks (log 72). -/
def checkLoad (q : LoadReq) (p : Package) : LoadCheck × Package :=
  if !q.drain && q.addr.toNat % 8 ≠ 0 then (.refused cMISALIGNED, p)
  else match describedBoard q.ctx q.desc p with
    | none => (.refused cACCESS, p)
    | some b =>
      if b.phase == .draining then (.later, p)
      else if !descOk q.drain q.desc then (.refused cCONFIG_CHECK, p)
      else if q.drain then (.accepted b [], p)
      else
        let n := bits q.desc.toNat 24 24
        match readVirtual q.ctx q.addr.toNat (8 * n) p with
        | (.bad, p) => (.refused cACCESS, p)
        | (.stall l v, p) => (.waits l v b, p)
        | (.ok (l, bad), p) =>
          if bad then (.refused cCONFIG_CHECK, p) else
          match checkImage (8 * b.h) (8 * b.w) (wordsOfBytes n l) with
          | none => (.refused cCONFIG_CHECK, p)
          | some gs => (.accepted b gs, p)

/-- The die of a request. -/
def LoadReq.die (q : LoadReq) : Nat := bits q.desc.toNat 14 2

/-- Whether the loader of the die is at work on an earlier accepted request (R134). -/
def Package.loaderBusy (p : Package) (die : Nat) : Bool := p.loads.any fun q => q.phase != .asked && q.die == die

/-! ### The classifier (R322, R323) -/

/-- A launch changed. -/
def Package.onLaunch (id : Nat) (f : Launch → Launch) (p : Package) : Package :=
  { p with launches := p.launches.map fun l => if l.id == id then f l else l }

/-- A launch by its number. -/
def Package.launch (p : Package) (id : Nat) : Option Launch := p.launches.find? fun l : Launch => l.id == id

/-- A member of a launch changed. -/
def Launch.onMember (m : Nat) (f : Member → Member) (l : Launch) : Launch := { l with members := modNth f m l.members }

/-- The launch and the member of a board. -/
def Package.memberOf (p : Package) (b : Board) : Option (Launch × Member) :=
  match b.launch.bind p.launch with
  | some l => (l.members[b.member]?).map fun m => (l, m)
  | none => none

/-- The class of a load that moved some lines: compute-bound when its products reach 64 for each byte (R322). -/
def Board.classify (b : Board) (lines : Nat) : Bool := 0 < b.products && 64 * (128 * lines) ≤ b.products

/-- The class table takes a class, most recently used first; it keeps 256 entries (R323). -/
def putClass (g : Word) (c : Bool) (l : List (Word × Bool)) : List (Word × Bool) := ((g, c) :: l.filter fun e => e.1 != g).take 256

/-- The load of a board is classified, if it was not; load 0 of a member gives the class of its graph (R322, R323). -/
def classify (id lines : Nat) (s : State) : State :=
  match s.pkg.board id with
  | none => s
  | some b =>
    if b.cls.isSome then s
    else
      let c := b.classify lines
      let s1 := s.onPkg (Package.onBoard id fun b => { b with cls := some c })
      match s.pkg.memberOf b with
      | some (l, m) =>
        if b.load = 0 && m.cls.isNone then
          s1.onPkg fun p => { p.onLaunch l.id (fun l => l.onMember b.member fun m => { m with cls := some c }) with classes := putClass m.graph c p.classes }
        else s1
      | none => s1

/-- A load that runs on a board ends, classified over the cycles that it ran (R322), and nothing more of it runs (R134). -/
def beginDrain (b : Board) (ph : Phase) (s : State) : State :=
  let s1 := if b.phase == .running || b.phase == .preempting then classify b.id (Config.linesMoved s.tick b.id) s else s
  (endLoad b s1).onPkg (Package.onBoard b.id fun x => { x with phase := ph })

/-! ### Acceptance (R134, R162-R164) -/

/-- The loads that ask for a board are dropped. -/
def dropLoads (id : Nat) (p : Package) : Package := { p with loads := p.loads.filter fun q => !(q.board == id && (q.issuer.isNone || q.phase != .asked)) }

/-- Whether the issuer of a request lies on a board. -/
def LoadReq.from_ (q : LoadReq) (b : Board) : Bool := q.issuer.any fun i => b.holds i.1

/-- An accepted request of an instruction: the drain configuration, under which no load of the board's graph follows (log 49), a graceful load, or
the drain phase of a load (R134, R163, R164). A graceful load of the issuer's own board answers only when the issuing activation has ended (R163; log 72). -/
def acceptLoad (k : Nat) (q : LoadReq) (b : Board) (gs : List CfgGroup) (s : State) : State :=
  if q.drain then
    (beginDrain b .draining s).onPkg fun p =>
      dropLoads b.id { p.onBoard b.id (fun x => { x with drainFor := q.issuer }) with loads := delNth k p.loads }
  else
    let grace := q.desc.getLsbD 16
    let s1 := s.onPkg fun p => { p with loads := modNth (fun q => { q with phase := if grace then .graceful else .words, groups := gs, board := b.id }) k p.loads }
    if grace && q.from_ b then s1 else answerLoad q 0 (if grace then s1 else beginDrain b .empty s1)

/-- The check of a request of an instruction has an outcome (R162). A stall met on the image is one of the sequencers, of the board to be loaded
(R226, log 72). -/
def decideLoad (k : Nat) (q : LoadReq) (s : State) : State :=
  match checkLoad q s.pkg with
  | (.later, _) => s
  | (.refused code, p) => answerLoad q code { s with pkg := { p with loads := delNth k p.loads } }
  | (.waits l v b, p) => stallUnit (.load q.board q.issuer) q.ctx (b.cellAt 0 0) 6 0 l v { s with pkg := p }
  | (.accepted b gs, p) => acceptLoad k q b gs { s with pkg := p }

/-- Whether the access that takes the status of a request is still in flight, and then whether its activation has ended. -/
def LoadReq.owed (q : LoadReq) (s : State) : Option Bool :=
  q.issuer.bind fun i => ((s.cellAt i.1).inflight.find? (·.id == i.2)).map fun a => !a.live

/-- BOARD_QUIESCENT: a graceful load goes on once its board is quiescent (R163); one of the issuer's own board first answers, when the
issuing activation has ended. -/
def execBoardQuiescent (k : Nat) (s : State) : Result :=
  .next (match s.pkg.loads[k]? with
    | none => s
    | some q =>
      match q.phase, s.pkg.board q.board with
      | .graceful, some b =>
        if q.owed s = some true then answerLoad q 0 s
        else if s.quiescent b then
          (beginDrain b .empty s).onPkg fun p => { p with loads := modNth (fun q => { q with phase := .words }) k p.loads }
        else s
      | _, _ => s)

end Sys2Proof.Machine
end

