-- ==== Sys2Proof/Machine/Group.lean ====
section
/-! DEFINITION. Groups and reduction in the switch: `grp.set`, `mcred` (R365, R366, R375, R376), and the rounds at the home (R366,
R367, R377). -/

namespace Sys2Proof.Machine

/-! ### Reading at issue (R355, R375, R376, R386) -/

/-- Whether an earlier access of the running activation to cell store has still to be performed. -/
def Cell.cellPending (c : Cell) : Bool := c.inflight.any fun a => c.own a && a.loc.inCell

/-- Bytes that an instruction reads when it issues, from global memory or the own cell store, after every earlier cell-store access of
the activation. A translation stall holds the instruction; damaged data is a fault (R208, R331). -/
def readAtIssue (va : Word) (n : Nat) (s : State) (k : List Byte → State → State) : State :=
  if s.cell.cellPending then hold .staying s
  else match region va n with
    | .cell off => if s.cell.damagedAt off n then raise cUNCORRECTABLE 0 (va.setWidth 32) s else k (s.cell.load off n) s
    | .global =>
      match readVirtual s.cell.k.ctx va.toNat n s.pkg with
      | (.ok (l, bad), p) => if bad then raise cUNCORRECTABLE 0 (va.setWidth 32) s else k l { s with pkg := p }
      | (.stall l v, p) => hold .stalled (noteStall s.cell.k.ctx s.here 0 0 l v { s with pkg := p })
      | (.bad, _) => denied va s
    | _ => denied va s

/-! ### Rounds at the home (R366, R367, R377) -/

/-- A group installed on this package. -/
def Package.group (p : Package) (ctx : BitVec 6) (g : Byte) : Option Group := p.groups.find? fun x => x.ctx == ctx && x.g == g

/-- A group put in place of the one of its name. -/
def Package.putGroup (x : Group) (p : Package) : Package :=
  { p with groups := (p.groups.filter fun y => !(y.ctx == x.ctx && y.g == x.g)) ++ [x] }

/-- The formats of a group. -/
def Group.inFmt (x : Group) : FmtDesc := if x.inF32 then fFP32 else fBF16
def Group.outFmt (x : Group) : FmtDesc := if x.outF32 then fFP32 else fBF16
/-- The bytes of a contribution. -/
def Group.bytes (x : Group) : Nat := (x.count + 1) * (width x.inFmt / 8)

/-- The contributions of the current round. -/
def Group.now (x : Group) : List Contrib := x.contribs.filter fun c => c.round == x.round

/-- One element of the result: FP32 sums in member order, then one rounding (R366). -/
def reduceElem (x : Group) : List Nat → Nat × Flags
  | [] => (0, 0)
  | a :: r =>
    let step (acc : Num × Flags) (b : Nat) : Num × Flags :=
      let (t, f1) := addExact 0 acc.1 (valueOf x.inFmt b)
      let (c, f2) := roundTo fFP32 rne 0 t
      (valueOf fFP32 c, acc.2 ||| f1 ||| f2)
    let (acc, f) := r.foldl step (valueOf x.inFmt a, 0)
    let (c, f2) := roundTo x.outFmt rne 0 acc
    (c, f ||| f2)

/-- The result of the current round: its bytes and flags (R366). -/
def Group.result (x : Group) : List Byte × Flags :=
  let inputs := x.members.map fun m =>
    match x.now.find? (·.src == m) with
    | some c => elementsOfBytes x.inFmt (x.count + 1) c.data
    | none => []
  let (l, f) := collect ((List.range (x.count + 1)).map fun e => reduceElem x (inputs.map fun i => i.getD e 0))
  (bytesOfElements x.outFmt l, f)

/-- The mask of the members that meet a condition (R367). -/
def Group.mask (x : Group) (p : Byte → Bool) : Word :=
  BitVec.ofNat 64 ((x.members.mapIdx fun i m => if p m then 2 ^ i else 0).foldl (· + ·) 0)

/-- A contribution is answered. -/
def answerContrib (c : Contrib) (a : RemoteAnswer) (s : State) : State := respond c.src c.req (.answer c.src c.req.seq a) [] s
/-- A contribution is refused with ACCESS (R365, R375). -/
def refuseContrib (c : Contrib) (s : State) : State := respond c.src c.req (.refusal c.src c.req.seq false) [] s

/-- A `grp.set` takes effect on this package (R365): an install resets the round and takes the contributions that came early; a
removal refuses those held for later rounds, and at the home those that come after it. -/
def applyGroup (q : GroupOp) (s : State) : State :=
  match q.new with
  | some x =>
    let early := s.pkg.early.filter fun c => c.req.ctx == q.ctx && (match c.req.op with | .contrib g _ _ => g == q.g | _ => false)
    let kept := ((s.pkg.group q.ctx q.g).elim [] (·.contribs)) ++ early
    let good (c : Contrib) : Bool := x.home == s.pkg.number && x.members.contains c.src && c.data.length == x.bytes
    let s1 := s.onPkg fun p =>
      { (p.putGroup { x with contribs := kept.filter good }) with
        early := p.early.filter fun c => !early.contains c
        removed := p.removed.filter fun r => r != (q.ctx, q.g) }
    landValue q.cell q.id 0 0 ((kept.filter fun c => !good c).foldl (fun s c => refuseContrib c s) s1)
  | none =>
    let old := s.pkg.group q.ctx q.g
    let held := old.elim [] (·.contribs)
    let s1 := s.onPkg fun p =>
      { p with
        groups := p.groups.filter fun y => !(y.ctx == q.ctx && y.g == q.g)
        removed := if old.any fun x => x.home == s.pkg.number then p.removed ++ [(q.ctx, q.g)] else p.removed }
    landValue q.cell q.id 0 0 (held.foldl (fun s c => refuseContrib c s) s1)

/-- The current round ends: the next one is current, and every `grp.set` that waited takes effect, in order (R365, R377). -/
def endRound (x : Group) (mask : Word) (s : State) : State :=
  let s1 := s.onPkg fun p =>
    p.putGroup { x with round := x.round + 1, contribs := x.contribs.filter (fun c => c.round != x.round),
                        closed := if mask = 0 then x.closed else x.closed ++ [(x.round, mask)] }
  let due (q : GroupOp) : Bool := q.ctx == x.ctx && q.g == x.g
  (s1.pkg.groupOps.filter due).foldl (fun s q => applyGroup q s) (s1.onPkg fun p => { p with groupOps := p.groupOps.filter fun q => !due q })

/-- The home closes the current round with members absent: the mask goes to every member that contributed (R367). -/
def closeRound (x : Group) (mask : Word) (s : State) : State :=
  x.now.foldl (fun s c => answerContrib c (.status mask 0) s) (endRound x mask s)

/-- A complete round: the result is written, and then every member is answered (R366, R376). A stall of the home's own write holds the
round until the doorbell of the context (R208); one that is refused there faults its own member with the address of the write (R357). -/
def completeRound (x : Group) (s : State) : State :=
  let (data, f) := x.result
  let here := !x.multicast || x.members.contains s.pkg.number
  let tell (own : OutMsg → OutMsg) (s : State) : State :=
    x.now.foldl (fun s c =>
      let a : RemoteAnswer := if x.multicast && c.src != s.pkg.number then .reduced x.dst data f else .status 0 f
      let m : OutMsg := .answer c.src c.req.seq a
      respond c.src c.req (if c.src = s.pkg.number then own m else m) [] s) (endRound x 0 s)
  if s.pkg.stalledAt x.ctx (.round x.g) then s
  else if here then
    match storeVirtual x.ctx x.dst.toNat data s.pkg with
    | (.ok _, p) => tell id { s with pkg := p }
    | (.stall l v, p) => stallUnit (.round x.g) x.ctx (s.pkg.number.setWidth 14) 7 1 l v { s with pkg := p }
    | (.bad, p) => tell (fun m => match m with | .answer t q _ => .answer t q (.reduced x.dst data f) | m => m) { s with pkg := p }
  else tell id s

/-- The rounds of a group that can end now do: complete ones, and those of which a member's package is declared failed (R366, R367). -/
def runRounds (ctx : BitVec 6) (g : Byte) : Nat → State → State
  | 0, s => s
  | fuel + 1, s =>
    match s.pkg.group ctx g with
    | none => s
    | some x =>
      let failed (m : Byte) : Bool := m != s.pkg.number && (s.pkg.peer m).failed
      if x.home != s.pkg.number || x.now.isEmpty then s
      else if x.members.all fun m => x.now.any (·.src == m) then
        let t := completeRound x s
        if (t.pkg.group ctx g).any (fun y => y.round == x.round && y.now == x.now) then t else runRounds ctx g fuel t
      else if x.members.any failed then runRounds ctx g fuel (closeRound x (x.mask failed) s)
      else s

/-- As many rounds as the contributions held could end. -/
def settleRounds (ctx : BitVec 6) (g : Byte) (s : State) : State :=
  runRounds ctx g ((s.pkg.group ctx g).elim 0 (·.contribs.length) + 1) s

/-- A new contribution at the home (R366, R367, R375, R377). -/
def takeContrib (src : Byte) (r : RemoteReq) (g : Byte) (round : Nat) (data : List Byte) (s : State) : State :=
  let c : Contrib := ⟨src, r, round, data⟩
  let held (s : State) : State := if src = s.pkg.number then s else sendBack src r.tag r.seq (.holdNotice src r.seq) s
  match s.pkg.group r.ctx g with
  | none =>
    if s.pkg.removed.contains (r.ctx, g) then refuseContrib c s
    else held (s.onPkg fun p => { p with early := p.early ++ [c] })
  | some x =>
    if x.home != s.pkg.number || !x.members.contains src || data.length != x.bytes then refuseContrib c s
    else if round < x.round then answerContrib c (.status ((aget x.closed round).getD 0) 0) s
    else settleRounds r.ctx g (held (s.onPkg (Package.putGroup { x with contribs := x.contribs ++ [c] })))

/-- GROUP_TIMEOUT: the round in progress is closed when the absence timeout expires (R367). -/
def execGroupTimeout (ctx : BitVec 6) (g : Byte) (s : State) : Result :=
  .next (match s.pkg.group ctx g with
    | none => s
    | some x =>
      if x.home != s.pkg.number || x.gto = 0 || x.now.isEmpty || x.members.all fun m => x.now.any (·.src == m) then s
      else
        let absent (m : Byte) : Bool := !(x.now.any (·.src == m)) || (m != s.pkg.number && (s.pkg.peer m).failed)
        settleRounds ctx g (closeRound x (x.mask absent) s))

/-! ### grp.set (R365, R375) -/

/-- The group that a descriptor describes. -/
def groupFrom (ctx : BitVec 6) (g : Byte) (d : List Byte) : Group :=
  let w := wordsOfBytes 16 d
  let v := (dw w 8).toNat
  { ctx := ctx, g := g, members := d.take (bits v 8 6 + 1), home := BitVec.ofNat 8 (bits v 0 8), gto := BitVec.ofNat 32 (bits v 32 32),
    count := bits v 17 6, multicast := bitOf v 16, outF32 := bitOf v 15, inF32 := bitOf v 14, dst := dw w 9, round := 0, mine := 0,
    contribs := [], closed := [] }

/-- The status of an install from its descriptor (R365): 0 installs. -/
def installStatus (x : Group) (d : List Byte) (p : Package) : Byte :=
  let w := wordsOfBytes 16 d
  let size (f : FmtDesc) : Nat := (x.count + 1) * (width f / 8)
  if x.dst.toNat % 128 ≠ 0 then cMISALIGNED
  else if (256 ≤ p.groups.length && (p.group x.ctx x.g).isNone) || (x.home != p.number && !x.members.contains p.number) then cACCESS
  else if bits (dw w 8).toNat 23 9 != 0 || (List.range 6).any (fun i => dw w (10 + i) != 0) || x.members.eraseDups.length != x.members.length ||
      128 < size x.inFmt || 128 < size x.outFmt then cCONFIG_CHECK
  else 0

/-- An operation on a group starts: at the home it waits for the round in progress (R365). -/
def startGroup (d : XIdx) (g : Byte) (new : Option Group) (s : State) : State :=
  let ctx := s.cell.k.ctx
  let q : GroupOp := ⟨s.here, s.cell.nextId, ctx, g, new⟩
  let s1 := advance 4 (launch .await (.x d) 0 .none 7 0 [] false false s)
  if (s.pkg.group ctx g).any fun x => x.home == s.pkg.number && !x.now.isEmpty then
    s1.onPkg fun p => { p with groupOps := p.groupOps ++ [q] }
  else settleRounds ctx g (applyGroup q s1)

def execGrpSet (d a b : XIdx) (s : State) : Result :=
  .next (privileged s (readX a s fun A => readX b s fun B =>
    let g : Byte := A.setWidth 8
    let status (c : Byte) (s : State) : State :=
      advance 4 (launch (.value (c.setWidth 64) 0) (.x d) 0 .none 7 0 [] false false s)
    if A.extractLsb' 9 55 ≠ 0 then denied A s
    else if s.cell.acquiring then hold .staying s
    else buffered s (freeX d s
      (if !A.getLsbD 8 then (if (s.pkg.group s.cell.k.ctx g).isNone then status cACCESS s else startGroup d g none s)
       else if B.toNat % 128 ≠ 0 then status cMISALIGNED s
       else readAtIssue B 128 s fun l s =>
         let x := groupFrom s.cell.k.ctx g l
         let c := installStatus x l s.pkg
         if c = 0 then startGroup d g (some x) s else status c s))))

/-! ### mcred (R366, R376) -/

/-- The contribution of an `mcred`: the group must be installed, the bytes within one aligned 128-byte unit. -/
def contribute (d : XIdx) (A : Word) (x : Group) (s : State) : State :=
  let n := x.bytes
  if A.toNat / 128 ≠ (A.toNat + n - 1) / 128 then raise cMISALIGNED 0 (A.setWidth 32) s
  else if (match region A n with | .global | .cell _ => false | _ => true) then denied A s
  else if s.cutNow x.home then raise cPEER_FAIL 0 (x.home.setWidth 32) s
  else if s.cell.acquiring || s.linkHeld x.home then hold .staying s
  else afterCovered false (if region A n == .global then s.cell.releaseSet else []) s fun s => buffered s (freeX d s (readAtIssue A n s fun data s =>
    let id := s.cell.nextId
    let q : Sending := ⟨x.home, none, .contrib x.g x.mine data, some id, false, false, s.cell.cur.getD 0, s.cell.pc, s.cell.wordAt s.cell.pc,
      (A.setWidth 32).toNat⟩
    let s1 := s.onPkg (Package.putGroup { x with mine := x.mine + 1 })
    sendRequest q (advance 4 (launch .await (.x d) A .none 7 0 [] true false s1))))

def execMcred (d a b : XIdx) (s : State) : Result :=
  .next (readX a s fun A => readX b s fun B =>
    if B.extractLsb' 8 56 ≠ 0 then denied B s
    else match s.pkg.group s.cell.k.ctx (B.setWidth 8) with
      | none => denied B s
      | some x => contribute d A x s)

end Sys2Proof.Machine
end

