-- ==== Sys2Proof/Machine/Conv.lean ====
section
/-! DEFINITION. Conversations: the home's operations on an entry (R378-R397, R399, R400), the instructions of major 0x36 (R385-R392),
deliveries, credits and breaks. -/

namespace Sys2Proof.Machine

/-! ### Conversation words, headers and endpoints (R379, R383, R384) -/

def cvRole (w : Word) : BitVec 3 := w.extractLsb' 28 3
def cvKind (w : Word) : BitVec 6 := w.extractLsb' 20 6
def cvHome (w : Word) : Byte := w.extractLsb' 12 8
def cvEntry (w : Word) : BitVec 12 := w.extractLsb' 0 12

/-- A message header (R384). -/
def cvHeader (brk cho : Bool) (src : BitVec 3) (kind : BitVec 6) (state : Byte) (dlg : Bool) (entry : BitVec 12) : W32 :=
  BitVec.ofBool brk ++ BitVec.ofBool cho ++ src ++ kind ++ state ++ BitVec.ofBool dlg ++ entry

/-- Whether a channel is fit to be an endpoint (R383). -/
def Channel.fit (C : Channel) : Bool := C.en && !C.latest && C.tgt.toNat < 64 && !C.circuit

/-! ### Protocol images (R380, R381) -/

/-- A transition of an image. -/
def transOf (w : Word) : Trans :=
  { state := w.extractLsb' 0 8, role := w.extractLsb' 8 3, kind := w.extractLsb' 11 6, next := w.extractLsb' 19 8, recv := w.extractLsb' 27 8,
    choice := w.getLsbD 35 }

/-- No two transitions share state, role and kind. -/
def transDistinct : List Trans → Bool
  | [] => true
  | t :: r => !(r.any fun u => u.state == t.state && u.role == t.role && u.kind == t.kind) && transDistinct r

/-- The checks of an image: its header and its transitions (R380). -/
def imageOk (img : List Word) : Bool :=
  let h := (img.headD 0).toNat
  let nrole := bits h 16 3
  let ok (w : Word) : Bool :=
    let t := transOf w
    bits w.toNat 36 28 == 0 && bits w.toNat 17 2 == 0 && t.role.toNat ≤ nrole && t.recv.toNat < 2 ^ (nrole + 1) && !t.recv.getLsbD t.role.toNat
  bits h 19 45 == 0 && bits h 11 5 == 0 && 1 ≤ bits h 0 11 && bits h 0 11 ≤ 1024 && img.tail.all ok && transDistinct (img.tail.map transOf)

/-- The transitions that the conversations of a table keep: identical images share one copy (R381). -/
def Package.protocolStore (p : Package) : Nat := (((p.convs.map fun e => e.2.image).eraseDups).map fun i => i.length - 1).sum

/-- Whether a conversation's state is terminal (R380). -/
def Conv.terminal (v : Conv) : Bool := !(v.trans.any fun t => t.state == v.state)

/-! ### Credits and the buffer (R383) -/

/-- The endpoint of a role. -/
def Conv.endpoint (v : Conv) (role : BitVec 3) : Option Endpoint := v.role[role.toNat]'role.isLt

/-- The credits that the home holds for an endpoint. -/
def Conv.creditsOf (v : Conv) (k : Endpoint) : Nat := ((v.credits.find? fun c => c.1 == k).map Prod.snd).getD 0

/-- The credits of an endpoint changed. -/
def Conv.setCredits (v : Conv) (k : Endpoint) (n : Nat) : Conv := { v with credits := (v.credits.filter fun c => c.1 != k) ++ [(k, n)] }

/-- Whether a launch is pre-empted: its boards are being saved, or wait to be restored. Messages for it wait in the buffer (R396). -/
def State.asleep (s : State) (own : Option Nat) : Bool :=
  s.pkg.launches.any fun l : Launch => own == some l.id && (l.preempt.isSome || !l.saved.isEmpty)

/-- The messages take the credits that there are, in their order: what remains is to be walked, what is done, and the credits. -/
def grantCredits (asleep : Option Nat → Bool) (v : Conv) : List ConvMsg → List ConvMsg → Conv
  | [], done => { v with msgs := done }
  | m :: r, done =>
    match m.dest with
    | some e =>
      if !m.credit && v.creditsOf e ≠ 0 && !asleep m.own && !(done.any fun d => d.dest == m.dest && !d.credit) then
        grantCredits asleep (v.setCredits e (v.creditsOf e - 1)) r (done ++ [{ m with credit := true }])
      else grantCredits asleep v r (done ++ [m])
    | none => grantCredits asleep v r (done ++ [m])

/-- A conversation whose messages have taken the credits there are. -/
def Conv.granted (v : Conv) (s : State) : Conv := grantCredits s.asleep v v.msgs []

/-- The places of the buffer in use: the messages without a credit. -/
def Conv.buffered (v : Conv) : Nat := (v.msgs.filter fun m => !m.credit).length

/-- Whether messages that a turn has added to a conversation find no place among the 16 (R378, R388). -/
def Conv.full (v old : Conv) : Bool := 16 < v.buffered && old.buffered < v.buffered

/-- A role takes an endpoint, and the launch that holds it there. -/
def Conv.bindRole (v : Conv) (role : BitVec 3) (e : Option Endpoint) (own : Option Nat) : Conv :=
  { v with role := v.role.set role.toNat e role.isLt, owner := v.owner.set role.toNat own role.isLt }

/-- A role is unbound. What waits for it in the buffer waits for the role to be bound again (R400), and what has its credit was on its way to
the endpoint that has ended (log 40); in a broken conversation, which takes no binding, both are discarded. -/
def Conv.clearRole (v : Conv) (role : BitVec 3) : Conv :=
  let due (m : ConvMsg) : Bool := m.role == role && m.dest == v.endpoint role
  let waits (m : ConvMsg) : ConvMsg := if due m then { m with dest := none, own := none } else m
  { v.bindRole role none none with msgs := (v.msgs.filter fun m => !(due m && (v.brk || m.credit))).map waits }

/-- The endpoint of a role begins with DEPTH credits, unless another role has it already (R383). -/
def Conv.openCredits (v : Conv) (role : BitVec 3) (e : Endpoint) (depth : Nat) : Conv :=
  if ((List.range 8).map (BitVec.ofNat 3)).any fun i => i != role && v.endpoint i == some e then v else v.setCredits e depth

/-! ### The table of the home -/

/-- An entry of the home's table, if it belongs to a context (R378). -/
def Package.conv (p : Package) (entry : BitVec 12) (ctx : BitVec 6) : Option Conv :=
  (aget p.convs entry.toNat).bind fun v => if v.ctx == ctx then some v else none

/-- An entry put in place. -/
def putConv (entry : BitVec 12) (v : Conv) (s : State) : State := s.onPkg fun p => { p with convs := aput entry.toNat v p.convs }
/-- An entry freed. -/
def freeConv (entry : BitVec 12) (s : State) : State := s.onPkg fun p => { p with convs := adel entry.toNat p.convs }

/-- A request is refused with ACCESS (R378, R357). -/
def refuseConv (src : Byte) (r : RemoteReq) (s : State) : State := respond src r (.refusal src r.seq false) [] s
/-- A request is answered. -/
def answerConv (src : Byte) (r : RemoteReq) (a : RemoteAnswer) (s : State) : State := respond src r (.answer src r.seq a) [] s
/-- A request of another package is held at the home (R356). -/
def holdConv (src : Byte) (r : RemoteReq) (s : State) : State := if src = s.pkg.number then s else sendBack src r.tag r.seq (.holdNotice src r.seq) s

/-- The word of `cv.state` (R392). -/
def stateWord (v : Conv) : Word := fields [(if v.brk then 1 else 0, 63), (v.turns.toNat, 16), (if v.brk then v.cause.toNat else 0, 8), (v.state.toNat, 0)]

/-- The state requests that are now met are answered (R392). -/
def answerWaiting (entry : BitVec 12) (s : State) : State :=
  match aget s.pkg.convs entry.toNat with
  | none => s
  | some v =>
    let met (q : Byte × RemoteReq × Byte) : Bool := v.brk || q.2.2 == v.state
    (v.waiting.filter met).foldl (fun s q => answerConv q.1 q.2.1 (.status (stateWord v) 0) s)
      (putConv entry { v with waiting := v.waiting.filter fun q => !met q } s)

/-- The launch that holds a role. -/
def Conv.ownerOf (v : Conv) (role : BitVec 3) : Option Nat := v.owner[role.toNat]'role.isLt

/-- Whether the issuing cell of a request holds a role (R388); of this package's cells, whether the launch on the cell is the one that holds
it (R313). -/
def Conv.holder (v : Conv) (s : State) (src : Byte) (r : RemoteReq) (role : BitVec 3) : Bool :=
  ((v.endpoint role).any fun e => e.pkg == src && e.cell == r.cell) && (src != s.pkg.number || v.ownerOf role == s.launchOf r)

/-- What the home makes of a turn (R388). -/
inductive Decided where
  | answer (a : Verdict)
  | held
  | accepted (v : Conv)

/-- The verdict on a send or a choice (R388): it is held while its messages would not fit the 16 places. -/
def Conv.decide (v : Conv) (s : State) (entry : BitVec 12) (src : Byte) (r : RemoteReq) (w : Word) (choice : Bool) (lanes : List W32) : Decided :=
  let role := cvRole w
  if v.brk then .answer .broken
  else if !v.holder s src r role then .answer .role
  else match v.trans.find? fun t => t.state == v.state && t.role == role && t.kind == cvKind w && t.choice == choice with
    | none => .answer (.turn v.state)
    | some t =>
      let h := cvHeader false choice role (cvKind w) t.next false entry
      let dests := ((List.range 8).filter fun i => t.recv.getLsbD i).map (BitVec.ofNat 3)
      let v1 := ({ v with
        state := t.next
        turns := v.turns + 1
        msgs := v.msgs ++ dests.map fun i => (⟨i, h :: lanes, false, v.endpoint i, v.ownerOf i, false⟩ : ConvMsg) }).granted s
      if v1.full v then .held else .accepted v1

/-- DEPTH of an endpoint's channel as the home knows it. A delegate that has no channel there yet is owed its notice, which then breaks the
conversation (R390). -/
def depthOf (e : Endpoint) (s : State) : Nat :=
  if e.pkg = s.pkg.number then max 1 ((s.cellAt e.cell).chanAt e.ch).depth else (Config.remoteDepth e.pkg e.cell e.ch).toNat + 1

/-- The verdict on a delegation (R390): its notice takes a place of the buffer as a message does. -/
def Conv.decideDeleg (v : Conv) (s : State) (entry : BitVec 12) (src : Byte) (r : RemoteReq) (w target : Word) : Decided :=
  let role := cvRole w
  if v.brk then .answer .broken
  else if !v.holder s src r role then .answer .role
  else
    let e : Endpoint := ⟨target.extractLsb' 19 8, target.extractLsb' 5 14, target.extractLsb' 0 5⟩
    let own := if e.pkg = s.pkg.number then s.launchAt e.cell else none
    let v1 := (v.bindRole role (some e) own).openCredits role e (depthOf e s)
    let v2 := ({ v1 with
      turns := v.turns + 1
      msgs := v1.msgs ++ [(⟨role, [cvHeader false false role 0 v.state true entry], false, some e, own, false⟩ : ConvMsg)] }).granted s
    if v2.full v then .held else .accepted v2

/-- A turn or delegation at the home: decided and answered, or held, of which its source is told the first time (R356, R388, R390). -/
def tryTurn (entry : BitVec 12) (src : Byte) (r : RemoteReq) (first : Bool) (decide : Conv → Decided) (s : State) : State :=
  match aget s.pkg.convs entry.toNat with
  | none => s
  | some v =>
    match decide v with
    | .answer a => answerConv src r (.verdict a) s
    | .held =>
      let t := putConv entry { v with heldTurns := v.heldTurns ++ [(src, r)] } s
      if first then holdConv src r t else t
    | .accepted v1 => answerWaiting entry (answerConv src r (.verdict .accepted) (putConv entry v1 s))

/-- The turns and delegations held for a place of the buffer are decided again, in their order (R388). -/
def retryTurns (entry : BitVec 12) (s : State) : State :=
  match aget s.pkg.convs entry.toNat with
  | none => s
  | some v =>
    v.heldTurns.foldl (fun s q =>
      match q.2.op with
      | .convTurn w c l => tryTurn entry q.1 q.2 false (fun v => v.decide s entry q.1 q.2 w c l) s
      | .convDeleg w t => tryTurn entry q.1 q.2 false (fun v => v.decideDeleg s entry q.1 q.2 w t) s
      | _ => s)
      (putConv entry { v with heldTurns := [] } s)

/-- Buffered messages take the credits there are, and the turns that were held take the places that are free (R383, R388). -/
def regrant (entry : BitVec 12) (s : State) : State :=
  match aget s.pkg.convs entry.toNat with
  | none => s
  | some v => retryTurns entry (putConv entry (v.granted s) s)

/-- An entry is freed: every close held for it has its verdict, and a state request that waits names a free entry (R378, R391, R400). -/
def endConv (entry : BitVec 12) (v : Conv) (s : State) : State :=
  v.waiting.foldl (fun s q => refuseConv q.1 q.2.1 s) (v.heldClose.foldl (fun s q => answerConv q.1 q.2 (.verdict .accepted) s) (freeConv entry s))

/-- An entry is freed once its held closes, or the close that broke it, have nothing left to deliver, and when it is broken or in a terminal
state with every role unbound (R391, R396, R400). -/
def reapConv (entry : BitVec 12) (s : State) : State :=
  match aget s.pkg.convs entry.toNat with
  | none => s
  | some v =>
    if (v.msgs.isEmpty && (v.closing || !v.heldClose.isEmpty)) || ((v.brk || v.terminal) && v.role.toList.all Option.isNone) then endConv entry v s else s

/-! ### Breaking (R395-R397) -/

/-- The record of a break (R397). -/
def brokenRecord (home : Byte) (entry : BitVec 12) (state : Byte) (turns : W32) (role : BitVec 3) (cause : BitVec 3) (pkg : Byte) (cell : CellId) : List Word :=
  [fields [(6, 0), (0x13, 8), (home.toNat, 32), (entry.toNat, 40)], fields [(turns.toNat, 0), (state.toNat, 32)],
   fields [(cell.toNat, 0), (pkg.toNat, 14), (cause.toNat, 22), (role.toNat, 25)], 0, 0, 0, 0, 0]

/-- The home breaks a conversation (R395): held requests end, buffered messages go, a notice goes to every endpoint still alive, state
requests are answered and the records are published. `role` is the role whose endpoint `e` ended or failed, or the closer's; one whose load
has ended, or to which no delivery can be made, is unbound (R396). A notice spends a credit, as every delivery does (R383). -/
def breakAt (entry : BitVec 12) (cause : BitVec 3) (role : BitVec 3) (e : Option Endpoint) (s : State) : State :=
  match aget s.pkg.convs entry.toNat with
  | none => s
  | some v =>
    if v.brk then reapConv entry s
    else
      let dead (i : BitVec 3) (x : Endpoint) : Bool :=
        s.pkg.endings.contains (entry, i, x) || (x.pkg != s.pkg.number && (s.pkg.peer x.pkg).failed) ||
          (cause == 0 && i == role && some x == e)
      let notice := cvHeader true false cause 0 v.state false entry
      let alive := ((List.range 8).map (BitVec.ofNat 3)).filterMap fun i =>
        match v.endpoint i with | some x => if dead i x then none else some (⟨i, [notice], false, some x, v.ownerOf i, false⟩ : ConvMsg) | none => none
      let rec' := brokenRecord s.pkg.number entry v.state v.turns role cause ((e.map (·.pkg)).getD 0) ((e.map (·.cell)).getD 0)
      let lost (m : ConvMsg) : Bool := !m.credit || m.sent || m.dest.any (dead m.role)
      let v1 := ({ v with
        brk := true
        cause := cause
        msgs := (v.msgs.filter fun m => !lost m) ++ alive
        heldTurns := []
        heldClose := [] }).granted s
      let v2 := v.heldClose.foldl (fun v q => v.clearRole (cvRole (remoteAddr q.2.op))) v1
      let s1 := putConv entry (if cause = 0 && v.endpoint role == e then v2.clearRole role else v2) s
      let s2 := (v.heldTurns ++ v.heldClose).foldl (fun s q => answerConv q.1 q.2 (.verdict .broken) s) s1
      let others := ((v.role.toList.filterMap fun e => e.map (·.pkg)).filter fun q => q != s.pkg.number && !(s.pkg.peer q).failed).eraseDups
      let s3 := others.foldl (fun s q => emit (.convBroken q v.ctx rec') s) (post v.ctx rec' s2)
      reapConv entry (answerWaiting entry s3)

/-- A conversation breaks at the endpoint that holds a role. -/
def breakConv (entry : BitVec 12) (cause : BitVec 3) (role : BitVec 3) (s : State) : State :=
  breakAt entry cause role ((aget s.pkg.convs entry.toNat).bind fun v => v.endpoint role) s

/-- A role is only unbound (R391, R396). -/
def unbindRole (entry : BitVec 12) (role : BitVec 3) (s : State) : State :=
  match aget s.pkg.convs entry.toNat with
  | none => s
  | some v => reapConv entry (putConv entry (v.clearRole role) s)

/-- The endings of a role are dealt with. -/
def Package.pastEndings (entry : BitVec 12) (role : BitVec 3) (p : Package) : Package :=
  { p with endings := p.endings.filter fun q => !(q.1 == entry && q.2.1 == role) }

/-- The home learns that the load of an endpoint has ended: its role is unbound, and where the state is not terminal the conversation breaks; a role
that has been handed over meanwhile stays with its holder, and what was still to go to the old one goes with it (R390, R396). -/
def endEndpoint (entry : BitVec 12) (role : BitVec 3) (e : Endpoint) (s : State) : State :=
  match aget s.pkg.convs entry.toNat with
  | none => s
  | some v =>
    if v.endpoint role ≠ some e then
      reapConv entry (putConv entry { v with msgs := v.msgs.filter fun m => !(m.role == role && m.dest == some e) } s)
    else if v.brk || v.terminal then unbindRole entry role s
    else breakConv entry 0 role s

/-- CONVERSATION_BREAK: the home learns that the load of an endpoint that held a role has ended, of its own package or of another (R396). -/
def execConversationBreak (entry : BitVec 12) (role : BitVec 3) (e : Endpoint) (s : State) : Result :=
  .next (if e.pkg == s.pkg.number && !s.pkg.endings.contains (entry, role, e) then s
    else (endEndpoint entry role e s).onPkg fun p => { p with endings := p.endings.filter (· != (entry, role, e)) })

/-! ### Requests at the home (R386-R392) -/

/-- `cv.open` at the home (R386, R399). -/
def openConv (src : Byte) (r : RemoteReq) (image : Option (List Word)) (s : State) : State :=
  let err (c : Byte) : State := answerConv src r (.status (fields [(1, 63), (c.toNat, 0)]) 0) s
  let free := (List.range 4096).find? fun i => (aget s.pkg.convs i).isNone
  match image, free with
  | some img, some i =>
    if 16384 < s.pkg.protocolStore + (if s.pkg.convs.any fun e => e.2.image == img then 0 else img.length - 1) then err cACCESS
    else if !imageOk img then err cCONFIG_CHECK
    else
      let v : Conv :=
        { ctx := r.ctx, image := img, roles := bits (img.headD 0).toNat 16 3, trans := img.tail.map transOf, state := 0, turns := 0, brk := false,
          cause := 0, role := Vector.replicate 8 none, owner := Vector.replicate 8 none, credits := [], msgs := [], heldTurns := [], heldClose := [], closing := false, waiting := [] }
      answerConv src r (.status (fields [(s.pkg.number.toNat, 12), (i, 0)]) 0) (putConv (BitVec.ofNat 12 i) v s)
  | _, _ => err cACCESS

/-- An operation on an entry that the requester's context may name (R378). -/
def onEntry (src : Byte) (r : RemoteReq) (w : Word) (s : State) (k : BitVec 12 → Conv → State) : State :=
  match s.pkg.conv (cvEntry w) r.ctx with
  | some v => k (cvEntry w) v
  | none => refuseConv src r s

/-- `cv.bind` at the home (R387). -/
def bindConv (src : Byte) (r : RemoteReq) (w : Word) (ch : ChIdx) (depth : Nat) (s : State) : State :=
  onEntry src r w s fun entry v =>
    let status (c : Byte) (s : State) : State := answerConv src r (.status (c.setWidth 64) 0) s
    let role := cvRole w
    let e : Endpoint := ⟨src, r.cell, ch⟩
    if v.brk then status cCONV_BROKEN s
    else if v.roles < role.toNat then status cCONFIG_CHECK s
    else if (v.endpoint role).isSome then status cACCESS s
    else
      let own := if src = s.pkg.number then s.launchOf r else none
      let v1 := (v.bindRole role (some e) own).openCredits role e depth
      let v2 := { v1 with msgs := v1.msgs.map fun m => if m.role == role && m.dest.isNone then { m with dest := some e, own := own } else m }
      status 0 (regrant entry (putConv entry v2 (s.onPkg (Package.pastEndings entry role))))

/-- `cv.send` and `cv.choose` at the home (R388). -/
def turnConv (src : Byte) (r : RemoteReq) (w : Word) (choice : Bool) (lanes : List W32) (s : State) : State :=
  onEntry src r w s fun entry _ => tryTurn entry src r true (fun v => v.decide s entry src r w choice lanes) s

/-- `cv.deleg` at the home (R390). -/
def delegConv (src : Byte) (r : RemoteReq) (w target : Word) (s : State) : State :=
  onEntry src r w s fun entry _ => tryTurn entry src r true (fun v => v.decideDeleg s entry src r w target) s

/-- `cv.close` at the home (R391, R400). -/
def closeConv (src : Byte) (r : RemoteReq) (w : Word) (s : State) : State :=
  onEntry src r w s fun entry v =>
    let role := cvRole w
    let verdict (a : Verdict) (s : State) : State := answerConv src r (.verdict a) s
    if v.brk then verdict .broken (if v.holder s src r role then unbindRole entry role s else s)
    else if !v.holder s src r role then verdict .role s
    else if v.terminal then
      if v.msgs.isEmpty then verdict .accepted (endConv entry v s)
      else holdConv src r (putConv entry { v with heldClose := v.heldClose ++ [(src, r)] } s)
    else
      let s1 := breakConv entry 1 role s
      let s2 := match aget s1.pkg.convs entry.toNat with
        | some v => reapConv entry (putConv entry { v with closing := true } s1)
        | none => s1
      verdict .accepted s2

/-- `cv.state` at the home (R392). -/
def stateConv (src : Byte) (r : RemoteReq) (w : Word) (want : Option Byte) (s : State) : State :=
  onEntry src r w s fun entry v =>
    if v.brk || want.all (· == v.state) then answerConv src r (.status (stateWord v) 0) s
    else holdConv src r (putConv entry { v with waiting := v.waiting ++ [(src, r, want.getD 0)] } s)

/-! ### Deliveries and credits (R383) -/

/-- The activations that wait for a message of a conversation wake (R84 TURN, R389). -/
def Cell.wakeTurn (home : Byte) (entry : BitVec 12) (c : Cell) : Cell :=
  c.wakeWhere fun k => match k with | .turn w => cvHome w == home && cvEntry w == entry | _ => false

/-- A message as a packet (R384). -/
def messagePacket (home : Byte) (entry : BitVec 12) (role : BitVec 3) (lanes : List W32) : Packet :=
  { packetOf lanes true false with conv := some (home, entry, role) }

/-- A message enters a channel through the conversation port, or waits there for a place (R383). -/
def Cell.takeMessage (home : Byte) (entry : BitVec 12) (role : BitVec 3) (ch : ChIdx) (lanes : List W32) (c : Cell) : Cell :=
  let p := messagePacket home entry role lanes
  if (c.chanAt ch).room && !(c.port.any fun q => q.1 == ch) then (c.enter false ch p).wakeTurn home entry
  else { c with port := c.port ++ [(ch, p)] }

/-- Whether a cell lies on a board of a context. -/
def State.onBoardOf (s : State) (ctx : BitVec 6) (c : CellId) : Bool :=
  let x := s.cellAt c
  x.board.isSome && x.k.ctx == ctx && s.pkg.boards.any fun b => b.ctx == ctx && b.holds c

/-- A delegate that is on a board of the context when its notice comes holds the role from then on, and what waits for it there is for the launch
that it belongs to (R390). -/
def Conv.settle (v : Conv) (role : BitVec 3) (e : Endpoint) (own : Option Nat) : Conv :=
  let v1 := if v.endpoint role == some e then v.bindRole role (some e) own else v
  { v1 with msgs := v1.msgs.map fun m => if m.dest == some e && m.own.isNone then { m with own := own } else m }

/-- The oldest message of a role that has its credit leaves for its endpoint, if none for that endpoint is older (R383). A delegate that is not
fit, or on no board of the context, breaks the conversation at its first delivery, and one that is holds the role from then on (R390); another
package says which of the two it is. With no message to send, those that wait take the credits there are. -/
def deliver (entry : BitVec 12) (role : BitVec 3) (s : State) : State :=
  match aget s.pkg.convs entry.toNat with
  | none => s
  | some v =>
    match v.msgs.find? fun m => m.role == role && m.credit && !m.sent with
    | some m =>
      match m.dest with
      | none => s
      | some e =>
        let dlg := (m.lanes.headD 0).getLsbD 12
        let without (v : Conv) : Conv := { v with msgs := v.msgs.erase m }
        if v.msgs.find? (fun x => x.dest == some e && !x.sent) ≠ some m then s
        else if e.pkg ≠ s.pkg.number then
          let alive : Bool := !(s.pkg.peer e.pkg).failed
          let v1 := if dlg && alive then { v with msgs := v.msgs.map fun x => if x == m then { x with sent := true } else x } else without v
          reapConv entry (putConv entry v1 (if alive then emit (.message e v.ctx entry role m.lanes) s else s))
        else
          let x := s.cellAt e.cell
          let new : Bool := dlg && m.own.isNone
          let fits : Bool := s.onBoardOf v.ctx e.cell && (x.chanAt e.ch).fit
          if s.pkg.endings.contains (entry, role, e) then s
          else if dlg && !fits && (new || m.own == s.launchAt e.cell) then breakAt entry 0 role (some e) (putConv entry (without v) s)
          else if !s.onBoardOf v.ctx e.cell || !s.moving x || (!new && m.own != s.launchAt e.cell) then s
          else
            let v1 := without v
            (reapConv entry (putConv entry (if new then v1.settle role e (s.launchAt e.cell) else v1) s)).atCell e.cell
              (Cell.takeMessage s.pkg.number entry role e.ch m.lanes)
    | none => reapConv entry (regrant entry s)

/-- Another package says whether it has taken a delegation notice: one that it refused breaks the conversation with cause 0 (R390, R396). -/
def noticeOutcome (entry : BitVec 12) (role : BitVec 3) (e : Endpoint) (taken : Bool) (s : State) : State :=
  match aget s.pkg.convs entry.toNat with
  | none => s
  | some v =>
    match v.msgs.find? fun m => m.role == role && m.dest == some e && m.sent with
    | none => s
    | some m =>
      let s1 := putConv entry { v with msgs := v.msgs.erase m } s
      if taken then reapConv entry s1 else breakAt entry 0 role (some e) s1

/-- MESSAGE_DELIVERY (R383). A message of another home tells this package of a role it has been given, or of the break. A role stays bound in a
conversation that has broken, until it is closed or its load ends, but where a close broke it (R391, R396). -/
def execMessageDelivery (d : Delivery) (s : State) : Result :=
  .next (match d with
    | .buffered entry role => deliver entry role s
    | .incoming home ctx entry role cell ch lanes =>
      let x := s.cellAt cell
      let h := lanes.headD 0
      let dlg : Bool := h.getLsbD 12 && !h.getLsbD 31
      let held := s.pkg.bindings.find? fun b => b.home == home && b.entry == entry && b.role == role && b.cell == cell
      if dlg && (!s.onBoardOf ctx cell || !(x.chanAt ch).fit) then emit (.noticed home entry role cell ch false) s
      else if x.stopped || !s.moving x || held.any fun b => b.launch != s.launchAt cell then s
      else
        let bound (p : Package) : Package :=
          if dlg then p.bindHere ⟨home, entry, ctx, role, cell, ch, s.launchAt cell⟩
          else if h.getLsbD 31 && h.extractLsb' 27 3 == 1#3 then p.dropBindings home entry
          else p
        let s1 := (s.onPkg bound).atCell cell (Cell.takeMessage home entry role ch lanes)
        if dlg then emit (.noticed home entry role cell ch true) s1 else s1
    | .waiting cell ch =>
      s.atCell cell fun c =>
        if c.stopped || !(c.chanAt ch).room then c
        else match c.port.find? fun q => q.1 == ch with
          | none => c
          | some q =>
            let c1 := ({ c with port := c.port.erase q }).enter false ch q.2
            match q.2.conv with | some (home, entry, _) => c1.wakeTurn home entry | none => c1
    | .broken ctx home entry rec' =>
      post ctx rec' (if bits (rec'.getD 2 0).toNat 22 3 = 1 then s.onPkg (Package.dropBindings home entry) else s)
    | .noticed entry role pkg cell ch taken => noticeOutcome entry role ⟨pkg, cell, ch⟩ taken s)

/-- CONVERSATION_CREDIT: a place that has freed at an endpoint returns its credit to the home (R383). -/
def execConversationCredit (entry : BitVec 12) (role : BitVec 3) (pkg : Byte) (cell : CellId) (ch : ChIdx) (s : State) : Result :=
  let here := pkg == s.pkg.number
  .next (if here && !s.pkg.convCredits.contains (entry, role, cell, ch) then s
    else
      let s1 := if here then s.onPkg fun p => { p with convCredits := p.convCredits.erase (entry, role, cell, ch) } else s
      let k : Endpoint := ⟨pkg, cell, ch⟩
      match aget s1.pkg.convs entry.toNat with
      | none => s1
      | some v => if v.credits.any fun c => c.1 == k then regrant entry (putConv entry (v.setCredits k (v.creditsOf k + 1)) s1) else s1)

/-! ### The instructions (R385-R392) -/

/-- A request of the running activation to the home of a conversation, with the access that its answer completes. -/
def convSending (home : Byte) (op : RemoteOp) (access : Option Nat) (s : State) : Sending :=
  ⟨home, none, op, access, false, false, s.cell.cur.getD 0, s.cell.pc, s.cell.wordAt s.cell.pc, 0⟩

/-- A request whose answer is a value for `x[d]`: a home declared failed gives `fallen` at once. -/
def askHome (d : XIdx) (home : Byte) (op : RemoteOp) (acq : Bool) (fallen : Word) (s : State) : State :=
  if s.cell.acquiring then hold .staying s
  else freeX d s
    (if s.cutNow home then advance 4 (launch (.value fallen 0) (.x d) 0 .none 7 0 [] acq false s)
     else if s.linkHeld home then hold .staying s
     else buffered s
      (let q := convSending home op (some s.cell.nextId) s
       sendRequest q (advance 4 (launch .await (.x d) 0 .none 7 0 [] acq false s))))

/-- The words of an image as `cv.open` reads them; none where they cannot be read (R386). -/
def readImage (A : Word) (s : State) (k : Option (List Word) → State → State) : State :=
  let get (n : Nat) (s : State) (k : Option (List Word) → State → State) : State :=
    match region A (8 * n) with
    | .cell off => k (if s.cell.damagedAt off (8 * n) then none else some (wordsOfBytes n (s.cell.load off (8 * n)))) s
    | .global =>
      match readVirtual s.cell.k.ctx A.toNat (8 * n) s.pkg with
      | (.ok (l, bad), p) => k (if bad then none else some (wordsOfBytes n l)) { s with pkg := p }
      | (.stall l v, p) => hold .stalled (noteStall s.cell.k.ctx s.here 0 0 l v { s with pkg := p })
      | (.bad, p) => k none { s with pkg := p }
    | _ => k none s
  get 1 s fun h s =>
    match h with
    | some [w] => let n := bits w.toNat 0 11; if 1 ≤ n && n ≤ 1024 then get (n + 1) s k else k (some [w]) s
    | x => k x s

/-- `cv.open` (R386). -/
def execCvOpen (d a b : XIdx) (s : State) : Result :=
  .next (readX a s fun H => readX b s fun A =>
    let home : Byte := H.setWidth 8
    if H.extractLsb' 8 56 ≠ 0 then denied H s
    else if A.toNat % 64 ≠ 0 then raise cMISALIGNED 0 (A.setWidth 32) s
    else if s.cell.cellPending then hold .staying s
    else readImage A s fun img s => askHome d home (.convOpen img) false (fields [(1, 63), (cPEER_FAIL.toNat, 0)]) s)

/-- `cv.bind` (R387). -/
def execCvBind (d a b : XIdx) (s : State) : Result :=
  .next (readX a s fun W => readX b s fun B =>
    let ch : ChIdx := B.setWidth 5
    if B.extractLsb' 5 59 ≠ 0 then denied B s
    else if !(s.cell.chanAt ch).fit then misformed ch.toNat s
    else askHome d (cvHome W) (.convBind W ch (s.cell.chanAt ch).depth) false (cCONV_BROKEN.setWidth 64) s)

/-- `cv.state` (R392): a home declared failed gives BRK and CAUSE 3. -/
def execCvState (d a b : XIdx) (s : State) : Result :=
  .next (readX a s fun W => readX b s fun B =>
    askHome d (cvHome W) (.convState W (if b = 0 then none else some (B.setWidth 8))) true (fields [(1, 63), (3, 8)]) s)

/-- The destination of a refused turn is as it was; one that is FULL again wakes whoever waits for it (R19). -/
def unpend (d : XIdx) (full : Bool) (s : State) : State :=
  s.onCell fun c => if full then c.landX d (c.xreg d).val else c.putX d { c.xreg d with st := .empty }

/-- The verdict of a turn, delegation or close is taken by the retry (R388). -/
def takeTurn (d : XIdx) (v : Verdict) (w : Word) (full : Bool) (s : State) : State :=
  let s1 := s.onCell (Cell.setPend .none)
  let done (c : Word) : State := advance 4 (s1.onCell (Cell.landX d c))
  match v with
  | .accepted => done 0
  | .broken => done (cCONV_BROKEN.setWidth 64)
  | .role => let t := unpend d full s1; raise cCONV_ROLE 0 0 t
  | .turn st => let t := unpend d full s1; trapHere cCONV_TURN ((cvKind w).setWidth 8) (st.setWidth 32) t

/-- An instruction that sends to the home and parks for its verdict at once (R388, R390, R391): `first` is its first issue, which gives the
conversation word and the operation. -/
def converse (d : XIdx) (release : Bool) (first : (Word → RemoteOp → State) → State) (s : State) : State :=
  match s.cell.pend with
  | .verdict v w full => takeTurn d v w full s
  | .request _ _ _ w _ => park (.turn w) s
  | _ => first fun W op =>
    if s.cell.k.t then raise cWAIT_ILLEGAL 0 0 s
    else if s.cell.acquiring then hold .staying s
    else afterCovered false (if release then s.cell.releaseSet else []) s fun s => freeX d s
      (let home := cvHome W
       if s.cutNow home then advance 4 (setX d (cCONV_BROKEN.setWidth 64) (s.onCell (Cell.setPend .none)))
       else if s.linkHeld home then hold .staying s
       else
         let seq := (s.pkg.peer home).nextSeq
         let full := (s.cell.xreg d).st == .full
         let s1 := pendX d (s.onCell (Cell.setPend (.request home s.pkg.trust.epoch seq W full)))
         park (.turn W) (sendRequest (convSending home op none s) s1))

/-- `cv.send` (R388). -/
def execCvSend (d a : XIdx) (b : VIdx) (s : State) : Result :=
  .next (converse d true (fun k => readX a s fun W => readV b s fun P =>
    if P.length = 8 then misformed 0 s else k W (.convTurn W false P.packet)) s)

/-- `cv.choose` (R388). -/
def execCvChoose (d a : XIdx) (s : State) : Result :=
  .next (converse d true (fun k => readX a s fun W => k W (.convTurn W true [])) s)

/-- `cv.deleg` (R390). -/
def execCvDeleg (d a b : XIdx) (s : State) : Result :=
  .next (converse d true (fun k => readX a s fun W => readX b s fun B =>
    if B.extractLsb' 27 37 ≠ 0 then denied B s else k W (.convDeleg W B)) s)

/-- `cv.close` (R391). -/
def execCvClose (d a : XIdx) (s : State) : Result :=
  .next (converse d false (fun k => readX a s fun W => k W (.convClose W)) s)

/-- The oldest message of an endpoint channel for a conversation (R389): its lanes, and whether it must be removed. -/
def withMessage (ch : ChIdx) (W : Word) (s : State) (k : List W32 → Bool → State) : State :=
  let C := s.cell.chanAt ch
  if !C.fit then misformed ch.toNat s
  else match C.oldest with
    | none =>
      if s.pkg.cutOff (cvHome W) then k [cvHeader true false 3 0 0 false (cvEntry W)] false else park (.turn W) s
    | some p =>
      if p.psn then raise cUNCORRECTABLE 0 0 s
      else if (p.lanes.headD 0).extractLsb' 0 12 ≠ cvEntry W then misformed ch.toNat s
      else k p.lanes true

/-- A message is taken with an acquire at domain scope: once every earlier load of the activation has landed (R238) it leaves the channel, and
the L1 is invalidated (R389). -/
def takeMessage (ch : ChIdx) (remove : Bool) (s : State) (k : State → State) : State :=
  afterCovered false (s.cell.fenceSet 0) s fun s => k ((if remove then takePacket ch s else s).onCell fun c => { c with l1 := [] })

/-- `cv.recv` (R389). -/
def execCvRecv (d : VIdx) (a : XIdx) (c : ChIdx) (p : PIdx) (s : State) : Result :=
  .next (readX a s fun W => withMessage c W s fun lanes remove =>
    freeV d s (takeMessage c remove s fun s => advance 4 (setP p (!(lanes.headD 0).getLsbD 31)
      (launch (.packet lanes) (.v d) 0 .none 7 0 [] false false s))))

/-- `cv.offer` (R389). -/
def execCvOffer (d a : XIdx) (c : ChIdx) (s : State) : Result :=
  .next (readX a s fun W => withMessage c W s fun lanes remove =>
    let h := lanes.headD 0
    if !h.getLsbD 31 && !h.getLsbD 30 then misformed c.toNat s
    else freeX d s (takeMessage c remove s fun s => advance 4 (launch (.value (h.setWidth 64) 0) (.x d) 0 .none 7 0 [] false false s)))

end Sys2Proof.Machine
end

