-- ==== Sys2Proof/Machine/Barrier.lean ====
section
/-! DEFINITION. The epoch barrier and the status of the trust domain (R406-R408), and the declaration that a peer has failed (R369,
R370). -/

namespace Sys2Proof.Machine

/-! ### The epoch barrier (R407) -/

/-- The status word {0, PKG, CODE} of `td.bar` and `rfence`. -/
def pkgStatus (pkg code : Byte) : Word := 0#48 ++ pkg ++ code

/-- The packages of a membership other than this one. -/
def Package.othersOf (p : Package) (m : BitVec 256) : List Byte := ((List.range 256).filter fun i => m.getLsbD i && i != p.number.toNat).map (BitVec.ofNat 8)

/-- What the end of the barrier to an epoch means to an entry: one that waits for it has its status, and one whose `td.bar` is still before its
fence will have it (R407). -/
def Pend.ended (E : W32) (status : Word) : Pend → Pend
  | .barrier _ => .barrierDone status
  | .barFence ids reqs e Option.none => .barFence ids reqs e (if e = E then some status else Option.none)
  | p => p

/-- Every activation that waits for the barrier to an epoch receives its status, also one that pre-emption has saved (R342, R407). -/
def finishBarrier (epoch status : Word) (s : State) : State :=
  let wake (c : Cell) : Cell :=
    ({ c with hnd := c.hnd.map fun h : Handler => { h with pend := h.pend.ended (epoch.setWidth 32) status } }).wakeFences
  (s.mapCells fun _ c => wake c).onPkg fun p =>
    { p with launches := p.launches.map fun l : Launch => { l with saved := l.saved.map fun v => { v with cells := v.cells.map wake } } }

/-- The keys of an epoch with each other member (R403). -/
def Package.epochKeys (p : Package) (mask : BitVec 256) (epoch : Word) : List (Nat × BitVec 256 × BitVec 256) :=
  (p.othersOf mask).filterMap fun m =>
    match sealKey epoch p.number m p, sealKey epoch m p.number p with
    | some a, some b => some (m.toNat, a, b)
    | _, _ => none

/-- The switch to the pending epoch: its keys are derived, and the sequences and filters of the links and the counts of runs restart at 0 (R403,
R404, R407). -/
def switchEpoch (mask : BitVec 256) (epoch : Word) (s : State) : State :=
  finishBarrier epoch 0 (s.onPkg fun p =>
    { p with
      trust := { p.trust with
        td := true
        epoch := epoch
        mask := mask
        pending := none
        barrier := none
        reports := p.trust.reports.filter fun q => epoch.toNat ≤ q.2.toNat
        keys := p.epochKeys mask epoch }
      runCounts := []
      peers := p.peers.map fun e => if e.1 = p.number.toNat then e else (e.1, { e.2 with nextSeq := 0, seen := [], top := none, results := [], refusals := [], replies := [] }) })

/-- This package leaves the domain at a barrier whose membership it is not in (R407). -/
def leaveDomain (epoch : Word) (s : State) : State :=
  finishBarrier epoch (pkgStatus s.pkg.number cDOMAIN_EPOCH) (s.onPkg fun p =>
    { p with trust := { p.trust with td := false, epoch := 0, mask := 0, pending := none, barrier := none, reports := [], keys := [] } })

/-- Whether a remote write of this package is unacknowledged. -/
def Package.writesOut (p : Package) : Bool := p.peers.any fun e => e.2.out.any (·.write)

/-- DRAINED or READY leaves for a member of the new membership, a DRAINED to one that shares the keys of the epoch sealed under them (R404, R407;
log 83). -/
def sendReport (epoch : Word) (m : Byte) (s : State) : State :=
  let T := s.pkg.trust
  let report : OutMsg := .barrier m (!T.td) epoch
  let path := s.pkg.livePath m 0
  let tag : BitVec 2 := BitVec.ofNat 2 (path.getD 0)
  flitOut (path.bind fun _ => s.pkg.portOf m tag)
    (if T.td && T.mask.getLsbD m.toNat then emitPacket m tag (s.pkg.peer m).nextSeq report s else emit report s)

/-- The barrier goes as far as it can: it ends when a new member has failed; this package drains and says so; and when every new
member has reported, and has a session from which the keys derive, the epoch switches (R406, R407). -/
def barrierStep (s : State) : State :=
  match s.pkg.trust.barrier, s.pkg.trust.pending with
  | some b, some (mask, epoch) =>
    let T := s.pkg.trust
    let others := s.pkg.othersOf mask
    match others.find? fun m => (s.pkg.peer m).failed with
    | some m => finishBarrier epoch (pkgStatus m cPEER_FAIL) (s.onPkg fun p => { p with trust := { p.trust with barrier := none } })
    | none =>
      if !b.drained && s.pkg.writesOut then s
      else
        let s1 := if b.drained then s
          else others.foldl (fun s m => sendReport (epoch - 1) m s)
            (s.onPkg fun p => { p with trust := { p.trust with barrier := some ⟨true⟩ } })
        if !mask.getLsbD s.pkg.number.toNat then leaveDomain epoch s1
        else if others.all fun m => T.reports.contains (m, epoch - 1) && (s.pkg.prk m).isSome then switchEpoch mask epoch s1
        else s1
  | _, _ => s

/-- The remote writes of the cell in focus that are not yet acknowledged, copies apart (R371). -/
def State.writesOf (s : State) : List (Byte × BitVec 48) :=
  s.pkg.peers.flatMap fun e => (e.2.out.filter fun o => o.write && !o.engine && o.req.cell == s.here && o.away.isNone).map fun o => (BitVec.ofNat 8 e.1, o.req.seq)

/-- `td.bar` after its fence (R407). -/
def joinBarrier (d : XIdx) (E : W32) (s : State) : State :=
  match s.pkg.trust.pending with
  | some (_, epoch) =>
    if epoch.setWidth 32 = E then
      let b := s.pkg.trust.barrier.getD ⟨false⟩
      barrierStep (hold (.expiring .covered) ((s.onCell (Cell.setPend (.barrier E))).onPkg fun p =>
        { p with trust := { p.trust with barrier := some b } }))
    else advance 4 (s.onCell fun c => (c.setPend .none).landX d (pkgStatus s.pkg.number cDOMAIN_EPOCH))
  | none => advance 4 (s.onCell fun c => (c.setPend .none).landX d (pkgStatus s.pkg.number cDOMAIN_EPOCH))

/-- `td.bar` (R407). -/
def execTdBar (d a : XIdx) (s : State) : Result :=
  let done (v : Word) (s : State) : State := advance 4 (s.onCell fun c => ({ c.setPend .none with l1 := [] }).landX d v)
  let fenced (ids : List Nat) (reqs : List (Byte × BitVec 48)) (E : W32) (status : Option Word) (s : State) : State :=
    if ids.any s.cell.flying || !reqs.isEmpty then hold (.expiring .covered) (s.onCell (Cell.setPend (.barFence ids reqs E status)))
    else match status with
      | some v => done v s
      | none => joinBarrier d E (s.onCell fun c => { c with l1 := [] })
  .next (privileged s (match s.cell.pend with
    | .barrierDone v => done v s
    | .barrier _ => hold (.expiring .covered) s
    | .barFence ids reqs E status => fenced ids reqs E status s
    | _ => readX a s fun A => freeX d s (fenced (s.cell.fenceSet 2) s.writesOf (A.setWidth 32) none (pendX d s))))

/-- The members of a mask. -/
def memberCount (m : BitVec 256) : Nat := ((List.range 256).filter fun i => m.getLsbD i).length

/-- `td.stat` (R408). -/
def execTdStat (d : XIdx) (s : State) : Result :=
  let T := s.pkg.trust
  .next (retireX d (fields [((T.epoch.extractLsb' 0 32).toNat, 32), (T.epDrop.toNat, 24), (T.sealF.toNat, 16),
    (if T.td then memberCount T.mask - 1 else 0, 8), (if T.barrier.isSome then 1 else 0, 1), (if T.td then 1 else 0, 0)]) s)

/-! ### A peer declared failed (R369, R370) -/

/-- A remote write of a cell counts as failed (R369, R371). -/
def Cell.failedWrite (t : Byte) (c : Cell) : Cell := if c.failedTo.contains t then c else { c with failedTo := c.failedTo ++ [t] }

/-- A request in flight to a peer that is declared failed ends: a write counts as failed, a conversation's request has the outcome of
R386, R387, R388 or R392, and any other is a fault with PEER_FAIL (R294, R369, R371). -/
def failRequest (t : Byte) (o : OutReq) (s : State) : State :=
  let s1 := if o.write then onIssuer o (Cell.uncover (t, o.req.seq) true) s else s
  let land (v : Word) : State := onIssuer o (o.onAccess fun a c => c.land a v 0) s1
  if o.gone then s1
  else if o.write && !o.engine then onIssuer o (Cell.failedWrite t) s1
  else match o.req.op with
    | .convOpen _ => land (fields [(1, 63), (cPEER_FAIL.toNat, 0)])
    | .convBind .. => land (cCONV_BROKEN.setWidth 64)
    | .convState .. => land (fields [(1, 63), (3, 8)])
    | .convTurn .. | .convDeleg .. | .convClose _ => giveVerdict t o .broken s1
    | _ => o.fault cPEER_FAIL (t.setWidth 32) s1

/-- The failed-peer record (R370). -/
def failedRecord (t : Byte) (cause : BitVec 2) (unack : Nat) : List Word :=
  [fields [(7, 0), (cPEER_FAIL.toNat, 8), (t.toNat, 32), (cause.toNat, 40)], BitVec.ofNat 64 unack, 0, 0, 0, 0, 0, 0]

/-- The conversations homed on a failed package break on this one alone: one record for each, and whoever waits for a message wakes
(R389, R396, R397). -/
def loseHome (t : Byte) (s : State) : State :=
  let mine := s.pkg.bindings.filter fun b => b.home == t
  let firsts := mine.filter fun b => !(mine.any fun c => c.entry == b.entry && c.ctx == b.ctx && c.role.toNat < b.role.toNat)
  let s1 := firsts.foldl (fun s b => post b.ctx (brokenRecord t b.entry 0 0 b.role 3 s.pkg.number b.cell) s)
    (s.onPkg fun p => { p with bindings := p.bindings.filter fun b => b.home != t })
  s1.mapCells fun _ c => c.wakeWhere fun k => match k with | .turn w => cvHome w == t | _ => false

/-- The conversations homed here in which the failed package holds a role break with cause 2 (R396). -/
def breakFor (t : Byte) (s : State) : State :=
  s.pkg.convs.foldl (fun s e =>
    match ((List.range 8).map (BitVec.ofNat 3)).find? fun i => (e.2.endpoint i).any fun x => x.pkg == t with
    | some i => breakConv (BitVec.ofNat 12 e.1) 2 i s
    | none => s) s

/-- A peer is declared failed (R369, R370). -/
def declareFailed (t : Byte) (cause : BitVec 2) (s : State) : State :=
  let P := s.pkg.peer t
  if t = s.pkg.number || P.failed then s
  else
    let s1 := s.onPkg (Package.onPeer t fun P =>
      { P with failed := true, out := [], held := P.held.filter fun r => match r.op with | .flag .. => false | _ => true })
    let s2 := s1.pkg.contexts.foldl (fun s e => post (BitVec.ofNat 6 e.1) (failedRecord t cause (P.out.filter (·.write)).length) s) s1
    let s3 := P.out.foldl (fun s o => failRequest t o s) s2
    let s4 := breakFor t (loseHome t s3)
    barrierStep (s4.pkg.groups.foldl (fun s x => settleRounds x.ctx x.g s) s4)

/-- PEER_FAILURE: the link timeout has passed with requests held and nothing heard (cause 0), or without a live path (cause 1) (R369). -/
def execPeerFailure (target : Byte) (cause : BitVec 2) (s : State) : Result :=
  let due := match cause.toNat with
    | 0 => !(s.pkg.peer target).out.isEmpty
    | 1 => s.pkg.pathCount target != 0 && (s.pkg.livePath target 0).isNone
    | _ => false
  .next (if due then declareFailed target cause s else s)

end Sys2Proof.Machine
end

