-- ==== Sys2Proof/Machine/Chain.lean ====
section
/-! DEFINITION. The chain unit: `ch.run` (R193-R198). -/

namespace Sys2Proof.Machine

/-- The descriptor of a chain (R194), with the count in force (R193). -/
structure ChainDesc where
  saddr : Word
  daddr : Word
  aaddr : Word
  sat : Bool
  rm : BitVec 3
  nops : Nat
  afmt : FmtDesc
  ofmt : FmtDesc
  ifmt : FmtDesc
  count : Nat
  consts : List W32
  ops : List (BitVec 16)
  reserved : Bool
  deriving DecidableEq, Repr

/-- The descriptor in eight dwords, for a command. -/
def chainDesc (x : Cmd) (d : List Word) : ChainDesc :=
  let w (i : Nat) : Word := d.getD i 0
  let v := (w 3).toNat
  { saddr := w 0, daddr := w 1, aaddr := w 2, sat := bitOf v 61, rm := (w 3).extractLsb' 58 3, nops := bits v 55 3 + 1,
    afmt := (w 3).extractLsb' 48 7, ofmt := (w 3).extractLsb' 40 7, ifmt := (w 3).extractLsb' 32 7,
    count := if x.w3 = 0 then bits v 0 32 else x.w3.toNat,
    consts := [(w 4).extractLsb' 0 32, (w 4).extractLsb' 32 32, (w 5).extractLsb' 0 32, (w 5).extractLsb' 32 32],
    ops := (List.range 8).map fun i => (w (6 + i / 4)).extractLsb' (16 * (i % 4)) 16,
    reserved := bits v 62 2 == 0 && !bitOf v 47 && !bitOf v 39 }

/-- The code and the B selector of an operation. -/
def opCode (o : BitVec 16) : Nat := bits o.toNat 11 5
def opSel (o : BitVec 16) : Nat := bits o.toNat 8 3
/-- Whether an operation has a B operand (R195). -/
def opBinary (c : Nat) : Bool := (1 ≤ c && c ≤ 6) || c == 13

/-- The operations a chain uses. -/
def ChainDesc.used (d : ChainDesc) : List (BitVec 16) := d.ops.take d.nops
/-- Whether the auxiliary element is used. Where no operation names it the model neither reads nor converts it, and nothing comes of it
(R195; log 70). -/
def ChainDesc.aux (d : ChainDesc) : Bool := d.used.any fun o => opSel o == 4

/-- An address is a multiple of its element's bytes. -/
def elemAligned (a : Word) (f : FmtDesc) : Bool := width f < 8 || a.toNat % (width f / 8) == 0

/-- The bytes that n elements take. -/
def elemBytes (f : FmtDesc) (n : Nat) : Nat := (n * width f + 7) / 8

/-- The checks of a descriptor (R194, R195, R198). -/
def ChainDesc.ok (d : ChainDesc) (x : Cmd) : Bool :=
  d.reserved && d.rm != 5 && d.rm != 6 && d.ifmt.valid && d.ofmt.valid && d.afmt.valid && elemAligned d.saddr d.ifmt && elemAligned d.daddr d.ofmt &&
    (d.aaddr == 0 || elemAligned d.aaddr d.afmt) && (!d.aux || d.aaddr != 0) &&
    (d.used.all fun o => bits o.toNat 0 8 == 0 && opCode o ≤ 13 && opSel o ≤ 4 && (opBinary (opCode o) || opSel o == 0)) &&
    (x.done != 1 || (match regionOf d.daddr with | .cell _ => true | _ => false))

/-- A value rounded to an FP32 code under RNE, with its flags. -/
def fp32 (x : Num × Flags) : Nat × Flags := let (c, f) := roundTo fFP32 rne 0 x.1; (c, x.2 ||| f)

/-- One operation on FP32 codes (R195). DEDUCED (log 70): −0 counts as ≥ +0 for OPC 13, which keeps it. -/
def chainOp (op : Nat) (v b : Nat) : Nat × Flags :=
  let V := valueOf fFP32 v
  let B := valueOf fFP32 b
  match op with
  | 0 => (v, 0)
  | 1 => fp32 (addExact 0 V B)
  | 2 => fp32 (addExact 0 V B.negate)
  | 3 => fp32 (addExact 0 B V.negate)
  | 4 => fp32 (mulExact V B)
  | 5 => minMax fFP32 false v b
  | 6 => minMax fFP32 true v b
  | 7 => signCode false fFP32 v
  | 8 => signCode true fFP32 v
  | 9 => fp32 (exp2Of V, 0)
  | 10 => fp32 (log2Of V)
  | 11 => rcpCode v
  | 12 => rsqCode v
  | _ => if V.isNan || !V.lt (.fin false 0 0) then (v, 0) else fp32 (mulExact V B)

/-- One element through the operations (R195). -/
def chainElem (d : ChainDesc) (input aux : Nat) : Nat × Flags :=
  let first := roundTo fFP32 rne 0 (valueOf d.ifmt input)
  let b := if d.aux then roundTo fFP32 rne 0 (valueOf d.afmt aux) else (0, 0)
  d.used.foldl (fun a o =>
    let B := if opSel o = 4 then b.1 else (d.consts.getD (opSel o) 0).toNat
    let (v, f) := chainOp (opCode o) a.1 B
    (v, a.2 ||| f)) (first.1, first.2 ||| b.2)

/-- The accesses of elements [k, k + n): one by one, or by bytes when they have 4 bits. -/
def elemRanges (a : Word) (f : FmtDesc) (k n : Nat) : List (Word × Nat) :=
  let at' (b : Nat) : Word := a + BitVec.ofNat 64 b
  if width f < 8 then (List.range ((n + 1) / 2)).map fun j => (at' (k / 2 + j), 1)
  else (List.range n).map fun j => (at' ((k + j) * (width f / 8)), width f / 8)

/-- Elements [k, k + n) read. -/
def readElems (a : Word) (f : FmtDesc) (k n : Nat) (s : State) : Io (List Nat) :=
  (Io.each (fun (q : Word × Nat) s => readMem .ch q.1 q.2 s) (elemRanges a f k n) s).bind fun l s => .ok (elementsOfBytes f n l.flatten) s

/-- Elements [k, k + n) written; an odd count of 4-bit ones leaves the high nibble of the last byte (R196). -/
def writeElems (a : Word) (f : FmtDesc) (k : Nat) (l : List Nat) (s : State) : Io Unit :=
  let q := elemRanges a f k l.length
  let bytes := bytesOfElements f l
  let half := width f < 8 && l.length % 2 == 1
  (Io.each (fun (r : Word × Nat) s => spot true .ch r.1 r.2 s) q s).bind fun sps s =>
    let n := (q.headD (0, 1)).2
    .ok () ((sps.mapIdx fun i sp => (i, sp)).foldl (fun s e =>
      let part := (bytes.drop (n * e.1)).take n
      if half && e.1 + 1 == sps.length then
        let old := (spotBytes e.2 1 s).getLastD 0
        writeSpot e.2 [(old &&& 0xF0#8) ||| (part.getLastD 0 &&& 0x0F#8)] s
      else writeSpot e.2 part s) s)

/-- A fault of the chain unit after it has begun: ENGINE_FAULT, whatever it met, with the first element not written (R198). -/
def chainRan {α : Type} (k : Nat) (x : Io α) (f : α → State → Ran) : Ran :=
  match x with
  | .ok a s => f a s
  | .block w b s => .block w b s
  | .fault _ s => .fault cENGINE_FAULT (BitVec.ofNat 32 k) s

/-- The chain unit begins: it reads and checks the descriptor (R194, R198). DEDUCED (log 70): a descriptor in stream space is
ENGINE_CMD. -/
def chainBegin (x : Cmd) (s : State) : Ran :=
  if x.addr.toNat % 64 ≠ 0 || !s.cell.tokenChannel x || (match regionOf x.addr with | .stream _ _ => true | _ => false) then refused s
  else chainRan 0 (readMem .ch x.addr 64 s) fun bytes s =>
    let d := wordsOfBytes 8 bytes
    if (chainDesc x d).ok x then .more { x with begun := true, desc := d } s else refused s

/-- One group of 8 elements (R195, R196). -/
def chainGroup (x : Cmd) (s : State) : Ran :=
  let d := chainDesc x x.desc
  let k := 8 * x.unit
  if d.count ≤ k then
    .done x (BitVec.ofNat 32 d.count) (if d.count = 0 then [] else [((d.daddr.extractLsb' 0 17).toNat, elemBytes d.ofmt d.count)]) s
  else
    let n := min 8 (d.count - k)
    chainRan k (readElems d.saddr d.ifmt k n s) fun ins s =>
      chainRan k (if d.aux then readElems d.aaddr d.afmt k n s else .ok [] s) fun auxs s =>
        let r : Rounding := if d.rm = 7 then ⟨x.rm, x.sat⟩ else ⟨d.rm, d.sat⟩
        let (out, fl) := collect (ins.mapIdx fun j e =>
          let (v, f) := chainElem d e (auxs.getD j 0)
          let rnd := (philox x.dkey (BitVec.ofNat 32 (k + j)) 0 x.draw 0x4000_0000).1.toNat % 2 ^ 16
          let (c, g) := roundTo d.ofmt r rnd (valueOf fFP32 v)
          (c, f ||| g))
        chainRan k (writeElems d.daddr d.ofmt k out s) fun _ s => .more { x with unit := x.unit + 1, flags := x.flags ||| fl } s

/-- One unit of `ch.run`. -/
def runCh (x : Cmd) (s : State) : Ran := if x.begun then chainGroup x s else chainBegin x s

def execChRun (h : CmdHead) (w1 w2 w3 : W32) (s : State) : Result := .next (issue .ch 0 h w1 w2 w3 s)

end Sys2Proof.Machine
end

