-- ==== Sys2Proof/Machine/Matrix.lean ====
section
/-! DEFINITION. The matrix engine (R269-R289): tiles and the accumulator store, the summation rules (R48-R53), the ten verbs, the
free-running sections, and the sequencer's `gs.arm` and `gs.wait`. -/

namespace Sys2Proof.Machine

/-! ### Tiles and the accumulator store (R270, R271) -/

/-- The 64 bytes of a tile row. -/
def Cell.tileRow (c : Cell) (t r : Nat) : List Byte := sgets 0 c.tiles (2048 * t + 64 * r) 64

/-- A tile row written; an error in it is repaired (R331). -/
def Cell.putTileRow (t r : Nat) (bytes : List Byte) (c : Cell) : Cell :=
  { c with tiles := sputs 0 (2048 * t + 64 * r) bytes c.tiles, badTiles := sput false (32 * t + r) false c.badTiles }

/-- Whether some row of a tile holds an error. -/
def Cell.badRows (c : Cell) (t : Nat) (rows : List Nat) : Bool := rows.any fun r => sget false c.badTiles (32 * t + r)

/-- Element k of row r of a tile (R270). -/
def Cell.tileElem (c : Cell) (t : Nat) (f : FmtDesc) (r k : Nat) : Nat :=
  let b := k * width f
  bits (ofBytes (sgets 0 c.tiles (2048 * t + 64 * r + b / 8) ((width f + 7) / 8))) (b % 8) (width f)

/-- Operand element (i, k) through a port: the row port, or the column port (R270). -/
def Cell.operand (c : Cell) (t : Nat) (col : Bool) (f : FmtDesc) (i k : Nat) : Nat :=
  if col then c.tileElem t f k i else c.tileElem t f i k

/-- The rows of a tile that products k of a list read through a port. -/
def portRows (col : Bool) (ks : List Nat) : List Nat := if col then ks else List.range 32

/-- The key of an accumulator entry. -/
def accKey (row col : Nat) : Nat := 128 * row + col
/-- An accumulator entry. -/
def Cell.accAt (c : Cell) (row col : Nat) : Nat := (sget 0 c.acc (accKey row col)).toNat
/-- An accumulator entry written. -/
def Cell.putAcc (row col v : Nat) (c : Cell) : Cell := { c with acc := sput 0 (accKey row col) (BitVec.ofNat 32 v) c.acc }

/-- The inner accumulator and count of an entry that has none pending. -/
def Inner.zero : Inner := ⟨0, 0⟩
/-- The inner accumulator of an entry. -/
def Cell.innerAt (c : Cell) (row col : Nat) : Inner := sget Inner.zero c.inner (accKey row col)
/-- The inner accumulator of an entry written. -/
def Cell.putInner (row col : Nat) (v : Inner) (c : Cell) : Cell := { c with inner := sput Inner.zero (accKey row col) v c.inner }

/-- `KMXSTAT.OVI` is set when a saturation occurred (R52). -/
def Cell.overflowed (b : Bool) (c : Cell) : Cell := { c with k := { c.k with ovi := c.k.ovi || b } }

/-- `KMXROW` (R287). -/
def Cell.progress (kidx row : Nat) (c : Cell) : Cell := { c with k := { c.k with kidx := BitVec.ofNat 16 kidx, row := BitVec.ofNat 5 row } }

/-- The entries of a rectangle, by rows. -/
def rectangle (row0 rows col0 cols : Nat) : List (Nat × Nat) :=
  (List.range rows).flatMap fun i => (List.range cols).map fun j => (row0 + i, col0 + j)

/-- A sum clamped to 32 bits, with whether it saturated (R52). -/
def saturate32 (t : Int) : Int × Bool := (clampInt (-(2 ^ 31 : Nat)) (2 ^ 31 - 1 : Nat) t, t < -(2 ^ 31 : Nat) || t > (2 ^ 31 - 1 : Nat))

/-- An entry's pending inner value is promoted into it (R52). -/
def Cell.promote (e : Nat × Nat) (c : Cell) : Cell :=
  let p := c.innerAt e.1 e.2
  if p.cnt = 0 then c
  else
    let (v, sat) := saturate32 (intOf fINT32 (c.accAt e.1 e.2) + p.val)
    ((c.putAcc e.1 e.2 (intCode fINT32 v)).putInner e.1 e.2 Inner.zero).overflowed sat

/-- The pending values of entries are promoted. -/
def Cell.promoteAll (l : List (Nat × Nat)) (c : Cell) : Cell := l.foldl (fun c e => c.promote e) c

/-- The pending value of an entry is discarded. -/
def Cell.discard (e : Nat × Nat) (c : Cell) : Cell := c.putInner e.1 e.2 Inner.zero

/-- Whether a row is poisoned. -/
def Cell.poisonedRow (c : Cell) (r : Nat) : Bool := sget false c.poison r
/-- Rows marked or cleared. -/
def Cell.markRows (b : Bool) (rows : List Nat) (c : Cell) : Cell := { c with poison := rows.foldl (fun p r => sput false r b p) c.poison }

/-! ### Groups and sums (R48-R53) -/

/-- The groups of R48. -/
inductive Group48 where
  | half | eight | scaled | int
  deriving DecidableEq, Repr

/-- An 8-bit float format. -/
def float8 (f : FmtDesc) : Bool := f.valid && (f.code == 12 || f.code == 13 || f.isP3109)

/-- The group of a pair of formats, with or without block scales (R48). -/
def groupOf (a b : FmtDesc) (scales : Bool) : Option Group48 :=
  let int (f : FmtDesc) : Bool := f.valid && (f.code == 0 || f.code == 1 || f.code == 6 || f.code == 7)
  let narrow (f : FmtDesc) : Bool := f == fE2M1 || (scales && float8 f)
  if (a == fBF16 && b == fBF16) || (a == fFP16 && b == fFP16) then some .half
  else if int a && int b then some .int
  else if narrow a && narrow b then some .scaled
  else if !scales && float8 a && float8 b then some .eight
  else none

/-- A sum added into an FP32 entry with one rounding. -/
def addInto (acc : Nat × Flags) (x : Num × Flags) : Nat × Flags :=
  let (t, f1) := addExact 0 (valueOf fFP32 acc.1) x.1
  let (c, f2) := roundTo fFP32 rne 0 t
  (c, acc.2 ||| x.2 ||| f1 ||| f2)

/-- R49: products added one by one. -/
def sumHalf (acc : Nat × Flags) (l : List (Num × Num)) : Nat × Flags := l.foldl (fun acc p => addInto acc (mulExact p.1 p.2)) acc

/-- R50: products added in pairs; the second of an odd last one is zero. -/
def sumEight : List (Num × Num) → Nat × Flags → Nat × Flags
  | [], acc => acc
  | [p], acc =>
    let (x, f1) := mulExact p.1 p.2
    let (t, f2) := addExact 0 x (.fin false 0 0)
    addInto acc (t, f1 ||| f2)
  | p :: q :: r, acc =>
    let (x, f1) := mulExact p.1 p.2
    let (y, f2) := mulExact q.1 q.2
    let (t, f3) := addExact 0 x y
    sumEight r (addInto acc (t, f1 ||| f2 ||| f3))

/-- A product truncated toward zero to a multiple of 2^low, with whether that changed it (R51). -/
def truncTo (low : Int) : Num → Num × Bool
  | .fin n m e => if low ≤ e then (.fin n m e, false) else let d := 2 ^ (low - e).toNat; (.fin n (m / d) low, m % d != 0)
  | x => (x, false)

/-- floor(log2) of the largest of finite values; none when all are zero. -/
def topExp (l : List Num) : Option Int :=
  l.foldl (fun a x => match x with
    | .fin _ m e => if m = 0 then a else let k := (Nat.log2 m : Int) + e; (match a with | none => some k | some j => some (max j k))
    | _ => a) none

/-- R51: one block with its two scale codes. -/
def sumBlock (acc : Nat × Flags) (l : List (Num × Num)) (sa sb : Nat) : Nat × Flags :=
  let ps := l.map fun p => mulExact p.1 p.2
  let p := ps.map Prod.fst
  let zeroInf := ps.any fun x => x.2 &&& flNV != 0
  let up := p.contains (.inf false)
  let down := p.contains (.inf true)
  let both := up && down
  if p.any Num.isNan || sa = 0xFF || sb = 0xFF || both then (nanCode fFP32, acc.2 ||| (if zeroInf || both then flNV else 0))
  else if up || down then addInto acc (.inf down, 0)
  else
    match topExp p with
    | none => addInto acc (.fin false 0 0, 0)
    | some E =>
      let q := p.map (truncTo (E - 47))
      let (t, low) := sumFinite (q.map Prod.fst)
      addInto acc (.fin (t < 0) t.natAbs (low + (sa : Int) - 127 + (sb : Int) - 127), if q.any Prod.snd then flIX else 0)

/-- The inner accumulator of one entry, its 32-bit value, whether it saturated, and the least k at which it did. -/
structure IntSum where
  acc : Int
  inner : Inner
  sat : Bool
  first : Option Nat
  deriving DecidableEq, Repr

/-- R52: one product with its k; `promoteNow` says that it is the command's last and CONT is 0. -/
def intProduct (n : Nat) (s : IntSum) (p : Nat × Int × Bool) : IntSum :=
  let t := s.inner.val + p.2.1
  let inner := clampInt (-8388608) 8388607 t
  let outside := t > 8388607 || t < -8388608
  let note (b : Bool) (f : Option Nat) : Option Nat := if b && f.isNone then some p.1 else f
  let cnt := s.inner.cnt + 1
  if n ≤ cnt || p.2.2 then
    let (v, o2) := saturate32 (s.acc + inner)
    ⟨v, Inner.zero, s.sat || outside || o2, note (outside || o2) s.first⟩
  else ⟨s.acc, ⟨inner, cnt⟩, s.sat || outside, note outside s.first⟩

/-! ### Words of the commands -/

/-- A field of a command word. -/
def fld (w : W32) (lo n : Nat) : Nat := bits w.toNat lo n

/-- A format field. -/
def fmtFld (w : W32) (lo : Nat) : FmtDesc := BitVec.ofNat 7 (fld w lo 7)

/-- The address of a command in a memory verb is a multiple of 16 (R272). -/
def Cmd.aligned16 (x : Cmd) : Bool := x.addr.toNat % 16 == 0

/-- Whether bytes at an address lie in the issuing cell's store. -/
def inStore (a : Word) (n : Nat) : Bool :=
  match region a n with
  | .cell _ => true
  | _ => false

/-- The offset of an address in cell store. -/
def storeOff (a : Word) : Nat := (a.extractLsb' 0 17).toNat

/-- The group of an `mx.mma` (R276). -/
def mmaGroup (x : Cmd) : Option Group48 := groupOf (fmtFld x.w1 25) (fmtFld x.w1 18) (fld x.w1 8 2 != 0)

/-- The limits of `mx.mma` (R276). -/
def mmaOk (x : Cmd) : Bool :=
  let k := fld x.w2 8 8 + 1
  let fits (f : FmtDesc) (col : Bool) : Bool := k ≤ (if col then 32 else 512 / width f)
  fld x.w1 0 7 == 0 && fld x.w2 16 2 == 0 && fld x.w3 0 26 == 0 && fld x.w2 25 7 ≤ 96 && fld x.w2 18 7 ≤ 96 && fld x.w1 8 2 != 3 &&
    fits (fmtFld x.w1 25) (fld x.w1 14 1 == 1) && fits (fmtFld x.w1 18) (fld x.w1 10 1 == 1) && k ≤ 128 &&
    (match mmaGroup x with
     | none => false
     | some .int => fld x.w1 8 2 == 0
     | some .half => fld x.w1 8 2 == 0 && fld x.w2 3 5 == 0 && fld x.w2 2 1 == 0 && fld x.w2 0 1 == 0
     | some _ => fld x.w2 3 5 == 0 && fld x.w2 2 1 == 0 && fld x.w2 0 1 == 0)

/-- The group of an `mx.mv` (R278). -/
def mvGroup (x : Cmd) : Option Group48 := groupOf (fmtFld x.w3 9) (fmtFld x.w3 2) (fld x.w3 16 1 == 1)

/-- The limits of `mx.mv` (R278). -/
def mvOk (x : Cmd) : Bool :=
  fld x.w3 0 2 == 0 && x.aligned16 && 32 * fld x.w3 20 2 + 32 * (fld x.w3 18 2 + 1) ≤ 128 &&
    (match mvGroup x with
     | none => false
     | some .int | some .half => fld x.w3 16 1 == 0
     | some _ => true)

/-- The bytes of one row of `mx.drain` (R281). -/
def drainBytes (x : Cmd) : Nat := 4 * width (fmtFld x.w3 11)
/-- The address of row i of `mx.drain`. -/
def drainAddr (x : Cmd) (i : Nat) : Word := x.addr + BitVec.ofNat 64 (64 * fld x.w3 0 7 * i)

/-- The limits of `mx.drain` (R280). -/
def drainOk (x : Cmd) : Bool :=
  x.aligned16 && fld x.w3 25 7 + fld x.w3 20 5 ≤ 127 && (fmtFld x.w3 11).valid && fld x.w3 8 3 != 5 && fld x.w3 8 3 != 6

/-- The address of memory row c of `mx.ld` and `mx.st` (R275). -/
def moveAddr (x : Cmd) (c : Nat) : Word := x.addr + BitVec.ofNat 64 (16 * fld x.w3 0 16 * c)
/-- The element width of a transposed move (R274). -/
def moveWidth (x : Cmd) : Nat := match fld x.w3 26 2 with | 0 => 8 | 1 => 16 | 2 => 32 | _ => 4

/-- The limits of `mx.ld` and `mx.st` (R274). -/
def moveOk (x : Cmd) : Bool := x.aligned16 && fld x.w3 16 5 == 0 && (fld x.w3 28 1 == 1 || fld x.w3 26 2 == 0)

/-- A rectangle in word 2 within the store, with the reserved low bits zero (R284). -/
def rectOk (w : W32) : Bool := fld w 25 7 + fld w 18 7 ≤ 127 && fld w 11 7 + fld w 4 7 ≤ 127 && fld w 0 4 == 0
/-- The entries of a rectangle word. -/
def rectOf (w : W32) : List (Nat × Nat) := rectangle (fld w 25 7) (fld w 18 7 + 1) (fld w 11 7) (fld w 4 7 + 1)

/-- The limits of `mx.accld` and `mx.accst` (R284). -/
def accMoveOk (x : Cmd) : Bool :=
  fld x.w1 17 15 == 0 && fld x.w1 0 17 % 4 == 0 && rectOk x.w2 && x.w3 == 0 &&
    fld x.w1 0 17 + 4 * (fld x.w2 18 7 + 1) * (fld x.w2 4 7 + 1) ≤ 0x2_0000

/-- The limits of `mx.zero` (R279): word 1 holds the rectangle. -/
def zeroOk (x : Cmd) : Bool := rectOk x.w1 && x.w2 == 0 && x.w3 == 0

/-- Whether two ranges of columns overlap. -/
def overlap (a n b m : Nat) : Bool := a < b + m && b < a + n

/-- The limits of `mx.smax` (R282). -/
def smaxOk (x : Cmd) : Bool :=
  let s0 := fld x.w1 18 7
  let mc := fld x.w1 11 7
  let o0 := fld x.w1 4 7
  let no := 32 * (fld x.w1 3 1 + 1)
  let fin := fld x.w1 1 1 == 1
  let fp := fmtFld x.w2 22
  fld x.w1 0 1 == 0 && fld x.w2 0 22 == 0 && x.w3 == 0 && fld x.w1 25 7 ≤ 96 && s0 ≤ 96 && mc ≤ 126 && o0 + no ≤ 128 && !overlap mc 2 o0 no &&
    (if fin then s0 == 0 && fld x.w2 29 3 == 0 && fp == 0 && fld x.w1 2 1 == 0
     else !overlap s0 32 mc 2 && !overlap s0 32 o0 no && fp.valid && (9 ≤ fp.code && fp.code ≤ 13 || fp.isP3109))

/-- The limits of `mx.loop` (R285). -/
def loopOk (x : Cmd) : Bool := fld x.w1 4 28 == 0 && 1 ≤ fld x.w1 0 4 && fld x.w1 0 4 ≤ 8 && fld x.w2 3 29 == 0

/-- Whether every row that a command with mode 1 writes lies in cell store (R64, R272). -/
def feOk (x : Cmd) : Bool :=
  x.done != 1 ||
    (match x.verb with
     | 1 =>
       if fld x.w3 28 1 == 0 then (List.range (fld x.w3 21 5 + 1)).all fun r => inStore (moveAddr x r) 64
       else (List.range (512 / moveWidth x)).all fun c => inStore (moveAddr x c) (((fld x.w3 21 5 + 1) * moveWidth x + 7) / 8)
     | 5 => (List.range (fld x.w3 20 5 + 1)).all fun i => inStore (drainAddr x i) (drainBytes x)
     | 8 => true
     | _ => false)

/-- The check of a matrix command when the engine begins it, without that of its channel (R272). -/
def mxOk (x : Cmd) : Bool :=
  feOk x &&
    (match x.verb with
     | 0 | 1 => moveOk x
     | 2 => mmaOk x
     | 3 => mvOk x
     | 4 => zeroOk x
     | 5 => drainOk x
     | 6 => smaxOk x
     | 7 | 8 => accMoveOk x
     | _ => loopOk x)

/-! ### Loading and storing tiles (R275) -/

/-- The pieces of at most 64 bytes of a memory row (R272). -/
def rowPieces (a : Word) (n : Nat) : List (Word × Nat) :=
  (List.range ((n + 63) / 64)).map fun i => (a + BitVec.ofNat 64 (64 * i), min 64 (n - 64 * i))

/-- A memory row read. -/
def readRow (a : Word) (n : Nat) (s : State) : Io (List Byte) :=
  (Io.each (fun (q : Word × Nat) s => readMem .mx q.1 q.2 s) (rowPieces a n) s).bind fun l s => .ok l.flatten s

/-- The unit of a row move that stops: an uncorrectable error and any other fault record the row. -/
def moveLd (x : Cmd) (s : State) : Ran :=
  let t := fld x.w3 29 3
  let R := fld x.w3 21 5 + 1
  if fld x.w3 28 1 = 0 then
    let r := x.unit
    (readMem .mx (moveAddr x r) 64 s).ran (BitVec.ofNat 32 r) fun bytes s =>
      let s1 := s.onCell fun c => (c.putTileRow t r bytes).progress 0 (r + 1)
      if r + 1 < R then .more { x with unit := r + 1 } s1
      else .done x (BitVec.ofNat 32 x.verb) []
        (s1.onCell fun c => ((List.range 32).drop R).foldl (fun c i => c.putTileRow t i (List.replicate 64 0)) c)
  else
    let e := moveWidth x
    (Io.each (fun c s => readRow (moveAddr x c) ((R * e + 7) / 8) s) (List.range (512 / e)) s).ran 0 fun rows s =>
      let row (r : Nat) : List Byte :=
        if r < R then bytesOf 64 ((rows.mapIdx fun c bytes => bits (ofBytes bytes) (r * e) e * 2 ^ (c * e)).foldl (· + ·) 0) else List.replicate 64 0
      .done x (BitVec.ofNat 32 x.verb) [] (s.onCell fun c => ((List.range 32).foldl (fun c r => c.putTileRow t r (row r)) c).progress 0 0)

/-- Bytes written at a spot, the last byte only in its low nibble when `half` says so (R196, R275). -/
def writeHalf (half : Bool) (sp : Spot) (data : List Byte) (s : State) : State :=
  if half then
    let old := (spotBytes sp data.length s).getLastD 0
    writeSpot sp (data.dropLast ++ [(old &&& 0xF0#8) ||| (data.getLastD 0 &&& 0x0F#8)]) s
  else writeSpot sp data s

/-- `mx.st`. -/
def moveSt (x : Cmd) (s : State) : Ran :=
  let t := fld x.w3 29 3
  let R := fld x.w3 21 5 + 1
  let fill (n count : Nat) : List (Nat × Nat) := (List.range count).map fun r => (storeOff (moveAddr x r), n)
  if fld x.w3 28 1 = 0 then
    let r := x.unit
    if s.cell.badRows t [r] then .fault cUNCORRECTABLE (BitVec.ofNat 32 r) s
    else (writeMem .mx (moveAddr x r) (s.cell.tileRow t r) s).ran (BitVec.ofNat 32 r) fun _ s =>
      let s1 := s.onCell (Cell.progress 0 (r + 1))
      if r + 1 < R then .more { x with unit := r + 1 } s1 else .done x (BitVec.ofNat 32 x.verb) (fill 64 R) s1
  else
    let e := moveWidth x
    let n := (R * e + 7) / 8
    let half := R * e % 8 != 0
    if s.cell.badRows t (List.range R) then .fault cUNCORRECTABLE 0 s
    else
      let value (c : Nat) : List Byte :=
        bytesOf n (((List.range R).map fun r =>
          bits (ofBytes (s.cell.tileRow t r)) (c * e) e * 2 ^ (r * e)).foldl (· + ·) 0)
      let parts : List (Word × List Byte × Bool) := (List.range (512 / e)).flatMap fun c =>
        let ps := rowPieces (moveAddr x c) n
        ps.mapIdx fun i q => (q.1, ((value c).drop (64 * i)).take q.2, half && i + 1 == ps.length)
      (Io.each (fun (q : Word × List Byte × Bool) s => spot true .mx q.1 q.2.1.length s) parts s).ran 0 fun sps s =>
        .done x (BitVec.ofNat 32 x.verb) (fill n (512 / e))
          (((sps.zip parts).foldl (fun s q => writeHalf q.2.2.2 q.1 q.2.2.1 s) s).onCell (Cell.progress 0 0))

/-! ### Multiply-accumulate (R277, R278) -/

/-- The entries of a command summed: every entry with its products of this unit, in increasing k, each with its k. -/
def floatEntry (g : Group48) (blk : Nat) (scale : Nat → Nat × Nat) (acc : Nat × Flags) (ks : List Nat) (prod : Nat → Num × Num) : Nat × Flags :=
  match g with
  | .half => sumHalf acc (ks.map prod)
  | .eight => sumEight (ks.map prod) acc
  | _ =>
    ((ks.map (· / blk)).eraseDups).foldl (fun acc b =>
      sumBlock acc ((ks.filter fun k => k / blk == b).map prod) (scale b).1 (scale b).2) acc

/-- The scale codes of block b for A's row i and B's row j (R277). -/
def mmaScale (x : Cmd) (c : Cell) (i j b : Nat) : Nat × Nat :=
  let sa := fld x.w3 29 3
  let sb := fld x.w3 26 3
  match fld x.w1 8 2 with
  | 0 => (0x7F, 0x7F)
  | 1 => ((x.scales.toList.getD sa 0).toNat, (x.scales.toList.getD sb 0).toNat)
  | _ => (((c.tileRow sa i).getD b 0).toNat, ((c.tileRow sb j).getD b 0).toNat)

/-- An uncorrectable operand of `mx.mma` or `mx.mv`: every row the command writes is marked (R288). -/
def operandFault (k : Nat) (rows : List Nat) (s : State) : Ran :=
  .fault cUNCORRECTABLE (BitVec.ofNat 32 (32 * k)) (s.onCell (Cell.markRows true rows))

/-- One entry of an integer command after products, with the least k of a saturation. -/
def intEntry (n : Nat) (zero : Bool) (ps : List (Nat × Int × Bool)) (e : Nat × Nat) (c : Cell) : Cell × Option Nat :=
  let start : IntSum := if zero then ⟨0, Inner.zero, false, none⟩ else ⟨intOf fINT32 (c.accAt e.1 e.2), c.innerAt e.1 e.2, false, none⟩
  let r := ps.foldl (intProduct n) start
  (((c.putAcc e.1 e.2 (intCode fINT32 r.acc)).putInner e.1 e.2 r.inner).overflowed r.sat, r.first)

/-- The lesser of two optional numbers. -/
def least? (a b : Option Nat) : Option Nat :=
  match a, b with
  | none, b => b
  | a, none => a
  | some x, some y => some (min x y)

/-- `mx.mma`: one K block of 32 products (R277, R287-R289). `note` holds the least k of a saturation, plus 1. -/
def mma (x : Cmd) (s : State) : Ran :=
  let ta := fld x.w1 15 3
  let tb := fld x.w1 11 3
  let at' := fld x.w1 14 1 == 1
  let bt := fld x.w1 10 1 == 1
  let fa := fmtFld x.w1 25
  let fb := fmtFld x.w1 18
  let K := fld x.w2 8 8 + 1
  let row0 := fld x.w2 25 7
  let col0 := fld x.w2 18 7
  let blk := if fld x.w1 7 1 = 1 then 16 else 32
  let ks := (List.range K).filter fun k => k / 32 == x.unit
  let zero := fld x.w2 1 1 == 1 && x.unit == 0
  let c := s.cell
  let bad := c.badRows ta (portRows at' ks) || c.badRows tb (portRows bt ks) ||
    (fld x.w1 8 2 == 2 && (c.badRows (fld x.w3 29 3) (List.range 32) || c.badRows (fld x.w3 26 3) (List.range 32)))
  if bad then operandFault x.unit ((List.range 32).map (row0 + ·)) s
  else
    let cells := rectangle 0 32 0 32
    let finish (y : Cmd) (s : State) : Ran :=
      let s1 := s.onCell (Cell.progress (x.unit + 1) 0)
      if 32 * (x.unit + 1) < K then .more { y with unit := x.unit + 1 } s1
      else if fld x.w2 2 1 == 1 && y.note != 0 then .fault cARITH (BitVec.ofNat 32 (y.note - 1)) (s1.onCell (Cell.mergeFlags y.flags))
      else .done y (BitVec.ofNat 32 x.verb) [] s1
    match mmaGroup x with
    | some .int =>
      let last := K - 1
      let cont := fld x.w2 0 1 == 1
      let (c', first) := cells.foldl (fun (r : Cell × Option Nat) e =>
        let ps := ks.map fun k => (k, intOf fa (c.operand ta at' fa e.1 k) * intOf fb (c.operand tb bt fb e.2 k), k == last && !cont)
        let (c1, f) := intEntry (32 * (fld x.w2 3 5 + 1)) zero ps (row0 + e.1, col0 + e.2) r.1
        (c1, least? r.2 f)) (c, none)
      finish { x with note := if x.note = 0 then (first.map (· + 1)).getD 0 else x.note } { s with cell := c' }
    | some g =>
      let c0 := if x.unit = 0 then
          (rectangle row0 32 col0 32).foldl (fun c e => if zero then c.discard e else c.promote e) c
        else c
      let (c', fl) := cells.foldl (fun (r : Cell × Flags) e =>
        let row := row0 + e.1
        let col := col0 + e.2
        let prod (k : Nat) : Num × Num := (valueOf fa (c.operand ta at' fa e.1 k), valueOf fb (c.operand tb bt fb e.2 k))
        let (v, f) := floatEntry g blk (mmaScale x c e.1 e.2) (if zero then 0 else r.1.accAt row col, 0) ks prod
        (r.1.putAcc row col v, r.2 ||| f)) (c0, 0)
      finish { x with flags := x.flags ||| fl } { s with cell := c' }
    | none => refused s

/-- `mx.mv`: one group of 32 weight rows (R278, R287, R288). -/
def mv (x : Cmd) (s : State) : Ran :=
  let tv := fld x.w3 29 3
  let nv := fld x.w3 26 3 + 1
  let row0 := 8 * fld x.w3 22 4
  let col0 := 32 * fld x.w3 20 2
  let nout := 32 * (fld x.w3 18 2 + 1)
  let zero := fld x.w3 17 1 == 1
  let sc := fld x.w3 16 1 == 1
  let fv := fmtFld x.w3 9
  let fw := fmtFld x.w3 2
  let K := 512 / max (width fv) (width fw)
  let rb := K * width fw / 8
  let ns := (List.range 32).map (32 * x.unit + ·)
  let marked := (List.range nv).map (row0 + ·)
  let c := s.cell
  if c.badRows tv (List.range nv) || (sc && c.badRows tv [31]) then operandFault x.unit marked s
  else
    let read := (Io.each (fun n s => readMem .mx (x.addr + BitVec.ofNat 64 (n * rb)) rb s) ns s).bind fun ws s =>
      (if sc then Io.each (fun n s => readMem .mx (x.addr + BitVec.ofNat 64 (nout * rb + 4 * n)) 4 s) ns s else .ok (ns.map fun _ => []) s).bind
        fun ss s => .ok (ws.zip ss) s
    match read with
    | .block w b s => .block w b s
    | .fault code s =>
      if code = cUNCORRECTABLE then operandFault x.unit marked s else .fault code (BitVec.ofNat 32 x.unit) s
    | .ok rows s =>
      let ks := List.range K
      let entry (v : Nat) (i : Nat) (row : List Byte × List Byte) (r : Cell × Flags) : Cell × Flags :=
        let e := (row0 + v, col0 + 32 * x.unit + i)
        let c0 := if zero then r.1.discard e else r.1.promote e
        let w (k : Nat) : Nat := bits (ofBytes row.1) (k * width fw) (width fw)
        match mvGroup x with
        | some .int =>
          let ps := ks.map fun k => (k, intOf fv (c.tileElem tv fv v k) * intOf fw (w k), k + 1 == K)
          ((intEntry (K + 1) zero ps e c0).1, r.2)
        | g =>
          let prod (k : Nat) : Num × Num := (valueOf fv (c.tileElem tv fv v k), valueOf fw (w k))
          let scale (b : Nat) : Nat × Nat := if sc then (((c.tileRow tv 31).getD (4 * v + b) 0).toNat, (row.2.getD b 0).toNat) else (0x7F, 0x7F)
          let (a, f) := floatEntry (g.getD .half) 32 scale (if zero then 0 else c0.accAt e.1 e.2, 0) ks prod
          (c0.putAcc e.1 e.2 a, r.2 ||| f)
      let (c', fl) := (List.range nv).foldl (fun r v => (rows.mapIdx fun i q => (i, q)).foldl (fun r q => entry v q.1 q.2 r) r) (s.cell, 0)
      let s1 := { s with cell := c'.progress (x.unit + 1) 0 }
      let y := { x with flags := x.flags ||| fl }
      if 32 * (x.unit + 1) < nout then .more { y with unit := x.unit + 1 } s1 else .done y (BitVec.ofNat 32 x.verb) [] s1

/-! ### Clearing, draining, copies (R279, R281, R284) -/

/-- The rows of a rectangle word that it covers over all 128 columns. -/
def fullRows (w : W32) : List Nat :=
  if fld w 11 7 = 0 ∧ fld w 4 7 = 127 then (List.range (fld w 18 7 + 1)).map (fld w 25 7 + ·) else []

/-- `mx.zero` (R279). -/
def mxZeroes (x : Cmd) (s : State) : Ran :=
  .done x (BitVec.ofNat 32 x.verb) [] (s.onCell fun c =>
    (((rectOf x.w1).foldl (fun c e => (c.discard e).putAcc e.1 e.2 0) c).markRows false (fullRows x.w1)).progress 0 0)

/-- `mx.drain`: one row (R281). -/
def drain (x : Cmd) (s : State) : Ran :=
  let row0 := fld x.w3 25 7
  let n := fld x.w3 20 5 + 1
  let col0 := 32 * fld x.w3 18 2
  let fd := fmtFld x.w3 11
  let r : Rounding := if fld x.w3 8 3 = 7 then ⟨x.rm, x.sat⟩ else ⟨BitVec.ofNat 3 (fld x.w3 8 3), fld x.w3 7 1 == 1⟩
  let src := if fd.isInt then fINT32 else fFP32
  if x.unit = 0 && ((List.range n).any fun i => s.cell.poisonedRow (row0 + i)) then .fault cUNCORRECTABLE 0 s
  else
    let s0 := if x.unit = 0 then s.onCell (Cell.promoteAll (rectangle row0 n col0 32)) else s
    let row := row0 + x.unit
    let (l, fl) := collect ((List.range 32).map fun j =>
      let rnd := (philox x.dkey (BitVec.ofNat 32 (col0 + j)) (BitVec.ofNat 32 row) x.draw 0x2000_0000).1.toNat % 2 ^ 16
      roundTo fd r rnd (valueOf src (s0.cell.accAt row (col0 + j))))
    (writeAll .mx ((rowPieces (drainAddr x x.unit) (drainBytes x)).mapIdx fun i q => (q.1, ((bytesOfElements fd l).drop (64 * i)).take q.2)) s0).ran (BitVec.ofNat 32 x.unit) fun _ s =>
      let s1 := s.onCell (Cell.progress 0 (x.unit + 1))
      let y := { x with flags := x.flags ||| fl }
      if x.unit + 1 < n then .more { y with unit := x.unit + 1 } s1
      else .done y (BitVec.ofNat 32 x.verb) ((List.range n).map fun i => (storeOff (drainAddr x i), drainBytes x)) s1

/-- `mx.accld` (R284). -/
def accld (x : Cmd) (s : State) : Ran :=
  let off := fld x.w1 0 17
  let l := rectOf x.w2
  if s.cell.damagedAt off (4 * l.length) then .fault cUNCORRECTABLE 0 s
  else
    .done x (BitVec.ofNat 32 x.verb) [] (s.onCell fun c =>
      (((l.mapIdx fun i e => (i, e)).foldl (fun c q => (c.discard q.2).putAcc q.2.1 q.2.2 (ofBytes (c.load (off + 4 * q.1) 4))) c).markRows false
        (fullRows x.w2)).progress 0 0)

/-- `mx.accst` (R284). -/
def accst (x : Cmd) (s : State) : Ran :=
  let off := fld x.w1 0 17
  let l := rectOf x.w2
  if l.any fun e => s.cell.poisonedRow e.1 then .fault cUNCORRECTABLE 0 s
  else
    .done x (BitVec.ofNat 32 x.verb) [(off, 4 * l.length)] (s.onCell fun c =>
      let c1 := c.promoteAll l
      (c1.storeAt off (l.flatMap fun e => bytesOf 4 (c1.accAt e.1 e.2))).progress 0 0)

/-! ### The online-softmax drain (R283) -/

/-- A value rounded to FP32 under RNE, with flags. -/
def round32 (x : Num × Flags) : Num × Flags := let (c, f) := roundTo fFP32 rne 0 x.1; (valueOf fFP32 c, x.2 ||| f)

/-- The FP32 code of a value that FP32 holds. -/
def code32 (x : Num) : Nat := (roundTo fFP32 rne 0 x).1

/-- The exact quotient to 200 bits with a sticky bit, which rounds as the quotient does, with its flags (R283). -/
def quotient (a b : Num) : Num × Flags :=
  match a, b with
  | .nan _, _ => nanFrom [a, b]
  | _, .nan _ => nanFrom [a, b]
  | .inf _, .inf _ => (.nan false, flNV)
  | .inf n, .fin k l _ => (.inf (n != k), if l = 0 then flDZ else 0)
  | .fin n _ _, .inf k => (.fin (n != k) 0 0, 0)
  | .fin n m e, .fin k l d =>
    if l = 0 then (if m = 0 then (.nan false, flNV) else (.inf (n != k), flDZ))
    else
      let q := m * 2 ^ 200 / l
      (.fin (n != k) (2 * q + (if m * 2 ^ 200 % l = 0 then 0 else 1)) (e - d - 201), 0)

/-- One row of `mx.smax` with FIN = 0 (R283): m, l and the outputs as values, P as codes of its format, and flags;
with w = 1 the outputs stay as they are. -/
structure SmaxRow where
  m : Num
  l : Num
  o : Option (List Num)
  p : List Nat
  fl : Flags
  deriving DecidableEq, Repr

/-- R283 for one row. -/
def smaxRow (fp : FmtDesc) (m l : Num) (scores o : List Num) : SmaxRow :=
  let top := scores.contains (.inf false)
  if m.isNan || l.isNan || scores.any Num.isNan || top then
    let (p, fl) := collect (scores.map fun _ => deliverNan fp false)
    ⟨.nan false, .nan false, some (o.map fun _ => .nan false), p, fl ||| (if top || (m :: l :: scores).any Num.isSig then flNV else 0)⟩
  else
    let mn := scores.foldl (fun a x => if a.lt x then x else a) m
    let power (x : Num) : Num := exp2Of (addExact 0 x mn.negate).1
    let (w, f1) : Num × Flags := if mn = .inf true ∨ (!m.lt mn ∧ !mn.lt m) then (.fin false 1 0, 0) else round32 (power m, 0)
    let one := !w.lt (.fin false 1 0) && !(Num.fin false 1 0).lt w
    let (p, f2) := collect (scores.map fun x => if mn = .inf true then (0, 0) else roundTo fp rne 0 (power x))
    let (lw, f3) := mulExact l w
    let (sum, f4) := sumExact 0 (lw :: p.map (valueOf fp))
    let (l', f5) := round32 (sum, f3 ||| f4)
    let os := if one then [] else o.map fun x => round32 (mulExact x w)
    ⟨mn, l', if one then none else some (os.map Prod.fst), p, f1 ||| f2 ||| f5 ||| orFlags (os.map Prod.snd)⟩

/-- `mx.smax` (R283). Every entry it reads is promoted first (R52): m and l are read before INIT replaces them, the outputs only without
INIT. -/
def smax (x : Cmd) (s : State) : Ran :=
  let r0 := fld x.w1 25 7
  let s0 := fld x.w1 18 7
  let mc := fld x.w1 11 7
  let o0 := fld x.w1 4 7
  let no := 32 * (fld x.w1 3 1 + 1)
  let init := fld x.w1 2 1 == 1
  let fin := fld x.w1 1 1 == 1
  let rows := (List.range 32).map (r0 + ·)
  let fp := fmtFld x.w2 22
  let done (c : Cell) (fl : Flags) : Ran := .done { x with flags := x.flags ||| fl } (BitVec.ofNat 32 x.verb) [] { s with cell := c.progress 0 0 }
  if rows.any s.cell.poisonedRow then .fault cUNCORRECTABLE 0 s
  else
    let val (c : Cell) (r k : Nat) : Num := valueOf fFP32 (c.accAt r k)
    let put (r k0 : Nat) (l : List Num) (c : Cell) : Cell := (l.mapIdx fun j v => (k0 + j, v)).foldl (fun c q => c.putAcc r q.1 (code32 q.2)) c
    if fin then
      let c0 := s.cell.promoteAll (rows.flatMap fun r => (r, mc + 1) :: (List.range no).map fun j => (r, o0 + j))
      let (c', fl) := rows.foldl (fun (q : Cell × Flags) r =>
        let os := (List.range no).map fun j => round32 (quotient (val q.1 r (o0 + j)) (val q.1 r (mc + 1)))
        (put r o0 (os.map Prod.fst) q.1, q.2 ||| orFlags (os.map Prod.snd))) (c0, 0)
      done c' fl
    else
      let c0 := s.cell.promoteAll (rows.flatMap fun r => ((List.range 32).map fun j => (r, s0 + j)) ++
        (r, mc) :: (r, mc + 1) :: (if init then [] else (List.range no).map fun j => (r, o0 + j)))
      let (c', fl) := (rows.mapIdx fun i r => (i, r)).foldl (fun (q : Cell × Flags) ir =>
        let r := ir.2
        let zero : Num := .fin false 0 0
        let old : List Num := (List.range no).map fun j => if init then zero else val q.1 r (o0 + j)
        let R := smaxRow fp (if init then .inf true else val q.1 r mc) (if init then zero else val q.1 r (mc + 1))
          ((List.range 32).map fun j => val q.1 r (s0 + j)) old
        let bytes := bytesOfElements fp R.p
        ((put r o0 (R.o.getD (if init then old else [])) (put r mc [R.m, R.l] q.1)).putTileRow (fld x.w2 29 3) ir.1 (bytes ++ List.replicate (64 - bytes.length) 0), q.2 ||| R.fl)) (c0, 0)
      done c' fl

/-! ### The engine's run, and free-running sections (R269, R285) -/

/-- The products of one unit of a command (R322): 32 by 32 entries of at most 32, or 32 weight rows against each vector. -/
def unitProducts (x : Cmd) : Nat :=
  match x.verb with
  | 2 => 1024 * min 32 (fld x.w2 8 8 + 1 - 32 * x.unit)
  | 3 => 32 * (fld x.w3 26 3 + 1) * (512 / max (width (fmtFld x.w3 9)) (width (fmtFld x.w3 2)))
  | _ => 0

/-- Products counted for the load of the cell in focus. -/
def countProducts (n : Nat) (s : State) : State :=
  match s.cell.board with
  | some id => if n = 0 then s else s.onPkg (Package.onBoard id fun b => { b with products := b.products + n })
  | none => s

/-- One unit of a command that is no loop, before its products are counted. -/
def mxBody (x : Cmd) (s : State) : Ran :=
  match x.verb with
  | 0 => moveLd x s
  | 1 => moveSt x s
  | 2 => mma x s
  | 3 => mv x s
  | 4 => mxZeroes x s
  | 5 => drain x s
  | 6 => smax x s
  | 7 => accld x s
  | _ => accst x s

/-- One unit of a command that is no loop. A unit that ends in ARITH has completed its products (R289, R322). -/
def mxUnit (x : Cmd) (s : State) : Ran :=
  match mxBody x s with
  | .more y t => .more y (countProducts (unitProducts x) t)
  | .done y lane fill t => .done y lane fill (countProducts (unitProducts x) t)
  | .fault code info t => .fault code info (if code = cARITH then countProducts (unitProducts x) t else t)
  | r => r

/-- A section of a cell. -/
def Cell.sectionAt (c : Cell) (n : Nat) : Section := c.sections.toList.getD n ⟨0, []⟩
/-- A section changed. -/
def Cell.onSection (n : Nat) (f : Section → Section) (c : Cell) : Cell :=
  { c with sections := c.sections.mapFinIdx fun i x _ => if i = n then f x else x }

/-- The section of an `mx.loop`. -/
def loopSec (x : Cmd) : Nat := fld x.w2 0 3
/-- A body command in the iteration of a loop: the address of a memory verb moves by STEP (R285). -/
def bodyCmd (x b : Cmd) : Cmd :=
  let a := b.addr + BitVec.ofNat 64 x.iter * x.w3.signExtend 64
  let y := if b.verb = 0 ∨ b.verb = 1 ∨ b.verb = 3 ∨ b.verb = 5 then { b with w1 := a.setWidth 32, w2 := a.extractLsb' 32 32 } else b
  { y with unit := x.unit, note := x.bodyNote }

/-- A loop after a unit of its body: `note` holds the iterations taken. -/
def loopNext (x : Cmd) (s : State) : Ran :=
  if x.index + 1 < fld x.w1 0 4 then .more { x with index := x.index + 1, unit := 0, bodyNote := 0 } s
  else if x.iter + 1 < x.note then .more { x with index := 0, iter := x.iter + 1, unit := 0, bodyNote := 0 } s
  else .done x (BitVec.ofNat 32 x.verb) [] (s.onCell (Cell.onSection (loopSec x) fun q => { q with body := q.body.drop (fld x.w1 0 4) }))

/-- One unit of a loop that has taken its count; it waits for a body command that has not been issued yet. A fault records the body command;
KMXROW is that of the body command (R287). -/
def loopUnit (x : Cmd) (s0 : State) : Ran :=
  let s := if x.unit = 0 then s0.onCell (Cell.progress 0 0) else s0
  match (s.cell.sectionAt (loopSec x)).body[x.index]? with
  | none => .block none false s
  | some b =>
    if b.after.any s.cell.flying then .block none false s
    else
      let y := bodyCmd x b
      let r := if mxOk y then mxUnit y s else refused s
      match r with
      | .more z s => .more { x with unit := z.unit, flags := x.flags ||| z.flags, bodyNote := z.note } s
      | .done z _ _ s => loopNext { x with flags := x.flags ||| z.flags } s
      | .block w st s => .block w st s
      | .fault code info s => .fault code info (s.onCell (Cell.cmdFault b code info))

/-- One unit of the command at the head of the matrix engine (R269, R272, R285). A command that begins has reached no unit, and KMXROW says
so (R287). -/
def runMx (x : Cmd) (s0 : State) : Ran :=
  let s := if x.begun then s0 else s0.onCell (Cell.progress 0 0)
  if !x.begun && (!mxOk x || !s.cell.tokenChannel x) then refused s
  else if x.verb = 9 then
    if !x.begun then .more { x with begun := true } s else if x.note = 0 then .block none false s else loopUnit x s
  else mxUnit { x with begun := true } s

/-- LOOP_TAKE: the loop at the head takes the whole pending count, once that is not zero (R285). -/
def execLoopTake (c : CellId) (s : State) : Result :=
  let x := s.cellAt c
  .next (if x.stopped || !s.active x then s
    else match x.mx.q with
      | [] => s
      | l :: r =>
        let n := (x.sectionAt (loopSec l)).count
        if l.verb = 9 && l.begun && l.note == 0 && n != 0 then
          s.putCell c ({ x with mx := { x.mx with q := { l with note := n } :: r } }.onSection (loopSec l) fun q => { q with count := 0 })
        else s)

/-- A matrix command issues: into the queue, or into the body that a loop is collecting, where it is checked (R269, R285). -/
def acceptMx (x : Cmd) (s : State) : State :=
  match s.cell.collecting with
  | some (sec, n) =>
    if x.verb = 9 ∨ x.done ≠ 0 ∨ x.sb ≠ 0 ∨ !mxOk x then s.onCell (Cell.cmdFault x cENGINE_CMD 0)
    else s.onCell fun c =>
      { c.onSection sec.toNat (fun q => { q with body := q.body ++ [x] }) with collecting := if n ≤ 1 then none else some (sec, n - 1) }
  | none =>
    let s1 := s.onCell (Cell.accept .mx x)
    if x.verb = 9 ∧ loopOk x then s1.onCell fun c => { c with collecting := some (BitVec.ofNat 3 (loopSec x), fld x.w1 0 4) } else s1

/-- The issue of a matrix command: a body command takes no place in the queue, and one for whose section's buffer of 8 commands an earlier loop
has left no place is held as by a full queue (R65, R285; log 34). -/
def issueMx (verb : Nat) (h : CmdHead) (w1 w2 w3 : W32) (s : State) : State :=
  match s.cell.collecting with
  | some (sec, _) =>
    substituted h w1 w2 w3 s fun a b c =>
      if s.cell.acquiring then hold .staying s
      else if 8 ≤ (s.cell.sectionAt sec.toNat).body.length then hold (.expiring (.queue .mx)) s
      else advance 16 (acceptMx (s.cell.command verb h a b c 0) s)
  | none => issueTo .mx verb h w1 w2 w3 s acceptMx

def execMxLd (h : CmdHead) (w1 w2 w3 : W32) (s : State) : Result := .next (issueMx 0 h w1 w2 w3 s)
def execMxSt (h : CmdHead) (w1 w2 w3 : W32) (s : State) : Result := .next (issueMx 1 h w1 w2 w3 s)
def execMxMma (h : CmdHead) (w1 w2 w3 : W32) (s : State) : Result := .next (issueMx 2 h w1 w2 w3 s)
def execMxMv (h : CmdHead) (w1 w2 w3 : W32) (s : State) : Result := .next (issueMx 3 h w1 w2 w3 s)
def execMxZero (h : CmdHead) (w1 w2 w3 : W32) (s : State) : Result := .next (issueMx 4 h w1 w2 w3 s)
def execMxDrain (h : CmdHead) (w1 w2 w3 : W32) (s : State) : Result := .next (issueMx 5 h w1 w2 w3 s)
def execMxSmax (h : CmdHead) (w1 w2 w3 : W32) (s : State) : Result := .next (issueMx 6 h w1 w2 w3 s)
def execMxAccld (h : CmdHead) (w1 w2 w3 : W32) (s : State) : Result := .next (issueMx 7 h w1 w2 w3 s)
def execMxAccst (h : CmdHead) (w1 w2 w3 : W32) (s : State) : Result := .next (issueMx 8 h w1 w2 w3 s)
def execMxLoop (h : CmdHead) (w1 w2 w3 : W32) (s : State) : Result := .next (issueMx 9 h w1 w2 w3 s)

/-! ### The graph sequencer's verbs (R286) -/

/-- The cell and section that a sequencer command names, on the board of the issuer (R286). -/
def gsTarget (x : Cmd) (s : State) : Option CellId :=
  match s.boardOf s.cell with
  | none => none
  | some b =>
    let r := fld x.w2 16 6
    let c := fld x.w2 8 6
    if fld x.w2 22 10 = 0 && fld x.w2 14 2 = 0 && fld x.w2 3 5 = 0 && x.w3 = 0 && (x.verb = 0 || x.w1 = 0) && x.done != 1 &&
        r < 8 * b.h && c < 8 * b.w then some (b.cellAt r c) else none

/-- The section that a sequencer command names. -/
def gsSec (x : Cmd) : Nat := fld x.w2 0 3

/-- A count is added to a section; it saturates (R286). -/
def Cell.arm (sec n : Nat) (c : Cell) : Cell := c.onSection sec fun q => { q with count := min (q.count + n) 0xFFFF_FFFF }

/-- Whether an `mx.loop` of a section is queued or running (R286). -/
def Cell.looping (sec : Nat) (c : Cell) : Bool := c.mx.q.any fun y => y.verb == 9 && loopSec y == sec

/-- One command of the sequencer (R286). -/
def runGs (x : Cmd) (s : State) : Ran :=
  match gsTarget x s with
  | none => refused s
  | some t =>
    if !s.cell.tokenChannel x then refused s
    else if x.verb = 0 then .done x 0 [] (s.atCell t (Cell.arm (gsSec x) x.w1.toNat))
    else
      let c := s.cellAt t
      if (c.sectionAt (gsSec x)).count = 0 && !c.looping (gsSec x) then .done x 1 [] s else .block none false s

def execGsArm (h : CmdHead) (w1 w2 w3 : W32) (s : State) : Result := .next (issue .gs 0 h w1 w2 w3 s)
def execGsWait (h : CmdHead) (w1 w2 w3 : W32) (s : State) : Result := .next (issue .gs 1 h w1 w2 w3 s)

end Sys2Proof.Machine
end

