-- ==== Sys2Proof/Machine/Remote.lean ====
section
/-! DEFINITION. Remote instructions, majors 0x34 and 0x35 (R352-R362, R371), user recipes (R363, R364), and a request at its target
(R356-R361, R374, R404, R405, R409). -/

namespace Sys2Proof.Machine

/-! ### Operands (R352, R353) -/

/-- The forms of a remote address. -/
inductive RemoteForm where
  | global
  | cell (c : CellId) (off : Nat)
  | none
  deriving DecidableEq, Repr

/-- The form of n bytes at a remote address (R352). -/
def remoteForm (a : Word) (n : Nat) : RemoteForm :=
  if a.toNat + n ≤ 2 ^ 56 then .global
  else if a.extractLsb' 31 33 = 0x0_8000_0000#33 then .cell (a.extractLsb' 17 14) (a.extractLsb' 0 17).toNat
  else .none

/-- The path a target word fixes (R353). -/
def fixOf (w : Word) : Option Nat := if w.getLsbD 10 then some (bits w.toNat 8 2) else none

/-- The checks of a remote instruction: alignment first, then the forms of its operands (R352, R353). -/
def remoteChecked (a w : Word) (n : Nat) (s t : State) : State :=
  if a.toNat % n ≠ 0 then raise cMISALIGNED 0 (a.setWidth 32) s
  else if remoteForm a n = .none ∨ w.extractLsb' 11 53 ≠ 0 then denied a s
  else t

/-- The bytes of a size field of major 0x34 (R354). -/
def remoteSize (z : BitVec 3) : Nat := if z ≤ 3 then 2 ^ z.toNat else if z = 4 then 32 else 128

/-- The local side of SZ 5: aligned, and in the issuing cell's store (R355). -/
def localLine (L : Word) (s : State) (k : Nat → State) : State :=
  match regionOf L with
  | .cell off => k off
  | _ => raise cFE_SPACE 0 (L.setWidth 32) s

/-- A request of the instruction at the PC. -/
def sendingOf (t : Byte) (fix : Option Nat) (op : RemoteOp) (access : Option Nat) (write : Bool) (s : State) : Sending :=
  ⟨t, fix, op, access, write, false, s.cell.cur.getD 0, s.cell.pc, s.cell.wordAt s.cell.pc, 0⟩

/-- A remote write of the instruction at the PC is accepted; one to a failed peer is discarded and counted as failed (R358, R369). -/
def sendWrite (w : Word) (op : RemoteOp) (s : State) : State :=
  let t : Byte := w.setWidth 8
  if s.cell.acquiring then hold .staying s
  else if s.cutNow t then advance 4 (s.onCell (Cell.failedWrite t))
  else if s.linkHeld t then hold .staying s
  else let q := sendingOf t (fixOf w) op none true s; sendRequest q (advance 4 s)

/-- A remote instruction with an answer: a failed peer is a fault (R369). -/
def sendRead (w : Word) (op : RemoteOp) (dst : Dst) (acc : AccOp) (va : Word) (acq : Bool) (s : State) : State :=
  let t : Byte := w.setWidth 8
  if s.cell.acquiring then hold .staying s
  else if s.cutNow t then raise cPEER_FAIL 0 (t.setWidth 32) s
  else if s.linkHeld t then hold .staying s
  else buffered s (freeDst dst s
    (let q := sendingOf t (fixOf w) op (some s.cell.nextId) false s
     sendRequest q (advance 4 (launch acc dst va .none 7 0 [] acq false s))))

/-! ### rld, rst, rst.o, ramo, rfence (R355, R359, R362, R371) -/

/-- `rld` (R355). -/
def execRld (d a b : XIdx) (_ : Bool) (z : BitVec 3) (s : State) : Result :=
  let n := remoteSize z
  .next (readX a s fun A => readX b s fun W =>
    if z = 5 then
      readX d s fun L =>
        if A.toNat % n = 0 ∧ L.toNat % n ≠ 0 then raise cMISALIGNED 0 (L.setWidth 32) s
        else remoteChecked A W n s (localLine L s fun off => sendRead W (.load A n) .none (.awaitLine off) A false s)
    else remoteChecked A W n s (sendRead W (.load A n) (if z = 4 then .v d else .x d) .await A false s))

/-- The poisoned units of 8 bytes of a line of the cell's own store (R331). -/
def Cell.poisonIn (c : Cell) (off n : Nat) : List (Nat × Nat) :=
  ((List.range (n / 8)).filter fun i => c.damagedAt (off + 8 * i) 8).map fun i => (8 * i, 8)

/-- `rst` (R355): SZ 5 reads its line at issue, after every earlier cell-store access of the activation. -/
def execRst (d a b : XIdx) (z : BitVec 3) (s : State) : Result :=
  let n := remoteSize z
  .next (readX a s fun A => readX b s fun W =>
    if z = 5 then
      readX d s fun L =>
        if A.toNat % n = 0 ∧ L.toNat % n ≠ 0 then raise cMISALIGNED 0 (L.setWidth 32) s
        else remoteChecked A W n s (localLine L s fun off =>
          if s.cell.cellPending then hold .staying s
          else sendWrite W (.store A (s.cell.load off n) (s.cell.poisonIn off n)) s)
    else if z = 4 then readV d s fun V => remoteChecked A W n s (sendWrite W (.store A (bytesOfLanes V.lanes.toList) []) s)
    else readX d s fun v => remoteChecked A W n s (sendWrite W (.store A (bytesOf n v.toNat) []) s))

/-- `rst.o` (R359). -/
def execRstO (d a b : XIdx) (z : BitVec 2) (s : State) : Result :=
  let n := sizeOf z
  .next (readX a s fun A => readX b s fun W => readX d s fun v =>
    remoteChecked A W n s (sendWrite W (.flag A (bytesOf n v.toNat) []) s))

/-- The user recipe of a context (R363). -/
def Package.recipe (p : Package) (ctx : BitVec 6) (n : Nat) : Option Recipe := (aget p.contexts ctx.toNat).bind fun c => aget c.recipes n

/-- The bytes of a recipe (R248, R362, R363); none for a user recipe that does not exist. -/
def recipeBytes (ctx : BitVec 6) (n : Nat) (w4 : Bool) (p : Package) : Option Nat :=
  if n ≤ 9 then some (if w4 then 4 else 8)
  else if n = 11 then some 2
  else if n ≤ 15 then some 4
  else (p.recipe ctx n).map fun r => if r.w4 then 4 else 8

/-- `ramo` (R362): a release at domain scope before it is sent. -/
def execRamo (d a b : XIdx) (w ret : Bool) (n : BitVec 6) (s : State) : Result :=
  .next (readX a s fun A => readX b s fun W => readX d s fun A0 => readX (d + 1) s fun A1 =>
    let size := (recipeBytes s.cell.k.ctx n.toNat w s.pkg).getD 1
    let op : RemoteOp := .recipe A n w ret A0 A1 s.cell.k.rm s.cell.k.sat
    remoteChecked A W size s
      (afterCovered false s.cell.releaseSet s fun s => if ret then sendRead W op (.x d) .await A true s else sendWrite W op s))

/-- The status of an `rfence`: the lowest failed peer among the writes that it covers (R371). -/
def fenceStatus (failed : List Byte) : Word :=
  match failed with
  | [] => 0
  | t :: r => pkgStatus (r.foldl (fun m u => if u.toNat < m.toNat then u else m) t) cPEER_FAIL

/-- `rfence`: the set is fixed at first issue and kept in the handler entry, with the peers that have failed with writes of the cell (R371). -/
def execRfence (d : XIdx) (s : State) : Result :=
  let done (failed : List Byte) (s : State) : State := advance 4 (s.onCell fun c => (c.setPend .none).landX d (fenceStatus failed))
  .next (match s.cell.pend with
    | .rfence l f => if l.isEmpty then done f s else hold (.expiring .covered) s
    | _ =>
      freeX d s
        (let l := s.writesOf
         if l.isEmpty then done s.cell.failedTo s
         else hold (.expiring .covered) (pendX d (s.onCell (Cell.setPend (.rfence l s.cell.failedTo))))))

/-! ### Recipes at the target (R362-R364) -/

/-- One micro-op of a recipe of W bytes over the values OLD, A0, A1, T0, T1, NEW, RET, IMM, which answers them after it (R364). -/
def microOp (w : Nat) (q : Nat × Nat × Nat × Nat) (v : List Nat × Flags) : List Nat × Flags :=
  let m := 2 ^ (8 * w)
  let a := v.1.getD q.2.2.1 0
  let b := v.1.getD q.2.2.2 0
  let sgn (x : Nat) : Int := (BitVec.ofNat (8 * w) x).toInt
  let fl (f : Nat → Nat → Nat × Flags) : Nat × Flags := f a b
  let (r, f) : Nat × Flags :=
    match q.1 with
    | 0 => (a, 0)
    | 1 => ((a + b) % m, 0)
    | 2 => ((a + (m - b)) % m, 0)
    | 3 => (a &&& b, 0)
    | 4 => (a ||| b, 0)
    | 5 => (a ^^^ b, 0)
    | 6 => (min a b, 0)
    | 7 => (max a b, 0)
    | 8 => (if sgn a < sgn b then a else b, 0)
    | 9 => (if sgn a < sgn b then b else a, 0)
    | 10 => (a * 2 ^ (b % 64) % m, 0)
    | 11 => (a / 2 ^ (b % 64), 0)
    | 12 => (if a = b then 1 else 0, 0)
    | 13 => (if a < b then 1 else 0, 0)
    | 14 => (if v.1.getD 4 0 ≠ 0 then a else b, 0)
    | 15 => fl fun a b => let (x, f1) := addExact 0 (valueOf fFP32 a) (valueOf fFP32 b); let (c, f2) := roundTo fFP32 rne 0 x; (c, f1 ||| f2)
    | 16 => fl (minMax fFP32 true)
    | _ => fl fun a b => let (x, f1) := mulExact (valueOf fFP32 a) (valueOf fFP32 b); let (c, f2) := roundTo fFP32 rne 0 x; (c, f1 ||| f2)
  (v.1.set q.2.1 r, v.2 ||| f)

/-- A user recipe run on an old value: NEW, RET and the flags (R364). -/
def Recipe.run (r : Recipe) (old a0 a1 : Nat) : Nat × Nat × Flags :=
  let w := if r.w4 then 4 else 8
  let m := 2 ^ (8 * w)
  let (v, f) := r.ops.foldl (fun v q => microOp w q v) ([old, a0 % m, a1 % m, 0, 0, old, old, r.imm.toNat % m], 0)
  (v.getD 5 0, v.getD 6 0, f)

/-- The atomic that a fixed recipe is (R248). -/
def recipeOp : Nat → AmoOp
  | 0 => .add | 1 => .and | 2 => .or | 3 => .xor | 4 => .min | 5 => .max | 6 => .minu | 7 => .maxu | 8 => .swap | 9 => .cas
  | 10 => .faddF32 | 11 => .faddBf16 | 12 => .fminF32 | 13 => .fmaxF32 | 14 => .add | _ => .cas

/-- A recipe at its home, on bytes that are there: the result and the flags (R245, R362, R364). -/
def runRecipe (r : RemoteReq) (n : Nat) (w4 : Bool) (a0 a1 : Word) (rm : BitVec 3) (sat : Bool) (va : Word) (key : Nat) (p : Package) :
    (Word × Flags) × Package :=
  if n < 16 then
    let op := recipeOp n
    let size := (recipeBytes r.ctx n w4 p).getD 8
    let ((old, f), p1) := amoAt r.cell r.ctx op size a0 a1 ⟨rm, sat⟩ va key p
    ((amoResult op size old, f), p1)
  else match p.recipe r.ctx n with
    | none => ((0, 0), p)
    | some q =>
      let size := if q.w4 then 4 else 8
      let (new, ret, f) := q.run (ofBytes (p.read key size)) a0.toNat a1.toNat
      ((if q.w4 then sextBytes 4 ret else BitVec.ofNat 64 ret, f), postFlags r.cell r.ctx f (p.write key (bytesOf size new)))

/-! ### A request at its target (R356-R359, R374) -/

/-- A request waits at the target: for a translation, with its notice (R208, R356), or for the counts of R359. -/
def holdRequest (src : Byte) (r : RemoteReq) (s : State) : State :=
  let s1 := s.onPkg (Package.onPeer src fun P => { P with held := (P.held.filter fun h => h.seq != r.seq) ++ [r] })
  if src = s.pkg.number then s1 else sendBack src r.tag r.seq (.holdNotice src r.seq) s1

/-- A translation stall of a request, noted for the target context; CELL names the source package (R226). -/
def stallRequest (src : Byte) (r : RemoteReq) (acc level : Nat) (va : Word) (s : State) : State :=
  noteStall r.ctx (src.setWidth 14) 7 acc level va (holdRequest src r s)

/-- A request is refused with ACCESS (R357). -/
def refuseRequest (src : Byte) (r : RemoteReq) (s : State) : State := respond src r (.refusal src r.seq false) [] s

/-- A remote write has been performed: it is counted in Q and acknowledged (R356, R358). -/
def ackWrite (src : Byte) (r : RemoteReq) (pieces : List (Option CellId × Nat × Nat)) (s : State) : State :=
  respond src r (.acknowledge src r.seq false) pieces (s.onPkg (Package.onPeer src fun P =>
    { P with q := P.q.set r.tag.toNat (P.q[r.tag.toNat]'r.tag.isLt + 1) r.tag.isLt }))

/-- The L1 of the cell that stores to its own package takes the written pieces (R203, R254, R350): those units of them that are poisoned are
marked. A copy's flit is no write of the cell. -/
def ownL1 (src : Byte) (r : RemoteReq) (l : List (Nat × Nat)) (data : List Byte) (bad : List Nat) (s : State) : State :=
  if src = s.pkg.number && !((s.pkg.outReq src r.seq).any (·.engine)) then
    s.atCell r.cell fun c => (l.foldl (fun (q : Cell × List Byte) e => (q.1.l1Write e.1 (q.2.take e.2), q.2.drop e.2)) (c, data)).1.l1Mark (fun _ => true) bad
  else s

/-- A store at its target, with the poison it carries (R331, R356, R374); `fill` is that of R359. -/
def performRemoteStore (src : Byte) (r : RemoteReq) (a : Word) (data : List Byte) (bad : List (Nat × Nat)) (fill : Bool) (s : State) : State :=
  match remoteForm a data.length with
  | .none => refuseRequest src r s
  | .cell c off =>
    if !s.onBoardOf r.ctx c then refuseRequest src r s
    else
      let s1 := s.atCell c fun x => let y := x.storeAt off data; if fill then y.fillWords off data.length else y
      ackWrite src r [(some c, off, data.length)] (spoil (bad.map fun q => (some c, off + q.1, q.2)) s1)
  | .global =>
    match storeVirtual r.ctx a.toNat data s.pkg with
    | (.ok _, p) =>
      match placeRange false true r.ctx a.toNat data.length p with
      | (.ok l, p) =>
        let key := (l.headD (0, 0)).1
        ackWrite src r (l.map fun q => (none, q.1, q.2))
          (ownL1 src r l data (bad.flatMap fun q => unitsTouched (key + q.1) q.2)
            (bad.foldl (fun s q => s.onPkg (Package.poisoned (key + q.1) q.2)) { s with pkg := p }))
      | (_, p) => refuseRequest src r { s with pkg := p }
    | (.stall l v, p) => stallRequest src r 1 l v { s with pkg := p }
    | (.bad, p) => refuseRequest src r { s with pkg := p }

/-- A load at its target. -/
def performRemoteLoad (src : Byte) (r : RemoteReq) (a : Word) (n : Nat) (s : State) : State :=
  let reply (l : List Byte) (bad : Bool) (s : State) : State := respond src r (.answer src r.seq (.bytes l bad)) [] s
  match remoteForm a n with
  | .none => refuseRequest src r s
  | .cell c off => if !s.onBoardOf r.ctx c then refuseRequest src r s else reply ((s.cellAt c).load off n) ((s.cellAt c).damagedAt off n) s
  | .global =>
    match readVirtual r.ctx a.toNat n s.pkg with
    | (.ok (l, bad), p) => reply l bad { s with pkg := p }
    | (.stall l v, p) => stallRequest src r 0 l v { s with pkg := p }
    | (.bad, p) => refuseRequest src r { s with pkg := p }

/-- A `ramo` at its target (R362): a cell store, an absent recipe or a page without RD and W is refused; the returning form is
answered with its result. -/
def performRecipe (src : Byte) (r : RemoteReq) (a : Word) (n : BitVec 6) (w4 ret : Bool) (a0 a1 : Word) (rm : BitVec 3) (sat : Bool)
    (s : State) : State :=
  match recipeBytes r.ctx n.toNat w4 s.pkg, remoteForm a 1 with
  | some size, .global =>
    if a.toNat % size ≠ 0 then respond src r (.refusal src r.seq true) [] s
    else match translateFor true true r.ctx a s.pkg with
    | (.ok (pa, at'), p) =>
      let key := physKey at' pa
      if p.inRecord key size then refuseRequest src r { s with pkg := p }
      else if p.damaged key size then respond src r (.answer src r.seq (.bytes [] true)) [] { s with pkg := p }
      else
        let ((v, f), p1) := runRecipe r n.toNat w4 a0 a1 rm sat a key p
        let pieces := [((none : Option CellId), key, size)]
        if ret then respond src r (.answer src r.seq (.result v f)) pieces { s with pkg := p1 } else ackWrite src r pieces { s with pkg := p1 }
    | (.stall l v, p) => stallRequest src r 2 l v { s with pkg := p }
    | (.bad, p) => refuseRequest src r { s with pkg := p }
  | _, _ => refuseRequest src r s

/-- A load, store, flag or recipe at its target. -/
def performRequest (src : Byte) (r : RemoteReq) (s : State) : State :=
  match r.op with
  | .load a n => performRemoteLoad src r a n s
  | .store a data bad => performRemoteStore src r a data bad false s
  | .flag a data counts => if (s.pkg.peer src).covers counts then performRemoteStore src r a data [] true s else holdRequest src r s
  | .recipe a n w4 ret a0 a1 rm sat => performRecipe src r a n w4 ret a0 a1 rm sat s
  | _ => s

/-! ### The filter (R361, R369, R404, R405, R409) -/

/-- Whether a request that was accepted is still held here. -/
def Package.stillHeld (p : Package) (src : Byte) (seq : BitVec 48) : Bool :=
  let same (q : Byte × RemoteReq) : Bool := q.1 == src && q.2.seq == seq
  (p.peer src).held.any (·.seq == seq) || p.early.any (fun c => c.src == src && c.req.seq == seq) ||
    p.groups.any (fun x => x.contribs.any fun c => c.src == src && c.req.seq == seq) ||
    p.convs.any fun e => e.2.heldTurns.any same || e.2.heldClose.any same || e.2.waiting.any fun q => q.1 == src && q.2.1.seq == seq

/-- A packet, request or reply, refused in a trust domain: the third in a row declares its source failed; the others are answered with a
negative notice (R405). -/
def refusePacket (src : Byte) (tag : BitVec 2) (seq : BitVec 48) (reply : Bool) (s : State) : State :=
  let n := (s.pkg.peer src).badRun + 1
  let s1 := s.onPkg fun p =>
    { (p.onPeer src fun P => { P with badRun := n }) with
      trust := { p.trust with sealF := if p.trust.sealF = 255 then 255 else p.trust.sealF + 1 } }
  if 3 ≤ n then declareFailed src 2 s1 else sendBack src tag seq (.negative src seq reply) s1

/-- A packet of an epoch that is over is dropped, and counted (R409). -/
def dropOld (s : State) : State := s.onPkg fun p => { p with trust := { p.trust with epDrop := if p.trust.epDrop = 255 then 255 else p.trust.epDrop + 1 } }

/-- Whether a sequence lies below the window of a source (R361). -/
def Peer.belowWindow (P : Peer) (seq : BitVec 48) : Bool :=
  match P.top with
  | some t => let d := (t - seq).toNat; 1024 < d && d < 2 ^ 47
  | none => false

/-- In skid mode a duplicate belongs to its own run, whose tag brings the outcome, once that is known; it writes nothing itself (R361, R368). -/
def Package.rerun (src : Byte) (r : RemoteReq) (known : Option OutMsg) (p : Package) : Package :=
  if p.skid && !(p.skidRun.any fun e => e.is src r.seq && e.port == r.port && !e.failed) then
    { p with skidRun := p.skidRun ++ [⟨src, r.tag, r.port, r.seq, [], known, false, true⟩] }
  else p

/-- The outcome of a request that was performed, for a duplicate: its saved result or refusal, or an acknowledgement; none where its run has still to
bring it (R361, R368). -/
def Package.outcomeOf (src : Byte) (r : RemoteReq) (p : Package) : Option OutMsg :=
  let P := p.peer src
  match p.skidRun.find? fun e => e.is src r.seq && !e.failed with
  | some e => e.msg
  | none => some (match P.results.find? fun q => q.1 == r.seq, P.refusals.find? fun q => q.1 == r.seq with
    | some q, _ => .answer src r.seq q.2
    | none, some q => .refusal src r.seq q.2
    | none, none => .acknowledge src r.seq false)

/-- A duplicate: a held request is answered with a hold notice, a load is performed again, and any other has its outcome again, a poison mark
with it (R361, R368). In skid mode the outcome goes out with the tag of the duplicate's own run (R368). -/
def duplicate (src : Byte) (r : RemoteReq) (again : State → State) (s : State) : State :=
  let enter (known : Option OutMsg) : State := s.onPkg (Package.rerun src r known)
  let spoilt : Bool := (s.pkg.peer src).replies.any fun q => q.1 == r.seq && (match q.2.2 with | .acknowledge _ _ bad => bad | _ => false)
  if s.pkg.stillHeld src r.seq then sendBack src r.tag r.seq (.holdNotice src r.seq) (enter none)
  else if spoilt then sendBack src r.tag r.seq (.acknowledge src r.seq true) s
  else match r.op with
    | .load .. => again (enter none)
    | _ =>
      match s.pkg.outcomeOf src r with
      | none => enter none
      | some m => if s.pkg.skid then enter (some m) else sendBack src r.tag r.seq m s

/-- A new request is marked in the filter, and its run noted in skid mode (R361, R368). -/
def accept (src : Byte) (r : RemoteReq) (s : State) : State :=
  s.onPkg fun p =>
    let q := p.onPeer src fun P =>
      let top := match P.top with | some t => if before t r.seq then r.seq else t | none => r.seq
      let P1 : Peer := { P with top := some top, badRun := 0 }
      { P1 with
        seen := (P.seen ++ [r.seq]).filter fun x => !P1.belowWindow x
        results := P.results.filter fun x => !P1.belowWindow x.1
        refusals := P.refusals.filter fun x => !P1.belowWindow x.1
        replies := P.replies.filter fun x => !P1.belowWindow x.1 }
    if q.skid && src != q.number then { q with skidRun := q.skidRun ++ [⟨src, r.tag, r.port, r.seq, [], none, false, false⟩] } else q

/-- Whether an epoch is the one that this package switches to next: the one after its own, or the pending one of a package that joins (R406,
R409). -/
def Trust.isNext (T : Trust) (epoch : Word) : Bool := epoch == T.epoch + 1 || T.pending.any (·.2 == epoch)

/-- A request reaches this package: the filter of the pair, then what is done with one that goes on. A request of an own cell is
one that its switch carries (R350). -/
def arrive (src : Byte) (r : RemoteReq) (go : State → State) (s : State) : State :=
  let P := s.pkg.peer src
  let T := s.pkg.trust
  if src = s.pkg.number then
    (if (s.pkg.outReq src r.seq).any (fun o => o.req == r) && !P.seen.contains r.seq then go (accept src r s) else s)
  else if P.failed then s
  else
    let s1 := s.onPkg fun p => { p with trust := { p.trust with ahead := p.trust.ahead.filter (· != (src, r)) } }
    if T.td && r.epoch.toNat < T.epoch.toNat then
      dropOld s1
    else if T.epoch.toNat < r.epoch.toNat then
      (if T.isNext r.epoch then s1.onPkg fun p => { p with trust := { p.trust with ahead := p.trust.ahead ++ [(src, r)] } }
       else if T.td then refusePacket src r.tag r.seq false s1 else s1)
    else if T.td && (!r.sealed || !T.mask.getLsbD src.toNat || P.belowWindow r.seq) then refusePacket src r.tag r.seq false s1
    else if P.belowWindow r.seq then
      (if Config.unclearedTakenAsDuplicate s.tick then sendBack src r.tag r.seq (.acknowledge src r.seq false) s1 else s1)
    else if P.seen.contains r.seq then
      duplicate src r go (s1.onPkg (Package.onPeer src fun P => { P with badRun := 0 }))
    else go (accept src r s1)

/-- REMOTE_REQUEST_ARRIVAL: a load, store, flag or recipe (R361). -/
def execRemoteRequestArrival (src : Byte) (r : RemoteReq) (s : State) : Result :=
  .next (match r.op with
    | .load .. | .store .. | .flag .. | .recipe .. => barrierStep (arrive src r (performRequest src r) s)
    | _ => s)

/-- GROUP_CONTRIBUTION (R366, R377). -/
def execGroupContribution (src : Byte) (r : RemoteReq) (s : State) : Result :=
  .next (match r.op with | .contrib g n data => arrive src r (takeContrib src r g n data) s | _ => s)

/-- CONV_OPEN_REQUEST (R386). -/
def execConvOpenRequest (src : Byte) (r : RemoteReq) (s : State) : Result :=
  .next (match r.op with | .convOpen img => arrive src r (openConv src r img) s | _ => s)

/-- CONV_BIND_REQUEST (R387). -/
def execConvBindRequest (src : Byte) (r : RemoteReq) (s : State) : Result :=
  .next (match r.op with | .convBind w ch n => arrive src r (bindConv src r w ch n) s | _ => s)

/-- TURN_REQUEST (R388). -/
def execTurnRequest (src : Byte) (r : RemoteReq) (s : State) : Result :=
  .next (match r.op with | .convTurn w c l => arrive src r (turnConv src r w c l) s | _ => s)

/-- DELEGATION_REQUEST (R390). -/
def execDelegationRequest (src : Byte) (r : RemoteReq) (s : State) : Result :=
  .next (match r.op with | .convDeleg w t => arrive src r (delegConv src r w t) s | _ => s)

/-- CLOSE_REQUEST (R391). -/
def execCloseRequest (src : Byte) (r : RemoteReq) (s : State) : Result :=
  .next (match r.op with | .convClose w => arrive src r (closeConv src r w) s | _ => s)

/-- STATE_REQUEST (R392). -/
def execStateRequest (src : Byte) (r : RemoteReq) (s : State) : Result :=
  .next (match r.op with | .convState w want => arrive src r (stateConv src r w want) s | _ => s)

/-- ORDERED_FLAG_RELEASE: a held `rst.o` whose counts are covered is performed (R359). -/
def execOrderedFlagRelease (src : Byte) (seq : BitVec 48) (s : State) : Result :=
  let P := s.pkg.peer src
  .next (match P.held.find? fun r => r.seq == seq with
    | none => s
    | some r =>
      match r.op with
      | .flag a data counts =>
        if P.covers counts then
          barrierStep (performRemoteStore src r a data [] true
            (s.onPkg (Package.onPeer src fun P => { P with held := P.held.filter fun h => h.seq != seq })))
        else s
      | _ => s)

/-! ### What reaches the source -/

/-- Whether an answer is of the kind that a request asks for. -/
def answerFits : RemoteOp → RemoteAnswer → Bool
  | .load .., .bytes _ _ => true
  | .recipe .., .bytes _ p => p
  | .recipe _ _ _ ret .., .result _ _ => ret
  | .contrib .., .status _ _ => true
  | .contrib .., .reduced _ _ _ => true
  | .convOpen _, .status _ _ => true
  | .convBind .., .status _ _ => true
  | .convState .., .status _ _ => true
  | .convTurn .., .verdict _ => true
  | .convDeleg .., .verdict _ => true
  | .convClose _, .verdict _ => true
  | _, _ => false

/-- The roles that the cells here hold in conversations of other homes, after an answer (R397). -/
def noteBinding (t : Byte) (o : OutReq) (a : RemoteAnswer) (s : State) : State :=
  let gone (w : Word) : State := s.onPkg fun p =>
    { p with bindings := p.bindings.filter fun b => !(b.home == t && b.entry == cvEntry w && b.role == cvRole w && b.cell == o.req.cell) }
  match o.req.op, a with
  | .convBind w ch _, .status 0 _ =>
    if o.gone then s else s.onPkg (Package.bindHere ⟨t, cvEntry w, o.req.ctx, cvRole w, o.req.cell, ch, o.launch⟩)
  | .convDeleg w _, .verdict .accepted => gone w
  | .convClose w, .verdict .accepted => gone w
  | .convClose w, .verdict .broken => gone w
  | _, _ => s

/-- A request that was refused at its target is resent at once; in a trust domain the third refusal declares the peer failed (R368, R405). -/
def requestRefused (target : Byte) (o : OutReq) (s : State) : State :=
  if s.pkg.trust.td && 2 ≤ o.refused then declareFailed target 2 s
  else resend target o.req.seq (s.onPkg (Package.onOut target o.req.seq fun o => { o with refused := if s.pkg.trust.td then o.refused + 1 else o.refused }))

/-- A report of the barrier that was refused is sent again while the barrier waits (R405, R407; log 83). -/
def reportRefused (target : Byte) (seq : BitVec 48) (s : State) : State :=
  match s.pkg.trust.barrier, s.pkg.trust.pending with
  | some b, some (mask, epoch) =>
    if b.drained && mask.getLsbD target.toNat && seq == (s.pkg.peer target).nextSeq then sendReport (epoch - 1) target s else s
  | _, _ => s

/-- A reply that was refused at the source of its request is sent again (R405; log 81). -/
def replyRefused (target : Byte) (seq : BitVec 48) (s : State) : State :=
  match (s.pkg.peer target).replies.find? fun q => q.1 == seq with
  | some q => sendBack target q.2.1 seq q.2.2 s
  | none => s

/-- What a reply or a notice that is not refused does to the request that it names: an acknowledgement of a write, or of any request of a
failed run, completes it (R360, R368), so does an answer of its kind (R355, R362, R366, R388, R392) or a refusal (R357); a hold notice starts
the interval again (R356, R360); a negative notice has the refused packet sent again (R368, R405). -/
def Reply.act (target : Byte) (seq : BitVec 48) (a : Reply) (s : State) : State :=
  match a, s.pkg.outReq target seq with
  | .negative true, _ => replyRefused target seq s
  | .held, _ => s.onPkg (Package.onOut target seq fun o => { o with noticed := true })
  | .negative false, none => reportRefused target seq s
  | _, none => s
  | .acknowledge poison, some o => if !(o.write || poison) then s else barrierStep (acknowledged target o poison s)
  | .answer a, some o => if !answerFits o.req.op a then s else barrierStep (noteBinding target o a (answered target o a s))
  | .refusal misaligned, some o => barrierStep (turnedAway target o misaligned s)
  | .negative false, some o => requestRefused target o s

/-- A reply packet or a notice of another package: within a trust domain one of an epoch that is over is dropped and counted, one of the next
epoch waits until this package switches, and one whose tag fails is refused (R404, R405, R409; log 81). -/
def takeReply (src : Byte) (q : ReplyHead) (a : Reply) (s : State) : State :=
  let T := s.pkg.trust
  let s1 := s.onPkg fun p => { p with trust := { p.trust with aheadReplies := p.trust.aheadReplies.filter (· != (src, q, a)) } }
  let refused : State := barrierStep (refusePacket src (((s.pkg.outReq src q.seq).map (·.req.tag)).getD 0) q.seq true s1)
  if src = s.pkg.number || (s.pkg.peer src).failed then s
  else if T.td && q.epoch.toNat < T.epoch.toNat then dropOld s1
  else if T.epoch.toNat < q.epoch.toNat then
    (if T.isNext q.epoch then s1.onPkg fun p => { p with trust := { p.trust with aheadReplies := p.trust.aheadReplies ++ [(src, q, a)] } }
     else if T.td then refused else s1)
  else if !T.td then a.act src q.seq s
  else if !q.good then refused
  else a.act src q.seq (s1.onPkg (Package.onPeer src fun P => { P with badRun := 0 }))

/-- REMOTE_ACKNOWLEDGEMENT: of a write, or of any request of a run that failed (R360, R368). -/
def execRemoteAcknowledgement (target : Byte) (head : ReplyHead) (poison : Bool) (s : State) : Result :=
  .next (takeReply target head (.acknowledge poison) s)

/-- REMOTE_REPLY (R355, R362, R366, R388, R392). -/
def execRemoteReply (target : Byte) (head : ReplyHead) (a : RemoteAnswer) (s : State) : Result := .next (takeReply target head (.answer a) s)

/-- REMOTE_REQUEST_REFUSAL (R357). -/
def execRemoteRequestRefusal (target : Byte) (head : ReplyHead) (misaligned : Bool) (s : State) : Result :=
  .next (takeReply target head (.refusal misaligned) s)

/-- HOLD_NOTICE: the target holds the request, and the interval starts again (R356, R360). -/
def execHoldNotice (target : Byte) (head : ReplyHead) (s : State) : Result := .next (takeReply target head .held s)

/-- Whether a DRAINED or READY is what its source is to send: a package that shares the keys of the epoch sends DRAINED under them, and a new member
READY (R407; log 83). A package outside a domain has no keys to check one by. -/
def Trust.reportDue (T : Trust) (src : Byte) (ready : Bool) (q : ReplyHead) : Bool :=
  let member : Bool := if q.epoch = T.epoch then T.mask.getLsbD src.toNat else T.pending.any fun m => m.1.getLsbD src.toNat
  !T.td || (if member then !ready && q.good else ready)

/-- BARRIER_MESSAGE: a DRAINED or READY message is checked and noted, and the barrier goes as far as it can (R405, R407, R409). -/
def execBarrierMessage (src : Byte) (ready : Bool) (q : ReplyHead) (s : State) : Result :=
  let T := s.pkg.trust
  .next (if src = s.pkg.number || (s.pkg.peer src).failed || T.reports.contains (src, q.epoch) then s
    else if T.td && q.epoch.toNat < T.epoch.toNat then dropOld s
    else if !T.reportDue src ready q then barrierStep (refusePacket src 0 q.seq false s)
    else barrierStep (s.onPkg fun p => { p with trust := { p.trust with reports := p.trust.reports ++ [(src, q.epoch)] } }))

/-- NEGATIVE_NOTICE: the packet that was refused, a request or a reply, is resent (R368, R405). -/
def execNegativeNotice (target : Byte) (packet : RefusedPacket) (s : State) : Result :=
  .next (takeReply target packet.toReplyHead (.negative packet.reply) s)

/-! ### Resume (R208, R356) -/

/-- The requests held here for a translation of a context are performed again. -/
def rewalkHeld (ctx : BitVec 6) (s : State) : State :=
  s.pkg.peers.foldl (fun s e =>
    let src : Byte := BitVec.ofNat 8 e.1
    let ready (r : RemoteReq) : Bool := r.ctx == ctx && (match r.op with | .flag _ _ counts => e.2.covers counts | _ => true)
    (e.2.held.filter ready).foldl (fun s r =>
      performRequest src r (s.onPkg (Package.onPeer src fun P => { P with held := P.held.filter fun h => h.seq != r.seq }))) s) s

/-- The results whose write at this package met a stall are written, and their statuses land (R376). -/
def rewriteResults (ctx : BitVec 6) (s : State) : State :=
  s.pkg.peers.foldl (fun s e =>
    (e.2.out.filter fun o => o.req.ctx == ctx && o.due.isSome).foldl (fun s o =>
      match o.due with
      | some a => answered (BitVec.ofNat 8 e.1) o a s
      | none => s) s) s

/-- A context set-up that met a stall goes on (R312). -/
def resumeSetUp (ctx : BitVec 6) (s : State) : State :=
  s.onPkg fun p => if p.host.held && p.host.arg0.setWidth 6 == ctx then { p with host := { p.host with held := false } } else p

/-- RESUME_DOORBELL: in STAGE 0-3 the write is discarded (R415); a virtual function resumes its own contexts (R413); every stalled access, command
and request of the context walks again, and a complete round whose result met a stall is written (R208, R247, R356). -/
def execResumeDoorbell (via : HostPath) (ctx : BitVec 6) (s : State) : Result :=
  let s1 := resumeSetUp ctx (rewriteResults ctx (rewalkHeld ctx (resumeCells ctx s)))
  let heard : Bool := s.pkg.host.powered && s.pkg.host.stage.toNat ≥ 4
  let mine : Bool := heard && match via with | .pf => true | .vf n _ => (aget s.pkg.contexts ctx.toNat).any fun c : Context => c.owner == n
  .next (hostRequest via s
    (if mine then barrierStep ((s1.pkg.groups.filter fun x : Group => x.ctx == ctx).foldl (fun s (x : Group) => settleRounds x.ctx x.g s) s1) else s))

end Sys2Proof.Machine
end

