-- ==== Sys2Proof/Machine/Sketch.lean ====
section
/-! DEFINITION. The sketch units: `sk.score` (R306, R308). -/

namespace Sys2Proof.Machine

/-! ### The descriptor (R306) -/

def skFirst (d : List Word) : Word := dw d 0
def skQuery (d : List Word) : Word := dw d 1
def skOut (d : List Word) : Word := dw d 2
def skTopk (d : List Word) : Nat := bits (dw d 3).toNat 32 16
def skTop (d : List Word) : Bool := (dw d 3).getLsbD 18
/-- SD, the elements of a sketch. -/
def skSize (d : List Word) : Nat := 32 * 2 ^ bits (dw d 3).toNat 16 2
def skPages (d : List Word) : Nat := bits (dw d 3).toNat 0 16
def skLow (d : List Word) : Nat := bits (dw d 4).toNat 32 32
def skThresh (d : List Word) : Int := ((dw d 4).extractLsb' 0 32).toInt
/-- The address of COUNT: dword 5 of the descriptor itself takes the count. -/
def skCount (x : Cmd) : Word := x.addr + 40

/-- The bytes of the bitmap: whole dwords. -/
def skBytes (d : List Word) : Nat := 8 * ((skPages d + 63) / 64)

/-- The checks of a score descriptor (R306); a reserved field that is not zero is refused. -/
def skOk (x : Cmd) (d : List Word) : Bool :=
  let v := (dw d 3).toNat
  let store (a : Word) (n : Nat) : Bool := match region a n with | .cell _ => true | _ => false
  bits v 48 16 == 0 && bits v 19 13 == 0 && bits v 16 2 != 3 && dw d 6 == 0 && dw d 7 == 0 && 1 ≤ skPages d && skPages d ≤ 1024 &&
    (!skTop d || (1 ≤ skTopk d && skTopk d ≤ 1024)) && (skQuery d).toNat % 64 == 0 && (skOut d).toNat % 8 == 0 &&
    (x.done != 1 || (store (skOut d) (skBytes d) && store (skCount x) 8))

/-- What a page has come to: its bit is known, or it has a score. -/
inductive Scored where
  | bit (b : Bool)
  | score (v : Int)
  deriving DecidableEq, Repr

/-- An outcome as a word of the command's descriptor list: the bit, or 2^40 and the score. -/
def Scored.word : Scored → Word
  | .bit b => if b then 1 else 0
  | .score v => 0x100_0000_0000#64 + (BitVec.ofInt 32 v).setWidth 64

/-- The outcome a word stands for. -/
def scoredOf (w : Word) : Scored := if w.getLsbD 40 then .score (w.extractLsb' 0 32).toInt else .bit (w.getLsbD 0)

/-- Σ q[e] × k[e] of two sketches of INT4 elements (R306). -/
def sketchDot (n : Nat) (q k : List Byte) : Int :=
  (((elementsOfBytes 6 n q).zip (elementsOfBytes 6 n k)).map fun e => intOf 6 e.1 * intOf 6 e.2).foldl (· + ·) 0

/-- The greatest of scores; none of an empty list. -/
def topScore (l : List Int) : Int :=
  match l with
  | [] => 0
  | a :: r => r.foldl max a

/-- How many scored pages rank before the one at index i with score v: a higher score, or the same at a lower index (R306). -/
def ranksAhead (l : List Scored) (i : Nat) (v : Int) : Nat :=
  ((l.mapIdx fun j x => (j, x)).filter fun e => match e.2 with | .score w => v < w || (w == v && e.1 < i) | .bit _ => false).length

/-- The bit of each page (R306). -/
def survivors (d : List Word) (l : List Scored) : List Bool :=
  l.mapIdx fun i x => match x with
    | .bit b => b
    | .score v => if skTop d then ranksAhead l i v < skTopk d else skThresh d ≤ v

/-- A page scored (R306), when its header is read. -/
def scorePage (d : List Word) (p : Page) (s : State) : Io Scored :=
  let js := (List.range 32).filter fun j => p.valid (skLow d) j
  if js.isEmpty then .ok (.bit false) s
  else if p.tier ≠ 0 then .ok (.bit true) s
  else
    let n := skSize d / 2
    (readMem .sk (skQuery d) n s).bind fun q s =>
      (Io.each (fun j s => readMem .sk (p.sketch + BitVec.ofNat 64 (j * n)) n s) js s).bind fun ks s =>
        .ok (.score (topScore (ks.map (sketchDot (skSize d) q)))) s

/-- The end of `sk.score`: OUT, then COUNT (R306). -/
def skDone (x : Cmd) (s : State) : Ran :=
  let d := x.desc.take 8
  let bitsOut := survivors d ((x.desc.drop 9).map scoredOf)
  let map := (bitsOut.mapIdx fun i b => if b then 2 ^ i else 0).foldl (· + ·) 0
  let n := (bitsOut.filter id).length
  let off (a : Word) : Nat := (a.extractLsb' 0 17).toNat
  (writeAll .sk [(skOut d, bytesOf (skBytes d) map), (skCount x, bytesOf 8 n)] s).ran (BitVec.ofNat 32 x.unit) fun _ s =>
    .done x (BitVec.ofNat 32 n) [(off (skOut d), skBytes d), (off (skCount x), 8)] s

/-- One unit of `sk.score`: the descriptor, then one page. Dword 8 of `desc` holds the header met, and the outcomes of the pages
follow it. -/
def runSk (x : Cmd) (s : State) : Ran :=
  if !x.begun then
    if x.w3 != 0 || !s.cell.tokenChannel x then refused s
    else (readMem .sk x.addr 64 s).ran 0 fun bytes s =>
      let d := wordsOfBytes 8 bytes
      if skOk x d then .more { x with begun := true, desc := d ++ [skFirst d] } s else refused s
  else
    let d := x.desc
    let hdr := dw d 8
    let out (r : Scored) (next : Word) (s : State) : Ran := .more { x with unit := x.unit + 1, desc := (d.take 8 ++ [next]) ++ (d.drop 9 ++ [r.word]) } s
    if skPages d ≤ x.unit then skDone x s
    else if hdr = 0 then out (.bit false) 0 s
    else
      let info := BitVec.ofNat 32 x.unit
      (readHeader .sk 32 hdr x.unit s).ran info fun p s =>
        if p.sketch.toNat % 64 ≠ 0 then .fault cENGINE_FAULT info s
        else (scorePage d p s).ran info fun r s => out r p.next s

def execSkScore (h : CmdHead) (w1 w2 w3 : W32) (s : State) : Result := .next (issue .sk 0 h w1 w2 w3 s)

end Sys2Proof.Machine
end

