-- ==== Sys2Proof/Machine/Engines.lean ====
section
/-! DEFINITION. Remote copies (R294), the copy commands, and ENGINE_COMPLETION: one unit of a command of any engine (R64). -/

namespace Sys2Proof.Machine

/-- The units that continue a flit: each begins where the last ended, in the same aligned 128 bytes (R294). -/
def takeFlit (start : Word) : List (Word × List Byte × Bool) → List Byte → List (Nat × Nat) → List Byte × List (Nat × Nat) × List (Word × List Byte × Bool)
  | [], data, bad => (data, bad, [])
  | (a, l, p) :: r, data, bad =>
    if a = start + BitVec.ofNat 64 data.length ∧ a.toNat / 128 = start.toNat / 128 then
      takeFlit start r (data ++ l) (if p then bad ++ [(data.length, l.length)] else bad)
    else (data, bad, (a, l, p) :: r)

/-- Whether a flit of the copy of the cell in focus is unacknowledged. -/
def State.flitsOut (s : State) : Bool := s.pkg.peers.any fun e => e.2.out.any fun o => o.engine && !o.gone && o.req.cell == s.here && o.away.isNone

/-- One step of a copy to another package: a chunk read, or one flit sent; the copy is complete when every flit is acknowledged, and
it fails with its target only while flits are not (R294). -/
def cpRemote (x : Cmd) (s : State) : Ran :=
  let d := x.desc
  let t := cpPkg d
  let failed : Ran := .fault cPEER_FAIL (t.setWidth 32) s
  match x.buf with
    | [] =>
      let (k, n) := cpChunk d x.unit
      if n = 0 then (if !s.flitsOut then .done x (BitVec.ofNat 32 x.verb) [] s else if s.cutNow t then failed else .block none false s)
      else if s.cutNow t then failed
      else
        (cpGatherChunk x.verb d x.unit s).ran (BitVec.ofNat 32 k) fun l s =>
          if l.any fun q => remoteForm q.1 q.2.1.length = .none then .fault cENGINE_FAULT (BitVec.ofNat 32 k) s
          else .more { x with unit := x.unit + 1, buf := l } s
    | (a, l, p) :: r =>
      if s.cutNow t then failed
      else if s.linkHeld t then .block none false s
      else
        let (data, bad, rest) := takeFlit a r l (if p then [(0, l.length)] else [])
        let q : Sending := ⟨t, some (x.index % cpPaths d), .store a data bad, none, true, true, x.hnd, x.pc, x.word0, (cpChunk d (x.unit - 1)).1⟩
        .more { x with buf := rest, index := x.index + 1 } (sendRequest q s)

/-- One unit of a command of a copy engine. -/
def runCp (x : Cmd) (s : State) : Ran :=
  if x.internal then pagein x s
  else if !x.begun then cpBegin x s
  else if cpRem x.desc then cpRemote x s
  else cpLocal x s

/-- `cp.nd` (R293). -/
def execCpNd (h : CmdHead) (w1 w2 w3 : W32) (s : State) : Result := .next (issue .cp vNd h w1 w2 w3 s)
/-- `cp.gather` (R293). -/
def execCpGather (h : CmdHead) (w1 w2 w3 : W32) (s : State) : Result := .next (issue .cp vGather h w1 w2 w3 s)
/-- `cp.fill` (R293). -/
def execCpFill (h : CmdHead) (w1 w2 w3 : W32) (s : State) : Result := .next (issue .cp vFill h w1 w2 w3 s)

/-- One unit of a command of an engine. -/
def runEngine : Engine → Cmd → State → Ran
  | .mx => runMx
  | .cp => runCp
  | .kv => runKv
  | .sk => runSk
  | .ch => runCh
  | .gs => runGs

/-- ENGINE_COMPLETION: the next unit of the engine's work for a cell is done; with the last one the command completes and reports
(R64). -/
def execEngineCompletion (c : CellId) (e : Engine) (s : State) : Result := .next (s.within c (stepEngine e (runEngine e)))

end Sys2Proof.Machine
end

