-- ==== Sys2Proof/Machine/Launch.lean ====
section
/-! DEFINITION. From launch to issue: reading launch records (R314-R317, R320), admission and placement (R318, R319, R321-R323), the
loads of a graph (R324, R325, R344), and the completion of a launch (R327). -/

namespace Sys2Proof.Machine

/-! ### Reading tables -/

/-- What reading a table of a launch met. -/
inductive Fetch (α : Type) where
  | ok (a : α)
  | stall (level : Nat) (va : Word)
  | refused (code : Byte)

/-- A reader of a context's memory; what it looks up stays in the TLB. -/
abbrev Reader (α : Type) := Package → Fetch α × Package

/-- A value already read. -/
def Reader.pure {α : Type} (a : α) : Reader α := fun p => (.ok a, p)

/-- One reader after another. -/
def Reader.bind {α β : Type} (r : Reader α) (f : α → Reader β) : Reader β := fun p =>
  match r p with
  | (.ok a, p) => f a p
  | (.stall l v, p) => (.stall l v, p)
  | (.refused c, p) => (.refused c, p)

/-- A check with the status of its failure. -/
def need (b : Bool) (code : Byte) : Reader Unit := fun p => (if b then .ok () else .refused code, p)

/-- A check, and then a reader. -/
def Reader.after {α : Type} (r : Reader α) (b : Bool) (code : Byte) : Reader α := (need b code).bind fun _ => r

/-- n words at an address (R315, R320). -/
def fetchWords (ctx : BitVec 6) (va : Word) (n : Nat) : Reader (List Word) := fun p =>
  match readVirtual ctx va.toNat (8 * n) p with
  | (.ok (l, bad), p) => (if bad then .refused cUNCORRECTABLE else .ok (wordsOfBytes n l), p)
  | (.stall l v, p) => (.stall l v, p)
  | (.bad, p) => (.refused cACCESS, p)

/-- A reader for each entry of a list, in order. -/
def Reader.each {α β : Type} (f : α → Reader β) : List α → Reader (List β)
  | [] => Reader.pure []
  | a :: r => (f a).bind fun b => (Reader.each f r).bind fun l => Reader.pure (b :: l)

/-- A list cut into pieces of n. -/
def groupsOf {α : Type} (n : Nat) : Nat → List α → List (List α)
  | 0, _ => []
  | k + 1, l => l.take n :: groupsOf n k (l.drop n)

/-! ### Launch records (R314, R316, R317, R320) -/

/-- Whether an arm entry names a cell of a board of h by w blocks and nothing else (R316, R324). -/
def armOk (h w : Nat) (e : Word) : Bool :=
  let v := e.toNat
  bits v 22 10 == 0 && bits v 14 2 == 0 && bits v 3 5 == 0 && bits v 16 6 < 8 * h && bits v 8 6 < 8 * w

/-- One load of a graph, from its entry (R316). -/
def readGraphLoad (ctx : BitVec 6) (h w : Nat) (e : List Word) : Reader GraphLoad :=
  let d (i : Nat) : Word := e.getD i 0
  let v := (d 1).toNat
  ((((fetchWords ctx (d 2) (bits v 0 12)).bind fun arms => Reader.pure ⟨d 0, bits v 24 24, arms, arms.all (armOk h w)⟩).after
    ((d 0).toNat % 8 == 0 && (d 2).toNat % 8 == 0) cMISALIGNED).after (bits v 48 16 == 0 && bits v 12 12 == 0 && d 3 == 0) cCONFIG_CHECK)

/-- A member that a launch record leaves out. -/
def Member.absent : Member := ⟨0, false, 0, 0, [], none, 0, true, none⟩

/-- A member, from its graph descriptor (R316). -/
def readMember (ctx : BitVec 6) (g : Word) : Reader Member :=
  if g = 0 then Reader.pure Member.absent
  else (fetchWords ctx g 4).bind fun d =>
    let v := (d.getD 0 0).toNat
    let h := bits v 11 3 + 1
    let w := bits v 8 3 + 1
    let n := bits v 0 8 + 1
    ((fetchWords ctx (g + 32) (4 * n)).bind fun l => (Reader.each (readGraphLoad ctx h w) (groupsOf 4 n l)).bind fun loads =>
      Reader.pure ⟨g, bitOf v 14, h, w, loads, none, 0, false, none⟩).after
      (bits v 15 49 == 0 && (d.drop 1).all (· == 0) && h ≤ 6 && w ≤ 6) cCONFIG_CHECK

/-- The parameter block (R314): every window unbound without one. -/
def readParams (ctx : BitVec 6) (a : Word) : Reader (List (Word × Word)) :=
  if a = 0 then Reader.pure (List.replicate 8 (0, 0))
  else (fetchWords ctx a 16).bind fun l =>
    let ws := (groupsOf 2 8 l).map fun e => (e.getD 0 0, e.getD 1 0)
    (Reader.pure ws).after (ws.all fun e => bits e.1.toNat 0 6 == 0 && bits e.2.toNat 40 24 == 0) cCONFIG_CHECK

/-- One entry of the pipe table (R317). -/
def readPipe (present : Nat → Bool) (e : List Word) : Reader Pipe :=
  let a := e.getD 0 0
  let v := (e.getD 1 0).toNat
  ((Reader.pure ⟨a, bits v 16 2, BitVec.ofNat 15 (bits v 0 15)⟩).after (a.toNat % 128 == 0) cMISALIGNED).after
    (bits v 18 46 == 0 && !bitOf v 15 && 17 ≤ bits v 0 15 && present (bits v 16 2)) cCONFIG_CHECK

/-- What a launch record leads to, checked in the order in which it is met (R314, R320). -/
def readTables (ctx : BitVec 6) (c : Context) (d : List Word) : Reader (List Member × List (Word × Word) × List Pipe) :=
  let w (i : Nat) : Word := d.getD i 0
  let v := (w 6).toNat
  let npipe := bits v 32 8
  let graphs := d.take 4
  (((Reader.each (readMember ctx) graphs).bind fun ms => (readParams ctx (w 4)).bind fun ps =>
    (if npipe = 0 then Reader.pure [] else fetchWords ctx (w 5) (2 * npipe)).bind fun l =>
      (Reader.each (readPipe fun m => w m != 0) (groupsOf 2 npipe l)).bind fun pipes =>
        ((Reader.pure (ms, ps, pipes)).after ((ms.map fun m => m.h * m.w).sum ≤ c.maxBlk) cACCESS).after
          (c.rtok || ms.all fun m => !m.lvl) cPRIVILEGED).after
    (graphs.all (fun g => g.toNat % 32 == 0) && (w 4).toNat % 64 == 0 && (npipe == 0 || (w 5).toNat % 16 == 0)) cMISALIGNED).after
    (bits v 40 8 == 0 && bits v 4 28 == 0 && !bitOf v 0 && npipe ≤ 64 && w 7 == 0 && w 0 != 0 && bits v 2 2 != 3) cCONFIG_CHECK

/-- The bytes of a launch record in its stream. -/
def readRecordAt (b : Bound) (r : StreamRec) (pos : BitVec 48) (s : State) : Fetch (List Word) × Package :=
  match framePlaces false b r (framePieces r.k 64 pos 64) s.pkg with
  | (.ok l, p) =>
    let got := l.map fun e => readPlace e.1 e.2 s
    (if got.any Prod.snd then .refused cUNCORRECTABLE else .ok (wordsOfBytes 8 (got.flatMap Prod.fst)), p)
  | (.stall l v, p) => (.stall l v, p)
  | (.bad, p) => (.refused cACCESS, p)

/-- The sequencers as a cell number in records and tether slots (R226, R312). -/
def sequencers : CellId := 0x3FFE

/-- A launch as its record makes it. -/
def launchOf (id : Nat) (ctx : BitVec 6) (prio : Nat) (pos : BitVec 48) (d : List Word) (t : List Member × List (Word × Word) × List Pipe) : Launch :=
  let w := d.getD 6 0
  { id := id, ctx := ctx, prio := prio, pos := pos, tag := w.extractLsb' 48 16, ser := w.getLsbD 1, clsHint := w.extractLsb' 2 2,
    windows := t.2.1, members := t.1, pipes := t.2.2, st := .candidate, passes := 0, reserved := none, status := none, preempt := none,
    late := [], saved := [], saveAt := (0, 0), pinned := false, requests := [] }

/-- Whether the launches of a context end with ACCESS: its interface is in ERROR or being stopped (R412). -/
def Package.barred (p : Package) (ctx : BitVec 6) : Bool :=
  match aget p.contexts ctx.toNat with
  | none => false
  | some c =>
    match p.host.vfs.toList[c.owner.toNat - 1]? with
    | some f => c.owner != 0 && (f.st == .error || f.stopping)
    | none => false

/-- The oldest record not yet read of a launch stream that offers no candidate becomes one, or ends at once (R318, R320, R412). A stall waits
for the resume of the context (R208, R320). -/
def readNext (ctx : BitVec 6) (prio : BitVec 4) (s : State) : State :=
  let num : BitVec 15 := prio.setWidth 15 + 1
  match aget s.pkg.contexts ctx.toNat, s.pkg.boundOf ctx num with
    | some c, some b =>
      let r := s.pkg.record b.pa
      let pos := c.readPos[prio.toNat]'prio.isLt
      if s.pkg.launches.any (fun l : Launch => l.ctx == ctx && l.prio == prio.toNat && l.st == .candidate) || before r.head (pos + 64) || s.pkg.stalledAt ctx (.read prio) then s
      else
        let join (l : Launch) (p : Package) : State :=
          { s with pkg :=
            { p.onCtx ctx (fun c => { c with readPos := c.readPos.set prio.toNat (pos + 64) prio.isLt }) with
              launches := p.launches ++ [l], nextLaunch := p.nextLaunch + 1, allocDue := true } }
        let refused (code : Byte) (d : List Word) (p : Package) : State :=
          join { launchOf p.nextLaunch ctx prio.toNat pos d ([Member.absent], [], []) with st := .ended, status := some code } p
        let stalled (l : Nat) (v : Word) (p : Package) : State := stallUnit (.read prio) ctx sequencers 6 0 l v { s with pkg := p }
        match readRecordAt b r pos s with
        | (.stall l v, p) => stalled l v p
        | (.refused code, p) => refused code [] p
        | (.ok d, p) =>
          if p.barred ctx then refused cACCESS d p
          else match readTables ctx c d p with
          | (.stall l v, p) => stalled l v p
          | (.refused code, p) => refused code d p
          | (.ok t, p) => join (launchOf p.nextLaunch ctx prio.toNat pos d t) p
    | _, _ => s

/-- LAUNCH_RECORD_READ (R318, R320). -/
def execLaunchRecordRead (ctx : BitVec 6) (prio : BitVec 4) (s : State) : Result := .next (readNext ctx prio s)

/-- Records of a launch stream are read until it offers a candidate or has none left; at most n of them. -/
def readStream (ctx : BitVec 6) (prio : BitVec 4) : Nat → State → State
  | 0, s => s
  | n + 1, s =>
    let t := readNext ctx prio s
    if t.pkg.nextLaunch = s.pkg.nextLaunch then t else readStream ctx prio n t

/-- The records that a launch stream holds beyond those read. -/
def Package.unread (p : Package) (ctx : BitVec 6) (prio : BitVec 4) : Nat :=
  match aget p.contexts ctx.toNat, p.boundOf ctx (prio.setWidth 15 + 1) with
  | some c, some b => ((p.record b.pa).head - c.readPos[prio.toNat]'prio.isLt).toNat / 64
  | _, _ => 0

/-- Every launch stream offers its candidate (R318). -/
def readAll (s : State) : State :=
  s.pkg.contexts.foldl (fun s e =>
    (List.range 16).foldl (fun s i =>
      let ctx : BitVec 6 := BitVec.ofNat 6 e.1
      let prio : BitVec 4 := BitVec.ofNat 4 i
      if e.2.prioMask.getLsbD i then readStream ctx prio (min (s.pkg.unread ctx prio) (2 ^ 42)) s else s) s) s

/-! ### Placement (R321-R323) -/

/-- A rectangle of blocks: die, block row and column of its origin, height and width. -/
structure Rect where
  die : Nat
  row : Nat
  col : Nat
  h : Nat
  w : Nat
  deriving DecidableEq, Repr

/-- The blocks of a board. -/
def Board.rect (b : Board) : Rect := ⟨b.die, b.brow, b.bcol, b.h, b.w⟩

/-- Whether a block lies in a rectangle. -/
def Rect.has (q : Rect) (die r c : Nat) : Bool := q.die == die && q.row ≤ r && r < q.row + q.h && q.col ≤ c && c < q.col + q.w

/-- The blocks that a PS1 command in progress is to gate (R417). -/
def HostPort.gating (h : HostPort) : BitVec 144 :=
  if h.busy && h.mbop == 12 && h.arg0.setWidth 2 == 1#2 then BitVec.ofNat 144 (ofBytes (h.desc.take 18)) else 0

/-- Whether a block may be taken: powered, neither gated nor about to be, and in no rectangle taken (R417). -/
def Package.blockFree (p : Package) (taken : List Rect) (die r c : Nat) : Bool :=
  p.host.powered && p.host.ps.toNat < 2 && !(p.host.gated ||| p.host.gating).getLsbD (36 * die + 6 * r + c) && !(taken.any fun q => q.has die r c)

/-- Whether a rectangle is free. -/
def Package.rectFree (p : Package) (taken : List Rect) (q : Rect) : Bool :=
  q.row + q.h ≤ 6 && q.col + q.w ≤ 6 &&
    (List.range q.h).all fun i => (List.range q.w).all fun j => p.blockFree taken q.die (q.row + i) (q.col + j)

/-- The first origin of a die at which a board fits, in row and column order. -/
def Package.originOn (p : Package) (taken : List Rect) (h w die : Nat) : Option Rect :=
  ((List.range 36).map fun i => (⟨die, i / 6, i % 6, h, w⟩ : Rect)).find? (p.rectFree taken)

/-- A die put before those of a lower score. -/
def rankDie (score : Nat → Int) (d : Nat) : List Nat → List Nat
  | [] => [d]
  | e :: r => if score e < score d then d :: e :: r else e :: rankDie score d r

/-- The entry of a graph in the class table becomes the most recently used (R323). -/
def touchClass (g : Word) (l : List (Word × Bool)) : List (Word × Bool) :=
  match l.find? fun e => e.1 == g with
  | some e => putClass g e.2 l
  | none => l

/-- The allocator uses the class table for a launch that carries no hint: the entry that it finds is used again (R323). -/
def Launch.lookedUp (l : Launch) (p : Package) : Package :=
  if l.clsHint = 1 || l.clsHint = 2 then p else { p with classes := touchClass ((l.members.head?.map (·.graph)).getD 0) p.classes }

/-- The class of a launch: its hint, or that of GRAPH0 in the class table (R323). -/
def Launch.class (l : Launch) (p : Package) : Option Bool :=
  if l.clsHint = 1 then some true
  else if l.clsHint = 2 then some false
  else (p.classes.find? fun e => some e.1 == l.members.head?.map (·.graph)).map Prod.snd

/-- The order in which the dies are tried for a class (R321). -/
def Package.dieOrder (p : Package) (taken : List Rect) (x : Option Bool) : List Nat :=
  let held (die : Nat) (c : Bool) : Int :=
    (((p.boards.filter fun b => b.die == die && b.cls == some c && (b.phase == .running || b.phase == .preempting)).map fun b => b.h * b.w).sum : Nat)
  let free (die : Nat) : Int := ((List.range 36).filter fun i => p.blockFree taken die (i / 6) (i % 6)).length
  let score (die : Nat) : Int := match x with | some c => held die (!c) - held die c | none => free die
  (List.range 4).foldl (fun l d => rankDie score d l) []

/-- Places for members, in order, each on one die (R321). -/
def Package.placeAll (p : Package) (x : Option Bool) : List Rect → List (Nat × Nat) → Option (List Rect)
  | _, [] => some []
  | taken, (h, w) :: r =>
    match (p.dieOrder taken x).findSome? (p.originOn taken h w) with
    | none => none
    | some q => (p.placeAll x (q :: taken) r).map (q :: ·)

/-- The sizes of a launch's members that are present, with their numbers. -/
def Launch.present (l : Launch) : List (Nat × Member) := ((List.range l.members.length).zip l.members).filter fun e => e.2.graph != 0

/-- The members that take boards at an admission: those present, or of a saved launch those whose boards were saved (R318, R342). -/
def Launch.toPlace (l : Launch) : List (Nat × Member) := if l.saved.isEmpty then l.present else l.present.filter fun e => l.saved.any fun v => v.member == e.1

/-- Places for a launch: for one that is pinned, those it had (R321, R345). -/
def Package.placesFor (p : Package) (l : Launch) : Option (List Rect) :=
  let taken := p.boards.map Board.rect
  if l.pinned then
    let old := l.toPlace.filterMap fun e => (l.saved.find? fun v => v.member == e.1).map fun v => (⟨v.die, v.brow, v.bcol, e.2.h, e.2.w⟩ : Rect)
    if old.all (p.rectFree taken) then some old else none
  else p.placeAll (l.class p) taken (l.toPlace.map fun e => (e.2.h, e.2.w))

/-! ### Named pipes (R317, R328) -/

/-- A frame entry of a pipe for a board: from board-relative form, or from the board it named before. -/
def moveEntry (dest : Rect) (old : Option Rect) (e : Word) : Option Word :=
  let v := e.toNat
  let r := bits v 48 6
  let c := bits v 40 6
  let (r, c, ok) := match old with
    | none => (r, c, bits v 54 2 == 0)
    | some o => (r - 8 * o.row, c - 8 * o.col, true)
  if ok && r < 8 * dest.h && c < 8 * dest.w then
    some ((e &&& 0xFF00_C0FF_FFFF_FFFF#64 &&& ~~~(0x00C0_0000_0000_0000#64)) ||| BitVec.ofNat 64 (dest.die * 2 ^ 54 + (8 * dest.row + r) * 2 ^ 48 + (8 * dest.col + c) * 2 ^ 40))
  else none

/-- The frame entries that a bound pipe keeps are those rewritten for its new board (R265, R328, R344). -/
def Package.rebind (ctx : BitVec 6) (num : BitVec 15) (frames : List Word) (p : Package) : Package :=
  { p with bound := p.bound.map fun b => if b.ctx = ctx ∧ b.num = num then { b with frames := frames } else b }

/-- The frame table of a pipe is rewritten for a board (R317); the entries that it then holds. -/
def rewritePipe (ctx : BitVec 6) (pipe : Pipe) (dest : Rect) (old : Option Rect) : Reader (List Word) :=
  (fetchWords ctx pipe.record 16).bind fun d =>
    let r := recordOf d
    ((fetchWords ctx r.ftab (2 ^ r.logn)).bind fun es => fun p =>
      match es.mapM (moveEntry dest old) with
      | none => (.refused cCONFIG_CHECK, p)
      | some l =>
        match writeVirtual ctx r.ftab.toNat (l.flatMap fun w => bytesOf 8 w.toNat) p with
        | (.ok _, p) => (.ok l, p)
        | (.stall a v, p) => (.stall a v, p)
        | (.bad, p) => (.refused cACCESS, p)).after (r.back == 0 && r.logn ≤ 12) cCONFIG_CHECK

/-- A pipe is bound as `sbind` binds (R317). -/
def bindPipe (ctx : BitVec 6) (pipe : Pipe) : Reader Unit := fun p =>
  match bindStatus ctx pipe.stream pipe.record p with
  | (.ok (code, some b), p) => (if code = 0 then .ok () else .refused code, { p with bound := p.bound ++ [b] })
  | (.ok (code, none), p) => (.refused code, p)
  | (.stall l v, p) => (.stall l v, p)
  | (.bad, p) => (.refused cACCESS, p)

/-- What placing the pipes of a launch gives: the status, and the pipes that are bound. At a restore a pipe is bound already, and the home unit takes
the new entries (R328); the pipes of a member whose board was released
before the save stay as they are. -/
def placePipes (l : Launch) (at' : Nat → Option Rect) (old : Nat → Option Rect) : List Pipe → Reader (Byte × List Pipe)
  | [] => Reader.pure (0, [])
  | q :: r => fun p =>
    match at' q.member with
    | none =>
      if l.saved.isEmpty then (.ok (cCONFIG_CHECK, []), p)
      else match placePipes l at' old r p with
        | (.ok (code, qs), p) => (.ok (code, q :: qs), p)
        | x => x
    | some dest =>
      let one := (rewritePipe l.ctx q dest (old q.member)).bind fun es =>
        if l.saved.isEmpty then bindPipe l.ctx q else fun p => (.ok (), p.rebind l.ctx q.stream es)
      match one p with
      | (.stall a v, p) => (.stall a v, p)
      | (.refused code, p) => (.ok (code, []), p)
      | (.ok _, p) =>
        match placePipes l at' old r p with
        | (.ok (code, qs), p) => (.ok (code, q :: qs), p)
        | x => x

/-! ### Admission (R318, R319, R326) -/

/-- The boards of a launch. -/
def Package.gang (p : Package) (id : Nat) : List Board := p.boards.filter fun b => b.launch == some id

/-- The request for load i of a member on its board (R324). -/
def loadRequest (ctx : BitVec 6) (m : Member) (b : Board) (i : Nat) : LoadReq :=
  let g := m.loads.getD i ⟨0, 0, [], true⟩
  { issuer := none, ctx := ctx, addr := g.img,
    desc := fields [(g.len, 24), (if m.lvl then 1 else 0, 17), (b.die, 14), (b.h - 1, 11), (b.w - 1, 8), (b.brow, 3), (b.bcol, 0)],
    windows := [], drain := false, phase := .asked, groups := [], board := b.id }

/-- The board of a member at a place. -/
def boardFor (l : Launch) (id m : Nat) (x : Member) (q : Rect) : Board :=
  let old := l.saved.find? fun v => v.member == m
  { id := id, ctx := l.ctx, die := q.die, brow := q.row, bcol := q.col, h := q.h, w := q.w, lvl := x.lvl, launch := some l.id, member := m,
    phase := .empty, load := old.elim 0 (·.load), generation := 0, watchdog := 0, products := old.elim 0 (·.products), cls := old.bind (·.cls), drainFor := none, ahead := none }

/-- A launch is admitted at places: its pipes, its boards and the requests for its loads; none on a stall. A status of a pipe ends it
before any board is loaded (R317, R318). -/
def takeIn (l : Launch) (qs : List Rect) (s : State) : Fetch State :=
  let ms := l.toPlace
  let place (m : Nat) : Option Rect := ((ms.zip qs).find? fun e => e.1.1 == m).map Prod.snd
  let old (m : Nat) : Option Rect := (l.saved.find? fun v => v.member == m).map fun v => ⟨v.die, v.brow, v.bcol, 0, 0⟩
  match placePipes l place old l.pipes s.pkg with
  | (.stall a v, _) => .stall a v
  | (.refused code, _) => .refused code
  | (.ok (code, pipes), p) =>
    let p1 := { p with lastAdmitted := p.lastAdmitted.mapFinIdx fun i x _ => if i = l.prio then l.ctx else x }
    if code ≠ 0 then
      .ok { s with pkg := p1.onLaunch l.id fun x => { x with st := .ended, status := some code, pipes := pipes } }
    else
      let boards := ((List.range ms.length).zip (ms.zip qs)).map fun e => boardFor l (p.nextBoard + e.1) e.2.1.1 e.2.1.2 e.2.2
      let reqs := (boards.zip ms).filterMap fun e => if e.2.2.ended then none else some (loadRequest l.ctx e.2.2 e.1 e.1.load)
      .ok { s with pkg :=
        { p1.onLaunch l.id (fun x => boards.foldl (fun x b => x.onMember b.member fun m => { m with board := some b.id }) { x with st := .admitted }) with
          boards := p1.boards ++ boards, nextBoard := p1.nextBoard + boards.length, loads := p1.loads ++ reqs } }

/-- The candidate of a launch stream: a pre-empted launch first, then its oldest record (R318, R328). -/
def Package.candidate (p : Package) (ctx : BitVec 6) (prio : Nat) : Option Launch :=
  let ls := p.launches.filter fun l : Launch => l.ctx == ctx && l.prio == prio
  let c? : Option Launch := match ls.find? fun l : Launch => l.st == .candidate && !l.saved.isEmpty with
    | some l => some l
    | none => ls.find? fun l : Launch => l.st == .candidate
  c?.filter fun c => !(c.ser && ls.any fun l : Launch => l.id < c.id)

/-- A candidate put in the order of its priority: reserved ones first, in the order of their reservation (R319). -/
def rankCandidate (c : Launch) : List Launch → List Launch
  | [] => [c]
  | d :: r =>
    let first : Bool := match c.reserved, d.reserved with
      | some i, some j => decide (i < j)
      | some _, none => true
      | _, _ => false
    if first then c :: d :: r else d :: rankCandidate c r

/-- The candidates in the order in which they are taken (R318, R319). -/
def Package.candidates (p : Package) : List Launch :=
  (List.range 16).flatMap fun i =>
    let prio := 15 - i
    let start := (p.lastAdmitted.toList.getD prio 63).toNat + 1
    let cs := (List.range 64).filterMap fun j => p.candidate (BitVec.ofNat 6 (start + j)) prio
    cs.foldl (fun l c => rankCandidate c l) []

/-- CANDIDATE_RESERVED's effect: a candidate passed over 64 times becomes reserved, after those reserved before it (R319). -/
def reserve (id : Nat) (p : Package) : Package :=
  match p.launch id with
  | some l =>
    if l.st == .candidate && 64 ≤ l.passes && l.reserved.isNone then
      { p.onLaunch id (fun l => { l with reserved := some p.reservations }) with reservations := p.reservations + 1 }
    else p
  | none => p

/-- What one pass over the candidates met: nothing that fits, a launch admitted, or a stall. -/
inductive Pass where
  | idle (s : State)
  | admitted (s : State)
  | stalled (l : Launch) (level : Nat) (va : Word)
  /-- The first that fits waits for the resume of its context (R208, R317). -/
  | waits

/-- One pass: the first candidate that fits is admitted, and those before it that find no blocks are passed over. `floor` is the priority
up to which a reservation holds the others back (R318, R319). -/
def takeFirst : List Launch → Option Nat → State → Pass
  | [], _, s => .idle s
  | c :: r, floor, s =>
    if floor.any (fun p => c.prio ≤ p) then takeFirst r floor s
    else
      let s := s.onPkg c.lookedUp
      match s.pkg.placesFor c with
      | none =>
        let t := s.onPkg fun p => reserve c.id (p.onLaunch c.id fun l => { l with passes := l.passes + 1 })
        takeFirst r (if (t.pkg.launch c.id).any (·.reserved.isSome) then some c.prio else floor) t
      | some qs =>
        let floor' := if c.reserved.isSome then some c.prio else floor
        let held := ((s.pkg.boards.filter fun b => b.ctx == c.ctx).map fun b => b.h * b.w).sum
        let most := (aget s.pkg.contexts c.ctx.toNat).elim 0 (·.maxBlk)
        if held + (qs.map fun q => q.h * q.w).sum ≤ most then
          if s.pkg.stalledAt c.ctx (.place c.id) then .waits
          else match takeIn c qs s with
          | .ok t => .admitted t
          | .stall l v => .stalled c l v
          | .refused _ => .idle s
        else takeFirst r floor' s

/-- The allocator goes over its candidates, and begins again after each that it admits, until none fits (R318). -/
def allocate : Nat → State → State
  | 0, s => s
  | n + 1, s =>
    let s := readAll s
    match takeFirst s.pkg.candidates none s with
    | .idle t => t.onPkg fun p => { p with allocDue := false }
    | .admitted t => allocate n t
    | .stalled c l v => stallUnit (.place c.id) c.ctx sequencers 6 0 l v s
    | .waits => s

/-- The launches that an action could admit: those that wait, and the records not yet read. -/
def Package.waitingLaunches (p : Package) : Nat :=
  p.launches.length + (p.contexts.map fun e => ((List.range 16).map fun i => p.unread (BitVec.ofNat 6 e.1) (BitVec.ofNat 4 i)).sum).sum

/-- ALLOCATOR_ACTION (R318). -/
def execAllocatorAction (s : State) : Result := .next (if s.pkg.allocDue then allocate (s.pkg.waitingLaunches + 1) s else s)

/-- CANDIDATE_RESERVED (R319). -/
def execCandidateReserved (ctx : BitVec 6) (prio : BitVec 4) (s : State) : Result :=
  .next (match s.pkg.candidate ctx prio.toNat with | some c => s.onPkg (reserve c.id) | none => s)

/-! ### The loads of a graph (R134, R324, R325) -/

/-- Every board of a launch takes the drain configuration, and no further load of it runs (R326). -/
def drainGang (id : Nat) (s : State) : State :=
  (s.pkg.gang id).foldl (fun s b => if b.phase == .draining then s else (beginDrain b .draining s).onPkg (dropLoads b.id)) s

/-- A launch ends with a status, unless one was set before (R324, R326). -/
def endLaunch (id : Nat) (code : Byte) (s : State) : State :=
  drainGang id (s.onPkg (Package.onLaunch id fun l => { l with status := some (l.status.getD code) }))

/-- The check of a load of a graph: an image that cannot be read is refused as `cfg.load` refuses it for load 0, and fails the check of
a later load (R162, R324). -/
def checkGraph (b : Board) (g : GraphLoad) (first : Bool) (p : Package) : LoadCheck × Package :=
  if !g.armsOk || g.len = 0 then (.refused cCONFIG_CHECK, p)
  else match readVirtual b.ctx g.img.toNat (8 * g.len) p with
    | (.bad, p) => (.refused (if first then cACCESS else cCONFIG_CHECK), p)
    | (.stall l v, p) => (.waits l v b, p)
    | (.ok (l, bad), p) =>
      if bad then (.refused cCONFIG_CHECK, p)
      else match checkImage (8 * b.h) (8 * b.w) (wordsOfBytes g.len l) with
        | none => (.refused cCONFIG_CHECK, p)
        | some gs => (.accepted b gs, p)

/-- The size of the area of a board of h by w blocks (R342). -/
def areaSize (h w : Nat) : Nat := 4096 + 64 * h * w * 245760

/-- Where the area of a member's board begins in the save area: those of the members present stand in member order (R342; log 51). -/
def Launch.areaStart (l : Launch) (m : Nat) : Nat := ((l.present.filter fun e => e.1 < m).map fun e => areaSize e.2.h e.2.w).sum

/-- The private parts of the areas of some members of a launch, as offset and size: each board's header and each cell's control region (R342). -/
def Launch.privateParts (l : Launch) (ms : List Nat) : List (Nat × Nat) :=
  (l.present.filter fun e => ms.contains e.1).flatMap fun e =>
    (l.areaStart e.1, 4096) :: (List.range (64 * e.2.h * e.2.w)).map fun c => (l.areaStart e.1 + 4096 + 245760 * c + 0x3_8000, 0x4000)

/-- The check values of the boards that a launch has still to restore hold: their private bytes are those written (R342). -/
def checkHolds (l : Launch) (p : Package) : Got Bool × Package :=
  (l.privateParts (l.saved.map (·.member))).foldl (fun r e =>
    match r with
    | (.ok true, p) =>
      match readVirtual l.ctx (l.saveAt.1.toNat + e.1) e.2 p with
      | (.ok (bytes, bad), p) => (.ok (!bad && bytes == (List.range e.2).map fun i => Config.saveAreaByte l.saveAt.2 (e.1 + i)), p)
      | (.stall a v, p) => (.stall a v, p)
      | (.bad, p) => (.ok false, p)
    | x => x) (.ok true, p)

/-- A load of a graph is checked, and accepted onto its empty board. -/
def decideGraph (k : Nat) (q : LoadReq) (s : State) : State :=
  match s.pkg.board q.board with
  | none => s.onPkg fun p => { p with loads := delNth k p.loads }
  | some b =>
    match s.pkg.memberOf b with
    | none => s.onPkg fun p => { p with loads := delNth k p.loads }
    | some (l, m) =>
      let fails (code : Byte) (p : Package) : State := endLaunch l.id code { s with pkg := p }
      let stall (b : Board) (a : Nat) (v : Word) (p : Package) : State := stallUnit (.load q.board q.issuer) b.ctx (b.cellAt 0 0) 6 0 a v { s with pkg := p }
      let go (p : Package) : State :=
        match checkGraph b (m.loads.getD b.load ⟨0, 0, [], false⟩) (b.load == 0) p with
        | (.refused code, p) => fails code p
        | (.later, _) => s
        | (.waits a v b, p) => stall b a v p
        | (.accepted _ gs, p) => { s with pkg := { p with loads := modNth (fun q => { q with phase := .words, groups := gs }) k p.loads } }
      if l.saved.isEmpty then go s.pkg
      else match checkHolds l s.pkg with
        | (.ok true, p) => go p
        | (.ok false, p) => fails cCONFIG_CHECK p
        | (.stall a v, p) => stall b a v p
        | (.bad, p) => fails cCONFIG_CHECK p

/-- LOAD_ACCEPTANCE: the loader of a die takes a request when it has none in progress (R134, R162, R324); one whose check has met a stall waits
for the resume (R208). -/
def execLoadAcceptance (k : Nat) (s : State) : Result :=
  .next (match s.pkg.loads[k]? with
    | none => s
    | some q =>
      if q.phase != .asked || s.pkg.loaderBusy q.die || s.pkg.stalledAt q.ctx (.load q.board q.issuer) then s
      else match q.issuer with
        | some _ => decideLoad k q s
        | none => decideGraph k q s)

/-- The arm entries of a load are recorded, in list order (R325). -/
def recordArms (b : Board) (arms : List Word) (s : State) : State :=
  arms.foldl (fun s e =>
    let v := e.toNat
    s.atCell (b.cellAt (bits v 16 6) (bits v 8 6)) (Cell.arm (bits v 0 3) (bits v 32 32))) s

/-- A packet whose circuit began on a board that has moved (R344). -/
def Packet.move (f : CellId → CellId) (k : Packet) : Packet := { k with src := k.src.map fun q => (f q.1, q.2) }

/-- A walk restored: it reads FTAB, and the headers of its cursor's page and of its lookahead, again (R299, R308, R344). -/
def Walk.rewound (w : Walk) : Walk := { w with ftabDue := true, pages := w.pages.map fun p => { p with stale := true } }

/-- A saved cell on its new board, beside the page-ins under way in its place (R344). -/
def Cell.restored (id : Nat) (f : CellId → CellId) (c old : Cell) : Cell :=
  (List.range 32).foldl (fun (c : Cell) i => c.onChan (BitVec.ofNat 5 i) fun C => { C with pkts := C.pkts.map (Packet.move f) })
    { c with
      board := some id
      nextId := max c.nextId old.nextId
      l1 := []
      l1Bad := []
      win := []
      hnd := c.hnd.map fun h => if h.st = .parked then h.wake else h
      walks := c.walks.map fun w => w.map Walk.rewound
      cp := { c.cp with q := old.cp.q ++ c.cp.q } }

/-- Every command of a cell that waited at a head or window waits no longer. -/
def Cell.unwait (c : Cell) : Cell := allEngines.foldl (fun c e => c.putEngine e ((c.engine e).wakeWhere fun _ => true)) c

/-- Whether a cell lay on a saved board, which has the size of a board now. -/
def Saved.holds (v : Saved) (b : Board) (c : CellId) : Bool := ({ b with die := v.die, brow := v.brow, bcol := v.bcol } : Board).holds c

/-- Where the cells of a saved board stand now. -/
def Saved.move (v : Saved) (b : Board) (c : CellId) : CellId :=
  if v.holds b c then
    b.cellAt ((c.extractLsb' 6 6).toNat - 8 * v.brow) ((c.extractLsb' 0 6).toNat - 8 * v.bcol)
  else c

/-- A request of a saved board that is still out belongs to its cell where that one stands now (R340, R388). -/
def OutReq.back (b : Board) (o : OutReq) : OutReq :=
  match o.away with
  | some (m, i) => if o.launch == b.launch && m == b.member then { o with req := { o.req with cell := b.cells.getD i o.req.cell }, away := none } else o
  | none => o

/-- A request to the loader that a pre-emption held, on the board where it stands now: one that was waiting for the quiescence of its board waits for
that board's (R163). -/
def LoadReq.moved (f : CellId → CellId) (b : Board) (q : LoadReq) : LoadReq :=
  let q1 := { q with issuer := q.issuer.map fun i => (f i.1, i.2) }
  if q.phase == .graceful then { q1 with board := b.id, desc := (q.desc &&& ~~~(0xC000#64)) ||| BitVec.ofNat 64 (b.die * 2 ^ 14) } else q1

/-- A member of a launch is saved no longer. -/
def Launch.back (f : CellId → CellId) (b : Board) (l : Launch) : Launch :=
  { l with
    saved := l.saved.filter fun v => v.member != b.member
    requests := l.requests.map fun e => if e.1 == some b.member then (none, e.2.moved f b) else e }

/-- The requests to the loader of a launch whose boards are all restored are issued again (R344). -/
def reissueLoads (id : Nat) (p : Package) : Package :=
  match p.launch id with
  | some l => if l.saved.isEmpty then { p.onLaunch id (fun l => { l with requests := [] }) with loads := p.loads ++ l.requests.map Prod.snd } else p
  | none => p

/-- A saved board takes the place of a first firing (R344): its cells, their slots in streams, the joins of its circuits, and its pending
requests, which are issued again. The TLBs start empty: the entries of its context are dropped. -/
def restoreBoard (b : Board) (v : Saved) (s : State) : State :=
  let f := v.move b
  let s1 := (s.pkg.bound.filter fun x => x.ctx == b.ctx).foldl (fun s x =>
    let r := s.pkg.record x.pa
    let slots := r.slots.map fun t => if t.v && v.slots.contains (x.pa, t.owner) then { t with owner := f t.owner } else t
    if slots = r.slots then s else setRecord x { r with slots := slots } s) s
  let s2 := s1.onPkg fun p => { p with tlb := p.tlb.filter fun e : TlbEntry => e.ctx != b.ctx, joins := p.joins ++ v.joins.map fun j => { j with cell := f j.cell } }
  ((b.cells.zip v.cells).foldl (fun s e =>
    (s.atCell e.1 fun old => (e.2.restored b.id f old).unwait).within e.1 fun s => reissueCell (s.onCell (Cell.resumeEngines b.ctx))) s2).onPkg
      fun p => reissueLoads (b.launch.getD 0) ((p.mapOut (OutReq.back b)).onLaunch (b.launch.getD 0) (Launch.back f b))

/-- SWITCH_OVER: the new load of a board first fires, or a saved one goes on (R134, R162, R325, R344). -/
def execSwitchOver (k : Nat) (s : State) : Result :=
  .next (match s.pkg.loads[k]? with
    | none => s
    | some q =>
      if q.phase != .words then s
      else
        let s1 := s.onPkg fun p => { p with loads := delNth k p.loads }
        match s1.pkg.board q.board with
        | none => s1
        | some b =>
          let ml := s1.pkg.memberOf b
          let phase : Phase := if ml.any fun e => e.1.preempt.isSome then .preempting else .running
          let fired (b : Board) : Board := { b with phase := phase, generation := b.generation + 1, watchdog := 0, products := 0, cls := none, ahead := none }
          match q.issuer, ml with
          | none, some (l, m) =>
            match l.saved.find? fun v => v.member == b.member with
            | some v =>
              (restoreBoard b v s1).onPkg (Package.onBoard b.id fun b => { b with phase := phase, generation := b.generation + 1, watchdog := 0 })
            | none =>
              let s2 := (fireBoard ⟨b, m.lvl, l.ctx, l.windows⟩ q.groups s1).onPkg fun p =>
                (p.onBoard b.id fired).onLaunch l.id (fun l => l.onMember b.member fun m => { m with fired := m.fired + 1 })
              recordArms b (m.loads.getD b.load ⟨0, 0, [], true⟩).arms s2
          | _, _ => (fireBoard ⟨b, bitOf q.desc.toNat 17, q.ctx, q.windows⟩ q.groups s1).onPkg (Package.onBoard b.id fun x => { fired x with lvl := bitOf q.desc.toNat 17 }))

/-! ### The classifier (R322, R323) -/

/-- CLASSIFICATION (R322): `lines` moved between HBM and L2 in the counted cycles. -/
def execClassification (b : Nat) (lines : Nat) (s : State) : Result :=
  .next (if (s.pkg.board b).any fun b => b.phase == .running then classify b lines s else s)

/-- The graph sequencer of its die that serves a board (R324). -/
def Board.sequencer (b : Board) : Nat := (6 * b.brow + b.bcol) % 4

/-- The next load of a graph is checked while the current one runs (R324). -/
def checkAhead (b : Board) (M : Member) (s : State) : State :=
  match checkGraph b (M.loads.getD (b.load + 1) ⟨0, 0, [], false⟩) false s.pkg with
  | (.refused _, p) => { s with pkg := p.onBoard b.id fun b => { b with ahead := some none } }
  | (.waits a v b, p) => stallUnit (.ahead b.id) b.ctx (b.cellAt 0 0) 6 0 a v { s with pkg := p }
  | (.accepted _ gs, p) => { s with pkg := p.onBoard b.id fun b => { b with ahead := some (some gs) } }
  | (.later, _) => s

/-- A load of a graph has ended: its member ends, or its next load, if its check did not fail, follows without a drain (R324). -/
def followLoad (L : Launch) (m : Nat) (M : Member) (b : Board) (s : State) : State :=
  if M.loads.length ≤ b.load + 1 then (beginDrain b .empty s).onPkg (Package.onLaunch L.id fun L => L.onMember m fun M => { M with ended := true })
  else match b.ahead with
    | none => s
    | some none => endLaunch L.id cCONFIG_CHECK s
    | some (some gs) =>
      if s.pkg.loaderBusy b.die then s
      else (beginDrain b .empty s).onPkg fun p =>
        { p.onBoard b.id (fun b => { b with load := b.load + 1, ahead := none }) with
          loads := p.loads ++ [{ loadRequest L.ctx M b (b.load + 1) with phase := .words, groups := gs }] }

/-- NEXT_LOAD: the sequencer of a member's board checks the next load of its graph while the current one runs, and goes on to it once the
board is quiescent (R163, R324). -/
def execNextLoad (l : Nat) (m : BitVec 2) (s : State) : Result :=
  .next (match s.pkg.launch l with
    | none => s
    | some L =>
      match L.members[m.toNat]?, ((L.members[m.toNat]?).bind (·.board)).bind s.pkg.board with
      | some M, some b =>
        if L.status.isSome || M.ended || b.phase != .running || s.pkg.raised.any b.holds || s.pkg.loads.any (fun q => q.board == b.id && q.phase != .asked) then s
        else if b.ahead.isNone && b.load + 1 < M.loads.length then (if s.pkg.stalledAt b.ctx (.ahead b.id) then s else checkAhead b M s)
        else if s.quiescent b then followLoad L m.toNat M b s
        else s
      | _, _ => s)

/-! ### Release and completion (R327, R338) -/

/-- A cell whose board is released: only page-ins under way go on (R340). -/
def Cell.released (c : Cell) : Cell :=
  { Cell.reset with cp := ⟨(c.cp.q.filter (·.internal)).map fun x => { x with orphan := true }, []⟩, nextId := c.nextId }

/-- A board is released: its cells and blocks are free, the allocator acts (R318), and a `cfg.drain` that drained it is answered 0 (R164). -/
def releaseBoard (b : Board) (s : State) : State :=
  let s1 := (s.mapCells fun _ c => if c.board == some b.id then c.released else c).onPkg fun p =>
    { dropLoads b.id p with
      boards := p.boards.filter fun x => x.id != b.id
      launches := p.launches.map fun l => { l with members := l.members.map fun m => if m.board == some b.id then { m with board := none, ended := true } else m }
      allocDue := true }
  match b.drainFor with
  | some (c, id) => landValue c id 0 0 s1
  | none => s1

/-- Some pipes of a launch are unbound (R317). -/
def unbindPipes (l : Launch) (qs : List Pipe) (s : State) : State :=
  qs.foldl (fun s q =>
    (s.onPkg fun p => { p with bound := p.bound.filter fun x => !(x.ctx == l.ctx && x.num == q.stream) }).mapCells
      fun _ c => if c.k.ctx = l.ctx then c.evict q.stream else c) s

/-- The pipes into the board of a member are unbound, once (R326). -/
def dropPipes (id m : Nat) (s : State) : State :=
  match s.pkg.launch id with
  | none => s
  | some l =>
    (unbindPipes l (l.pipes.filter fun q => q.member == m) s).onPkg (Package.onLaunch id fun l => { l with pipes := l.pipes.filter fun q => q.member != m })

/-- Whether a draining board's occupancy tree reads busy: a beat on its way, an access or a request whose answer is due, or a command of the
board in an engine, which after the drain can only be a page-in (R338, R340). -/
def State.busy (s : State) (b : Board) : Bool :=
  (s.cells.any fun e => e.2.board == some b.id && (!e.2.inflight.isEmpty || allEngines.any fun x => !(e.2.engine x).own.isEmpty)) ||
    (s.pkg.wire.any fun f => b.holds f.src) || (s.pkg.groupOps.any fun g => b.holds g.cell) || s.pkg.peers.any fun e => e.2.out.any fun o => o.gone && o.on b

/-- BOARD_RELEASE: the pipes of a member whose launch has ended with a status are unbound with its board (R164, R326, R338). -/
def execBoardRelease (b : Nat) (s : State) : Result :=
  .next (match s.pkg.board b with
    | none => s
    | some x =>
      if x.phase != .draining || s.busy x then s
      else releaseBoard x (match s.pkg.memberOf x with | some (l, _) => if l.status.isSome then dropPipes l.id x.member s else s | none => s))

/-- The class field of a completion record. -/
def classCode : Option Bool → Nat
  | none => 0
  | some true => 1
  | some false => 2

/-- The completion record (R327). -/
def completionRecord (l : Launch) (cycles : Word) : List Word :=
  let m := l.members.headD Member.absent
  [fields [(4, 0), ((l.status.getD 0).toNat, 8), (l.prio + 1, 32), (l.ctx.toNat, 40)], l.tag ++ l.pos,
    fields [(min m.fired 256, 0), (classCode m.cls, 9)], cycles, 0, 0, 0, 0]

/-- An acknowledgement record (R343). -/
def ackRecord (l : Launch) (save : Word) (code : Byte) (cycles : Word) : List Word :=
  [fields [(5, 0), (code.toNat, 8), (l.prio + 1, 32), (l.ctx.toNat, 40)], l.tag ++ l.pos, save, cycles, 0, 0, 0, 0]

/-- The sequencers' tether of a launch stream moves past a record, only forward (R327). -/
def passRecord (l : Launch) (s : State) : State :=
  match s.pkg.boundOf l.ctx (BitVec.ofNat 15 (l.prio + 1)) with
  | none => s
  | some b =>
    let (code, r) := (s.pkg.record b.pa).release sequencers (l.pos + 64)
    if code = 0 then changeRecord b r s else s

/-- Whether a launch is complete: it ended before a board was taken, its boards are gone after a status, or every member has ended. -/
def Launch.complete (l : Launch) (p : Package) : Bool :=
  match l.st with
  | .candidate => false
  | .ended => true
  | .admitted => if l.status.isSome then (p.gang l.id).isEmpty else l.members.all (·.ended)

/-- Whether a write of the boards of a launch has still to be performed (R327). -/
def State.storesOf (s : State) (id : Nat) : Bool :=
  s.cells.any fun e => (s.pkg.gang id).any (fun b => e.2.board == some b.id) && e.2.inflight.any Access.outlives

/-- LAUNCH_COMPLETION (R320, R326, R327): once every store of the launch is performed; pre-emption requests that found it frozen, or already
over, are answered (R347). -/
def execLaunchCompletion (l : Nat) (s : State) : Result :=
  .next (match s.pkg.launch l with
    | none => s
    | some L =>
      if !L.complete s.pkg || s.storesOf l then s
      else
        let s1 := unbindPipes L L.pipes ((s.pkg.gang l).foldl (fun s b => releaseBoard b s) s)
        let cycles : Word := if L.st == .admitted then Config.elapsedCycles s.tick else 0
        let s2 := passRecord L (post L.ctx (completionRecord L cycles) s1)
        let late := L.late ++ (L.preempt.elim [] fun q => [q.save])
        (late.foldl (fun s a => post L.ctx (ackRecord L a cACCESS 0) s) s2).onPkg fun p =>
          { p with launches := p.launches.filter fun x : Launch => x.id != l, allocDue := true })

end Sys2Proof.Machine
end

