-- ==== Sys2Proof/Machine/Faults.lean ====
section
/-! DEFINITION. Faults and the watchdog (R332-R337), and pre-emption (R339-R343, R346). -/

namespace Sys2Proof.Machine

/-! ### The fault record (R333, R334) -/

/-- CFGIDX (R334): the group that wrote the instruction-store unit of the PC, or that configured the node. -/
def cfgIdx (c : Cell) (f : FaultRec) : Nat :=
  let node := f.hnd.toNat - 64
  let hit (m : CfgMark) : Bool :=
    if f.src = 1 then ((m.table == 6 || m.table == 7) && m.first == node) || (m.table == 9 && m.first == node + 1)
    else m.table == 4 && m.first ≤ f.pc.toNat / 8 && f.pc.toNat / 8 < m.first + m.count
  match c.marks.find? hit with
  | some m => m.number
  | none => 0xFFFF

/-- A packet of a channel put in the order of arrival. -/
def byStamp (k : Packet) : List Packet → List Packet
  | [] => [k]
  | j :: r => if k.stamp < j.stamp then k :: j :: r else j :: byStamp k r

/-- The packets of a cell's channels, oldest first (R334). -/
def Cell.oldest (c : Cell) : List Packet := (c.chan.toList.flatMap (·.pkts)).foldl (fun l k => byStamp k l) []

/-- OCC: the packets held in each of sixteen channels. -/
def Cell.occupancy (c : Cell) (first : Nat) : Word :=
  fields ((List.range 16).map fun i => (((c.chan.toList.drop first).getD i Channel.reset).pkts.length, 4 * i))

/-- A fault record (R333). -/
def faultRecord (cell : CellId) (c : Cell) (f : FaultRec) : List Word :=
  let tok (i : Nat) : Nat := ((c.oldest.map fun k => (k.lanes.headD 0).toNat).getD i 0)
  [fields [(1, 0), (f.code.toNat, 8), (cell.toNat, 32), (f.hnd.toNat, 46), (f.src.toNat, 53), (if f.t then 1 else 0, 55), (f.detail.toNat, 56)],
    fields [(f.pc.toNat, 0), (cfgIdx c f, 16), (f.word.toNat, 32)], f.info ++ f.aux0, f.aux1, c.occupancy 0, c.occupancy 16,
    fields [(tok 0, 0), (tok 1, 32)], fields [(tok 2, 0), (tok 3, 32)]]

/-! ### Acceptance (R326, R332, R336) -/

/-- The cell whose fault a board's sequencer accepts: the first raised; among cells of which no order is known the lowest row, then
column (R336). -/
def State.raisedOn (s : State) (b : Board) : Option CellId :=
  let bad (c : CellId) : Bool := b.holds c && (s.cellAt c).board == some b.id && (s.cellAt c).fault.isSome
  match s.pkg.raised.find? bad with
  | some c => some c
  | none =>
    ((s.cells.map Prod.fst).filter bad).foldl (fun m c => match m with | some d => if c.toNat < d.toNat then some c else some d | none => some c) none

/-- A pending pre-emption request of a launch is answered (R341, R346). -/
def answerPreempt (id : Nat) (code : Byte) (s : State) : State :=
  match s.pkg.launch id with
  | none => s
  | some l =>
    match l.preempt with
    | none => s
    | some q => (post l.ctx (ackRecord l q.save code (Config.elapsedCycles s.tick)) s).onPkg (Package.onLaunch id fun l => { l with preempt := none })

/-- The check values of a launch's save area are left wrong: the last 8 bytes of each header and control region become others than a save
there wrote (R342, R346). A region that cannot be written is left. -/
def wreckSave (l : Launch) (save : Word) (s : State) : State :=
  let n := ((s.pkg.launches.find? fun x : Launch => x.ctx == l.ctx && x.saveAt.1 == save && !x.saved.isEmpty).map (·.saveAt.2)).getD s.pkg.saves
  (((l.privateParts (List.range l.members.length)).map fun e => e.1 + e.2 - 8)).foldl (fun s off =>
    match writeVirtual l.ctx (save.toNat + off) ((List.range 8).map fun i => ~~~(Config.saveAreaByte n (off + i))) s.pkg with
    | (.ok _, p) => { s with pkg := p }
    | _ => s) s

/-- A fault record is published, and the launch takes its status from the first one (R326). -/
def publishFault (b : Board) (cell : CellId) (c : Cell) (f : FaultRec) (s : State) : State :=
  let s1 := post b.ctx (faultRecord cell c f) s
  match b.launch with
  | some l => s1.onPkg (Package.onLaunch l fun l => { l with status := some (l.status.getD f.code) })
  | none => s1

/-- The fault that a board's sequencer accepts, if a cell has raised one. -/
def acceptRaised (b : Board) (s : State) : State :=
  match s.raisedOn b with
  | none => s
  | some c =>
    match (s.cellAt c).fault with
    | none => s
    | some f => publishFault b c (s.cellAt c) f s

/-- A board stops with a fault; the other boards of its gang accept what they have raised before they stop, and every board takes the
drain configuration (R326, R336). A pre-emption under way is answered with the code, and its save area spoiled (R346). -/
def stopGang (b : Board) (code : Byte) (s : State) : State :=
  match b.launch with
  | none => (beginDrain b .draining s).onPkg (dropLoads b.id)
  | some l =>
    let others := (s.pkg.gang l).filter fun x => x.id != b.id && x.phase != .draining
    let s1 := drainGang l (others.foldl (fun s x => acceptRaised x s) s)
    answerPreempt l code (match s1.pkg.launch l with
      | some L => L.preempt.elim s1 fun q => wreckSave L q.save s1
      | none => s1)

/-- The sequencer of a board takes the first fault raised on it, if there is one: the gang stops with it (R336). -/
def takeFault (x : Board) (s : State) : Option State :=
  if x.phase == .draining then none
  else (s.raisedOn x).bind fun c => (s.cellAt c).fault.map fun f => stopGang x f.code (publishFault x c (s.cellAt c) f s)

/-- FAULT_ACCEPTANCE (R332). -/
def execFaultAcceptance (b : Nat) (s : State) : Result := .next (((s.pkg.board b).bind fun x => takeFault x s).getD s)

/-! ### The watchdog (R337) -/

/-- Whether a walker command of a cell waits for a page that is not near (R302, R329). -/
def Cell.tierStalled (c : Cell) : Bool :=
  match c.kv.q with
  | [] => false
  | x :: _ =>
    (x.verb == 1 || x.verb == 2) &&
      (match (c.walks.toList.getD (bits x.w3.toNat 0 2) none).bind (·.pages.head?) with
        | some p => p.tier == 1 || p.tier == 2
        | none => false)

/-- Whether an access, an instruction at issue, a command or an activation of a cell is held in a stall (R329). -/
def Cell.stalling (c : Cell) : Bool :=
  c.inflight.any (fun a => match a.loc with | .stall _ => true | _ => false) || allEngines.any (fun e => (c.engine e).own.any (·.stalled)) ||
    c.tierStalled || c.hold == some .stalled || c.hnd.toList.any fun h => h.st == .parked && h.wide

/-- Whether a request of a board is held in a stall at its target: of the own package the held request says so, of another one its hold notice
(R208, R356). A flag that waits for its counts is in no stall. -/
def State.stalledAway (s : State) (b : Board) : Bool :=
  s.pkg.peers.any fun e => e.2.out.any fun o => o.on b && !o.gone &&
    (match o.req.op with
      | .load .. | .store .. | .recipe .. => o.noticed || (e.1 == s.pkg.number.toNat && e.2.held.any fun r => r.seq == o.req.seq)
      | .flag _ _ counts => e.1 == s.pkg.number.toNat && e.2.covers counts && e.2.held.any fun r => r.seq == o.req.seq
      | _ => o.due.isSome)

/-- Whether the watchdog count of a board holds its value (R337, R417). -/
def State.watchHeld (s : State) (b : Board) : Bool :=
  b.phase != .running || s.pkg.host.clockStopped || s.stalledAway b || s.cells.any fun e => e.2.board == some b.id && e.2.stalling

/-- Whether a cell holds a PARKED activation. -/
def Cell.parks (c : Cell) : Bool := c.hnd.toList.any fun h => h.st == .parked

/-- The first cell of a board that holds a PARKED activation. -/
def State.firstParked (s : State) (b : Board) : Option CellId := b.cells.find? fun c => (s.cellAt c).parks

/-- The record of a watchdog fault, with the cell that it names and that cell's `KSTAT.T` (R333, R337). -/
def watchdogFault (b : Board) (info : W32) (s : State) : CellId × FaultRec :=
  let none' : FaultRec := ⟨cWATCHDOG, 0, false, 3, 127, 0, 0, info, 0, 0⟩
  match s.firstParked b with
  | none => (b.cellAt 0 0, { none' with t := (s.cellAt (b.cellAt 0 0)).k.t })
  | some c =>
    let x := s.cellAt c
    let none' := { none' with t := x.k.t }
    match (List.range 64).find? fun i => ((x.hnd.toList.getD i Handler.reset).st == .parked) with
    | none => (c, none')
    | some i =>
      let pc := (x.hnd.toList.getD i Handler.reset).pc
      (c, { none' with hnd := BitVec.ofNat 7 i, pc := pc, word := x.wordAt pc })

/-- The board faults with WATCHDOG. -/
def watchdogStop (b : Board) (info : W32) (s : State) : State :=
  let (c, f) := watchdogFault b info s
  stopGang b cWATCHDOG (publishFault b c (s.cellAt c) f s)

/-- WATCHDOG_EXPIRY (R337): a board on which a cell has raised a fault takes that one, its first (R336). -/
def execWatchdogExpiry (b : Nat) (s : State) : Result :=
  .next (match s.pkg.board b with
    | none => s
    | some x =>
      if s.pkg.watchdogLimit = 0 || x.watchdog < s.pkg.watchdogLimit || s.watchHeld x then s
      else (takeFault x s).getD (watchdogStop x (BitVec.ofNat 32 (s.cells.filter fun e => e.2.board == some b && e.2.parks).length) s))

/-! ### Pre-emption (R339-R343) -/

/-- The accesses that a stall holds, or a request not yet sent (R340): those that stall, those numbered in the list, and those that wait for
them (R339). -/
def heldByStall : List Access → List Nat → Bool
  | [], _ => true
  | a :: r, held =>
    match a.loc with
    | .stall _ => heldByStall r (a.id :: held)
    | _ => (held.contains a.id || a.after.any (held.contains ·)) && heldByStall r (a.id :: held)

/-- The accesses of a cell whose requests wait unsent for a live path (R340, R358), or with the loader (R162, R163). -/
def State.unsent (s : State) (c : CellId) : List Nat :=
  (s.pkg.peers.flatMap fun e => (e.2.out.filter fun o => o.path.isNone && o.req.cell == c && !o.gone && o.away.isNone).filterMap (·.access)) ++
    (s.pkg.loads.filterMap (·.issuer)).filterMap fun i => if i.1 = c then some i.2 else none

/-- Whether the collector has what it waits for of a cell: its core is free, or held in a stall at issue, no page-in is under way, and
nothing is in flight but what a stall or an unsent request holds (R339, R340, R346). -/
def Cell.collected (c : Cell) (unsent : List Nat) : Bool :=
  (c.cur.isNone || c.hold == some .stalled) && heldByStall c.inflight unsent && !(c.kv.q.any fun x => x.verb == 3 && x.begun && !x.stalled) && c.fault.isNone

/-- Whether a request is one for whose verdict an activation is parked: pre-emption saves it (R388). -/
def OutReq.parked (o : OutReq) : Bool := match o.req.op with | .convTurn .. | .convDeleg .. | .convClose _ => true | _ => false

/-- Whether the collector may save a board (R339): no load is on its way to it, and a request that the loader has not carried out is saved. -/
def State.collectable (s : State) (b : Board) : Bool :=
  (s.cells.all fun e => e.2.board != some b.id || e.2.collected (s.unsent e.1)) && !(s.pkg.wire.any fun f => b.holds f.src) &&
    !(s.pkg.convs.any fun e => e.2.msgs.any fun m => m.credit && m.own == b.launch && m.dest.any fun x => x.pkg == s.pkg.number && b.holds x.cell) &&
    !(s.pkg.creditWire.any fun e => b.holds e.1) && !(s.pkg.peers.any fun e => e.2.out.any fun o => o.on b && !o.parked && o.path.isSome) &&
    !(s.pkg.loads.any fun q => q.phase == .words && q.board == b.id)

/-- The 240 KiB block of a cell (R342): only the control region is private to the part. -/
def saveBlock (n at' : Nat) (c : Cell) : List Byte :=
  sgets 0 c.store 0 131072 ++ (sgets 0 c.acc 0 16384).flatMap (fun w => bytesOf 4 w.toNat) ++ sgets 0 c.tiles 0 16384 ++
    (sgets 0 c.istore 0 4096).flatMap (fun w => bytesOf 4 w.toNat) ++ (List.range 16384).map fun i => Config.saveAreaByte n (at' + 0x3_8000 + i)

/-- The area of one board at an offset of the save area: its header and its cells. -/
def saveArea (n at' : Nat) (cells : List Cell) : List Byte :=
  (List.range 4096).map (fun i => Config.saveAreaByte n (at' + i)) ++ (cells.mapIdx fun i c => saveBlock n (at' + 4096 + 245760 * i) c).flatten

/-- The boards of a launch are written to their areas (R342). -/
def writeAreas (l : Launch) (n : Nat) (save : Word) : List Saved → Package → Got Unit × Package
  | [], p => (.ok (), p)
  | v :: r, p =>
    match writeVirtual l.ctx (save.toNat + l.areaStart v.member) (saveArea n (l.areaStart v.member) v.cells) p with
    | (.ok _, p) => writeAreas l n save r p
    | x => x

/-- A board as it is saved: page-ins that walkers started go on in its cells (R340). -/
def savedBoard (s : State) (b : Board) : Saved :=
  { member := b.member, die := b.die, brow := b.brow, bcol := b.bcol, load := b.load, products := b.products, cls := b.cls,
    cells := b.cells.map fun c => let x := s.cellAt c; { x with cp := { x.cp with q := x.cp.q.filter fun y => !y.internal } },
    joins := s.pkg.joins.filter fun j => b.holds j.cell
    slots := (s.pkg.bound.filter fun x => x.ctx == b.ctx).flatMap fun x => ((s.pkg.record x.pa).slots.filter fun t => t.v && b.holds t.owner).map fun t => (x.pa, t.owner) }

/-- Whether a launch may be restored only where it was: a stream that it bound names its cells, or its cells hold roles (R345, R396). -/
def pins (l : Launch) (bs : List Board) (s : State) : Bool :=
  (s.pkg.bound.any fun x => x.ctx == l.ctx && x.by_ == some l.id && (s.pkg.record x.pa).back == 0) ||
    (s.pkg.bindings.any fun q => q.launch == some l.id && bs.any fun b => b.holds q.cell) ||
    s.pkg.convs.any fun e => (e.2.role.toList.zip e.2.owner.toList).any fun o => o.2 == some l.id && o.1.any fun x => x.pkg == s.pkg.number && bs.any fun b => b.holds x.cell

/-- The member of a pre-empted launch to which a request to the loader belongs: its board issued it and it is still asked, or it waits for the
quiescence of its board (R163, R339). -/
def LoadReq.heldBy (bs : List Board) (q : LoadReq) : Option Nat :=
  (bs.find? fun b => if q.phase = .asked then q.from_ b else q.board = b.id).map (·.member)

/-- A request to the loader as a pre-emption holds it: of a graceful load that another board asked for, only the effect is left. -/
def LoadReq.kept (bs : List Board) (q : LoadReq) : LoadReq :=
  if q.phase = .graceful ∧ !(bs.any fun b => q.board == b.id && q.from_ b) then { q with issuer := some (sequencers, 0) } else q

/-- A request that is out, of one of the boards saved: it is kept as that of the saved cell (R340). -/
def OutReq.sentAway (bs : List Board) (o : OutReq) : OutReq :=
  match bs.find? fun b => o.on b && !o.gone with
  | some b => { o with away := some (b.member, b.cells.idxOf o.req.cell) }
  | none => o

/-- The boards of a launch are released once saved; their roles and slots stay, and their requests are held (R339, R340). -/
def vacate (l : Launch) (bs : List Board) (s : State) : State :=
  let held : List (Option Nat × LoadReq) := s.pkg.loads.filterMap fun q => (q.heldBy bs).map fun m => (some m, q.kept bs)
  let s1 := s.onPkg fun p => Package.mapOut (OutReq.sentAway bs) { p with loads := p.loads.filter fun q => (q.heldBy bs).isNone }
  (bs.foldl (fun s b => releaseBoard b s) s1).onPkg fun p =>
    { p.onLaunch l.id (fun x => { x with members := l.members.map fun m => { m with board := none }, requests := x.requests ++ held }) with
      joins := p.joins.filter fun j => !(bs.any fun b => b.holds j.cell) }

/-- The north-west cell of the board whose area holds an address of the save area (R226). -/
def Launch.savingBoard (l : Launch) (bs : List Board) (save va : Word) : CellId :=
  let off := va.toNat - save.toNat
  ((bs.find? fun b => off < l.areaStart b.member + areaSize b.h b.w).map fun b => b.cellAt 0 0).getD sequencers

/-- PREEMPTION_SAVE: the state of R342 is written, the boards are released, and the launch returns to admission (R328, R339). -/
def execPreemptionSave (l : Nat) (s : State) : Result :=
  .next (match s.pkg.launch l with
    | none => s
    | some L =>
      match L.preempt with
      | none => s
      | some q =>
        let bs := s.pkg.gang l
        let ended (b : Board) : Bool := (L.members[b.member]?).any (·.ended)
        if L.status.isSome || !(bs.all fun b => (b.phase == .preempting || (b.phase == .empty && ended b)) && s.collectable b) || L.complete s.pkg || s.pkg.stalledAt L.ctx (.save l) then s
        else
          let n := s.pkg.saves
          let saved := bs.map (savedBoard s)
          match writeAreas L n q.save saved s.pkg with
          | (.stall a v, _) => stallUnit (.save l) L.ctx (L.savingBoard bs q.save v) 6 1 a v s
          | (.bad, p) =>
            answerPreempt l cACCESS { s with pkg := { p with boards := p.boards.map fun b => if b.launch == some l && b.phase == .preempting then { b with phase := .running } else b } }
          | (.ok _, p) =>
            answerPreempt l 0 (vacate L bs
              { s with pkg := { p.onLaunch l (fun x => { x with st := .candidate, saved := saved, saveAt := (q.save, n), pinned := pins L bs s }) with saves := n + 1 } }))

/-- The units of a launch that have not acknowledged (R341): cores that neither are free nor stall at issue, copy engines with a page-in under way
that does not stall, and links with a request sent and not answered. -/
def waitingUnits (l : Nat) (s : State) : Nat :=
  let on (c : CellId) : Bool := (s.pkg.gang l).any fun b => b.holds c
  let cells := s.cells.filter fun e => on e.1 && e.2.board.isSome
  (if cells.any fun e => e.2.cur.isSome && e.2.hold != some .stalled then 1 else 0) +
    (if cells.any fun e => e.2.kv.q.any fun x => x.verb == 3 && x.begun && !x.stalled then 4 else 0) +
    (if s.pkg.peers.any fun e => e.2.out.any fun o => !o.parked && o.path.isSome && (s.pkg.gang l).any fun b => o.on b then 32 else 0)

/-- PREEMPTION_TIMEOUT: the launch ends as if by a watchdog fault, and the acknowledgement carries its code (R341); a fault raised on a board of
the launch comes first (R336, R346). -/
def execPreemptionTimeout (l : Nat) (s : State) : Result :=
  .next (match s.pkg.launch l with
    | none => s
    | some L =>
      match L.preempt, s.pkg.gang l with
      | some q, b :: r =>
        if q.limit = 0 || L.status.isSome then s
        else ((b :: r).findSome? fun x => takeFault x s).getD (watchdogStop b (BitVec.ofNat 32 (waitingUnits l s)) s)
      | _, _ => s)

end Sys2Proof.Machine
end

