-- ==== Sys2Proof/Machine/Trust.lean ====
section
/-! DEFINITION. The security engine as SPDM responder and, toward other packages, as requester (R401, R402, R406), IDE keys (R410), and TDISP
interfaces (R411, R412). The cryptography itself is without a body in `Config`; `Link.lean` holds the pair keys (R403, R404). -/

namespace Sys2Proof.Machine

/-! ### SPDM (R401) -/

/-- What the engine holds of a requester, put in place. -/
def putSpdm (who : BitVec 9) (x : Spdm) (s : State) : State := s.onPkg fun p => { p with spdm := aput who.toNat x p.spdm }

/-- A message to a requester. -/
def say (who : BitVec 9) (code : String) (data : List Nat) (s : State) : State := emit (.spdm who code data) s

/-- The engine answers while the module is powered. -/
def responds (s t : State) : State := if s.pkg.host.powered then t else s

/-- An error answer. -/
def spdmError (who : BitVec 9) (what : String) (s : State) : State := say who ("ERROR " ++ what) [] s

/-- A request that needs an earlier step of the exchange. -/
def afterStep (who : BitVec 9) (ok : Spdm → Bool) (s : State) (f : Spdm → State) : State :=
  responds s (if ok (s.pkg.spdmOf who) then f (s.pkg.spdmOf who) else spdmError who "UnexpectedRequest" s)

/-- GET_VERSION begins the exchange again: SPDM 1.3. -/
def execGetVersion (who : BitVec 9) (s : State) : Result :=
  .next (responds s (say who "VERSION" [0x13] (putSpdm who { Spdm.reset with version := true } s)))

/-- GET_CAPABILITIES. -/
def execGetCapabilities (who : BitVec 9) (s : State) : Result :=
  .next (afterStep who (·.version) s fun x => say who "CAPABILITIES" [] (putSpdm who { x with caps := true } s))

/-- NEGOTIATE_ALGORITHMS: a requester that selects no supported algorithm gets no session (R401). -/
def execNegotiateAlgorithms (who : BitVec 9) (offer : AlgOffer) (s : State) : Result :=
  .next (afterStep who (·.caps) s fun x =>
    if offer.mlDsa87 && offer.sha3 && offer.mlKem1024 && offer.aesGcm then say who "ALGORITHMS" [] (putSpdm who { x with algs := true } s)
    else spdmError who "UnsupportedRequest" s)

/-- GET_DIGESTS: the digest of the chain in slot 0. -/
def execGetDigests (who : BitVec 9) (s : State) : Result :=
  .next (afterStep who (·.algs) s fun _ => say who "DIGESTS" [(Config.sha3 (Config.certificate.map (·.toNat))).toNat] s)

/-- GET_CERTIFICATE: slots other than 0 are not supported (R401). -/
def execGetCertificate (who : BitVec 9) (slot : BitVec 4) (s : State) : Result :=
  .next (afterStep who (·.algs) s fun _ =>
    if slot = 0 then say who "CERTIFICATE" (Config.certificate.map (·.toNat)) s else spdmError who "UnsupportedRequest" s)

/-- CHALLENGE: signed with the device identity key. -/
def execChallenge (who : BitVec 9) (s : State) : Result :=
  .next (afterStep who (·.algs) s fun _ => say who "CHALLENGE_AUTH" [Config.signature s.tick] s)

/-- The locked configuration of a virtual function (R402, R411). -/
def lockedConfig (i : Nat) (p : Package) : List Nat :=
  match p.host.vfs.toList[i]? with
  | some f =>
    if f.st == .unlocked then [i, 0]
    else [i, 1, p.host.vfBar.toNat, p.host.vfBar2.toNat, p.host.numVfs.toNat, p.host.vfEnable.toNat, f.command.toNat, f.msix.toNat]
  | none => []

/-- The contents measured under an index (R402): 5 the route table, of the targets that have a path, and the integrity mode; 6 the locked
configuration of each interface, one block for each. -/
def measuredContent (index : Nat) (p : Package) : List (List Nat) :=
  match index with
  | 5 => [(if p.skid then 1 else 0) :: (p.peers.filter fun e => e.2.ports.toList.any Option.isSome).flatMap fun e =>
      e.1 :: e.2.ports.toList.map fun o => o.elim 0 fun q => q.toNat + 1]
  | 6 => (List.range 16).map fun i => lockedConfig i p
  | n => [Config.measured n]

/-- The blocks of a measurement: the digest of each of its contents. -/
def measurement (index : Nat) (p : Package) : List Nat := (measuredContent index p).map fun l => (Config.sha3 l).toNat

/-- GET_MEASUREMENTS: index 0 asks for their number, 0xFF for all, and 1-6 for the blocks of one (R402). -/
def execGetMeasurements (who : BitVec 9) (index : Byte) (s : State) : Result :=
  .next (afterStep who (·.algs) s fun _ =>
    if index = 0 then say who "MEASUREMENTS" [6] s
    else if index = 0xFF then say who "MEASUREMENTS" ((List.range 6).flatMap fun i => measurement (i + 1) s.pkg) s
    else if index ≤ 6 then say who "MEASUREMENTS" (index.toNat :: measurement index.toNat s.pkg) s
    else spdmError who "InvalidRequest" s)

/-- Whether a requester may open a session here: the host's manager, and a package with a lower number (R401). -/
def Package.mayRequest (p : Package) (who : BitVec 9) : Bool := 256 ≤ who.toNat || who.toNat < p.number.toNat

/-- KEY_EXCHANGE. -/
def execKeyExchange (who : BitVec 9) (s : State) : Result :=
  .next (afterStep who (fun x => x.algs && s.pkg.mayRequest who) s fun x =>
    say who "KEY_EXCHANGE_RSP" [Config.signature s.tick] (putSpdm who { x with exchanged := some (Config.sessionSecret s.tick who.toNat) } s))

/-- FINISH: the session opens, with another package only when it has authenticated itself as well (R401). -/
def execFinish (who : BitVec 9) (s : State) : Result :=
  .next (afterStep who (·.exchanged.isSome) s fun x =>
    if who.toNat < 256 && !Config.peerGenuine s.tick (who.setWidth 8) then spdmError who "DecryptError" (putSpdm who { x with exchanged := none } s)
    else say who "FINISH_RSP" [] (putSpdm who { x with exchanged := none, session := x.exchanged, updates := 0 } s))

/-- The requests by which the engine attests another package and opens a session with it (R401, R406). -/
def requesterFlow : List String :=
  ["GET_VERSION", "GET_CAPABILITIES", "NEGOTIATE_ALGORITHMS", "GET_DIGESTS", "GET_CERTIFICATE", "CHALLENGE", "GET_MEASUREMENTS", "KEY_EXCHANGE", "FINISH"]

/-- The engine as requester toward a new member with a higher number, with which it has no session: it attests it, and the session opens when
the two have authenticated each other (R401, R403, R406). -/
def openSession (m : Byte) (s : State) : State :=
  if m.toNat ≤ s.pkg.number.toNat || (s.pkg.prk m).isSome then s
  else
    let s1 := requesterFlow.foldl (fun s code => say (m.setWidth 9) code [] s) s
    if Config.peerGenuine s.tick m then
      s1.onPkg fun p => { p with trust := { p.trust with sessions := aput m.toNat (Config.sessionSecret s.tick m.toNat) p.trust.sessions } }
    else s1

/-- END_SESSION. -/
def execEndSession (who : BitVec 9) (s : State) : Result :=
  .next (afterStep who (·.session.isSome) s fun x => say who "END_SESSION_ACK" [] (putSpdm who { x with session := none, updates := 0 } s))

/-- KEY_UPDATE: the session's keys move on. -/
def execKeyUpdate (who : BitVec 9) (s : State) : Result :=
  .next (afterStep who (·.session.isSome) s fun x => say who "KEY_UPDATE_ACK" [] (putSpdm who { x with updates := x.updates + 1 } s))

/-- HEARTBEAT. -/
def execHeartbeat (who : BitVec 9) (s : State) : Result :=
  .next (afterStep who (·.session.isSome) s fun _ => say who "HEARTBEAT_ACK" [] s)

/-! ### IDE (R410) -/

/-- The host's security manager. -/
abbrev hostManager : BitVec 9 := 256

/-- A virtual function changed. -/
def onVf (n : Nat) (f : Vf → Vf) (s : State) : State :=
  s.onPkg fun p => { p with host := { p.host with vfs := p.host.vfs.mapFinIdx fun i x _ => if i + 1 = n then f x else x } }

/-- IDE_KM: the key of a selective stream, over the host's session: 0 the physical function's, 1-16 an interface's (R410). -/
def execIdeKm (fn : BitVec 5) (key : BitVec 256) (s : State) : Result :=
  .next (afterStep hostManager (·.session.isSome) s fun _ =>
    if 16#5 < fn then spdmError hostManager "InvalidRequest" s
    else say hostManager "IDE_KM_ACK" [fn.toNat]
      (if fn = 0 then s.onPkg fun p => { p with host := { p.host with ideKey := some key } } else onVf fn.toNat (fun f => { f with ideKey := some key }) s))

/-! ### TDISP (R411, R412) -/

/-- The contexts of a virtual function (R416). -/
def Package.ownedBy (p : Package) (n : Nat) : List (BitVec 6) := (p.contexts.filter fun e => e.2.owner.toNat == n).map fun e => BitVec.ofNat 6 e.1

/-- An answer about an interface. -/
def tdisp (code : String) (n : Nat) (s : State) : State := say hostManager code [n] s

/-- Every launch of some contexts ends with ACCESS: those that wait are over at once, and those that run are drained; records not yet read end so
when they are read (R412). -/
def endLaunches (cs : List (BitVec 6)) (s : State) : State :=
  let refused (l : Launch) : Launch := if cs.contains l.ctx && l.st == .candidate then { l with st := .ended, status := some cACCESS } else l
  let s1 := s.onPkg fun p => { p with launches := p.launches.map refused }
  ((s1.pkg.launches.filter fun l : Launch => cs.contains l.ctx && l.st == .admitted).map (·.id)).foldl (fun s id => endLaunch id cACCESS s) s1

/-- An interface enters ERROR (R412). -/
def enterError (n : Nat) (s : State) : State := endLaunches (s.pkg.ownedBy n) (onVf n (fun f => { f with st := .error }) s)

/-- Whether an interface is locked: its frozen registers may not change. -/
def Vf.locked (f : Vf) : Bool := f.st == .locked || f.st == .run

/-- A range of an interface report: first 4 KiB page, pages, whether it is TEE, whether it holds the MSI-X table or PBA, and whether it can be
updated (R412). -/
structure MmioRange where
  page : Nat
  pages : Nat
  tee : Bool
  msix : Bool
  updatable : Bool
  deriving DecidableEq, Repr

/-- An interface report: INTERFACE_INFO says DMA requests without PASID and no ATS, and the ranges are the registers, the MSI-X table, the PBA, and
the aperture slots of the virtual function (R412, R413). -/
structure InterfaceReport where
  dmaWithoutPasid : Bool
  ats : Bool
  ranges : List MmioRange
  deriving DecidableEq, Repr

/-- The report of virtual function n (1 to 16), whose BARs lie one after another from the addresses of the VF BAR registers (R412, R413). -/
def interfaceReport (n : Nat) (h : HostPort) : InterfaceReport :=
  let bar0 := (h.vfBar.toNat + (n - 1) * 2 ^ 16) / 4096
  let bar2 := (h.vfBar2.toNat + (n - 1) * 2 ^ 20) / 4096
  { dmaWithoutPasid := true, ats := false,
    ranges := [⟨bar0, 14, true, false, false⟩, ⟨bar0 + 14, 1, false, true, true⟩, ⟨bar0 + 15, 1, false, true, false⟩, ⟨bar2, 256, true, false, false⟩] }

/-- LOCK_INTERFACE_REQUEST: with its IDE stream keyed and its BARs enabled (R411). -/
def execLockInterfaceRequest (vf : BitVec 5) (s : State) : Result :=
  .next (responds s (match s.vfOf vf.toNat with
    | none => s
    | some f =>
      if f.st == .unlocked && !f.stopping && f.ideKey.isSome && s.pkg.host.vfEnable.getLsbD 0 && vf.toNat ≤ s.pkg.host.numVfs.toNat then
        tdisp "LOCK_INTERFACE_RESPONSE" vf.toNat (onVf vf.toNat (fun f => { f with st := .locked }) s)
      else tdisp "TDISP_ERROR" vf.toNat s))

/-- START_INTERFACE_REQUEST (R411). -/
def execStartInterfaceRequest (vf : BitVec 5) (s : State) : Result :=
  .next (responds s (match s.vfOf vf.toNat with
    | none => s
    | some f =>
      if f.st == .locked && !f.stopping then tdisp "START_INTERFACE_RESPONSE" vf.toNat (onVf vf.toNat (fun f => { f with st := .run }) s)
      else tdisp "TDISP_ERROR" vf.toNat s))

/-- STOP_INTERFACE_REQUEST: the scrub begins with a drain of every board of the interface's contexts (R412); the interface keeps its state until
the scrub completes (R411). -/
def execStopInterfaceRequest (vf : BitVec 5) (s : State) : Result :=
  .next (responds s (match s.vfOf vf.toNat with
    | none => s
    | some f =>
      if f.stopping then s
      else endLaunches (s.pkg.ownedBy vf.toNat) (onVf vf.toNat (fun f => { f with stopping := true }) s)))

/-- A context is torn down: what of it the package holds is gone, with the launches of it that were not admitted (R416). -/
def tearDown (ctx : BitVec 6) (p : Package) : Package :=
  { p with
    contexts := adel ctx.toNat p.contexts
    tlb := p.tlb.filter fun e : TlbEntry => e.ctx != ctx
    bound := p.bound.filter fun b : Bound => b.ctx != ctx
    flagWrites := p.flagWrites.filter fun w : FlagWrite => w.ctx != ctx
    launches := p.launches.filter fun l : Launch => l.ctx != ctx }

/-- The L2 lines of a context are invalidated without write-back (R412). A line of a page that it has used and that the L2 keeps (NC = 0 and
MS = 0, R204) may have been modified there: its bytes are then what the level below holds, a free value (log 75), but for a
far-tier byte whose last write the CXL device is known to have completed (R239). -/
def loseLines (tick : Nat) (ctx : BitVec 6) (p : Package) : Package :=
  (p.tlb.filter fun e : TlbEntry => e.ctx == ctx && !attrNC e.attr && !attrMS e.attr).foldl (fun p e =>
    (List.range (2 ^ 16)).foldl (fun p i =>
      let k := physKey e.attr (e.pa + i)
      match Config.belowL2 tick k with
      | some b => if p.cxl.contains (k, none) then p else p.write k [b]
      | none => p) p) p

/-- SCRUB_COMPLETE: once every board is released, the contexts lose their L2 lines and are torn down, and the interface is unlocked; only then does it
answer (R412). The stores of released cells are zero. -/
def execScrubComplete (vf : BitVec 5) (s : State) : Result :=
  .next (match s.vfOf vf.toNat with
    | none => s
    | some f =>
      let cs := s.pkg.ownedBy vf.toNat
      if !f.stopping || s.pkg.boards.any fun b => cs.contains b.ctx then s
      else
        tdisp "STOP_INTERFACE_RESPONSE" vf.toNat
          (onVf vf.toNat (fun f => { f with st := .unlocked, stopping := false }) (s.onPkg fun p => cs.foldl (fun p c => tearDown c (loseLines s.tick c p)) p)))

/-- A frozen register of a virtual function. -/
def frozenValue (n : Nat) (reg : FrozenReg) (s : State) : Word :=
  let f := (s.vfOf n).getD Vf.reset
  match reg with
  | .vfBar => s.pkg.host.vfBar
  | .vfBar2 => s.pkg.host.vfBar2
  | .numVfs => s.pkg.host.numVfs
  | .vfEnable => s.pkg.host.vfEnable
  | .command => f.command
  | .msix => f.msix

/-- The vectors of a virtual function that wait and are masked no longer are sent (R414). -/
def sendPending (n : Nat) (s : State) : State :=
  [false, true].foldl (fun s vec =>
    let i : Fin 2 := if vec then 1 else 0
    match s.vfOf n with
    | some f =>
      if f.msixOn && !f.allMasked && !f.masked[i] && f.pendingBit[i] then
        emit (.msix (BitVec.ofNat 5 n) vec f.table[i].1 f.table[i].2) (onVf n (fun f => { f with pendingBit := f.pendingBit.set i.val false }) s)
      else s
    | none => s) s

/-- A frozen register written. -/
def putFrozen (n : Nat) (reg : FrozenReg) (v : Word) (s : State) : State :=
  match reg with
  | .vfBar => s.onPkg fun p => { p with host := { p.host with vfBar := v } }
  | .vfBar2 => s.onPkg fun p => { p with host := { p.host with vfBar2 := v } }
  | .numVfs => s.onPkg fun p => { p with host := { p.host with numVfs := v } }
  | .vfEnable => s.onPkg fun p => { p with host := { p.host with vfEnable := v } }
  | .command => onVf n (fun f => { f with command := v }) s
  | .msix => sendPending n (onVf n (fun f => { f with msix := v }) s)

/-- Whether every interface shares a frozen register (R412). -/
def sharedReg : FrozenReg → Bool
  | .vfBar | .vfBar2 | .numVfs | .vfEnable => true
  | .command | .msix => false

/-- FROZEN_REGISTER_WRITE: a change sends the locked interfaces that the register belongs to into ERROR (R411, R412). -/
def execFrozenRegisterWrite (vf : BitVec 5) (reg : FrozenReg) (val : Word) (s : State) : Result :=
  .next (responds s (if frozenValue vf.toNat reg s = val then s
    else
      let hit := ((List.range 16).map (· + 1)).filter fun n => (sharedReg reg || n == vf.toNat) && (s.vfOf n).any Vf.locked
      hit.foldl (fun s n => enterError n s) (putFrozen vf.toNat reg val s)))

/-- IDE_INTEGRITY_FAILURE on an interface's stream (R411). -/
def execIdeIntegrityFailure (vf : BitVec 5) (s : State) : Result :=
  .next (if (s.vfOf vf.toNat).any Vf.locked then enterError vf.toNat s else s)

end Sys2Proof.Machine
end

