-- ==== Sys2Proof/Machine/Host.lean ====
section
/-! DEFINITION. The host interface: the registers of PF BAR 0 and of a virtual function (R413-R415), the mailbox operations (R312, R416),
power and clock (R417, R418), and bring-up (R419). -/

namespace Sys2Proof.Machine

/-! ### Registers (R413-R415) -/

/-- The host port changed. -/
def State.onHost (f : HostPort → HostPort) (s : State) : State := s.onPkg fun p => { p with host := f p.host }

/-- Whether the registers of the mailbox take writes: not in stages 0-3, and not while an operation is in progress (R415). -/
def HostPort.open (h : HostPort) : Bool := h.powered && h.stage.toNat ≥ 4 && !h.busy

/-- The staging window with one dword rewritten. -/
def putDesc (off : Nat) (val : Word) (d : List Byte) : List Byte := d.take off ++ bytesOf 8 val.toNat ++ d.drop (off + 8)

/-- A write to the mailbox registers: MBOP starts an operation (R415). -/
def writeMailbox (off : Nat) (val : Word) (h : HostPort) : HostPort :=
  if !h.open then h
  else if off = 0x040 then { h with mbop := val.setWidth 8, busy := true, result := none }
  else if off = 0x048 then { h with arg0 := val }
  else if off = 0x050 then { h with arg1 := val }
  else if 0x100 ≤ off ∧ off ≤ 0x138 ∧ off % 8 = 0 then { h with desc := putDesc (off - 0x100) val h.desc }
  else h

/-- The word of STATE (R415). -/
def HostPort.stateWord (h : HostPort) : Word :=
  fields [(h.stage.toNat, 0), (h.ps.toNat, 4), (h.clk.toNat, 8), (if h.trip then 1 else 0, 16), (h.tsrc.toNat, 17)]

/-- What a read of a register of PF BAR 0 gives; all other bits read 0 (R415). -/
def HostPort.pfRead (off : Nat) (h : HostPort) : Word :=
  if off = 0x000 then h.stateWord
  else if off = 0x040 then h.mbop.setWidth 64
  else if off = 0x048 then h.arg0
  else if off = 0x050 then h.arg1
  else if off = 0x058 then fields [(if h.busy then 1 else 0, 63), (h.mbstat.toNat, 0)]
  else if 0x100 ≤ off ∧ off ≤ 0x138 ∧ off % 8 = 0 then wordOfBytes ((h.desc.drop (off - 0x100)).take 8)
  else 0

/-- What a read of VF BAR 0 gives: STATE, the MSI-X table and its pending bits, and otherwise 0 (R413, R414). -/
def HostPort.vfRead (f : Vf) (off : Nat) (h : HostPort) : Word :=
  let e (i : Nat) : Word × W32 := f.table.toList.getD i (0, 0)
  let masked (i : Nat) : Nat := if f.masked.toList.getD i true then 1 else 0
  let pending (i : Nat) : Nat := if f.pendingBit.toList.getD i false then 1 else 0
  if off = 0x000 then h.stateWord
  else if off = 0xE000 ∨ off = 0xE010 then (e ((off - 0xE000) / 16)).1
  else if off = 0xE008 ∨ off = 0xE018 then let i := (off - 0xE000) / 16; fields [((e i).2.toNat, 0), (masked i, 32)]
  else if off = 0xF000 then fields [(pending 0, 0), (pending 1, 1)]
  else 0

/-- What a read of a register of an aperture slot gives (R220); a slot that is attached to no stream has no HEAD, TETHER or STATUS, and they read 0
(log 64). -/
def apertureRead (slot : Byte) (off : Nat) (p : Package) : Word :=
  let a := (aget p.apertures slot.toNat).getD ⟨false, 0, 0, 0⟩
  let r := (apertureStream slot p).map fun q => p.record q.2.pa
  if off = 0x000 then fields [(if a.en then 1 else 0, 63), (a.ctx.toNat, 16), (a.num.toNat, 0)]
  else if off = 0x008 then r.elim 0 fun r => r.head.setWidth 64
  else if off = 0x010 then r.elim 0 fun r => ((r.slots.getD 7 ⟨false, 0, 0⟩).pos).setWidth 64
  else if off = 0x018 then r.elim 0 fun r => fields [(if r.closed then 1 else 0, 63), (r.err.toNat, 48), (r.tail.toNat, 0)]
  else if off = 0x020 then a.view.setWidth 64
  else 0

/-- A host read of 8 bytes of a register: none is Unsupported Request (R411-R413). A virtual function reads the slots of its own BAR 2. The MSI-X
pages are non-TEE. -/
def registerRead (via : HostPath) (slot : Option Byte) (off : BitVec 16) (s : State) : Option Word :=
  match slot, via with
  | some j, .pf => if slotDown j s then none else some (apertureRead j off.toNat s.pkg)
  | some j, .vf n tee => if j.toNat / 16 + 1 ≠ n.toNat || slotDown j s || !admitted (.vf n tee) s then none else some (apertureRead j off.toNat s.pkg)
  | none, .pf => some (s.pkg.host.pfRead off.toNat)
  | none, .vf n tee =>
    if !admitted (.vf n (tee || 0xE000 ≤ off.toNat)) s then none else (s.vfOf n.toNat).map fun f => s.pkg.host.vfRead f off.toNat

/-- A write to the MSI-X table of a virtual function: each entry holds an address, data and a control word, whose bit 0 masks the vector
(R414). -/
def writeMsix (off : Nat) (val : Word) (f : Vf) : Vf :=
  if off < 0xE000 ∨ 0xE020 ≤ off ∨ off % 8 ≠ 0 then f
  else
    let i := (off - 0xE000) / 16
    let entry (e : Word × W32) : Word × W32 := if off % 16 = 0 then (val, e.2) else (e.1, val.setWidth 32)
    let table := f.table.mapFinIdx fun j e _ => if j = i then entry e else e
    if off % 16 = 0 then { f with table := table } else { f with table := table, masked := f.masked.mapFinIdx fun j b _ => if j = i && val.getLsbD 32 then true else b }

/-- REGISTER_WRITE: the mailbox registers, VIEW of an aperture slot, and the MSI-X table, which as the PBA lies in a page that is non-TEE; every
other write is ignored (R220, R413-R415), and so are bits 63:48 and 11:0 of a value written to VIEW (log 64). A write that clears a vector's mask is
MSIX_VECTOR_UNMASK. -/
def execRegisterWrite (via : HostPath) (slot : Option Byte) (off : BitVec 16) (val : Word) (s : State) : Result :=
  .next (match slot, via with
    | some j, via =>
      if off = 0x020 then
        slotRequest via j s (if slotDown j s then s
          else s.onPkg fun p =>
            let a := (aget p.apertures j.toNat).getD ⟨false, 0, 0, 0⟩
            { p with apertures := aput j.toNat { a with view := val.setWidth 48 &&& ~~~(0xFFF#48) } p.apertures })
      else s
    | none, .pf => s.onHost (writeMailbox off.toNat val)
    | none, .vf n tee =>
      if 0xE000 ≤ off.toNat then hostRequest (.vf n true) s (onVf n.toNat (writeMsix off.toNat val) s)
      else hostRequest (.vf n tee) s s)

/-- MSIX_VECTOR_UNMASK: the message whose pending bit is set is sent (R414). -/
def execMsixVectorUnmask (vf : BitVec 5) (vec : Bool) (s : State) : Result :=
  let i : Fin 2 := if vec then 1 else 0
  .next (match s.vfOf vf.toNat with
    | none => s
    | some _ =>
      hostRequest (.vf vf true) s
        (sendPending vf.toNat (onVf vf.toNat (fun f => { f with masked := f.masked.set i.val false }) s)))

/-- TRIP_CLEAR (R415). -/
def execTripClear (s : State) : Result := .next (s.onHost fun h => if h.powered && h.stage.toNat ≥ 4 then { h with trip := false } else h)

/-! ### The mailbox (R415, R416) -/

/-- The operation in progress, if it is the one asked and has not been performed yet, leaves its status; one that leaves another status
than 0 changes nothing (R416). -/
def mailbox (op : Nat) (f : State → Byte × State) (s : State) : State :=
  let h := s.pkg.host
  if h.powered && h.busy && h.mbop.toNat == op && h.result.isNone then
    match f s with
    | (code, t) => (if code = 0 then t else s).onHost fun h => { h with result := some code }
  else s

/-- A mailbox operation whose first argument has only its low n bits. -/
def withArg (n : Nat) (s : State) (f : Nat → Byte × State) : Byte × State :=
  let a := s.pkg.host.arg0.toNat
  if a < 2 ^ n then f a else (cCONFIG_CHECK, s)

/-- MAILBOX_COMPLETION: BUSY falls and MBSTAT takes the status; an operation that R416 does not list is out of range. -/
def execMailboxCompletion (s : State) : Result :=
  let h := s.pkg.host
  let ends (code : Byte) : State := s.onHost fun h => { h with busy := false, mbstat := code, result := none }
  .next (if !h.busy then s
    else match h.result with
      | some code => ends code
      | none => if h.mbop = 0 ∨ 12 < h.mbop.toNat then ends cCONFIG_CHECK else s)

/-! ### Contexts (R312, R363, R416) -/

/-- A micro-op that R363 does not refuse. -/
def microOk (w4 : Bool) (w : Nat) : Bool :=
  let opc := bits w 27 5
  bits w 0 18 == 0 && opc ≤ 17 && (opc < 15 || w4) && 3 ≤ bits w 24 3 && bits w 24 3 ≤ 6

/-- An entry of the recipe table: refused, absent, or a recipe (R363). -/
def recipeOf (d : List Word) : Option (Option Recipe) :=
  let w (i : Nat) : Nat := (d.getD i 0).toNat
  let w4 := bitOf (w 1) 1
  let ops := ((List.range 8).map fun i => bits (w (2 + i / 2)) (32 * (i % 2)) 32).take (bits (w 1) 2 3 + 1)
  if bits (w 1) 5 59 ≠ 0 then none
  else if !bitOf (w 1) 0 then some none
  else if w 6 ≠ 0 ∨ w 7 ≠ 0 ∨ !ops.all (microOk w4) then none
  else some (some ⟨d.getD 0 0, w4, ops.map fun o => (bits o 27 5, bits o 24 3, bits o 21 3, bits o 18 3)⟩)

/-- The user recipes 16-63 of a context (R363). -/
def readRecipes (ctx : BitVec 6) (a : Word) : Reader (List (Nat × Recipe)) :=
  if a = 0 then Reader.pure []
  else (fetchWords ctx a 384).bind fun l =>
    match ((groupsOf 8 48 l).mapM recipeOf) with
    | none => fun p => (.refused cCONFIG_CHECK, p)
    | some rs => Reader.pure ((rs.mapIdx fun i r => r.map fun r => (16 + i, r)).filterMap id)

/-- A stream of a context is bound at set-up; slot 0 of a launch stream is the sequencers' (R312). -/
def bindAtSetUp (ctx : BitVec 6) (strec : Word) (n : Nat) : Reader Bound := fun p =>
  match bindStatus ctx (BitVec.ofNat 15 n) (strec + BitVec.ofNat 64 (128 * n)) p with
  | (.ok (_, some b), p) =>
    let r := p.record b.pa
    let r1 := if n = 0 then r else r.putSlot 0 sequencers r.tail
    (.ok b, { p.write b.pa (recordBytes r1) with bound := p.bound ++ [b] })
  | (.ok (code, none), p) => (.refused code, p)
  | (.stall l v, p) => (.stall l v, p)
  | (.bad, p) => (.refused cACCESS, p)

/-- The position of the first launch record: the tether, at a multiple of 64 (R314). -/
def firstRecord (t : BitVec 48) : BitVec 48 := (t + 63) &&& ~~~(63#48)

/-- The context that a set-up names. -/
def setUpCtx (s : State) : BitVec 6 := s.pkg.host.arg0.setWidth 6

/-- Whether the context of a set-up stands from an earlier try that met a stall: no stream of it but 0 is bound, and no priority exists yet. -/
def stillborn (s : State) : Bool :=
  match aget s.pkg.contexts (setUpCtx s).toNat with
  | some c => c.prioMask == 0 && c.maxBlk == 0
  | none => false

/-- A context as a set-up begins with it: what an earlier try that met a stall has posted of it stays. -/
def Context.begun (old : Option Context) (c : Context) : Context :=
  old.elim c fun x => { c with overflow := x.overflow, lost := x.lost, noticed := x.noticed }

/-- What a set-up met: its status, or a translation stall. -/
inductive SetUp where
  | ok (code : Byte)
  | stall (level : Nat) (va : Word)

/-- Context set-up, from the descriptor (R312, R416). While it is held in a stall the context has its stream 0, if that is bound, and nothing else
of the set-up has been written; a later try finds stream 0 bound. -/
def setUp (s : State) : SetUp × State :=
  let a := s.pkg.host.arg0.toNat
  let d := wordsOfBytes 8 s.pkg.host.desc
  let w (i : Nat) : Word := d.getD i 0
  let n := bits a 0 6
  let ctx : BitVec 6 := BitVec.ofNat 6 n
  let owner := bits a 8 5
  let v := (w 5).toNat
  let most := bits v 40 8
  if a ≥ 2 ^ 13 ∨ bits a 6 2 ≠ 0 ∨ 16 < owner ∨ bits (w 0).toNat 52 12 ≠ 0 ∨ bits (w 0).toNat 0 11 ≠ 0 ∨ bits v 0 39 ≠ 0 ∨ w 6 ≠ 0 ∨ w 7 ≠ 0 ∨
      most < 1 ∨ 144 < most then (.ok cCONFIG_CHECK, s)
  else if (aget s.pkg.contexts n).isSome && !stillborn s then (.ok cACCESS, s)
  else if (w 2).toNat % 8 ≠ 0 ∨ (w 4).toNat % 128 ≠ 0 then (.ok cMISALIGNED, s)
  else
    let c : Context :=
      { root := bits (w 0).toNat 11 41 * 2 ^ 11, seed := w 1, mflags := w 2, strec := w 4, prioMask := BitVec.ofNat 16 (bits v 48 16), maxBlk := most, rtok := bitOf v 39, owner := BitVec.ofNat 5 owner, recipes := [], overflow := [], lost := 0, noticed := [], stalled := [], readPos := Vector.replicate 16 0 }
    let p0 : Package := { s.pkg with contexts := aput n (c.begun (aget s.pkg.contexts n)) s.pkg.contexts }
    let bare (p : Package) : State := { s with pkg := p.onCtx ctx fun c => { c with prioMask := 0, maxBlk := 0 } }
    let rest : Reader (List (Nat × Recipe)) :=
      (Reader.each (bindAtSetUp ctx (w 4)) (((List.range 16).filter fun p => c.prioMask.getLsbD p).map (· + 1))).bind fun _ => readRecipes ctx (w 3)
    match (if (p0.boundOf ctx 0).isSome then Reader.pure () else (bindAtSetUp ctx (w 4) 0).bind fun _ => Reader.pure ()) p0 with
    | (.refused code, _) => (.ok code, s)
    | (.stall l v, p) => (.stall l v, bare p)
    | (.ok _, p1) =>
      match rest p1 with
      | (.ok rs, p) =>
        let at' (i : Nat) : BitVec 48 := match p.boundOf ctx (BitVec.ofNat 15 (i + 1)) with | some b => firstRecord (p.record b.pa).tail | none => 0
        (.ok 0, { s with pkg := p.onCtx ctx fun c => { c with recipes := rs, readPos := Vector.ofFn fun i => at' i.val } })
      | (.refused code, _) => (.ok code, s)
      | (.stall l v, _) => (.stall l v, bare p1)

/-- CONTEXT_SET_UP: mailbox operation 1. A translation stall holds it, with its notice, until the resume doorbell of the context, as it holds an
`sbind`; it then begins again (R208, R312; log 47). -/
def execContextSetUp (s : State) : Result :=
  .next (let h := s.pkg.host
    if !(h.powered && h.busy && h.mbop == 1 && h.result.isNone) || h.held then s
    else match setUp s with
      | (.ok code, t) => (if code = 0 then t else s.onPkg fun p => if stillborn s then tearDown (setUpCtx s) p else p).onHost fun h => { h with result := some code }
      | (.stall l v, t) => noteStall (setUpCtx s) sequencers 6 0 l v (t.onHost fun h => { h with held := true }))

/-- CONTEXT_TEARDOWN: operation 2, refused while a launch of the context is admitted (R416). -/
def execContextTeardown (s : State) : Result :=
  .next (mailbox 2 (fun s => withArg 6 s fun n =>
    let ctx : BitVec 6 := BitVec.ofNat 6 n
    if (aget s.pkg.contexts n).isNone || s.pkg.launches.any (fun l : Launch => l.ctx == ctx && l.st == .admitted) then (cACCESS, s)
    else (0, s.onPkg (tearDown ctx))) s)

/-- TLB_SHOOTDOWN: operation 3 (R209). -/
def execTlbShootdown (s : State) : Result :=
  .next (mailbox 3 (fun s => withArg 6 s fun n =>
    (0, s.onPkg fun p => { p with tlb := p.tlb.filter fun e : TlbEntry => e.ctx.toNat != n })) s)

/-! ### Pre-emption (R339, R343, R347) -/

/-- The size of a save area (R342). -/
def Launch.saveSize (l : Launch) : Nat := (l.present.map fun e => 4096 + 64 * e.2.h * e.2.w * 245760).sum

/-- The words of the launch record that a request names, where its stream still holds it and it can be read. -/
def namedRecord (ctx : BitVec 6) (stream : Nat) (pos : BitVec 48) (s : State) : List Word :=
  match s.pkg.boundOf ctx (BitVec.ofNat 15 stream) with
  | none => []
  | some b =>
    let r := s.pkg.record b.pa
    if pos.toNat % 64 ≠ 0 || before pos r.tail || before r.head (pos + 64) then []
    else match (readRecordAt b r pos s).1 with | .ok d => d | _ => []

/-- A request for pre-emption: refused when the launch does not run, when it is already being pre-empted, and when the save area lacks
permission; a launch frozen by a fault is answered once it completes. TAG is from the launch record, also of one not read yet (R343). -/
def askPreempt (s : State) : State × Byte :=
  let a := s.pkg.host.arg0.toNat
  let b := s.pkg.host.arg1
  let ctx : BitVec 6 := BitVec.ofNat 6 (bits a 53 6)
  let stream := bits a 48 5
  let pos : BitVec 48 := BitVec.ofNat 48 (bits a 0 48)
  let save : Word := b &&& ~~~(0xFFF#64)
  if bits a 59 5 ≠ 0 ∨ stream = 0 ∨ 16 < stream then (s, cCONFIG_CHECK)
  else match s.pkg.launches.find? fun l : Launch => l.ctx == ctx && l.prio + 1 == stream && l.pos == pos with
    | none => (post ctx (ackRecord (launchOf 0 ctx (stream - 1) pos (namedRecord ctx stream pos s) ([], [], [])) save cACCESS 0) s, cACCESS)
    | some l =>
      let refused : State × Byte := (post ctx (ackRecord l save cACCESS 0) s, cACCESS)
      if l.st != .admitted || l.preempt.isSome || l.complete s.pkg then refused
      else if l.status.isSome then (s.onPkg (Package.onLaunch l.id fun l => { l with late := l.late ++ [save] }), cACCESS)
      else match (placeRange true true ctx save.toNat l.saveSize s.pkg).1 with
        | .bad => refused
        | _ =>
          (s.onPkg fun p =>
            { p.onLaunch l.id (fun l => { l with preempt := some ⟨save, bits b.toNat 0 12⟩ }) with
              boards := p.boards.map fun x => if x.launch == some l.id && x.phase == .running then { x with phase := .preempting } else x }, 0)

/-- PRE_EMPTION: operation 4. Its refusals publish their acknowledgement records. -/
def execPreEmption (s : State) : Result :=
  let h := s.pkg.host
  .next (if h.powered && h.busy && h.mbop == 4 && h.result.isNone then
      (match askPreempt s with | (t, code) => t.onHost fun h => { h with result := some code })
    else s)

/-! ### The link (R350, R351, R369, R416) -/

/-- A route entry, when it leaves the paths of the target without a gap (R416). -/
def routeEntry (s : State) : Byte × State :=
  withArg 16 s fun a =>
    let t : Byte := BitVec.ofNat 8 a
    let i := bits a 8 2
    let port := bits a 10 5
    let v := bitOf a 15
    let P := s.pkg.peer t
    let ports := P.ports.mapFinIdx fun j o _ => if j = i then (if v then some (BitVec.ofNat 5 port) else none) else o
    let gapless := (ports.toList.dropWhile Option.isSome).all Option.isNone
    if (24 ≤ port && port != 31) || (v && port == 31 && t != s.pkg.number) || !gapless then (cCONFIG_CHECK, s)
    else (0, s.onPkg (Package.onPeer t fun P => { P with ports := ports, live := P.live.mapFinIdx fun j b _ => if j = i then v else b }))

/-- ROUTE_ENTRY: operation 5. -/
def execRouteEntry (s : State) : Result := .next (mailbox 5 routeEntry s)

/-- A dead path is live again: the writes held for a live path are sent, and the requests whose path is dead are resent (R351, R358,
R360). -/
def revive (t : Byte) (i : Nat) (s : State) : State :=
  let waits (p : Package) (o : OutReq) : Bool := match o.path with | none => true | some j => !p.pathLive t j.toNat
  let seqs := ((s.pkg.peer t).out.filter (waits s.pkg)).map (·.req.seq)
  let s1 := s.onPkg (Package.onPeer t fun P => { P with live := P.live.mapFinIdx fun j b _ => if j = i && (P.ports.toList.getD j none).isSome then true else b })
  seqs.foldl (fun s q => resend t q s) s1

/-- PATH_REVIVE: operation 6. -/
def execPathRevive (s : State) : Result :=
  .next (mailbox 6 (fun s => withArg 10 s fun a => (0, revive (BitVec.ofNat 8 a) (bits a 8 2) s)) s)

/-- PEER_CLEAR: operation 7. This package's side of the pair begins again (R369). -/
def execPeerClear (s : State) : Result :=
  .next (mailbox 7 (fun s => withArg 8 s fun a =>
    let t : Byte := BitVec.ofNat 8 a
    let P := s.pkg.peer t
    if !P.failed && !P.out.isEmpty then (cACCESS, s)
    else (0, s.onPkg (Package.onPeer t fun P =>
      { Peer.reset with ports := P.ports, live := P.live, last := P.last, held := P.held }))) s)

/-- LINK_SETTINGS: operation 8. -/
def execLinkSettings (s : State) : Result :=
  .next (mailbox 8 (fun s => withArg 49 s fun a =>
    let timeout := bits a 0 24
    let resend := bits a 24 24
    if timeout < 1 ∨ 10 ^ 7 < timeout ∨ resend < 1 ∨ 10 ^ 7 < resend then (cCONFIG_CHECK, s)
    else (0, s.onPkg fun p => { p with linkTimeout := timeout, resendInterval := resend, skid := bitOf a 48 })) s)

/-! ### Limits, number and membership (R337, R406, R416) -/

/-- WATCHDOG_LIMIT: operation 9. -/
def execWatchdogLimit (s : State) : Result := .next (mailbox 9 (fun s => withArg 48 s fun a => (0, s.onPkg fun p => { p with watchdogLimit := a })) s)

/-- PACKAGE_NUMBER: operation 10. -/
def execPackageNumber (s : State) : Result :=
  .next (mailbox 10 (fun s => withArg 8 s fun a =>
    if !s.pkg.contexts.isEmpty then (cACCESS, s) else (0, s.onPkg fun p => { p with number := BitVec.ofNat 8 a })) s)

/-- PENDING_MEMBERSHIP: operation 11. The security engine attests and opens sessions with every new member (R406). -/
def execPendingMembership (s : State) : Result :=
  .next (mailbox 11 (fun s =>
    let mask : BitVec 256 := BitVec.ofNat 256 (ofBytes (s.pkg.host.desc.take 32))
    (0, (s.pkg.othersOf mask).foldl (fun s m => openSession m s)
      (s.onPkg fun p => { p with trust := { p.trust with pending := some (mask, p.host.arg0) } }))) s)

/-! ### Power (R417, R418) -/

/-- A power operation, when it names the state; the clock's field is that of PS0 (R416). -/
def powerOp (ps : Nat) (f : State → Nat → Byte × State) (s : State) : State :=
  if bits s.pkg.host.arg0.toNat 0 2 = ps then
    mailbox 12 (fun s =>
      let a := s.pkg.host.arg0.toNat
      if 2 ^ 16 ≤ a ∨ bits a 2 6 ≠ 0 then (cCONFIG_CHECK, s) else f s (bits a 8 8)) s
  else s

/-- POWER_STATE_PS0: the clock stops until it has changed; from PS2 the fabric is reset, and the allocator looks again at the blocks
that are free (R417). -/
def execPowerStatePs0 (s : State) : Result :=
  .next (powerOp 0 (fun s c =>
    if c < 10 ∨ 25 < c then (cCONFIG_CHECK, s)
    else
      let s1 := if s.pkg.host.ps = 2 then { s with cell := Cell.reset, others := [] } else s
      (0, (s1.onHost fun h => { h with ps := 0, clk := BitVec.ofNat 8 c, gated := 0, clockStopped := true }).onPkg fun p => { p with allocDue := true })) s)

/-- POWER_STATE_PS1: no block that holds a board may be gated (R417). -/
def execPowerStatePs1 (s : State) : Result :=
  .next (powerOp 1 (fun s _ =>
    let mask : BitVec 144 := BitVec.ofNat 144 (ofBytes (s.pkg.host.desc.take 18))
    let taken := s.pkg.boards.map Board.rect
    let hit := (List.range 144).any fun i => mask.getLsbD i && taken.any fun q => q.has (i / 36) (i % 36 / 6) (i % 6)
    if s.pkg.host.ps = 2 || hit then (cACCESS, s) else (0, s.onHost fun h => { h with ps := 1, gated := mask })) s)

/-- POWER_STATE_PS2: memory and contexts are kept (R417). -/
def execPowerStatePs2 (s : State) : Result :=
  .next (powerOp 2 (fun s _ => if s.pkg.host.ps = 2 || !s.pkg.boards.isEmpty then (cACCESS, s) else (0, s.onHost fun h => { h with ps := 2 })) s)

/-- The module without power: all state is lost but the record of a trip (R417, R418). -/
def turnedOff (trip : Bool) (src : BitVec 3) (s : State) : State :=
  { State.reset with agenda := s.agenda, tick := s.tick, pkg := { Package.reset with host := { HostPort.reset with trip := trip, tsrc := src }, outbox := s.pkg.outbox } }

/-- POWER_STATE_PS3: allowed from every state (R417). -/
def execPowerStatePs3 (s : State) : Result :=
  let t := powerOp 3 (fun s _ => (0, s)) s
  .next (if t.pkg.host.result = some 0 ∧ s.pkg.host.result ≠ some 0 then turnedOff s.pkg.host.trip s.pkg.host.tsrc s else t)

/-- CLOCK_RESTART (R417). -/
def execClockRestart (s : State) : Result := .next (s.onHost fun h => { h with clockStopped := false })

/-- THERMAL_TRIP: sources 0-3 are the fabric dies and 4 the coolant outlet (R418). -/
def execThermalTrip (src : BitVec 3) (s : State) : Result := .next (if s.pkg.host.powered && src.toNat ≤ 4 then turnedOff true src s else s)

/-! ### Bring-up (R419) -/

/-- POWER_ON: STAGE 1. The far-tier decoders hold from then on the ranges that the runtime programs into them, of which the spec gives no register
(R413; log 2). -/
def execPowerOn (s : State) : Result :=
  .next (if s.pkg.host.powered then s
    else (s.onHost fun h => { h with powered := true, stage := 1 }).onPkg fun p => { p with far := Config.farRanges })

/-- STAGE_ADVANCE: stages 1 to 3 lead to the next or, when self-test fails, to 7. -/
def execStageAdvance (ok : Bool) (s : State) : Result :=
  .next (s.onHost fun h => if h.powered && 1 ≤ h.stage.toNat && h.stage.toNat ≤ 3 then { h with stage := if ok then h.stage + 1 else 7 } else h)

end Sys2Proof.Machine
end

