-- ==== Sys2Proof/Machine/Dispatch.lean ====
section
/-! DEFINITION. Dispatch: one arm per constructor of `Instr`, each one direct call of its meaning. -/

namespace Sys2Proof.Machine

/-- What an instruction or a step of the hardware does. -/
def exec (i : Instr) (s : State) : Host.Outcome State Fault Refusal :=
  match i with
  | .add d a b w => Sys2Proof.Machine.execAdd d a b w s
  | .sub d a b w => Sys2Proof.Machine.execSub d a b w s
  | .and d a b => Sys2Proof.Machine.execAnd d a b s
  | .or d a b => Sys2Proof.Machine.execOr d a b s
  | .xor d a b => Sys2Proof.Machine.execXor d a b s
  | .andn d a b => Sys2Proof.Machine.execAndn d a b s
  | .orn d a b => Sys2Proof.Machine.execOrn d a b s
  | .shl d a b w => Sys2Proof.Machine.execShl d a b w s
  | .shr d a b w => Sys2Proof.Machine.execShr d a b w s
  | .sra d a b w => Sys2Proof.Machine.execSra d a b w s
  | .rotl d a b w => Sys2Proof.Machine.execRotl d a b w s
  | .min d a b => Sys2Proof.Machine.execMin d a b s
  | .max d a b => Sys2Proof.Machine.execMax d a b s
  | .minu d a b => Sys2Proof.Machine.execMinu d a b s
  | .maxu d a b => Sys2Proof.Machine.execMaxu d a b s
  | .mul d a b w => Sys2Proof.Machine.execMul d a b w s
  | .mulh d a b => Sys2Proof.Machine.execMulh d a b s
  | .mulhu d a b => Sys2Proof.Machine.execMulhu d a b s
  | .div d a b w => Sys2Proof.Machine.execDiv d a b w s
  | .divu d a b w => Sys2Proof.Machine.execDivu d a b w s
  | .rem d a b w => Sys2Proof.Machine.execRem d a b w s
  | .remu d a b w => Sys2Proof.Machine.execRemu d a b w s
  | .slt d a b => Sys2Proof.Machine.execSlt d a b s
  | .sltu d a b => Sys2Proof.Machine.execSltu d a b s
  | .clz d a w => Sys2Proof.Machine.execClz d a w s
  | .ctz d a w => Sys2Proof.Machine.execCtz d a w s
  | .popc d a w => Sys2Proof.Machine.execPopc d a w s
  | .bswap d a w => Sys2Proof.Machine.execBswap d a w s
  | .sel d a b p => Sys2Proof.Machine.execSel d a b p s
  | .addi d a im => Sys2Proof.Machine.execAddi d a im s
  | .andi d a im => Sys2Proof.Machine.execAndi d a im s
  | .ori d a im => Sys2Proof.Machine.execOri d a im s
  | .xori d a im => Sys2Proof.Machine.execXori d a im s
  | .shli d a si => Sys2Proof.Machine.execShli d a si s
  | .shri d a si => Sys2Proof.Machine.execShri d a si s
  | .srai d a si => Sys2Proof.Machine.execSrai d a si s
  | .slti d a im => Sys2Proof.Machine.execSlti d a im s
  | .sltui d a im => Sys2Proof.Machine.execSltui d a im s
  | .lui d im => Sys2Proof.Machine.execLui d im s
  | .lhi d h im => Sys2Proof.Machine.execLhi d h im s
  | .lea d a b si => Sys2Proof.Machine.execLea d a b si s
  | .extf d a w p => Sys2Proof.Machine.execExtf d a w p s
  | .extfs d a w p => Sys2Proof.Machine.execExtfs d a w p s
  | .insf d a w p => Sys2Proof.Machine.execInsf d a w p s
  | .cmpEq d a b => Sys2Proof.Machine.execCmpEq d a b s
  | .cmpNe d a b => Sys2Proof.Machine.execCmpNe d a b s
  | .cmpLt d a b => Sys2Proof.Machine.execCmpLt d a b s
  | .cmpGe d a b => Sys2Proof.Machine.execCmpGe d a b s
  | .cmpLtu d a b => Sys2Proof.Machine.execCmpLtu d a b s
  | .cmpGeu d a b => Sys2Proof.Machine.execCmpGeu d a b s
  | .pand d a b => Sys2Proof.Machine.execPand d a b s
  | .por d a b => Sys2Proof.Machine.execPor d a b s
  | .pxor d a b => Sys2Proof.Machine.execPxor d a b s
  | .pnot d a => Sys2Proof.Machine.execPnot d a s
  | .pmov d a => Sys2Proof.Machine.execPmov d a s
  | .b disp => Sys2Proof.Machine.execB disp s
  | .bp p disp => Sys2Proof.Machine.execBp p disp s
  | .bnp p disp => Sys2Proof.Machine.execBnp p disp s
  | .bz c disp => Sys2Proof.Machine.execBz c disp s
  | .bnz c disp => Sys2Proof.Machine.execBnz c disp s
  | .call disp => Sys2Proof.Machine.execCall disp s
  | .loop c disp => Sys2Proof.Machine.execLoop c disp s
  | .jr a => Sys2Proof.Machine.execJr a s
  | .jalr d a => Sys2Proof.Machine.execJalr d a s
  | .ret => Sys2Proof.Machine.execRet s
  | .ld d b c si w z o => Sys2Proof.Machine.execLd d b c si w z o s
  | .ldu d b c si w z o => Sys2Proof.Machine.execLdu d b c si w z o s
  | .st d b c si w z o => Sys2Proof.Machine.execSt d b c si w z o s
  | .ldS d b scope si w z o => Sys2Proof.Machine.execLdS d b scope si w z o s
  | .stS d b scope si w z o => Sys2Proof.Machine.execStS d b scope si w z o s
  | .ldSync d b c take si w z o => Sys2Proof.Machine.execLdSync d b c take si w z o s
  | .stFill d b c si w z o => Sys2Proof.Machine.execStFill d b c si w z o s
  | .ldP d b n si w z o => Sys2Proof.Machine.execLdP d b n si w z o s
  | .ldV v b c si w l o => Sys2Proof.Machine.execLdV v b c si w l o s
  | .stV v b c si w l o => Sys2Proof.Machine.execStV v b c si w l o s
  | .amoAdd d a b w ret scope => Sys2Proof.Machine.execAmoAdd d a b w ret scope s
  | .amoAnd d a b w ret scope => Sys2Proof.Machine.execAmoAnd d a b w ret scope s
  | .amoOr d a b w ret scope => Sys2Proof.Machine.execAmoOr d a b w ret scope s
  | .amoXor d a b w ret scope => Sys2Proof.Machine.execAmoXor d a b w ret scope s
  | .amoMin d a b w ret scope => Sys2Proof.Machine.execAmoMin d a b w ret scope s
  | .amoMax d a b w ret scope => Sys2Proof.Machine.execAmoMax d a b w ret scope s
  | .amoMinu d a b w ret scope => Sys2Proof.Machine.execAmoMinu d a b w ret scope s
  | .amoMaxu d a b w ret scope => Sys2Proof.Machine.execAmoMaxu d a b w ret scope s
  | .amoSwap d a b w ret scope => Sys2Proof.Machine.execAmoSwap d a b w ret scope s
  | .amoCas d a b w scope => Sys2Proof.Machine.execAmoCas d a b w scope s
  | .amoFaddF32 d a b ret scope => Sys2Proof.Machine.execAmoFaddF32 d a b ret scope s
  | .amoFaddBf16 d a b ret scope => Sys2Proof.Machine.execAmoFaddBf16 d a b ret scope s
  | .amoFminF32 d a b ret scope => Sys2Proof.Machine.execAmoFminF32 d a b ret scope s
  | .amoFmaxF32 d a b ret scope => Sys2Proof.Machine.execAmoFmaxF32 d a b ret scope s
  | .sbind d a b => Sys2Proof.Machine.execSbind d a b s
  | .sjoin d a => Sys2Proof.Machine.execSjoin d a s
  | .sleave a => Sys2Proof.Machine.execSleave a s
  | .spub a b => Sys2Proof.Machine.execSpub a b s
  | .srel a b => Sys2Proof.Machine.execSrel a b s
  | .shead d a => Sys2Proof.Machine.execShead d a s
  | .stail d a => Sys2Proof.Machine.execStail d a s
  | .sclose a => Sys2Proof.Machine.execSclose a s
  | .fence k scope => Sys2Proof.Machine.execFence k scope s
  | .l1Inv => Sys2Proof.Machine.execL1Inv s
  | .sbwait m => Sys2Proof.Machine.execSbwait m s
  | .fenceEng n b => Sys2Proof.Machine.execFenceEng n b s
  | .feSet a f => Sys2Proof.Machine.execFeSet a f s
  | .feClr a f => Sys2Proof.Machine.execFeClr a f s
  | .feTest d a f => Sys2Proof.Machine.execFeTest d a f s
  | .feMode m a vfile => Sys2Proof.Machine.execFeMode m a vfile s
  | .park a f => Sys2Proof.Machine.execPark a f s
  | .vadd d a b f => Sys2Proof.Machine.execVadd d a b f s
  | .vsub d a b f => Sys2Proof.Machine.execVsub d a b f s
  | .vmul d a b f => Sys2Proof.Machine.execVmul d a b f s
  | .vmin d a b f => Sys2Proof.Machine.execVmin d a b f s
  | .vmax d a b f => Sys2Proof.Machine.execVmax d a b f s
  | .vabs d a f => Sys2Proof.Machine.execVabs d a f s
  | .vneg d a f => Sys2Proof.Machine.execVneg d a f s
  | .vand d a b => Sys2Proof.Machine.execVand d a b s
  | .vor d a b => Sys2Proof.Machine.execVor d a b s
  | .vxor d a b => Sys2Proof.Machine.execVxor d a b s
  | .vshl d a b f => Sys2Proof.Machine.execVshl d a b f s
  | .vshr d a b f => Sys2Proof.Machine.execVshr d a b f s
  | .vsra d a b f => Sys2Proof.Machine.execVsra d a b f s
  | .vcmp d a b f => Sys2Proof.Machine.execVcmp d a b f s
  | .vsel d a b f => Sys2Proof.Machine.execVsel d a b f s
  | .vfadd d a b f => Sys2Proof.Machine.execVfadd d a b f s
  | .vfsub d a b f => Sys2Proof.Machine.execVfsub d a b f s
  | .vfmul d a b f => Sys2Proof.Machine.execVfmul d a b f s
  | .vfma d a b f => Sys2Proof.Machine.execVfma d a b f s
  | .vfmin d a b f => Sys2Proof.Machine.execVfmin d a b f s
  | .vfmax d a b f => Sys2Proof.Machine.execVfmax d a b f s
  | .vfabs d a f => Sys2Proof.Machine.execVfabs d a f s
  | .vfneg d a f => Sys2Proof.Machine.execVfneg d a f s
  | .vfcmp d a b f => Sys2Proof.Machine.execVfcmp d a b f s
  | .vcvt d a dst src => Sys2Proof.Machine.execVcvt d a dst src s
  | .vpack d a dst src => Sys2Proof.Machine.execVpack d a dst src s
  | .vunpack d a dst src => Sys2Proof.Machine.execVunpack d a dst src s
  | .vrcp d a => Sys2Proof.Machine.execVrcp d a s
  | .vrsq d a => Sys2Proof.Machine.execVrsq d a s
  | .vexp2 d a => Sys2Proof.Machine.execVexp2 d a s
  | .vlog2 d a => Sys2Proof.Machine.execVlog2 d a s
  | .vrcpstep d a b => Sys2Proof.Machine.execVrcpstep d a b s
  | .vrsqstep d a b => Sys2Proof.Machine.execVrsqstep d a b s
  | .vsum d a f => Sys2Proof.Machine.execVsum d a f s
  | .vmaxr d a f => Sys2Proof.Machine.execVmaxr d a f s
  | .vperm d a b => Sys2Proof.Machine.execVperm d a b s
  | .vbcast d a im f => Sys2Proof.Machine.execVbcast d a im f s
  | .vbfly d a k f => Sys2Proof.Machine.execVbfly d a k f s
  | .vlen d a n => Sys2Proof.Machine.execVlen d a n s
  | .vbscale d a b f => Sys2Proof.Machine.execVbscale d a b f s
  | .vquant d a b f => Sys2Proof.Machine.execVquant d a b f s
  | .vdequant d a b f => Sys2Proof.Machine.execVdequant d a b f s
  | .vsmerge d a b => Sys2Proof.Machine.execVsmerge d a b s
  | .vdice d a si f32 => Sys2Proof.Machine.execVdice d a si f32 s
  | .vcsc d a b => Sys2Proof.Machine.execVcsc d a b s
  | .vnorm d a b f => Sys2Proof.Machine.execVnorm d a b f s
  | .recv d c g p => Sys2Proof.Machine.execRecv d c g p s
  | .peek d c g p => Sys2Proof.Machine.execPeek d c g p s
  | .send q a psn inv p => Sys2Proof.Machine.execSend q a psn inv p s
  | .sendx q a psn inv p w => Sys2Proof.Machine.execSendx q a psn inv p w s
  | .drop c => Sys2Proof.Machine.execDrop c s
  | .clen d c => Sys2Proof.Machine.execClen d c s
  | .hndEnd => Sys2Proof.Machine.execHndEnd s
  | .hndMask a => Sys2Proof.Machine.execHndMask a s
  | .hndUnmask a => Sys2Proof.Machine.execHndUnmask a s
  | .hndPrio a b => Sys2Proof.Machine.execHndPrio a b s
  | .hndBind a b => Sys2Proof.Machine.execHndBind a b s
  | .hndSelf d => Sys2Proof.Machine.execHndSelf d s
  | .ctlDone q a => Sys2Proof.Machine.execCtlDone q a s
  | .ctlPermit q a b => Sys2Proof.Machine.execCtlPermit q a b s
  | .ctlWait d c => Sys2Proof.Machine.execCtlWait d c s
  | .argSet a b => Sys2Proof.Machine.execArgSet a b s
  | .cfgLoad d a b => Sys2Proof.Machine.execCfgLoad d a b s
  | .cfgDrain d b => Sys2Proof.Machine.execCfgDrain d b s
  | .rld d a b u z => Sys2Proof.Machine.execRld d a b u z s
  | .rst d a b z => Sys2Proof.Machine.execRst d a b z s
  | .rstO d a b z => Sys2Proof.Machine.execRstO d a b z s
  | .rfence d => Sys2Proof.Machine.execRfence d s
  | .mcred d a b => Sys2Proof.Machine.execMcred d a b s
  | .grpSet d a b => Sys2Proof.Machine.execGrpSet d a b s
  | .ramo d a b w ret n => Sys2Proof.Machine.execRamo d a b w ret n s
  | .cvOpen d a b => Sys2Proof.Machine.execCvOpen d a b s
  | .cvBind d a b => Sys2Proof.Machine.execCvBind d a b s
  | .cvSend d a b => Sys2Proof.Machine.execCvSend d a b s
  | .cvRecv d a c p => Sys2Proof.Machine.execCvRecv d a c p s
  | .cvChoose d a => Sys2Proof.Machine.execCvChoose d a s
  | .cvOffer d a c => Sys2Proof.Machine.execCvOffer d a c s
  | .cvDeleg d a b => Sys2Proof.Machine.execCvDeleg d a b s
  | .cvClose d a => Sys2Proof.Machine.execCvClose d a s
  | .cvState d a b => Sys2Proof.Machine.execCvState d a b s
  | .tdBar d a => Sys2Proof.Machine.execTdBar d a s
  | .tdStat d => Sys2Proof.Machine.execTdStat d s
  | .nop => Sys2Proof.Machine.execNop s
  | .trap c e p => Sys2Proof.Machine.execTrap c e p s
  | .eret => Sys2Proof.Machine.execEret s
  | .fault c => Sys2Proof.Machine.execFault c s
  | .brk => Sys2Proof.Machine.execBrk s
  | .csrr d k => Sys2Proof.Machine.execCsrr d k s
  | .csrw d a k => Sys2Proof.Machine.execCsrw d a k s
  | .csrs d a k => Sys2Proof.Machine.execCsrs d a k s
  | .csrc d a k => Sys2Proof.Machine.execCsrc d a k s
  | .mxLd h w1 w2 w3 => Sys2Proof.Machine.execMxLd h w1 w2 w3 s
  | .mxSt h w1 w2 w3 => Sys2Proof.Machine.execMxSt h w1 w2 w3 s
  | .mxMma h w1 w2 w3 => Sys2Proof.Machine.execMxMma h w1 w2 w3 s
  | .mxMv h w1 w2 w3 => Sys2Proof.Machine.execMxMv h w1 w2 w3 s
  | .mxZero h w1 w2 w3 => Sys2Proof.Machine.execMxZero h w1 w2 w3 s
  | .mxDrain h w1 w2 w3 => Sys2Proof.Machine.execMxDrain h w1 w2 w3 s
  | .mxSmax h w1 w2 w3 => Sys2Proof.Machine.execMxSmax h w1 w2 w3 s
  | .mxAccld h w1 w2 w3 => Sys2Proof.Machine.execMxAccld h w1 w2 w3 s
  | .mxAccst h w1 w2 w3 => Sys2Proof.Machine.execMxAccst h w1 w2 w3 s
  | .mxLoop h w1 w2 w3 => Sys2Proof.Machine.execMxLoop h w1 w2 w3 s
  | .cpNd h w1 w2 w3 => Sys2Proof.Machine.execCpNd h w1 w2 w3 s
  | .cpGather h w1 w2 w3 => Sys2Proof.Machine.execCpGather h w1 w2 w3 s
  | .cpFill h w1 w2 w3 => Sys2Proof.Machine.execCpFill h w1 w2 w3 s
  | .kvWalk h w1 w2 w3 => Sys2Proof.Machine.execKvWalk h w1 w2 w3 s
  | .kvLdk h w1 w2 w3 => Sys2Proof.Machine.execKvLdk h w1 w2 w3 s
  | .kvLdv h w1 w2 w3 => Sys2Proof.Machine.execKvLdv h w1 w2 w3 s
  | .kvPagein h w1 w2 w3 => Sys2Proof.Machine.execKvPagein h w1 w2 w3 s
  | .kvFree h w1 w2 w3 => Sys2Proof.Machine.execKvFree h w1 w2 w3 s
  | .skScore h w1 w2 w3 => Sys2Proof.Machine.execSkScore h w1 w2 w3 s
  | .chRun h w1 w2 w3 => Sys2Proof.Machine.execChRun h w1 w2 w3 s
  | .gsArm h w1 w2 w3 => Sys2Proof.Machine.execGsArm h w1 w2 w3 s
  | .gsWait h w1 w2 w3 => Sys2Proof.Machine.execGsWait h w1 w2 w3 s
  | .valueLanding c k => Sys2Proof.Machine.execValueLanding c k s
  | .accessPerformed c k => Sys2Proof.Machine.execAccessPerformed c k s
  | .memoryFlagsWrite k => Sys2Proof.Machine.execMemoryFlagsWrite k s
  | .resumeDoorbell via ctx => Sys2Proof.Machine.execResumeDoorbell via ctx s
  | .handlerSelection c => Sys2Proof.Machine.execHandlerSelection c s
  | .ageAdvance c h => Sys2Proof.Machine.execAgeAdvance c h s
  | .tokenArrival k => Sys2Proof.Machine.execTokenArrival k s
  | .packetDeparture c q slot => Sys2Proof.Machine.execPacketDeparture c q slot s
  | .creditReturn k => Sys2Proof.Machine.execCreditReturn k s
  | .controllerNodeToken c n ch => Sys2Proof.Machine.execControllerNodeToken c n ch s
  | .arbiterNodeToken c n reply => Sys2Proof.Machine.execArbiterNodeToken c n reply s
  | .generatorNodeToken c n ch => Sys2Proof.Machine.execGeneratorNodeToken c n ch s
  | .constantInstall c ch => Sys2Proof.Machine.execConstantInstall c ch s
  | .engineCompletion c e => Sys2Proof.Machine.execEngineCompletion c e s
  | .completionTokenEntry c e => Sys2Proof.Machine.execCompletionTokenEntry c e s
  | .loopTake c => Sys2Proof.Machine.execLoopTake c s
  | .tierPoll c w => Sys2Proof.Machine.execTierPoll c w s
  | .loadAcceptance k => Sys2Proof.Machine.execLoadAcceptance k s
  | .switchOver k => Sys2Proof.Machine.execSwitchOver k s
  | .boardQuiescent k => Sys2Proof.Machine.execBoardQuiescent k s
  | .join c k => Sys2Proof.Machine.execJoin c k s
  | .leave c k => Sys2Proof.Machine.execLeave c k s
  | .release c k => Sys2Proof.Machine.execRelease c k s
  | .publish c k => Sys2Proof.Machine.execPublish c k s
  | .close c k => Sys2Proof.Machine.execClose c k s
  | .streamBind c k => Sys2Proof.Machine.execStreamBind c k s
  | .recordFetch c stream => Sys2Proof.Machine.execRecordFetch c stream s
  | .overflowRecordPublish ctx => Sys2Proof.Machine.execOverflowRecordPublish ctx s
  | .apertureBind via slot val => Sys2Proof.Machine.execApertureBind via slot val s
  | .apertureHead via slot val => Sys2Proof.Machine.execApertureHead via slot val s
  | .apertureTether via slot val => Sys2Proof.Machine.execApertureTether via slot val s
  | .apertureDataRead via slot off n => Sys2Proof.Machine.execApertureDataRead via slot off n s
  | .apertureDataWrite via slot off data => Sys2Proof.Machine.execApertureDataWrite via slot off data s
  | .faultAcceptance b => Sys2Proof.Machine.execFaultAcceptance b s
  | .watchdogExpiry b => Sys2Proof.Machine.execWatchdogExpiry b s
  | .boardRelease b => Sys2Proof.Machine.execBoardRelease b s
  | .launchRecordRead ctx prio => Sys2Proof.Machine.execLaunchRecordRead ctx prio s
  | .allocatorAction => Sys2Proof.Machine.execAllocatorAction s
  | .candidateReserved ctx prio => Sys2Proof.Machine.execCandidateReserved ctx prio s
  | .nextLoad l m => Sys2Proof.Machine.execNextLoad l m s
  | .classification b lines => Sys2Proof.Machine.execClassification b lines s
  | .launchCompletion l => Sys2Proof.Machine.execLaunchCompletion l s
  | .preemptionSave l => Sys2Proof.Machine.execPreemptionSave l s
  | .preemptionTimeout l => Sys2Proof.Machine.execPreemptionTimeout l s
  | .linkDown port => Sys2Proof.Machine.execLinkDown port s
  | .pathDownNotice first others => Sys2Proof.Machine.execPathDownNotice first others s
  | .remoteRequestArrival src r => Sys2Proof.Machine.execRemoteRequestArrival src r s
  | .remoteAcknowledgement target head poison => Sys2Proof.Machine.execRemoteAcknowledgement target head poison s
  | .holdNotice target head => Sys2Proof.Machine.execHoldNotice target head s
  | .remoteReply target head r => Sys2Proof.Machine.execRemoteReply target head r s
  | .negativeNotice target packet => Sys2Proof.Machine.execNegativeNotice target packet s
  | .resendTimeout target seq => Sys2Proof.Machine.execResendTimeout target seq s
  | .peerFailure target cause => Sys2Proof.Machine.execPeerFailure target cause s
  | .orderedFlagRelease src seq => Sys2Proof.Machine.execOrderedFlagRelease src seq s
  | .linkRunTag port good => Sys2Proof.Machine.execLinkRunTag port good s
  | .runEnd port => Sys2Proof.Machine.execRunEnd port s
  | .groupContribution src r => Sys2Proof.Machine.execGroupContribution src r s
  | .groupTimeout ctx g => Sys2Proof.Machine.execGroupTimeout ctx g s
  | .convOpenRequest src r => Sys2Proof.Machine.execConvOpenRequest src r s
  | .convBindRequest src r => Sys2Proof.Machine.execConvBindRequest src r s
  | .turnRequest src r => Sys2Proof.Machine.execTurnRequest src r s
  | .delegationRequest src r => Sys2Proof.Machine.execDelegationRequest src r s
  | .closeRequest src r => Sys2Proof.Machine.execCloseRequest src r s
  | .stateRequest src r => Sys2Proof.Machine.execStateRequest src r s
  | .messageDelivery d => Sys2Proof.Machine.execMessageDelivery d s
  | .conversationCredit entry role pkg cell ch => Sys2Proof.Machine.execConversationCredit entry role pkg cell ch s
  | .conversationBreak entry role e => Sys2Proof.Machine.execConversationBreak entry role e s
  | .barrierMessage src ready head => Sys2Proof.Machine.execBarrierMessage src ready head s
  | .getVersion who => Sys2Proof.Machine.execGetVersion who s
  | .getCapabilities who => Sys2Proof.Machine.execGetCapabilities who s
  | .negotiateAlgorithms who offer => Sys2Proof.Machine.execNegotiateAlgorithms who offer s
  | .getDigests who => Sys2Proof.Machine.execGetDigests who s
  | .getCertificate who slot => Sys2Proof.Machine.execGetCertificate who slot s
  | .challenge who => Sys2Proof.Machine.execChallenge who s
  | .getMeasurements who index => Sys2Proof.Machine.execGetMeasurements who index s
  | .keyExchange who => Sys2Proof.Machine.execKeyExchange who s
  | .finish who => Sys2Proof.Machine.execFinish who s
  | .endSession who => Sys2Proof.Machine.execEndSession who s
  | .keyUpdate who => Sys2Proof.Machine.execKeyUpdate who s
  | .heartbeat who => Sys2Proof.Machine.execHeartbeat who s
  | .ideKm fn key => Sys2Proof.Machine.execIdeKm fn key s
  | .lockInterfaceRequest vf => Sys2Proof.Machine.execLockInterfaceRequest vf s
  | .startInterfaceRequest vf => Sys2Proof.Machine.execStartInterfaceRequest vf s
  | .stopInterfaceRequest vf => Sys2Proof.Machine.execStopInterfaceRequest vf s
  | .scrubComplete vf => Sys2Proof.Machine.execScrubComplete vf s
  | .frozenRegisterWrite vf reg val => Sys2Proof.Machine.execFrozenRegisterWrite vf reg val s
  | .ideIntegrityFailure vf => Sys2Proof.Machine.execIdeIntegrityFailure vf s
  | .tripClear => Sys2Proof.Machine.execTripClear s
  | .registerWrite via slot off val => Sys2Proof.Machine.execRegisterWrite via slot off val s
  | .mailboxCompletion => Sys2Proof.Machine.execMailboxCompletion s
  | .contextSetUp => Sys2Proof.Machine.execContextSetUp s
  | .contextTeardown => Sys2Proof.Machine.execContextTeardown s
  | .tlbShootdown => Sys2Proof.Machine.execTlbShootdown s
  | .preEmption => Sys2Proof.Machine.execPreEmption s
  | .routeEntry => Sys2Proof.Machine.execRouteEntry s
  | .pathRevive => Sys2Proof.Machine.execPathRevive s
  | .peerClear => Sys2Proof.Machine.execPeerClear s
  | .linkSettings => Sys2Proof.Machine.execLinkSettings s
  | .watchdogLimit => Sys2Proof.Machine.execWatchdogLimit s
  | .packageNumber => Sys2Proof.Machine.execPackageNumber s
  | .pendingMembership => Sys2Proof.Machine.execPendingMembership s
  | .powerStatePs0 => Sys2Proof.Machine.execPowerStatePs0 s
  | .powerStatePs1 => Sys2Proof.Machine.execPowerStatePs1 s
  | .powerStatePs2 => Sys2Proof.Machine.execPowerStatePs2 s
  | .powerStatePs3 => Sys2Proof.Machine.execPowerStatePs3 s
  | .clockRestart => Sys2Proof.Machine.execClockRestart s
  | .thermalTrip src => Sys2Proof.Machine.execThermalTrip src s
  | .powerOn => Sys2Proof.Machine.execPowerOn s
  | .stageAdvance ok => Sys2Proof.Machine.execStageAdvance ok s
  | .reservedEncoding word => Sys2Proof.Machine.execReservedEncoding word s
  | .holdExpiry c => Sys2Proof.Machine.execHoldExpiry c s
  | .lookaheadFill c w => Sys2Proof.Machine.execLookaheadFill c w s
  | .remoteRequestRefusal target head misaligned => Sys2Proof.Machine.execRemoteRequestRefusal target head misaligned s
  | .msixVectorUnmask vf vec => Sys2Proof.Machine.execMsixVectorUnmask vf vec s

end Sys2Proof.Machine
end

