-- ==== Sys2Proof/Machine/Order.lean ====
section
/-! DEFINITION. Issue of one instruction by a core (R54, R55, R331), and the default order of moves, which applies where the agenda gives
none: the moves that the hardware may make by itself, taken in turn. -/

namespace Sys2Proof.Machine

/-! ### Issue (R12, R54, R55) -/

/-- Whether an instruction is a step of the hardware, which no word encodes. -/
def isStep (i : Instr) : Bool :=
  match i with
  | .reservedEncoding _ => false
  | i => (encode i).isEmpty

/-- The address of the k-th word from the PC on, modulo 16 KiB (R12). -/
def Cell.wordPc (c : Cell) (k : Nat) : Pc := c.pc + BitVec.ofNat 14 (4 * k)

/-- The four words from the PC on. -/
def Cell.fetched (c : Cell) : List W32 := (List.range 4).map fun k => c.wordAt (c.wordPc k)

/-- Which of the words that the instruction at the PC takes holds an error that cannot be corrected, the first of them (R331). -/
def Cell.badWord (c : Cell) : Option Nat :=
  (List.range (if fMajor (c.wordAt c.pc) = 0x3F#6 then 4 else 1)).find? fun k => sget false c.badCode ((c.wordPc k).toNat / 4)

/-- A fetch that meets such a word: UNCORRECTABLE with WORD 0 and the word's address in INFO (R331). -/
def fetchFault (k : Nat) (s : State) : State :=
  s.onCell fun c => c.withFault
    { code := cUNCORRECTABLE, detail := 0, t := c.k.t, src := 0, hnd := c.hndNum, word := 0, pc := c.pc, info := (c.wordPc k).setWidth 32,
      aux0 := c.traceOf.1, aux1 := c.traceOf.2 }

/-- The core in focus issues the instruction at its PC; a word that is reserved issues as RESERVED_ENCODING (R68). -/
def issueNow (s : State) : Result :=
  match s.cell.badWord with
  | some k => .next (fetchFault k s)
  | none =>
    match decode s.cell.fetched with
    | .ok i => exec i s
    | .error _ => execReservedEncoding (s.cell.wordAt s.cell.pc) s

/-- Whether the core of a cell issues: an activation runs, the cell has not stopped, and what its instruction reads at issue has met no
translation stall, which only the resume ends (R208). -/
def Cell.issues (c : Cell) : Bool := c.cur.isSome && !c.stopped && c.hold != some .stalled

/-- Whether the fabric has power and its clock runs (R417). -/
def HostPort.runs (h : HostPort) : Bool := h.powered && h.ps.toNat < 2 && !h.clockStopped

/-! ### What the hardware may do by itself -/

/-- What an engine's queue holds to be moved. -/
def engineMoves (c : CellId) (x : Cell) (e : Engine) : List (State → Result) :=
  (if (x.engine e).q.isEmpty then [] else [execEngineCompletion c e]) ++ (if (x.engine e).held.isEmpty then [] else [execCompletionTokenEntry c e])

/-- What may happen to the k-th access in flight. -/
def accessMoves (c : CellId) (x : Cell) (k : Nat) : List (State → Result) :=
  match x.inflight[k]? with
  | none => []
  | some a =>
    match a.op with
    | .stream _ (.bind _) => [execStreamBind c k]
    | .stream _ .join => [execJoin c k]
    | .stream _ .leave => [execLeave c k]
    | .stream _ (.publish _) => [execPublish c k]
    | .stream _ (.release _) => [execRelease c k]
    | .stream _ .close => [execClose c k]
    | _ => [execValueLanding c k, execAccessPerformed c k]

/-- What may happen at the out-queues, channels and nodes of a cell. -/
def fabricMoves (c : CellId) (x : Cell) : List (State → Result) :=
  ((List.range 8).flatMap fun i =>
    let q : BitVec 3 := BitVec.ofNat 3 i
    if (x.queue q).pkts.isEmpty then [] else ((feedSlots x q).take 1).map fun t => execPacketDeparture c q (BitVec.ofNat 8 t)) ++
  ((List.range 32).flatMap fun i =>
    let ch : ChIdx := BitVec.ofNat 5 i
    (if (x.chanAt ch).nextConst.isSome then [execConstantInstall c ch] else []) ++ (if x.port.any fun q => q.1 == ch then [execMessageDelivery (.waiting c ch)] else [])) ++
  ((List.range 4).flatMap fun i =>
    let n : BitVec 2 := BitVec.ofNat 2 i
    let own := ((List.range 32).map (BitVec.ofNat 5)).filter fun ch => (x.nodeToken n ch).isSome
    match x.nodeAt n with
    | .none => []
    | .controller .. => (0 :: own).map fun ch => execControllerNodeToken c n ch
    | .arbiter .. => [execArbiterNodeToken c n true, execArbiterNodeToken c n false]
    | .generator .. => own.map fun ch => execGeneratorNodeToken c n ch)

/-- What may happen in a cell. -/
def cellMoves (c : CellId) (x : Cell) : List (State → Result) :=
  [execHandlerSelection c] ++ (List.range x.inflight.length).flatMap (accessMoves c x) ++ allEngines.flatMap (engineMoves c x) ++ fabricMoves c x ++
    (match x.mx.q with | y :: _ => if y.verb = 9 then [execLoopTake c] else [] | [] => []) ++
    ((List.range 4).flatMap fun w => if (x.walks.toList.getD w none).isSome then [execLookaheadFill c (BitVec.ofNat 2 w), execTierPoll c (BitVec.ofNat 2 w)] else []) ++
    (match x.hold with | some (.fetching n _) => [execRecordFetch c n] | some (.expiring _) => [execHoldExpiry c] | _ => []) ++
    ((List.range 64).filter fun i => 4096 ≤ (x.hnd.toList.getD i Handler.reset).pass).map fun i => execAgeAdvance c (BitVec.ofNat 6 i)

/-- The step that takes a request of a source at its target. -/
def arrivalOf (src : Byte) (r : RemoteReq) : State → Result :=
  match r.op with
  | .load .. | .store .. | .flag .. | .recipe .. => execRemoteRequestArrival src r
  | .contrib .. => execGroupContribution src r
  | .convOpen _ => execConvOpenRequest src r
  | .convBind .. => execConvBindRequest src r
  | .convTurn .. => execTurnRequest src r
  | .convDeleg .. => execDelegationRequest src r
  | .convClose _ => execCloseRequest src r
  | .convState .. => execStateRequest src r

/-- What may happen between packages: requests of own cells, requests that came before an epoch switch, held flags, and conversations. -/
def linkMoves (p : Package) : List (State → Result) :=
  (((p.peer p.number).out.filter fun o => !(p.peer p.number).seen.contains o.req.seq).map fun o => arrivalOf p.number o.req) ++
    ((p.trust.ahead.filter fun q => q.2.epoch == p.trust.epoch).map fun q => arrivalOf q.1 q.2) ++
    ((p.trust.aheadReplies.filter fun q => q.2.1.epoch == p.trust.epoch).map fun q s => .next (takeReply q.1 q.2.1 q.2.2 s)) ++
    (p.peers.flatMap fun e => e.2.held.filterMap fun r => match r.op with | .flag .. => some (execOrderedFlagRelease (BitVec.ofNat 8 e.1) r.seq) | _ => none) ++
    (p.endings.map fun q => execConversationBreak q.1 q.2.1 q.2.2) ++
    (p.convs.flatMap fun e => (List.range 8).map fun i => execMessageDelivery (.buffered (BitVec.ofNat 12 e.1) (BitVec.ofNat 3 i))) ++
    (p.convCredits.map fun q => execConversationCredit q.1 q.2.1 p.number q.2.2.1 q.2.2.2) ++ p.runs.map fun e => execRunEnd (BitVec.ofNat 5 e.1)

/-- What the loader, the sequencers and the allocator may do. -/
def launchMoves (p : Package) : List (State → Result) :=
  ((List.range p.loads.length).flatMap fun k => [execLoadAcceptance k, execBoardQuiescent k, execSwitchOver k]) ++
    (p.boards.flatMap fun b => [execFaultAcceptance b.id, execWatchdogExpiry b.id, execBoardRelease b.id]) ++
    (p.launches.flatMap fun l : Launch =>
      ((List.range 4).map fun m => execNextLoad l.id (BitVec.ofNat 2 m)) ++ [execLaunchCompletion l.id, execPreemptionSave l.id, execCandidateReserved l.ctx (BitVec.ofNat 4 l.prio)]) ++
    (p.contexts.flatMap fun e =>
      ((List.range 16).filter fun q => e.2.prioMask.getLsbD q).map fun q => execLaunchRecordRead (BitVec.ofNat 6 e.1) (BitVec.ofNat 4 q)) ++
    (if p.allocDue then [execAllocatorAction] else [])

/-- What the packets on the wire, the flags and records on their way, and the mailbox may do. -/
def packageMoves (p : Package) : List (State → Result) :=
  ((List.range p.wire.length).map fun k => execTokenArrival ⟨k, false⟩) ++ (List.range p.creditWire.length).map execCreditReturn ++
    (List.range p.flagWrites.length).map execMemoryFlagsWrite ++ p.contexts.map fun e => execOverflowRecordPublish (BitVec.ofNat 6 e.1)

/-- What the host port may do. -/
def hostMoves (h : HostPort) : List (State → Result) :=
  (if h.clockStopped then [execClockRestart] else []) ++
    (if h.busy then
      [execContextSetUp, execContextTeardown, execTlbShootdown, execPreEmption, execRouteEntry, execPathRevive, execPeerClear, execLinkSettings, execWatchdogLimit, execPackageNumber,
       execPendingMembership, execPowerStatePs0, execPowerStatePs1, execPowerStatePs2, execPowerStatePs3, execMailboxCompletion]
     else []) ++
    ((List.range 16).filter fun i => (h.vfs.toList.getD i Vf.reset).stopping).map fun i => execScrubComplete (BitVec.ofNat 5 (i + 1))

/-- Every step that the hardware may take by itself in a state; without power none, and while the clock stands only the host port's. -/
def ownMoves (s : State) : List (State → Result) :=
  if !s.pkg.host.powered then []
  else hostMoves s.pkg.host ++
    (if s.pkg.host.clockStopped then []
     else packageMoves s.pkg ++ launchMoves s.pkg ++ linkMoves s.pkg ++ s.cells.flatMap fun e => cellMoves e.1 e.2)

/-! ### The default order -/

/-- A list begun at its n-th place, taken round. -/
def turned {α : Type} (n : Nat) (l : List α) : List α := l.drop (n % max l.length 1) ++ l.take (n % max l.length 1)

/-- A move that the default order takes: a core's, or a step of the hardware with the state that it leaves. -/
inductive Chosen where
  | core (c : CellId)
  | event (t : State)

/-- The first step of a list that changes the state. -/
def firstEvent (s : State) : List (State → Result) → Option Chosen
  | [] => none
  | f :: r =>
    match f s with
    | .next t => if t = s then firstEvent s r else some (.event t)
    | _ => firstEvent s r

/-- The first core of a list that issues, or that can go on after a hold. -/
def firstCore (s : State) : List CellId → Option Chosen
  | [] => none
  | c :: r =>
    let x := s.cellAt c
    if !x.issues then firstCore s r
    else if x.hold.isNone then some (.core c)
    else match issueNow (s.focus c) with
      | .next t => if t = s.focus c then firstCore s r else some (.core c)
      | _ => firstCore s r

/-- The move that comes next when the agenda names none: cores and hardware by turns, and each in turn among its kind. -/
def defaultMove (s : State) : Option Chosen :=
  let n := s.tick / 2
  let event := firstEvent s (turned n (ownMoves s))
  let core := if s.pkg.host.runs then firstCore s (turned n ((s.cells.map Prod.fst))) else none
  if s.tick % 2 = 0 then core.orElse fun _ => event else event.orElse fun _ => core

end Sys2Proof.Machine
end

