-- ==== Sys2Proof/Machine/Step.lean ====
section
/-! DEFINITION. One step of the machine, and the placing of an instruction where a step fetches. -/

namespace Sys2Proof.Machine

/-! ### What a step adds around a move -/

/-- Whether an entry in flight is an access: to memory, a cell store or a stream, an operation on a stream's record that R228 lists, or a
remote read (R228, R337; log 50). -/
def Access.accesses (a : Access) : Bool :=
  a.loc != .none || (match a.op with | .stream _ .head | .stream _ .tail => false | .stream _ _ | .awaitLine _ => true | .await => fMajor a.word == 0x34#6 || fMajor a.word == 0x35#6 | _ => false)

/-- Whether the units of a matrix command access memory or cell store: tile registers and accumulators are neither. -/
def mxAccesses (verb : Nat) : Bool := [0, 1, 3, 5, 7, 8].contains verb

/-- Whether the next unit of a command accesses memory or cell store; of a loop, the body command in progress tells. -/
def Cell.unitAccesses (c : Cell) (e : Engine) (x : Cmd) : Bool :=
  match e with
  | .mx => if x.verb = 9 then ((c.sectionAt (loopSec x)).body[x.index]?).any fun b => mxAccesses b.verb else mxAccesses x.verb
  | .gs => false
  | _ => true

/-- How far a command has come: an engine's accesses are performed by its units, and a loop completes the commands of its body. -/
def Cmd.reached (acc : Bool) (x : Cmd) : (Nat × Nat) × (Nat × Bool × Nat × Nat × Nat) :=
  ((x.iter, x.index), if acc then (x.unit, x.begun && x.verb != 9, if x.verb = 9 then 0 else x.note, x.bodyNote, x.buf.length) else (0, false, 0, 0, 0))

/-- Whether an engine completes a command of the board, or performs an access of one; `acc` says whether a command's next unit accesses. -/
def EngineQ.progressed (acc : Cmd → Bool) (e e' : EngineQ) : Bool :=
  e'.own.length + e'.held.length < e.own.length + e.held.length ||
    (e.own.length ≤ e'.own.length && (e.own.zip e'.own).any fun x => x.1.reached (acc x.1) != x.2.reached (acc x.1))

/-- A cell whose load makes progress between two states (R337): a selection, a packet that leaves, a command that completes or an access
that is performed. -/
def Cell.progressed (c c' : Cell) : Bool :=
  (c.cur.isNone && c'.cur.isSome) || c.outq.toList.map (·.sent) != c'.outq.toList.map (·.sent) ||
    (allEngines.any fun e => (c.engine e).progressed (c.unitAccesses e) (c'.engine e)) || c.inflight.any fun a => a.accesses && !c'.flying a.id

/-- Whether a remote write of a board's cells has been acknowledged between two states (R337; log 50). -/
def acknowledgedOn (s t : State) (b : Board) : Bool :=
  s.pkg.peers.any fun e => !(t.pkg.peer (BitVec.ofNat 8 e.1)).failed && e.2.out.any fun o =>
    o.write && !o.gone && o.on b && !((t.pkg.peer (BitVec.ofNat 8 e.1)).out.any fun x => x.req.seq == o.req.seq)

/-- The watchdog count of a board after a move (R337). -/
def watch (s t : State) (b : Board) : Board :=
  if t.watchHeld b then b
  else if acknowledgedOn s t b || t.cells.any fun e => e.2.board == some b.id && (s.cellAt e.1).progressed e.2 then { b with watchdog := 0 }
  else { b with watchdog := b.watchdog + 1 }

/-- A cell put in the order of row and column. -/
def byNumber (c : CellId) : List CellId → List CellId
  | [] => [c]
  | d :: r => if c.toNat ≤ d.toNat then c :: d :: r else d :: byNumber c r

/-- The cells that have raised a fault in a move, the lowest row, and within it the lowest column, first (R336). -/
def newFaults (s t : State) : List CellId :=
  ((t.cells.filter fun e => e.2.fault.isSome && (s.cellAt e.1).fault.isNone && !t.pkg.raised.contains e.1).map Prod.fst).foldl (fun l c => byNumber c l) []

/-- The state after a move: faults are noted, the watchdogs count, and the clock of free values moves on. -/
def settled (s t : State) : State :=
  { t with
    tick := s.tick + 1
    pkg := { t.pkg with boards := t.pkg.boards.map (watch s t), raised := t.pkg.raised ++ newFaults s t } }

/-- `KCYC` of the cell in focus counts the cycles of an instruction: one, and as many more as it waited (R4, R30). -/
def clocked (n : Nat) (s : State) : State := s.onCell fun c => { c with k := { c.k with cyc := c.k.cyc + BitVec.ofNat 64 (1 + Config.extraCycles n) } }

/-- The core of a cell issues one instruction. -/
def coreStep (c : CellId) (s : State) : Result :=
  match issueNow (clocked s.tick (s.focus c)) with
  | .next t => .next (settled s t)
  | .fault f => .fault f
  | .refused r => .refused r

/-- One step of the hardware. -/
def eventStep (i : Instr) (s : State) : Result :=
  match exec i s with
  | .next t => .next (settled s t)
  | .fault f => .fault f
  | .refused r => .refused r

/-- A cycle in which nothing moves. -/
def idle (s : State) : State := settled s s

/-- A move: a core without power stops the machine for good, one that has nothing to issue passes its turn, and only steps of the
hardware are taken as such. -/
def perform (m : Move) (s : State) : Result :=
  match m with
  | .core c =>
    if !s.pkg.host.powered then .fault .poweredOff
    else if s.pkg.host.runs && (s.cellAt c).issues then coreStep c s
    else .next (idle s)
  | .event i => if isStep i then eventStep i s else .next (idle s)

/-- One step: the next move of the agenda or, when it is empty, the default order's; without either a cycle passes. -/
def step (s : State) : Host.Outcome State Fault Refusal :=
  match s.agenda with
  | m :: r => perform m { s with agenda := r }
  | [] =>
    match defaultMove s with
    | some (.core c) => coreStep c s
    | some (.event t) => .next (settled s t)
    | none => .next (idle s)

/-! ### Placing an instruction -/

/-- The cell with an activation running at its PC, where the four words of an instruction stand. -/
def Cell.ready (w : Nat) (c : Cell) : Cell :=
  { c with
    istore := (List.range 4).foldl (fun m k => sput 0 ((c.wordPc k).toNat / 4) (wordOf w k) m) c.istore
    badCode := (List.range 4).foldl (fun m k => sput false ((c.wordPc k).toNat / 4) false m) c.badCode
    cur := some 0
    hold := none
    fault := none
    stopped := false
    hnd := c.hnd.set 0 { (c.hnd[0]) with v := true, st := .running } }

/-- The state whose next step fetches and runs the instruction of the first nbits bits of w, every bit above them 0: its words stand at the
PC of the cell in focus, whose handler 0 runs and whose core moves next, on a module that is up. -/
def State.withFetchWord (s : State) (nbits w : Nat) : State :=
  { s with
    agenda := [.core s.here]
    cell := s.cell.ready (w % 2 ^ nbits)
    pkg := { s.pkg with host := { s.pkg.host with powered := true, stage := 4, ps := 0, clockStopped := false } } }

end Sys2Proof.Machine
end

