-- ==== Sys2Proof/Safety.lean ====
section
/-! DEFINITION. The terms in which statements speak of the machine: what an instruction finds at issue, what a retirement
leaves, and the frames of the families. -/

namespace Sys2Proof.Machine

/-! ### What an instruction finds at issue -/

/-- Register `x[n]` is FULL and holds v (R15). -/
abbrev State.HasX (s : State) (n : XIdx) (v : Word) : Prop := s.cell.xreg n = ⟨v, .full⟩
/-- Register `v[n]` is FULL and holds r (R15). -/
abbrev State.HasV (s : State) (n : VIdx) (r : VReg) : Prop := s.cell.vreg n = r ∧ r.st = .full
/-- Register `x[d]` may be written at once (R16). -/
abbrev State.FreeX (s : State) (d : XIdx) : Prop := (s.cell.xreg d).st ≠ .pending
/-- Register `v[d]` may be written at once (R16). -/
abbrev State.FreeV (s : State) (d : VIdx) : Prop := (s.cell.vreg d).st ≠ .pending

/-! ### What a retirement leaves -/

/-- `x[d]` is written and the PC moves past the word (R12, R16). -/
def State.wroteX (s : State) (d : XIdx) (v : Word) : State := advance 4 (setX d v s)
/-- `v[d]` is written and the PC moves past the word. -/
def State.wroteV (s : State) (d : VIdx) (lanes : List W32) : State := advance 4 (setV d lanes s)
/-- Predicate d is written and the PC moves past the word (R93). -/
def State.wroteP (s : State) (d : PIdx) (b : Bool) : State := advance 4 (setP d b s)

/-- A packet instruction is performed: `v[d]` takes its lanes, the draw count advances where the instruction rounds under SR, and the flags merge, or trap
with ARITH where one of them is enabled (R22, R23, R44, R170). -/
def State.wrotePacket (s : State) (rounds : Bool) (d : VIdx) (lanes : List W32) (f : Flags) : State :=
  withFlags f (advance 4 ((setV d lanes s).onCell fun c => if rounds then c.drew else c)) s

/-- The elements of a packet result with their flags: the codes placed in n lanes, the flags ORed (R33, R168). -/
def State.wroteElems (s : State) (rounds : Bool) (d : VIdx) (f : FmtDesc) (n : Nat) (r : List (Nat × Flags)) : State :=
  s.wrotePacket rounds d (packLanes f n (r.map Prod.fst)) (orFlags (r.map Prod.snd))

/-- The integer values of the first n lanes of a packet. -/
def VReg.ints (r : VReg) (f : FmtDesc) (n : Nat) : List Int := (r.elems f n).map (intOf f)
/-- The exact values of the first n lanes of a packet. -/
def VReg.nums (r : VReg) (f : FmtDesc) (n : Nat) : List Num := (r.elems f n).map (valueOf f)

/-- (-1)^neg · m · 2^e as a rational number. -/
def rat (neg : Bool) (m : Nat) (e : Int) : ℚ := (if neg then -(m : ℚ) else m) * 2 ^ e

/-- A finite value as a rational number. -/
def Num.rat : Num → ℚ
  | .fin n m e => Machine.rat n m e
  | _ => 0

/-- The magnitude of a code of a float format, the exponent unbounded above: m · 2^(1 − b − t) below the least normal code, and (2^t + m) · 2^(e − b − t)
from there on (R35, R40). -/
def FloatFmt.magnitude (ff : FloatFmt) (c : Nat) : ℚ :=
  if c < 2 ^ ff.t then (c : ℚ) * 2 ^ (1 - ff.b - ff.t) else ((2 ^ ff.t + c % 2 ^ ff.t : Nat) : ℚ) * 2 ^ ((c / 2 ^ ff.t : Nat) - ff.b - ff.t)

/-- Whether a magnitude x that lies from lo on and below hi, two neighbours, is rounded to hi, the one further from zero (R39, R41): to the nearest, a
tie away from an odd lo; up or down by its sign; under SR by the first 16 bits of the fraction of the step and the random bits. -/
def RoundsAway (mode : BitVec 3) (neg : Bool) (rnd : Nat) (odd : Prop) (lo hi x : ℚ) : Prop :=
  lo ≠ x ∧ ((mode = 0 ∧ (hi - x < x - lo ∨ (hi - x = x - lo ∧ odd))) ∨ (mode = 2 ∧ neg = false) ∨ (mode = 3 ∧ neg = true) ∨
    (mode = 4 ∧ 2 ^ 16 ≤ ⌊(x - lo) / (hi - lo) * 2 ^ 16⌋ + rnd))

/-- Whether a number ranks below another, −0 below +0 (R174). -/
def Num.Below : Num → Num → Prop
  | .inf n, .inf k => n = true ∧ k = false
  | .inf n, .fin _ _ _ => n = true
  | .fin _ _ _, .inf k => k = false
  | .fin n m e, .fin k l d => Machine.rat n m e < Machine.rat k l d ∨ (m = 0 ∧ l = 0 ∧ n = true ∧ k = false)
  | _, _ => False

/-- An exact integer kept to the low bits of a format, or clamped to its range under SAT, as a code (R171). -/
def keepInt (f : FmtDesc) (sat : Bool) (i : Int) : Nat := (if sat then max (intMin f) (min (intMax f) i) else i) % (2 ^ width f : Nat) |>.toNat

/-- `RoundTo` of the element number k of a packet result, with the flags it and its computation raised (R39, R44). -/
def State.round (s : State) (f : FmtDesc) (k : Nat) (x : Num × Flags) : Nat × Flags :=
  let r := roundTo f s.cell.rounding (s.cell.rnd f k) x.1
  (r.1, x.2 ||| r.2)

/-! ### Accesses to memory -/

/-- No acquire of the activation is on its way, the slot waited on is 0, and the slot set has room (R230, R242). -/
abbrev State.Ready (s : State) (set wait : BitVec 3) : Prop :=
  s.cell.acquiring = false ∧ (wait ≠ 0 → s.cell.slot wait = 0) ∧ (set ≠ 0 → s.cell.slot set < 63)

/-- n bytes at an address of global space whose translation answers with the permissions asked for, with a reply buffer free (R127, R200,
R205-R208), outside the record of a bound stream where they are written (R267). -/
def State.ReachesGlobal (s : State) (rd wr : Bool) (va : Word) (n : Nat) (loc : Loc) : Prop :=
  region va n = .global ∧ s.cell.buffers < 32 ∧
    ∃ pa attr p, translateFor rd wr s.cell.k.ctx va s.pkg = (.ok (pa, attr), p) ∧ loc = .phys pa attr ∧
      (wr = true → p.inRecord (physKey attr pa) n = false)

/-- n bytes of the cell's own store (R13). -/
def ReachesCell (va : Word) (n : Nat) (loc : Loc) : Prop := ∃ off, region va n = .cell off ∧ loc = .cell off

/-- n bytes of a stream that the cell may read: its tether is at or before them, HEAD is past them, and they lie in one frame (R216). -/
def State.ReachesRead (s : State) (va : Word) (n : Nat) (loc : Loc) : Prop :=
  ∃ num pos w t pl p, region va n = .stream num pos ∧ loc = .stream num pos ∧ s.cell.streamPending num = false ∧
    s.cell.win.find? (fun w : WinRec => w.num == num) = some w ∧ w.slot = some t ∧ before pos t = false ∧ spansFrames w.k pos n = false ∧
    before w.head (pos + BitVec.ofNat 48 n) = false ∧ s.cell.buffers < 32 ∧
    framePlace false s.cell.k.ctx (s.pkg.framesOf s.cell.k.ctx num) w.back w.k w.logn pos s.pkg = (.ok pl, p)

/-- n bytes of a stream that the cell may write: the stream is open, they are at or past HEAD, inside the window, and in one frame that is
no record of a bound stream (R217, R267). -/
def State.ReachesWrite (s : State) (va : Word) (n : Nat) (loc : Loc) : Prop :=
  ∃ num pos w pl p, region va n = .stream num pos ∧ loc = .stream num pos ∧ s.cell.streamPending num = false ∧
    s.cell.win.find? (fun w : WinRec => w.num == num) = some w ∧ w.closed = false ∧ before pos w.head = false ∧ spansFrames w.k pos n = false ∧
    before (w.tail + w.cap) (pos + BitVec.ofNat 48 n) = false ∧ s.cell.buffers < 32 ∧
    framePlace true s.cell.k.ctx (s.pkg.framesOf s.cell.k.ctx num) w.back w.k w.logn pos s.pkg = (.ok pl, p) ∧ p.writable pl n = true

/-- An instruction leaves an access in flight and goes on: its destination, if it has one, is PENDING, its slot counts it, and neither
memory nor a cell store has changed (R15, R228, R230). -/
def State.Issued (s t : State) (a : Access) : Prop :=
  t.cell.inflight = s.cell.inflight ++ [a] ∧ a.pc = s.cell.pc ∧ t.cell.pc = s.cell.pc + 4 ∧ t.pkg.mem = s.pkg.mem ∧ t.cell.store = s.cell.store ∧
    (a.set ≠ 0 → t.cell.slot a.set = s.cell.slot a.set + 1) ∧
    (match a.dst with
     | .none => t.cell.x = s.cell.x ∧ t.cell.v = s.cell.v
     | .x d => (d ≠ 0 → (t.cell.xreg d).st = .pending) ∧ t.cell.v = s.cell.v ∧ ∀ n, n ≠ d → t.cell.xreg n = s.cell.xreg n
     | .v d => (t.cell.vreg d).st = .pending ∧ t.cell.x = s.cell.x ∧ ∀ n, n ≠ d → t.cell.vreg n = s.cell.vreg n)

/-- An access waits for every earlier access of its activation and class that R229 puts before it. -/
def State.Ordered (s : State) (a : Access) (writes : Bool) : Prop :=
  ∀ b ∈ s.cell.inflight, s.cell.own b = true → b.cls = a.cls → a.cls ≠ 7 → (writes = true ∨ b.writes = true) → b.id ∈ a.after

/-! ### Engine commands -/

/-- The words 1 to 3 of a command after substitution, where the registers that its head names are FULL (R63). -/
def CommandWords (h : CmdHead) (w1 w2 w3 a b c : W32) (s : State) : Prop :=
  (if h.subst.getLsbD 3 then ∃ A, s.HasX (w1.setWidth 5) A ∧ a = A.setWidth 32 ∧ b = A.extractLsb' 32 32
   else (if h.subst.getLsbD 0 then ∃ A, s.HasX (w1.setWidth 5) A ∧ a = A.setWidth 32 else a = w1) ∧
     (if h.subst.getLsbD 1 then ∃ A, s.HasX (w2.setWidth 5) A ∧ b = A.setWidth 32 else b = w2)) ∧
    (if h.subst.getLsbD 2 then ∃ A, s.HasX (w3.setWidth 5) A ∧ c = A.setWidth 32 else c = w3)

/-! ### Requests to packages -/

/-- A request joins those in flight to a package: the next sequence of the pair, the operation, the path chosen from the first live one, and, for a
write, a count in S of its tag (R351, R353, R358, R360). -/
def State.Requested (s t : State) (target : Byte) (fix : Option Nat) (op : RemoteOp) (access : Option Nat) (write : Bool) : Prop :=
  ∃ o : OutReq, (t.pkg.peer target).out = (s.pkg.peer target).out ++ [o] ∧ o.req.op = op ∧ o.req.seq = (s.pkg.peer target).nextSeq ∧
    o.req.cell = s.here ∧ o.req.ctx = s.cell.k.ctx ∧ o.access = access ∧ o.write = write ∧ o.engine = false ∧
    (t.pkg.peer target).nextSeq = (s.pkg.peer target).nextSeq + 1 ∧
    (∀ i, s.pkg.livePath target (s.pkg.startPath target fix) = some i → o.req.tag = BitVec.ofNat 2 i ∧ o.path = some (BitVec.ofNat 2 i) ∧
      (target ≠ s.pkg.number → s.pkg.packet target o.req.tag o.req.seq (.request target (BitVec.ofNat 2 i) o.req) ∈ t.pkg.outbox)) ∧
    (s.pkg.livePath target (s.pkg.startPath target fix) = none → o.path = none) ∧
    (t.pkg.peer target).s.toList.getD o.req.tag.toNat 0 = (s.pkg.peer target).s.toList.getD o.req.tag.toNat 0 + (if write then 1 else 0)

/-- A package that requests reach: not failed, unreachable or outside the trust domain, and with room in its window (R350, R360, R369, R404, R407). -/
abbrev State.Reaches (s : State) (target : Byte) : Prop := s.pkg.cutOff target = false ∧ s.linkHeld target = false

/-- A release or an acquire has nothing left to wait for: the set fixed at first issue, or else the set given, is performed (R238). -/
abbrev State.Past (s : State) (first : List Nat) : Prop := (s.cell.cover first).any s.cell.flying = false

/-- What a message is taken with: the earlier loads of the activation have landed (R238, R389). -/
abbrev State.TakesMessages (s : State) : Prop := s.Past (s.cell.fenceSet 0)

/-- An answer of a target leaves for the source of a request: by a live path to it, sealed where the trust domain says so (R356, R404). -/
def State.Told (s t : State) (src : Byte) (r : RemoteReq) (m : OutMsg) : Prop :=
  (s.pkg.livePath src r.tag.toNat).isSome = true → s.pkg.packet src r.tag r.seq m ∈ t.pkg.outbox

/-- A conversation word whose activation parks for the home's verdict: the request is sent, the destination is PENDING, and the instruction is kept for its
retry, by which the verdict is taken (R388). -/
def State.Conversing (s t : State) (d : XIdx) (W : Word) (op : RemoteOp) : Prop :=
  s.Requested t (cvHome W) none op none false ∧ (d ≠ 0 → (t.cell.xreg d).st = .pending) ∧ t.cell.cur = none ∧
    (∀ h, s.cell.cur = some h → (t.cell.handler h).st = .parked ∧ (t.cell.handler h).key = some (.turn W) ∧ (t.cell.handler h).pc = s.cell.pc ∧
      (t.cell.handler h).pend = .request (cvHome W) s.pkg.trust.epoch (s.pkg.peer (cvHome W)).nextSeq W ((s.cell.xreg d).st == .full)) ∧
    t.cell.store = s.cell.store ∧ (s.cell.waitEntries < 64 → t.pkg.mem = s.pkg.mem)

/-- A reply packet that the source of a request takes: from another package that has not failed, and within a trust domain of the current epoch with a
seal that checks (R369, R404, R405, R409). -/
abbrev State.TakesReply (s : State) (src : Byte) (q : ReplyHead) : Prop :=
  src ≠ s.pkg.number ∧ (s.pkg.peer src).failed = false ∧ (s.pkg.trust.td = true → q.epoch = s.pkg.trust.epoch ∧ q.good = true) ∧
    (s.pkg.trust.td = false → q.epoch.toNat ≤ s.pkg.trust.epoch.toNat)

/-- A request that the filter of the pair takes as new, with the state in which it is performed: one of an own cell that is in flight, or one of
another package that has not failed, of the current epoch, admitted by the trust domain, and neither below the window nor seen (R350, R361, R369,
R404, R405, R409). -/
def State.TakesNew (s : State) (src : Byte) (r : RemoteReq) (t : State) : Prop :=
  let P := s.pkg.peer src
  let T := s.pkg.trust
  (src = s.pkg.number ∧ (∃ o, s.pkg.outReq src r.seq = some o ∧ o.req = r) ∧ r.seq ∉ P.seen ∧ t = accept src r s) ∨
    (src ≠ s.pkg.number ∧ P.failed = false ∧ r.epoch = T.epoch ∧ (T.td = true → r.sealed = true ∧ T.mask.getLsbD src.toNat = true) ∧ P.belowWindow r.seq = false ∧
      r.seq ∉ P.seen ∧ t = accept src r (s.onPkg fun p => { p with trust := { p.trust with ahead := p.trust.ahead.filter (· != (src, r)) } }))

/-! ### Frames -/

/-- Everything outside the cell in focus stands. -/
abbrev State.SameOutside (s t : State) : Prop := t.here = s.here ∧ t.others = s.others ∧ t.pkg = s.pkg ∧ t.agenda = s.agenda

/-- The `x` registers stand but for d. -/
abbrev Cell.SameXBut (c c' : Cell) (d : XIdx) : Prop := ∀ n, n ≠ d → c'.xreg n = c.xreg n
/-- The `v` registers stand but for d. -/
abbrev Cell.SameVBut (c c' : Cell) (d : VIdx) : Prop := ∀ n, n ≠ d → c'.vreg n = c.vreg n

/-- The stores of a cell stand: its data store and the full bits there, its instruction store, tiles and accumulators. -/
abbrev Cell.SameStores (c c' : Cell) : Prop :=
  c'.store = c.store ∧ c'.emptyWords = c.emptyWords ∧ c'.istore = c.istore ∧ c'.tiles = c.tiles ∧ c'.acc = c.acc ∧
    c'.inner = c.inner

/-- The units that serve a cell stand: accesses in flight, channels, out-queues, nodes, engines, counters of slots. -/
abbrev Cell.SameUnits (c c' : Cell) : Prop :=
  c'.inflight = c.inflight ∧ c'.chan = c.chan ∧ c'.outq = c.outq ∧ c'.node = c.node ∧ c'.mx = c.mx ∧ c'.cp = c.cp ∧
    c'.kv = c.kv ∧ c'.sk = c.sk ∧ c'.ch = c.ch ∧ c'.gs = c.gs ∧ c'.sb = c.sb ∧ c'.win = c.win ∧ c'.l1 = c.l1

/-- The k-registers stand but for what a trap writes (`KSTAT.T`, `KCAUSE`, `KEPC`, R24) and flags that merge (R22). -/
abbrev KRegs.SameButTrap (k k' : KRegs) : Prop :=
  k' = { k with t := k'.t, cause := k'.cause, epc := k'.epc, fflags := k'.fflags } ∧ k'.fflags &&& k.fflags = k.fflags

end Sys2Proof.Machine
end

