-- ==== Sys2Proof/Certificates/Slice0/Obligations.lean ====
section
/-! DEFINITION. The statements about the machine that are put to the provers: one definition of a proposition for each entry of
OBLIGATIONS.json, by the rules of the spec that its docstring names. -/

open Sys2Proof Sys2Proof.Machine

/-! ### The machine as a whole -/

/-- What power-up leaves, by the reset values that the spec gives: the module without power at STAGE 0 with a clock of 25, no context and an idle
trust domain (R312, R399, R408, R415), the watchdog limit and the link timeout (R337, R369), and the k-registers of R30 whose reset value is a
number, `KSB`, `KHND`, `KWOVF`, `KMXSTAT` and `KMXROW` among them as `csrr` reads them. That a cell on which no load has fired yet holds the
registers, predicates, packet registers, accumulators and an empty, full cell store of R11 (which speaks of a cell whose load first fires) is log
3's choice, as that memory lists nothing is log 2's. Of the other values of log 3 nothing is said here. -/
def Obligations.ResetState : Prop :=
  let s := State.reset
  s.pkg.host.stage = 0 ∧ s.pkg.host.powered = false ∧ s.pkg.host.ps = 0 ∧ s.pkg.host.clk = 25 ∧ s.pkg.host.busy = false ∧ s.pkg.host.mbop = 0 ∧ s.pkg.host.mbstat = 0 ∧
    s.pkg.host.arg0 = 0 ∧ s.pkg.host.arg1 = 0 ∧ s.pkg.host.desc = List.replicate 64 0 ∧ s.pkg.contexts = [] ∧ s.pkg.convs = [] ∧ s.pkg.trust.td = false ∧ s.pkg.trust.epoch = 0 ∧
    s.pkg.trust.epDrop = 0 ∧ s.pkg.trust.sealF = 0 ∧ s.pkg.trust.barrier = none ∧ s.pkg.watchdogLimit = 2 ^ 28 ∧ s.pkg.linkTimeout = 50 ∧ Memory.wf s.pkg.mem = true ∧
  ∀ c : CellId, let x := s.cellAt c
    (∀ n : XIdx, x.xreg n = ⟨0, .full⟩) ∧ (∀ n : PIdx, n ≠ 0 → x.pred n = false) ∧
    (∀ n : VIdx, (x.vreg n).packet = List.replicate 8 0 ∧ (x.vreg n).st = .full) ∧ (∀ r j, x.accAt r j = 0) ∧ (∀ r, x.poisonedRow r = false) ∧
    (∀ a n, x.load a n = List.replicate n 0) ∧ (∀ off, x.wordFull off = true) ∧ x.fault = none ∧ x.cur = none ∧ x.draw = 0 ∧
    x.k.t = false ∧ x.k.prte = false ∧ x.k.prio = 0 ∧ x.k.cause = 0 ∧ x.k.epc = 0 ∧ x.k.tven = false ∧ x.k.vec = 0 ∧ x.k.fflags = 0 ∧ x.k.te = 0 ∧ x.k.sat = false ∧ x.k.rm = 0 ∧
    x.k.femode0 = 0 ∧ x.k.femode1 = 0 ∧ x.k.cyc = 0 ∧ x.k.ecnt = Vector.replicate 8 0 ∧ x.k.scale = Vector.replicate 8 0x7F ∧
    ∀ k ∈ [0x008#9, 0x009, 0x00E, 0x00F, 0x010], csrValue k (s.focus c) = 0

/-- R12, R54, R55, R68: the core whose turn it is, on a module that runs, fetches the words at the PC of its cell and performs the instruction they
decode to; words that encode none are performed as the reserved encoding they are. Around it, the step counts the cycles of `KCYC` before, and
afterwards notes the faults that were raised and counts the watchdogs (R30, R332, R337); where the agenda names no move, the model's own order chooses
the core (log 1). A step of the hardware is performed in the same way. -/
def Obligations.StepRunsTheDecodedInstruction : Prop :=
  (∀ (s : State) (c : CellId) (rest : List Move), s.agenda = .core c :: rest → s.pkg.host.powered = true → s.pkg.host.runs = true → (s.cellAt c).issues = true →
    let u := clocked s.tick (({ s with agenda := rest } : State).focus c)
    u.cell.badWord = none →
      (∀ i, decode u.cell.fetched = .ok i →
        (∀ t, exec i u = .next t → step s = .next (settled { s with agenda := rest } t)) ∧ (∀ f, exec i u = .fault f → step s = .fault f) ∧
        ∀ r, exec i u = .refused r → step s = .refused r) ∧
      ∀ e t, decode u.cell.fetched = .error e → exec (.reservedEncoding (u.cell.wordAt u.cell.pc)) u = .next t → step s = .next (settled { s with agenda := rest } t)) ∧
  (∀ (s : State) (c : CellId), s.agenda = [] → defaultMove s = some (.core c) →
    let u := clocked s.tick (s.focus c)
    u.cell.badWord = none → ∀ i t, decode u.cell.fetched = .ok i → exec i u = .next t → step s = .next (settled s t)) ∧
  (∀ (s : State) (i : Instr) (rest : List Move) (t : State), s.agenda = .event i :: rest → isStep i = true → exec i { s with agenda := rest } = .next t →
    step s = .next (settled { s with agenda := rest } t)) ∧
  (∀ (n : Nat) (s : State), clocked n s = s.onCell fun c => { c with k := { c.k with cyc := (clocked n s).cell.k.cyc } }) ∧
  ∀ s t : State, settled s t = { t with tick := s.tick + 1, pkg := { t.pkg with boards := (settled s t).pkg.boards, raised := (settled s t).pkg.raised } } ∧
    (settled s t).pkg.boards.map (fun b => { b with watchdog := 0 }) = t.pkg.boards.map (fun b => { b with watchdog := 0 })

/-- Words that the spec writes out with its encodings, of every format of R56-R62, decode to the instructions it says they are: scalar, memory,
stream, packet, channel, remote, conversation and trust-domain words, and commands of four words. -/
def Obligations.WordsOfTheSpecDecode : Prop :=
  decode [0x04C42852] = .ok (.div 6 4 5 true) ∧ decode [0x0521119C] = .ok (.sel 9 1 2 3) ∧ decode [0x18840043] = .ok (.shri 4 4 3) ∧
  decode [0x24414000] = .ok (.lhi 2 true 0x4000) ∧ decode [0x28C20143] = .ok (.lea 6 2 5 3) ∧ decode [0x28A34B08] = .ok (.extf 5 3 11 8) ∧
  decode [0x2C242802] = .ok (.cmpLt 1 4 5) ∧ decode [0x44200002] = .ok (.bp 1 2) ∧ decode [0x5CFFFFFB] = .ok (.loop 7 (-5)) ∧
  decode [0x90050001] = .ok (.feClr 5 .x) ∧ decode [0xE0192901] = .ok (.trap 25 5 2) ∧ decode [0xE0031806] = .ok (.csrw 0 3 0x003) ∧
  decode [0xE0201885] = .ok (.csrr 1 0x023) ∧ decode [0xE00A2008] = .ok (.csrc 0 10 0x004) ∧ decode [0] = .error .reservedMajor ∧
  decode [0x50FFFFFD] = .ok (.bnz 7 (-3)) ∧ decode [0x60A268C3] = .ok (.ld 5 2 3 2 1 2 3) ∧ decode [0x68C32062] = .ok (.st 6 3 1 0 0 3 2) ∧
  decode [0x75226041] = .ok (.ldSync 9 2 1 true 0 0 false 1) ∧ decode [0x7C864061] = .ok (.ldP 4 6 2 0 0 3 1) ∧
  decode [0x80455031] = .ok (.ldV 2 5 2 4 0 3 1) ∧ decode [0x80932042] = .ok (.stV 4 3 1 0 0 4 2) ∧ decode [0x6CE46040] = .ok (.ldS 7 4 3 0 0 2 0) ∧
  decode [0x8503216A] = .ok (.amoFaddF32 8 3 4 true 3) ∧ decode [0x84032220] = .ok (.amoAdd 0 3 4 true false 1) ∧
  decode [0x88A40001] = .ok (.sjoin 5 4) ∧ decode [0x88043803] = .ok (.spub 4 7) ∧ decode [0x8C0B0000] = .ok (.fence 1 3) ∧
  decode [0x8C060002] = .ok (.sbwait 6) ∧ decode [0x8C033003] = .ok (.fenceEng 3 6) ∧ decode [0xA0821880] = .ok (.vadd 4 2 3 2) ∧
  decode [0xA46114F2] = .ok (.vfmul 3 1 2 0x73) ∧ decode [0xA8414300] = .ok (.vcvt 2 1 0x0C 0x08) ∧ decode [0xAD063A04] = .ok (.vrcpstep 8 6 7) ∧
  decode [0xB0C42802] = .ok (.vperm 6 4 5) ∧ decode [0xB5295203] = .ok (.vsmerge 9 9 10) ∧ decode [0xB8620A00] = .ok (.vdice 3 2 1 true) ∧
  decode [0xC0654900] = .ok (.recv 3 5 (some 1) 2) ∧ decode [0xC0440882] = .ok (.send 2 4 false true 1) ∧
  decode [0xC0270043] = .ok (.sendx 1 7 false false 0 true) ∧ decode [0xC4032004] = .ok (.hndBind 3 4) ∧
  decode [0xC8021801] = .ok (.ctlPermit 0 2 3) ∧ decode [0xCC221801] = .ok (.cfgLoad 1 2 3) ∧ decode [0xD0E42900] = .ok (.rld 7 4 5 false 2) ∧
  decode [0xD0C42A81] = .ok (.rst 6 4 5 5) ∧ decode [0xD1282982] = .ok (.rstO 9 8 5 3) ∧ decode [0xD4C42854] = .ok (.ramo 6 4 5 false true 20) ∧
  decode [0xD8A41002] = .ok (.cvSend 5 4 2) ∧ decode [0xD8642903] = .ok (.cvRecv 3 4 5 2) ∧ decode [0xDCA40000] = .ok (.tdBar 5 4) ∧
  decode [0xFC000000, 0x00001000, 0x40000000, 0x63E00004] = .ok (.mxLd ⟨0, 0, 0, 0⟩ 0x1000 0x40000000 0x63E00004) ∧
  decode [0xFC020C68, 0x12244800, 0x00801F00, 0] = .ok (.mxMma ⟨0, 3, 3, 2⟩ 0x12244800 0x00801F00 0) ∧
  decode [0xFC408C44, 6, 0, 0] = .ok (.cpNd ⟨8, 3, 2, 1⟩ 6 0 0) ∧
  decode [0xFC810400, 0x00001000, 0x00003000, 0x000000C1] = .ok (.kvLdk ⟨0, 1, 0, 0⟩ 0x1000 0x3000 0xC1) ∧
  decode [0xFD008C20, 4, 0, 0] = .ok (.chRun ⟨8, 3, 1, 0⟩ 4 0 0)

/-- R54-R71: the decoder reads back every well-formed instruction from the words of its encoding, whatever stands behind them, with each operand at
every value that its field holds. -/
def Obligations.EncodedInstructionsDecode : Prop :=
  ∀ (i : Instr) (rest : List W32), i.wf = true → encode i ≠ [] → (∀ w, i ≠ .reservedEncoding w) → decode (encode i ++ rest) = .ok i

/-- R54-R71: words that decode to an instruction begin with exactly the words of its encoding, and the instruction is well-formed: no other word runs
as it, so that every non-zero field it does not use is refused (R68). -/
def Obligations.DecodedWordsAreTheEncoding : Prop :=
  ∀ (ws : List W32) (i : Instr), decode ws = .ok i → i.wf = true ∧ ∃ rest, ws = encode i ++ rest

/-- The frame of the instructions that work on registers alone: whatever they end in, their result, a hold, a trap or a fault, everything outside the
cell, its stores, its units and every register but the one they write are as before, and of the k-registers at most those of a trap and the flags
change (R22, R24, R85, R168). -/
def Obligations.RegisterFrame : Prop :=
  ∀ (d a b : XIdx) (vd va vb : VIdx) (p q r : PIdx) (w h : Bool) (i : BitVec 16) (m n : BitVec 6) (z k3 : BitVec 3) (disp : BitVec 21) (f src : FmtDesc) (c5 : BitVec 5)
    (kn : BitVec 9) (s t : State),
    let frame : Prop := s.SameOutside t ∧ t.cell.SameStores s.cell ∧ t.cell.SameUnits s.cell ∧ s.cell.k.SameButTrap t.cell.k
    (∀ j ∈ [Instr.add d a b w, .sub d a b w, .mul d a b w, .mulh d a b, .mulhu d a b, .div d a b w, .divu d a b w, .rem d a b w, .remu d a b w, .and d a b, .or d a b, .xor d a b,
        .andn d a b, .orn d a b, .shl d a b w, .shr d a b w, .sra d a b w, .rotl d a b w, .min d a b, .max d a b, .minu d a b, .maxu d a b, .slt d a b, .sltu d a b, .clz d a w,
        .ctz d a w, .popc d a w, .bswap d a w, .sel d a b p, .addi d a i, .andi d a i, .ori d a i, .xori d a i, .slti d a i, .sltui d a i, .shli d a m, .shri d a m, .srai d a m, .lui d i,
        .lhi d h i, .lea d a b z, .extf d a m n, .extfs d a m n, .insf d a m n, .loop d disp, .jalr d a, .csrr d kn, .clen d a, .hndSelf d, .tdStat d],
      exec j s = .next t → frame ∧ s.cell.SameXBut t.cell d ∧ t.cell.v = s.cell.v ∧ t.cell.p = s.cell.p) ∧
    (exec (.call disp) s = .next t → frame ∧ s.cell.SameXBut t.cell 31 ∧ t.cell.v = s.cell.v ∧ t.cell.p = s.cell.p) ∧
    (∀ j ∈ [Instr.cmpEq p a b, .cmpNe p a b, .cmpLt p a b, .cmpGe p a b, .cmpLtu p a b, .cmpGeu p a b, .pand p q r, .por p q r, .pxor p q r, .pnot p q, .pmov p q, .feTest p a .x, .feTest p a .v],
      exec j s = .next t → frame ∧ t.cell.x = s.cell.x ∧ t.cell.v = s.cell.v ∧ ∀ n, n ≠ p → t.cell.pred n = s.cell.pred n) ∧
    (∀ j ∈ [Instr.b disp, .bp p disp, .bnp p disp, .bz a disp, .bnz a disp, .jr a, .ret, .nop, .trap a b p, .eret, .fault a, .brk, .reservedEncoding 0],
      exec j s = .next t → frame ∧ t.cell.x = s.cell.x ∧ t.cell.v = s.cell.v ∧ t.cell.p = s.cell.p) ∧
    ∀ j ∈ [Instr.vadd vd va vb k3, .vsub vd va vb k3, .vmul vd va vb k3, .vmin vd va vb k3, .vmax vd va vb k3, .vabs vd va k3, .vneg vd va k3, .vand vd va vb, .vor vd va vb, .vxor vd va vb,
        .vshl vd va vb k3, .vshr vd va vb k3, .vsra vd va vb k3, .vcmp vd va vb k3, .vsel vd va vb k3, .vfadd vd va vb f, .vfsub vd va vb f, .vfmul vd va vb f, .vfma vd va vb f, .vfmin vd va vb f,
        .vfmax vd va vb f, .vfabs vd va f, .vfneg vd va f, .vfcmp vd va vb f, .vcvt vd va f src, .vpack vd va f src, .vunpack vd va f src, .vrcp vd va, .vrsq vd va, .vexp2 vd va, .vlog2 vd va,
        .vrcpstep vd va vb, .vrsqstep vd va vb, .vsum vd va f, .vmaxr vd va f, .vperm vd va vb, .vbcast vd va c5 f, .vbfly vd va k3 f, .vlen vd va c5, .vbscale vd va vb f, .vquant vd va vb f,
        .vdequant vd va vb f, .vsmerge vd va vb, .vdice vd va c5 w, .vcsc vd va vb, .vnorm vd va vb f],
      exec j s = .next t → frame ∧ t.cell.x = s.cell.x ∧ t.cell.p = s.cell.p ∧ s.cell.SameVBut t.cell vd

/-- Memory keeps its one form: from a state whose memory lists its bytes with strictly rising addresses and no entry at the value of an unlisted byte,
every step leads to such a state, whatever moves. The form is the model's own (log 2). -/
def Obligations.MemoryStaysCanonical : Prop :=
  ∀ s t : State, Memory.wf s.pkg.mem = true → step s = .next t → Memory.wf t.pkg.mem = true

/-- R8: `x0` and `p0` are wired: whatever is written or lands there, `x0` reads zero and full and `p0` true, and no other register changes. `x31` is
the link register of `call` and in every other respect an ordinary register: a write to it is read back, as it is from each of `x1` to `x30`. -/
def Obligations.HardwiredRegisters : Prop :=
  (∀ c : Cell, c.xreg 0 = ⟨0, .full⟩ ∧ c.pred 0 = true) ∧
  (∀ (v : Word) (b : Bool) (s : State), (setX 0 v s).cell.x = s.cell.x ∧ (setP 0 b s).cell.p = s.cell.p ∧ (s.cell.landX 0 v).x = s.cell.x) ∧
  (∀ (d : XIdx) (v : Word) (s : State), d ≠ 0 → (setX d v s).cell.xreg d = ⟨v, .full⟩ ∧ ∀ n, n ≠ d → (setX d v s).cell.xreg n = s.cell.xreg n) ∧
  ∀ (disp : BitVec 21) (s : State), s.FreeX 31 →
    ∃ t, exec (.call disp) s = .next t ∧ t.cell.xreg 31 = ⟨BitVec.ofNat 64 ((s.cell.pc.toNat + 4) % 16384), .full⟩ ∧ ∀ n, n ≠ 31 → t.cell.xreg n = s.cell.xreg n

/-! ### Scalar instructions (R85-R96) -/

/-- R87, the arithmetic and logic operations: the value each writes to `x[d]`, in the 64-bit form and in the `.w` form, when its sources are FULL and
its destination is not PENDING. R87, the shifts, counts, byte reversal and selection, each with a `.w` form where it has one. A shift amount is
`B[5:0]`, or `B[4:0]` in the `.w` form; each count is given by the bits of its operand. -/
def Obligations.ArithmeticAndLogic : Prop :=
  (
    ∀ (d a b : XIdx) (A B : Word) (s : State), s.HasX a A → s.HasX b B → s.FreeX d →
      exec (.add d a b false) s = .next (s.wroteX d (A + B)) ∧
      exec (.add d a b true) s = .next (s.wroteX d ((A.setWidth 32 + B.setWidth 32).signExtend 64)) ∧
      exec (.sub d a b false) s = .next (s.wroteX d (A - B)) ∧
      exec (.sub d a b true) s = .next (s.wroteX d ((A.setWidth 32 - B.setWidth 32).signExtend 64)) ∧
      exec (.mul d a b false) s = .next (s.wroteX d (BitVec.ofNat 64 (A.toNat * B.toNat))) ∧
      exec (.mul d a b true) s =
        .next (s.wroteX d ((BitVec.ofNat 32 ((A.setWidth 32).toNat * (B.setWidth 32).toNat)).signExtend 64)) ∧
      exec (.mulh d a b) s = .next (s.wroteX d (BitVec.ofInt 64 ((A.toInt * B.toInt) >>> 64))) ∧
      exec (.mulhu d a b) s = .next (s.wroteX d (BitVec.ofNat 64 ((A.toNat * B.toNat) >>> 64))) ∧
      exec (.and d a b) s = .next (s.wroteX d (A &&& B)) ∧
      exec (.or d a b) s = .next (s.wroteX d (A ||| B)) ∧
      exec (.xor d a b) s = .next (s.wroteX d (A ^^^ B)) ∧
      exec (.andn d a b) s = .next (s.wroteX d (A &&& ~~~B)) ∧
      exec (.orn d a b) s = .next (s.wroteX d (A ||| ~~~B)) ∧
      exec (.min d a b) s = .next (s.wroteX d (BitVec.ofInt 64 (min A.toInt B.toInt))) ∧
      exec (.max d a b) s = .next (s.wroteX d (BitVec.ofInt 64 (max A.toInt B.toInt))) ∧
      exec (.minu d a b) s = .next (s.wroteX d (BitVec.ofNat 64 (min A.toNat B.toNat))) ∧
      exec (.maxu d a b) s = .next (s.wroteX d (BitVec.ofNat 64 (max A.toNat B.toNat))) ∧
      exec (.slt d a b) s = .next (s.wroteX d (if A.toInt < B.toInt then 1 else 0)) ∧
      exec (.sltu d a b) s = .next (s.wroteX d (if A.toNat < B.toNat then 1 else 0))) ∧
  (
    ∀ (d a b : XIdx) (A B : Word) (s : State), s.HasX a A → s.HasX b B → s.FreeX d →
      exec (.shl d a b false) s = .next (s.wroteX d (A <<< (B.toNat % 64))) ∧
      exec (.shl d a b true) s = .next (s.wroteX d ((A.setWidth 32 <<< (B.toNat % 32)).signExtend 64)) ∧
      exec (.shr d a b false) s = .next (s.wroteX d (A >>> (B.toNat % 64))) ∧
      exec (.shr d a b true) s = .next (s.wroteX d ((A.setWidth 32 >>> (B.toNat % 32)).signExtend 64)) ∧
      exec (.sra d a b false) s = .next (s.wroteX d (A.sshiftRight (B.toNat % 64))) ∧
      exec (.sra d a b true) s = .next (s.wroteX d (((A.setWidth 32).sshiftRight (B.toNat % 32)).signExtend 64)) ∧
      exec (.rotl d a b false) s = .next (s.wroteX d (A.rotateLeft (B.toNat % 64))) ∧
      exec (.rotl d a b true) s = .next (s.wroteX d (((A.setWidth 32).rotateLeft (B.toNat % 32)).signExtend 64)) ∧
      (∃ n : Nat, exec (.clz d a false) s = .next (s.wroteX d (BitVec.ofNat 64 n)) ∧ n ≤ 64 ∧
        (∀ i < n, A.getMsbD i = false) ∧ (n < 64 → A.getMsbD n = true)) ∧
      (∃ n : Nat, exec (.clz d a true) s = .next (s.wroteX d (BitVec.ofNat 64 n)) ∧ n ≤ 32 ∧
        (∀ i < n, (A.setWidth 32).getMsbD i = false) ∧ (n < 32 → (A.setWidth 32).getMsbD n = true)) ∧
      (∃ n : Nat, exec (.ctz d a false) s = .next (s.wroteX d (BitVec.ofNat 64 n)) ∧ n ≤ 64 ∧
        (∀ i < n, A.getLsbD i = false) ∧ (n < 64 → A.getLsbD n = true)) ∧
      (∃ n : Nat, exec (.ctz d a true) s = .next (s.wroteX d (BitVec.ofNat 64 n)) ∧ n ≤ 32 ∧
        (∀ i < n, A.getLsbD i = false) ∧ (n < 32 → A.getLsbD n = true)) ∧
      exec (.popc d a false) s = .next (s.wroteX d (BitVec.ofNat 64 (((List.range 64).filter A.getLsbD).length))) ∧
      exec (.popc d a true) s = .next (s.wroteX d (BitVec.ofNat 64 (((List.range 32).filter A.getLsbD).length))) ∧
      (∃ r : Word, exec (.bswap d a false) s = .next (s.wroteX d r) ∧
        ∀ k < 8, r.extractLsb' (8 * k) 8 = A.extractLsb' (56 - 8 * k) 8) ∧
      (∃ r : W32, exec (.bswap d a true) s = .next (s.wroteX d (r.signExtend 64)) ∧
        ∀ k < 4, r.extractLsb' (8 * k) 8 = A.extractLsb' (24 - 8 * k) 8) ∧
      ∀ p : PIdx, exec (.sel d a b p) s = .next (s.wroteX d (if s.cell.pred p then A else B)))

/-- R88: the division family truncates toward zero and raises no flag on a divisor other than 0; on a divisor of 0 it writes the value of R88 and
merges DZ, and traps with ARITH at the next instruction where `KFRM.TE` enables DZ (R23); without an enabled vector that is a fault, of which the
result is dropped (log 17's choice). -/
def Obligations.Division : Prop :=
  ∀ (d a b : XIdx) (A B : Word) (s : State), s.HasX a A → s.HasX b B → s.FreeX d →
    (B ≠ 0 →
      exec (.div d a b false) s = .next (s.wroteX d (BitVec.ofInt 64 (A.toInt.tdiv B.toInt))) ∧
      exec (.rem d a b false) s = .next (s.wroteX d (BitVec.ofInt 64 (A.toInt - B.toInt * A.toInt.tdiv B.toInt))) ∧
      exec (.divu d a b false) s = .next (s.wroteX d (BitVec.ofNat 64 (A.toNat / B.toNat))) ∧
      exec (.remu d a b false) s = .next (s.wroteX d (BitVec.ofNat 64 (A.toNat % B.toNat)))) ∧
    (B.setWidth 32 ≠ 0#32 →
      exec (.div d a b true) s =
        .next (s.wroteX d ((BitVec.ofInt 32 ((A.setWidth 32).toInt.tdiv (B.setWidth 32).toInt)).signExtend 64)) ∧
      exec (.rem d a b true) s =
        .next (s.wroteX d ((BitVec.ofInt 32
          ((A.setWidth 32).toInt - (B.setWidth 32).toInt * (A.setWidth 32).toInt.tdiv (B.setWidth 32).toInt)).signExtend 64)) ∧
      exec (.divu d a b true) s =
        .next (s.wroteX d ((BitVec.ofNat 32 ((A.setWidth 32).toNat / (B.setWidth 32).toNat)).signExtend 64)) ∧
      exec (.remu d a b true) s =
        .next (s.wroteX d ((BitVec.ofNat 32 ((A.setWidth 32).toNat % (B.setWidth 32).toNat)).signExtend 64))) ∧
    ∀ e ∈ [(Instr.div d a b false, B = 0, (-1 : Word)), (.divu d a b false, B = 0, -1), (.rem d a b false, B = 0, A),
        (.remu d a b false, B = 0, A), (.div d a b true, B.setWidth 32 = 0#32, -1), (.divu d a b true, B.setWidth 32 = 0#32, -1),
        (.rem d a b true, B.setWidth 32 = 0#32, (A.setWidth 32).signExtend 64),
        (.remu d a b true, B.setWidth 32 = 0#32, (A.setWidth 32).signExtend 64)],
      e.2.1 →
      (s.cell.k.te &&& flDZ = 0 → exec e.1 s = .next ((s.wroteX d e.2.2).onCell (Cell.mergeFlags flDZ))) ∧
      (s.cell.k.te &&& flDZ ≠ 0 → s.cell.k.tven = true → s.cell.k.t = false →
        exec e.1 s = .next (trapEntry cARITH 0x08 0 (s.cell.pc + 4) ((s.wroteX d e.2.2).onCell (Cell.mergeFlags flDZ)))) ∧
      (s.cell.k.te &&& flDZ ≠ 0 → (s.cell.k.tven = false ∨ s.cell.k.t = true) → exec e.1 s = .next (raise cARITH 0x08 0 s))

/-- R90: the immediate instructions. R92: bit fields and scaled addresses. A field of w + 1 bits at position p is read zero- or sign-extended, or put
into `x[d]`, whose other bits stand. -/
def Obligations.ImmediatesAndFields : Prop :=
  (
    ∀ (d a : XIdx) (A : Word) (i : BitVec 16) (sh : BitVec 6) (s : State), s.HasX a A → s.FreeX d →
      exec (.addi d a i) s = .next (s.wroteX d (A + BitVec.ofInt 64 i.toInt)) ∧
      exec (.andi d a i) s = .next (s.wroteX d (A &&& BitVec.ofNat 64 i.toNat)) ∧
      exec (.ori d a i) s = .next (s.wroteX d (A ||| BitVec.ofNat 64 i.toNat)) ∧
      exec (.xori d a i) s = .next (s.wroteX d (A ^^^ BitVec.ofNat 64 i.toNat)) ∧
      exec (.shli d a sh) s = .next (s.wroteX d (A <<< sh.toNat)) ∧
      exec (.shri d a sh) s = .next (s.wroteX d (A >>> sh.toNat)) ∧
      exec (.srai d a sh) s = .next (s.wroteX d (A.sshiftRight sh.toNat)) ∧
      exec (.slti d a i) s = .next (s.wroteX d (if A.toInt < i.toInt then 1 else 0)) ∧
      exec (.sltui d a i) s = .next (s.wroteX d (if A.toNat < i.toNat then 1 else 0)) ∧
      exec (.lui d i) s = .next (s.wroteX d (BitVec.ofInt 64 (i.toInt * 65536))) ∧
      (d = a →
        exec (.lhi d false i) s = .next (s.wroteX d (A.extractLsb' 48 16 ++ i ++ A.extractLsb' 0 32)) ∧
        exec (.lhi d true i) s = .next (s.wroteX d (i ++ A.extractLsb' 0 48)))) ∧
  (
    ∀ (d a b : XIdx) (A B X : Word) (w p : BitVec 6) (sh : BitVec 3) (s : State),
      s.HasX a A → s.HasX b B → fieldFits w p = true →
      (s.FreeX d →
        exec (.lea d a b sh) s = .next (s.wroteX d (A + (B <<< sh.toNat))) ∧
        exec (.extf d a w p) s = .next (s.wroteX d (BitVec.ofNat 64 (A.toNat / 2 ^ p.toNat % 2 ^ (w.toNat + 1)))) ∧
        exec (.extfs d a w p) s = .next (s.wroteX d ((A.extractLsb' p.toNat (w.toNat + 1)).signExtend 64))) ∧
      (s.HasX d X → ∃ r : Word, exec (.insf d a w p) s = .next (s.wroteX d r) ∧
        ∀ i < 64, r.getLsbD i = if p.toNat ≤ i ∧ i ≤ p.toNat + w.toNat then A.getLsbD (i - p.toNat) else X.getLsbD i))

/-- R93: compares and predicate operations; a write to `p0` is discarded, so that it reads as true before and after (R8). -/
def Obligations.ComparesAndPredicates : Prop :=
  (∀ (d : PIdx) (a b : XIdx) (A B : Word) (s : State), s.HasX a A → s.HasX b B →
    exec (.cmpEq d a b) s = .next (s.wroteP d (decide (A = B))) ∧
    exec (.cmpNe d a b) s = .next (s.wroteP d (decide (A ≠ B))) ∧
    exec (.cmpLt d a b) s = .next (s.wroteP d (decide (A.toInt < B.toInt))) ∧
    exec (.cmpGe d a b) s = .next (s.wroteP d (decide (A.toInt ≥ B.toInt))) ∧
    exec (.cmpLtu d a b) s = .next (s.wroteP d (decide (A.toNat < B.toNat))) ∧
    exec (.cmpGeu d a b) s = .next (s.wroteP d (decide (A.toNat ≥ B.toNat)))) ∧
  (∀ (d a b : PIdx) (s : State),
    exec (.pand d a b) s = .next (s.wroteP d (s.cell.pred a && s.cell.pred b)) ∧
    exec (.por d a b) s = .next (s.wroteP d (s.cell.pred a || s.cell.pred b)) ∧
    exec (.pxor d a b) s = .next (s.wroteP d (xor (s.cell.pred a) (s.cell.pred b))) ∧
    exec (.pnot d a) s = .next (s.wroteP d (!s.cell.pred a)) ∧
    exec (.pmov d a) s = .next (s.wroteP d (s.cell.pred a))) ∧
  ∀ (d n : PIdx) (b : Bool) (s : State), (s.wroteP d b).cell.pred n = if n = 0 then true else if n = d then b else s.cell.pred n

/-- R94-R96: branches, calls, loops and jumps. A target is computed modulo 16 KiB; the link is the address of the next instruction; a register target
with bits 1:0 non-zero faults with MISALIGNED, and writes no link. -/
def Obligations.ControlFlow : Prop :=
  ∀ (disp : BitVec 21) (s : State),
    let T : Pc := BitVec.ofInt 14 (s.cell.pc.toNat + 4 * disp.toInt)
    let lk : Word := BitVec.ofNat 64 ((s.cell.pc.toNat + 4) % 16384)
    exec (.b disp) s = .next (jump T s) ∧
    (∀ p : PIdx, exec (.bp p disp) s = .next (if s.cell.pred p then jump T s else advance 4 s) ∧
      exec (.bnp p disp) s = .next (if s.cell.pred p then advance 4 s else jump T s)) ∧
    (s.FreeX 31 → exec (.call disp) s = .next (jump T (setX 31 lk s))) ∧
    ∀ (a : XIdx) (A : Word), s.HasX a A →
      exec (.bz a disp) s = .next (if A = 0 then jump T s else advance 4 s) ∧
      exec (.bnz a disp) s = .next (if A = 0 then advance 4 s else jump T s) ∧
      exec (.loop a disp) s = .next (if 1 < A.toNat then jump T (setX a (A - 1) s) else s.wroteX a 0) ∧
      (A.toNat % 4 = 0 →
        exec (.jr a) s = .next (jump (BitVec.ofNat 14 A.toNat) s) ∧
        (∀ d, s.FreeX d → exec (.jalr d a) s = .next (jump (BitVec.ofNat 14 A.toNat) (setX d lk s))) ∧
        (a = 31 → exec .ret s = .next (jump (BitVec.ofNat 14 A.toNat) s))) ∧
      (A.toNat % 4 ≠ 0 →
        exec (.jr a) s = .next (raise cMISALIGNED 0 (A.setWidth 32) s) ∧
        (∀ d, s.FreeX d → exec (.jalr d a) s = .next (raise cMISALIGNED 0 (A.setWidth 32) s)) ∧
        (a = 31 → exec .ret s = .next (raise cMISALIGNED 0 (A.setWidth 32) s)))

/-! ### Full/empty state, traps and k-registers (R15-R30, R97-R111) -/

/-- R98, the register forms: each acts on the state of the register and never on its value, and waits only for a PENDING one. R17: an instruction
whose source is PENDING, or EMPTY with reader mode park, is held at issue, and nothing else changes; when the hold expires it parks on that register.
-/
def Obligations.RegisterStates : Prop :=
  (
    (∀ (a : XIdx) (p : PIdx) (s : State), (s.cell.xreg a).st = .full →
      exec (.feSet a .x) s = .next (advance 4 s) ∧
      exec (.feTest p a .x) s = .next (s.wroteP p true) ∧
      exec (.park a .x) s = .next (advance 4 s) ∧
      exec (.feClr a .x) s = .next (advance 4 (s.onCell (Cell.putX a ⟨(s.cell.xreg a).val, .empty⟩)))) ∧
    (∀ (a : XIdx) (p : PIdx) (s : State), (s.cell.xreg a).st = .empty →
      exec (.feSet a .x) s = .next (advance 4 (s.onCell (Cell.landX a (s.cell.xreg a).val))) ∧
      exec (.feTest p a .x) s = .next (s.wroteP p false) ∧
      exec (.feClr a .x) s = .next (advance 4 s)) ∧
    (∀ (a : XIdx) (p : PIdx) (s : State), (s.cell.xreg a).st = .pending →
      exec (.feSet a .x) s = .next (hold .staying s) ∧
      exec (.feTest p a .x) s = .next (s.wroteP p false) ∧
      exec (.feClr a .x) s = .next (hold .staying s)) ∧
    (∀ (a : VIdx) (p : PIdx) (s : State), (s.cell.vreg a).st = .full →
      exec (.feSet a .v) s = .next (advance 4 s) ∧
      exec (.feTest p a .v) s = .next (s.wroteP p true) ∧
      exec (.park a .v) s = .next (advance 4 s) ∧
      exec (.feClr a .v) s = .next (advance 4 (s.onCell (Cell.putV a { s.cell.vreg a with st := .empty })))) ∧
    (∀ (a : VIdx) (p : PIdx) (s : State), (s.cell.vreg a).st = .empty →
      (∃ t, exec (.feSet a .v) s = .next t ∧ t.cell.pc = s.cell.pc + 4 ∧ t.cell.vreg a = { s.cell.vreg a with st := .full } ∧ t.cell.x = s.cell.x ∧
        ∀ n, n ≠ a → t.cell.vreg n = s.cell.vreg n) ∧
      exec (.feTest p a .v) s = .next (s.wroteP p false) ∧
      exec (.feClr a .v) s = .next (advance 4 s)) ∧
    (∀ (a : VIdx) (p : PIdx) (s : State), (s.cell.vreg a).st = .pending →
      exec (.feSet a .v) s = .next (hold .staying s) ∧
      exec (.feTest p a .v) s = .next (s.wroteP p false) ∧
      exec (.feClr a .v) s = .next (hold .staying s)) ∧
    (∀ (a : VIdx) (s : State) (h : BitVec 6), (s.cell.vreg a).st ≠ .full → s.cell.k.t = false → s.cell.cur = some h → s.cell.waitEntries < 64 →
      ∃ t, exec (.park a .v) s = .next t ∧ t.cell.cur = none ∧ (t.cell.hnd[h.toNat]'h.isLt).st = .parked ∧
        (t.cell.hnd[h.toNat]'h.isLt).pc = s.cell.pc ∧ (t.cell.hnd[h.toNat]'h.isLt).key = some (.regV a) ∧ t.cell.v = s.cell.v) ∧
    ∀ (a : XIdx) (s : State) (h : BitVec 6), (s.cell.xreg a).st ≠ .full → s.cell.k.t = false → s.cell.cur = some h → s.cell.waitEntries < 64 →
      ∃ t, exec (.park a .x) s = .next t ∧ t.cell.cur = none ∧ (t.cell.hnd[h.toNat]'h.isLt).st = .parked ∧
        (t.cell.hnd[h.toNat]'h.isLt).pc = s.cell.pc ∧ (t.cell.hnd[h.toNat]'h.isLt).key = some (.regX a) ∧ t.cell.x = s.cell.x) ∧
  (∀ (a : VIdx) (s : State), (s.cell.vreg a).st = .pending ∨ ((s.cell.vreg a).st = .empty ∧ s.cell.trapModeV a = false) →
    ∀ (d b : VIdx) (k : BitVec 3) (f g : FmtDesc), ∀ j ∈ [Instr.vadd d a b k, .vabs d a k, .vfadd d a b f, .vcvt d a f g], exec j s = .next (hold (.expiring (.regV a)) s)) ∧
  (
    ∀ (a : XIdx) (s : State), (s.cell.xreg a).st = .pending ∨ ((s.cell.xreg a).st = .empty ∧ s.cell.trapModeX a = false) →
      (∀ (d b : XIdx) (w : Bool) (p : PIdx) (i : BitVec 16) (disp : BitVec 21),
        ∀ j ∈ [Instr.add d a b w, .mul d a b w, .div d a b w, .addi d a i, .cmpLt p a b, .bz a disp, .loop a disp, .jr a, .jalr d a],
          exec j s = .next (hold (.expiring (.regX a)) s)) ∧
      ∀ h : BitVec 6, s.cell.hold = some (.expiring (.regX a)) → s.cell.cur = some h → s.cell.k.t = false → s.cell.waitEntries < 64 →
        ∃ t, exec (.holdExpiry s.here) s = .next t ∧ t.cell.cur = none ∧ (t.cell.hnd[h.toNat]'h.isLt).st = .parked ∧
          (t.cell.hnd[h.toNat]'h.isLt).pc = s.cell.pc ∧ (t.cell.hnd[h.toNat]'h.isLt).key = some (.regX a))

/-- R99, the cell-store forms: an address outside the cell store is FE_SPACE, one off a word boundary MISALIGNED; otherwise they act on the full bit
of the word and leave its data. R100 and R18: `fe.mode` writes bit a of `KFEMODE0` or `KFEMODE1`, but for `x0`, and the bit selects a trap on the read
of an EMPTY register. -/
def Obligations.WordStatesAndReaderModes : Prop :=
  (
    ∀ (a : XIdx) (A : Word) (p : PIdx) (s : State), s.HasX a A →
      ((∀ off, regionOf A ≠ .cell off) → ∀ i ∈ [Instr.feSet a .word, .feClr a .word, .feTest p a .word, .park a .word],
        exec i s = .next (raise cFE_SPACE 0 (A.setWidth 32) s)) ∧
      ∀ off, regionOf A = .cell off →
        (off % 4 ≠ 0 → ∀ i ∈ [Instr.feSet a .word, .feClr a .word, .feTest p a .word, .park a .word],
          exec i s = .next (raise cMISALIGNED 0 (A.setWidth 32) s)) ∧
        (off % 4 = 0 → s.cell.storeBusy = false →
          exec (.feTest p a .word) s = .next (s.wroteP p (s.cell.wordFull off)) ∧
          (s.cell.wordFull off = true → exec (.park a .word) s = .next (advance 4 s)) ∧
          (∃ t, exec (.feSet a .word) s = .next t ∧ t.cell.wordFull off = true ∧ t.cell.store = s.cell.store ∧
            t.cell.pc = s.cell.pc + 4 ∧ ∀ o, o / 4 ≠ off / 4 → t.cell.wordFull o = s.cell.wordFull o) ∧
          ∃ t, exec (.feClr a .word) s = .next t ∧ t.cell.wordFull off = false ∧ t.cell.store = s.cell.store ∧
            t.cell.pc = s.cell.pc + 4 ∧ ∀ o, o / 4 ≠ off / 4 → t.cell.wordFull o = s.cell.wordFull o)) ∧
  (
    ∀ (m : Bool) (a : XIdx) (s : State),
      (∃ t, exec (.feMode m a false) s = .next t ∧ t.cell.pc = s.cell.pc + 4 ∧ t.cell.x = s.cell.x ∧ t.cell.k.femode1 = s.cell.k.femode1 ∧
        ∀ n : XIdx, t.cell.trapModeX n = if n = a ∧ a ≠ 0 then m else s.cell.trapModeX n) ∧
      (∃ t, exec (.feMode m a true) s = .next t ∧ t.cell.pc = s.cell.pc + 4 ∧ t.cell.v = s.cell.v ∧ t.cell.k.femode0 = s.cell.k.femode0 ∧
        ∀ n : VIdx, t.cell.trapModeV n = if n = a then m else s.cell.trapModeV n) ∧
      ∀ (d b : XIdx), (s.cell.xreg a).st = .empty → s.cell.trapModeX a = true → s.cell.k.tven = true → s.cell.k.t = false →
        exec (.add d a b false) s = .next (trapEntry cFE_TRAP (a.setWidth 8) 0 s.cell.pc s))

/-- R24, R25: a trap condition saves the PC that R23 gives it and its code, detail and info, sets `KSTAT.T`, and goes on at the vector with the
registers as they stand; without an enabled vector, or inside a trap handler, it is a fabric-load fault with its code, whose record holds `KEPC` and
`KCAUSE` in the second case, and the result of the instruction is dropped (log 17's choice). Inside a trap handler, an instruction that would park is
a fault with WAIT_ILLEGAL. R23, R24, R103-R107: `nop`, `trap`, `brk`, `eret` and `fault`. -/
def Obligations.TrapEntryAndReturn : Prop :=
  (
    (∀ (code detail : Byte) (info : W32) (epc : Pc) (done s : State),
      (s.cell.k.tven = true → s.cell.k.t = false → trap code detail info epc done s = trapEntry code detail info epc done) ∧
      ((s.cell.k.tven = false ∨ s.cell.k.t = true) → trap code detail info epc done s = raise code detail info s) ∧
      (s.cell.k.t = true → s.cell.fault = none → ∃ f, (raise code detail info s).cell.fault = some f ∧ f.code = code ∧ f.aux0 = s.cell.k.epc.setWidth 32 ∧ f.aux1 = s.cell.k.cause) ∧
      let t := trapEntry code detail info epc done
      t.cell.k.epc = epc ∧ t.cell.k.cause = info ++ 0#8 ++ detail ++ 0#8 ++ code ∧ t.cell.k.t = true ∧ t.cell.pc = done.cell.k.vec ∧ t.cell.cur = done.cell.cur ∧ t.cell.x = done.cell.x ∧
        t.cell.v = done.cell.v ∧ t.cell.p = done.cell.p ∧ t.pkg = done.pkg ∧ (∀ l c n, t.cell.pend ≠ .fence l c n) ∧
        ((∀ l c n, done.cell.pend ≠ .fence l c n) → t.cell.hnd = done.cell.hnd)) ∧
    (∀ (k : ParkKey) (s : State), s.cell.k.t = true → park k s = raise cWAIT_ILLEGAL 0 0 s) ∧
    ∀ (a : XIdx) (k : ParkKey) (s : State), s.cell.k.t = true →
      ((s.cell.xreg a).st ≠ .full → exec (.park a .x) s = .next (raise cWAIT_ILLEGAL 0 0 s)) ∧
      (s.cell.hold = some (.expiring k) → exec (.holdExpiry s.here) s = .next (raise cWAIT_ILLEGAL 0 0 s))) ∧
  (
    ∀ s : State,
      exec .nop s = .next (advance 4 s) ∧
      (∀ (c e : BitVec 5) (p : PIdx), s.cell.pred p = false → exec (.trap c e p) s = .next (advance 4 s)) ∧
      (∀ (c e : BitVec 5) (p : PIdx), s.cell.pred p = true →
        (c ∈ [0x03#5, 0x0D, 0x11, 0x19] ∨ (c ∈ [0x0B#5, 0x0C] ∧ s.cell.k.prte = true)) → s.cell.k.tven = true → s.cell.k.t = false →
        ∃ t, exec (.trap c e p) s = .next t ∧ t.cell.pc = s.cell.k.vec ∧ t.cell.k.epc = s.cell.pc + 4 ∧ t.cell.k.t = true ∧
          t.cell.k.cause = BitVec.ofNat 64 (e.toNat * 2 ^ 16 + c.toNat) ∧ t.cell.x = s.cell.x ∧ t.cell.v = s.cell.v ∧ t.cell.p = s.cell.p) ∧
      (∀ (c e : BitVec 5) (p : PIdx), s.cell.pred p = true →
        (c ∉ [0x03#5, 0x0D, 0x11, 0x19, 0x0B, 0x0C] ∨ (c ∈ [0x0B#5, 0x0C] ∧ s.cell.k.prte = false) ∨ s.cell.k.tven = false ∨ s.cell.k.t = true) →
        exec (.trap c e p) s = .next (raise (c.setWidth 8) (e.setWidth 8) 0 s)) ∧
      (s.cell.k.tven = true → s.cell.k.t = false →
        ∃ t, exec .brk s = .next t ∧ t.cell.pc = s.cell.k.vec ∧ t.cell.k.epc = s.cell.pc + 4 ∧ t.cell.k.t = true ∧
          t.cell.k.cause = 0x19 ∧ t.cell.x = s.cell.x ∧ t.cell.v = s.cell.v ∧ t.cell.p = s.cell.p) ∧
      ((s.cell.k.tven = false ∨ s.cell.k.t = true) → exec .brk s = .next (raise cBREAKPOINT 0 0 s)) ∧
      (s.cell.k.t = true → ∃ t, exec .eret s = .next t ∧ t.cell.pc = s.cell.k.epc &&& 0x3FFC#14 ∧ t.cell.k.t = false ∧
        t.cell.k.epc = s.cell.k.epc ∧ t.cell.k.cause = s.cell.k.cause ∧ t.cell.x = s.cell.x ∧ t.cell.v = s.cell.v ∧ t.cell.p = s.cell.p) ∧
      (s.cell.k.t = false → exec .eret s = .next (raise cILLEGAL 0 0 s)) ∧
      (∀ c : BitVec 5, c ≠ 0 → exec (.fault c) s = .next (raise (c.setWidth 8) 0 0 s)) ∧
      exec (.fault 0) s = .next (raise (if 1 ≤ s.cell.k.cause.toNat % 256 ∧ s.cell.k.cause.toNat % 256 ≤ 0x1D
        then BitVec.ofNat 8 (s.cell.k.cause.toNat % 256) else cILLEGAL) 0 0 s))

/-- R332, R333, R336: a fabric-load fault stops the cell and keeps the record of its first fault, with the trap state in AUX where it was raised inside a
trap handler and zeros where it was not; R68: a reserved encoding faults with ILLEGAL, and a `csrr`, `csrw`, `csrs` or `csrc` of a
k-register that R27 does not list is such an encoding: no words decode to one. -/
def Obligations.FaultRecords : Prop :=
  (∀ (code detail : Byte) (info : W32) (s : State), s.cell.fault = none →
    ∃ f, (raise code detail info s).cell.fault = some f ∧ f.code = code ∧ f.detail = detail ∧ f.info = info ∧ f.pc = s.cell.pc ∧
      f.word = s.cell.wordAt s.cell.pc ∧ f.t = s.cell.k.t ∧
      (s.cell.k.t = true → f.aux1 = s.cell.k.cause ∧ f.aux0 = s.cell.k.epc.setWidth 32) ∧ (s.cell.k.t = false → f.aux1 = 0 ∧ f.aux0 = 0) ∧ f.src = 0 ∧
      (raise code detail info s).cell.stopped = true) ∧
  (∀ (code detail : Byte) (info : W32) (s : State) (f : FaultRec), s.cell.fault = some f → (raise code detail info s).cell.fault = some f) ∧
  (∀ (w : W32) (s : State), s.cell.fault = none →
    ∃ t f, exec (.reservedEncoding w) s = .next t ∧ t.cell.fault = some f ∧ f.code = 0x01 ∧ f.word = w ∧ f.pc = s.cell.pc ∧
      t.cell.stopped = true ∧ t.cell.x = s.cell.x ∧ t.cell.v = s.cell.v ∧ t.cell.p = s.cell.p ∧ t.cell.k = s.cell.k ∧ t.pkg = s.pkg) ∧
  ∀ (ws : List W32) (d a : XIdx) (k : BitVec 9),
    (decode ws = .ok (.csrr d k) ∨ decode ws = .ok (.csrw d a k) ∨ decode ws = .ok (.csrs d a k) ∨ decode ws = .ok (.csrc d a k)) →
      k.toNat ≤ 0x010 ∨ (0x018 ≤ k.toNat ∧ k.toNat ≤ 0x027) ∨ (0x030 ≤ k.toNat ∧ k.toNat ≤ 0x03F)

/-- R27-R30, R108, R109: a k-register is read and written by its number; a write that would change a field only runtime level may write faults with
PRIVILEGED at user level and writes nothing; those fields are R30's: `KCYC`, the counts of `KWOVF` and `KMXROW`, the bases and sizes of the parameter
windows. R28 and R30, what a written k-register reads as afterwards: RW fields take the value, reserved and RO
fields keep theirs, and RM takes no value of 5 to 7. -/
def Obligations.ControlAndStatusRegisters : Prop :=
  (
    ∀ (d a : XIdx) (k : BitVec 9) (A : Word) (s : State), s.FreeX d → (k = 0x004#9 → s.cell.flagsPending = false) →
      exec (.csrr d k) s = .next (s.wroteX d (csrValue k s)) ∧
      (s.HasX a A → ∀ e ∈ [(Instr.csrw d a k, A), (.csrs d a k, csrValue k s ||| A), (.csrc d a k, csrValue k s &&& ~~~A)],
        ((s.runtime = true ∨ (csrValue k s ^^^ e.2) &&& csrRpMask k = 0) →
          exec e.1 s = .next (advance 4 (setX d (csrValue k s) (s.onCell (csrWrite k e.2))))) ∧
        (s.runtime = false → (csrValue k s ^^^ e.2) &&& csrRpMask k ≠ 0 → exec e.1 s = .next (raise cPRIVILEGED 0 0 s)))) ∧
  (csrRpMask 0x00A = -1 ∧ csrRpMask 0x00E = 0xFFFF_FFFF ∧ csrRpMask 0x010 = 0xFFFF_001F ∧
    (∀ n < 8, csrRpMask (BitVec.ofNat 9 (0x030 + n)) = ~~~0x3F#64 ∧ csrRpMask (BitVec.ofNat 9 (0x038 + n)) = 0xFF_FFFF_FFFF) ∧
    ∀ k : BitVec 9, k ∉ [0x00A#9, 0x00E, 0x010] → k.toNat < 0x030 ∨ 0x040 ≤ k.toNat → csrRpMask k = 0) ∧
  (
    ∀ (v : Word) (s : State),
      let w (k : BitVec 9) : State := s.onCell (csrWrite k v)
      csrValue 0x000 (w 0x000) = (csrValue 0x000 s &&& ~~~0x4#64) ||| (v &&& 0x4#64) ∧
      csrValue 0x001 (w 0x001) = v &&& 0xFFFF_FFFF_00FF_00FF#64 ∧
      csrValue 0x002 (w 0x002) = v &&& 0x3FFC#64 ∧
      csrValue 0x003 (w 0x003) = v &&& 0x3FFD#64 ∧
      csrValue 0x004 (w 0x004) = v &&& 0x1F#64 ∧
      csrValue 0x005 (w 0x005) = (v &&& 0x1F08#64) ||| (if v.toNat % 8 < 5 then v &&& 0x7#64 else s.cell.k.rm.setWidth 64) ∧
      csrValue 0x006 (w 0x006) = v &&& 0xFFFF_FFFE#64 ∧
      csrValue 0x007 (w 0x007) = v &&& 0xFFFF_FFFF#64 ∧
      (∀ k ∈ [0x008#9, 0x009, 0x00C, 0x00D], csrValue k (w k) = csrValue k s) ∧
      csrValue 0x00A (w 0x00A) = v ∧
      csrValue 0x00B (w 0x00B) = v ∧
      csrValue 0x00E (w 0x00E) = v &&& 0xFFFF_FFFF#64 ∧
      csrValue 0x00F (w 0x00F) = (csrValue 0x00F s &&& ~~~0x1#64) ||| (v &&& 0x1#64) ∧
      csrValue 0x010 (w 0x010) = v &&& 0xFFFF_001F#64 ∧
      ∀ n < 8,
        csrValue (BitVec.ofNat 9 (0x018 + n)) (w (BitVec.ofNat 9 (0x018 + n))) = v &&& 0xFF#64 ∧
        csrValue (BitVec.ofNat 9 (0x020 + n)) (w (BitVec.ofNat 9 (0x020 + n))) = v &&& 0xFFFF_FFFF#64 ∧
        csrValue (BitVec.ofNat 9 (0x030 + n)) (w (BitVec.ofNat 9 (0x030 + n))) = v &&& ~~~0x3F#64 ∧
        csrValue (BitVec.ofNat 9 (0x038 + n)) (w (BitVec.ofNat 9 (0x038 + n))) = v &&& 0xFF_FFFF_FFFF#64)

/-! ### Memory (R228-R247) -/

/-- R15, R229-R231, R235, R236, R242: a load whose address is aligned and may be read leaves an access in flight, with its destination PENDING, and
waits for the earlier writes of its class; `ld.s` makes its landing an acquire. Alignment is looked at before the region (log 65). R208: a load whose
translation meets V = 0 stalls: it is no fault, the instruction goes on with the destination PENDING, and the access cannot be performed while it
stalls. R216: a read in stream space by a cell without a slot is ACCESS, before its tether STREAM_BEHIND, across two frames MISALIGNED, and past HEAD
STREAM_CLOSED where the stream is closed, and otherwise a park at the head it needs. -/
def Obligations.LoadsAndStallsIssue : Prop :=
  (
    ∀ (b d : XIdx) (B : Word) (c si w : BitVec 3) (z : BitVec 2) (o : BitVec 5) (loc : Loc) (s : State), s.HasX b B → s.FreeX d → s.Ready si w →
      let n := 2 ^ z.toNat
      let va := B + BitVec.ofNat 64 (o.toNat * n)
      (va.toNat % n = 0 → (s.ReachesGlobal true false va n loc ∨ ReachesCell va n loc ∨ s.ReachesRead va n loc) →
        (∃ t a, exec (.ld d b c si w z o) s = .next t ∧ s.Issued t a ∧ a.op = .load n true ∧ a.dst = .x d ∧ a.va = va ∧ a.loc = loc ∧
          a.cls = c ∧ a.set = si ∧ s.Ordered a false) ∧
        (∃ t a, exec (.ldu d b c si w z o) s = .next t ∧ s.Issued t a ∧ a.op = .load n false ∧ a.dst = .x d ∧ a.va = va ∧ a.loc = loc ∧
          a.cls = c ∧ a.set = si ∧ s.Ordered a false)) ∧
      (va.toNat % n = 0 → (s.ReachesGlobal true false va n loc ∨ ReachesCell va n loc) →
        ∃ t a, exec (.ldS d b c si w z o) s = .next t ∧ s.Issued t a ∧ a.op = .load n true ∧ a.dst = .x d ∧ a.va = va ∧ a.loc = loc ∧
          a.set = si ∧ a.acq = true ∧ a.l1 = false) ∧
      (va.toNat % n ≠ 0 → ∀ i ∈ [Instr.ld d b c si w z o, .ldu d b c si w z o, .ldS d b c si w z o],
        exec i s = .next (raise cMISALIGNED 0 (va.setWidth 32) s)) ∧
      (va.toNat % n = 0 → region va n = .none → ∀ i ∈ [Instr.ld d b c si w z o, .ldu d b c si w z o, .ldS d b c si w z o],
        exec i s = .next (raise cACCESS 0 (va.setWidth 32) s))) ∧
  (
    ∀ (b d : XIdx) (B : Word) (c si w : BitVec 3) (z : BitVec 2) (o : BitVec 5) (l : Nat) (v : Word) (p : Package) (s : State),
      s.HasX b B → s.FreeX d → s.Ready si w →
      let n := 2 ^ z.toNat
      let va := B + BitVec.ofNat 64 (o.toNat * n)
      va.toNat % n = 0 → region va n = .global → s.cell.buffers < 32 → translateFor true false s.cell.k.ctx va s.pkg = (.stall l v, p) →
        ∃ t a, exec (.ld d b c si w z o) s = .next t ∧ t.cell.inflight = s.cell.inflight ++ [a] ∧ a.loc = .stall l ∧ a.dst = .x d ∧
          t.cell.pc = s.cell.pc + 4 ∧ (d ≠ 0 → (t.cell.xreg d).st = .pending) ∧ t.cell.fault = s.cell.fault ∧ t.due s.cell.inflight.length = none) ∧
  (
    ∀ (b d : XIdx) (B : Word) (c si w : BitVec 3) (z : BitVec 2) (o : BitVec 5) (num : BitVec 15) (pos : BitVec 48) (r : WinRec) (s : State),
      s.HasX b B → s.Ready si w →
      let n := 2 ^ z.toNat
      let va := B + BitVec.ofNat 64 (o.toNat * n)
      va.toNat % n = 0 → region va n = .stream num pos → s.cell.streamPending num = false → s.cell.win.find? (fun w : WinRec => w.num == num) = some r →
        ∀ i ∈ [Instr.ld d b c si w z o, .ldu d b c si w z o],
          (r.slot = none → exec i s = .next (raise cACCESS 0 (va.setWidth 32) s)) ∧
          ∀ t, r.slot = some t →
            (before pos t = true → exec i s = .next (raise cSTREAM_BEHIND 0 (pos.setWidth 32) s)) ∧
            (before pos t = false → spansFrames r.k pos n = true → exec i s = .next (raise cMISALIGNED 0 (va.setWidth 32) s)) ∧
            (before pos t = false → spansFrames r.k pos n = false → before r.head (pos + BitVec.ofNat 48 n) = true →
              (r.closed = true → exec i s = .next (raise cSTREAM_CLOSED 0 (pos.setWidth 32) s)) ∧
              (r.closed = false → exec i s = .next (parkStream num (.head num (pos + BitVec.ofNat 48 n)) s))))

/-- R235: `ld.p` reads through a parameter window and is refused beyond its size or where it is unbound; R236: `ld.v` reads one to eight lanes at a
multiple of 32. -/
def Obligations.WindowAndPacketLoads : Prop :=
  (∀ (b d : XIdx) (B : Word) (num si w : BitVec 3) (z : BitVec 2) (o : BitVec 5) (loc : Loc) (s : State), s.HasX b B → s.FreeX d → s.Ready si w →
    let n := 2 ^ z.toNat
    let off := B + BitVec.ofNat 64 (o.toNat * n)
    let size := (s.cell.k.pws[num.toNat]'num.isLt).toNat
    let va := s.cell.k.pwb[num.toNat]'num.isLt + off
    (size ≠ 0 → off.toNat + n ≤ size → va.toNat % n = 0 → s.ReachesGlobal true false va n loc →
      ∃ t a, exec (.ldP d b num si w z o) s = .next t ∧ s.Issued t a ∧ a.op = .load n true ∧ a.dst = .x d ∧ a.va = va ∧ a.loc = loc ∧
        a.cls = 7 ∧ a.set = si) ∧
    (size = 0 → s.cell.k.prte = false → exec (.ldP d b num si w z o) s = .next (raise cPARAM_UNBOUND (num.setWidth 8) (off.setWidth 32) s)) ∧
    (size ≠ 0 → size < off.toNat + n → s.cell.k.prte = false →
      exec (.ldP d b num si w z o) s = .next (raise cPARAM_BOUND (num.setWidth 8) (off.setWidth 32) s)) ∧
    (size ≠ 0 → size < off.toNat + n → s.cell.k.prte = true → s.cell.k.tven = true → s.cell.k.t = false →
      exec (.ldP d b num si w z o) s = .next (trapEntry cPARAM_BOUND (num.setWidth 8) (off.setWidth 32) s.cell.pc s))) ∧
  ∀ (v : VIdx) (b : BitVec 4) (B : Word) (c si w l : BitVec 3) (o : BitVec 4) (loc : Loc) (s : State),
    s.HasX (b.setWidth 5) B → s.FreeV v → s.Ready si w →
    let n := if l = 0 then 8 else l.toNat
    let va := B + BitVec.ofNat 64 (o.toNat * 32)
    (va.toNat % 32 = 0 → (s.ReachesGlobal true false va (4 * n) loc ∨ ReachesCell va (4 * n) loc ∨ s.ReachesRead va (4 * n) loc) →
      ∃ t a, exec (.ldV v b c si w l o) s = .next t ∧ s.Issued t a ∧ a.op = .loadV n [] ∧ a.dst = .v v ∧ a.va = va ∧ a.loc = loc ∧
        a.cls = c ∧ a.set = si ∧ s.Ordered a false) ∧
    (va.toNat % 32 ≠ 0 → exec (.ldV v b c si w l o) s = .next (raise cMISALIGNED 0 (va.setWidth 32) s))

/-- R229-R231, R234, R236, R242: a store leaves the bytes it will write in flight and changes no byte yet; it waits for every earlier access of its
class, and `st.s` issues only after every store of the cell, as a release (R238, R242). R217: a write in stream space is STREAM_CLOSED where the stream is closed, STREAM_PUBLISHED
before HEAD, MISALIGNED across two frames, and past TAIL + C a park at the window it needs. -/
def Obligations.StoresIssue : Prop :=
  (∀ (b d : XIdx) (B D : Word) (c si w : BitVec 3) (z : BitVec 2) (o : BitVec 5) (loc : Loc) (s : State), s.HasX b B → s.HasX d D → s.Ready si w →
    let n := 2 ^ z.toNat
    let va := B + BitVec.ofNat 64 (o.toNat * n)
    (va.toNat % n = 0 → (s.ReachesGlobal false true va n loc ∨ ReachesCell va n loc ∨ s.ReachesWrite va n loc) →
      ∃ t a, exec (.st d b c si w z o) s = .next t ∧ s.Issued t a ∧ a.op = .store (bytesOf n D.toNat) false ∧ a.dst = .none ∧ a.va = va ∧
        a.loc = loc ∧ a.cls = c ∧ a.set = si ∧ s.Ordered a true) ∧
    (va.toNat % n = 0 → (s.ReachesGlobal false true va n loc ∨ ReachesCell va n loc) →
      (s.Past s.cell.releaseSet → ∃ t a, exec (.stS d b c si w z o) s = .next t ∧ s.Issued t a ∧ a.op = .store (bytesOf n D.toNat) false ∧ a.dst = .none ∧
        a.va = va ∧ a.loc = loc ∧ a.set = si) ∧
      (s.cell.pend = .none → (∃ x ∈ s.cell.inflight, x.released = true) →
        exec (.stS d b c si w z o) s = .next (hold (.expiring .covered) (s.onCell (Cell.setPend (.fence s.cell.releaseSet s.here s.cell.nextId)))))) ∧
    (∀ off, regionOf va = .cell off → va.toNat % n = 0 →
      ∃ t a, exec (.stFill d b c si w z o) s = .next t ∧ s.Issued t a ∧ a.op = .store (bytesOf n D.toNat) true ∧ a.dst = .none ∧ a.va = va ∧
        a.loc = .cell off ∧ a.cls = c ∧ a.set = si ∧ s.Ordered a true) ∧
    (∀ off, regionOf va = .cell off → va.toNat % n ≠ 0 → exec (.stFill d b c si w z o) s = .next (raise cMISALIGNED 0 (va.setWidth 32) s)) ∧
    ((∀ off, regionOf va ≠ .cell off) → exec (.stFill d b c si w z o) s = .next (raise cFE_SPACE 0 (va.setWidth 32) s)) ∧
    (va.toNat % n ≠ 0 → ∀ i ∈ [Instr.st d b c si w z o, .stS d b c si w z o], exec i s = .next (raise cMISALIGNED 0 (va.setWidth 32) s))) ∧
  (∀ (v : VIdx) (b : BitVec 4) (B : Word) (r : VReg) (c si w l : BitVec 3) (o : BitVec 4) (loc : Loc) (s : State),
    s.HasX (b.setWidth 5) B → s.HasV v r → s.Ready si w →
    let n := if l = 0 then 8 else l.toNat
    let va := B + BitVec.ofNat 64 (o.toNat * 32)
    va.toNat % 32 = 0 → (s.ReachesGlobal false true va (4 * n) loc ∨ ReachesCell va (4 * n) loc ∨ s.ReachesWrite va (4 * n) loc) →
      ∃ t a, exec (.stV v b c si w l o) s = .next t ∧ s.Issued t a ∧ a.op = .storeV n ((List.range n).map fun i => (i, r.lanes.toList.getD i 0)) ∧
        a.dst = .none ∧ a.va = va ∧ a.loc = loc ∧ a.cls = c ∧ a.set = si ∧ s.Ordered a true) ∧
  ∀ (b d : XIdx) (B D : Word) (c si w : BitVec 3) (z : BitVec 2) (o : BitVec 5) (num : BitVec 15) (pos : BitVec 48) (r : WinRec) (s : State),
    s.HasX b B → s.HasX d D → s.Ready si w →
    let n := 2 ^ z.toNat
    let va := B + BitVec.ofNat 64 (o.toNat * n)
    va.toNat % n = 0 → region va n = .stream num pos → s.cell.streamPending num = false → s.cell.win.find? (fun w : WinRec => w.num == num) = some r →
      (r.closed = true → exec (.st d b c si w z o) s = .next (raise cSTREAM_CLOSED 0 (pos.setWidth 32) s)) ∧
      (r.closed = false → before pos r.head = true → exec (.st d b c si w z o) s = .next (raise cSTREAM_PUBLISHED 0 (pos.setWidth 32) s)) ∧
      (r.closed = false → before pos r.head = false → spansFrames r.k pos n = true → exec (.st d b c si w z o) s = .next (raise cMISALIGNED 0 (va.setWidth 32) s)) ∧
      (r.closed = false → before pos r.head = false → spansFrames r.k pos n = false → before (r.tail + r.cap) (pos + BitVec.ofNat 48 n) = true →
        exec (.st d b c si w z o) s = .next (parkStream num (.window num (pos + BitVec.ofNat 48 n)) s))

/-- R233: `ld.sync` outside the cell store is FE_SPACE and off its alignment MISALIGNED; on full words it takes the value and, with take, leaves them
empty, in one step; on an empty word it parks on the lowest one. Behind an earlier access of its class, or another `ld.sync`, it issues and waits in
the memory path (R229, R255), where it makes its step once nothing it waits for is in flight and its words are full, and until then does nothing
(log 66). -/
def Obligations.SyncLoad : Prop :=
  ∀ (b d : XIdx) (B : Word) (c : BitVec 2) (take : Bool) (si w : BitVec 3) (z : Bool) (o : BitVec 5) (s : State), s.HasX b B → s.Ready si w →
    let n := if z then 8 else 4
    let va := B + BitVec.ofNat 64 (o.toNat * n)
    ((∀ off, regionOf va ≠ .cell off) → exec (.ldSync d b c take si w z o) s = .next (raise cFE_SPACE 0 (va.setWidth 32) s)) ∧
    ∀ off, regionOf va = .cell off →
      (off % n ≠ 0 → exec (.ldSync d b c take si w z o) s = .next (raise cMISALIGNED 0 (va.setWidth 32) s)) ∧
      (off % n = 0 → s.cell.classBefore (0#1 ++ c) take ++ s.cell.syncBefore ≠ [] → s.FreeX d →
        ∃ t a, exec (.ldSync d b c take si w z o) s = .next t ∧ s.Issued t a ∧ a.op = .sync n take ∧ a.dst = .x d ∧ a.loc = .cell off ∧
          a.cls = 0#1 ++ c ∧ a.set = si ∧ s.Ordered a take) ∧
      (off % n = 0 → s.cell.classBefore (0#1 ++ c) take ++ s.cell.syncBefore = [] →
        (s.cell.wordFull off = true → s.cell.wordFull (off + n - 4) = true → s.cell.damagedAt off n = false → s.FreeX d →
          ∃ t a, exec (.ldSync d b c take si w z o) s = .next t ∧ s.Issued t a ∧ a.dst = .x d ∧
            a.op = .value (sextBytes n (ofBytes (s.cell.load off n))) 0 ∧
            t.cell.wordFull off = !take ∧ t.cell.wordFull (off + n - 4) = !take) ∧
        (s.cell.wordFull off = false → exec (.ldSync d b c take si w z o) s = .next (park (.word off) s)) ∧
        (s.cell.wordFull off = true → s.cell.wordFull (off + n - 4) = false →
          exec (.ldSync d b c take si w z o) s = .next (park (.word (off + n - 4)) s))) ∧
      ∀ (k : Nat) (a : Access), s.due k = some a → a.op = .sync n take → a.dst = .x d → a.loc = .cell off → off % n = 0 →
        (s.cell.wordFull off = true → s.cell.wordFull (off + n - 4) = true → s.cell.damagedAt off n = false →
          ∃ t, exec (.valueLanding s.here k) s = .next t ∧ t.pkg = s.pkg ∧ t.cell.store = s.cell.store ∧ (∀ x ∈ t.cell.inflight, x.id ≠ a.id) ∧
            t.cell.xreg d = (if d = 0 then XReg.reset else ⟨sextBytes n (ofBytes (s.cell.load off n)), .full⟩) ∧
            t.cell.wordFull off = !take ∧ t.cell.wordFull (off + n - 4) = !take) ∧
        (s.cell.wordFull off = false ∨ s.cell.wordFull (off + n - 4) = false → ∃ t, exec (.valueLanding s.here k) s = .next t ∧ t.cell = s.cell ∧ t.pkg = s.pkg)

/-- R228, R231, R236: when a load that waits for nothing is performed, the bytes of its place land in its destination, which becomes FULL; no byte of
memory changes. `ld.v` reads its lanes one by one, in an order that nothing fixes (R262; log 67), and lands with the last. R216: a load in stream
space lands the bytes of its frame. Data that cannot be corrected faults with UNCORRECTABLE (R331); that damage is noted in units of 8 aligned bytes
is log 18's choice. -/
def Obligations.LoadsLand : Prop :=
  ∀ (s : State) (k : Nat) (a : Access), s.due k = some a →
    (∀ n sext d off, a.op = .load n sext → a.dst = .x d → a.loc = .cell off → s.cell.damagedAt off n = false →
      ∃ t, exec (.valueLanding s.here k) s = .next t ∧ t.pkg = s.pkg ∧ t.cell.store = s.cell.store ∧ (∀ x ∈ t.cell.inflight, x.id ≠ a.id) ∧
        t.cell.xreg d = (if d = 0 then XReg.reset
          else ⟨if sext then sextBytes n (ofBytes (s.cell.load off n)) else BitVec.ofNat 64 (ofBytes (s.cell.load off n)), .full⟩) ∧
        ∀ m, m ≠ d → t.cell.xreg m = s.cell.xreg m) ∧
    (∀ n sext d pa attr, a.op = .load n sext → a.dst = .x d → a.loc = .phys pa attr → a.l1 = false → s.pkg.damaged (physKey attr pa) n = false →
      ∃ t, exec (.valueLanding s.here k) s = .next t ∧ t.pkg = s.pkg ∧ t.cell.store = s.cell.store ∧ (∀ x ∈ t.cell.inflight, x.id ≠ a.id) ∧
        t.cell.xreg d = (if d = 0 then XReg.reset
          else ⟨if sext then sextBytes n (ofBytes (s.pkg.read (physKey attr pa) n)) else BitVec.ofNat 64 (ofBytes (s.pkg.read (physKey attr pa) n)), .full⟩)) ∧
    (∀ n got d off, a.op = .loadV n got → a.dst = .v d → a.loc = .cell off → 1 ≤ n → n ≤ 8 → (∀ i < n, s.cell.damagedAt (off + 4 * i) 4 = false) →
      let left := (List.range n).filter fun i => !got.any (·.1 == i)
      left ≠ [] →
      ∃ t, ∃ i ∈ left, exec (.valueLanding s.here k) s = .next t ∧ t.pkg = s.pkg ∧ t.cell.store = s.cell.store ∧ t.cell.x = s.cell.x ∧
        let all := got ++ [(i, BitVec.ofNat 32 (ofBytes (s.cell.load (off + 4 * i) 4)))]
        (1 < left.length → t.cell.v = s.cell.v ∧ ∀ x ∈ t.cell.inflight, x.id = a.id → x.op = .loadV n all) ∧
        (left.length = 1 → (∀ x ∈ t.cell.inflight, x.id ≠ a.id) ∧ (t.cell.vreg d).st = .full ∧ (t.cell.vreg d).length = n ∧
          (t.cell.vreg d).packet = (List.range n).map (fun j => (aget all j).getD 0) ∧
          (t.cell.vreg d).lanes.toList.drop n = (s.cell.vreg d).lanes.toList.drop n)) ∧
    (∀ n sext d num pos b pl p, a.op = .load n sext → a.dst = .x d → a.loc = .stream num pos → s.pkg.boundOf s.cell.k.ctx num = some b →
      framePlace false s.cell.k.ctx b.frames (s.pkg.record b.pa).back (s.pkg.record b.pa).k (s.pkg.record b.pa).logn pos s.pkg = (.ok pl, p) →
      (readPlace pl n { s with pkg := p }).2 = false →
      ∃ t, exec (.valueLanding s.here k) s = .next t ∧ t.pkg.mem = p.mem ∧ t.cell.store = s.cell.store ∧ (∀ x ∈ t.cell.inflight, x.id ≠ a.id) ∧
        t.cell.xreg d = (if d = 0 then XReg.reset
          else ⟨if sext then sextBytes n (ofBytes (readPlace pl n { s with pkg := p }).1) else wordOfBytes (readPlace pl n { s with pkg := p }).1, .full⟩)) ∧
    (∀ v f d, a.op = .value v f → a.dst = .x d →
      ∃ t, exec (.valueLanding s.here k) s = .next t ∧ t.pkg = s.pkg ∧ t.cell.xreg d = (if d = 0 then XReg.reset else ⟨v, .full⟩) ∧
        t.cell.k.fflags = s.cell.k.fflags ||| f) ∧
    ∀ n sext d off, a.op = .load n sext → a.dst = .x d → a.loc = .cell off → s.cell.damagedAt off n = true → s.cell.fault = none → a.gone = false →
      ∃ t f, exec (.valueLanding s.here k) s = .next t ∧ t.cell.fault = some f ∧ f.code = cUNCORRECTABLE ∧ f.info = a.va.setWidth 32 ∧
        f.pc = a.pc ∧ t.cell.x = s.cell.x

/-- R14, R228, R234: when a store is performed, exactly its bytes change, at the place where it was issued to, and every other byte of memory and of
the cell store reads as before; a far-tier byte written is known by its cell and access, and the CXL device has yet to complete it (R239; log 82's
field); `st.fill` leaves the words it writes full. `st.v` writes its lanes one by one (R262; log 67). R217: a store in stream
space is checked again at its home: past a publish of another party it is discarded and faults with STREAM_PUBLISHED, past a close with STREAM_CLOSED;
otherwise it writes the bytes of its frame. -/
def Obligations.StoresPerformed : Prop :=
  (∀ (s : State) (k : Nat) (a : Access) (data : List Byte) (fill : Bool), s.due k = some a → a.op = .store data fill → data ≠ [] →
    (∀ pa attr, a.loc = .phys pa attr → s.pkg.inRecord (physKey attr pa) data.length = false →
      ∃ t, exec (.accessPerformed s.here k) s = .next t ∧ t.cell.store = s.cell.store ∧ t.cell.x = s.cell.x ∧ t.cell.v = s.cell.v ∧
        (∀ x ∈ t.cell.inflight, x.id ≠ a.id) ∧
        (∀ i < data.length, attrT attr = true → (physKey attr pa + i, some (s.here, a.id)) ∈ t.pkg.cxl ∧ (physKey attr pa + i, none) ∉ t.pkg.cxl) ∧
        ∀ q, t.pkg.byte q = if physKey attr pa ≤ q ∧ q < physKey attr pa + data.length then data.getD (q - physKey attr pa) 0 else s.pkg.byte q) ∧
    ∀ off, a.loc = .cell off →
      ∃ t, exec (.accessPerformed s.here k) s = .next t ∧ t.pkg = s.pkg ∧ t.cell.x = s.cell.x ∧ t.cell.v = s.cell.v ∧
        (∀ x ∈ t.cell.inflight, x.id ≠ a.id) ∧
        (∀ q, t.cell.load q 1 = if off ≤ q ∧ q < off + data.length then [data.getD (q - off) 0] else s.cell.load q 1) ∧
        ∀ q, t.cell.wordFull q = ((fill && decide (off / 4 ≤ q / 4) && decide (q / 4 < (off + data.length + 3) / 4)) || s.cell.wordFull q)) ∧
  (∀ (s : State) (k : Nat) (a : Access) (n off : Nat) (left : List (Nat × W32)), s.due k = some a → a.op = .storeV n left → a.loc = .cell off → left ≠ [] →
    ∃ t, ∃ j < left.length, ∃ i w, left[j]? = some (i, w) ∧ exec (.accessPerformed s.here k) s = .next t ∧ t.pkg = s.pkg ∧ t.cell.x = s.cell.x ∧ t.cell.v = s.cell.v ∧
      (∀ q, t.cell.load q 1 = if off + 4 * i ≤ q ∧ q < off + 4 * i + 4 then [(bytesOf 4 w.toNat).getD (q - (off + 4 * i)) 0] else s.cell.load q 1) ∧
      ∀ x ∈ t.cell.inflight, x.id = a.id → 1 < left.length ∧ x.op = .storeV n (delNth j left)) ∧
  ∀ (s : State) (k : Nat) (a : Access) (data : List Byte) (num : BitVec 15) (pos : BitVec 48) (b : Bound), s.due k = some a → a.op = .store data false →
    a.loc = .stream num pos → s.pkg.boundOf s.cell.k.ctx num = some b → a.gone = false → s.cell.fault = none →
    let r := s.pkg.record b.pa
    let discarded (code : Byte) : Prop :=
      ∃ t f, exec (.accessPerformed s.here k) s = .next t ∧ t.cell.fault = some f ∧ f.code = code ∧ f.info = pos.setWidth 32 ∧ f.pc = a.pc ∧ f.word = a.word ∧
        t.pkg.mem = (s.pkg.write b.pa (recordBytes { r with err := code })).mem ∧ t.cell.store = s.cell.store
    (r.closed = true → discarded cSTREAM_CLOSED) ∧
    (r.closed = false → before pos r.head = true → discarded cSTREAM_PUBLISHED) ∧
    ∀ pl p, r.closed = false → before pos r.head = false → framePlace true s.cell.k.ctx b.frames r.back r.k r.logn pos s.pkg = (.ok pl, p) →
      p.writable pl data.length = true → data ≠ [] →
      ∃ t, exec (.accessPerformed s.here k) s = .next t ∧ t.cell.x = s.cell.x ∧ t.cell.v = s.cell.v ∧ (∀ x ∈ t.cell.inflight, x.id ≠ a.id) ∧
        (∀ key, pl = .phys key → t.cell.store = s.cell.store ∧
          ∀ q, t.pkg.byte q = if key ≤ q ∧ q < key + data.length then data.getD (q - key) 0 else s.pkg.byte q) ∧
        ∀ c off, pl = .cell c off → t.pkg.mem = s.pkg.mem ∧
          ∀ q, (t.cellAt c).load q 1 = if off ≤ q ∧ q < off + data.length then [data.getD (q - off) 0] else (s.cellAt c).load q 1

/-- R244, R245: an atomic issues to a global address that may be read and written, after every store of the cell; in the returning form its
destination is PENDING and its landing an acquire. Off its width it is MISALIGNED, and outside global space ACCESS. R244, R245, the integer atomics
performed: one step reads the old value, writes the new one of the table at that address and nothing else, and, in the returning form, gives `x[d]`
the old value sign-extended. R246, the float atomics performed: the exact sum is rounded once, with the mode and SAT of the issue and under SR with
the bits of R45, and a minimum or maximum is that of R174; the old code is returned zero-extended, the update counter of the line moves by one for a
sum, and the flags wait for the memory-flags word (R247). R362-R364, a recipe performed at its target: a fixed one is its atomic, and a user recipe
runs its micro-ops over OLD, A0, A1, T0, T1, NEW, RET and IMM; NEW is written, and RET answers the returning form. -/
def Obligations.AtomicsIssueAndPerform : Prop :=
  (
    ∀ (d a b : XIdx) (A B D : Word) (w4 ret : Bool) (sc : BitVec 3) (loc : Loc) (s : State),
      s.HasX a A → s.HasX b B → s.HasX d D → s.cell.acquiring = false →
      ∀ e ∈ [(Instr.amoAdd d a b w4 ret sc, AmoOp.add, if w4 then 4 else 8, ret, (0 : Word)), (.amoAnd d a b w4 ret sc, .and, if w4 then 4 else 8, ret, 0),
          (.amoOr d a b w4 ret sc, .or, if w4 then 4 else 8, ret, 0), (.amoXor d a b w4 ret sc, .xor, if w4 then 4 else 8, ret, 0),
          (.amoMin d a b w4 ret sc, .min, if w4 then 4 else 8, ret, 0), (.amoMax d a b w4 ret sc, .max, if w4 then 4 else 8, ret, 0),
          (.amoMinu d a b w4 ret sc, .minu, if w4 then 4 else 8, ret, 0), (.amoMaxu d a b w4 ret sc, .maxu, if w4 then 4 else 8, ret, 0),
          (.amoSwap d a b w4 ret sc, .swap, if w4 then 4 else 8, ret, 0), (.amoCas d a b w4 sc, .cas, if w4 then 4 else 8, true, D),
          (.amoFaddF32 d a b ret sc, .faddF32, 4, ret, 0), (.amoFaddBf16 d a b ret sc, .faddBf16, 2, ret, 0),
          (.amoFminF32 d a b ret sc, .fminF32, 4, ret, 0), (.amoFmaxF32 d a b ret sc, .fmaxF32, 4, ret, 0)],
        (A.toNat % e.2.2.1 = 0 → s.ReachesGlobal true true A e.2.2.1 loc → s.cell.pend = .none → (∃ y ∈ s.cell.inflight, y.released = true) →
          exec e.1 s = .next (hold (.expiring .covered) (s.onCell (Cell.setPend (.fence s.cell.releaseSet s.here s.cell.nextId))))) ∧
        (A.toNat % e.2.2.1 = 0 → s.ReachesGlobal true true A e.2.2.1 loc → s.Past s.cell.releaseSet →
          ∃ t x, exec e.1 s = .next t ∧ s.Issued t x ∧ x.op = .amo e.2.1 e.2.2.1 B e.2.2.2.2 e.2.2.2.1 s.cell.k.rm s.cell.k.sat ∧
            x.dst = (if e.2.2.2.1 then .x d else .none) ∧ x.va = A ∧ x.loc = loc ∧ x.acq = e.2.2.2.1) ∧
        (A.toNat % e.2.2.1 ≠ 0 → exec e.1 s = .next (raise cMISALIGNED 0 (A.setWidth 32) s)) ∧
        (A.toNat % e.2.2.1 = 0 → region A e.2.2.1 ≠ .global → exec e.1 s = .next (raise cACCESS 0 (A.setWidth 32) s))) ∧
  (
    ∀ (s : State) (k : Nat) (a : Access) (op : AmoOp) (n : Nat) (B C : Word) (rm : BitVec 3) (sat ret : Bool) (pa : Nat) (attr : Byte),
      s.due k = some a → a.op = .amo op n B C ret rm sat → a.loc = .phys pa attr → n = 4 ∨ n = 8 →
      s.pkg.inRecord (physKey attr pa) n = false → s.pkg.damaged (physKey attr pa) n = false →
      let old := ofBytes (s.pkg.read (physKey attr pa) n)
      let b := B.toNat % 2 ^ (8 * n)
      let sgn (v : Nat) : Int := (BitVec.ofNat (8 * n) v).toInt
      ∀ e ∈ [(AmoOp.add, (old + b) % 2 ^ (8 * n)), (.and, old &&& b), (.or, old ||| b), (.xor, old ^^^ b),
          (.min, if sgn old < sgn b then old else b), (.max, if sgn old < sgn b then b else old), (.minu, min old b), (.maxu, max old b), (.swap, b),
          (.cas, if old = C.toNat % 2 ^ (8 * n) then b else old)], op = e.1 →
        ∃ t, exec (if ret then .valueLanding s.here k else .accessPerformed s.here k) s = .next t ∧
          t.cell.store = s.cell.store ∧ t.cell.v = s.cell.v ∧ (∀ x ∈ t.cell.inflight, x.id ≠ a.id) ∧
          (∀ q, t.pkg.byte q = if physKey attr pa ≤ q ∧ q < physKey attr pa + n then (bytesOf n e.2).getD (q - physKey attr pa) 0 else s.pkg.byte q) ∧
          (∀ d, ret = true → a.dst = .x d → d ≠ 0 → t.cell.xreg d = ⟨(BitVec.ofNat (8 * n) old).signExtend 64, .full⟩) ∧
          (ret = false → t.cell.x = s.cell.x)) ∧
  (
    ∀ (s : State) (k : Nat) (a : Access) (op : AmoOp) (n : Nat) (B C : Word) (rm : BitVec 3) (sat ret : Bool) (pa : Nat) (attr : Byte),
      s.due k = some a → a.op = .amo op n B C ret rm sat → a.loc = .phys pa attr →
      s.pkg.inRecord (physKey attr pa) n = false → s.pkg.damaged (physKey attr pa) n = false →
      let key := physKey attr pa
      let old := ofBytes (s.pkg.read key n)
      let b := B.toNat % 2 ^ (8 * n)
      let rnd := memoryDraw s.cell.k.ctx a.va (key / 128) s.pkg
      let sum (f : FmtDesc) : Nat × Flags :=
        let x := addExact rm (valueOf f old) (valueOf f b)
        ((roundTo f ⟨rm, sat⟩ rnd x.1).1, x.2 ||| (roundTo f ⟨rm, sat⟩ rnd x.1).2)
      let counter (p : Package) : BitVec 16 := sget 0 p.updates (key / 128)
      ∀ e ∈ [(AmoOp.faddF32, 4, sum fFP32), (.faddBf16, 2, sum fBF16), (.fminF32, 4, minMax fFP32 false old b), (.fmaxF32, 4, minMax fFP32 true old b)],
        op = e.1 → n = e.2.1 →
        ∃ t, exec (if ret then .valueLanding s.here k else .accessPerformed s.here k) s = .next t ∧
          t.cell.store = s.cell.store ∧ t.cell.v = s.cell.v ∧ (∀ x ∈ t.cell.inflight, x.id ≠ a.id) ∧
          (∀ q, t.pkg.byte q = if key ≤ q ∧ q < key + n then (bytesOf n e.2.2.1).getD (q - key) 0 else s.pkg.byte q) ∧
          (∀ d, ret = true → a.dst = .x d → d ≠ 0 → t.cell.xreg d = ⟨BitVec.ofNat 64 old, .full⟩) ∧
          (ret = true → a.gone = false → t.cell.k.fflags = s.cell.k.fflags ||| e.2.2.2) ∧
          (ret = false → t.cell.x = s.cell.x ∧ t.cell.k = s.cell.k) ∧
          ((op = .faddF32 ∨ op = .faddBf16) → counter t.pkg = counter s.pkg + 1) ∧
          (e.2.2.2 = 0 → t.pkg.flagWrites = s.pkg.flagWrites) ∧
          (e.2.2.2 ≠ 0 → s.pkg.flagWrites = [] → t.pkg.flagWrites = [⟨s.here, s.cell.k.ctx, e.2.2.2, false⟩])) ∧
  (
    (∀ (src : Byte) (r : RemoteReq) (a : Word) (n : BitVec 6) (w4 ret : Bool) (a0 a1 : Word) (rm : BitVec 3) (sat : Bool) (size pa : Nat) (attr : Byte) (p : Package)
        (s : State),
      src ≠ p.number → p.skidRun = [] → r.op = .recipe a n w4 ret a0 a1 rm sat → recipeBytes r.ctx n.toNat w4 s.pkg = some size → remoteForm a 1 = .global →
      a.toNat % size = 0 → translateFor true true r.ctx a s.pkg = (.ok (pa, attr), p) → p.inRecord (physKey attr pa) size = false →
      p.damaged (physKey attr pa) size = false →
      let key := physKey attr pa
      let old := ofBytes (p.read key size)
      let t := performRequest src r s
      let stores (v : Nat) : Prop := ∀ q, t.pkg.byte q = if key ≤ q ∧ q < key + size then (bytesOf size v).getD (q - key) 0 else p.byte q
      let answers (v : Word) (f : Flags) : Prop := ret = true → p.trust.td = false → (p.livePath src r.tag.toNat).isSome = true →
        OutMsg.answer src r.seq (.result v f) ∈ t.pkg.outbox
      (n.toNat < 16 →
        let e := amoNew (recipeOp n.toNat) size old (a0.toNat % 2 ^ (8 * size)) (a1.toNat % 2 ^ (8 * size)) ⟨rm, sat⟩ (memoryDraw r.ctx a (key / 128) p)
        stores e.1 ∧ answers (amoResult (recipeOp n.toNat) size old) e.2) ∧
      ∀ q, 16 ≤ n.toNat → p.recipe r.ctx n.toNat = some q → size = (if q.w4 then 4 else 8) →
        let e := q.run old a0.toNat a1.toNat
        stores e.1 ∧ answers (if q.w4 then (BitVec.ofNat 32 e.2.1).signExtend 64 else BitVec.ofNat 64 e.2.1) e.2.2) ∧
    (∀ (q : Recipe) (old a0 a1 : Nat),
      let w := if q.w4 then 4 else 8
      let v := q.ops.foldl (fun v o => microOp w o v) ([old, a0 % 2 ^ (8 * w), a1 % 2 ^ (8 * w), 0, 0, old, old, q.imm.toNat % 2 ^ (8 * w)], 0)
      q.run old a0 a1 = (v.1.getD 5 0, v.1.getD 6 0, v.2)) ∧
    ∀ (w d sa sb : Nat) (v : List Nat) (fl : Flags), w = 4 ∨ w = 8 → v.length = 8 → (∀ x ∈ v, x < 2 ^ (8 * w)) → d < 8 →
      let A := v.getD sa 0
      let B := v.getD sb 0
      let sgn (x : Nat) : Int := (BitVec.ofNat (8 * w) x).toInt
      ∀ e ∈ [(0, A), (1, (A + B) % 2 ^ (8 * w)), (2, (A + (2 ^ (8 * w) - B)) % 2 ^ (8 * w)), (3, A &&& B), (4, A ||| B), (5, A ^^^ B), (6, min A B), (7, max A B),
          (8, if sgn A ≤ sgn B then A else B), (9, if sgn A ≤ sgn B then B else A), (10, A * 2 ^ (B % 64) % 2 ^ (8 * w)), (11, A / 2 ^ (B % 64)),
          (12, if A = B then 1 else 0), (13, if A < B then 1 else 0), (14, if v.getD 4 0 ≠ 0 then A else B)],
        (microOp w (e.1, d, sa, sb) (v, fl)).1 = v.set d e.2 ∧ (microOp w (e.1, d, sa, sb) (v, fl)).2 = fl)

/-- R237-R242: fences and waits. A fence whose covered accesses are performed goes on, and an acquire empties the L1; one that has still to wait is
held with its set kept, and parks when the hold ends; a release at system scope leaves no covered write of a far-tier byte that the CXL device has not
completed (R239, with the cell's writes known by log 82's field); `l1.inv`, `sbwait` and `fence.eng`. R247: the flags of an atomic are ORed into the context's memory-flags word,
and no other byte of memory changes. -/
def Obligations.FencesWaitsAndMemoryFlags : Prop :=
  (
    ∀ s : State,
      (∀ (k : BitVec 2) (sc : BitVec 3), s.Past (s.cell.fenceSet k) →
        ∃ t, exec (.fence k sc) s = .next t ∧ t.cell.pc = s.cell.pc + 4 ∧ t.cell.l1 = (if k = 1 then s.cell.l1 else []) ∧
          t.cell.inflight = s.cell.inflight ∧ t.cell.x = s.cell.x ∧ (∀ l c n, t.cell.pend ≠ .fence l c n) ∧
          t.pkg = { s.pkg with cxl := t.pkg.cxl } ∧ (k = 0 ∨ sc ≠ 5 → t.pkg.cxl = s.pkg.cxl) ∧
          (∀ e ∈ s.pkg.cxl, (∀ i, e.2 ≠ some (s.here, i)) → s.cell.pend = .none → e ∈ t.pkg.cxl) ∧
          (k ≠ 0 → sc = 5 → s.cell.pend = .none → ∀ q i, (q, some (s.here, i)) ∈ s.pkg.cxl → i < s.cell.nextId → (q, none) ∈ t.pkg.cxl) ∧
          (k ≠ 0 → sc = 5 → ∀ l c n, s.cell.pend = .fence l c n → ∀ q i, (q, some (c, i)) ∈ s.pkg.cxl → i < n → (q, none) ∈ t.pkg.cxl)) ∧
      (∀ (k : BitVec 2) (sc : BitVec 3) (h : BitVec 6), s.cell.cur = some h → s.cell.pend = .none →
        (∃ x ∈ s.cell.fenceSet k, s.cell.flying x = true) →
        ∃ t, exec (.fence k sc) s = .next t ∧ t.cell.pc = s.cell.pc ∧ t.cell.hold = some (.expiring .covered) ∧
          t.cell.pend = .fence (s.cell.fenceSet k) s.here s.cell.nextId ∧ t.cell.l1 = s.cell.l1) ∧
      (∀ (k : BitVec 2) (sc : BitVec 3) (h : BitVec 6) (l : List Nat) (c : CellId) (n : Nat), s.cell.cur = some h → s.cell.pend = .fence l c n →
        (∃ x ∈ l, s.cell.flying x = true) →
        ∃ t, exec (.fence k sc) s = .next t ∧ t.cell.pc = s.cell.pc ∧ t.cell.hold = some (.expiring .covered) ∧ t.cell.pend = .fence l c n ∧ t.cell.l1 = s.cell.l1) ∧
      (∀ (h : BitVec 6), s.cell.hold = some (.expiring .covered) → s.cell.cur = some h → s.cell.k.t = false → s.cell.waitEntries < 64 →
        ∃ t, exec (.holdExpiry s.here) s = .next t ∧ t.cell.cur = none ∧ t.cell.hold = none ∧ (t.cell.handler h).st = .parked ∧
          (t.cell.handler h).key = some .covered ∧ (t.cell.handler h).pc = s.cell.pc ∧ (t.cell.handler h).pend = s.cell.pend ∧
          t.cell.x = s.cell.x ∧ t.cell.v = s.cell.v ∧ t.cell.inflight = s.cell.inflight ∧ t.pkg = s.pkg) ∧
      (∀ a ∈ s.cell.inflight, a.released = true → a.id ∈ s.cell.fenceSet 1 ∧ a.id ∈ s.cell.fenceSet 2) ∧
      (∀ a ∈ s.cell.inflight, s.cell.own a = true → a.acquired = true → a.id ∈ s.cell.fenceSet 0 ∧ a.id ∈ s.cell.fenceSet 2) ∧
      (∃ t, exec .l1Inv s = .next t ∧ t.cell.l1 = [] ∧ t.cell.pc = s.cell.pc + 4 ∧ t.cell.inflight = s.cell.inflight ∧ t.pkg = s.pkg) ∧
      (∀ m : BitVec 7, (∀ j < 7, m.getLsbD j = true → s.cell.slot (BitVec.ofNat 3 (j + 1)) = 0) → exec (.sbwait m) s = .next (advance 4 s)) ∧
      (∀ (m : BitVec 7) (j : Nat), j < 7 → m.getLsbD j = true → s.cell.slot (BitVec.ofNat 3 (j + 1)) ≠ 0 →
        (∀ i < j, m.getLsbD i = true → s.cell.slot (BitVec.ofNat 3 (i + 1)) = 0) →
        exec (.sbwait m) s = .next (hold (.expiring (.slot (BitVec.ofNat 3 (j + 1)))) s)) ∧
      ∀ (n : BitVec 3) (b : XIdx) (B : Word), s.HasX b B →
        ((s.cell.k.ecnt[n.toNat]'n.isLt - B.setWidth 32).toNat < 2 ^ 31 →
          ∃ t, exec (.fenceEng n b) s = .next t ∧ t.cell.l1 = [] ∧ t.cell.pc = s.cell.pc + 4 ∧ t.cell.x = s.cell.x ∧ t.pkg = s.pkg) ∧
        ((s.cell.k.ecnt[n.toNat]'n.isLt - B.setWidth 32).toNat ≥ 2 ^ 31 →
          exec (.fenceEng n b) s = .next (hold (.expiring (.counter n (B.setWidth 32))) s))) ∧
  (
    ∀ (s : State) (k : Nat) (w : FlagWrite) (c : Context) (pa : Nat) (attr : Byte) (p : Package),
      s.pkg.flagWrites[k]? = some w → w.stalled = false → aget s.pkg.contexts w.ctx.toNat = some c → c.mflags.toNat % 8 = 0 →
      regionOf c.mflags = .global → translateFor true true w.ctx c.mflags s.pkg = (.ok (pa, attr), p) → p.inRecord (physKey attr pa) 8 = false →
      ∃ t, exec (.memoryFlagsWrite k) s = .next t ∧ t.cell = s.cell ∧ t.pkg.flagWrites = delNth k s.pkg.flagWrites ∧
        ofBytes (t.pkg.read (physKey attr pa) 8) = ofBytes (s.pkg.read (physKey attr pa) 8) ||| w.flags.toNat ∧
        ∀ q, (q < physKey attr pa ∨ physKey attr pa + 8 ≤ q) → t.pkg.byte q = s.pkg.byte q)

/-! ### Streams (R210-R221, R249, R250, R266) -/

/-- R249: each stream instruction leaves its operation in flight, with the destination of `sjoin`, `shead`, `stail` and `sbind` PENDING; `spub` and
`sclose` follow the earlier writes of the activation to the stream, and `srel` its earlier reads; a number with bits 63:15 non-zero faults with ACCESS,
but for `sbind`, which answers with that status (log 68); `spub` to stream 0 faults with ACCESS, and `sbind` at user level on a number 0-16 with
PRIVILEGED (R250). A later stream instruction that names a stream with an operation in flight is held. -/
def Obligations.StreamInstructionsIssue : Prop :=
  ∀ (d a b : XIdx) (A B : Word) (num : BitVec 15) (s : State), s.HasX a A → s.HasX b B →
    (A.toNat = num.toNat → s.FreeX d → s.cell.acquiring = false → s.cell.streamPending num = false → s.cell.buffers < 32 →
      (∀ w : WinRec, s.cell.win.find? (fun w : WinRec => w.num == num) = some w →
        ∀ e ∈ [(Instr.sjoin d a, StreamOp.join, Dst.x d), (.sleave a, .leave, .none), (.shead d a, .head, .x d), (.stail d a, .tail, .x d)],
          ∃ t x, exec e.1 s = .next t ∧ s.Issued t x ∧ x.op = .stream num e.2.1 ∧ x.dst = e.2.2) ∧
      (∀ w : WinRec, s.cell.win.find? (fun w : WinRec => w.num == num) = some w →
        (∃ t x, exec (.srel a b) s = .next t ∧ s.Issued t x ∧ x.op = .stream num (.release (B.setWidth 48)) ∧ x.dst = .none ∧
          ∀ y ∈ s.cell.inflight, s.cell.own y = true → ((∃ n sext, y.op = .load n sext) ∨ ∃ n got, y.op = .loadV n got) →
            (∃ pos, regionOf y.va = .stream num pos) → y.id ∈ x.after) ∧
        ∃ t x, exec (.sclose a) s = .next t ∧ s.Issued t x ∧ x.op = .stream num .close ∧ x.dst = .none ∧
          ∀ y ∈ s.cell.inflight, s.cell.own y = true → y.writes = true → (∃ pos, regionOf y.va = .stream num pos) → y.id ∈ x.after) ∧
      (∀ w : WinRec, s.cell.win.find? (fun w : WinRec => w.num == num) = some w → num ≠ 0 →
        ∃ t x, exec (.spub a b) s = .next t ∧ s.Issued t x ∧ x.op = .stream num (.publish (B.setWidth 48)) ∧ x.dst = .none ∧
          ∀ y ∈ s.cell.inflight, s.cell.own y = true → y.writes = true → (∃ pos, regionOf y.va = .stream num pos) → y.id ∈ x.after) ∧
      (∀ w : WinRec, s.cell.win.find? (fun w : WinRec => w.num == num) = some w → num = 0 →
        exec (.spub a b) s = .next (raise cACCESS 0 (A.setWidth 32) s)) ∧
      (s.runtime = true ∨ 16 < num.toNat →
        ∃ t x, exec (.sbind d a b) s = .next t ∧ s.Issued t x ∧ x.op = .stream num (.bind B) ∧ x.dst = .x d) ∧
      (s.runtime = false → num.toNat ≤ 16 → exec (.sbind d a b) s = .next (raise cPRIVILEGED 0 0 s))) ∧
    (A.toNat = num.toNat → s.cell.streamPending num = true → ∀ i ∈ [Instr.sjoin d a, .sleave a, .spub a b, .srel a b, .shead d a, .stail d a, .sclose a],
      exec i s = .next (hold .staying s)) ∧
    (2 ^ 15 ≤ A.toNat →
      (∀ i ∈ [Instr.sjoin d a, .sleave a, .spub a b, .srel a b, .shead d a, .stail d a, .sclose a], exec i s = .next (raise cACCESS 0 (A.setWidth 32) s)) ∧
      (s.cell.acquiring = false → s.FreeX d →
        ∃ t x, exec (.sbind d a b) s = .next t ∧ s.Issued t x ∧ x.op = .value (cACCESS.setWidth 64) 0 ∧ x.dst = .x d))

/-- R215, the operations of the home unit on a record r that a cell asks for. A refusal sets ERR and faults the instruction; otherwise the record
changes, its values are pushed (R214), and the answer lands. R211: what the stream unit writes to a record's line is what it reads back there, field
by field, and no other byte of memory changes. That a join or a leave whose load has ended changes nothing is log 78's choice. -/
def Obligations.StreamRecordOperations : Prop :=
  (
    ∀ (s : State) (k : Nat) (a : Access) (num : BitVec 15) (b : Bound), s.due k = some a → s.pkg.boundOf s.cell.k.ctx num = some b →
      s.here ≠ 0x3FFF →
      let r := s.pkg.record b.pa
      let done (v : Word) (r' : StreamRec) : State := (changeRecord b r' s).onCell (Cell.land a v 0)
      let refused (code : Byte) (info : W32) : State := (refuseRecord b r code s).onCell fun c => (c.accessFault a code info).finish a
      (a.op = .stream num .join → a.gone = false →
        (∀ i, r.slotFor s.here = some i → exec (.join s.here k) s = .next (done (BitVec.ofNat 64 i) r)) ∧
        (∀ i, r.slotFor s.here = none → i < (if r.hread then 7 else 8) → r.taken.getD i none = none →
          (∀ j < i, r.taken.getD j none ≠ none) → exec (.join s.here k) s = .next (done (BitVec.ofNat 64 i) (r.putSlot i s.here r.tail))) ∧
        (r.slotFor s.here = none → (∀ j < (if r.hread then 7 else 8), r.taken.getD j none ≠ none) →
          exec (.join s.here k) s = .next (s.onCell (Cell.land a (-1) 0)))) ∧
      (a.op = .stream num .leave → a.gone = false →
        (∀ i, r.slotFor s.here = some i →
          exec (.leave s.here k) s = .next (done 0 { r.freeSlot i with tail := (r.freeSlot i).lowest })) ∧
        (r.slotFor s.here = none → exec (.leave s.here k) s = .next (done 0 r))) ∧
      (a.gone = true → (a.op = .stream num .join → exec (.join s.here k) s = .next (s.onCell (Cell.land a 0 0))) ∧
        (a.op = .stream num .leave → exec (.leave s.here k) s = .next (s.onCell (Cell.land a 0 0)))) ∧
      (∀ q, a.op = .stream num (.release q) →
        (∀ i t, r.slotFor s.here = some i → r.tetherOf s.here = some t →
          (before q t = true → exec (.release s.here k) s = .next (refused cSTREAM_BEHIND (q.setWidth 32))) ∧
          (before q t = false → before r.head q = true → exec (.release s.here k) s = .next (refused cACCESS (q.setWidth 32))) ∧
          (before q t = false → before r.head q = false →
            exec (.release s.here k) s = .next (done 0 { r.putSlot i s.here q with tail := (r.putSlot i s.here q).lowest }))) ∧
        (r.slotFor s.here = none → exec (.release s.here k) s = .next (refused cACCESS (q.setWidth 32)))) ∧
      (∀ q, a.op = .stream num (.publish q) →
        (r.hprod = true → exec (.publish s.here k) s = .next (refused cACCESS (q.setWidth 32))) ∧
        (r.hprod = false → r.closed = true → exec (.publish s.here k) s = .next (refused cSTREAM_CLOSED (q.setWidth 32))) ∧
        (r.hprod = false → r.closed = false → before r.head q = false → exec (.publish s.here k) s = .next (done 0 r)) ∧
        (r.hprod = false → r.closed = false → before r.head q = true → before (r.tail + r.cap) q = true →
          exec (.publish s.here k) s = .next (refused cACCESS (q.setWidth 32))) ∧
        (r.hprod = false → r.closed = false → before r.head q = true → before (r.tail + r.cap) q = false →
          exec (.publish s.here k) s =
            .next (done 0 { r with head := q, tail := if r.taken.all (· == none) then q else r.tail }))) ∧
      (a.op = .stream num .close → exec (.close s.here k) s = .next (done 0 { r with closed := true })) ∧
      (a.op = .stream num .head →
        exec (.valueLanding s.here k) s = .next (s.onCell (Cell.land a (BitVec.ofNat 64 ((if r.closed then 2 ^ 63 else 0) + r.head.toNat)) 0))) ∧
      (a.op = .stream num .tail → exec (.valueLanding s.here k) s = .next (s.onCell (Cell.land a (BitVec.ofNat 64 r.tail.toNat) 0)))) ∧
  (
    ∀ (p : Package) (pa : Nat) (r : StreamRec), r.slots.length = 8 → r.k < 32 → r.logn < 16 →
      (p.write pa (recordBytes r)).record pa = r ∧ ∀ q, (q < pa ∨ pa + 128 ≤ q) → (p.write pa (recordBytes r)).byte q = p.byte q)

/-- R212, R250: `sbind` binds and unbinds a number, with its status in `x[d]`. R210, R266: a fetch brings the record of a stream into the cell's
window unit and the held instruction goes on; a number without a record is ACCESS. R225: the oldest record of the overflow buffer is published once
there is room. -/
def Obligations.StreamBindingAndWindows : Prop :=
  (
    ∀ (s : State) (k : Nat) (a : Access) (num : BitVec 15) (va : Word), s.due k = some a → a.op = .stream num (.bind va) →
      (va ≠ 0 → ∀ b p, bindStatus s.cell.k.ctx num va s.pkg = (.ok (0, some b), p) →
        ∃ t, exec (.streamBind s.here k) s = .next t ∧ t.cell = s.cell.land a 0 0 ∧
          ∃ b', t.pkg.bound = s.pkg.bound ++ [b'] ∧ b'.ctx = s.cell.k.ctx ∧ b'.num = num ∧ b'.va = va) ∧
      (va ≠ 0 → ∀ code p, code ≠ 0 → bindStatus s.cell.k.ctx num va s.pkg = (.ok (code, none), p) →
        ∃ t, exec (.streamBind s.here k) s = .next t ∧ t.cell = s.cell.land a (code.setWidth 64) 0 ∧ t.pkg.bound = s.pkg.bound ∧ t.pkg.mem = s.pkg.mem) ∧
      (va = 0 → s.pkg.boundOf s.cell.k.ctx num = none → exec (.streamBind s.here k) s = .next (s.onCell (Cell.land a 0x06 0))) ∧
      (va = 0 → ∀ b, s.pkg.boundOf s.cell.k.ctx num = some b → (s.pkg.record b.pa).taken.any Option.isSome = true →
        exec (.streamBind s.here k) s = .next (s.onCell (Cell.land a 0x06 0))) ∧
      (va = 0 → ∀ b, s.pkg.boundOf s.cell.k.ctx num = some b → (s.pkg.record b.pa).taken.any Option.isSome = false →
        ∃ t, exec (.streamBind s.here k) s = .next t ∧ t.pkg.boundOf s.cell.k.ctx num = none ∧ t.pkg.mem = s.pkg.mem ∧
          ∀ d, a.dst = .x d → d ≠ 0 → t.cell.xreg d = ⟨0, .full⟩) ∧
      (va.toNat % 128 ≠ 0 → (bindStatus s.cell.k.ctx num va s.pkg).1 = .ok (0x05, none)) ∧
      (va.toNat % 128 = 0 → s.pkg.boundOf s.cell.k.ctx num ≠ none → (bindStatus s.cell.k.ctx num va s.pkg).1 = .ok (0x06, none))) ∧
  (
    (∀ (s : State) (num : BitVec 15) (va : W32), s.cell.hold = some (.fetching num va) →
      (∀ b, s.pkg.boundOf s.cell.k.ctx num = some b → s.cell.win.length < 8 →
        ∃ t, exec (.recordFetch s.here num) s = .next t ∧ t.cell.hold = none ∧ t.cell.pc = s.cell.pc ∧ t.cell.x = s.cell.x ∧ t.pkg = s.pkg ∧
          ∃ w ∈ t.cell.win, w.num = num ∧ w.head = (s.pkg.record b.pa).head ∧ w.tail = (s.pkg.record b.pa).tail ∧
            w.closed = (s.pkg.record b.pa).closed ∧ w.slot = (s.pkg.record b.pa).tetherOf s.here) ∧
      (s.pkg.boundOf s.cell.k.ctx num = none → exec (.recordFetch s.here num) s = .next (raise cACCESS 0 va s))) ∧
    ∀ (s : State) (ctx : BitVec 6) (c : Context) (d : List Word) (r : List (List Word)), aget s.pkg.contexts ctx.toNat = some c → c.overflow = d :: r →
      let rest := s.onPkg (Package.onCtx ctx fun c => { c with overflow := r })
      (s.pkg.stalledAt ctx .events = true → exec (.overflowRecordPublish ctx) s = .next s) ∧
      (publishNow ctx d rest = .waits → exec (.overflowRecordPublish ctx) s = .next s) ∧
      (s.pkg.stalledAt ctx .events = false → ∀ t, publishNow ctx d rest = .done t → exec (.overflowRecordPublish ctx) s = .next t) ∧
      (s.pkg.stalledAt ctx .events = false → publishNow ctx d rest = .stalls → exec (.overflowRecordPublish ctx) s = .next (s.onPkg (Package.stallAt ctx .events))) ∧
      (s.pkg.stalledAt ctx .events = false → publishNow ctx d rest = .dropped → ∃ t c', exec (.overflowRecordPublish ctx) s = .next t ∧ aget t.pkg.contexts ctx.toNat = some c' ∧
        c'.overflow = r ∧ c'.lost = min (c.lost + 1) 0xFFFF))

/-- R220, R221, the host aperture as PF BAR 2 reaches it: attaching joins slot 7, HEAD publishes, TETHER releases, and data is read or written over
every frame; a refused read completes with Completer Abort. That the bits of a BIND, HEAD or TETHER value outside its fields change nothing is log
64's, DEDUCED. -/
def Obligations.HostAperture : Prop :=
  ∀ (slot : Byte) (val : Word) (s : State), slotDown slot s = false →
    (val.getLsbD 63 = true → aget s.pkg.apertures slot.toNat = none →
      (∀ b, s.pkg.boundOf (val.extractLsb' 16 6) (val.extractLsb' 0 15) = some b →
        (s.pkg.record b.pa).slotFor hostOwner = none → (s.pkg.record b.pa).taken.getD 7 none = none → (s.pkg.record b.pa).hread = true →
        ∃ s1, exec (.apertureBind .pf slot val) s =
            .next (changeRecord b ((s.pkg.record b.pa).putSlot 7 hostOwner (s.pkg.record b.pa).tail) s1) ∧
          s1.pkg = { s.pkg with apertures := aput slot.toNat ⟨true, val.extractLsb' 16 6, val.extractLsb' 0 15, 0⟩ s.pkg.apertures } ∧ s1.cell = s.cell)) ∧
    (∀ a b, apertureStream slot s.pkg = some (a, b) →
      let r := s.pkg.record b.pa
      let q : BitVec 48 := val.setWidth 48
      (r.hprod = true → r.closed = false → before r.head q = true → before (r.tail + r.cap) q = false →
        exec (.apertureHead .pf slot val) s = .next (changeRecord b { r with head := q, tail := if r.taken.all (· == none) then q else r.tail } s)) ∧
      (r.hprod = false → exec (.apertureHead .pf slot val) s = .next (refuseHost a slot cACCESS true q 8 (refuseRecord b r cACCESS s))) ∧
      (∀ i t, r.slotFor hostOwner = some i → r.tetherOf hostOwner = some t → before q t = false → before r.head q = false →
        exec (.apertureTether .pf slot val) s =
          .next (changeRecord b { r.putSlot i hostOwner q with tail := (r.putSlot i hostOwner q).lowest } s)) ∧
      (∀ (off : BitVec 16) (n : Nat) l p, before (a.pos off) r.tail = false → before r.head (a.pos off + BitVec.ofNat 48 n) = false →
        framePlaces false b r (framePieces r.k (n / 2 ^ min r.k 7 + 2) (a.pos off) n) s.pkg = (.ok l, p) →
        exec (.apertureDataRead .pf slot off n) s =
          .next (emit (.hostRead (l.flatMap fun e => (readPlace e.1 e.2 s).1)) { s with pkg := p })) ∧
      (∀ (off : BitVec 16) (n : Nat), (before (a.pos off) r.tail = true ∨ before r.head (a.pos off + BitVec.ofNat 48 n) = true) →
        exec (.apertureDataRead .pf slot off n) s = .next (refuseHost a slot cACCESS false (a.pos off) n (emit .hostAbort s))) ∧
      ∀ (off : BitVec 16) (data : List Byte) l p, r.closed = false → before (a.pos off) r.head = false →
        before (r.tail + r.cap) (a.pos off + BitVec.ofNat 48 data.length) = false →
        framePlaces true b r (framePieces r.k (data.length / 2 ^ min r.k 7 + 2) (a.pos off) data.length) s.pkg = (.ok l, p) →
        exec (.apertureDataWrite .pf slot off data) s = .next (writePlaces l data { s with pkg := p }))

/-! ### Packets (R31-R47, R167-R192) -/

/-- R171: the integer lane operations. A result keeps the low bits of the exact value, or is clamped to the format's range where `KFRM.SAT` is 1, and
no flag is raised; the result length is the least of the lengths read (R168). -/
def Obligations.IntegerLanes : Prop :=
  ∀ (d a b : VIdx) (A B C : VReg) (f : BitVec 3) (s : State), s.HasV a A → s.HasV b B →
    let F : FmtDesc := f.setWidth 7
    let n := min A.length B.length
    let keep (l : List Int) : List W32 := packLanes F n (l.map (keepInt F s.cell.k.sat))
    let codes (g : Nat → Nat → Nat) : List W32 := packLanes F n (List.zipWith g (A.elems F n) (B.elems F n))
    (s.FreeV d →
      exec (.vadd d a b f) s = .next (s.wroteV d (keep (List.zipWith (· + ·) (A.ints F n) (B.ints F n)))) ∧
      exec (.vsub d a b f) s = .next (s.wroteV d (keep (List.zipWith (· - ·) (A.ints F n) (B.ints F n)))) ∧
      exec (.vmul d a b f) s = .next (s.wroteV d (keep (List.zipWith (· * ·) (A.ints F n) (B.ints F n)))) ∧
      exec (.vabs d a f) s = .next (s.wroteV d (packLanes F A.length ((A.ints F A.length).map fun i => keepInt F s.cell.k.sat (i.natAbs : Int)))) ∧
      exec (.vneg d a f) s = .next (s.wroteV d (packLanes F A.length ((A.ints F A.length).map fun i => keepInt F s.cell.k.sat (0 - i)))) ∧
      exec (.vmin d a b f) s = .next (s.wroteV d (codes fun x y => if intOf F x ≤ intOf F y then x else y)) ∧
      exec (.vmax d a b f) s = .next (s.wroteV d (codes fun x y => if intOf F x < intOf F y then y else x)) ∧
      exec (.vand d a b) s = .next (s.wroteV d (List.zipWith (· &&& ·) (A.lanes.toList.take n) (B.lanes.toList.take n))) ∧
      exec (.vor d a b) s = .next (s.wroteV d (List.zipWith (· ||| ·) (A.lanes.toList.take n) (B.lanes.toList.take n))) ∧
      exec (.vxor d a b) s = .next (s.wroteV d (List.zipWith (· ^^^ ·) (A.lanes.toList.take n) (B.lanes.toList.take n))) ∧
      exec (.vshl d a b f) s = .next (s.wroteV d (codes fun x y => x * 2 ^ (y % width F) % 2 ^ width F)) ∧
      exec (.vshr d a b f) s = .next (s.wroteV d (codes fun x y => x / 2 ^ (y % width F))) ∧
      exec (.vsra d a b f) s = .next (s.wroteV d (codes fun x y => ((BitVec.ofNat (width F) x).sshiftRight (y % width F)).toNat)) ∧
      exec (.vcmp d a b f) s = .next (s.wroteV d (codes fun x y =>
        if intOf F x = intOf F y then 0 else if intOf F x > intOf F y then 1 else 2 ^ width F - 1))) ∧
    (s.HasV d C → let m := min n C.length
      exec (.vsel d a b f) s = .next (s.wroteV d (packLanes F m
        (List.zipWith (fun e z => if z ≠ 0 then e.1 else e.2) ((A.elems F m).zip (B.elems F m)) (C.elems F m)))))

/-- R173, R174: the float lane operations. The first four compute exactly and round once under `KFRM`; the flags are the OR over the elements. The value
that is rounded is the exact sum, product or a × b + c of finite operands, its zero signed as R173 says; infinities, NaNs and the invalid sums and
products are R173's. The lesser and greater of two elements, and the sign operations, are R174's. -/
def Obligations.FloatLanes : Prop :=
  (∀ (mode : BitVec 3) (n k l : Bool) (m p q : Nat) (e d g : Int),
    let zero (s t : Bool) : Bool := if s = t then s else mode == 3
    (∃ s r h, addExact mode (.fin n m e) (.fin k p d) = (.fin s r h, 0) ∧ rat s r h = rat n m e + rat k p d ∧ (r = 0 → s = zero n k)) ∧
    (∃ s r h, mulExact (.fin n m e) (.fin k p d) = (.fin s r h, 0) ∧ rat s r h = rat n m e * rat k p d ∧ s = (n != k)) ∧
    (∃ s r h, fmaExact mode (.fin n m e) (.fin k p d) (.fin l q g) = (.fin s r h, 0) ∧ rat s r h = rat n m e * rat k p d + rat l q g ∧
      (r = 0 → s = zero (n != k) l))) ∧
  (∀ (mode : BitVec 3) (n k : Bool) (m p : Nat) (e d : Int) (x : Machine.Num),
    addExact mode (.inf n) (.inf k) = (if n = k then (.inf n, 0) else (.nan false, flNV)) ∧
    addExact mode (.inf n) (.fin k p d) = (.inf n, 0) ∧ addExact mode (.fin k p d) (.inf n) = (.inf n, 0) ∧ mulExact (.inf n) (.inf k) = (.inf (n != k), 0) ∧
    (∀ y ∈ [mulExact (.inf n) (.fin k p d), mulExact (.fin k p d) (.inf n)], y = if p = 0 then (.nan false, flNV) else (.inf (n != k), 0)) ∧
    (x.isNan = false → fmaExact mode (.fin n m e) (.fin k p d) (.inf k) = (.inf k, 0) ∧ fmaExact mode (.inf n) (.fin k 0 d) x = (.nan false, flNV) ∧
      fmaExact mode (.fin k 0 d) (.inf n) x = (.nan false, flNV) ∧ fmaExact mode (.inf n) (.inf k) (.inf (n == k)) = (.nan false, flNV) ∧
      (p ≠ 0 → fmaExact mode (.inf n) (.fin k p d) (.inf (n == k)) = (.nan false, flNV) ∧ fmaExact mode (.inf n) (.fin k p d) (.inf (n != k)) = (.inf (n != k), 0) ∧
        fmaExact mode (.inf n) (.fin k p d) (.fin k m e) = (.inf (n != k), 0)))) ∧
  (∀ (mode : BitVec 3) (x y z : Machine.Num), x.isNan = true ∨ y.isNan = true →
    let sig : Flags := if x.isSig || y.isSig then flNV else 0
    addExact mode x y = (.nan false, sig) ∧ mulExact x y = (.nan false, sig) ∧
      fmaExact mode x y z = (.nan false, sig ||| (if z.isSig then flNV else 0))) ∧
  (∀ (mode : BitVec 3) (x y z : Machine.Num), x.isNan = false → y.isNan = false → z.isNan = true →
    fmaExact mode x y z = (.nan false, (mulExact x y).2 ||| (if z.isSig then flNV else 0))) ∧
  (∀ (f : FmtDesc) (a b : Nat), f.isFloat = true → let x := valueOf f a
    let y := valueOf f b
    let nv : Flags := if x.isSig || y.isSig then flNV else 0
    (minMax f false a b).2 = nv ∧ (minMax f true a b).2 = nv ∧
    (x.isNan = true → y.isNan = true → (minMax f false a b).1 = ((floatFmt f).nan).getD 0 ∧ (minMax f true a b).1 = ((floatFmt f).nan).getD 0) ∧
    (x.isNan = true → y.isNan = false → (minMax f false a b).1 = b ∧ (minMax f true a b).1 = b) ∧
    (x.isNan = false → y.isNan = true → (minMax f false a b).1 = a ∧ (minMax f true a b).1 = a) ∧
    (x.isNan = false → y.isNan = false → (x.Below y → (minMax f false a b).1 = a ∧ (minMax f true a b).1 = b) ∧
      (y.Below x → (minMax f false a b).1 = b ∧ (minMax f true a b).1 = a) ∧ (¬ x.Below y → ¬ y.Below x → (minMax f false a b).1 = a ∧ (minMax f true a b).1 = a))) ∧
  (∀ (f : FmtDesc) (c : Nat), f.isFloat = true → c < 2 ^ width f →
    let x := valueOf f c
    (x.isNan = true → ∀ neg, signCode neg f c = (((floatFmt f).nan).getD 0, if x.isSig then flNV else 0)) ∧
    (x.isNan = false → (floatFmt f).signed = true → ((floatFmt f).negZero = true ∨ c ≠ 0 →
        ∃ r, signCode true f c = (r, 0) ∧ r < 2 ^ width f ∧ ∀ i < width f, r.testBit i = (c.testBit i ^^ decide (i = width f - 1))) ∧
      (∃ r, signCode false f c = (r, 0) ∧ ∀ i, r.testBit i = (c.testBit i && decide (i < width f - 1))) ∧ ((floatFmt f).negZero = false → signCode true f 0 = (0, 0))) ∧
    (x.isNan = false → (floatFmt f).signed = false → signCode false f c = (c, 0) ∧ signCode true f c = if c = 0 then (0, 0) else (((floatFmt f).nan).getD 0, flNV))) ∧
  (∀ (n k : Bool) (m p : Nat) (e d : Int), ((Num.fin n m e).lt (.fin k p d) = true ↔ rat n m e < rat k p d) ∧ ((Num.inf n).lt (.inf k) = (n && !k)) ∧
    (Num.inf n).lt (.fin k p d) = n ∧ (Num.fin k p d).lt (.inf n) = !n) ∧
  ∀ (d a b : VIdx) (A B C : VReg) (f : FmtDesc) (s : State), s.HasV a A → s.HasV b B → f.isFloat = true →
    let n := min A.length B.length
    let rm := s.cell.k.rm
    let two (op : Machine.Num → Machine.Num → Machine.Num × Flags) : List (Nat × Flags) :=
      (List.zipWith op (A.nums f n) (B.nums f n)).mapIdx fun k x => s.round f k x
    let codes (g : Nat → Nat → Nat × Flags) : List (Nat × Flags) := List.zipWith g (A.elems f n) (B.elems f n)
    (s.FreeV d →
      exec (.vfadd d a b f) s = .next (s.wroteElems true d f n (two (addExact rm))) ∧
      exec (.vfsub d a b f) s = .next (s.wroteElems true d f n (two fun x y => addExact rm x y.negate)) ∧
      exec (.vfmul d a b f) s = .next (s.wroteElems true d f n (two mulExact)) ∧
      exec (.vfmin d a b f) s = .next (s.wroteElems false d f n (codes (minMax f false))) ∧
      exec (.vfmax d a b f) s = .next (s.wroteElems false d f n (codes (minMax f true))) ∧
      exec (.vfabs d a f) s = .next (s.wroteElems false d f A.length ((A.elems f A.length).map (signCode false f))) ∧
      exec (.vfneg d a f) s = .next (s.wroteElems false d f A.length ((A.elems f A.length).map (signCode true f))) ∧
      exec (.vfcmp d a b f) s = .next (s.wroteElems false d f n (codes fun x y =>
        (if (valueOf f x).isNan || (valueOf f y).isNan then 2
          else if (valueOf f x).lt (valueOf f y) then 2 ^ width f - 1 else if (valueOf f y).lt (valueOf f x) then 1 else 0,
         if (valueOf f x).isSig || (valueOf f y).isSig then flNV else 0)))) ∧
    (s.HasV d C → let m := min n C.length
      exec (.vfma d a b f) s = .next (s.wroteElems true d f m
        ((List.zipWith (fun e z => fmaExact rm e.1 e.2 z) ((A.nums f m).zip (B.nums f m)) (C.nums f m)).mapIdx fun k x => s.round f k x)))

/-- R177, R179-R181: conversions, approximations and special functions. The reciprocals are the exact value truncated to 12 significant bits or to
the subnormal spacing, and a Newton step is the exact value of its formula, rounded once, each with its special inputs and flags. A power or
logarithm is rounded once from a value that is exact for an integer power and for the logarithm of a power of two; the other values are those of
log 10, UNVERIFIED, of which nothing more is said here. -/
def Obligations.ConversionsAndFunctions : Prop :=
  ∀ (d a b : VIdx) (A B : VReg) (dst src : FmtDesc) (s : State), s.HasV a A → s.HasV b B → s.FreeV d → dst.valid = true → src.valid = true →
    let dense (l : List Nat) : State :=
      let r := (l.map (valueOf src)).mapIdx fun k x => s.round dst k (x, 0)
      s.wrotePacket true d (pack dst (r.map Prod.fst)) (orFlags (r.map Prod.snd))
    let n := min A.length B.length
    exec (.vcvt d a dst src) s = .next (dense ((A.elems src A.length).take (256 / width dst))) ∧
    exec (.vpack d a dst src) s = .next (dense (A.packet.map fun w => w.toNat % 2 ^ width src)) ∧
    (∃ r : List (Nat × Flags), r = (((A.elems src A.length).take 8).map (valueOf src)).mapIdx
          (fun k x => roundTo dst s.cell.rounding (drawBits s.cell.k.dkey s.cell.draw k 0) x) ∧
      exec (.vunpack d a dst src) s = .next (s.wrotePacket true d
        (r.map fun e => if dst.isInt && intSigned dst then BitVec.ofInt 32 (intOf dst e.1) else BitVec.ofNat 32 e.1) (orFlags (r.map Prod.snd)))) ∧
    exec (.vrcp d a) s = .next (s.wroteElems false d fFP32 A.length ((A.elems fFP32 A.length).map rcpCode)) ∧
    exec (.vrsq d a) s = .next (s.wroteElems false d fFP32 A.length ((A.elems fFP32 A.length).map rsqCode)) ∧
    exec (.vexp2 d a) s = .next (s.wroteElems true d fFP32 A.length ((A.nums fFP32 A.length).mapIdx fun k x => s.round fFP32 k (exp2Of x, 0))) ∧
    exec (.vlog2 d a) s = .next (s.wroteElems true d fFP32 A.length ((A.nums fFP32 A.length).mapIdx fun k x => s.round fFP32 k (log2Of x))) ∧
    exec (.vrcpstep d a b) s = .next (s.wroteElems true d fFP32 n ((List.zip (A.elems fFP32 n) (B.elems fFP32 n)).mapIdx fun k e =>
      stepCode false s.cell.rounding (s.cell.rnd fFP32 k) e.1 e.2)) ∧
    exec (.vrsqstep d a b) s = .next (s.wroteElems true d fFP32 n ((List.zip (A.elems fFP32 n) (B.elems fFP32 n)).mapIdx fun k e =>
      stepCode true s.cell.rounding (s.cell.rnd fFP32 k) e.1 e.2)) ∧
    (∀ c : Nat, c < 2 ^ 32 →
      (∀ g, valueOf fFP32 c = .nan g → rcpCode c = (0x7FC0_0000, if g then flNV else 0) ∧ rsqCode c = (0x7FC0_0000, if g then flNV else 0)) ∧
      (∀ neg, valueOf fFP32 c = .inf neg → rcpCode c = (if neg then 0x8000_0000 else 0, 0) ∧ rsqCode c = (if neg then (0x7FC0_0000, flNV) else (0, 0))) ∧
      ∀ neg m e, valueOf fFP32 c = .fin neg m e →
        let x : ℚ := rat false m e
        let inf : Nat := if neg then 0xFF80_0000 else 0x7F80_0000
        (m = 0 → rcpCode c = (inf, flDZ) ∧ rsqCode c = (inf, flDZ)) ∧
        (m ≠ 0 → x ≤ 2 ^ (-128 : Int) → rcpCode c = (inf, flOF ||| flIX)) ∧
        (2 ^ (-128 : Int) < x → let u : ℚ := max (2 ^ (Int.log 2 (1 / x) - 11)) (2 ^ (-149 : Int))
          ∃ q g, valueOf fFP32 (rcpCode c).1 = .fin neg q g ∧ rat false q g = ⌊1 / x / u⌋ * u ∧ (rcpCode c).2 = 0) ∧
        (m ≠ 0 → neg = true → rsqCode c = (0x7FC0_0000, flNV)) ∧
        (m ≠ 0 → neg = false → let u : ℚ := 2 ^ (Int.log 2 (1 / x) / 2 - 11)
          ∃ q g, valueOf fFP32 (rsqCode c).1 = .fin false q g ∧ (rat false q g) ^ 2 ≤ 1 / x ∧ 1 / x < (rat false q g + u) ^ 2 ∧
            (∃ i : Nat, rat false q g = i * u) ∧ (rsqCode c).2 = 0)) ∧
    (∀ (root : Bool) (r : Rounding) (rnd x y : Nat), x < 2 ^ 32 → y < 2 ^ 32 →
      let X := valueOf fFP32 x
      let Y := valueOf fFP32 y
      (∀ k g, Y = .fin k 0 g → stepCode root r rnd x y = (y, 0)) ∧ (∀ k, Y = .inf k → stepCode root r rnd x y = (y, 0)) ∧
      ((∀ k g, Y ≠ .fin k 0 g) → (∀ k, Y ≠ .inf k) → X.isNan = true ∨ Y.isNan = true →
        stepCode root r rnd x y = (0x7FC0_0000, if X.isSig || Y.isSig then flNV else 0)) ∧
      (∀ k l g, Y = .fin k l g → l ≠ 0 →
        (∀ neg, X = .inf neg → stepCode root r rnd x y = (if neg != (root && k) then 0x7F80_0000 else 0xFF80_0000, 0)) ∧
        ∀ neg m e, X = .fin neg m e → ∃ q M E, stepCode root r rnd x y = roundTo fFP32 r rnd (.fin q M E) ∧
          rat q M E = (if root then rat k l g * (3 - rat neg m e * rat k l g * rat k l g) / 2 else rat k l g * (2 - rat neg m e * rat k l g)))) ∧
    (∀ g, exp2Of (.nan g) = .nan g ∧ log2Of (.nan g) = (.nan false, if g then flNV else 0)) ∧
    exp2Of (.inf true) = .fin false 0 0 ∧ exp2Of (.inf false) = .inf false ∧ log2Of (.inf true) = (.nan false, flNV) ∧ log2Of (.inf false) = (.inf false, 0) ∧
    ∀ (neg : Bool) (m : Nat) (e : Int),
      (∀ i : Int, -1024 ≤ i → rat neg m e = i → exp2Of (.fin neg m e) = .fin false 1 i) ∧
      (m = 0 → log2Of (.fin neg m e) = (.inf true, flDZ)) ∧ (m ≠ 0 → neg = true → log2Of (.fin neg m e) = (.nan false, flNV)) ∧
      ∀ i : Nat, m = 2 ^ i → ∃ q M E, log2Of (.fin false m e) = (.fin q M E, 0) ∧ rat q M E = i + e ∧ (M = 0 → q = false)

/-- R183, R184: reductions and lane movement. An exact zero sum is +0, and -0 under RDN, but for the sum of zeros that are all -0 (logs 27 and 73 on
what the spec leaves open there). -/
def Obligations.ReductionsAndMovement : Prop :=
  (∀ (mode : BitVec 3) (l : List Machine.Num), (∀ x ∈ l, ∃ n m e, x = .fin n m e) → l ≠ [] →
    ((∀ x ∈ l, ∃ e, x = .fin true 0 e) → sumExact mode l = (.fin true 0 0, 0)) ∧
    ((∃ x ∈ l, ¬∃ e, x = .fin true 0 e) → (l.map Machine.Num.rat).sum = 0 → sumExact mode l = (.fin (mode == 3) 0 0, 0)) ∧
    ((l.map Machine.Num.rat).sum ≠ 0 → ∃ n m e, sumExact mode l = (.fin n m e, 0) ∧ rat n m e = (l.map Machine.Num.rat).sum)) ∧
  ∀ (d a b : VIdx) (A B : VReg) (f : FmtDesc) (s : State), s.HasV a A → s.HasV b B → s.FreeV d → f.valid = true →
    let E := A.elems f A.length
    let I : FmtDesc := if intSigned f then fINT32 else fUINT32
    (f.isInt = true → exec (.vsum d a f) s = .next (s.wroteV d [BitVec.ofNat 32 (keepInt I s.cell.k.sat ((E.map (intOf f)).sum))])) ∧
    (f.isInt = false → ∃ r, r = s.round fFP32 0 (sumExact s.cell.k.rm (E.map (valueOf f))) ∧
      exec (.vsum d a f) s = .next (s.wrotePacket true d [BitVec.ofNat 32 r.1] r.2)) ∧
    (∀ m i : Nat, i < E.length → E.getD i 0 = m → (f.isInt = false → (valueOf f m).isNan = false) →
      (∀ j < E.length, (f.isInt = false → (valueOf f (E.getD j 0)).isNan = false) → ranksBelow f m (E.getD j 0) = false) →
      (∀ j < i, (f.isInt = false → (valueOf f (E.getD j 0)).isNan = false) → ranksBelow f (E.getD j 0) m = true) →
      exec (.vmaxr d a f) s = .next (s.wrotePacket false d [BitVec.ofNat 32 m, BitVec.ofNat 32 i]
        (if !f.isInt && E.any (fun c => (valueOf f c).isSig) then flNV else 0))) ∧
    (f.isInt = false → (∀ c ∈ E, (valueOf f c).isNan = true) → exec (.vmaxr d a f) s =
      .next (s.wrotePacket false d [BitVec.ofNat 32 (nanCode f), 0] (if E.any (fun c => (valueOf f c).isSig) then flNV else 0))) ∧
    exec (.vperm d a b) s = .next (s.wroteV d (B.packet.map fun w =>
      if w.getLsbD 3 || A.length ≤ w.toNat % 8 then 0 else A.lanes.toList.getD (w.toNat % 8) 0)) ∧
    (∀ i : BitVec 5, exec (.vbcast d a i f) s =
      .next (s.wroteV d (packLanes f 8 (List.replicate (256 / width f) (if i.toNat < E.length then E.getD i.toNat 0 else 0))))) ∧
    (∀ k : BitVec 3, f.isInt = true → exec (.vbfly d a k f) s = .next (s.wroteV d (packLanes f A.length (E.mapIdx fun i x =>
      if i.testBit k.toNat then keepInt f s.cell.k.sat (intOf f (E.getD (i - 2 ^ k.toNat) 0) - intOf f x)
      else if i + 2 ^ k.toNat < E.length then keepInt f s.cell.k.sat (intOf f x + intOf f (E.getD (i + 2 ^ k.toNat) 0)) else x)))) ∧
    (∀ k : BitVec 3, f.isInt = false → exec (.vbfly d a k f) s = .next (s.wroteElems true d f A.length (E.mapIdx fun i x =>
      if i.testBit k.toNat then s.round f i (addExact s.cell.k.rm (valueOf f (E.getD (i - 2 ^ k.toNat) 0)) (valueOf f x).negate)
      else if i + 2 ^ k.toNat < E.length then s.round f i (addExact s.cell.k.rm (valueOf f x) (valueOf f (E.getD (i + 2 ^ k.toNat) 0)))
      else (x, 0)))) ∧
    ∀ n : BitVec 5, 1 ≤ n.toNat → n.toNat ≤ 8 → ∃ t, exec (.vlen d a n) s = .next t ∧ t.cell.pc = s.cell.pc + 4 ∧
      (t.cell.vreg d).lanes = A.lanes ∧ (t.cell.vreg d).length = n.toNat ∧ (t.cell.vreg d).st = .full ∧ t.cell.x = s.cell.x ∧
      ∀ m, m ≠ d → t.cell.vreg m = s.cell.vreg m

/-- R186-R192: block scales, softmax merges, dice and input pipelines. Of two equal maxima of a merge the first one's code is delivered, and beside a
NaN maximum no other lane is looked at (log 73). -/
def Obligations.ScalesMergesAndPipelines : Prop :=
  ∀ (d a b : VIdx) (A B : VReg) (f : FmtDesc) (s : State), s.HasV a A → s.HasV b B → s.FreeV d →
    (f.isNarrow = true →
      (let l : List W32 := A.packet ++ [B.lanes[0]];
        ((∃ w ∈ l, (valueOf fFP32 w.toNat).isNan = true) → exec (.vbscale d a b f) s = .next (s.wroteV d [0x7FC0_0000, 0xFF])) ∧
        ((∀ w ∈ l, (valueOf fFP32 w.toNat).isNan = false) → (∃ w ∈ l, ∃ k, valueOf fFP32 w.toNat = .inf k) →
          exec (.vbscale d a b f) s = .next (s.wroteV d [0x7F80_0000, 0xFF])) ∧
        ∀ w ∈ l, ∀ k m e, valueOf fFP32 w.toNat = .fin k m e →
          (∀ z ∈ l, ∃ k' m' e', valueOf fFP32 z.toNat = .fin k' m' e' ∧ rat false m' e' ≤ rat false m e) →
          exec (.vbscale d a b f) s = .next (s.wroteV d [w &&& 0x7FFF_FFFF,
            if m = 0 then 0 else BitVec.ofInt 32 (max 0 (min 254 (Int.log 2 (rat false m e) - emax f + 127)))])) ∧
      (f.code = 11 → emax f = 2) ∧ (f.code = 12 → emax f = 8) ∧ (f.code = 13 → emax f = 15) ∧
      (∀ m e, magValue (floatFmt f) false (floatFmt f).cmax = .fin false m e → emax f = Int.log 2 (rat false m e)) ∧
      (∃ r : List (Nat × Flags), r = A.packet.mapIdx (fun k w => s.round f k (unscaled (valueOf fFP32 w.toNat) (scaleByte B), 0)) ∧
        exec (.vquant d a b f) s = .next (s.wrotePacket true d (pack f (r.map Prod.fst)) (orFlags (r.map Prod.snd)))) ∧
      ∃ r : List (Nat × Flags), r = ((A.elems f A.length).take 8).mapIdx (fun k c => s.round fFP32 k (scaled (valueOf f c) (scaleByte B), 0)) ∧
        exec (.vdequant d a b f) s = .next (s.wrotePacket true d (r.map fun e => BitVec.ofNat 32 e.1) (orFlags (r.map Prod.snd)))) ∧
    (let n := min A.length B.length
      let m1 := valueOf fFP32 A.lanes[0].toNat
      let m2 := valueOf fFP32 B.lanes[0].toNat
      (m1 = .inf true → m2 = .inf true → exec (.vsmerge d a b) s = .next (s.wrotePacket true d (0xFF80_0000 :: List.replicate (n - 1) 0) 0)) ∧
      (m1.isNan = true ∨ m2.isNan = true → exec (.vsmerge d a b) s =
        .next (s.wrotePacket true d (List.replicate n 0x7FC0_0000) (if m1.isSig || m2.isSig then flNV else 0))) ∧
      (¬(m1 = .inf true ∧ m2 = .inf true) → m1.isNan = false → m2.isNan = false →
        let m := if m1.lt m2 then m2 else m1
        ∀ w1 w2 f1 f2,
          (if m1.lt m2 then (w1, f1) = (valueOf fFP32 (roundTo fFP32 rne 0 (exp2Of (addExact 0 m1 m.negate).1)).1,
              (addExact 0 m1 m.negate).2 ||| (roundTo fFP32 rne 0 (exp2Of (addExact 0 m1 m.negate).1)).2) else w1 = .fin false 1 0 ∧ f1 = 0) →
          (if m2.lt m1 then (w2, f2) = (valueOf fFP32 (roundTo fFP32 rne 0 (exp2Of (addExact 0 m2 m.negate).1)).1,
              (addExact 0 m2 m.negate).2 ||| (roundTo fFP32 rne 0 (exp2Of (addExact 0 m2 m.negate).1)).2) else w2 = .fin false 1 0 ∧ f2 = 0) →
          let r : List (Nat × Flags) := (((A.lanes.toList.take n).tail).zip ((B.lanes.toList.take n).tail)).mapIdx fun k e =>
            let p := mulExact (valueOf fFP32 e.1.toNat) w1
            let q := mulExact (valueOf fFP32 e.2.toNat) w2
            let t := addExact s.cell.k.rm p.1 q.1
            s.round fFP32 (k + 1) (t.1, p.2 ||| q.2 ||| t.2)
          exec (.vsmerge d a b) s = .next (s.wrotePacket true d ((if m1.lt m2 then B.lanes[0] else A.lanes[0]) :: r.map fun e => BitVec.ofNat 32 e.1)
            (f1 ||| f2 ||| orFlags (r.map Prod.snd))))) ∧
    (∀ si : BitVec 5,
      exec (.vdice d a si false) s = .next (s.wroteV d (A.packet.map fun i => (philox s.cell.k.dkey i 0 (BitVec.ofNat 32 si.toNat) 0x8000_0000).1)) ∧
      exec (.vdice d a si true) s = .next (s.wroteV d (A.packet.map fun i =>
        BitVec.ofNat 32 (roundTo fFP32 rne 0 (.fin false ((philox s.cell.k.dkey i 0 (BitVec.ofNat 32 si.toNat) 0x8000_0000).1.toNat / 256) (-24))).1))) ∧
    (∃ r : List (Nat × Flags), r = A.packet.mapIdx (fun j w =>
        ((cscOut s.cell B w j 0).1 + 2 ^ 8 * (cscOut s.cell B w j 1).1 + 2 ^ 16 * (cscOut s.cell B w j 2).1 + 2 ^ 24 * (w.toNat / 2 ^ 24),
          (cscOut s.cell B w j 0).2 ||| (cscOut s.cell B w j 1).2 ||| (cscOut s.cell B w j 2).2)) ∧
      exec (.vcsc d a b) s = .next (s.wrotePacket true d (r.map fun e => BitVec.ofNat 32 e.1) (orFlags (r.map Prod.snd)))) ∧
    (let M (i : Nat) : Machine.Num := valueOf fBF16 ((B.lanes.toList.getD (i / 2) 0).toNat / 2 ^ (16 * (i % 2)) % 2 ^ 16)
      ∀ (w : W32) (j k : Nat), k < 3 →
        (∀ n0 m0 e0 n1 m1 e1 n2 m2 e2 n3 m3 e3, M (3 * k) = .fin n0 m0 e0 → M (3 * k + 1) = .fin n1 m1 e1 → M (3 * k + 2) = .fin n2 m2 e2 →
          M (9 + k) = .fin n3 m3 e3 → ∃ q m e,
            rat q m e = rat n0 m0 e0 * (w.toNat % 2 ^ 8 : Nat) + rat n1 m1 e1 * (w.toNat / 2 ^ 8 % 2 ^ 8 : Nat) +
              rat n2 m2 e2 * (w.toNat / 2 ^ 16 % 2 ^ 8 : Nat) + rat n3 m3 e3 ∧
            cscOut s.cell B w j k =
              ((max 0 (min 255 (roundInt s.cell.k.rm (drawBits s.cell.k.dkey s.cell.draw j k) q m e).1)).toNat, 0)) ∧
        ((∃ i ∈ [3 * k, 3 * k + 1, 3 * k + 2, 9 + k], ∀ n m e, M i ≠ .fin n m e) → cscOut s.cell B w j k = (0, flNV))) ∧
    (f.isFloat = true → ∃ r : List (Nat × Flags), r = ((A.elems fUINT8 A.length).take (256 / width f)).mapIdx (fun k x =>
        let t (i : Nat) : Machine.Num := valueOf fFP32 (B.lanes.toList.getD i 0).toNat
        let y := addExact s.cell.k.rm (.fin false x 0) (t (k % 4)).negate
        let z := mulExact y.1 (t (4 + k % 4))
        s.round f k (z.1, y.2 ||| z.2)) ∧
      exec (.vnorm d a b f) s = .next (s.wrotePacket true d (pack f (r.map Prod.fst)) (orFlags (r.map Prod.snd))))

/-- R9, R22, R23, R44, R170, what a performed packet instruction leaves: the lanes below the result length, the others as they were, the length, the
draw count one further where it rounds under SR, the flags merged, and the PC at the next instruction, or a trap with ARITH where a flag is enabled.
-/
def Obligations.PacketRetirement : Prop :=
  ∀ (rounds : Bool) (d : VIdx) (lanes : List W32) (f : Flags) (s : State), 1 ≤ lanes.length → lanes.length ≤ 8 →
    (f &&& s.cell.k.te = 0 →
      let t := s.wrotePacket rounds d lanes f
      (t.cell.vreg d).packet = lanes ∧ (t.cell.vreg d).lanes.toList.drop lanes.length = (s.cell.vreg d).lanes.toList.drop lanes.length ∧
      (t.cell.vreg d).st = .full ∧ (∀ n, n ≠ d → t.cell.vreg n = s.cell.vreg n) ∧ t.cell.x = s.cell.x ∧ t.cell.p = s.cell.p ∧
      t.cell.k = { s.cell.k with fflags := s.cell.k.fflags ||| f } ∧
      t.cell.draw = (if rounds && s.cell.k.rm == 4 then s.cell.draw + 1 else s.cell.draw) ∧ t.cell.pc = s.cell.pc + 4 ∧
      t.cell.SameStores s.cell ∧ s.SameOutside t) ∧
    (f &&& s.cell.k.te ≠ 0 → s.cell.k.tven = true → s.cell.k.t = false →
      let t := s.wrotePacket rounds d lanes f
      (t.cell.vreg d).packet = lanes ∧ t.cell.k.fflags = s.cell.k.fflags ||| f ∧ t.cell.k.epc = s.cell.pc + 4 ∧ t.cell.pc = s.cell.k.vec ∧
        t.cell.k.t = true ∧ t.cell.k.cause = BitVec.ofNat 64 ((f &&& s.cell.k.te).toNat * 2 ^ 16 + 0x0D))

/-- R40-R42, R46, R47: a value delivered to a format. One that a float format holds exactly is delivered unchanged under every mode, with no flag. A
finite value lies between two neighbouring magnitudes of the format, its exponent unbounded above, and is rounded to one of them as its mode says; IX is
raised where it is none of them, and UF where the result is also a non-zero one below the least normal; past the largest finite code the result is that
of R42, with OF and IX. Zeros, infinities and NaNs, negative values in an unsigned P3109 format, and integer formats are delivered as R46's tables say. -/
def Obligations.RoundingToAFormat : Prop :=
  (∀ (f : FmtDesc) (mode : BitVec 3) (sat : Bool) (rnd c : Nat) (neg : Bool) (m : Nat) (e : Int), f.isFloat = true → mode.toNat ≤ 4 →
    rnd < 2 ^ 16 → c < 2 ^ width f → valueOf f c = .fin neg m e → roundTo f ⟨mode, sat⟩ rnd (.fin neg m e) = (c, 0)) ∧
  (∀ (f : FmtDesc) (c : Nat), f.isFloat = true → c ≤ (floatFmt f).cmax → ∃ m e, valueOf f c = .fin false m e ∧ rat false m e = (floatFmt f).magnitude c) ∧
  (∀ (f : FmtDesc) (mode : BitVec 3) (sat : Bool) (rnd : Nat) (neg : Bool) (m : Nat) (e : Int), f.isFloat = true → mode.toNat ≤ 4 → rnd < 2 ^ 16 →
    let ff := floatFmt f
    let x := rat false m e
    let sgn (c : Nat) : Nat := if neg && ff.signed then c + 2 ^ (width f - 1) else c
    let r := roundTo f ⟨mode, sat⟩ rnd (.fin neg m e)
    (m = 0 → r = (if ff.negZero then sgn 0 else 0, 0)) ∧
    (m ≠ 0 → ∃ (c : Nat) (away : Bool), ff.magnitude c ≤ x ∧ x < ff.magnitude (c + 1) ∧
      (away = true ↔ RoundsAway mode neg rnd (c % 2 = 1) (ff.magnitude c) (ff.magnitude (c + 1)) x) ∧
      let c' := if away then c + 1 else c
      let ix : Flags := if ff.magnitude c = x then 0 else flIX
      (neg = true → ff.signed = false → r = if c' = 0 then (0, ix) else (if sat then 0 else ff.nan.getD 0, flNV)) ∧
      (neg = false ∨ ff.signed = true → c' ≤ ff.cmax →
        r.1 = (if c' = 0 ∧ ff.negZero = false then 0 else sgn c') ∧ r.2 = ix ||| (if ff.magnitude c ≠ x ∧ c' ≠ 0 ∧ c' < 2 ^ ff.t then flUF else 0)) ∧
      (neg = false ∨ ff.signed = true → ff.cmax < c' → r.2 = flOF ||| flIX ∧
        (sat = true ∨ mode = 1 ∨ (mode = 2 ∧ neg = true) ∨ (mode = 3 ∧ neg = false) ∨ (mode = 4 ∧ away = false) → r.1 = sgn ff.cmax) ∧
        (sat = false → mode = 0 ∨ (mode = 2 ∧ neg = false) ∨ (mode = 3 ∧ neg = true) ∨ (mode = 4 ∧ away = true) →
          (∀ i, ff.inf = some i → r.1 = sgn i) ∧ (ff.inf = none → ∀ q, ff.nan = some q → r.1 = q) ∧ (ff.inf = none → ff.nan = none → r.1 = sgn ff.cmax))))) ∧
  (∀ (f : FmtDesc) (mode : BitVec 3) (sat sig : Bool) (rnd : Nat), f.isFloat = true →
    let ff := floatFmt f
    (∀ q, ff.nan = some q → roundTo f ⟨mode, sat⟩ rnd (.nan sig) = (q, if sig then flNV else 0)) ∧
    (ff.nan = none → roundTo f ⟨mode, sat⟩ rnd (.nan sig) = (0, flNV)) ∧
    ∀ neg : Bool, let sgn (c : Nat) : Nat := if neg && ff.signed then c + 2 ^ (width f - 1) else c
      let r := roundTo f ⟨mode, sat⟩ rnd (.inf neg)
      (neg = true → ff.signed = false → r = (if sat then 0 else ff.nan.getD 0, flNV)) ∧
      (neg = false ∨ ff.signed = true → (∀ i, ff.inf = some i → r = (sgn i, 0)) ∧
        (ff.inf = none → ff.nan = none → r = (sgn ff.cmax, if sat then 0 else flNV)) ∧
        ∀ q, ff.inf = none → ff.nan = some q → r = if sat then (sgn ff.cmax, 0) else (q, flNV))) ∧
  ∀ (f : FmtDesc) (mode : BitVec 3) (sat : Bool) (rnd : Nat), f.isInt = true → mode.toNat ≤ 4 →
    (∀ sig, roundTo f ⟨mode, sat⟩ rnd (.nan sig) = (0, flNV)) ∧
    (∀ neg, (roundTo f ⟨mode, sat⟩ rnd (.inf neg)).2 = flNV ∧ intOf f (roundTo f ⟨mode, sat⟩ rnd (.inf neg)).1 = if neg then intMin f else intMax f) ∧
    ∀ (neg : Bool) (m : Nat) (e : Int), ∃ (c : Nat) (away : Bool), (c : ℚ) ≤ rat false m e ∧ rat false m e < c + 1 ∧
      (away = true ↔ RoundsAway mode neg rnd (c % 2 = 1) c (c + 1) (rat false m e)) ∧
      let i : Int := if neg then -((if away then c + 1 else c : Nat) : Int) else (if away then c + 1 else c : Nat)
      let r := roundTo f ⟨mode, sat⟩ rnd (.fin neg m e)
      r.1 < 2 ^ width f ∧ intOf f r.1 = max (intMin f) (min (intMax f) i) ∧
        r.2 = if i < intMin f ∨ intMax f < i then flNV else if (c : ℚ) = rat false m e then 0 else flIX

/-! ### Channels, handlers and nodes (R115-R160) -/

/-- R117, R120, R150, R160: `recv`, `peek` and `ctl.wait` read the oldest packet of a channel: its lanes are on their way to a PENDING register, END
goes to the predicate, and `recv` and `ctl.wait` take the packet from a QUEUE channel. An empty channel parks, an absent or node-owned one faults, a
poisoned packet faults. What a CHANNEL_FORMAT record holds is log 20's. R151, what the elements of a widening receive become: each is its value times
the scale that is its own, exactly, converted to FP32 or INT32. R123, R153: `drop` removes the oldest packet of a QUEUE channel unread, and
its credit starts back; on an empty or a LATEST channel it does nothing. `clen` gives the count, the length and the header bits of the oldest packet.
-/
def Obligations.PacketsReceivedAndDropped : Prop :=
  (
    ∀ (d : VIdx) (x : XIdx) (ch : ChIdx) (p : PIdx) (s : State),
      let C := s.cell.chanAt ch
      (C.en = false ∨ 64 ≤ C.tgt.toNat → ∀ g : Option (BitVec 3), ∀ i ∈ [Instr.recv d ch g p, .peek d ch g p, .ctlWait x ch, .drop ch, .clen x ch],
        exec i s = .next (raise cCHANNEL_FORMAT (ch.setWidth 8) 0 s)) ∧
      (C.en = true → C.tgt.toNat < 64 →
        (C.pkts = [] → ∀ g : Option (BitVec 3), ∀ i ∈ [Instr.recv d ch g p, .peek d ch g p, .ctlWait x ch], exec i s = .next (park (.chanIn ch) s)) ∧
        ∀ (P : Packet) (r : List Packet), C.pkts = P :: r →
          (P.psn = true → ∀ g : Option (BitVec 3), ∀ i ∈ [Instr.recv d ch g p, .peek d ch g p, .ctlWait x ch], exec i s = .next (raise cUNCORRECTABLE 0 0 s)) ∧
          (P.psn = false → s.FreeV d →
            (∃ t a, exec (.recv d ch none p) s = .next t ∧ s.Issued t a ∧ a.op = .packet P.lanes ∧ a.dst = .v d ∧
              (p ≠ 0 → t.cell.pred p = P.ends) ∧ (t.cell.chanAt ch).pkts = (if C.latest then { P with read := true } :: r else r)) ∧
            (∃ t a, exec (.peek d ch none p) s = .next t ∧ s.Issued t a ∧ a.op = .packet P.lanes ∧ a.dst = .v d ∧
              (p ≠ 0 → t.cell.pred p = P.ends) ∧ (t.cell.chanAt ch).pkts = { P with read := true } :: r) ∧
            (∀ (g : BitVec 3) (l : List Nat), widen C s.cell P.lanes g.toNat = some (l, 0) →
              ∃ t a, exec (.recv d ch (some g) p) s = .next t ∧ s.Issued t a ∧ a.op = .packet (l.map (BitVec.ofNat 32)) ∧ a.dst = .v d ∧
                (t.cell.chanAt ch).pkts = (if C.latest then { P with read := true } :: r else r)) ∧
            (∀ g : BitVec 3, widen C s.cell P.lanes g.toNat = none → exec (.recv d ch (some g) p) s = .next (raise cCHANNEL_FORMAT (ch.setWidth 8) 0 s))) ∧
          (P.psn = false → s.FreeX x →
            (∀ u : W32, P.lanes = [u] → ∃ t a, exec (.ctlWait x ch) s = .next t ∧ s.Issued t a ∧ a.op = .value (u.setWidth 64) 0 ∧ a.dst = .x x ∧
              (t.cell.chanAt ch).pkts = (if C.latest then { P with read := true } :: r else r)) ∧
            (∀ u v : W32, P.lanes = [u, v] → ∃ t a, exec (.ctlWait x ch) s = .next t ∧ s.Issued t a ∧ a.op = .value (v ++ u) 0 ∧ a.dst = .x x ∧
              (t.cell.chanAt ch).pkts = (if C.latest then { P with read := true } :: r else r)) ∧
            (2 < P.lanes.length → exec (.ctlWait x ch) s = .next (raise cCHANNEL_FORMAT (ch.setWidth 8) 0 s))))) ∧
  (
    ∀ (C : Channel) (c : Cell) (lanes : List W32) (g : Nat), (C.ssrc = true → C.blk = 1 ∨ C.blk = 2) →
      let F := C.fmt
      let data := if C.ssrc then lanes.dropLast else lanes
      let per := 32 / width F
      let n := min 8 (per * data.length - 8 * g)
      let elem (i : Nat) : Nat := bits (data.getD (i / per) 0).toNat (i % per * width F) (width F)
      let byte (i : Nat) : Nat := i / (if C.blk = 1 then 16 else 32)
      let scale (i : Nat) : Nat := if C.ssrc then bits (lanes.getLastD 0).toNat (8 * byte i) 8 else (c.k.scale[C.scale.toNat]'C.scale.isLt).toNat
      (per * data.length ≤ 8 * g → widen C c lanes g = none) ∧
      (C.ssrc = true → (∃ j < n, 3 < byte (8 * g + j)) → widen C c lanes g = none) ∧
      (8 * g < per * data.length → (C.ssrc = true → ∀ j < n, byte (8 * g + j) ≤ 3) → ∃ q : List (Nat × Flags),
        widen C c lanes g = some (q.map Prod.fst, orFlags (q.map Prod.snd)) ∧ q.length = n ∧
        ∀ j < n,
          (∀ neg m e, valueOf F (elem (8 * g + j)) = .fin neg m e → scale (8 * g + j) ≠ 0xFF →
            ∃ m' e', rat neg m' e' = rat neg m e * 2 ^ ((scale (8 * g + j) : Int) - 127) ∧
              q[j]? = some (roundTo (if F.isInt then fINT32 else fFP32) (if C.rm = 7 then ⟨c.k.rm, c.k.sat⟩ else ⟨C.rm, C.sat⟩)
                (drawBits c.k.dkey c.draw j 0) (.fin neg m' e'))) ∧
          (∀ sig, valueOf F (elem (8 * g + j)) = .nan sig → q[j]? = some (0x7FC0_0000, if sig then flNV else 0)) ∧
          (∀ neg, valueOf F (elem (8 * g + j)) = .inf neg → scale (8 * g + j) ≠ 0xFF → q[j]? = some (if neg then 0xFF80_0000 else 0x7F80_0000, 0)) ∧
          ((∀ sig, valueOf F (elem (8 * g + j)) ≠ .nan sig) → scale (8 * g + j) = 0xFF →
            q[j]? = some (if F.isInt then (0, flNV) else (0x7FC0_0000, 0))))) ∧
  (
    ∀ (d : XIdx) (ch : ChIdx) (s : State),
      let C := s.cell.chanAt ch
      C.en = true → C.tgt.toNat < 64 →
        (C.latest = true ∨ C.pkts = [] → exec (.drop ch) s = .next (advance 4 s)) ∧
        (∀ P r, C.latest = false → C.pkts = P :: r → ∃ t, exec (.drop ch) s = .next t ∧ t.cell.pc = s.cell.pc + 4 ∧ (t.cell.chanAt ch).pkts = r ∧
          t.cell.x = s.cell.x ∧ t.cell.v = s.cell.v ∧
          ∀ c q n, P.src = some (c, q, n) → P.conv = none → s.pkg.joins = [] → t.pkg.creditWire = s.pkg.creditWire ++ [(c, q)]) ∧
        (s.FreeX d → C.pkts = [] → exec (.clen d ch) s = .next (s.wroteX d 0)) ∧
        (∀ P r, s.FreeX d → C.pkts = P :: r → C.pkts.length ≤ 8 → P.lanes.length ≤ 8 →
          exec (.clen d ch) s = .next (s.wroteX d (BitVec.ofNat 64
            ((if P.psn then 2 ^ 9 else 0) + (if P.ends then 2 ^ 8 else 0) + 2 ^ 4 * P.lanes.length + C.pkts.length)))))

/-- R154, R160: `send`, `sendx`, `ctl.done` and `ctl.permit` place a packet at the back of an out-queue; a full queue holds them, and an absent one
faults, with the record of log 20. -/
def Obligations.PacketsSent : Prop :=
  ∀ (q : BitVec 3) (va : VIdx) (a b : XIdx) (A B : Word) (V : VReg) (psn inv w : Bool) (p : PIdx) (s : State),
    s.HasX a A → s.HasX b B → s.HasV va V →
    let ends := s.cell.pred p != inv
    ∀ e ∈ [(Instr.send q va psn inv p, V.packet, ends, psn),
        (.sendx q a psn inv p w, if w then [A.setWidth 32] else [A.setWidth 32, A.extractLsb' 32 32], ends, psn),
        (.ctlDone q a, [A.setWidth 32], true, false), (.ctlPermit q a b, [A.setWidth 32, B.setWidth 32], true, false)],
      ((s.cell.queue q).en = false → exec e.1 s = .next (raise cCHANNEL_FORMAT (q.setWidth 8) 0 s)) ∧
      ((s.cell.queue q).en = true → 2 ≤ (s.cell.queue q).pkts.length → exec e.1 s = .next (hold (.expiring (.chanOut q)) s)) ∧
      ((s.cell.queue q).en = true → (s.cell.queue q).pkts.length < 2 →
        ∃ t P, exec e.1 s = .next t ∧ (t.cell.queue q).pkts = (s.cell.queue q).pkts ++ [P] ∧ P.lanes = e.2.1 ∧ P.ends = e.2.2.1 ∧ P.psn = e.2.2.2 ∧
          t.cell.pc = s.cell.pc + 4 ∧ t.cell.x = s.cell.x ∧ t.cell.v = s.cell.v ∧ t.cell.chan = s.cell.chan ∧
          (∀ k, k ≠ q → t.cell.queue k = s.cell.queue k) ∧ t.pkg = s.pkg)

/-- R20, R157-R159: the handler instructions. The channel that `KHND` names afterwards is log 63's choice, and the record of an absent channel log
20's. -/
def Obligations.HandlerInstructions : Prop :=
  ∀ (a b d : XIdx) (A B : Word) (s : State), s.HasX a A → s.HasX b B →
    let h : BitVec 6 := A.setWidth 6
    let ch : ChIdx := A.setWidth 5
    let g : BitVec 6 := B.setWidth 6
    (s.cell.k.t = true → exec .hndEnd s = .next (raise cILLEGAL 0 0 s)) ∧
    (∀ r, s.cell.k.t = false → s.cell.cur = some r → ∃ t, exec .hndEnd s = .next t ∧ t.cell.cur = none ∧
      (t.cell.handler r).st = (if (s.cell.waitingChannel r).isSome then .runnable else .idle) ∧ (t.cell.handler r).pc = (s.cell.handler r).entry ∧
      t.cell.x = s.cell.x ∧ t.cell.v = s.cell.v ∧ t.cell.p = s.cell.p ∧ t.cell.store = s.cell.store ∧ t.pkg = s.pkg) ∧
    (∀ r, s.cell.cur = some r → s.FreeX d → exec (.hndSelf d) s = .next (s.wroteX d (r.setWidth 64))) ∧
    ((s.cell.handler h).v = false → ∀ i ∈ [Instr.hndMask a, .hndUnmask a, .hndPrio a b], exec i s = .next (raise cCHANNEL_FORMAT 0 0 s)) ∧
    ((s.cell.handler h).v = true →
      (∃ t, exec (.hndMask a) s = .next t ∧ t.cell.pc = s.cell.pc + 4 ∧ t.cell.handler h = { s.cell.handler h with mask := true } ∧
        ∀ k, k ≠ h → t.cell.handler k = s.cell.handler k) ∧
      (∃ t, exec (.hndUnmask a) s = .next t ∧ t.cell.pc = s.cell.pc + 4 ∧ t.cell.handler h = { s.cell.handler h with mask := false } ∧
        ∀ k, k ≠ h → t.cell.handler k = s.cell.handler k) ∧
      ∃ t, exec (.hndPrio a b) s = .next t ∧ t.cell.pc = s.cell.pc + 4 ∧ t.cell.handler h = { s.cell.handler h with prio := B.setWidth 4 } ∧
        ∀ k, k ≠ h → t.cell.handler k = s.cell.handler k) ∧
    ((s.cell.chanAt ch).en = true → (s.cell.chanAt ch).tgt.toNat < 64 → (s.cell.handler g).v = true →
      ∃ t, exec (.hndBind a b) s = .next t ∧ t.cell.pc = s.cell.pc + 4 ∧ (t.cell.chanAt ch).tgt = g.setWidth 7 ∧ (t.cell.chanAt ch).pkts = (s.cell.chanAt ch).pkts ∧
        ((t.cell.handler g).st = if (s.cell.handler g).st = .idle ∧ (s.cell.chanAt ch).fire = true ∧ (s.cell.chanAt ch).waiting = true then .runnable
          else (s.cell.handler g).st) ∧
        ∀ k, k ≠ g → t.cell.handler k = s.cell.handler k) ∧
    ((s.cell.chanAt ch).en = false ∨ 64 ≤ (s.cell.chanAt ch).tgt.toNat ∨ (s.cell.handler g).v = false →
      exec (.hndBind a b) s = .next (raise cCHANNEL_FORMAT (ch.setWidth 8) 0 s))

/-- R117, R120, R123, R124: a packet leaves its out-queue toward every end of its circuit and spends a credit; it enters the channel at an end, where
it takes a place, merges or replaces; and a credit that returns is counted. R140-R143: what a node does with a token it expects. A controller takes a
permit or a done and sends the permits that are then due, by its kind and as far as its out-queues have room, and the done of a complete run; an
arbiter forwards a request or grants the lock, to the first arc that asks after the one last granted, and passes on a reply; a generator sends four
random lanes. That a node's tokens carry END 1, what an early permit or a late done does, and that a stray token waits, are the choices of logs
29 and 71. -/
def Obligations.PacketsTravelAndNodesServe : Prop :=
  (
    (∀ (c : CellId) (q : BitVec 3) (slot : BitVec 8) (P : Packet) (r : List Packet) (s : State), ((s.cellAt c).queue q).pkts = P :: r →
      (s.cellAt c).departs q slot.toNat = true → s.moving (s.cellAt c) = true → s.sent (s.cellAt c) = false →
      ∃ t, exec (.packetDeparture c q slot) s = .next t ∧ ((t.cellAt c).queue q).pkts = r ∧
        ((t.cellAt c).queue q).sent = ((s.cellAt c).queue q).sent + 1 ∧
        ((t.cellAt c).queue q).credits = (if ((s.cellAt c).queue q).toQueue then ((s.cellAt c).queue q).credits - 1 else ((s.cellAt c).queue q).credits) ∧
        ∃ fs : List Flight, t.pkg.wire = s.pkg.wire ++ fs ∧ fs.map Flight.dst = s.circuitEnds c slot.toNat ∧
          ∀ f ∈ fs, f.src = c ∧ f.q = q ∧ f.ch = ((s.cellAt c).queue q).dch ∧ f.pkt.lanes = P.lanes ∧ f.pkt.ends = P.ends ∧ f.pkt.psn = P.psn) ∧
    (∀ (k : Arrival) (f : Flight) (s : State), s.pkg.wire[k.index]? = some f → s.pkg.firstOnWire k.index f = true → s.moving (s.cellAt f.dst) = true →
      ∃ t, exec (.tokenArrival k) s = .next t ∧ t.pkg.wire = delNth k.index s.pkg.wire ∧
        t.cellAt f.dst = (s.cellAt f.dst).enter true f.ch { f.pkt with psn := f.pkt.psn || k.damaged }) ∧
    (∀ (ch : ChIdx) (P : Packet) (c : Cell),
      let C := c.chanAt ch
      let D := (c.enter true ch P).chanAt ch
      (C.latest = true → D.pkts.map Packet.lanes = [P.lanes] ∧ D.pkts.all (fun p => !p.read) = true) ∧
      (C.latest = false → C.mergesWith P = none → D.pkts.map Packet.lanes = C.pkts.map Packet.lanes ++ [P.lanes]) ∧
      (∀ h, C.latest = false → C.mergesWith P = some h → D.pkts.map Packet.lanes = C.pkts.dropLast.map Packet.lanes ++ [h.lanes ++ P.lanes] ∧
        D.pkts.getLast?.map (fun p => (p.ends, p.psn)) = some (P.ends, h.psn || P.psn)) ∧
      (∀ h, C.mergesWith P = some h ↔ C.pkts.getLast? = some h ∧ C.merge = true ∧ C.latest = false ∧ h.read = false ∧ h.ends = false ∧
        h.lanes.length + P.lanes.length ≤ 8) ∧
      (∀ h : BitVec 6, C.fire = true → C.tgt = h.setWidth 7 → (c.handler h).st = .idle →
        ((c.enter true ch P).handler h).st = .runnable ∧ ((c.enter true ch P).handler h).chan = ch)) ∧
    ∀ (k : Nat) (c : CellId) (q : BitVec 3) (s : State), s.pkg.creditWire[k]? = some (c, q) →
      ∃ t, exec (.creditReturn k) s = .next t ∧ t.pkg.creditWire = delNth k s.pkg.creditWire ∧
        ((t.cellAt c).queue q).credits = ((s.cellAt c).queue q).credits + 1 ∧ ((t.cellAt c).queue q).pkts = ((s.cellAt c).queue q).pkts) ∧
  (
    ∀ (c : CellId) (n : BitVec 2) (s : State), s.moving (s.cellAt c) = true → (s.cellAt c).stopped = false →
      let x := s.cellAt c
      (∀ (ch : ChIdx) w0 w1 run ov j m sent returned late P y, x.nodeAt n = .controller w0 w1 run ov j m sent returned late →
        x.nodeToken n ch = some P → ctlTake w0 w1 run ov j m sent returned late ch P = .node y →
        exec (.controllerNodeToken c n ch) s =
          .next ((s.within c fun s => takePacket ch (s.onCell (Cell.putNode n y))).atCell c fun x => ctlFinish n (ctlSend n 16 x))) ∧
      (∀ (ch : ChIdx) w0 w1 run ov j m sent returned late P, x.nodeAt n = .controller w0 w1 run ov j m sent returned late →
        x.nodeToken n ch = some P → ctlTake w0 w1 run ov j m sent returned late ch P = .wrong →
        exec (.controllerNodeToken c n ch) s = .next (s.atCell c (Cell.nodeFault n ch.toNat))) ∧
      (∀ w0 w1 ov j m sent returned late (a b : W32) P, P.lanes = [a, b] → ctlRoot w0 = false →
        ctlTake w0 w1 false ov j m sent returned late (ctlParent w1) P =
          .node (.controller w0 w1 true ov a (if ctlCount w0 = 0 then b.toNat else ctlCount w0) [0, 0, 0, 0] [0, 0, 0, 0] late)) ∧
      (∀ w0 w1 last fifo a P, x.nodeAt n = .arbiter w0 w1 last fifo → arbStray n w0 w1 x = none → fifo.length < arbLimit w1 →
        arbNext n w0 w1 last x = some a → x.nodeToken n (arbChannel w0 a) = some P →
        x.queueRoom (if arbLock w1 then arbQueue w0 a else arbForward w1) = true →
        exec (.arbiterNodeToken c n false) s =
          .next ((s.within c fun s => takePacket (arbChannel w0 a) (s.onCell (Cell.putNode n (.arbiter w0 w1 a (fifo ++ [a]))))).atCell c
            (Cell.enqueue (if arbLock w1 then arbQueue w0 a else arbForward w1)
              (if arbLock w1 then packetOf [BitVec.ofNat 32 a] true false else packetOf P.lanes P.ends P.psn)))) ∧
      (∀ w0 w1 last a r P, x.nodeAt n = .arbiter w0 w1 last (a :: r) → x.nodeToken n (arbReplies w1) = some P → arbLock w1 = false →
        x.queueRoom (arbQueue w0 a) = true →
        exec (.arbiterNodeToken c n true) s =
          .next ((s.within c fun s => takePacket (arbReplies w1) (s.onCell (Cell.putNode n (.arbiter w0 w1 last r)))).atCell c
            (Cell.enqueue (arbQueue w0 a) (packetOf P.lanes P.ends P.psn)))) ∧
      (∀ w0 w1 last a r P, x.nodeAt n = .arbiter w0 w1 last (a :: r) → x.nodeToken n (arbReplies w1) = some P → arbLock w1 = true →
        exec (.arbiterNodeToken c n true) s =
          .next (s.within c fun s => takePacket (arbReplies w1) (s.onCell (Cell.putNode n (.arbiter w0 w1 last r))))) ∧
      ∀ key (w1 : Word) (i : W32) P, x.nodeAt n = .generator key w1 → x.nodeToken n (w1.extractLsb' 3 5) = some P → P.lanes = [i] →
        x.queueRoom (w1.setWidth 3) = true →
        exec (.generatorNodeToken c n (w1.extractLsb' 3 5)) s =
          .next ((s.within c (takePacket (w1.extractLsb' 3 5))).atCell c (Cell.enqueue (w1.setWidth 3)
            (packetOf [(philox key i 0 0 0).1, (philox key i 0 0 0).2.1, (philox key i 0 0 0).2.2.1, (philox key i 0 0 0).2.2.2] P.ends P.psn)))) ∧
  (
    ∀ (w0 w1 : Word) (m : Nat) (sent returned late : List Nat),
      let kind := (w0.extractLsb' 38 2).toNat
      let last := (w0.extractLsb' 36 2).toNat
      let back (k : Nat) : Nat := returned.getD k 0
      (∀ c, let i := sent.getD c 0
        (kind = 0 → (ctlMaySend w0 m sent returned c = true ↔ i < m ∧ if c = 0 then i = 0 ∨ i ≤ back last else i < back (c - 1))) ∧
        (kind = 1 → (ctlMaySend w0 m sent returned c = true ↔ i < m ∧ (i = 0 ∨ i ≤ back c) ∧ (c = 0 ∨ i < back (c - 1)))) ∧
        (kind = 2 → (ctlMaySend w0 m sent returned c = true ↔ i = 0 ∧ m ≠ 0))) ∧
      (ctlComplete w0 m sent returned = true ↔
        let N := if kind < 2 then m else if m = 0 then 0 else 1
        back last = N ∧ ∀ c ≤ last, sent.getD c 0 = N) ∧
      (∀ (n : BitVec 2) (x : Cell) (ov : Bool) (j : W32), x.nodeAt n = .controller w0 w1 true ov j m sent returned late →
        (∀ c fuel, (List.range (last + 1)).find? (fun c => ctlMaySend w0 m sent returned c && x.queueRoom (w1.extractLsb' (8 * c) 3)) = some c →
          ctlSend n (fuel + 1) x = ctlSend n fuel
            ((x.enqueue (w1.extractLsb' (8 * c) 3) (packetOf (if kind = 2 then [0, BitVec.ofNat 32 m] else [BitVec.ofNat 32 (sent.getD c 0), 1]) true false)).putNode n
              (.controller w0 w1 true ov j m (modNth (· + 1) c sent) returned late))) ∧
        (∀ sent', (ctlSend n 16 x).nodeAt n = .controller w0 w1 true ov j m sent' returned late →
          ∀ c ≤ last, ctlMaySend w0 m sent' returned c = true → (ctlSend n 16 x).queueRoom (w1.extractLsb' (8 * c) 3) = false) ∧
        (ctlComplete w0 m sent returned = false → ctlFinish n x = x) ∧
        (ctlComplete w0 m sent returned = true →
          (ctlRoot w0 = true → ∃ late', ctlFinish n x = x.putNode n (.controller w0 w1 false true j m [0, 0, 0, 0] [0, 0, 0, 0] late')) ∧
          (ctlRoot w0 = false → x.queueRoom (w1.extractLsb' 40 3) = true → ∃ late', ctlFinish n x =
            (x.enqueue (w1.extractLsb' 40 3) (packetOf [j] true false)).putNode n (.controller w0 w1 false ov j m [0, 0, 0, 0] [0, 0, 0, 0] late')))) ∧
      ∀ (n : BitVec 2) (x : Cell) (prev a : Nat), arbNext n w0 w1 prev x = some a ↔
        let arcs := (w1.extractLsb' 12 3).toNat + 1
        ∃ i < arcs, a = (prev + 1 + i) % arcs ∧ (x.nodeToken n (w0.extractLsb' (8 * a + 3) 5)).isSome = true ∧
          ∀ k < i, x.nodeToken n (w0.extractLsb' (8 * ((prev + 1 + k) % arcs) + 3) 5) = none)

/-- R144, R145: a free core selects, among the RUNNABLE handlers that are not masked, one of the highest effective priority, the first of them past
the level's pointer; its age goes to 0, it runs at its kept PC, and every other candidate is passed over. A handler passed over 4096 times ages by
one. -/
def Obligations.HandlerSelected : Prop :=
  (∀ (c : CellId) (s : State), (s.cellAt c).cur = none → (s.cellAt c).stopped = false → s.active (s.cellAt c) = true →
    let y : Cell := { s.cellAt c with hnd := (s.cellAt c).hnd.map Handler.aged }
    y.candidates ≠ [] →
      ∃ t h, exec (.handlerSelection c) s = .next t ∧ (t.cellAt c).cur = some h ∧ h ∈ y.candidates ∧
        (∀ g ∈ y.candidates, y.effPrio g ≤ y.effPrio h) ∧
        (∀ i < 64, (∀ j ≤ i, BitVec.ofNat 6 ((y.ptr.toList.getD (y.effPrio h) 63).toNat + 1 + j) ≠ h) →
          BitVec.ofNat 6 ((y.ptr.toList.getD (y.effPrio h) 63).toNat + 1 + i) ∈ y.candidates →
          y.effPrio (BitVec.ofNat 6 ((y.ptr.toList.getD (y.effPrio h) 63).toNat + 1 + i)) < y.effPrio h) ∧
        (t.cellAt c).pc = (y.handler h).pc ∧ ((t.cellAt c).handler h).st = .running ∧ ((t.cellAt c).handler h).age = 0 ∧
        (t.cellAt c).k.prio = BitVec.ofNat 4 (y.effPrio h) ∧
        (∀ g ∈ y.candidates, g ≠ h → ((t.cellAt c).handler g).pass = (y.handler g).pass + 1) ∧ (t.cellAt c).x = (s.cellAt c).x) ∧
  ∀ (c : CellId) (h : BitVec 6) (s : State), 4096 ≤ ((s.cellAt c).handler h).pass →
    ∃ t, exec (.ageAdvance c h) s = .next t ∧ ((t.cellAt c).handler h).age = ((s.cellAt c).handler h).age + 1 ∧ ((t.cellAt c).handler h).pass = 0 ∧
      ∀ g, g ≠ h → (t.cellAt c).handler g = (s.cellAt c).handler g

/-! ### Configuration and engines (R62-R66, R121, R134, R161-R165, R269-R308) -/

/-- R161, R121: `arg.set` gives a constant channel of a cell of its board the packet it will hold, which then arrives; R162, R164: `cfg.load` and
`cfg.drain` hand the loader a request at runtime level, with the destination PENDING until the status lands. R134, R162-R164: what the loader of a die
does with the request of an instruction when it has none in progress, and each refusal with its status, in the order of log 72; a board that takes
the drain configuration keeps the request waiting (log 72); a graceful load answers at once, or one of the issuer's own board when the issuing
activation has ended (log 72), and waits for its board to be quiescent; at the switch-over the new load first fires and the board runs. A load that
ends is classified (R322, log 13). `arg.set` names its target in INFO and a denied channel in DETAIL (log 19). -/
def Obligations.ConfigurationAndLoader : Prop :=
  (
    (∀ (a : XIdx) (b : VIdx) (A : Word) (r : VReg) (brd : Board) (s : State), s.HasX a A → s.HasV b r → s.boardOf s.cell = some brd →
      let c := brd.cellAt (A.extractLsb' 16 6).toNat (A.extractLsb' 8 6).toNat
      let ch : ChIdx := A.setWidth 5
      let named : Prop := A.extractLsb' 22 42 = 0 ∧ A.extractLsb' 14 2 = 0 ∧ A.extractLsb' 5 3 = 0 ∧ (A.extractLsb' 16 6).toNat < 8 * brd.h ∧
        (A.extractLsb' 8 6).toNat < 8 * brd.w
      (named → ((s.cellAt c).chanAt ch).const = true →
        ∃ t, exec (.argSet a b) s = .next t ∧ ((t.cellAt c).chanAt ch).nextConst = some r.packet ∧ t.cell.pc = s.cell.pc + 4 ∧ t.cell.x = s.cell.x ∧
          t.cell.v = s.cell.v ∧ t.pkg = s.pkg) ∧
      (named → ((s.cellAt c).chanAt ch).const = false → exec (.argSet a b) s = .next (raise cCHANNEL_FORMAT (ch.setWidth 8) 0 s)) ∧
      (¬ named → exec (.argSet a b) s = .next (raise cACCESS 0 (A.setWidth 32) s))) ∧
    (∀ (c : CellId) (ch : ChIdx) (lanes : List W32) (s : State), ((s.cellAt c).chanAt ch).nextConst = some lanes → (s.cellAt c).stopped = false →
      ∃ t, exec (.constantInstall c ch) s = .next t ∧ ((t.cellAt c).chanAt ch).nextConst = none ∧ t.pkg = s.pkg ∧
        (((s.cellAt c).chanAt ch).latest = true → ((t.cellAt c).chanAt ch).pkts.map Packet.lanes = [lanes] ∧ ((t.cellAt c).chanAt ch).pkts.map Packet.read = [false]) ∧
        ∀ h : BitVec 6, ((s.cellAt c).chanAt ch).fire = true → ((s.cellAt c).chanAt ch).tgt = h.setWidth 7 → ((s.cellAt c).handler h).st = .idle →
          ((t.cellAt c).handler h).st = .runnable) ∧
    ∀ (d a b : XIdx) (A B : Word) (s : State), s.HasX a A → s.HasX b B → s.FreeX d →
      (s.cell.k.lvl = true →
        (∃ t acc, exec (.cfgLoad d a b) s = .next t ∧ s.Issued t acc ∧ acc.op = .await ∧ acc.dst = .x d ∧
          t.pkg.loads = s.pkg.loads ++ [⟨some (s.here, acc.id), s.cell.k.ctx, A, B, s.cell.windows, false, .asked, [], 0⟩]) ∧
        ∃ t acc, exec (.cfgDrain d b) s = .next t ∧ s.Issued t acc ∧ acc.op = .await ∧ acc.dst = .x d ∧
          t.pkg.loads = s.pkg.loads ++ [⟨some (s.here, acc.id), s.cell.k.ctx, 0, B, s.cell.windows, true, .asked, [], 0⟩]) ∧
      (s.cell.k.lvl = false → exec (.cfgLoad d a b) s = .next (raise cPRIVILEGED 0 0 s) ∧ exec (.cfgDrain d b) s = .next (raise cPRIVILEGED 0 0 s))) ∧
  (
    (∀ (k : Nat) (q : LoadReq) (c : CellId) (id : Nat) (s : State), s.pkg.loads[k]? = some q → q.phase = .asked → q.issuer = some (c, id) →
      let gone : State := { s with pkg := { s.pkg with loads := delNth k s.pkg.loads } }
      (s.pkg.loaderBusy q.die = true ∨ s.pkg.stalledAt q.ctx (.load q.board q.issuer) = true → exec (.loadAcceptance k) s = .next s) ∧
      (s.pkg.loaderBusy q.die = false → s.pkg.stalledAt q.ctx (.load q.board q.issuer) = false →
        (q.drain = false → q.addr.toNat % 8 ≠ 0 → exec (.loadAcceptance k) s = .next (landValue c id (cMISALIGNED.setWidth 64) 0 gone)) ∧
        (q.drain = true ∨ q.addr.toNat % 8 = 0 →
          (describedBoard q.ctx q.desc s.pkg = none → exec (.loadAcceptance k) s = .next (landValue c id (cACCESS.setWidth 64) 0 gone)) ∧
          ∀ b, describedBoard q.ctx q.desc s.pkg = some b →
            (b.phase = .draining → exec (.loadAcceptance k) s = .next s) ∧
            (b.phase ≠ .draining → descOk q.drain q.desc = false →
              exec (.loadAcceptance k) s = .next (landValue c id (cCONFIG_CHECK.setWidth 64) 0 gone)) ∧
            (b.phase ≠ .draining → descOk q.drain q.desc = true →
              (q.drain = true → exec (.loadAcceptance k) s = .next ((beginDrain b .draining s).onPkg fun p =>
                dropLoads b.id { p.onBoard b.id (fun x => { x with drainFor := some (c, id) }) with loads := delNth k p.loads })) ∧
              ∀ l p, q.drain = false → readVirtual q.ctx q.addr.toNat (8 * (q.desc.extractLsb' 24 24).toNat) s.pkg = (.ok (l, false), p) →
                let words := wordsOfBytes (q.desc.extractLsb' 24 24).toNat l
                (checkImage (8 * b.h) (8 * b.w) words = none →
                  exec (.loadAcceptance k) s = .next (landValue c id (cCONFIG_CHECK.setWidth 64) 0 { s with pkg := { p with loads := delNth k p.loads } })) ∧
                ∀ gs, checkImage (8 * b.h) (8 * b.w) words = some gs →
                  let on (ph : LoadPhase) : State :=
                    { s with pkg := { p with loads := modNth (fun q => { q with phase := ph, groups := gs, board := b.id }) k p.loads } }
                  (q.desc.getLsbD 16 = true → b.holds c = false → exec (.loadAcceptance k) s = .next (landValue c id 0 0 (on .graceful))) ∧
                  (q.desc.getLsbD 16 = true → b.holds c = true → exec (.loadAcceptance k) s = .next (on .graceful)) ∧
                  (q.desc.getLsbD 16 = false → exec (.loadAcceptance k) s = .next (landValue c id 0 0 (beginDrain b .empty (on .words)))))))) ∧
    (∀ (id : Nat) (v : Word) (d : XIdx) (a : Access) (s : State), s.cell.inflight.find? (·.id == id) = some a → a.dst = .x d → d ≠ 0 →
      (landValue s.here id v 0 s).cell.xreg d = ⟨v, .full⟩) ∧
    (∀ (k : Nat) (q : LoadReq) (b : Board) (s : State), s.pkg.loads[k]? = some q → q.phase = .graceful → s.pkg.board q.board = some b →
      (∀ c id a, q.issuer = some (c, id) → (s.cellAt c).inflight.find? (fun a => a.id == id) = some a → a.live = false →
        exec (.boardQuiescent k) s = .next (landValue c id 0 0 s)) ∧
      (q.owed s ≠ some true → s.quiescent b = false → exec (.boardQuiescent k) s = .next s) ∧
      (q.owed s ≠ some true → s.quiescent b = true → exec (.boardQuiescent k) s = .next ((beginDrain b .empty s).onPkg fun p =>
        { p with loads := modNth (fun q => { q with phase := .words }) k p.loads }))) ∧
    ∀ (k : Nat) (q : LoadReq) (b : Board) (s : State), s.pkg.loads[k]? = some q → q.phase = .words → q.issuer.isSome = true → s.pkg.board q.board = some b →
      s.pkg.memberOf b = none →
      exec (.switchOver k) s = .next ((fireBoard ⟨b, q.desc.getLsbD 17, q.ctx, q.windows⟩ q.groups { s with pkg := { s.pkg with loads := delNth k s.pkg.loads } }).onPkg
        (Package.onBoard b.id fun x =>
          { x with phase := .running, generation := x.generation + 1, watchdog := 0, products := 0, cls := none, ahead := none, lvl := q.desc.getLsbD 17 })))

/-- R62, R63, R65, R230: an engine command whose slot and unit have room is accepted: it joins its engine's queue with its substituted words and its
report, its slot counts it, and the PC moves past its four words; nothing of its effect has happened yet. One whose slot is full waits, and one whose
unit is full waits for the queue. R285: a command of a body goes into its section's buffer of 8, and waits while that is full (how is log 34's choice).
That the graph sequencer takes any number of commands, and which unit serves a walk or sketch command, is log 32's,
DEDUCED. -/
def Obligations.EngineCommandsAccepted : Prop :=
  ∀ (h : CmdHead) (w1 w2 w3 a b c : W32) (s : State), CommandWords h w1 w2 w3 a b c s → s.cell.acquiring = false →
    let cmds : List (Engine × Nat × Instr) :=
      [(.mx, 0, .mxLd h w1 w2 w3), (.mx, 1, .mxSt h w1 w2 w3), (.mx, 2, .mxMma h w1 w2 w3), (.mx, 3, .mxMv h w1 w2 w3), (.mx, 4, .mxZero h w1 w2 w3),
       (.mx, 5, .mxDrain h w1 w2 w3), (.mx, 6, .mxSmax h w1 w2 w3), (.mx, 7, .mxAccld h w1 w2 w3), (.mx, 8, .mxAccst h w1 w2 w3), (.mx, 9, .mxLoop h w1 w2 w3),
       (.cp, 0, .cpNd h w1 w2 w3), (.cp, 1, .cpGather h w1 w2 w3), (.cp, 2, .cpFill h w1 w2 w3), (.kv, 0, .kvWalk h w1 w2 w3), (.kv, 1, .kvLdk h w1 w2 w3),
       (.kv, 2, .kvLdv h w1 w2 w3), (.kv, 3, .kvPagein h w1 w2 w3), (.kv, 4, .kvFree h w1 w2 w3), (.sk, 0, .skScore h w1 w2 w3), (.ch, 0, .chRun h w1 w2 w3),
       (.gs, 0, .gsArm h w1 w2 w3), (.gs, 1, .gsWait h w1 w2 w3)]
    (∀ verb i sec n, (.mx, verb, i) ∈ cmds → s.cell.collecting = some (sec, n) →
      let body := (s.cell.sectionAt sec.toNat).body
      let x := s.cell.command verb h a b c 0
      (8 ≤ body.length → exec i s = .next (hold (.expiring (.queue .mx)) s)) ∧
      (body.length < 8 → verb ≠ 9 → h.done = 0 → h.sb = 0 → mxOk x = true → ∃ t, exec i s = .next t ∧ t.cell.pc = s.cell.pc + 16 ∧ t.cell.mx = s.cell.mx ∧
        (t.cell.sectionAt sec.toNat).body = body ++ [x] ∧ t.cell.collecting = if n ≤ 1 then none else some (sec, n - 1))) ∧
    ∀ e verb i, (e, verb, i) ∈ cmds → (e = .mx → s.cell.collecting = none) →
      let lane := unitOf e (b ++ a) s
      ((h.sb ≠ 0 → s.cell.slot h.sb < 63) → (∀ n, engineLimit e = some n → (s.cell.engine e).load lane < n) →
        ∃ t x, exec i s = .next t ∧ (t.cell.engine e).q = (s.cell.engine e).q ++ [x] ∧ x.verb = verb ∧ x.w1 = a ∧ x.w2 = b ∧ x.w3 = c ∧ x.done = h.done ∧
          x.chan = h.chan ∧ x.sb = h.sb ∧ x.lane = lane ∧ x.unit = 0 ∧ x.begun = false ∧ x.pc = s.cell.pc ∧ x.rm = s.cell.k.rm ∧ x.sat = s.cell.k.sat ∧
          x.scales = s.cell.k.scale ∧ t.cell.pc = s.cell.pc + 16 ∧ (h.sb ≠ 0 → t.cell.slot h.sb = s.cell.slot h.sb + 1) ∧ t.cell.x = s.cell.x ∧
          t.cell.store = s.cell.store ∧ t.cell.acc = s.cell.acc ∧ t.cell.tiles = s.cell.tiles ∧ t.pkg = s.pkg) ∧
      (h.sb ≠ 0 → 63 ≤ s.cell.slot h.sb → exec i s = .next (hold .staying s)) ∧
      ((h.sb ≠ 0 → s.cell.slot h.sb < 63) → ∀ n, engineLimit e = some n → n ≤ (s.cell.engine e).load lane →
        exec i s = .next (hold (.expiring (.queue e)) s))

/-- R64, R66: one unit of the work of the command at the head of an engine that moves, and what its outcome does: the command goes on, completes and
reports by its mode, waits, or faults. R274-R286: what each matrix command does to tiles, accumulators and memory, with the sums of R48-R52; R292,
R293: the elements that a copy moves; R296-R305: what the walker's commands do; R306: the score of a page and the bits of OUT; R194, R195: what
`ch.run` makes of its elements; R285, R286: the sections. An access that waits or fails stops its unit. The model's own in it: powers and logarithms
(log 10), one unit of work for each ENGINE_COMPLETION (log 16), the INFO of engine faults (log 33), the promotions and `KMXROW` of the matrix engine
(log 34), the units of the copies (log 36) and of the walker (log 38), and the auxiliary operand and signed zeros of a chain (log 70). -/
def Obligations.EngineUnits : Prop :=
  (∀ (e : Engine) (x : Cmd) (r : List Cmd) (s : State), (s.cell.engine e).q = x :: r → x.stalled = false → (x.begun = true ∨ x.after.any s.cell.flying = false) →
    s.cell.stopped = false → s.active s.cell = true → settle e 0 x (runEngine e x s) ≠ s →
      exec (.engineCompletion s.here e) s = .next ((settle e 0 x (runEngine e x s)).focus s.here)) ∧
  (∀ (e : Engine) (x : Cmd) (u : State),
    (∀ y, settle e 0 x (.more y u) = u.onCell (Cell.putCmd e 0 { y with waits := none })) ∧
    (∀ y lane fill, settle e 0 x (.done y lane fill u) = u.onCell (Cell.report e 0 y lane fill)) ∧
    (∀ st, settle e 0 x (.block none st u) = u.onCell (Cell.putCmd e 0 { x with stalled := st })) ∧
    (∀ k, x.waits ≠ some k →
      let v := u.onCell (Cell.putCmd e 0 { x with waits := none })
      (v.cell.waitEntries < 64 → settle e 0 x (.block (some k) false u) =
        deadlockCheck u.cell.k.ctx k.streamNum (v.onCell fun c => (c.putCmd e 0 { x with waits := some k }).touchWin k.streamNum)) ∧
      (64 ≤ v.cell.waitEntries → settle e 0 x (.block (some k) false u) = v.onCell (Cell.touchWin k.streamNum))) ∧
    ∀ code info, u.cell.fault = none →
      let t := settle e 0 x (.fault code info u)
      t.cell.fault = some ⟨code, 0, u.cell.k.t, 2, x.hnd.setWidth 7, x.word0, x.pc, info, x.w3, x.w2 ++ x.w1⟩ ∧ t.cell.stopped = true ∧ t.pkg = u.pkg ∧
        (t.cell.engine e).q = (if x.isPagein e then (u.cell.engine e).q.drop 1 else (u.cell.engine e).q)) ∧
  (∀ (e : Engine) (x : Cmd) (r : List Cmd) (c : Cell), (c.engine e).q = x :: r → x.internal = false →
    (∀ lane fill, x.done = 0 → let t := c.report e 0 x lane fill
      (t.engine e).q = r ∧ t.k.fflags = c.k.fflags ||| x.flags ∧ (x.sb ≠ 0 → t.slot x.sb = c.slot x.sb - 1) ∧ t.store = c.store) ∧
    (∀ lane fill, x.done = 1 → let t := c.report e 0 x lane fill
      (t.engine e).q = r ∧ t.k.fflags = c.k.fflags ||| x.flags ∧ (x.sb ≠ 0 → t.slot x.sb = c.slot x.sb - 1) ∧ t.store = c.store ∧
        (∀ off n i, (off, n) ∈ fill → i < n → t.wordFull (off + i) = true) ∧
        ∀ o, (∀ off n, (off, n) ∈ fill → 0 < n → o / 4 < off / 4 ∨ (off + n - 1) / 4 < o / 4) → t.wordFull o = c.wordFull o) ∧
    (∀ lane fill, x.done = 3 → let t := c.report e 0 x lane fill
      (t.engine e).q = r ∧ t.k.ecnt[(x.chan.setWidth 3).toNat]'(x.chan.setWidth 3).isLt = c.k.ecnt[(x.chan.setWidth 3).toNat]'(x.chan.setWidth 3).isLt + 1 ∧
        t.k.fflags = c.k.fflags ||| x.flags) ∧
    (∀ lane fill, x.done = 2 → c.tokenRoom e x.chan = false → let t := c.report e 0 x lane fill
      (t.engine e).q = r ∧ (t.engine e).held = (c.engine e).held ++ [⟨x.chan, lane, x.sb, x.flags, x.lane⟩] ∧ t.chan = c.chan ∧ t.sb = c.sb)) ∧
  (∀ (x : Cmd) (s : State), mxOk x = true → s.cell.tokenChannel x = true →
    (x.verb = 4 → ∃ y t, runEngine .mx x s = .done y 4 [] t ∧ t.pkg = s.pkg ∧ t.cell.tiles = s.cell.tiles ∧ t.cell.store = s.cell.store ∧
      t.cell.acc = ((rectOf x.w1).foldl (fun m e => sput 0 (accKey e.1 e.2) 0 m) s.cell.acc)) ∧
    (x.verb = 8 → (rectOf x.w2).any (fun e => s.cell.poisonedRow e.1) = true → ∃ t, runEngine .mx x s = .fault cUNCORRECTABLE 0 t) ∧
    (x.verb = 8 → (rectOf x.w2).any (fun e => s.cell.poisonedRow e.1) = false → ∃ y fill t, runEngine .mx x s = .done y 8 fill t ∧ t.pkg = s.pkg ∧
      t.cell.store = ((s.cell.promoteAll (rectOf x.w2)).storeAt (fld x.w1 0 17)
        ((rectOf x.w2).flatMap fun e => bytesOf 4 ((s.cell.promoteAll (rectOf x.w2)).accAt e.1 e.2))).store)) ∧
  (∀ (x : Cmd) (s : State), mxOk x = true → s.cell.tokenChannel x = true →
    let u := if x.begun then s else s.onCell (Cell.progress 0 0)
    let y : Cmd := { x with begun := true }
    let T := fld x.w3 29 3
    let R := fld x.w3 21 5 + 1
    let a := moveAddr x x.unit
    let e := moveWidth x
    (x.verb = 0 → fld x.w3 28 1 = 0 →
      (∀ bytes v, bytes.length = 64 → readMem .mx a 64 u = .ok bytes v →
        (x.unit + 1 < R → ∃ t, runEngine .mx x s = .more { y with unit := x.unit + 1 } t ∧ t.pkg = v.pkg ∧ t.cell.tileRow T x.unit = bytes ∧
          ∀ T' r, r < 32 → ¬(T' = T ∧ r = x.unit) → t.cell.tileRow T' r = v.cell.tileRow T' r) ∧
        (x.unit + 1 = R → ∃ t, runEngine .mx x s = .done y 0 [] t ∧ t.pkg = v.pkg ∧ t.cell.tileRow T x.unit = bytes ∧
          (∀ r, r < x.unit → t.cell.tileRow T r = v.cell.tileRow T r) ∧ ∀ r, R ≤ r → r < 32 → t.cell.tileRow T r = List.replicate 64 0)) ∧
      (∀ code v, readMem .mx a 64 u = .fault code v → runEngine .mx x s = .fault code (BitVec.ofNat 32 x.unit) v) ∧
      ∀ w b v, readMem .mx a 64 u = .block w b v → runEngine .mx x s = .block w b v) ∧
    (x.verb = 0 → fld x.w3 28 1 = 1 → ∀ rows v, Io.each (fun c s => readRow (moveAddr x c) ((R * e + 7) / 8) s) (List.range (512 / e)) u = .ok rows v →
      ∃ t, runEngine .mx x s = .done y 0 [] t ∧ t.pkg = v.pkg ∧
        ∀ r < 32, ∀ c < 512 / e, bits (ofBytes (t.cell.tileRow T r)) (c * e) e = if r < R then bits (ofBytes (rows.getD c [])) (r * e) e else 0) ∧
    (x.verb = 1 → fld x.w3 28 1 = 0 →
      (u.cell.badRows T [x.unit] = true → runEngine .mx x s = .fault cUNCORRECTABLE (BitVec.ofNat 32 x.unit) u) ∧
      (u.cell.badRows T [x.unit] = false → ∀ v, writeMem .mx a (u.cell.tileRow T x.unit) u = .ok () v →
        ∃ t, t.pkg = v.pkg ∧ t.cell.store = v.cell.store ∧ t.cell.tiles = v.cell.tiles ∧
          (if x.unit + 1 < R then runEngine .mx x s = .more { y with unit := x.unit + 1 } t else ∃ fill, runEngine .mx x s = .done y 1 fill t))) ∧
    (x.verb = 1 → fld x.w3 28 1 = 1 → R * e % 8 = 0 → u.cell.badRows T (List.range R) = false →
      let n := R * e / 8
      let V (c : Nat) : List Byte := bytesOf n (((List.range R).map fun r => bits (ofBytes (u.cell.tileRow T r)) (c * e) e * 2 ^ (r * e)).sum)
      ∀ v, writeAll .mx ((List.range (512 / e)).flatMap fun c => (rowPieces (moveAddr x c) n).mapIdx fun i q => (q.1, ((V c).drop (64 * i)).take q.2)) u = .ok () v →
        ∃ t fill, runEngine .mx x s = .done y 1 fill t ∧ t.pkg = v.pkg ∧ t.cell.store = v.cell.store ∧ t.cell.tiles = v.cell.tiles) ∧
    (x.verb = 2 → u.cell.badTiles = [] →
      let K := fld x.w2 8 8 + 1
      let ks := (List.range K).filter fun k => k / 32 == x.unit
      let row (i : Nat) : Nat := fld x.w2 25 7 + i
      let col (j : Nat) : Nat := fld x.w2 18 7 + j
      let zero : Bool := fld x.w2 1 1 == 1 && x.unit == 0
      let fa := fmtFld x.w1 25
      let fb := fmtFld x.w1 18
      let A (i k : Nat) : Nat := u.cell.operand (fld x.w1 15 3) (fld x.w1 14 1 == 1) fa i k
      let B (j k : Nat) : Nat := u.cell.operand (fld x.w1 11 3) (fld x.w1 10 1 == 1) fb j k
      (∀ g, mmaGroup x = some g → g ≠ .int →
        ∃ z t, (if 32 * (x.unit + 1) < K then runEngine .mx x s = .more z t ∧ z.unit = x.unit + 1 else runEngine .mx x s = .done z 2 [] t) ∧
          t.cell.tiles = u.cell.tiles ∧ t.cell.store = u.cell.store ∧
          ∀ i < 32, ∀ j < 32, t.cell.accAt (row i) (col j) = (floatEntry g (if fld x.w1 7 1 = 1 then 16 else 32) (mmaScale x u.cell i j)
            (if zero then 0 else if x.unit = 0 then (u.cell.promote (row i, col j)).accAt (row i) (col j) else u.cell.accAt (row i) (col j), 0) ks
            (fun k => (valueOf fa (A i k), valueOf fb (B j k)))).1) ∧
      (mmaGroup x = some .int → fld x.w2 2 1 = 0 →
        ∃ z t, (if 32 * (x.unit + 1) < K then runEngine .mx x s = .more z t ∧ z.unit = x.unit + 1 else runEngine .mx x s = .done z 2 [] t) ∧
          t.cell.tiles = u.cell.tiles ∧ t.cell.store = u.cell.store ∧
          ∀ i < 32, ∀ j < 32,
            let r := (ks.map fun k => (k, intOf fa (A i k) * intOf fb (B j k), k == K - 1 && fld x.w2 0 1 != 1)).foldl (intProduct (32 * (fld x.w2 3 5 + 1)))
              (if zero then ⟨0, Inner.zero, false, none⟩ else ⟨intOf fINT32 (u.cell.accAt (row i) (col j)), u.cell.innerAt (row i) (col j), false, none⟩)
            t.cell.accAt (row i) (col j) = intCode fINT32 r.acc ∧ t.cell.innerAt (row i) (col j) = r.inner)) ∧
    (x.verb = 3 → u.cell.badTiles = [] → fld x.w3 16 1 = 0 →
      let fv := fmtFld x.w3 9
      let fw := fmtFld x.w3 2
      let K := 512 / max (width fv) (width fw)
      let rb := K * width fw / 8
      ∀ ws v g, mvGroup x = some g → g ≠ .int →
        Io.each (fun n s => readMem .mx (x.addr + BitVec.ofNat 64 (n * rb)) rb s) ((List.range 32).map (32 * x.unit + ·)) u = .ok ws v →
        ∃ z t, (if 32 * (x.unit + 1) < 32 * (fld x.w3 18 2 + 1) then runEngine .mx x s = .more z t ∧ z.unit = x.unit + 1 else runEngine .mx x s = .done z 3 [] t) ∧
          t.cell.tiles = v.cell.tiles ∧ t.cell.store = v.cell.store ∧
          ∀ i < 32, ∀ j < fld x.w3 26 3 + 1, let row := 8 * fld x.w3 22 4 + j
            let col := 32 * fld x.w3 20 2 + 32 * x.unit + i
            t.cell.accAt row col = (floatEntry g 32 (fun _ => (0x7F, 0x7F)) (if fld x.w3 17 1 = 1 then 0 else (v.cell.promote (row, col)).accAt row col, 0) (List.range K)
              (fun k => (valueOf fv (u.cell.tileElem T fv j k), valueOf fw (bits (ofBytes (ws.getD i [])) (k * width fw) (width fw))))).1) ∧
    (x.verb = 5 →
      let row0 := fld x.w3 25 7
      let n := fld x.w3 20 5 + 1
      let col0 := 32 * fld x.w3 18 2
      let fd := fmtFld x.w3 11
      let rd : Rounding := if fld x.w3 8 3 = 7 then ⟨x.rm, x.sat⟩ else ⟨BitVec.ofNat 3 (fld x.w3 8 3), fld x.w3 7 1 == 1⟩
      (x.unit = 0 → (∃ i < n, u.cell.poisonedRow (row0 + i) = true) → runEngine .mx x s = .fault cUNCORRECTABLE 0 u) ∧
      ((∀ i < n, u.cell.poisonedRow (row0 + i) = false) →
        let u0 := if x.unit = 0 then u.onCell (Cell.promoteAll (rectangle row0 n col0 32)) else u
        let l := (List.range 32).map fun j => roundTo fd rd ((philox x.dkey (BitVec.ofNat 32 (col0 + j)) (BitVec.ofNat 32 (row0 + x.unit)) x.draw 0x2000_0000).1.toNat % 2 ^ 16)
          (valueOf (if fd.isInt then fINT32 else fFP32) (u0.cell.accAt (row0 + x.unit) (col0 + j)))
        ∀ v, writeAll .mx ((rowPieces (drainAddr x x.unit) (drainBytes x)).mapIdx fun i q => (q.1, ((bytesOfElements fd (l.map Prod.fst)).drop (64 * i)).take q.2)) u0 = .ok () v →
          let z : Cmd := { y with flags := x.flags ||| orFlags (l.map Prod.snd) }
          ∃ t, t.pkg = v.pkg ∧ t.cell.store = v.cell.store ∧ t.cell.acc = v.cell.acc ∧
            (if x.unit + 1 < n then runEngine .mx x s = .more { z with unit := x.unit + 1 } t else ∃ fill, runEngine .mx x s = .done z 5 fill t))) ∧
    (x.verb = 6 → (∀ i < 32, u.cell.poisonedRow (fld x.w1 25 7 + i) = false) →
      let r0 := fld x.w1 25 7
      let s0 := fld x.w1 18 7
      let mc := fld x.w1 11 7
      let o0 := fld x.w1 4 7
      let no := 32 * (fld x.w1 3 1 + 1)
      let val (r k : Nat) : Machine.Num := valueOf fFP32 ((u.cell.promote (r, k)).accAt r k)
      (fld x.w1 1 1 = 1 → ∃ z t, runEngine .mx x s = .done z 6 [] t ∧ t.pkg = u.pkg ∧ t.cell.tiles = u.cell.tiles ∧
        ∀ r, r0 ≤ r → r < r0 + 32 → ∀ j < no, t.cell.accAt r (o0 + j) = code32 (round32 (quotient (val r (o0 + j)) (val r (mc + 1)))).1) ∧
      (fld x.w1 1 1 = 0 → ∃ z t, runEngine .mx x s = .done z 6 [] t ∧ t.pkg = u.pkg ∧
        ∀ i < 32, let r := r0 + i
          let init : Bool := fld x.w1 2 1 == 1
          let q := smaxRow (fmtFld x.w2 22) (if init then .inf true else val r mc) (if init then .fin false 0 0 else val r (mc + 1))
            ((List.range 32).map fun j => val r (s0 + j)) ((List.range no).map fun j => if init then .fin false 0 0 else val r (o0 + j))
          t.cell.accAt r mc = code32 q.m ∧ t.cell.accAt r (mc + 1) = code32 q.l ∧
          (∀ l, q.o = some l → ∀ j < no, t.cell.accAt r (o0 + j) = code32 (l.getD j (.nan false))) ∧
          (q.o = none → init = false → ∀ j < no, t.cell.accAt r (o0 + j) = (u.cell.promote (r, o0 + j)).accAt r (o0 + j)) ∧
          (q.o = none → init = true → ∀ j < no, t.cell.accAt r (o0 + j) = 0) ∧
          (t.cell.tileRow (fld x.w2 29 3) i).take (bytesOfElements (fmtFld x.w2 22) q.p).length = bytesOfElements (fmtFld x.w2 22) q.p)) ∧
    (x.verb = 7 → let l := rectOf x.w2
      let off := fld x.w1 0 17
      (u.cell.damagedAt off (4 * l.length) = true → runEngine .mx x s = .fault cUNCORRECTABLE 0 u) ∧
      (u.cell.damagedAt off (4 * l.length) = false → ∃ t, runEngine .mx x s = .done y 7 [] t ∧ t.pkg = u.pkg ∧ t.cell.store = u.cell.store ∧ t.cell.tiles = u.cell.tiles ∧
        (∀ i p, l[i]? = some p → t.cell.accAt p.1 p.2 = ofBytes (u.cell.load (off + 4 * i) 4) ∧ t.cell.innerAt p.1 p.2 = Inner.zero) ∧
        ∀ p, p ∉ l → p.2 < 128 → t.cell.accAt p.1 p.2 = u.cell.accAt p.1 p.2))) ∧
  (∀ (blk : Nat) (sc : Nat → Nat × Nat) (acc : Nat × Flags) (p : Nat → Machine.Num × Machine.Num),
    (∀ a v, (addInto a v).1 = (roundTo fFP32 rne 0 (addExact 0 (valueOf fFP32 a.1) v.1).1).1) ∧
    (∀ ks, floatEntry .half blk sc acc ks p = ks.foldl (fun a k => addInto a (mulExact (p k).1 (p k).2)) acc) ∧
    (∀ k l ks, let P := mulExact (p k).1 (p k).2
      let Q := mulExact (p l).1 (p l).2
      floatEntry .eight blk sc acc (k :: l :: ks) p =
        floatEntry .eight blk sc (addInto acc ((addExact 0 P.1 Q.1).1, P.2 ||| Q.2 ||| (addExact 0 P.1 Q.1).2)) ks p) ∧
    (∀ k ks b, (∀ i ∈ k :: ks, i / blk = b) → floatEntry .scaled blk sc acc (k :: ks) p = sumBlock acc ((k :: ks).map p) (sc b).1 (sc b).2) ∧
    ∀ (l : List (Machine.Num × Machine.Num)) (sa sb : Nat) (E : Int), sa < 0xFF → sb < 0xFF →
      (∀ e ∈ l, (∃ n m k, e.1 = .fin n m k) ∧ ∃ n m k, e.2 = .fin n m k) → (∀ e ∈ l, |e.1.rat * e.2.rat| < 2 ^ (E + 1)) → (∃ e ∈ l, 2 ^ E ≤ |e.1.rat * e.2.rat|) →
      let cut (v : ℚ) : ℚ := (if 0 ≤ v then ⌊v / 2 ^ (E - 47)⌋ else ⌈v / 2 ^ (E - 47)⌉) * 2 ^ (E - 47)
      ∃ n m k, rat n m k = (l.map fun e => cut (e.1.rat * e.2.rat)).sum * 2 ^ ((sa : Int) + sb - 254) ∧
        ∀ f : Flags, ((∀ e ∈ l, cut (e.1.rat * e.2.rat) = e.1.rat * e.2.rat) → f = 0) → ((∃ e ∈ l, cut (e.1.rat * e.2.rat) ≠ e.1.rat * e.2.rat) → f = flIX) →
          sumBlock acc l sa sb = addInto acc (.fin n m k, f)) ∧
  (∀ (n : Nat) (q : IntSum) (k : Nat) (v : Int) (last : Bool),
    let t := q.inner.val + v
    let i := max (-8388608) (min 8388607 t)
    let w := max (-(2 ^ 31)) (min (2 ^ 31 - 1) (q.acc + i))
    (n ≤ q.inner.cnt + 1 ∨ last = true → (intProduct n q (k, v, last)).acc = w ∧ (intProduct n q (k, v, last)).inner = Inner.zero ∧
      (intProduct n q (k, v, last)).sat = (q.sat || decide (i ≠ t) || decide (w ≠ q.acc + i))) ∧
    (q.inner.cnt + 1 < n → last = false → (intProduct n q (k, v, last)).acc = q.acc ∧ (intProduct n q (k, v, last)).inner = ⟨i, q.inner.cnt + 1⟩ ∧
      (intProduct n q (k, v, last)).sat = (q.sat || decide (i ≠ t)))) ∧
  (∀ (fp : FmtDesc) (m l : Machine.Num) (sc o : List Machine.Num), m.isNan = false → l.isNan = false → (∀ v ∈ sc, v.isNan = false ∧ v ≠ .inf false) →
    let top := sc.foldl (fun a x => if a.lt x then x else a) m
    top ≠ .inf true →
      let q := smaxRow fp m l sc o
      let w : Machine.Num := if m.lt top then (round32 (exp2Of (addExact 0 m top.negate).1, 0)).1 else .fin false 1 0
      q.m = top ∧ q.p = sc.map (fun x => (roundTo fp rne 0 (exp2Of (addExact 0 x top.negate).1)).1) ∧
        q.l = (round32 (sumExact 0 ((mulExact l w).1 :: q.p.map (valueOf fp)))).1 ∧
        ∀ l', q.o = some l' → l' = o.map fun x => (round32 (mulExact x w)).1) ∧
  (∀ (x : Cmd) (s : State), x.internal = false → x.begun = false → x.addr.toNat % 64 = 0 → x.w3 = 0 → s.cell.tokenChannel x = true →
    ∀ bytes v, readMem .cp x.addr 192 s = .ok bytes v →
      let d := wordsOfBytes 24 bytes
      (cpOk x.verb d = true → x.done ≠ 1 ∨ cpInStore d = true → runEngine .cp x s = .more { x with begun := true, desc := d } v) ∧
      (cpOk x.verb d = false → runEngine .cp x s = .fault cENGINE_CMD 0 v)) ∧
  (∀ (x : Cmd) (s : State), x.internal = false → x.begun = true → cpRem x.desc = false →
    let d := x.desc
    let e := cpElem d
    let k := 4096 / e * x.unit
    let n := min (4096 / e) (cpTotal d - k)
    let at_ (stride : Nat → Word) (i : Nat) : Word := strideSum stride (indexVector (cpCounts d) (k + i))
    (n = 0 → ∃ fill, runEngine .cp x s = .done x (BitVec.ofNat 32 x.verb) fill s) ∧
    (n ≠ 0 → (∀ l v w, cpGatherChunk x.verb d x.unit s = .ok l v → cpWriteChunk l v = .ok () w → runEngine .cp x s = .more { x with unit := x.unit + 1 } w) ∧
      (∀ code l v w, cpGatherChunk x.verb d x.unit s = .ok l v → cpWriteChunk l v = .fault code w → runEngine .cp x s = .fault code (BitVec.ofNat 32 k) w) ∧
      (e ≤ 8 → s.cell.badStore = [] → s.cell.poisonStore = [] → ∀ dst : Nat → Nat, (∀ i < n, region (cpDst d + at_ (cpDstr d) i) e = .cell (dst i)) →
        (x.verb = 2 → runEngine .cp x s = .more { x with unit := x.unit + 1 } (s.onCell fun c =>
          (List.range n).foldl (fun c i => c.storeAt (dst i) (bytesOf e (cpPat d).toNat)) c)) ∧
        ∀ src : Nat → Nat,
          (x.verb = 0 → (∀ i < n, region (cpSrc d + at_ (cpSstr d) i) e = .cell (src i)) →
            runEngine .cp x s = .more { x with unit := x.unit + 1 } (s.onCell fun c =>
              (List.range n).foldl (fun c i => c.storeAt (dst i) (s.cell.load (src i) e)) c)) ∧
          ∀ idx : Nat → Nat, let D := cpNdim d - 1
            let w := 4 * 2 ^ cpIw d
            let nD (i : Nat) : Nat := (indexVector (cpCounts d) (k + i)).getD D 0
            x.verb = 1 → (∀ i < n, region (cpIdx d + BitVec.ofNat 64 (nD i * w)) w = .cell (idx i)) →
            (∀ i < n, region (cpSrc d + at_ (cpSstr d) i - BitVec.ofNat 64 (nD i) * cpSstr d D + BitVec.ofNat 64 (ofBytes (s.cell.load (idx i) w)) * cpSstr d D) e =
              .cell (src i)) →
            runEngine .cp x s = .more { x with unit := x.unit + 1 } (s.onCell fun c =>
              (List.range n).foldl (fun c i => c.storeAt (dst i) (s.cell.load (src i) e)) c)))) ∧
  (∀ (x : Cmd) (s : State), x.begun = true ∨ (kvOk x = true ∧ s.cell.tokenChannel x = true) →
    let wid := bits x.w3.toNat 0 2
    let info := BitVec.ofNat 32 x.note
    (x.verb = 0 →
      (x.unit = 0 → x.addr = 0 → runEngine .kv x s = .done x 0 [] (s.onCell (Cell.putWalk wid none))) ∧
      (x.unit = 0 → x.addr ≠ 0 → runEngine .kv x s = .more { x with unit := 1, begun := true } (s.onCell (Cell.putWalk wid none))) ∧
      (x.unit = 1 → 16 ≤ s.openWalks → runEngine .kv x s = .block none false s) ∧
      (x.unit = 1 → s.openWalks < 16 → ∀ bytes v, readMem .kv x.addr 64 s = .ok bytes v →
        runEngine .kv x s = if walkOk (wordsOfBytes 8 bytes) then .more { x with unit := 2 } (v.onCell (Cell.putWalk wid (some (walkOf (wordsOfBytes 8 bytes)))))
          else .fault cENGINE_CMD 0 v) ∧
      (2 ≤ x.unit → ∀ w hdr i p v, s.cell.walkAt wid = some w → w.ftabDue = false → w.pages = [] → w.following = some (hdr, i) → readHeader .kv w.cap hdr i s = .ok p v →
        runEngine .kv x s = .done x 0 [] (v.onCell (Cell.onWalk wid (Walk.hold p))))) ∧
    (x.verb = 1 ∨ x.verb = 2 → ∀ w, s.cell.walkAt wid = some w → loadOk x w = true → w.ftabDue = false →
      (w.pages = [] → w.following = none → ∃ t, runEngine .kv x s = .done x (BitVec.ofBool true ++ BitVec.ofNat 31 w.index) (loadRanges x w) t ∧
        t.cell.store = (s.cell.deliver x w none []).store ∧ t.pkg = s.pkg) ∧
      ∀ p ps, w.pages = p :: ps → p.stale = false →
        (p.err ≠ 0 → runEngine .kv x s = .fault p.err (BitVec.ofNat 32 w.index) s) ∧
        (p.err = 0 → p.tier = 3 → ∃ t, runEngine .kv x s = .fault cTIER_FAIL (BitVec.ofNat 32 w.index) t) ∧
        (p.err = 0 → p.tier = 1 ∨ p.tier = 2 → ∃ t, runEngine .kv x s = .block none false t) ∧
        (p.err = 0 → p.tier = 0 →
          let n := if x.verb = 1 then w.kb else w.vb
          let js := (List.range 32).filter fun j => decide (j < p.tcount) && decide (w.low ≤ p.posBase + j)
          ∀ l v, Io.each (fun j s => readMem .kv (p.data + BitVec.ofNat 64 (if x.verb = 1 then 0 else w.cap * w.kb) + BitVec.ofNat 64 (j * n)) n s) js s = .ok l v →
            let rows := (js.zip l).map fun q => (q.1, (deliveredRow x w p q.1 q.2).1)
            ∃ z t, runEngine .kv x s = .done z (BitVec.ofBool false ++ BitVec.ofNat 31 w.index) (loadRanges x w) t ∧ t.pkg = v.pkg ∧
              t.cell.store = (v.cell.deliver x w (some p) rows).store ∧ t.cell.walkAt wid = some (if bitOf x.w3.toNat 5 then { w with pages := ps, index := w.index + 1 } else w))) ∧
    (x.verb = 3 → x.ctx = s.cell.k.ctx →
      (x.unit = 0 → ∀ p v old u, readHeader .cp 32 x.addr 0 s = .ok p v → swapTier x.addr (fun t => if t = 1 then 2 else t) v = .ok old u →
        (old = 0 → x.internal = false → ∃ z t, runEngine .kv x s = .done z 0 [] t ∧ t.cell.store = u.cell.store ∧ t.pkg = u.pkg) ∧
        (old = 1 → ∃ z t, runEngine .kv x s = .more z t ∧ z.unit = 2 ∧ z.desc = [p.data, p.far] ∧ t.cell.store = u.cell.store ∧ t.pkg = u.pkg) ∧
        (old = 2 → ∃ z t, runEngine .kv x s = .more z t ∧ z.unit = 1 ∧ t.cell.store = u.cell.store ∧ t.pkg = u.pkg) ∧
        (old = 3 → x.internal = false → ∃ i t, runEngine .kv x s = .fault cTIER_FAIL i t ∧ t.cell.store = u.cell.store ∧ t.pkg = u.pkg)) ∧
      (∀ i, x.unit = i + 2 → let n := 64 * bits x.w3.toNat 0 24 - 4096 * i
        (n = 0 → x.internal = false → ∀ old u, swapTier x.addr (fun _ => 0) s = .ok old u →
          ∃ z lane t, runEngine .kv x s = .done z lane [] t ∧ t.cell.store = u.cell.store ∧ t.pkg = u.pkg) ∧
        (n ≠ 0 → ∀ sp v u, spot false .cp (dw x.desc 1 + BitVec.ofNat 64 (4096 * i)) (min 4096 n) s = .ok sp v → spotBad sp (min 4096 n) v = false →
          writeMem .cp (dw x.desc 0 + BitVec.ofNat 64 (4096 * i)) (spotBytes sp (min 4096 n) v) v = .ok () u →
          ∃ t, runEngine .kv x s = .more { x with unit := x.unit + 1 } t ∧ t.cell.store = u.cell.store ∧ t.pkg = u.pkg))) ∧
    (x.verb = 4 →
      (x.begun = false → ∀ bytes v, readMem .kv x.addr 32 s = .ok bytes v →
        runEngine .kv x s = if freeOk x (wordsOfBytes 4 bytes) then .more { x with begun := true, desc := wordsOfBytes 4 bytes } v else .fault cENGINE_CMD 0 v) ∧
      (x.begun = true → x.unit ≠ 0 → let d := x.desc
        (dw d 4 ≠ 0 → x.note < bits (dw d 2).toNat 32 16 → ∀ p v, readHeader .kv 32 (dw d 4) x.note s = .ok p v → p.posBase + p.tcount ≤ bits (dw d 2).toNat 0 32 →
          ∀ u, writeMem .kv (dw d 1 + BitVec.ofNat 64 (8 * x.note)) (bytesOf 8 (dw d 4).toNat) v = .ok () u →
            runEngine .kv x s = .more { x with note := x.note + 1, desc := d.take 4 ++ [p.next] } u) ∧
        (dw d 4 = 0 ∨ bits (dw d 2).toNat 32 16 ≤ x.note → ∀ u, writeAll .kv [(x.addr + 24, bytesOf 8 x.note), (dw d 0, bytesOf 8 (dw d 4).toNat)] s = .ok () u →
          ∃ fill, runEngine .kv x s = .done x info fill u)))) ∧
  (∀ (hdr : Word) (f : BitVec 2 → BitVec 2) (off : Nat) (s : State), region (hdr + 8) 8 = .cell off → s.cell.damagedAt off 8 = false →
    let v := wordOfBytes (s.cell.load off 8)
    let t := v.extractLsb' 48 2
    swapTier hdr f s = .ok t (if f t = t then s else s.onCell (Cell.storeAt off (bytesOf 8 (v.extractLsb' 50 14 ++ f t ++ v.extractLsb' 0 48).toNat)))) ∧
  (∀ (c : Cell) (x : Cmd) (w : Walk) (p : Option Page) (rows : List (Nat × List Byte)), bitOf x.w3.toNat 6 = false →
    let n := (if x.verb = 1 then w.kb else w.vb) / 64
    (∀ e ∈ rows, e.2.length = 64 * n) → ∀ j < 32, ∀ i < n,
      (c.deliver x w p rows).load (bits x.w1.toNat 0 17 + 2048 * i + 64 * j) 64 =
        ((((aget rows j).getD (List.replicate (64 * n) 0)).drop (64 * i)).take 64)) ∧
  (∀ (x : Cmd) (s : State),
    (x.begun = false → x.w3 = 0 → s.cell.tokenChannel x = true → ∀ bytes v, readMem .sk x.addr 64 s = .ok bytes v →
      let d := wordsOfBytes 8 bytes
      runEngine .sk x s = if skOk x d then .more { x with begun := true, desc := d ++ [skFirst d] } v else .fault cENGINE_CMD 0 v) ∧
    (x.begun = true → x.unit < skPages x.desc → let d := x.desc
      let out (r : Scored) (next : Word) : Cmd := { x with unit := x.unit + 1, desc := (d.take 8 ++ [next]) ++ (d.drop 9 ++ [r.word]) }
      (dw d 8 = 0 → runEngine .sk x s = .more (out (.bit false) 0) s) ∧
      ∀ p v, dw d 8 ≠ 0 → readHeader .sk 32 (dw d 8) x.unit s = .ok p v → p.sketch.toNat % 64 = 0 →
        let js := (List.range 32).filter fun j => decide (j < p.tcount) && decide (skLow d ≤ p.posBase + j)
        (js = [] → runEngine .sk x s = .more (out (.bit false) p.next) v) ∧
        (js ≠ [] → p.tier ≠ 0 → runEngine .sk x s = .more (out (.bit true) p.next) v) ∧
        (js ≠ [] → p.tier = 0 → ∀ q ks u w, readMem .sk (skQuery d) (skSize d / 2) v = .ok q u →
          Io.each (fun j s => readMem .sk (p.sketch + BitVec.ofNat 64 (j * (skSize d / 2))) (skSize d / 2) s) js u = .ok ks w →
          ∃ m : Int, runEngine .sk x s = .more (out (.score m) p.next) w ∧
            (∀ k ∈ ks, (((elementsOfBytes 6 (skSize d) q).zip (elementsOfBytes 6 (skSize d) k)).map fun e => intOf 6 e.1 * intOf 6 e.2).sum ≤ m) ∧
            ∃ k ∈ ks, (((elementsOfBytes 6 (skSize d) q).zip (elementsOfBytes 6 (skSize d) k)).map fun e => intOf 6 e.1 * intOf 6 e.2).sum = m)) ∧
    (x.begun = true → skPages x.desc ≤ x.unit → let d := x.desc
      let l := survivors (d.take 8) ((d.drop 9).map scoredOf)
      ∀ u, writeAll .sk [(skOut (d.take 8), bytesOf (skBytes (d.take 8)) ((l.mapIdx fun i b => if b then 2 ^ i else 0).sum)),
          (x.addr + 40, bytesOf 8 (l.filter id).length)] s = .ok () u →
        ∃ fill, runEngine .sk x s = .done x (BitVec.ofNat 32 (l.filter id).length) fill u)) ∧
  (∀ (d : List Word) (l : List Scored) (i : Nat), i < l.length →
    (∀ b, l[i]? = some (.bit b) → (survivors d l)[i]? = some b) ∧
    (∀ v, l[i]? = some (.score v) → skTop d = false → (survivors d l)[i]? = some (decide (skThresh d ≤ v))) ∧
    ∀ v, l[i]? = some (.score v) → skTop d = true → (survivors d l)[i]? =
      some (decide (((List.range l.length).filter fun j => match l[j]? with | some (Scored.score w) => decide (v < w) || (w == v && decide (j < i)) | _ => false).length < skTopk d))) ∧
  (∀ (x : Cmd) (s : State), x.begun = true →
    let d := chainDesc x x.desc
    let k := 8 * x.unit
    let n := min 8 (d.count - k)
    (d.count ≤ k → ∃ fill, runEngine .ch x s = .done x (BitVec.ofNat 32 d.count) fill s) ∧
    (k < d.count → ∀ ins v auxs w, readElems d.saddr d.ifmt k n s = .ok ins v → (if d.aux then readElems d.aaddr d.afmt k n v else .ok [] v) = .ok auxs w →
      let rd : Rounding := if d.rm = 7 then ⟨x.rm, x.sat⟩ else ⟨d.rm, d.sat⟩
      let l := ins.mapIdx fun j e =>
        let r := roundTo d.ofmt rd ((philox x.dkey (BitVec.ofNat 32 (k + j)) 0 x.draw 0x4000_0000).1.toNat % 2 ^ 16) (valueOf fFP32 (chainElem d e (auxs.getD j 0)).1)
        (r.1, (chainElem d e (auxs.getD j 0)).2 ||| r.2)
      (∀ u, writeElems d.daddr d.ofmt k (l.map Prod.fst) w = .ok () u →
        runEngine .ch x s = .more { x with unit := x.unit + 1, flags := x.flags ||| orFlags (l.map Prod.snd) } u) ∧
      ∀ code u, writeElems d.daddr d.ofmt k (l.map Prod.fst) w = .fault code u → runEngine .ch x s = .fault cENGINE_FAULT (BitVec.ofNat 32 k) u)) ∧
  (∀ (d : ChainDesc) (a b : Nat), let A := roundTo fFP32 rne 0 (valueOf d.ifmt a)
    let B := if d.aux then roundTo fFP32 rne 0 (valueOf d.afmt b) else (0, 0)
    chainElem d a b = d.used.foldl (fun v o =>
      let r := chainOp (bits o.toNat 11 5) v.1 (if bits o.toNat 8 3 = 4 then B.1 else (d.consts.getD (bits o.toNat 8 3) 0).toNat)
      (r.1, v.2 ||| r.2)) (A.1, A.2 ||| B.2)) ∧
  (∀ v b : Nat, let V := valueOf fFP32 v
    let W := valueOf fFP32 b
    let r (x : Machine.Num × Flags) : Nat × Flags := ((roundTo fFP32 rne 0 x.1).1, x.2 ||| (roundTo fFP32 rne 0 x.1).2)
    chainOp 0 v b = (v, 0) ∧ chainOp 1 v b = r (addExact 0 V W) ∧ chainOp 2 v b = r (addExact 0 V W.negate) ∧ chainOp 3 v b = r (addExact 0 W V.negate) ∧
      chainOp 4 v b = r (mulExact V W) ∧ chainOp 5 v b = minMax fFP32 false v b ∧ chainOp 6 v b = minMax fFP32 true v b ∧ chainOp 7 v b = signCode false fFP32 v ∧
      chainOp 8 v b = signCode true fFP32 v ∧ chainOp 9 v b = r (exp2Of V, 0) ∧ chainOp 10 v b = r (log2Of V) ∧ chainOp 11 v b = rcpCode v ∧ chainOp 12 v b = rsqCode v ∧
      chainOp 13 v b = (if V.isNan || !V.lt (.fin false 0 0) then (v, 0) else r (mulExact V W))) ∧
  (∀ (x : Cmd) (t : CellId) (s : State), gsTarget x s = some t → s.cell.tokenChannel x = true →
    (x.verb = 0 → runEngine .gs x s = .done x 0 [] (s.atCell t (Cell.arm (gsSec x) x.w1.toNat))) ∧
    (x.verb = 1 → ((s.cellAt t).sectionAt (gsSec x)).count = 0 → (s.cellAt t).looping (gsSec x) = false → runEngine .gs x s = .done x 1 [] s) ∧
    (x.verb = 1 → ((s.cellAt t).sectionAt (gsSec x)).count ≠ 0 ∨ (s.cellAt t).looping (gsSec x) = true → runEngine .gs x s = .block none false s)) ∧
  (∀ (c : Cell) (sec n : Nat), sec < 8 → ((c.arm sec n).sectionAt sec).count = min ((c.sectionAt sec).count + n) 0xFFFF_FFFF) ∧
  (∀ (c : CellId) (e : Engine) (t : HeldToken) (r : List HeldToken) (s : State), ((s.cellAt c).engine e).held = t :: r → ((s.cellAt c).chanAt t.chan).room = true →
    (s.cellAt c).stopped = false →
      exec (.completionTokenEntry c e) s = .next (s.atCell c fun x =>
        ((((x.putEngine e { x.engine e with held := r }).tokenIn t).mergeFlags t.flags).slotDown t.sb).engineFree e)) ∧
  (∀ (c : CellId) (l : Cmd) (r : List Cmd) (s : State), (s.cellAt c).mx.q = l :: r → (s.cellAt c).stopped = false → s.active (s.cellAt c) = true → l.verb = 9 →
    l.begun = true → l.note = 0 → ((s.cellAt c).sectionAt (loopSec l)).count ≠ 0 →
    ∃ t, exec (.loopTake c) s = .next t ∧ ((t.cellAt c).mx.q.map Cmd.note).head? = some ((s.cellAt c).sectionAt (loopSec l)).count ∧
      ((t.cellAt c).sectionAt (loopSec l)).count = 0 ∧ t.pkg = s.pkg) ∧
  (∀ (wid : BitVec 2) (w : Walk) (hdr : Word) (i : Nat) (s : State), s.cell.stopped = false → s.active s.cell = true → s.cell.walkAt wid.toNat = some w →
    w.following = some (hdr, i) → w.pages ≠ [] → w.pages.length < 5 → w.ftabDue = false → (∀ p ∈ w.pages, p.stale = false) →
    (∀ p t, readHeader .kv w.cap hdr i s = .ok p t →
      exec (.lookaheadFill s.here wid) s = .next ((meetTier wid.toNat p (t.onCell (Cell.onWalk wid.toNat (Walk.hold p)))).focus s.here))) ∧
  ∀ (wid : BitVec 2) (w : Walk) (p : Page) (tier : BitVec 2) (t s : State), s.cell.stopped = false → s.active s.cell = true → s.cell.walkAt wid.toNat = some w →
    (w.pages.filter fun p => !p.stale && p.tier != 0 && p.err == 0) = [p] → readTier p.hdr s = .ok tier t →
      exec (.tierPoll s.here wid) s = .next ((t.onCell (Cell.onWalk wid.toNat fun w =>
        { w with pages := w.pages.map fun q => if q.index == p.index then { q with tier := tier } else q })).focus s.here)

/-! ### Remote instructions, conversations and the trust domain (R352-R371, R383-R392, R407, R408) -/

/-- R355: `rld` sends a load and leaves its destination PENDING, 128 bytes for a line of the cell's own store; R355, R358, R359: `rst` and `rst.o`
send a write, which is counted in S, and go on, `rst.o` with the S values of its target; R352, R353: misaligned and malformed operands are refused;
R369: a failed peer is a fault of a load, and fails a write. When such an instruction is held, and that a package outside the own trust domain counts
as a failed peer, are the choices of logs 39 and 40. -/
def Obligations.RemoteLoadsAndStores : Prop :=
  (∀ (d a b : XIdx) (u : Bool) (z : BitVec 3) (A W : Word) (s : State), z.toNat < 6 → s.HasX a A → s.HasX b W →
    (z = 5 → ∃ L, s.HasX d L ∧ L.toNat % 128 = 0 ∧ ∃ off, regionOf L = .cell off) →
    let n := remoteSize z
    let t' : Byte := W.setWidth 8
    (A.toNat % n = 0 → remoteForm A n ≠ .none → W.extractLsb' 11 53 = 0 → s.cell.acquiring = false → s.Reaches t' → s.cell.buffers < 32 →
      (z.toNat < 4 → s.FreeX d → ∃ t acc, exec (.rld d a b u z) s = .next t ∧ s.Issued t acc ∧ acc.op = .await ∧ acc.dst = .x d ∧ s.Requested t t' (fixOf W) (.load A n) (some acc.id) false) ∧
      (z = 4 → s.FreeV d → ∃ t acc, exec (.rld d a b u z) s = .next t ∧ s.Issued t acc ∧ acc.op = .await ∧ acc.dst = .v d ∧
        s.Requested t t' (fixOf W) (.load A n) (some acc.id) false) ∧
      (z = 5 → ∀ L off, s.HasX d L → L.toNat % 128 = 0 → regionOf L = .cell off → ∃ t acc, exec (.rld d a b u z) s = .next t ∧ s.Issued t acc ∧ acc.op = .awaitLine off ∧
        acc.dst = .none ∧ s.Requested t t' (fixOf W) (.load A n) (some acc.id) false)) ∧
    (A.toNat % n ≠ 0 → exec (.rld d a b u z) s = .next (raise cMISALIGNED 0 (A.setWidth 32) s)) ∧
    (A.toNat % n = 0 → remoteForm A n = .none ∨ W.extractLsb' 11 53 ≠ 0 → exec (.rld d a b u z) s = .next (raise cACCESS 0 (A.setWidth 32) s)) ∧
    (A.toNat % n = 0 → remoteForm A n ≠ .none → W.extractLsb' 11 53 = 0 → s.cell.acquiring = false →
      (s.pkg.cutOff t' = true → s.pkg.trust.barrier = none → s.fencing = false → exec (.rld d a b u z) s = .next (raise cPEER_FAIL 0 (t'.setWidth 32) s)) ∧
      (s.pkg.cutOff t' = false ∨ s.pkg.trust.barrier ≠ none ∨ s.fencing = true → s.linkHeld t' = true → exec (.rld d a b u z) s = .next (hold .staying s)))) ∧
  (∀ (d a b : XIdx) (z : BitVec 3) (A W : Word) (data : List Byte) (bad : List (Nat × Nat)) (s : State), s.HasX a A → s.HasX b W →
    let n := remoteSize z
    let t' : Byte := W.setWidth 8
    (z.toNat < 4 ∧ bad = [] ∧ ∃ D, s.HasX d D ∧ data = bytesOf n D.toNat) ∨ (z = 4 ∧ bad = [] ∧ ∃ V, s.HasV d V ∧ data = bytesOfLanes V.lanes.toList) ∨
      (z = 5 ∧ s.cell.cellPending = false ∧ ∃ D off, s.HasX d D ∧ D.toNat % 128 = 0 ∧ regionOf D = .cell off ∧ data = s.cell.load off 128 ∧ bad = s.cell.poisonIn off 128) →
    (A.toNat % n = 0 → remoteForm A n ≠ .none → W.extractLsb' 11 53 = 0 → s.cell.acquiring = false →
      (s.Reaches t' → ∃ t, exec (.rst d a b z) s = .next t ∧ t.cell = (advance 4 s).cell ∧ t.pkg.mem = s.pkg.mem ∧
        s.Requested t t' (fixOf W) (.store A data bad) none true) ∧
      (s.pkg.cutOff t' = true → s.pkg.trust.barrier = none → s.fencing = false → exec (.rst d a b z) s = .next (advance 4 (s.onCell (Cell.failedWrite t')))) ∧
      (s.pkg.cutOff t' = false ∨ s.pkg.trust.barrier ≠ none ∨ s.fencing = true → s.linkHeld t' = true → exec (.rst d a b z) s = .next (hold .staying s))) ∧
    (A.toNat % n = 0 → remoteForm A n = .none ∨ W.extractLsb' 11 53 ≠ 0 → exec (.rst d a b z) s = .next (raise cACCESS 0 (A.setWidth 32) s)) ∧
    (A.toNat % n ≠ 0 → exec (.rst d a b z) s = .next (raise cMISALIGNED 0 (A.setWidth 32) s))) ∧
  (∀ (d a b : XIdx) (z : BitVec 2) (A W D : Word) (s : State), s.HasX a A → s.HasX b W → s.HasX d D →
    let n := 2 ^ z.toNat
    let t' : Byte := W.setWidth 8
    (A.toNat % n = 0 → remoteForm A n ≠ .none → W.extractLsb' 11 53 = 0 → s.cell.acquiring = false → s.Reaches t' →
      ∃ t, exec (.rstO d a b z) s = .next t ∧ t.cell = (advance 4 s).cell ∧ t.pkg.mem = s.pkg.mem ∧
        s.Requested t t' (fixOf W) (.flag A (bytesOf n D.toNat) (s.pkg.peer t').s.toList) none true) ∧
    (A.toNat % n = 0 → remoteForm A n = .none ∨ W.extractLsb' 11 53 ≠ 0 → exec (.rstO d a b z) s = .next (raise cACCESS 0 (A.setWidth 32) s)) ∧
    (A.toNat % n ≠ 0 → exec (.rstO d a b z) s = .next (raise cMISALIGNED 0 (A.setWidth 32) s)))

/-- R362: `ramo` sends a recipe once its release is done, with a destination PENDING and an acquire in the returning form; R371: `rfence` writes the
status of the remote writes it covers once all are acknowledged, and holds until then; R366: `mcred` sends the bytes of a contribution to the home of
its group; R365: `grp.set` installs or removes a group. Logs 39 (holds), 40 (what counts as a failed peer) and 45 (groups) name what the model chose
there. -/
def Obligations.RemoteAtomicsFencesAndGroups : Prop :=
  (∀ (d a b : XIdx) (w ret : Bool) (n : BitVec 6) (A W A0 A1 : Word) (s : State), s.HasX a A → s.HasX b W → s.HasX d A0 → s.HasX (d + 1) A1 →
    let size := (recipeBytes s.cell.k.ctx n.toNat w s.pkg).getD 1
    let op : RemoteOp := .recipe A n w ret A0 A1 s.cell.k.rm s.cell.k.sat
    let t' : Byte := W.setWidth 8
    (A.toNat % size = 0 → remoteForm A size ≠ .none → W.extractLsb' 11 53 = 0 → s.Past s.cell.releaseSet → s.cell.acquiring = false → s.Reaches t' →
      (ret = true → s.cell.buffers < 32 → ∃ t acc, exec (.ramo d a b w ret n) s = .next t ∧ s.Issued t acc ∧ acc.op = .await ∧ acc.dst = .x d ∧ acc.acq = true ∧
        s.Requested t t' (fixOf W) op (some acc.id) false) ∧
      (ret = false → ∃ t, exec (.ramo d a b w ret n) s = .next t ∧ t.cell = (advance 4 s).cell.unfence ∧ s.Requested t t' (fixOf W) op none true)) ∧
    (A.toNat % size ≠ 0 → exec (.ramo d a b w ret n) s = .next (raise cMISALIGNED 0 (A.setWidth 32) s))) ∧
  (∀ (d : XIdx) (s : State),
    (∀ failed, s.cell.pend = .rfence [] failed ∨ (s.cell.pend = .none ∧ s.FreeX d ∧ s.writesOf = [] ∧ s.cell.failedTo = failed) →
      ∃ t, exec (.rfence d) s = .next t ∧ t.cell.pc = s.cell.pc + 4 ∧ t.pkg = s.pkg ∧ t.cell.pend = .none ∧ (∀ n, n ≠ d → t.cell.xreg n = s.cell.xreg n) ∧
        (d ≠ 0 → (t.cell.xreg d).st = .full ∧ (failed = [] → (t.cell.xreg d).val = 0) ∧
          ∀ u ∈ failed, (∀ v ∈ failed, u.toNat ≤ v.toNat) → (t.cell.xreg d).val = u.setWidth 64 <<< 8 ||| cPEER_FAIL.setWidth 64)) ∧
    (s.cell.pend = .none → s.cell.cur ≠ none → s.FreeX d → s.writesOf ≠ [] →
      ∃ t, exec (.rfence d) s = .next t ∧ t.cell.hold = some (.expiring .covered) ∧ t.cell.pend = .rfence s.writesOf s.cell.failedTo ∧ t.cell.pc = s.cell.pc) ∧
    ∀ q l failed, s.cell.pend = .rfence (q :: l) failed → exec (.rfence d) s = .next (hold (.expiring .covered) s)) ∧
  (∀ (d a b : XIdx) (A : Word) (g : Byte) (x : Group) (off : Nat) (s : State), s.HasX a A → s.HasX b (g.setWidth 64) → s.pkg.group s.cell.k.ctx g = some x →
    A.toNat / 128 = (A.toNat + x.bytes - 1) / 128 → region A x.bytes = .cell off → s.cell.damagedAt off x.bytes = false → s.cell.cellPending = false → s.FreeX d →
    s.cell.acquiring = false → s.Reaches x.home → s.Past [] → s.cell.buffers < 32 →
      ∃ t acc, exec (.mcred d a b) s = .next t ∧ s.Issued t acc ∧ acc.op = .await ∧ acc.dst = .x d ∧ acc.acq = true ∧
        s.Requested t x.home none (.contrib x.g x.mine (s.cell.load off x.bytes)) (some acc.id) false) ∧
  (∀ (d a b : XIdx) (A : Word) (g : Byte) (x : Group) (data : List Byte) (p : Package) (s : State), s.HasX a A → s.HasX b (g.setWidth 64) →
    s.pkg.group s.cell.k.ctx g = some x → A.toNat / 128 = (A.toNat + x.bytes - 1) / 128 → region A x.bytes = .global →
    readVirtual s.cell.k.ctx A.toNat x.bytes s.pkg = (.ok (data, false), p) → s.cell.cellPending = false → s.FreeX d → s.cell.acquiring = false → s.Past s.cell.releaseSet →
    s.Reaches x.home → s.cell.buffers < 32 →
      ∃ t, exec (.mcred d a b) s = .next t ∧ t.cell.pc = s.cell.pc + 4 ∧ (d ≠ 0 → (t.cell.xreg d).st = .pending) ∧
        ({ s with pkg := p } : State).Requested t x.home none (.contrib x.g x.mine data) (some s.cell.nextId) false) ∧
  (∀ (d a b : XIdx) (A B : Word) (s : State), s.HasX a A → s.HasX b B → s.cell.k.lvl = false → exec (.grpSet d a b) s = .next (raise cPRIVILEGED 0 0 s)) ∧
  ∀ (d a b : XIdx) (A B : Word) (s : State), s.HasX a A → s.HasX b B → s.cell.k.lvl = true → s.FreeX d → s.cell.acquiring = false → A.extractLsb' 9 55 = 0 →
    (∀ y ∈ s.cell.inflight, y.id ≠ s.cell.nextId) →
    let g : Byte := A.setWidth 8
    let ctx := s.cell.k.ctx
    (32 ≤ s.cell.buffers → exec (.grpSet d a b) s = .next (hold .staying s)) ∧
    (s.cell.buffers < 32 →
    (A.getLsbD 8 = false → s.pkg.group ctx g = none →
      ∃ t acc, exec (.grpSet d a b) s = .next t ∧ s.Issued t acc ∧ acc.op = .value (cACCESS.setWidth 64) 0 ∧ acc.dst = .x d) ∧
    (∀ x, A.getLsbD 8 = false → s.pkg.group ctx g = some x → x.contribs = [] →
      ∃ t, exec (.grpSet d a b) s = .next t ∧ t.cell.pc = s.cell.pc + 4 ∧ t.pkg.group ctx g = none ∧ (x.home = s.pkg.number → (ctx, g) ∈ t.pkg.removed) ∧ (d ≠ 0 → t.cell.xreg d = ⟨0, .full⟩)) ∧
    (A.getLsbD 8 = true → B.toNat % 128 ≠ 0 →
      ∃ t acc, exec (.grpSet d a b) s = .next t ∧ s.Issued t acc ∧ acc.op = .value (cMISALIGNED.setWidth 64) 0 ∧ acc.dst = .x d) ∧
    (∀ off, A.getLsbD 8 = true → B.toNat % 128 = 0 → region B 128 = .cell off → s.cell.damagedAt off 128 = false → s.cell.cellPending = false →
      let x := groupFrom ctx g (s.cell.load off 128)
      (installStatus x (s.cell.load off 128) s.pkg ≠ 0 →
        ∃ t acc, exec (.grpSet d a b) s = .next t ∧ s.Issued t acc ∧ acc.op = .value ((installStatus x (s.cell.load off 128) s.pkg).setWidth 64) 0 ∧ acc.dst = .x d) ∧
      (installStatus x (s.cell.load off 128) s.pkg = 0 → s.pkg.group ctx g = none → s.pkg.early = [] →
        ∃ t, exec (.grpSet d a b) s = .next t ∧ t.cell.pc = s.cell.pc + 4 ∧ t.pkg.group ctx g = some x ∧ (d ≠ 0 → t.cell.xreg d = ⟨0, .full⟩))) ∧
    ∀ l p, A.getLsbD 8 = true → B.toNat % 128 = 0 → region B 128 = .global → readVirtual ctx B.toNat 128 s.pkg = (.ok (l, false), p) → s.cell.cellPending = false →
      installStatus (groupFrom ctx g l) l p = 0 → p.group ctx g = none → p.early = [] →
        ∃ t, exec (.grpSet d a b) s = .next t ∧ t.cell.pc = s.cell.pc + 4 ∧ t.pkg.group ctx g = some (groupFrom ctx g l) ∧ (d ≠ 0 → t.cell.xreg d = ⟨0, .full⟩))

/-- R386, R387, R392: `cv.open`, `cv.bind` and `cv.state` ask the home and leave their destination PENDING for its answer; from a failed home the
answer is at once that of a broken conversation. R389: `cv.recv` and `cv.offer` take the oldest message of an endpoint, and park on an empty one. Logs
39 (holds) and 40 (what counts as a failed home) name what the model chose there. -/
def Obligations.ConversationRequestsAndMessages : Prop :=
  (∀ (d a b : XIdx) (H A : Word) (off : Nat) (s : State), s.HasX a H → s.HasX b A → H.extractLsb' 8 56 = 0 → A.toNat % 64 = 0 → s.cell.cellPending = false →
    region A 8 = .cell off → s.cell.damagedAt off 8 = false →
    let n := ofBytes (s.cell.load off 8) % 2048
    1 ≤ n → n ≤ 1024 → region A (8 * (n + 1)) = .cell off → s.cell.damagedAt off (8 * (n + 1)) = false → s.cell.acquiring = false → s.FreeX d →
      (s.Reaches (H.setWidth 8) → s.cell.buffers < 32 → ∃ t acc, exec (.cvOpen d a b) s = .next t ∧ s.Issued t acc ∧ acc.op = .await ∧ acc.dst = .x d ∧
        s.Requested t (H.setWidth 8) none (.convOpen (some (wordsOfBytes (n + 1) (s.cell.load off (8 * (n + 1)))))) (some acc.id) false) ∧
      (s.pkg.cutOff (H.setWidth 8) = true → s.pkg.trust.barrier = none → s.fencing = false → ∃ t acc, exec (.cvOpen d a b) s = .next t ∧ s.Issued t acc ∧
        acc.op = .value (0x8000_0000_0000_0000 ||| cPEER_FAIL.setWidth 64) 0 ∧ acc.dst = .x d)) ∧
  (∀ (d a b : XIdx) (H A : Word) (l m : List Byte) (p q : Package) (s : State), s.HasX a H → s.HasX b A → H.extractLsb' 8 56 = 0 → A.toNat % 64 = 0 → s.cell.cellPending = false →
    region A 8 = .global → readVirtual s.cell.k.ctx A.toNat 8 s.pkg = (.ok (l, false), p) →
    let n := (wordOfBytes l).toNat % 2048
    1 ≤ n → n ≤ 1024 → region A (8 * (n + 1)) = .global → readVirtual s.cell.k.ctx A.toNat (8 * (n + 1)) p = (.ok (m, false), q) → s.cell.acquiring = false → s.FreeX d →
    ({ s with pkg := q } : State).Reaches (H.setWidth 8) → s.cell.buffers < 32 →
      ∃ t, exec (.cvOpen d a b) s = .next t ∧ t.cell.pc = s.cell.pc + 4 ∧ (d ≠ 0 → (t.cell.xreg d).st = .pending) ∧
        ({ s with pkg := q } : State).Requested t (H.setWidth 8) none (.convOpen (some (wordsOfBytes (n + 1) m))) (some s.cell.nextId) false) ∧
  (∀ (d a b : XIdx) (H A : Word) (s : State), s.HasX a H → s.HasX b A → H.extractLsb' 8 56 = 0 → s.cell.cellPending = false → A.toNat % 64 = 0 → region A 8 = .none →
    s.cell.acquiring = false → s.FreeX d → s.Reaches (H.setWidth 8) → s.cell.buffers < 32 →
      ∃ t acc, exec (.cvOpen d a b) s = .next t ∧ s.Issued t acc ∧ acc.op = .await ∧ acc.dst = .x d ∧ s.Requested t (H.setWidth 8) none (.convOpen none) (some acc.id) false) ∧
  (∀ (d a b : XIdx) (W B : Word) (s : State), s.HasX a W → s.HasX b B → B.extractLsb' 5 59 = 0 →
    let C := s.cell.chanAt (B.setWidth 5)
    (C.en = true → C.latest = false → C.tgt.toNat < 64 → C.circuit = false → s.cell.acquiring = false → s.FreeX d →
      (s.Reaches (cvHome W) → s.cell.buffers < 32 → ∃ t acc, exec (.cvBind d a b) s = .next t ∧ s.Issued t acc ∧ acc.op = .await ∧ acc.dst = .x d ∧
        s.Requested t (cvHome W) none (.convBind W (B.setWidth 5) C.depth) (some acc.id) false) ∧
      (s.pkg.cutOff (cvHome W) = true → s.pkg.trust.barrier = none → s.fencing = false → ∃ t acc, exec (.cvBind d a b) s = .next t ∧ s.Issued t acc ∧ acc.op = .value (cCONV_BROKEN.setWidth 64) 0 ∧ acc.dst = .x d)) ∧
    (C.en = false ∨ C.latest = true ∨ 64 ≤ C.tgt.toNat ∨ C.circuit = true → exec (.cvBind d a b) s = .next (raise cCHANNEL_FORMAT (B.setWidth 8) 0 s))) ∧
  (∀ (d a b : XIdx) (W B : Word) (s : State), s.HasX a W → s.HasX b B → s.cell.acquiring = false → s.FreeX d →
    (s.Reaches (cvHome W) → s.cell.buffers < 32 → ∃ t acc, exec (.cvState d a b) s = .next t ∧ s.Issued t acc ∧ acc.op = .await ∧ acc.dst = .x d ∧ acc.acq = true ∧
      s.Requested t (cvHome W) none (.convState W (if b = 0 then none else some (B.setWidth 8))) (some acc.id) false) ∧
    (s.pkg.cutOff (cvHome W) = true → s.pkg.trust.barrier = none → s.fencing = false → ∃ t acc, exec (.cvState d a b) s = .next t ∧ s.Issued t acc ∧ acc.op = .value (0x8000_0000_0000_0300) 0 ∧ acc.dst = .x d)) ∧
  ∀ (d : XIdx) (a : XIdx) (c : ChIdx) (p : PIdx) (W : Word) (s : State), s.HasX a W → (s.cell.chanAt c).fit = true →
    ((s.cell.chanAt c).pkts = [] → s.pkg.cutOff (cvHome W) = false →
      exec (.cvRecv d a c p) s = .next (park (.turn W) s) ∧ exec (.cvOffer d a c) s = .next (park (.turn W) s)) ∧
    (∀ h, (s.cell.chanAt c).pkts = [] → s.pkg.cutOff (cvHome W) = true → h = 0x9800_0000#32 ||| (cvEntry W).setWidth 32 → s.TakesMessages →
      (s.FreeV d → ∃ t acc, exec (.cvRecv d a c p) s = .next t ∧ s.Issued t acc ∧ acc.op = .packet [h] ∧ acc.dst = .v d ∧ (p ≠ 0 → t.cell.pred p = false)) ∧
      (s.FreeX d → ∃ t acc, exec (.cvOffer d a c) s = .next t ∧ s.Issued t acc ∧ acc.op = .value (h.setWidth 64) 0 ∧ acc.dst = .x d)) ∧
    (∀ m r, (s.cell.chanAt c).pkts = m :: r → m.psn = true →
      exec (.cvRecv d a c p) s = .next (raise cUNCORRECTABLE 0 0 s) ∧ exec (.cvOffer d a c) s = .next (raise cUNCORRECTABLE 0 0 s)) ∧
    ∀ m r, (s.cell.chanAt c).pkts = m :: r → m.psn = false →
      ((m.lanes.headD 0).extractLsb' 0 12 = cvEntry W → s.TakesMessages →
        (s.FreeV d → ∃ t acc, exec (.cvRecv d a c p) s = .next t ∧ s.Issued t acc ∧ acc.op = .packet m.lanes ∧ acc.dst = .v d ∧ (t.cell.chanAt c).pkts = r ∧ t.cell.l1 = [] ∧
          (p ≠ 0 → t.cell.pred p = !(m.lanes.headD 0).getLsbD 31)) ∧
        (s.FreeX d → ((m.lanes.headD 0).getLsbD 31 = true ∨ (m.lanes.headD 0).getLsbD 30 = true) →
          ∃ t acc, exec (.cvOffer d a c) s = .next t ∧ s.Issued t acc ∧ acc.op = .value ((m.lanes.headD 0).setWidth 64) 0 ∧ acc.dst = .x d ∧ (t.cell.chanAt c).pkts = r ∧
            t.cell.l1 = []) ∧
        ((m.lanes.headD 0).getLsbD 31 = false → (m.lanes.headD 0).getLsbD 30 = false → exec (.cvOffer d a c) s = .next (raise cCHANNEL_FORMAT (c.setWidth 8) 0 s))) ∧
      ((m.lanes.headD 0).extractLsb' 0 12 ≠ cvEntry W → exec (.cvRecv d a c p) s = .next (raise cCHANNEL_FORMAT (c.setWidth 8) 0 s) ∧
        exec (.cvOffer d a c) s = .next (raise cCHANNEL_FORMAT (c.setWidth 8) 0 s))

/-- R388, R390, R391: `cv.send`, `cv.choose`, `cv.deleg` and `cv.close` send their turn, delegation or close to the home at first issue, and take its
verdict when it is there: accepted writes 0, broken writes CONV_BROKEN, a role that is not the sender's is a fault, and a turn the state does not
allow traps. That a turn holds at issue on the accesses of its release before it is sent is log 39's, the DETAIL 0 of `cv.send`'s CHANNEL_FORMAT is log
20's, and what counts as a failed home is log 40's. -/
def Obligations.ConversationTurns : Prop :=
  (∀ (d a : XIdx) (b : VIdx) (B : XIdx) (v : Verdict) (w : Word) (full : Bool) (s : State), s.cell.pend = .verdict v w full →
    ∀ i ∈ [Instr.cvSend d a b, .cvChoose d a, .cvDeleg d a B, .cvClose d a],
      (v = .accepted → ∃ t, exec i s = .next t ∧ t.cell.pc = s.cell.pc + 4 ∧ t.cell.pend = .none ∧ t.pkg = s.pkg ∧ (d ≠ 0 → t.cell.xreg d = ⟨0, .full⟩) ∧
        (∀ n, n ≠ d → t.cell.xreg n = s.cell.xreg n) ∧ t.cell.v = s.cell.v) ∧
      (v = .broken → ∃ t, exec i s = .next t ∧ t.cell.pc = s.cell.pc + 4 ∧ t.cell.pend = .none ∧ t.pkg = s.pkg ∧ (d ≠ 0 → t.cell.xreg d = ⟨cCONV_BROKEN.setWidth 64, .full⟩)) ∧
      (v = .role → ∃ t, exec i s = .next t ∧ (s.cell.fault = none → t.cell.fault.map FaultRec.code = some cCONV_ROLE) ∧ t.pkg = s.pkg) ∧
      (∀ st, v = .turn st → s.cell.k.tven = true → s.cell.k.t = false → ∃ t, exec i s = .next t ∧ t.cell.k.t = true ∧ t.cell.pc = s.cell.k.vec ∧ t.cell.k.epc = s.cell.pc ∧
        t.cell.k.cause = st.setWidth 32 ++ 0#8 ++ (cvKind w).setWidth 8 ++ 0#8 ++ cCONV_TURN)) ∧
  (∀ (d a : XIdx) (b : VIdx) (W : Word) (P : VReg) (s : State), s.cell.pend = .none → s.cell.cur ≠ none → s.HasX a W → s.cell.k.t = false → s.cell.acquiring = false → s.FreeX d →
    (s.pkg.cutOff (cvHome W) = true → s.pkg.trust.barrier = none → s.fencing = false → exec (.cvClose d a) s = .next (advance 4 (setX d (cCONV_BROKEN.setWidth 64) (s.onCell (Cell.setPend .none))))) ∧
    (s.cell.releaseSet.any s.cell.flying = true →
      exec (.cvChoose d a) s = .next (hold (.expiring .covered) (s.onCell (Cell.setPend (.fence s.cell.releaseSet s.here s.cell.nextId))))) ∧
    (s.Reaches (cvHome W) →
      (s.HasV b P → P.length ≠ 8 → s.cell.releaseSet.any s.cell.flying = false → ∃ t, exec (.cvSend d a b) s = .next t ∧ s.Conversing t d W (.convTurn W false P.packet)) ∧
      (s.HasV b P → P.length = 8 → exec (.cvSend d a b) s = .next (raise cCHANNEL_FORMAT 0 0 s)) ∧
      (s.cell.releaseSet.any s.cell.flying = false → ∃ t, exec (.cvChoose d a) s = .next t ∧ s.Conversing t d W (.convTurn W true [])) ∧
      (∀ (B : XIdx) (T : Word), s.HasX B T → T.extractLsb' 27 37 = 0 → s.cell.releaseSet.any s.cell.flying = false →
        ∃ t, exec (.cvDeleg d a B) s = .next t ∧ s.Conversing t d W (.convDeleg W T)) ∧
      ∃ t, exec (.cvClose d a) s = .next t ∧ s.Conversing t d W (.convClose W))) ∧
  ∀ (d a : XIdx) (W : Word) (s : State), s.cell.pend = .none → s.HasX a W → s.cell.k.t = true → exec (.cvChoose d a) s = .next (raise cWAIT_ILLEGAL 0 0 s)

/-- R407: `td.bar` waits at runtime level for the epoch barrier of the pending membership, and ends with its status; where the epoch it names is not
pending it writes DOMAIN_EPOCH. R408: the fields of the word `td.stat` writes. -/
def Obligations.TrustDomainWords : Prop :=
  (∀ (d a : XIdx) (E : Word) (s : State), s.cell.k.lvl = true →
    (∀ v, s.cell.pend = .barrierDone v → ∃ t, exec (.tdBar d a) s = .next t ∧ t.cell.pc = s.cell.pc + 4 ∧ t.cell.l1 = [] ∧ t.cell.pend = .none ∧ t.pkg = s.pkg ∧
      (d ≠ 0 → t.cell.xreg d = ⟨v, .full⟩)) ∧
    (s.cell.pend = .none → s.HasX a E → s.FreeX d → (s.cell.fenceSet 2).any s.cell.flying = false → s.writesOf = [] →
      ((∀ mask epoch, s.pkg.trust.pending = some (mask, epoch) → epoch.setWidth 32 ≠ (E.setWidth 32 : W32)) →
        ∃ t, exec (.tdBar d a) s = .next t ∧ t.cell.pc = s.cell.pc + 4 ∧ t.cell.l1 = [] ∧ t.pkg = s.pkg ∧
          (d ≠ 0 → t.cell.xreg d = ⟨s.pkg.number.setWidth 64 <<< 8 ||| cDOMAIN_EPOCH.setWidth 64, .full⟩)) ∧
      (∀ mask epoch, s.pkg.trust.pending = some (mask, epoch) → epoch.setWidth 32 = (E.setWidth 32 : W32) → s.pkg.trust.barrier = none → s.pkg.writesOut = true →
        (s.pkg.othersOf mask).all (fun m => !(s.pkg.peer m).failed) = true → s.cell.cur ≠ none →
        ∃ t, exec (.tdBar d a) s = .next t ∧ t.cell.hold = some (.expiring .covered) ∧ t.pkg.trust.barrier = some ⟨false⟩ ∧ t.cell.pend = .barrier (E.setWidth 32) ∧
          t.cell.pc = s.cell.pc))) ∧
  (∀ (d a : XIdx) (s : State), s.cell.k.lvl = false → exec (.tdBar d a) s = .next (raise cPRIVILEGED 0 0 s)) ∧
  ∀ (d : XIdx) (s : State), s.FreeX d →
    ∃ v : Word, exec (.tdStat d) s = .next (s.wroteX d v) ∧ v.extractLsb' 32 32 = s.pkg.trust.epoch.setWidth 32 ∧ v.extractLsb' 24 8 = s.pkg.trust.epDrop ∧
      v.extractLsb' 16 8 = s.pkg.trust.sealF ∧ v.extractLsb' 2 6 = 0#6 ∧ v.getLsbD 1 = s.pkg.trust.barrier.isSome ∧ v.getLsbD 0 = s.pkg.trust.td ∧
      (v.extractLsb' 8 8).toNat = if s.pkg.trust.td then ((List.range 256).filter s.pkg.trust.mask.getLsbD).length - 1 else 0

/-! ### The link, groups and conversations at their home (R350-R397, R407) -/

/-- R356, R358, R359, R361: a new load, store, flag or recipe of another package is performed and answered: a load sends the bytes back, a store
writes them, is counted in Q and acknowledged, and a flag waits until the counts of its source cover it; a duplicate of an acknowledged write is
acknowledged again and performs nothing; in skid mode its acknowledgement waits for the tag of the run that it came in (R368). -/
def Obligations.RequestsAtTheTarget : Prop :=
  (∀ (src : Byte) (r : RemoteReq) (s u : State), s.TakesNew src r u →
    (∃ n, (∃ a, r.op = .load a n) ∨ (∃ a d b, r.op = .store a d b) ∨ (∃ a d c, r.op = .flag a d c) ∨ (∃ a k w ret x y rm sat, r.op = .recipe a k w ret x y rm sat)) →
      exec (.remoteRequestArrival src r) s = .next (barrierStep (performRequest src r u))) ∧
  (∀ (src : Byte) (r : RemoteReq) (u : State), src ≠ u.pkg.number → u.pkg.skidRun = [] →
    (∀ a n c off, r.op = .load a n → remoteForm a n = .cell c off → u.onBoardOf r.ctx c = true →
      let t := performRequest src r u
      u.Told t src r (.answer src r.seq (.bytes ((u.cellAt c).load off n) ((u.cellAt c).damagedAt off n))) ∧ t.pkg.mem = u.pkg.mem ∧ t.cell = u.cell ∧ t.others = u.others) ∧
    (∀ a n l bad p, r.op = .load a n → remoteForm a n = .global → readVirtual r.ctx a.toNat n u.pkg = (.ok (l, bad), p) →
      let t := performRequest src r u
      u.Told t src r (.answer src r.seq (.bytes l bad)) ∧ t.pkg.mem = p.mem ∧ t.cell = u.cell ∧ t.others = u.others) ∧
    (∀ a data c off, r.op = .store a data [] → remoteForm a data.length = .cell c off → u.onBoardOf r.ctx c = true →
      let t := performRequest src r u
      (t.cellAt c).store = ((u.cellAt c).storeAt off data).store ∧ u.Told t src r (.acknowledge src r.seq false) ∧ t.pkg.mem = u.pkg.mem ∧
        (t.pkg.peer src).q.toList.getD r.tag.toNat 0 = (u.pkg.peer src).q.toList.getD r.tag.toNat 0 + 1) ∧
    (∀ a data p l p', r.op = .store a data [] → remoteForm a data.length = .global → storeVirtual r.ctx a.toNat data u.pkg = (.ok (), p) →
      placeRange false true r.ctx a.toNat data.length p = (.ok l, p') →
      let t := performRequest src r u
      u.Told t src r (.acknowledge src r.seq false) ∧ t.pkg.mem = p'.mem ∧ t.cell = u.cell ∧ t.others = u.others) ∧
    (∀ a data counts, r.op = .flag a data counts →
      ((u.pkg.peer src).covers counts = true → performRequest src r u = performRemoteStore src r a data [] true u) ∧
      ((u.pkg.peer src).covers counts = false → r ∈ ((performRequest src r u).pkg.peer src).held ∧ u.Told (performRequest src r u) src r (.holdNotice src r.seq) ∧
        (performRequest src r u).pkg.mem = u.pkg.mem)) ∧
    (∀ a n c off, r.op = .load a n → remoteForm a n = .cell c off → u.onBoardOf r.ctx c = false → u.Told (performRequest src r u) src r (.refusal src r.seq false))) ∧
  (∀ (src : Byte) (r : RemoteReq) (a : Word) (data : List Byte) (bad : List (Nat × Nat)) (s : State), src ≠ s.pkg.number → (s.pkg.peer src).failed = false →
    (s.pkg.trust.td = true → r.sealed = true ∧ s.pkg.trust.mask.getLsbD src.toNat = true) → s.pkg.skidRun = [] → r.epoch = s.pkg.trust.epoch → (s.pkg.peer src).belowWindow r.seq = false → r.seq ∈ (s.pkg.peer src).seen → r.op = .store a data bad → s.pkg.trust.barrier = none →
    s.pkg.stillHeld src r.seq = false → ((s.pkg.peer src).results.all fun q => q.1 != r.seq) = true → ((s.pkg.peer src).refusals.all fun q => q.1 != r.seq) = true →
      let poisoned : Bool := (s.pkg.peer src).replies.any fun q => q.1 == r.seq && (match q.2.2 with | .acknowledge _ _ bad => bad | _ => false)
      ∃ t, exec (.remoteRequestArrival src r) s = .next t ∧ t.pkg.mem = s.pkg.mem ∧ t.cell = s.cell ∧ t.others = s.others ∧
        ((s.pkg.skid = false ∨ poisoned = true) → s.Told t src r (.acknowledge src r.seq poisoned)) ∧
        (s.pkg.skid = true → poisoned = false → t.pkg.skidRun = [⟨src, r.tag, r.port, r.seq, [], some (.acknowledge src r.seq false), false, true⟩] ∧
          t.pkg.outbox = s.pkg.outbox)) ∧
  ∀ (src : Byte) (seq : BitVec 48) (r : RemoteReq) (a : Word) (data : List Byte) (counts : List W32) (s : State),
    (s.pkg.peer src).held.find? (fun r => r.seq == seq) = some r → r.op = .flag a data counts →
    ((s.pkg.peer src).covers counts = true → exec (.orderedFlagRelease src seq) s =
      .next (barrierStep (performRemoteStore src r a data [] true (s.onPkg (Package.onPeer src fun P => { P with held := P.held.filter fun h => h.seq != seq }))))) ∧
    ((s.pkg.peer src).covers counts = false → exec (.orderedFlagRelease src seq) s = .next s)

/-- R355, R357, R358, R360, R371: what reaches the source of a request: an acknowledgement ends it and lets the fences that cover it go; an answer
lands in the destination, or is the verdict of the turn that waits; a refusal is a fault of the issuing cell with the remote address, and of a copy
with its element (R295); a poison mark is a fault with SEAL_FAIL; a negative notice and the end of the interval resend it on the next live path,
unless a hold notice has come since. R405, R409: in a trust domain a reply of an epoch that is over is dropped and counted, and one whose seal fails
is counted and answered with a negative notice; a reply that was refused at its source is sent again from what its target keeps (log 81). R351,
R368, R369, R208: a path dies with its port or by a notice; a run that ends early sends its tag; a failed tag is reported in containment mode, and
in skid mode it spoils every byte that the requests of its run wrote and acknowledges each with a poison mark; a peer that stays silent is declared
failed, which is recorded (R370); the doorbell lets a context's stalled accesses walk again. By which path a reply leaves whose own path is dead is
log 76's choice; which requests a run covers, by the port at which they arrived, is log 43's, and that damage is noted in units of 8 bytes is log
18's. -/
def Obligations.AnswersAndLinkEvents : Prop :=
  (
    ∀ (target : Byte) (head : ReplyHead) (o : OutReq) (s : State), s.TakesReply target head → s.pkg.outReq target head.seq = some o → s.pkg.trust.barrier = none →
      (o.write = true → ∃ t, exec (.remoteAcknowledgement target head false) s = .next t ∧ t.pkg.outReq target head.seq = none ∧ t.pkg.mem = s.pkg.mem ∧
        (o.req.cell = s.here → ∀ (h : BitVec 6) l f, (s.cell.handler h).pend = .rfence l f → (t.cell.handler h).pend = .rfence (l.filter (· != (target, head.seq))) f)) ∧
      (o.write = false → s.pkg.trust.td = false → exec (.remoteAcknowledgement target head false) s = .next s) ∧
      (o.gone = false → o.engine = false → o.req.cell = s.here → s.cell.fault = none → ∃ t f, exec (.remoteAcknowledgement target head true) s = .next t ∧
        t.pkg.outReq target head.seq = none ∧ t.cell.fault = some f ∧ f.code = cSEAL_FAIL ∧ f.info = target.setWidth 32 ∧ f.pc = o.pc ∧ f.word = o.word ∧ f.src = 0) ∧
      (∀ addr n data id a, o.req.op = .load addr n → o.req.cell = s.here → o.access = some id → s.cell.inflight.find? (·.id == id) = some a → a.op = .await → o.write = false →
        (∀ d, a.dst = .x d → d ≠ 0 → ∃ t, exec (.remoteReply target head (.bytes data false)) s = .next t ∧ t.pkg.outReq target head.seq = none ∧ t.pkg.mem = s.pkg.mem ∧
          t.cell.xreg d = ⟨if a.word.getLsbD 10 then wordOfBytes data else sextBytes data.length (ofBytes data), .full⟩ ∧ ∀ m, m ≠ d → t.cell.xreg m = s.cell.xreg m) ∧
        (∀ d, a.dst = .v d → data.length = 32 → ∃ t, exec (.remoteReply target head (.bytes data false)) s = .next t ∧ (t.cell.vreg d).packet = lanesOfBytes 8 data ∧
          (t.cell.vreg d).st = .full)) ∧
      (∀ addr n data id a off, o.req.op = .load addr n → o.req.cell = s.here → o.access = some id → s.cell.inflight.find? (·.id == id) = some a → a.op = .awaitLine off → o.write = false →
        ∃ t, exec (.remoteReply target head (.bytes data false)) s = .next t ∧ t.pkg.outReq target head.seq = none ∧ t.cell.store = (s.cell.storeAt off data).store) ∧
      (∀ addr n data, o.req.op = .load addr n → o.gone = false → o.engine = false → o.write = false → o.req.cell = s.here → s.cell.fault = none →
        ∃ t f, exec (.remoteReply target head (.bytes data true)) s = .next t ∧ t.cell.fault = some f ∧ f.code = cUNCORRECTABLE ∧ f.info = addr.setWidth 32 ∧ f.pc = o.pc) ∧
      (∀ v fl id a d, (o.req.op = .convOpen none ∨ (∃ img, o.req.op = .convOpen (some img)) ∨ (∃ w q, o.req.op = .convState w q) ∨ ∃ g k c, o.req.op = .contrib g k c) → o.req.cell = s.here →
        o.access = some id → s.cell.inflight.find? (·.id == id) = some a → a.dst = .x d → d ≠ 0 → a.gone = false → o.write = false →
        ∃ t, exec (.remoteReply target head (.status v fl)) s = .next t ∧ t.pkg.outReq target head.seq = none ∧ t.cell.xreg d = ⟨v, .full⟩ ∧
          t.cell.k.fflags = s.cell.k.fflags ||| fl ∧ (∀ m, m ≠ d → t.cell.xreg m = s.cell.xreg m) ∧ t.pkg.mem = s.pkg.mem) ∧
      (∀ (h : BitVec 6) w c l W full v, o.req.op = .convTurn w c l → o.gone = false → o.write = false → o.req.cell = s.here →
        (s.cell.handler h).pend = .request target o.req.epoch head.seq W full → ∃ t, exec (.remoteReply target head (.verdict v)) s = .next t ∧
          t.pkg.outReq target head.seq = none ∧ (t.cell.handler h).pend = .verdict v W full ∧ ((s.cell.handler h).st = .parked → (t.cell.handler h).st = .runnable)) ∧
      (∀ mis, o.gone = false → o.engine = false → o.req.cell = s.here → s.launchAt s.here = o.launch → s.cell.fault = none →
        ∃ t f, exec (.remoteRequestRefusal target head mis) s = .next t ∧ t.pkg.outReq target head.seq = none ∧ t.cell.fault = some f ∧
          f.code = (if mis then cMISALIGNED else cACCESS) ∧ f.pc = o.pc ∧ f.word = o.word ∧ f.src = 0 ∧
          ((∀ g k c, o.req.op ≠ .contrib g k c) → f.info = (remoteAddr o.req.op).setWidth 32)) ∧
      (∀ mis x, o.gone = false → o.engine = true → o.access = none → (∀ g k c, o.req.op ≠ .contrib g k c) → o.req.cell = s.here → s.launchAt s.here = o.launch → s.cell.fault = none →
        s.cell.cp.q.find? (fun x : Cmd => x.lane == 0 && x.begun) = some x →
        ∃ t f, exec (.remoteRequestRefusal target head mis) s = .next t ∧ t.pkg.outReq target head.seq = none ∧ t.cell.fault = some f ∧
          f.code = cENGINE_FAULT ∧ f.info = BitVec.ofNat 32 o.unit ∧ f.src = 2 ∧ f.pc = x.pc ∧ f.word = x.word0) ∧
      (∃ t, exec (.holdNotice target head) s = .next t ∧ t.pkg.outReq target head.seq = some { o with noticed := true } ∧ t.cell = s.cell ∧ t.others = s.others ∧ t.pkg.mem = s.pkg.mem ∧
        (s.pkg.trust.td = false → t = s.onPkg (Package.onOut target head.seq fun o => { o with noticed := true }))) ∧
      (o.noticed = true → exec (.resendTimeout target head.seq) s = .next (s.onPkg (Package.onOut target head.seq fun o => { o with noticed := false }))) ∧
      (s.pkg.trust.td = true → 2 ≤ o.refused → (target, head, Reply.negative false) ∉ s.pkg.trust.aheadReplies → exec (.negativeNotice target ⟨head, false⟩) s =
        .next (declareFailed target 2 (s.onPkg (Package.onPeer target fun P => { P with badRun := 0 })))) ∧
      ∀ i, (o.path = none → o.saved s.pkg = false) → s.pkg.livePath target (match o.path with | some j => j.toNat + 1 | none => o.req.tag.toNat) = some i →
        (s.pkg.trust.td = false ∨ o.refused < 2 → ∃ t o', exec (.negativeNotice target ⟨head, false⟩) s = .next t ∧ t.pkg.outReq target head.seq = some o' ∧ o'.path = some (BitVec.ofNat 2 i) ∧
          o'.req = o.req ∧ s.pkg.packet target o.req.tag o.req.seq (.request target (BitVec.ofNat 2 i) o.req) ∈ t.pkg.outbox ∧ t.cell = s.cell ∧ t.others = s.others) ∧
        (o.noticed = false → ∃ t o', exec (.resendTimeout target head.seq) s = .next t ∧ t.pkg.outReq target head.seq = some o' ∧ o'.path = some (BitVec.ofNat 2 i) ∧ o'.req = o.req ∧
          s.pkg.packet target o.req.tag o.req.seq (.request target (BitVec.ofNat 2 i) o.req) ∈ t.pkg.outbox ∧ t.cell = s.cell ∧ t.others = s.others)) ∧
  (
    ∀ (target : Byte) (head : ReplyHead) (s : State), s.TakesReply target head →
      (∀ q, (s.pkg.peer target).replies.find? (fun q => q.1 == head.seq) = some q → ∃ t, exec (.negativeNotice target ⟨head, true⟩) s = .next t ∧
        ((s.pkg.livePath target q.2.1.toNat).isSome = true → s.pkg.packet target q.2.1 head.seq q.2.2 ∈ t.pkg.outbox) ∧ t.cell = s.cell ∧ t.others = s.others ∧
        t.pkg.mem = s.pkg.mem ∧ (t.pkg.peer target).out = (s.pkg.peer target).out) ∧
      ((s.pkg.peer target).replies.find? (fun q => q.1 == head.seq) = none → ∃ t, exec (.negativeNotice target ⟨head, true⟩) s = .next t ∧
        t.pkg.outbox = s.pkg.outbox ∧ t.cell = s.cell ∧ t.others = s.others ∧ t.pkg.mem = s.pkg.mem ∧ (t.pkg.peer target).out = (s.pkg.peer target).out)) ∧
  (
    ∀ (target : Byte) (head : ReplyHead) (a : RemoteAnswer) (s : State), target ≠ s.pkg.number → (s.pkg.peer target).failed = false → s.pkg.trust.td = true →
      (head.epoch.toNat < s.pkg.trust.epoch.toNat → ∃ t, exec (.remoteReply target head a) s = .next t ∧ t.cell = s.cell ∧ t.pkg.peers = s.pkg.peers ∧
        (s.pkg.trust.epDrop ≠ 255 → t.pkg.trust.epDrop = s.pkg.trust.epDrop + 1)) ∧
      (head.epoch = s.pkg.trust.epoch → head.good = false → s.pkg.trust.barrier = none → (s.pkg.peer target).badRun < 2 →
        ∃ t, exec (.remoteReply target head a) s = .next t ∧ t.cell = s.cell ∧ t.pkg.mem = s.pkg.mem ∧ (t.pkg.peer target).out = (s.pkg.peer target).out ∧
          (t.pkg.peer target).badRun = (s.pkg.peer target).badRun + 1 ∧ (s.pkg.trust.sealF ≠ 255 → t.pkg.trust.sealF = s.pkg.trust.sealF + 1))) ∧
  (
    (∀ (port : BitVec 5) (s : State), ∃ hits : List (Byte × Nat), exec (.linkDown port) s =
        .next (emit (.pathDown port) (deadPaths hits (s.onPkg fun p => { p with
          runs := adel port.toNat p.runs, skidRun := p.skidRun.filter fun e => e.failed || e.port != port }))) ∧
      (∀ q ∈ hits, ∃ P, (BitVec.toNat q.1, P) ∈ s.pkg.peers.map (fun e => (e.1 % 256, e.2)) ∧ P.ports.toList.getD q.2 none = some port) ∧
      ∀ (t : Byte) (i : Nat), i < 4 → (s.pkg.peer t).ports.toList.getD i none = some port → (t, i) ∈ hits) ∧
    (∀ (first : Byte × BitVec 2) (others : List (Byte × BitVec 2)) (s : State),
      (∃ t, exec (.pathDownNotice first others) s = .next t ∧ t.cell = s.cell ∧ t.pkg.mem = s.pkg.mem ∧
        ∀ q ∈ first :: others, q.1 ≠ s.pkg.number → t.pkg.pathLive q.1 q.2.toNat = false) ∧
      ((∀ q ∈ first :: others, q.1 = s.pkg.number ∨ s.pkg.pathLive q.1 q.2.toNat = false) → exec (.pathDownNotice first others) s = .next s)) ∧
    (∀ (port : BitVec 5) (s : State), (aget s.pkg.runs port.toNat = none → exec (.runEnd port) s = .next s) ∧
      (∀ n, aget s.pkg.runs port.toNat = some n → ∃ t, exec (.runEnd port) s = .next t ∧ aget t.pkg.runs port.toNat = none ∧
        t.pkg.outbox = s.pkg.outbox ++ [.runTag port (s.pkg.tagOf port)] ∧ aget t.pkg.runCounts port.toNat = some ((aget s.pkg.runCounts port.toNat).getD 0 + 1) ∧
        t.cell = s.cell ∧ t.pkg.mem = s.pkg.mem) ∧
      (s.pkg.trust.td = false → s.pkg.tagOf port = .crc64) ∧
      (s.pkg.trust.td = true → ∃ key, s.pkg.tagOf port = .gmac key
        (s.pkg.trust.epoch.extractLsb' 0 30 ++ s.pkg.number ++ Config.neighbour port ++ 0#2 ++ BitVec.ofNat 48 ((aget s.pkg.runCounts port.toNat).getD 0)))) ∧
    (∀ (port : BitVec 5) (s : State), s.pkg.skid = false → s.pkg.skidRun = [] → exec (.linkRunTag port true) s = .next s ∧
      exec (.linkRunTag port false) s = .next (emit (.runRefused port) s)) ∧
    (∀ (port : BitVec 5) (e : SkidReq) (s : State), s.pkg.skidRun = [e] → e.failed = false → e.port = port →
      let sends (m : OutMsg) (t : State) : Prop := (s.pkg.livePath e.src e.tag.toNat).isSome = true → s.pkg.packet e.src e.tag e.seq m ∈ t.pkg.outbox
      let spoils (l : List (Option CellId × Nat × Nat)) (t : State) : Prop := (∀ c off n, (some c, off, n) ∈ l → ∀ u ∈ unitsTouched off n, sget false (t.cellAt c).badStore u = true) ∧
        ∀ key n, (none, key, n) ∈ l → ∀ u ∈ unitsTouched key n, sget false t.pkg.bad u = true
      (∀ m, e.msg = some m → ∃ t, exec (.linkRunTag port true) s = .next t ∧ t.pkg.skidRun = [] ∧ sends m t ∧ t.pkg.mem = s.pkg.mem ∧ t.pkg.bad = s.pkg.bad ∧ t.cell = s.cell) ∧
      (∃ t, exec (.linkRunTag port false) s = .next t ∧ sends (.acknowledge e.src e.seq true) t ∧ t.pkg.mem = s.pkg.mem ∧ spoils e.pieces t ∧
        t.pkg.skidRun = if e.msg.isNone && !e.again then [{ e with failed := true }] else []) ∧
      ∀ (r : RemoteReq) (m : OutMsg) (l : List (Option CellId × Nat × Nat)) (u : State), u.pkg.skidRun = [{ e with failed := true }] → e.src ≠ u.pkg.number → r.seq = e.seq →
        spoils l (respond e.src r m l u) ∧ (respond e.src r m l u).pkg.skidRun = [] ∧ (respond e.src r m l u).pkg.outbox = u.pkg.outbox) ∧
    (∀ (target : Byte) (s : State),
      ((s.pkg.peer target).out ≠ [] → exec (.peerFailure target 0) s = .next (declareFailed target 0 s)) ∧
      (s.pkg.pathCount target ≠ 0 → s.pkg.livePath target 0 = none → exec (.peerFailure target 1) s = .next (declareFailed target 1 s)) ∧
      ((s.pkg.peer target).out = [] → exec (.peerFailure target 0) s = .next s)) ∧
    (∀ (target : Byte) (cause : BitVec 2) (s : State), target ≠ s.pkg.number → (s.pkg.peer target).failed = false →
      (s.pkg.peer target).out.all (fun o => o.write && !o.engine) = true → (∀ b ∈ s.pkg.bindings, b.home ≠ target) → s.pkg.convs = [] → s.pkg.groups = [] → s.pkg.trust.barrier = none →
      ∃ w : Word, w.extractLsb' 0 8 = 7#8 ∧ w.extractLsb' 8 8 = cPEER_FAIL ∧ w.extractLsb' 16 16 = 0#16 ∧ w.extractLsb' 32 8 = target ∧ w.extractLsb' 40 2 = cause ∧
        w.extractLsb' 42 22 = 0#22 ∧
        (declareFailed target cause s).pkg = (s.pkg.contexts.foldl (fun u e => post (BitVec.ofNat 6 e.1) [w, BitVec.ofNat 64 (s.pkg.peer target).out.length, 0, 0, 0, 0, 0, 0] u)
          (s.onPkg (Package.onPeer target fun P =>
            { P with failed := true, out := [], held := P.held.filter fun r => match r.op with | .flag .. => false | _ => true }))).pkg) ∧
    (∀ (target : Byte) (o : OutReq) (s : State), o.gone = false → o.req.cell = s.here →
      (o.write = true → o.engine = false → target ∈ (failRequest target o s).cell.failedTo ∧ (failRequest target o s).pkg = s.pkg) ∧
      (∀ a n, o.req.op = .load a n → o.write = false → o.engine = false → s.cell.fault = none →
        (failRequest target o s).cell.fault.map FaultRec.code = some cPEER_FAIL ∧ (failRequest target o s).cell.fault.map FaultRec.info = some (target.setWidth 32))) ∧
    ∀ (ctx : BitVec 6) (a : Access) (l : Nat) (s : State), (s.pkg.groups.filter fun x : Group => x.ctx == ctx) = [] → s.pkg.peers = [] → s.pkg.trust.barrier = none →
      s.pkg.host.powered = true → 4 ≤ s.pkg.host.stage.toNat → s.pkg.host.held = false → s.others = [] → s.cell.k.ctx = ctx → s.cell.inflight = [a] → a.loc = .stall l → (∀ n x, a.op ≠ .stream n x) → (∀ n q, regionOf a.va ≠ .stream n q) →
      let cleared : Package := { s.pkg.onCtx ctx (fun c => { c with noticed := [], stalled := [] }) with
        flagWrites := s.pkg.flagWrites.map fun w => if w.ctx == ctx then { w with stalled := false } else w }
      let rd : Bool := match a.op with | .store _ _ | .storeV _ _ => false | _ => true
      (∀ pa attr p, translateFor rd a.writes ctx a.va cleared = (.ok (pa, attr), p) → ∃ t, exec (.resumeDoorbell .pf ctx) s = .next t ∧
        t.cell.inflight = [{ a with loc := .phys pa attr }] ∧ t.pkg.mem = s.pkg.mem ∧ ∀ e, (t.cell.engine e).q = (s.cell.engine e).q.map fun x => if x.ctx = ctx then { x with stalled := false } else x) ∧
      ∀ l' va p, translateFor rd a.writes ctx a.va cleared = (.stall l' va, p) → ∃ t, exec (.resumeDoorbell .pf ctx) s = .next t ∧ t.cell.inflight = [{ a with loc := .stall l' }])

/-- R366, R367, R377: a contribution is taken at the home of its group: early ones wait, others are refused, one for a closed round has that round's
mask. A round to which every member has contributed is complete: its result is the members' sum in their order, which is written at DST on the home
(MODE 0) or on every member (MODE 1), and then each member receives 0 (R376: where the write is refused on the home, its own member has the refused
result in place of the status); a round with a failed member is closed, as is one whose timeout expires: nothing is written and each member that
contributed receives the mask of the absent ones. R365: what waited for the end of the round takes effect then. R404, R407: a package sends its
barrier message sealed under the keys of the epoch to those that share them; in a domain a message is refused that is not the one its source is to
send, or whose seal fails (log 83), and any other is noted; the last one that is due derives the keys and switches the epoch, and a package outside
the pending membership leaves the domain; who waits for the end of the barrier has its status, also on a board that pre-emption has saved. That a
round with a failed member closes once a contribution is held, how a result whose write stalls waits, and the order of waiting `grp.set`s are log 45's,
DEDUCED. -/
def Obligations.GroupsAtTheHome : Prop :=
  (∀ (src : Byte) (r : RemoteReq) (g : Byte) (n : Nat) (data : List Byte) (s u : State), s.TakesNew src r u → r.op = .contrib g n data →
    exec (.groupContribution src r) s = .next (takeContrib src r g n data u)) ∧
  (∀ (src : Byte) (r : RemoteReq) (g : Byte) (n : Nat) (data : List Byte) (u : State), src ≠ u.pkg.number → u.pkg.skidRun = [] →
    let t := takeContrib src r g n data u
    (u.pkg.group r.ctx g = none → (r.ctx, g) ∉ u.pkg.removed → t.pkg.early = u.pkg.early ++ [⟨src, r, n, data⟩] ∧ u.Told t src r (.holdNotice src r.seq)) ∧
    (u.pkg.group r.ctx g = none → (r.ctx, g) ∈ u.pkg.removed → u.Told t src r (.refusal src r.seq false)) ∧
    ∀ x, u.pkg.group r.ctx g = some x →
      (x.home ≠ u.pkg.number ∨ src ∉ x.members ∨ data.length ≠ x.bytes → u.Told t src r (.refusal src r.seq false) ∧ t.pkg.groups = u.pkg.groups) ∧
      (x.home = u.pkg.number → src ∈ x.members → data.length = x.bytes → n < x.round →
        u.Told t src r (.answer src r.seq (.status ((aget x.closed n).getD 0) 0)) ∧ t.pkg.groups = u.pkg.groups) ∧
      (x.home = u.pkg.number → src ∈ x.members → data.length = x.bytes → x.round ≤ n →
        t = settleRounds r.ctx g (sendBack src r.tag r.seq (.holdNotice src r.seq) (u.onPkg (Package.putGroup { x with contribs := x.contribs ++ [⟨src, r, n, data⟩] }))))) ∧
  (∀ (ctx : BitVec 6) (g : Byte) (x : Group) (s : State), s.pkg.group ctx g = some x → x.home = s.pkg.number →
    let failed (m : Byte) : Bool := m != s.pkg.number && (s.pkg.peer m).failed
    (x.now = [] → settleRounds ctx g s = s) ∧
    (x.contribs = x.now → x.now ≠ [] → s.pkg.groupOps = [] → (∀ m ∈ x.members, ∃ c ∈ x.now, c.src = m) →
      settleRounds ctx g s = completeRound x s) ∧
    (x.contribs = x.now → x.now ≠ [] → s.pkg.groupOps = [] → (∃ m ∈ x.members, ∀ c ∈ x.now, c.src ≠ m) → (∃ m ∈ x.members, failed m = true) →
      settleRounds ctx g s = closeRound x (x.mask failed) s) ∧
    ((∃ m ∈ x.members, ∀ c ∈ x.now, c.src ≠ m) → (∀ m ∈ x.members, failed m = false) → settleRounds ctx g s = s)) ∧
  (∀ (x : Group) (s : State),
    let answers (a : Byte → RemoteAnswer) (t : State) : State := x.now.foldl (fun s c => respond c.src c.req (.answer c.src c.req.seq (a c.src)) [] s) (endRound x 0 t)
    (s.pkg.stalledAt x.ctx (.round x.g) = true → completeRound x s = s) ∧ (s.pkg.stalledAt x.ctx (.round x.g) = false →
    (∀ p, x.multicast = false → storeVirtual x.ctx x.dst.toNat x.result.1 s.pkg = (.ok (), p) → completeRound x s = answers (fun _ => .status 0 x.result.2) { s with pkg := p }) ∧
    (∀ p, x.multicast = true → s.pkg.number ∈ x.members → storeVirtual x.ctx x.dst.toNat x.result.1 s.pkg = (.ok (), p) →
      completeRound x s = answers (fun m => if m = s.pkg.number then .status 0 x.result.2 else .reduced x.dst x.result.1 x.result.2) { s with pkg := p }) ∧
    (x.multicast = true → s.pkg.number ∉ x.members → (∀ c ∈ x.now, c.src ≠ s.pkg.number) → completeRound x s = answers (fun _ => .reduced x.dst x.result.1 x.result.2) s) ∧
    (∀ p, x.multicast = false → storeVirtual x.ctx x.dst.toNat x.result.1 s.pkg = (.bad, p) →
      completeRound x s = answers (fun m => if m = s.pkg.number then .reduced x.dst x.result.1 x.result.2 else .status 0 x.result.2) { s with pkg := p }) ∧
    ∀ l v p, x.multicast = false → storeVirtual x.ctx x.dst.toNat x.result.1 s.pkg = (.stall l v, p) →
      completeRound x s = stallUnit (.round x.g) x.ctx (s.pkg.number.setWidth 14) 7 1 l v { s with pkg := p })) ∧
  (∀ (x : Group) (mask : Word) (s : State), s.pkg.groupOps = [] → s.pkg.skidRun = [] →
    (closeRound x mask s).pkg.mem = s.pkg.mem ∧ ∀ c ∈ x.now, c.src ≠ s.pkg.number → s.Told (closeRound x mask s) c.src c.req (.answer c.src c.req.seq (.status mask 0))) ∧
  (∀ (x : Group) (p : Byte → Bool) (i : Nat), i < x.members.length → x.members.length ≤ 64 → (x.mask p).getLsbD i = p (x.members.getD i 0)) ∧
  (∀ (c : Contrib) (o : OutReq) (a : Access) (id : Nat) (d : XIdx) (v : Word) (f : Flags) (s : State), c.src = s.pkg.number → s.pkg.outReq c.src c.req.seq = some o → o.req.cell = s.here →
    o.access = some id → s.cell.inflight.find? (·.id == id) = some a → a.dst = .x d → d ≠ 0 → o.write = false →
      (answerContrib c (.status v f) s).cell.xreg d = ⟨v, .full⟩ ∧ (a.acq = true → (answerContrib c (.status v f) s).cell.l1 = [])) ∧
  (∀ (x : Group) (a : Nat) (l : List Nat) (acc : Nat → Machine.Num × Flags), acc 0 = (valueOf x.inFmt a, 0) →
    (∀ i < l.length, acc (i + 1) = (let (t, f1) := addExact 0 (acc i).1 (valueOf x.inFmt (l.getD i 0))
      let (c, f2) := roundTo fFP32 rne 0 t
      (valueOf fFP32 c, (acc i).2 ||| f1 ||| f2))) →
    reduceElem x (a :: l) = (let (o, f) := roundTo x.outFmt rne 0 (acc l.length).1; (o, (acc l.length).2 ||| f))) ∧
  (∀ (x : Group) (cs : List Contrib), cs.map Contrib.src = x.members → (∀ c ∈ cs, c ∈ x.now) → (∀ c ∈ x.now, ∀ c' ∈ x.now, c.src = c'.src → c = c') →
    let elem (e : Nat) : Nat × Flags := reduceElem x (cs.map fun c => (elementsOfBytes x.inFmt (x.count + 1) c.data).getD e 0)
    x.result.1 = bytesOfElements x.outFmt ((List.range (x.count + 1)).map fun e => (elem e).1) ∧
    ∀ k, x.result.2.getLsbD k = true ↔ ∃ e ≤ x.count, (elem e).2.getLsbD k = true) ∧
  (∀ (ctx : BitVec 6) (g : Byte) (x : Group) (s : State), s.pkg.group ctx g = some x → x.home = s.pkg.number → x.gto ≠ 0 → x.now ≠ [] →
    (x.members.all fun m => x.now.any (·.src == m)) = false →
      exec (.groupTimeout ctx g) s = .next (settleRounds ctx g (closeRound x
        (x.mask fun m => !(x.now.any (·.src == m)) || (m != s.pkg.number && (s.pkg.peer m).failed)) s))) ∧
  (∀ (x : Group) (mask : Word) (s : State),
    (s.pkg.groupOps = [] → (endRound x mask s).pkg.group x.ctx x.g =
      some { x with round := x.round + 1, contribs := x.contribs.filter (fun c => c.round != x.round), closed := if mask = 0 then x.closed else x.closed ++ [(x.round, mask)] }) ∧
    ∀ q, s.pkg.groupOps = [q] → q.ctx = x.ctx → q.g = x.g → (endRound x mask s).pkg.groupOps = [] ∧
      (q.new = none → (endRound x mask s).pkg.group x.ctx x.g = none) ∧
      ∀ y, q.new = some y → y.ctx = x.ctx → y.g = x.g → ((endRound x mask s).pkg.group x.ctx x.g).map Group.round = some y.round) ∧
  (∀ (src : Byte) (ready : Bool) (q : ReplyHead) (s : State), src ≠ s.pkg.number → (s.pkg.peer src).failed = false → (src, q.epoch) ∉ s.pkg.trust.reports →
    s.pkg.trust.td = true → q.epoch = s.pkg.trust.epoch → s.pkg.trust.barrier = none → (s.pkg.peer src).badRun < 2 →
    (if s.pkg.trust.mask.getLsbD src.toNat then ready = true ∨ q.good = false else ready = false) →
      ∃ t, exec (.barrierMessage src ready q) s = .next t ∧ t.cell = s.cell ∧ t.pkg.trust.reports = s.pkg.trust.reports ∧ (t.pkg.peer src).badRun = (s.pkg.peer src).badRun + 1) ∧
  (∀ (epoch : Word) (m : Byte) (s : State),
    let report : OutMsg := .barrier m (!s.pkg.trust.td) epoch
    (s.pkg.trust.td = true → s.pkg.trust.mask.getLsbD m.toNat = true →
      ∃ tag : BitVec 2, .sealed ⟨(aget s.pkg.trust.keys m.toNat).map Prod.fst, s.pkg.trust.epoch.extractLsb' 0 30 ++ s.pkg.number ++ m ++ tag ++ (s.pkg.peer m).nextSeq, m, tag,
        (s.pkg.peer m).nextSeq⟩ report ∈ (sendReport epoch m s).pkg.outbox) ∧
    (s.pkg.trust.td = false ∨ s.pkg.trust.mask.getLsbD m.toNat = false → report ∈ (sendReport epoch m s).pkg.outbox)) ∧
  (∀ (epoch status : Word) (s : State) (l : Launch) (v : Saved) (c : Cell) (h : BitVec 6) (E : W32), l ∈ s.pkg.launches → v ∈ l.saved → c ∈ v.cells →
    (c.handler h).pend = .barrier E → ∃ l' ∈ (finishBarrier epoch status s).pkg.launches, ∃ v' ∈ l'.saved, ∃ c' ∈ v'.cells, l'.id = l.id ∧ v'.member = v.member ∧
      c'.x = c.x ∧ (c'.handler h).pend = .barrierDone status) ∧
  ∀ (src : Byte) (ready : Bool) (q : ReplyHead) (s : State), src ≠ s.pkg.number → (s.pkg.peer src).failed = false → (src, q.epoch) ∉ s.pkg.trust.reports →
    (s.pkg.trust.td = true → q.epoch = s.pkg.trust.epoch ∧ if s.pkg.trust.mask.getLsbD src.toNat then ready = false ∧ q.good = true else ready = true) →
    let noted := s.onPkg fun p => { p with trust := { p.trust with reports := p.trust.reports ++ [(src, q.epoch)] } }
    (s.pkg.trust.barrier = none → exec (.barrierMessage src ready q) s = .next noted) ∧
    ∀ mask e, s.pkg.trust.barrier = some ⟨true⟩ → s.pkg.trust.pending = some (mask, e) → (s.pkg.othersOf mask).all (fun m => !(s.pkg.peer m).failed) = true →
      (mask.getLsbD s.pkg.number.toNat = true → (s.pkg.othersOf mask).all (fun m => noted.pkg.trust.reports.contains (m, e - 1) && (s.pkg.prk m).isSome) = true →
        ∃ t, exec (.barrierMessage src ready q) s = .next t ∧ t.pkg.trust.td = true ∧ t.pkg.trust.epoch = e ∧ t.pkg.trust.mask = mask ∧ t.pkg.trust.pending = none ∧
          t.pkg.trust.barrier = none ∧ t.pkg.trust.keys = s.pkg.epochKeys mask e ∧ t.pkg.runCounts = [] ∧
          (∀ p ∈ t.pkg.peers, p.1 ≠ s.pkg.number.toNat → p.2.nextSeq = 0 ∧ p.2.seen = []) ∧
          (∀ (h : BitVec 6) E, (s.cell.handler h).pend = .barrier E → (t.cell.handler h).pend = .barrierDone 0)) ∧
      (mask.getLsbD s.pkg.number.toNat = false →
        ∃ t, exec (.barrierMessage src ready q) s = .next t ∧ t.pkg.trust.td = false ∧ t.pkg.trust.pending = none ∧ t.pkg.trust.barrier = none ∧
          (∀ (h : BitVec 6) E, (s.cell.handler h).pend = .barrier E → (t.cell.handler h).pend = .barrierDone (s.pkg.number.setWidth 64 <<< 8 ||| cDOMAIN_EPOCH.setWidth 64)))

/-- R378-R392: what the home of a conversation does with each request that it takes: an open finds a free entry, a bind an unbound role, a turn a
transition of the state, and waits where its messages find no place among the 16; each answer with its status or verdict. R383: a message with a
credit leaves for its endpoint, in the order of acceptance at each; R390: a delegate that is not fit breaks the conversation; R395, R396: a break
ends the conversation, with a notice to every endpoint still alive. What a delegation's notice counts for in the buffer, and which messages stay at
a break, are log 46's choice. -/
def Obligations.ConversationsAtTheHome : Prop :=
  (∀ (src : Byte) (r : RemoteReq) (s u : State), s.TakesNew src r u →
    (∀ img, r.op = .convOpen img →
      let err (c : Byte) : Host.Outcome State Fault Refusal := .next (answerConv src r (.status (0x8000_0000_0000_0000 ||| c.setWidth 64) 0) u)
      let room (img : List Word) : Prop := u.pkg.protocolStore + (if u.pkg.convs.any (fun e => e.2.image == img) then 0 else img.length - 1) ≤ 16384
      (img = none ∨ (∀ i < 4096, aget u.pkg.convs i ≠ none) → exec (.convOpenRequest src r) s = err cACCESS) ∧
      (∀ l, img = some l → ¬ room l → exec (.convOpenRequest src r) s = err cACCESS) ∧
      ∀ l i, img = some l → (List.range 4096).find? (fun i => (aget u.pkg.convs i).isNone) = some i → room l →
        (imageOk l = false → exec (.convOpenRequest src r) s = err cCONFIG_CHECK) ∧
        (imageOk l = true →
          let v : Conv :=
            { ctx := r.ctx, image := l, roles := ((l.headD 0).extractLsb' 16 3).toNat, trans := l.tail.map transOf, state := 0, turns := 0, brk := false, cause := 0,
              role := Vector.replicate 8 none, owner := Vector.replicate 8 none, credits := [], msgs := [], heldTurns := [], heldClose := [], closing := false, waiting := [] }
          exec (.convOpenRequest src r) s =
            .next (answerConv src r (.status (BitVec.ofNat 64 (u.pkg.number.toNat * 2 ^ 12 + i)) 0) (putConv (BitVec.ofNat 12 i) v u)))) ∧
    (∀ w ch depth v, r.op = .convBind w ch depth → u.pkg.conv (cvEntry w) r.ctx = some v →
      let status (c : Byte) : Host.Outcome State Fault Refusal := .next (answerConv src r (.status (c.setWidth 64) 0) u)
      (v.brk = true → exec (.convBindRequest src r) s = status cCONV_BROKEN) ∧
      (v.brk = false → v.roles < (cvRole w).toNat → exec (.convBindRequest src r) s = status cCONFIG_CHECK) ∧
      (v.brk = false → (cvRole w).toNat ≤ v.roles → (v.endpoint (cvRole w)).isSome = true → exec (.convBindRequest src r) s = status cACCESS) ∧
      (v.brk = false → (cvRole w).toNat ≤ v.roles → v.endpoint (cvRole w) = none →
        let e : Endpoint := ⟨src, r.cell, ch⟩
        let own := if src = u.pkg.number then u.launchOf r else none
        let v1 := (v.bindRole (cvRole w) (some e) own).openCredits (cvRole w) e depth
        exec (.convBindRequest src r) s = .next (answerConv src r (.status 0 0) (regrant (cvEntry w)
          (putConv (cvEntry w) { v1 with msgs := v1.msgs.map fun m => if m.role == cvRole w && m.dest.isNone then { m with dest := some e, own := own } else m }
            (u.onPkg (Package.pastEndings (cvEntry w) (cvRole w)))))))) ∧
    (∀ w choice lanes v, r.op = .convTurn w choice lanes → u.pkg.conv (cvEntry w) r.ctx = some v →
      let verdict (a : Verdict) : Host.Outcome State Fault Refusal := .next (answerConv src r (.verdict a) u)
      (v.brk = true → exec (.turnRequest src r) s = verdict .broken) ∧
      (v.brk = false → v.holder u src r (cvRole w) = false → exec (.turnRequest src r) s = verdict .role) ∧
      (v.brk = false → v.holder u src r (cvRole w) = true → (v.trans.all fun x => !(x.state == v.state && x.role == cvRole w && x.kind == cvKind w && x.choice == choice)) = true →
        exec (.turnRequest src r) s = verdict (.turn v.state)) ∧
      (∀ v1, v.decide u (cvEntry w) src r w choice lanes = .accepted v1 →
        exec (.turnRequest src r) s = .next (answerWaiting (cvEntry w) (answerConv src r (.verdict .accepted) (putConv (cvEntry w) v1 u)))) ∧
      (v.decide u (cvEntry w) src r w choice lanes = .held →
        exec (.turnRequest src r) s = .next (holdConv src r (putConv (cvEntry w) { v with heldTurns := v.heldTurns ++ [(src, r)] } u)))) ∧
    (∀ w target v, r.op = .convDeleg w target → u.pkg.conv (cvEntry w) r.ctx = some v →
      (v.brk = true → exec (.delegationRequest src r) s = .next (answerConv src r (.verdict .broken) u)) ∧
      (v.brk = false → v.holder u src r (cvRole w) = false → exec (.delegationRequest src r) s = .next (answerConv src r (.verdict .role) u)) ∧
      (∀ v1, v.decideDeleg u (cvEntry w) src r w target = .accepted v1 →
        exec (.delegationRequest src r) s = .next (answerWaiting (cvEntry w) (answerConv src r (.verdict .accepted) (putConv (cvEntry w) v1 u)))) ∧
      (v.decideDeleg u (cvEntry w) src r w target = .held →
        exec (.delegationRequest src r) s = .next (holdConv src r (putConv (cvEntry w) { v with heldTurns := v.heldTurns ++ [(src, r)] } u)))) ∧
    (∀ w v, r.op = .convClose w → u.pkg.conv (cvEntry w) r.ctx = some v →
      (v.brk = false → v.holder u src r (cvRole w) = false → exec (.closeRequest src r) s = .next (answerConv src r (.verdict .role) u)) ∧
      (v.brk = false → v.holder u src r (cvRole w) = true → v.terminal = true → v.msgs = [] →
        exec (.closeRequest src r) s = .next (answerConv src r (.verdict .accepted) (endConv (cvEntry w) v u))) ∧
      (v.brk = false → v.holder u src r (cvRole w) = true → v.terminal = true → v.msgs ≠ [] →
        exec (.closeRequest src r) s = .next (holdConv src r (putConv (cvEntry w) { v with heldClose := v.heldClose ++ [(src, r)] } u))) ∧
      (∀ v1, v.brk = false → v.holder u src r (cvRole w) = true → v.terminal = false → aget (breakConv (cvEntry w) 1 (cvRole w) u).pkg.convs (cvEntry w).toNat = some v1 →
        exec (.closeRequest src r) s = .next (answerConv src r (.verdict .accepted)
          (reapConv (cvEntry w) (putConv (cvEntry w) { v1 with closing := true } (breakConv (cvEntry w) 1 (cvRole w) u))))) ∧
      (v.brk = true → exec (.closeRequest src r) s =
        .next (answerConv src r (.verdict .broken) (if v.holder u src r (cvRole w) then unbindRole (cvEntry w) (cvRole w) u else u)))) ∧
    (∀ w want v, r.op = .convState w want → u.pkg.conv (cvEntry w) r.ctx = some v →
      (v.brk = true ∨ want = none ∨ want = some v.state → exec (.stateRequest src r) s = .next (answerConv src r (.status (stateWord v) 0) u)) ∧
      (∀ q, v.brk = false → want = some q → q ≠ v.state →
        exec (.stateRequest src r) s = .next (holdConv src r (putConv (cvEntry w) { v with waiting := v.waiting ++ [(src, r, q)] } u))))) ∧
  (∀ (v v1 : Conv) (entry : BitVec 12) (src : Byte) (r : RemoteReq) (w : Word) (choice : Bool) (lanes : List W32) (s : State),
    (v.decide s entry src r w choice lanes = .accepted v1 → v1.turns = v.turns + 1 ∧ v1.brk = false ∧
      ∃ x ∈ v.trans, x.state = v.state ∧ x.role = cvRole w ∧ x.kind = cvKind w ∧ x.choice = choice ∧ v1.state = x.next) ∧
    (∀ x, v.brk = false → v.holder s src r (cvRole w) = true →
      v.trans.find? (fun t => t.state == v.state && t.role == cvRole w && t.kind == cvKind w && t.choice == choice) = some x →
      v.buffered + ((List.range 8).filter x.recv.getLsbD).length ≤ 16 → ∃ v2, v.decide s entry src r w choice lanes = .accepted v2 ∧
        ∀ i : BitVec 3, x.recv.getLsbD i.toNat = true → ∃ m ∈ v2.msgs, m.role = i ∧ m.dest = v.endpoint i ∧
          m.lanes = cvHeader false choice (cvRole w) (cvKind w) x.next false entry :: lanes)) ∧
  (∀ (v v1 : Conv) (entry : BitVec 12) (src : Byte) (r : RemoteReq) (w target : Word) (s : State),
    let e : Endpoint := ⟨target.extractLsb' 19 8, target.extractLsb' 5 14, target.extractLsb' 0 5⟩
    (v.decideDeleg s entry src r w target = .accepted v1 → v1.endpoint (cvRole w) = some e ∧ v1.turns = v.turns + 1 ∧ v1.state = v.state ∧ v1.brk = false ∧
      ∃ m ∈ v1.msgs, m.role = cvRole w ∧ m.dest = some e ∧ m.lanes = [cvHeader false false (cvRole w) 0 v.state true entry]) ∧
    (v.brk = false → v.holder s src r (cvRole w) = true → v.buffered < 16 → ∃ v2, v.decideDeleg s entry src r w target = .accepted v2)) ∧
  (∀ (entry : BitVec 12) (role : BitVec 3) (v : Conv) (m : ConvMsg) (e : Endpoint) (s : State), aget s.pkg.convs entry.toNat = some v →
    v.msgs.find? (fun m => m.role == role && m.credit && !m.sent) = some m → m.dest = some e → v.msgs.find? (fun m => m.dest == some e && !m.sent) = some m →
    let dlg := (m.lanes.headD 0).getLsbD 12
    let without : Conv := { v with msgs := v.msgs.erase m }
    let fits : Bool := s.onBoardOf v.ctx e.cell && ((s.cellAt e.cell).chanAt e.ch).fit
    (e.pkg ≠ s.pkg.number → (s.pkg.peer e.pkg).failed = false →
      (dlg = false → exec (.messageDelivery (.buffered entry role)) s = .next (reapConv entry (putConv entry without (emit (.message e v.ctx entry role m.lanes) s)))) ∧
      (dlg = true → ∃ v1, exec (.messageDelivery (.buffered entry role)) s = .next (reapConv entry (putConv entry v1 (emit (.message e v.ctx entry role m.lanes) s))) ∧
        { m with sent := true } ∈ v1.msgs ∧ v1 = { v with msgs := v1.msgs })) ∧
    (e.pkg = s.pkg.number → (entry, role, e) ∉ s.pkg.endings →
      (s.onBoardOf v.ctx e.cell = true → s.moving (s.cellAt e.cell) = true → m.own = s.launchAt e.cell → m.own ≠ none ∨ dlg = false → dlg = false ∨ fits = true →
        exec (.messageDelivery (.buffered entry role)) s = .next ((reapConv entry (putConv entry without s)).atCell e.cell (Cell.takeMessage s.pkg.number entry role e.ch m.lanes))) ∧
      (fits = true → s.moving (s.cellAt e.cell) = true → m.own = none → dlg = true →
        ∃ v1, exec (.messageDelivery (.buffered entry role)) s = .next ((reapConv entry (putConv entry v1 s)).atCell e.cell (Cell.takeMessage s.pkg.number entry role e.ch m.lanes)) ∧
          (v.endpoint role = some e → v1.endpoint role = some e ∧ v1.ownerOf role = s.launchAt e.cell) ∧
          v1.msgs = without.msgs.map fun x => if x.dest == some e && x.own.isNone then { x with own := s.launchAt e.cell } else x) ∧
      (dlg = true → fits = false → m.own = none ∨ m.own = s.launchAt e.cell →
        exec (.messageDelivery (.buffered entry role)) s = .next (breakAt entry 0 role (some e) (putConv entry without s))))) ∧
  (∀ (entry : BitVec 12) (role : BitVec 3) (v : Conv) (m : ConvMsg) (pkg : Byte) (cell : CellId) (ch : ChIdx) (s : State), aget s.pkg.convs entry.toNat = some v →
    v.msgs.find? (fun m => m.role == role && m.dest == some ⟨pkg, cell, ch⟩ && m.sent) = some m → let s1 := putConv entry { v with msgs := v.msgs.erase m } s
    exec (.messageDelivery (.noticed entry role pkg cell ch true)) s = .next (reapConv entry s1) ∧
    exec (.messageDelivery (.noticed entry role pkg cell ch false)) s = .next (breakAt entry 0 role (some ⟨pkg, cell, ch⟩) s1)) ∧
  (∀ (ctx : BitVec 6) (home : Byte) (entry : BitVec 12) (rec' : List Word) (s : State), exec (.messageDelivery (.broken ctx home entry rec')) s =
    .next (post ctx rec' (if ((rec'.getD 2 0).extractLsb' 22 3) = 1#3
      then s.onPkg fun p => { p with bindings := p.bindings.filter fun b => !(b.home == home && b.entry == entry) } else s))) ∧
  (∀ (home : Byte) (ctx : BitVec 6) (entry : BitVec 12) (role : BitVec 3) (cell : CellId) (ch : ChIdx) (lanes : List W32) (s : State),
    let dlg := (lanes.headD 0).getLsbD 12
    let brk := (lanes.headD 0).getLsbD 31
    let rest := s.pkg.bindings.filter fun b => !(b.home == home && b.entry == entry && b.role == role)
    (dlg = true → brk = false → s.onBoardOf ctx cell = false ∨ ((s.cellAt cell).chanAt ch).fit = false →
      exec (.messageDelivery (.incoming home ctx entry role cell ch lanes)) s = .next (emit (.noticed home entry role cell ch false) s)) ∧
    ((dlg = true → brk = false → s.onBoardOf ctx cell = true ∧ ((s.cellAt cell).chanAt ch).fit = true) → (s.cellAt cell).stopped = false → s.moving (s.cellAt cell) = true →
      (∀ b ∈ s.pkg.bindings, b.home = home → b.entry = entry → b.role = role → b.cell = cell → b.launch = s.launchAt cell) →
      ∃ t, exec (.messageDelivery (.incoming home ctx entry role cell ch lanes)) s = .next t ∧
        t.pkg.bindings = (if dlg && !brk then rest ++ [⟨home, entry, ctx, role, cell, ch, s.launchAt cell⟩]
          else if brk && (lanes.headD 0).extractLsb' 27 3 == 1#3 then s.pkg.bindings.filter fun b => !(b.home == home && b.entry == entry) else s.pkg.bindings) ∧
        t.pkg.outbox = (if dlg && !brk then s.pkg.outbox ++ [.noticed home entry role cell ch true] else s.pkg.outbox) ∧
        t.cellAt cell = (if (((s.cellAt cell).chanAt ch).room && !((s.cellAt cell).port.any fun q => q.1 == ch))
          then ((s.cellAt cell).enter false ch (messagePacket home entry role lanes)).wakeTurn home entry
          else { s.cellAt cell with port := (s.cellAt cell).port ++ [(ch, messagePacket home entry role lanes)] }))) ∧
  (∀ (entry : BitVec 12) (role : BitVec 3) (pkg : Byte) (cell : CellId) (ch : ChIdx) (v : Conv) (s : State), pkg ≠ s.pkg.number → aget s.pkg.convs entry.toNat = some v →
    (v.credits.any fun c => c.1 == ⟨pkg, cell, ch⟩) = true →
      exec (.conversationCredit entry role pkg cell ch) s =
        .next (regrant entry (putConv entry (v.setCredits ⟨pkg, cell, ch⟩ (v.creditsOf ⟨pkg, cell, ch⟩ + 1)) s))) ∧
  (∀ (entry : BitVec 12) (role : BitVec 3) (v : Conv) (e : Endpoint) (s : State), aget s.pkg.convs entry.toNat = some v → v.endpoint role = some e →
    (e.pkg = s.pkg.number → (entry, role, e) ∈ s.pkg.endings) →
    let clear (t : State) : State := t.onPkg fun p => { p with endings := p.endings.filter (· != (entry, role, e)) }
    (v.brk = true ∨ v.terminal = true → exec (.conversationBreak entry role e) s = .next (clear (unbindRole entry role s))) ∧
    (v.brk = false → v.terminal = false → exec (.conversationBreak entry role e) s = .next (clear (breakConv entry 0 role s)))) ∧
  (∀ (entry : BitVec 12) (role : BitVec 3) (v : Conv) (e : Endpoint) (s : State), aget s.pkg.convs entry.toNat = some v → v.endpoint role ≠ some e → e.pkg ≠ s.pkg.number →
    ∃ t, exec (.conversationBreak entry role e) s = .next t ∧ ∀ v1, aget t.pkg.convs entry.toNat = some v1 → v1.brk = v.brk ∧ v1.role = v.role) ∧
  (∀ (entry : BitVec 12) (role : BitVec 3) (v : Conv) (s : State), aget s.pkg.convs entry.toNat = some v →
    regrant entry s = retryTurns entry (putConv entry (v.granted s) s) ∧
    (v.msgs.find? (fun m => m.role == role && m.credit && !m.sent) = none → exec (.messageDelivery (.buffered entry role)) s = .next (reapConv entry (regrant entry s))) ∧
    ∀ src r w c l, v.heldTurns = [(src, r)] → r.op = .convTurn w c l →
      let v0 : Conv := { v with heldTurns := [] }
      let u := putConv entry v0 s
      (v0.decide u entry src r w c l = .held → aget (retryTurns entry s).pkg.convs entry.toNat = some v ∧ (retryTurns entry s).pkg.outbox = s.pkg.outbox) ∧
      ∀ v1, v0.decide u entry src r w c l = .accepted v1 →
        retryTurns entry s = answerWaiting entry (answerConv src r (.verdict .accepted) (putConv entry v1 u))) ∧
  (∀ (entry : BitVec 12) (cause role : BitVec 3) (v : Conv) (s : State), aget s.pkg.convs entry.toNat = some v →
    breakConv entry cause role s = breakAt entry cause role (v.endpoint role) s) ∧
  (∀ (v : Conv) (role : BitVec 3), v.brk = false → (v.clearRole role).endpoint role = none ∧ (v.clearRole role).buffered = v.buffered ∧
    ∀ m ∈ (v.clearRole role).msgs, m.credit = true → m ∈ v.msgs ∧ (m.role ≠ role ∨ m.dest ≠ v.endpoint role)) ∧
  (∀ (v : Conv) (s : State), (v.granted s).msgs.length = v.msgs.length ∧
    ∀ l ∈ s.pkg.launches, l.preempt ≠ none ∨ l.saved ≠ [] → ∀ m ∈ (v.granted s).msgs, m.own = some l.id → m.credit = true → m ∈ v.msgs) ∧
  ∀ (entry : BitVec 12) (cause role : BitVec 3) (v v1 : Conv) (s : State), aget s.pkg.convs entry.toNat = some v → v.brk = false →
    aget (breakConv entry cause role s).pkg.convs entry.toNat = some v1 →
      v1.brk = true ∧ v1.cause = cause ∧ v1.state = v.state ∧ v1.turns = v.turns ∧ v1.heldTurns = [] ∧ v1.heldClose = [] ∧ v1.waiting = [] ∧
      ∀ (i : BitVec 3) (e : Endpoint), v.endpoint i = some e → v.heldClose = [] → (entry, i, e) ∉ s.pkg.endings → (e.pkg ≠ s.pkg.number → (s.pkg.peer e.pkg).failed = false) →
        (cause = 0 → i ≠ role) → ∃ m ∈ v1.msgs, m.role = i ∧ m.dest = some e ∧ m.lanes = [cvHeader true false cause 0 v.state false entry]

/-! ### Launches, faults and pre-emption (R314-R343) -/

/-- R314, R318-R320, R412: the oldest unread record of a launch stream becomes a candidate, or ends at once with the status of the first check that
fails, each of which R320's table gives (the order in which the checks of one record are met is log 47's choice), or with ACCESS where its interface
is in ERROR or stopping; the allocator takes its candidates in falling priority, reserved ones first, contexts in rising number after the one last
admitted; it admits the first that fits and begins again, and passes over those that find no blocks; the 64th passing over reserves a candidate, and
a reservation holds back every other candidate of its priority or a lower one. What is admitted takes its boards and asks for its loads (log 48:
when a stream's next record is read). -/
def Obligations.LaunchesAdmitted : Prop :=
  (∀ (ctx : BitVec 6) (prio : BitVec 4) (c : Context) (b : Bound) (s : State), aget s.pkg.contexts ctx.toNat = some c → s.pkg.boundOf ctx (prio.setWidth 15 + 1) = some b →
    let pos := c.readPos[prio.toNat]'prio.isLt
    let joined (l : Launch) (p : Package) : State := { s with pkg :=
      { p.onCtx ctx (fun c => { c with readPos := c.readPos.set prio.toNat (pos + 64) prio.isLt }) with launches := p.launches ++ [l], nextLaunch := p.nextLaunch + 1, allocDue := true } }
    let ended (code : Byte) (d : List Word) (p : Package) : State :=
      joined { launchOf p.nextLaunch ctx prio.toNat pos d ([Member.absent], [], []) with st := .ended, status := some code } p
    (before (s.pkg.record b.pa).head (pos + 64) = true ∨ (s.pkg.launches.any fun l : Launch => l.ctx == ctx && l.prio == prio.toNat && l.st == .candidate) = true ∨
        s.pkg.stalledAt ctx (.read prio) = true → exec (.launchRecordRead ctx prio) s = .next s) ∧
    (before (s.pkg.record b.pa).head (pos + 64) = false → (s.pkg.launches.any fun l : Launch => l.ctx == ctx && l.prio == prio.toNat && l.st == .candidate) = false →
      s.pkg.stalledAt ctx (.read prio) = false →
      (∀ d p, readRecordAt b (s.pkg.record b.pa) pos s = (.ok d, p) →
        (p.barred ctx = true → exec (.launchRecordRead ctx prio) s = .next (ended cACCESS d p)) ∧
        (p.barred ctx = false →
          (∀ tt p', readTables ctx c d p = (.ok tt, p') → exec (.launchRecordRead ctx prio) s = .next (joined (launchOf p'.nextLaunch ctx prio.toNat pos d tt) p')) ∧
          (∀ code p', readTables ctx c d p = (.refused code, p') → exec (.launchRecordRead ctx prio) s = .next (ended code d p')) ∧
          (∀ l v p', readTables ctx c d p = (.stall l v, p') → exec (.launchRecordRead ctx prio) s = .next (stallUnit (.read prio) ctx sequencers 6 0 l v { s with pkg := p' })))) ∧
      (∀ code p, readRecordAt b (s.pkg.record b.pa) pos s = (.refused code, p) → exec (.launchRecordRead ctx prio) s = .next (ended code [] p)) ∧
      (∀ l v p, readRecordAt b (s.pkg.record b.pa) pos s = (.stall l v, p) →
        exec (.launchRecordRead ctx prio) s = .next (stallUnit (.read prio) ctx sequencers 6 0 l v { s with pkg := p })))) ∧
  (∀ (ctx : BitVec 6) (c : Context) (d : List Word) (p : Package),
    let w6 := d.getD 6 0
    let npipe := (w6.extractLsb' 32 8).toNat
    let reserved : Prop := w6.extractLsb' 40 8 ≠ 0 ∨ w6.extractLsb' 4 28 ≠ 0 ∨ w6.getLsbD 0 = true ∨ 64 < npipe ∨ d.getD 7 0 ≠ 0 ∨ d.getD 0 0 = 0 ∨ w6.extractLsb' 2 2 = 3
    let crooked : Prop := (∃ g ∈ d.take 4, g.toNat % 32 ≠ 0) ∨ (d.getD 4 0).toNat % 64 ≠ 0 ∨ (npipe ≠ 0 ∧ (d.getD 5 0).toNat % 16 ≠ 0)
    (reserved → readTables ctx c d p = (.refused cCONFIG_CHECK, p)) ∧
    (¬ reserved → crooked → readTables ctx c d p = (.refused cMISALIGNED, p)) ∧
    (¬ reserved → ¬ crooked →
      (∀ code p', Reader.each (readMember ctx) (d.take 4) p = (.refused code, p') → readTables ctx c d p = (.refused code, p')) ∧
      ∀ ms p1, Reader.each (readMember ctx) (d.take 4) p = (.ok ms, p1) →
        (∀ code p', readParams ctx (d.getD 4 0) p1 = (.refused code, p') → readTables ctx c d p = (.refused code, p')) ∧
        ∀ ps p2, readParams ctx (d.getD 4 0) p1 = (.ok ps, p2) →
          (∀ code p', npipe ≠ 0 → fetchWords ctx (d.getD 5 0) (2 * npipe) p2 = (.refused code, p') → readTables ctx c d p = (.refused code, p')) ∧
          ∀ pipes p3, (npipe = 0 ∧ pipes = [] ∧ p3 = p2) ∨
              (∃ l q, npipe ≠ 0 ∧ fetchWords ctx (d.getD 5 0) (2 * npipe) p2 = (.ok l, q) ∧ Reader.each (readPipe fun m => d.getD m 0 != 0) (groupsOf 2 npipe l) q = (.ok pipes, p3)) →
            (c.rtok = false → (∃ m ∈ ms, m.lvl = true) → readTables ctx c d p = (.refused cPRIVILEGED, p3)) ∧
            (c.rtok = true ∨ (∀ m ∈ ms, m.lvl = false) →
              (c.maxBlk < (ms.map fun m => m.h * m.w).sum → readTables ctx c d p = (.refused cACCESS, p3)) ∧
              ((ms.map fun m => m.h * m.w).sum ≤ c.maxBlk → readTables ctx c d p = (.ok (ms, ps, pipes), p3))))) ∧
  (∀ (ctx : BitVec 6) (va : Word) (n : Nat) (p p' : Package),
    (∀ l, readVirtual ctx va.toNat (8 * n) p = (.ok (l, false), p') → fetchWords ctx va n p = (.ok (wordsOfBytes n l), p')) ∧
    (readVirtual ctx va.toNat (8 * n) p = (.bad, p') → fetchWords ctx va n p = (.refused cACCESS, p')) ∧
    (∀ l v, readVirtual ctx va.toNat (8 * n) p = (.stall l v, p') → fetchWords ctx va n p = (.stall l v, p'))) ∧
  (∀ (ctx : BitVec 6) (g : Word) (p : Package),
    (g = 0 → readMember ctx g p = (.ok Member.absent, p)) ∧
    (g ≠ 0 → (∀ code p', fetchWords ctx g 4 p = (.refused code, p') → readMember ctx g p = (.refused code, p')) ∧
      ∀ d p', fetchWords ctx g 4 p = (.ok d, p') →
        let v := d.getD 0 0
        let h := (v.extractLsb' 11 3).toNat + 1
        let w := (v.extractLsb' 8 3).toNat + 1
        let n := (v.extractLsb' 0 8).toNat + 1
        (v.extractLsb' 15 49 ≠ 0 ∨ (∃ x ∈ d.drop 1, x ≠ 0) ∨ 6 < h ∨ 6 < w → readMember ctx g p = (.refused cCONFIG_CHECK, p')) ∧
        (v.extractLsb' 15 49 = 0 → (∀ x ∈ d.drop 1, x = 0) → h ≤ 6 → w ≤ 6 → ∀ l q, fetchWords ctx (g + 32) (4 * n) p' = (.ok l, q) →
          (∀ code q', Reader.each (readGraphLoad ctx h w) (groupsOf 4 n l) q = (.refused code, q') → readMember ctx g p = (.refused code, q')) ∧
          ∀ loads q', Reader.each (readGraphLoad ctx h w) (groupsOf 4 n l) q = (.ok loads, q') →
            readMember ctx g p = (.ok ⟨g, v.getLsbD 14, h, w, loads, none, 0, false, none⟩, q')))) ∧
  (∀ (ctx : BitVec 6) (h w : Nat) (e : List Word) (p : Package),
    let v := e.getD 1 0
    let reserved : Prop := v.extractLsb' 48 16 ≠ 0 ∨ v.extractLsb' 12 12 ≠ 0 ∨ e.getD 3 0 ≠ 0
    let crooked : Prop := (e.getD 0 0).toNat % 8 ≠ 0 ∨ (e.getD 2 0).toNat % 8 ≠ 0
    (reserved → readGraphLoad ctx h w e p = (.refused cCONFIG_CHECK, p)) ∧ (¬ reserved → crooked → readGraphLoad ctx h w e p = (.refused cMISALIGNED, p)) ∧
    ∀ arms p', ¬ reserved → ¬ crooked → fetchWords ctx (e.getD 2 0) (v.extractLsb' 0 12).toNat p = (.ok arms, p') →
      readGraphLoad ctx h w e p = (.ok ⟨e.getD 0 0, (v.extractLsb' 24 24).toNat, arms, arms.all (armOk h w)⟩, p')) ∧
  (∀ (present : Nat → Bool) (e : List Word) (p : Package),
    let v := e.getD 1 0
    let wrong : Prop := v.extractLsb' 18 46 ≠ 0 ∨ v.getLsbD 15 = true ∨ (v.extractLsb' 0 15).toNat < 17 ∨ present (v.extractLsb' 16 2).toNat = false
    (wrong → readPipe present e p = (.refused cCONFIG_CHECK, p)) ∧ (¬ wrong → (e.getD 0 0).toNat % 128 ≠ 0 → readPipe present e p = (.refused cMISALIGNED, p)) ∧
    (¬ wrong → (e.getD 0 0).toNat % 128 = 0 → readPipe present e p = (.ok ⟨e.getD 0 0, (v.extractLsb' 16 2).toNat, v.extractLsb' 0 15⟩, p))) ∧
  (∀ (id : Nat) (ctx : BitVec 6) (prio : Nat) (pos : BitVec 48) (d : List Word) (tt : List Member × List (Word × Word) × List Pipe),
    let l := launchOf id ctx prio pos d tt
    l.tag = (d.getD 6 0).extractLsb' 48 16 ∧ l.ser = (d.getD 6 0).getLsbD 1 ∧ l.clsHint = (d.getD 6 0).extractLsb' 2 2 ∧ l.st = .candidate ∧ l.status = none ∧ l.members = tt.1) ∧
  (∀ (p : Package),
    let place (c : Launch) : Nat := (c.ctx - BitVec.ofNat 6 ((p.lastAdmitted.toList.getD c.prio 63).toNat + 1)).toNat
    p.candidates.Pairwise (fun c d => d.prio < c.prio ∨ (c.prio = d.prio ∧
      match c.reserved, d.reserved with
      | some i, some j => i ≤ j
      | some _, none => True
      | none, some _ => False
      | none, none => place c < place d)) ∧
    (∀ c, c ∈ p.candidates ↔ ∃ ctx, ∃ prio < 16, p.candidate ctx prio = some c) ∧
    ∀ ctx prio c, p.candidate ctx prio = some c → c ∈ p.launches ∧ c.ctx = ctx ∧ c.prio = prio ∧ c.st = .candidate ∧
      (c.ser = true → ∀ l ∈ p.launches, l.ctx = ctx → l.prio = prio → c.id ≤ l.id)) ∧
  (∀ s : State, (s.pkg.allocDue = false → exec .allocatorAction s = .next s) ∧
    (s.pkg.allocDue = true → let r := readAll s
      (∀ t, takeFirst r.pkg.candidates none r = .idle t → exec .allocatorAction s = .next (t.onPkg fun p => { p with allocDue := false })) ∧
      (∀ t, takeFirst r.pkg.candidates none r = .admitted t → exec .allocatorAction s = .next (allocate s.pkg.waitingLaunches t)) ∧
      (∀ c l v, takeFirst r.pkg.candidates none r = .stalled c l v → exec .allocatorAction s = .next (stallUnit (.place c.id) c.ctx sequencers 6 0 l v r)) ∧
      (takeFirst r.pkg.candidates none r = .waits → exec .allocatorAction s = .next r))) ∧
  (∀ (c : Launch) (r : List Launch) (floor : Option Nat) (s : State),
    let u := s.onPkg c.lookedUp
    let held := ((s.pkg.boards.filter fun b => b.ctx == c.ctx).map fun b => b.h * b.w).sum
    let most := (aget s.pkg.contexts c.ctx.toNat).elim 0 (·.maxBlk)
    (∀ f, floor = some f → c.prio ≤ f → takeFirst (c :: r) floor s = takeFirst r floor s) ∧
    (floor = none →
      (u.pkg.placesFor c = none → s.pkg.launch c.id = some c → c.st = .candidate → c.reserved = none →
        let t := u.onPkg fun p => reserve c.id (p.onLaunch c.id fun l => { l with passes := l.passes + 1 })
        (c.passes < 63 → takeFirst (c :: r) none s = takeFirst r none t ∧ t.pkg.launch c.id = some { c with passes := c.passes + 1 }) ∧
        (63 ≤ c.passes → takeFirst (c :: r) none s = takeFirst r (some c.prio) t ∧
          t.pkg.launch c.id = some { c with passes := c.passes + 1, reserved := some s.pkg.reservations })) ∧
      ∀ qs, u.pkg.placesFor c = some qs →
        (held + (qs.map fun q => q.h * q.w).sum ≤ most → u.pkg.stalledAt c.ctx (.place c.id) = false → (∀ t, takeIn c qs u = .ok t → takeFirst (c :: r) none s = .admitted t) ∧
          ∀ l v, takeIn c qs u = .stall l v → takeFirst (c :: r) none s = .stalled c l v) ∧
        (held + (qs.map fun q => q.h * q.w).sum ≤ most → u.pkg.stalledAt c.ctx (.place c.id) = true → takeFirst (c :: r) none s = .waits) ∧
        (most < held + (qs.map fun q => q.h * q.w).sum → takeFirst (c :: r) none s = takeFirst r (if c.reserved.isSome then some c.prio else none) u))) ∧
  (∀ (l : Launch) (m : Member) (q : Rect) (s : State), l.members = [m] → m.graph ≠ 0 → l.pipes = [] → l.saved = [] → m.ended = false → s.pkg.launches = [l] →
    ∃ t b, takeIn l [q] s = .ok t ∧ t.pkg.boards = s.pkg.boards ++ [b] ∧ b.id = s.pkg.nextBoard ∧ b.ctx = l.ctx ∧ b.die = q.die ∧ b.brow = q.row ∧ b.bcol = q.col ∧ b.h = q.h ∧ b.w = q.w ∧
      b.lvl = m.lvl ∧ b.launch = some l.id ∧ b.phase = .empty ∧ t.pkg.loads = s.pkg.loads ++ [loadRequest l.ctx m b 0] ∧ t.pkg.launches.map Launch.st = [.admitted] ∧
      t.pkg.mem = s.pkg.mem) ∧
  ∀ (ctx : BitVec 6) (prio : BitVec 4) (c : Launch) (s : State), s.pkg.candidate ctx prio.toNat = some c → s.pkg.launch c.id = some c →
    (64 ≤ c.passes → c.reserved = none → ∃ t, exec (.candidateReserved ctx prio) s = .next t ∧ t.pkg.launch c.id = some { c with reserved := some s.pkg.reservations } ∧
      t.pkg.reservations = s.pkg.reservations + 1) ∧
    (c.passes < 64 ∨ c.reserved ≠ none → exec (.candidateReserved ctx prio) s = .next s)

/-- R321, R324, R325: the loads of a graph: load 0 is taken when it checks; the next load is checked while the current one runs, and one that ends
is followed by it without a drain, ends its member, or ends the launch where the check failed; R322, R323: a load's class, which it takes however it
ends, over the lines it moved (a free value: log 13); R327: a complete launch leaves its boards, publishes its record, whose cycles are log 12's
free value, and is gone. The order of these steps is log 49's choice, and what of the image a status of log 47 names. -/
def Obligations.LaunchesRun : Prop :=
  (∀ (k : Nat) (q : LoadReq) (b : Board) (l : Launch) (m : Member) (gs : List CfgGroup) (p : Package) (s : State), s.pkg.loads[k]? = some q → q.phase = .asked → q.issuer = none →
    s.pkg.loaderBusy q.die = false → s.pkg.stalledAt q.ctx (.load q.board none) = false → s.pkg.board q.board = some b → s.pkg.memberOf b = some (l, m) → l.saved = [] →
    checkGraph b (m.loads.getD b.load ⟨0, 0, [], false⟩) (b.load == 0) s.pkg = (.accepted b gs, p) →
      exec (.loadAcceptance k) s = .next { s with pkg := { p with loads := modNth (fun q => { q with phase := .words, groups := gs }) k p.loads } }) ∧
  (∀ (k : Nat) (q : LoadReq) (b : Board) (l : Launch) (m : Member) (code : Byte) (p : Package) (s : State), s.pkg.loads[k]? = some q → q.phase = .asked → q.issuer = none →
    s.pkg.loaderBusy q.die = false → s.pkg.stalledAt q.ctx (.load q.board none) = false → s.pkg.board q.board = some b → s.pkg.memberOf b = some (l, m) → l.saved = [] →
    checkGraph b (m.loads.getD b.load ⟨0, 0, [], false⟩) (b.load == 0) s.pkg = (.refused code, p) →
      exec (.loadAcceptance k) s = .next (endLaunch l.id code { s with pkg := p })) ∧
  (∀ (k : Nat) (q : LoadReq) (b : Board) (l : Launch) (m : Member) (s : State), s.pkg.loads[k]? = some q → q.phase = .words → q.issuer = none → s.pkg.board q.board = some b →
    s.pkg.memberOf b = some (l, m) → l.saved = [] → l.preempt = none →
      exec (.switchOver k) s = .next (recordArms b (m.loads.getD b.load ⟨0, 0, [], true⟩).arms
        ((fireBoard ⟨b, m.lvl, l.ctx, l.windows⟩ q.groups { s with pkg := { s.pkg with loads := delNth k s.pkg.loads } }).onPkg fun p =>
          (p.onBoard b.id fun b => { b with phase := .running, generation := b.generation + 1, watchdog := 0, products := 0, cls := none, ahead := none }).onLaunch l.id
            fun l => l.onMember b.member fun m => { m with fired := m.fired + 1 }))) ∧
  (∀ (l : Nat) (m : BitVec 2) (L : Launch) (M : Member) (b : Board) (s : State), s.pkg.launch l = some L → L.members[m.toNat]? = some M → M.board.bind s.pkg.board = some b →
    (L.status ≠ none ∨ M.ended = true ∨ b.phase ≠ .running ∨ s.pkg.raised.any b.holds = true → exec (.nextLoad l m) s = .next s) ∧
    (L.status = none → M.ended = false → b.phase = .running → s.pkg.raised.any b.holds = false → (s.pkg.loads.any fun q => q.board == b.id && q.phase != .asked) = false →
      (b.ahead = none → b.load + 1 < M.loads.length → s.pkg.stalledAt b.ctx (.ahead b.id) = true → exec (.nextLoad l m) s = .next s) ∧
      (b.ahead = none → b.load + 1 < M.loads.length → s.pkg.stalledAt b.ctx (.ahead b.id) = false → let g := M.loads.getD (b.load + 1) ⟨0, 0, [], false⟩
        (∀ gs p, checkGraph b g false s.pkg = (.accepted b gs, p) → exec (.nextLoad l m) s = .next { s with pkg := p.onBoard b.id fun b => { b with ahead := some (some gs) } }) ∧
        (∀ code p, checkGraph b g false s.pkg = (.refused code, p) → exec (.nextLoad l m) s = .next { s with pkg := p.onBoard b.id fun b => { b with ahead := some none } }) ∧
        (∀ a v p, checkGraph b g false s.pkg = (.waits a v b, p) → exec (.nextLoad l m) s = .next (stallUnit (.ahead b.id) b.ctx (b.cellAt 0 0) 6 0 a v { s with pkg := p }))) ∧
      (b.ahead ≠ none ∨ M.loads.length ≤ b.load + 1 → s.quiescent b = false → exec (.nextLoad l m) s = .next s) ∧
      (s.quiescent b = true →
        (M.loads.length ≤ b.load + 1 → exec (.nextLoad l m) s =
          .next ((beginDrain b .empty s).onPkg (Package.onLaunch L.id fun L => L.onMember m.toNat fun M => { M with ended := true }))) ∧
        (b.load + 1 < M.loads.length → b.ahead = some none → exec (.nextLoad l m) s = .next (endLaunch L.id cCONFIG_CHECK s)) ∧
        ∀ gs, b.load + 1 < M.loads.length → b.ahead = some (some gs) →
          (s.pkg.loaderBusy b.die = true → exec (.nextLoad l m) s = .next s) ∧
          (s.pkg.loaderBusy b.die = false → exec (.nextLoad l m) s = .next ((beginDrain b .empty s).onPkg fun p =>
            { p.onBoard b.id (fun b => { b with load := b.load + 1, ahead := none }) with
              loads := p.loads ++ [{ loadRequest L.ctx M b (b.load + 1) with phase := .words, groups := gs }] }))))) ∧
  (∀ (b : Board) (g : GraphLoad) (first : Bool) (p p' : Package),
    (g.armsOk = false ∨ g.len = 0 → checkGraph b g first p = (.refused cCONFIG_CHECK, p)) ∧
    (g.armsOk = true → g.len ≠ 0 →
      (readVirtual b.ctx g.img.toNat (8 * g.len) p = (.bad, p') → checkGraph b g first p = (.refused (if first then cACCESS else cCONFIG_CHECK), p')) ∧
      ∀ l, readVirtual b.ctx g.img.toNat (8 * g.len) p = (.ok (l, false), p') →
        (checkImage (8 * b.h) (8 * b.w) (wordsOfBytes g.len l) = none → checkGraph b g first p = (.refused cCONFIG_CHECK, p')) ∧
        ∀ gs, checkImage (8 * b.h) (8 * b.w) (wordsOfBytes g.len l) = some gs → checkGraph b g first p = (.accepted b gs, p'))) ∧
  (∀ (b : Board) (ph : Phase) (s : State), b.phase = .running →
    beginDrain b ph s = (endLoad b (classify b.id (Config.linesMoved s.tick b.id) s)).onPkg (Package.onBoard b.id fun x => { x with phase := ph })) ∧
  (∀ (id lines : Nat) (b : Board) (s : State), s.pkg.board id = some b → b.phase = .running → b.cls = none → s.pkg.memberOf b = none →
    ∃ t b', exec (.classification id lines) s = .next t ∧ t.pkg.board id = some b' ∧ b'.cls = some (decide (0 < b.products ∧ 64 * (128 * lines) ≤ b.products))) ∧
  (∀ (id lines : Nat) (b : Board) (L : Launch) (M : Member) (s : State), s.pkg.board id = some b → b.phase = .running → b.cls = none → s.pkg.memberOf b = some (L, M) → b.load = 0 → M.cls = none →
    ∃ t, exec (.classification id lines) s = .next t ∧ t.pkg.classes = putClass M.graph (decide (0 < b.products ∧ 64 * (128 * lines) ≤ b.products)) s.pkg.classes) ∧
  (∀ (id lines : Nat) (b : Board) (s : State), s.pkg.board id = some b → b.phase ≠ .running ∨ b.cls ≠ none → exec (.classification id lines) s = .next s) ∧
  (∀ (l : Nat) (L : Launch) (s : State), s.pkg.launch l = some L → L.complete s.pkg = true → s.storesOf l = false → L.preempt = none → L.late = [] →
    exec (.launchCompletion l) s = .next ((passRecord L (post L.ctx (completionRecord L (if L.st == .admitted then Config.elapsedCycles s.tick else 0))
      (unbindPipes L L.pipes ((s.pkg.gang l).foldl (fun s b => releaseBoard b s) s)))).onPkg fun p =>
        { p with launches := p.launches.filter fun x : Launch => x.id != l, allocDue := true })) ∧
  (∀ (l : Nat) (L : Launch) (s : State), s.pkg.launch l = some L → L.complete s.pkg = false ∨ s.storesOf l = true → exec (.launchCompletion l) s = .next s) ∧
  ∀ (L : Launch) (cycles : Word), L.prio < 16 →
    let r := completionRecord L cycles
    r.length = 8 ∧ (r.getD 0 0).extractLsb' 0 8 = 4#8 ∧ (r.getD 0 0).extractLsb' 8 8 = L.status.getD 0 ∧ (r.getD 0 0).extractLsb' 32 5 = BitVec.ofNat 5 (L.prio + 1) ∧
      (r.getD 0 0).extractLsb' 40 6 = L.ctx ∧ (r.getD 1 0).extractLsb' 0 48 = L.pos ∧ (r.getD 1 0).extractLsb' 48 16 = L.tag ∧ r.getD 3 0 = cycles

/-- R326, R332, R336: the sequencer accepts the first fault raised on a board, publishes its record and stops the gang: the launch keeps its first
status, every board of the gang takes the drain configuration, and no load of it follows; R346: a pre-emption under way is acknowledged with the
code. R337: the watchdog's limit stops it with WATCHDOG, code 0x18; R338, R164: a drained board is released, and its `cfg.drain` answered;
R339-R343: a board collected for pre-emption is saved, released and acknowledged by the record of R343, and one that does not collect in time ends
as by the watchdog (R341). What counts as progress is log 50's choice, and a save area's private bytes are log 8's free values. The cycles of the
acknowledgement are log 12's, the order of faults of one move log 31's, the unbinding of pipes at the release of a board log 49's, and how a save is
written and met by other ends log 51's. -/
def Obligations.FaultsAndPreemption : Prop :=
  (∀ (b : Nat) (x : Board) (s : State), s.pkg.board b = some x →
    (x.phase = .draining ∨ s.raisedOn x = none → exec (.faultAcceptance b) s = .next s) ∧
    (∀ c f, x.phase ≠ .draining → s.raisedOn x = some c → (s.cellAt c).fault = some f →
      exec (.faultAcceptance b) s = .next (stopGang x f.code (publishFault x c (s.cellAt c) f s)))) ∧
  (∀ (b : Board) (c : CellId) (s : State), s.raisedOn b = some c → b.holds c = true ∧ (s.cellAt c).fault.isSome = true ∧
    ((∀ d ∈ s.pkg.raised, b.holds d = false ∨ (s.cellAt d).board ≠ some b.id ∨ (s.cellAt d).fault = none) →
      ∀ d, b.holds d = true → (s.cellAt d).board = some b.id → (s.cellAt d).fault.isSome = true → c.toNat ≤ d.toNat)) ∧
  (∀ (b : Board) (code : Byte) (c : CellId) (x : Cell) (f : FaultRec) (s : State),
    (b.launch = none → stopGang b code s = (beginDrain b .draining s).onPkg (dropLoads b.id) ∧ publishFault b c x f s = post b.ctx (faultRecord c x f) s) ∧
    ∀ l, b.launch = some l →
      publishFault b c x f s = (post b.ctx (faultRecord c x f) s).onPkg (Package.onLaunch l fun L => { L with status := some (L.status.getD f.code) }) ∧
      (∀ y ∈ (stopGang b code s).pkg.boards, y.launch = some l → y.phase = .draining) ∧
      (∀ y ∈ s.pkg.gang l, y.phase ≠ .draining → ∀ q ∈ (stopGang b code s).pkg.loads, ¬ (q.board = y.id ∧ (q.issuer = none ∨ q.phase ≠ .asked))) ∧
      ((stopGang b code s).pkg.launch l).bind (·.preempt) = none ∧
      ((∀ y ∈ s.pkg.gang l, y.id ≠ b.id → y.phase ≠ .draining → s.raisedOn y = none) → (s.pkg.launch l).bind (·.preempt) = none → stopGang b code s = drainGang l s)) ∧
  (∀ (l : Nat) (L : Launch) (code : Byte) (s : State), s.pkg.launch l = some L →
    (L.preempt = none → answerPreempt l code s = s) ∧
    ∀ q, L.preempt = some q → answerPreempt l code s =
      (post L.ctx (ackRecord L q.save code (Config.elapsedCycles s.tick)) s).onPkg (Package.onLaunch l fun L => { L with preempt := none })) ∧
  (∀ (L : Launch) (save : Word) (code : Byte) (cycles : Word), L.prio < 16 →
    let r := ackRecord L save code cycles
    r.length = 8 ∧ (r.getD 0 0).extractLsb' 0 8 = 5#8 ∧ (r.getD 0 0).extractLsb' 8 8 = code ∧ (r.getD 0 0).extractLsb' 32 5 = BitVec.ofNat 5 (L.prio + 1) ∧
      (r.getD 0 0).extractLsb' 40 6 = L.ctx ∧ (r.getD 1 0).extractLsb' 0 48 = L.pos ∧ (r.getD 1 0).extractLsb' 48 16 = L.tag ∧ r.getD 2 0 = save ∧ r.getD 3 0 = cycles) ∧
  (∀ (c : CellId) (x : Cell) (f : FaultRec),
    let r := faultRecord c x f
    r.length = 8 ∧ (r.getD 0 0).extractLsb' 0 8 = 1#8 ∧ (r.getD 0 0).extractLsb' 8 8 = f.code ∧ (r.getD 0 0).extractLsb' 32 14 = c ∧ (r.getD 0 0).extractLsb' 46 7 = f.hnd ∧
      (r.getD 0 0).extractLsb' 53 2 = f.src ∧ (r.getD 0 0).getLsbD 55 = f.t ∧ (r.getD 0 0).extractLsb' 56 8 = f.detail ∧
      (cfgIdx x f < 2 ^ 16 → (r.getD 1 0).extractLsb' 0 14 = f.pc ∧ ((r.getD 1 0).extractLsb' 16 16).toNat = cfgIdx x f ∧ (r.getD 1 0).extractLsb' 32 32 = f.word) ∧ (r.getD 2 0).extractLsb' 32 32 = f.info ∧ (r.getD 2 0).extractLsb' 0 32 = f.aux0 ∧ r.getD 3 0 = f.aux1) ∧
  (∀ (b : Nat) (x : Board) (s : State), s.pkg.board b = some x →
    (s.pkg.watchdogLimit = 0 ∨ x.watchdog < s.pkg.watchdogLimit ∨ s.watchHeld x = true → exec (.watchdogExpiry b) s = .next s) ∧
    (s.pkg.watchdogLimit ≠ 0 → s.pkg.watchdogLimit ≤ x.watchdog → s.watchHeld x = false →
      (s.raisedOn x = none → exec (.watchdogExpiry b) s = .next (watchdogStop x (BitVec.ofNat 32 (s.cells.filter fun e => e.2.board == some b && e.2.parks).length) s)) ∧
      ((s.raisedOn x).isSome = true → exec (.watchdogExpiry b) s = exec (.faultAcceptance b) s))) ∧
  (∀ (b : Board) (info : W32) (s : State), let w := watchdogFault b info s
    watchdogStop b info s = stopGang b cWATCHDOG (publishFault b w.1 (s.cellAt w.1) w.2 s) ∧
    w.2.code = 0x18 ∧ w.2.src = 3 ∧ w.2.info = info ∧ w.2.t = (s.cellAt w.1).k.t ∧ (s.firstParked b = none → w.1 = b.cellAt 0 0 ∧ w.2.hnd = 127) ∧
      ∀ c, s.firstParked b = some c → w.1 = c ∧
        ∀ h : BitVec 6, ((s.cellAt c).handler h).st = .parked → (∀ g : BitVec 6, g.toNat < h.toNat → ((s.cellAt c).handler g).st ≠ .parked) →
          w.2.hnd = h.setWidth 7 ∧ w.2.pc = ((s.cellAt c).handler h).pc ∧ w.2.word = (s.cellAt c).wordAt w.2.pc) ∧
  (∀ (b : Nat) (x : Board) (s : State), s.pkg.board b = some x →
    (x.phase ≠ .draining ∨ s.busy x = true → exec (.boardRelease b) s = .next s) ∧
    (x.phase = .draining → s.busy x = false →
      ∀ u, ((s.pkg.memberOf x = none ∧ u = s) ∨ (∃ L m, s.pkg.memberOf x = some (L, m) ∧ u = if L.status.isSome then dropPipes L.id x.member s else s)) →
        exec (.boardRelease b) s = .next (releaseBoard x u))) ∧
  (∀ (b : Board) (c : CellId) (id : Nat) (s : State), b.drainFor = some (c, id) → releaseBoard b s = landValue c id 0 0 (releaseBoard { b with drainFor := none } s)) ∧
  (∀ (id m : Nat) (L : Launch) (s : State), s.pkg.launch id = some L → let t := dropPipes id m s
    (∀ q ∈ L.pipes, q.member = m → ∀ x ∈ t.pkg.bound, ¬ (x.ctx = L.ctx ∧ x.num = q.stream)) ∧ (t.pkg.launch id).map Launch.pipes = some (L.pipes.filter fun q => q.member != m)) ∧
  (∀ (L : Launch) (bs : List Board) (s : State), let t := vacate L bs s
    (∀ x ∈ bs, t.pkg.board x.id = none) ∧ (∀ y ∈ t.pkg.launches, y.id = L.id → ∀ m ∈ y.members, m.board = none) ∧
      (∀ j ∈ t.pkg.joins, ∀ x ∈ bs, x.holds j.cell = false) ∧ t.pkg.mem = s.pkg.mem) ∧
  (∀ (b : Board) (s : State), (releaseBoard b s).pkg.board b.id = none ∧ (releaseBoard b s).pkg.allocDue = true ∧ (releaseBoard b s).pkg.mem = s.pkg.mem ∧
    (s.cell.board = some b.id → (releaseBoard b s).cell.store = [] ∧ (releaseBoard b s).cell.board = none)) ∧
  (∀ (l : Nat) (L : Launch) (s : State), s.pkg.launch l = some L →
    (L.preempt = none → exec (.preemptionSave l) s = .next s ∧ exec (.preemptionTimeout l) s = .next s) ∧
    ∀ q, L.preempt = some q →
      (∀ b r, s.pkg.gang l = b :: r →
        (q.limit ≠ 0 → L.status = none → (∀ x ∈ b :: r, s.raisedOn x = none) →
          exec (.preemptionTimeout l) s = .next (watchdogStop b (BitVec.ofNat 32 (waitingUnits l s)) s)) ∧
        (q.limit ≠ 0 → L.status = none → b.phase ≠ .draining → (s.raisedOn b).isSome = true → s.pkg.board b.id = some b → exec (.preemptionTimeout l) s = exec (.faultAcceptance b.id) s) ∧
        (q.limit = 0 → exec (.preemptionTimeout l) s = .next s)) ∧
      ((s.pkg.gang l).any (fun b => b.phase == .running) = true → exec (.preemptionSave l) s = .next s) ∧
      (s.pkg.stalledAt L.ctx (.save l) = true → exec (.preemptionSave l) s = .next s) ∧
      (L.status = none → (s.pkg.gang l).all (fun b => b.phase == .preempting && s.collectable b) = true → L.complete s.pkg = false → s.pkg.stalledAt L.ctx (.save l) = false →
        let saved := (s.pkg.gang l).map (savedBoard s)
        (∀ p, writeAreas L s.pkg.saves q.save saved s.pkg = (.ok (), p) →
          exec (.preemptionSave l) s = .next (answerPreempt l 0 (vacate L (s.pkg.gang l)
            { s with pkg := { p.onLaunch l (fun x => { x with st := .candidate, saved := saved, saveAt := (q.save, s.pkg.saves), pinned := pins L (s.pkg.gang l) s }) with
              saves := s.pkg.saves + 1 } }))) ∧
        (∀ p, writeAreas L s.pkg.saves q.save saved s.pkg = (.bad, p) → exec (.preemptionSave l) s =
          .next (answerPreempt l cACCESS { s with pkg := { p with boards := p.boards.map fun b => if b.launch == some l && b.phase == .preempting then { b with phase := .running } else b } })) ∧
        (∀ a v p, writeAreas L s.pkg.saves q.save saved s.pkg = (.stall a v, p) →
          exec (.preemptionSave l) s = .next (stallUnit (.save l) L.ctx (L.savingBoard (s.pkg.gang l) q.save v) 6 1 a v s)))) ∧
  (∀ (L : Launch) (b : Board) (bs : List Board) (save va : Word), (va - save).toNat < L.areaStart b.member + (4096 + 64 * b.h * b.w * 245760) → save.toNat ≤ va.toNat →
    L.savingBoard (b :: bs) save va = b.cellAt 0 0) ∧
  (∀ (L : Launch) (n : Nat) (save : Word) (v : Saved) (r : List Saved) (p : Package),
    (writeAreas L n save [] p = (.ok (), p)) ∧
    (∀ p', writeVirtual L.ctx (save.toNat + L.areaStart v.member) (saveArea n (L.areaStart v.member) v.cells) p = (.ok (), p') →
      writeAreas L n save (v :: r) p = writeAreas L n save r p')) ∧
  ∀ (n at' : Nat) (c : Cell), (saveBlock n at' c).length = 245760 ∧ (saveBlock n at' c).take 131072 = sgets 0 c.store 0 131072

/-! ### The host (R401, R402, R410-R419) -/

/-- R401, R402: the security engine answers each SPDM request in its order, and with UnexpectedRequest out of it: version, capabilities, algorithms,
digests, certificates, challenge, measurements (one block each, and one for each virtual function of index 6), key exchange, finish, and the
requests of an open session; a session opens only for the host's manager and for a package with a lower number that authenticates itself, and
towards a package with a higher number the engine is itself the requester. R410: the host's session keys the IDE streams. A module without power
answers nothing. The names of messages and the four algorithms all needed are log 54's, and what locking needs log 55's, from the SPDM and PCIe
standards. R411, R412: the states of a TDISP interface: it locks when keyed and enabled, starts from locked, enters ERROR when a frozen register
changes or its stream fails, and stops by a scrub that ends with the interface unlocked and its contexts gone; what the L2 lines that it discards
leave in memory is a free value (log 75). -/
def Obligations.SecurityEngineAndInterfaces : Prop :=
  (
    ∀ (who : BitVec 9) (s : State),
      let x := s.pkg.spdmOf who
      let err (what : String) : State := say who ("ERROR " ++ what) [] s
      (s.pkg.host.powered = false → ∀ i ∈ [Instr.getVersion who, .getCapabilities who, .getDigests who, .challenge who, .keyExchange who, .finish who, .endSession who, .keyUpdate who, .heartbeat who],
        exec i s = .next s) ∧
      (s.pkg.host.powered = true →
        exec (.getVersion who) s = .next (say who "VERSION" [0x13] (putSpdm who ⟨true, false, false, none, none, 0⟩ s)) ∧
        (x.version = true → exec (.getCapabilities who) s = .next (say who "CAPABILITIES" [] (putSpdm who { x with caps := true } s))) ∧
        (x.version = false → exec (.getCapabilities who) s = .next (err "UnexpectedRequest")) ∧
        (∀ o : AlgOffer, x.caps = true →
          (o.mlDsa87 = true ∧ o.sha3 = true ∧ o.mlKem1024 = true ∧ o.aesGcm = true → exec (.negotiateAlgorithms who o) s = .next (say who "ALGORITHMS" [] (putSpdm who { x with algs := true } s))) ∧
          (¬ (o.mlDsa87 = true ∧ o.sha3 = true ∧ o.mlKem1024 = true ∧ o.aesGcm = true) → exec (.negotiateAlgorithms who o) s = .next (err "UnsupportedRequest"))) ∧
        (x.algs = true →
          exec (.getDigests who) s = .next (say who "DIGESTS" [(Config.sha3 (Config.certificate.map (·.toNat))).toNat] s) ∧
          exec (.getCertificate who 0) s = .next (say who "CERTIFICATE" (Config.certificate.map (·.toNat)) s) ∧
          (∀ slot, slot ≠ 0 → exec (.getCertificate who slot) s = .next (err "UnsupportedRequest")) ∧
          exec (.challenge who) s = .next (say who "CHALLENGE_AUTH" [Config.signature s.tick] s) ∧
          (∀ n : Byte, 1 ≤ n.toNat → n.toNat ≤ 6 → exec (.getMeasurements who n) s =
            .next (say who "MEASUREMENTS" (n.toNat :: (measuredContent n.toNat s.pkg).map fun l => (Config.sha3 l).toNat) s)) ∧
          exec (.getMeasurements who 0) s = .next (say who "MEASUREMENTS" [6] s) ∧
          (∀ n : Byte, 7 ≤ n.toNat → n ≠ 0xFF → exec (.getMeasurements who n) s = .next (err "InvalidRequest")) ∧
          (256 ≤ who.toNat ∨ who.toNat < s.pkg.number.toNat → exec (.keyExchange who) s =
            .next (say who "KEY_EXCHANGE_RSP" [Config.signature s.tick] (putSpdm who { x with exchanged := some (Config.sessionSecret s.tick who.toNat) } s))) ∧
          (s.pkg.number.toNat ≤ who.toNat → who.toNat < 256 → exec (.keyExchange who) s = .next (err "UnexpectedRequest"))) ∧
        (x.algs = false → ∀ i ∈ [Instr.getDigests who, .getCertificate who 0, .challenge who, .getMeasurements who 1, .keyExchange who], exec i s = .next (err "UnexpectedRequest")) ∧
        (x.exchanged ≠ none → let genuine := Config.peerGenuine s.tick (who.setWidth 8)
          (256 ≤ who.toNat ∨ genuine = true →
            exec (.finish who) s = .next (say who "FINISH_RSP" [] (putSpdm who { x with exchanged := none, session := x.exchanged, updates := 0 } s))) ∧
          (who.toNat < 256 → genuine = false → exec (.finish who) s = .next (say who "ERROR DecryptError" [] (putSpdm who { x with exchanged := none } s)))) ∧
        (x.exchanged = none → exec (.finish who) s = .next (err "UnexpectedRequest")) ∧
        (x.session ≠ none →
          exec (.endSession who) s = .next (say who "END_SESSION_ACK" [] (putSpdm who { x with session := none, updates := 0 } s)) ∧
          exec (.keyUpdate who) s = .next (say who "KEY_UPDATE_ACK" [] (putSpdm who { x with updates := x.updates + 1 } s)) ∧
          exec (.heartbeat who) s = .next (say who "HEARTBEAT_ACK" [] s)) ∧
        (x.session = none → ∀ i ∈ [Instr.endSession who, .keyUpdate who, .heartbeat who], exec i s = .next (err "UnexpectedRequest")) ∧
        (∀ key, who = 256 → x.session ≠ none →
          (exec (.ideKm 0 key) s = .next (say 256 "IDE_KM_ACK" [0] (s.onPkg fun p => { p with host := { p.host with ideKey := some key } }))) ∧
          ∀ n : BitVec 5, 1 ≤ n.toNat → n.toNat ≤ 16 → ∃ t f, exec (.ideKm n key) s = .next t ∧ t.vfOf n.toNat = some f ∧ f.ideKey = some key)) ∧
      ∀ (y : Spdm), (putSpdm who y s).pkg.spdmOf who = y) ∧
  (∀ (p : Package) (n : Nat), (measuredContent 6 p).length = 16 ∧ (n ≠ 6 → (measuredContent n p).length = 1)) ∧
  (∀ (m : Byte) (s : State),
    (m.toNat ≤ s.pkg.number.toNat ∨ (s.pkg.prk m).isSome = true → openSession m s = s) ∧
    (s.pkg.number.toNat < m.toNat → s.pkg.prk m = none → ∃ t, openSession m s = t ∧ OutMsg.spdm (m.setWidth 9) "KEY_EXCHANGE" [] ∈ t.pkg.outbox ∧ t.cell = s.cell ∧
      t.pkg.prk m = if Config.peerGenuine s.tick m then some (Config.sessionSecret s.tick m.toNat) else none)) ∧
  (
    (∀ (vf : BitVec 5) (f : Vf) (s : State), s.vfOf vf.toNat = some f → s.pkg.host.powered = true →
      (f.st = .unlocked → f.stopping = false → f.ideKey ≠ none → s.pkg.host.vfEnable.getLsbD 0 = true → vf.toNat ≤ s.pkg.host.numVfs.toNat →
        ∃ t, exec (.lockInterfaceRequest vf) s = .next t ∧ t.vfOf vf.toNat = some { f with st := .locked } ∧
          t.pkg.outbox = s.pkg.outbox ++ [.spdm 256 "LOCK_INTERFACE_RESPONSE" [vf.toNat]] ∧ t.cell = s.cell) ∧
      (f.st ≠ .unlocked ∨ f.stopping = true ∨ f.ideKey = none ∨ s.pkg.host.vfEnable.getLsbD 0 = false ∨ s.pkg.host.numVfs.toNat < vf.toNat →
        exec (.lockInterfaceRequest vf) s = .next (emit (.spdm 256 "TDISP_ERROR" [vf.toNat]) s)) ∧
      (f.st = .locked → f.stopping = false → ∃ t, exec (.startInterfaceRequest vf) s = .next t ∧ t.vfOf vf.toNat = some { f with st := .run } ∧
          t.pkg.outbox = s.pkg.outbox ++ [.spdm 256 "START_INTERFACE_RESPONSE" [vf.toNat]] ∧ t.cell = s.cell) ∧
      (f.st ≠ .locked ∨ f.stopping = true → exec (.startInterfaceRequest vf) s = .next (emit (.spdm 256 "TDISP_ERROR" [vf.toNat]) s)) ∧
      (f.stopping = true → exec (.stopInterfaceRequest vf) s = .next s) ∧
      (f.stopping = false → exec (.stopInterfaceRequest vf) s = .next (endLaunches (s.pkg.ownedBy vf.toNat) (onVf vf.toNat (fun f => { f with stopping := true }) s)))) ∧
    (∀ (vf : BitVec 5) (f : Vf) (s : State), s.vfOf vf.toNat = some f →
      (f.stopping = true → (s.pkg.boards.any fun b => (s.pkg.ownedBy vf.toNat).contains b.ctx) = false →
        ∃ t, exec (.scrubComplete vf) s = .next t ∧ t.vfOf vf.toNat = some { f with st := .unlocked, stopping := false } ∧ t.pkg.outbox = s.pkg.outbox ++ [.spdm 256 "STOP_INTERFACE_RESPONSE" [vf.toNat]] ∧
          (∀ ctx ∈ s.pkg.ownedBy vf.toNat, aget t.pkg.contexts ctx.toNat = none) ∧
          ((∀ e ∈ s.pkg.tlb, e.ctx ∈ s.pkg.ownedBy vf.toNat → attrNC e.attr = true ∨ attrMS e.attr = true) → t.pkg.mem = s.pkg.mem)) ∧
      (f.stopping = false ∨ (s.pkg.boards.any fun b => (s.pkg.ownedBy vf.toNat).contains b.ctx) = true → exec (.scrubComplete vf) s = .next s) ∧
      (f.st = .locked ∨ f.st = .run → exec (.ideIntegrityFailure vf) s = .next (enterError vf.toNat s)) ∧
      (f.st ≠ .locked → f.st ≠ .run → exec (.ideIntegrityFailure vf) s = .next s) ∧
      (s.pkg.host.powered = true → ∀ val, (f.command = val → exec (.frozenRegisterWrite vf .command val) s = .next s) ∧
        (f.command ≠ val → f.st = .unlocked → ∃ t, exec (.frozenRegisterWrite vf .command val) s = .next t ∧ t.vfOf vf.toNat = some { f with command := val } ∧ t.cell = s.cell) ∧
        (f.command ≠ val → f.st = .locked ∨ f.st = .run → exec (.frozenRegisterWrite vf .command val) s = .next (enterError vf.toNat (putFrozen vf.toNat .command val s))))) ∧
    ∀ (n : Nat) (s : State), 1 ≤ n → n ≤ 16 → s.pkg.launches = [] → ∃ f, (enterError n s).vfOf n = some f ∧ f.st = .error)

/-- R415: a write of MBOP starts an operation, and its completion clears BUSY and leaves its status; the mailbox takes no write while one is in
progress or before stage 4; what a read of each register gives. TRIP and RESUME have steps of their own, TRIP_CLEAR and RESUME_DOORBELL (log 55), so
that REGISTER_WRITE is not the step of a write at 0x000 or 0x010. R414: unmasking a vector sends the message that is pending, unless the
capability's enable or mask, which PCIe lays out (log 55), forbids it. R220: a slot's VIEW is written aligned, and its registers read back. R312:
what refuses a set-up; R339, R347: what a pre-emption request meets. R416: each mailbox operation is performed when its number stands in MBOP of a
mailbox that is busy and whose operation has not been performed, and leaves its status: context set-up and teardown, TLB shootdown, pre-emption,
route entries, path revival, peer clearing, link settings, the watchdog limit, the package number and the pending membership; otherwise nothing
happens. CONFIG_CHECK for a number that R416 does not list and the completion in two steps are log 52's, and how a pre-emption request is refused or
answered late, and the record that a request naming no launch known is answered with, is log 51's. -/
def Obligations.HostRegistersAndMailbox : Prop :=
  (
    (∀ (off : BitVec 16) (val : Word) (s : State), let h := s.pkg.host
      (h.powered = false ∨ h.stage.toNat < 4 ∨ h.busy = true → exec (.registerWrite .pf none off val) s = .next s) ∧
      (h.powered = true → 4 ≤ h.stage.toNat → h.busy = false →
        (off = 0x040 → exec (.registerWrite .pf none off val) s = .next (s.onHost fun h => { h with mbop := val.setWidth 8, busy := true, result := none })) ∧
        (off = 0x048 → exec (.registerWrite .pf none off val) s = .next (s.onHost fun h => { h with arg0 := val })) ∧
        (off = 0x050 → exec (.registerWrite .pf none off val) s = .next (s.onHost fun h => { h with arg1 := val })) ∧
        (∀ i < 8, off.toNat = 0x100 + 8 * i → exec (.registerWrite .pf none off val) s =
          .next (s.onHost fun h => { h with desc := h.desc.take (8 * i) ++ bytesOf 8 val.toNat ++ h.desc.drop (8 * i + 8) })) ∧
        (off ≠ 0x000 → off ≠ 0x010 → off ≠ 0x040 → off ≠ 0x048 → off ≠ 0x050 → off.toNat < 0x100 ∨ 0x138 < off.toNat ∨ off.toNat % 8 ≠ 0 →
          exec (.registerWrite .pf none off val) s = .next s))) ∧
    (∀ s : State, let h := s.pkg.host
      (∃ v, registerRead .pf none 0x000 s = some v ∧ v.extractLsb' 0 3 = h.stage ∧ v.extractLsb' 4 2 = h.ps ∧ v.extractLsb' 8 8 = h.clk ∧ v.getLsbD 16 = h.trip ∧
        v.extractLsb' 17 3 = h.tsrc ∧ v.getLsbD 3 = false ∧ v.extractLsb' 6 2 = 0#2 ∧ v.extractLsb' 20 44 = 0#44) ∧
      registerRead .pf none 0x040 s = some (h.mbop.setWidth 64) ∧ registerRead .pf none 0x048 s = some h.arg0 ∧ registerRead .pf none 0x050 s = some h.arg1 ∧
      (∃ v, registerRead .pf none 0x058 s = some v ∧ v.getLsbD 63 = h.busy ∧ v.extractLsb' 8 55 = 0#55 ∧ v.extractLsb' 0 8 = h.mbstat) ∧
      registerRead .pf none 0x010 s = some 0 ∧
      ∀ (j : Byte) (a : Aperture) (b : Bound), slotDown j s = false → aget s.pkg.apertures j.toNat = some a → a.en = true →
        (∃ v, registerRead .pf (some j) 0x000 s = some v ∧ v.getLsbD 63 = true ∧ v.extractLsb' 16 6 = a.ctx ∧ v.extractLsb' 0 15 = a.num) ∧
        registerRead .pf (some j) 0x020 s = some (a.view.setWidth 64) ∧
        (apertureStream j s.pkg = some (a, b) →
          let r := s.pkg.record b.pa
          registerRead .pf (some j) 0x008 s = some (r.head.setWidth 64) ∧
          ∃ v, registerRead .pf (some j) 0x018 s = some v ∧ v.getLsbD 63 = r.closed ∧ v.extractLsb' 48 8 = r.err ∧ v.extractLsb' 0 48 = r.tail)) ∧
    (∀ (j : Byte) (val : Word) (s : State), slotDown j s = false →
      ∃ t a, exec (.registerWrite .pf (some j) 0x020 val) s = .next t ∧ aget t.pkg.apertures j.toNat = some a ∧ a.view = val.setWidth 48 &&& 0xFFFF_FFFF_F000#48 ∧ t.cell = s.cell) ∧
    (∀ (n : BitVec 5) (f : Vf) (vec : Bool) (s : State), s.vfOf n.toNat = some f → f.st ≠ .error →
      let i : Fin 2 := if vec then 1 else 0
      let j : Fin 2 := if vec then 0 else 1
      (f.msix.getLsbD 31 = true → f.msix.getLsbD 30 = false → f.masked[j] = true ∨ f.pendingBit[j] = false →
        ∃ t g, exec (.msixVectorUnmask n vec) s = .next t ∧ t.vfOf n.toNat = some g ∧ g.masked[i] = false ∧ g.pendingBit[i] = false ∧
          t.pkg.outbox = s.pkg.outbox ++ (if f.pendingBit[i] then [.msix n vec f.table[i].1 f.table[i].2] else [])) ∧
      (f.msix.getLsbD 31 = false ∨ f.msix.getLsbD 30 = true →
        ∃ t g, exec (.msixVectorUnmask n vec) s = .next t ∧ t.vfOf n.toNat = some g ∧ g.masked[i] = false ∧ g.pendingBit = f.pendingBit ∧ t.pkg.outbox = s.pkg.outbox)) ∧
    (∀ s : State, let h := s.pkg.host
      (h.busy = false → exec .mailboxCompletion s = .next s) ∧
      (∀ code, h.busy = true → h.result = some code → exec .mailboxCompletion s = .next (s.onHost fun h => { h with busy := false, mbstat := code, result := none })) ∧
      (h.busy = true → h.result = none → h.mbop = 0 ∨ 12 < h.mbop.toNat →
        exec .mailboxCompletion s = .next (s.onHost fun h => { h with busy := false, mbstat := cCONFIG_CHECK, result := none })) ∧
      (h.powered = true → 4 ≤ h.stage.toNat → exec .tripClear s = .next (s.onHost fun h => { h with trip := false })))) ∧
  (
    ∀ s : State, s.pkg.host.powered = true → s.pkg.host.busy = true → s.pkg.host.result = none →
      let h := s.pkg.host
      let ends (code : Byte) (t : State) : Host.Outcome State Fault Refusal := .next (t.onHost fun h => { h with result := some code })
      let ops : List (Nat × Instr) := [(1, .contextSetUp), (2, .contextTeardown), (3, .tlbShootdown), (4, .preEmption), (5, .routeEntry), (6, .pathRevive), (7, .peerClear), (8, .linkSettings),
        (9, .watchdogLimit), (10, .packageNumber), (11, .pendingMembership)]
      (∀ n i, (n, i) ∈ ops → h.mbop.toNat ≠ n → exec i s = .next s) ∧
      (h.mbop = 1 → h.held = false →
        (∀ code t, setUp s = (.ok code, t) → code ≠ 0 → exec .contextSetUp s = ends code (if stillborn s then s.onPkg (tearDown (setUpCtx s)) else s)) ∧
        (∀ t, setUp s = (.ok 0, t) → exec .contextSetUp s = ends 0 t) ∧
        ∀ l v t, setUp s = (.stall l v, t) → exec .contextSetUp s = .next (noteStall (setUpCtx s) sequencers 6 0 l v (t.onHost fun h => { h with held := true }))) ∧
      (h.mbop = 1 → h.held = true → exec .contextSetUp s = .next s) ∧
      (h.mbop = 2 → h.arg0.toNat < 64 → let ctx : BitVec 6 := h.arg0.setWidth 6
        (aget s.pkg.contexts ctx.toNat = none ∨ (s.pkg.launches.any fun l : Launch => l.ctx == ctx && l.st == .admitted) = true → exec .contextTeardown s = ends cACCESS s) ∧
        (aget s.pkg.contexts ctx.toNat ≠ none → (s.pkg.launches.any fun l : Launch => l.ctx == ctx && l.st == .admitted) = false →
          exec .contextTeardown s = ends 0 (s.onPkg (tearDown ctx)))) ∧
      (h.mbop = 3 → h.arg0.toNat < 64 → exec .tlbShootdown s = ends 0 (s.onPkg fun p => { p with tlb := p.tlb.filter fun e : TlbEntry => e.ctx.toNat != h.arg0.toNat })) ∧
      (h.mbop = 4 → exec .preEmption s = ends (askPreempt s).2 (askPreempt s).1) ∧
      (h.mbop = 5 → (∀ code t, routeEntry s = (code, t) → code ≠ 0 → exec .routeEntry s = ends code s) ∧ ∀ t, routeEntry s = (0, t) → exec .routeEntry s = ends 0 t) ∧
      (h.mbop = 6 → h.arg0.toNat < 1024 → exec .pathRevive s = ends 0 (revive (h.arg0.setWidth 8) (h.arg0.extractLsb' 8 2).toNat s)) ∧
      (h.mbop = 7 → h.arg0.toNat < 256 → let t : Byte := h.arg0.setWidth 8
        ((s.pkg.peer t).failed = true ∨ (s.pkg.peer t).out = [] → exec .peerClear s = ends 0 (s.onPkg (Package.onPeer t fun P =>
          { Peer.reset with ports := (s.pkg.peer t).ports, live := (s.pkg.peer t).live, last := (s.pkg.peer t).last, held := (s.pkg.peer t).held }))) ∧
        ((s.pkg.peer t).failed = false → (s.pkg.peer t).out ≠ [] → exec .peerClear s = ends cACCESS s)) ∧
      (h.mbop = 8 → h.arg0.toNat < 2 ^ 49 → let a := (h.arg0.extractLsb' 0 24).toNat; let b := (h.arg0.extractLsb' 24 24).toNat
        (1 ≤ a → a ≤ 10 ^ 7 → 1 ≤ b → b ≤ 10 ^ 7 →
          exec .linkSettings s = ends 0 (s.onPkg fun p => { p with linkTimeout := a, resendInterval := b, skid := h.arg0.getLsbD 48 })) ∧
        (a < 1 ∨ 10 ^ 7 < a ∨ b < 1 ∨ 10 ^ 7 < b → exec .linkSettings s = ends cCONFIG_CHECK s)) ∧
      (h.mbop = 9 → h.arg0.toNat < 2 ^ 48 → exec .watchdogLimit s = ends 0 (s.onPkg fun p => { p with watchdogLimit := h.arg0.toNat })) ∧
      (h.mbop = 10 → h.arg0.toNat < 256 → (s.pkg.contexts = [] → exec .packageNumber s = ends 0 (s.onPkg fun p => { p with number := h.arg0.setWidth 8 })) ∧
        (s.pkg.contexts ≠ [] → exec .packageNumber s = ends cACCESS s)) ∧
      (h.mbop = 11 → exec .pendingMembership s =
        let mask := BitVec.ofNat 256 (ofBytes (h.desc.take 32))
        ends 0 ((s.pkg.othersOf mask).foldl (fun s m => openSession m s) (s.onPkg fun p => { p with trust := { p.trust with pending := some (mask, h.arg0) } }))) ∧
      (∀ n i, (n, i) ∈ [(2, Instr.contextTeardown), (3, .tlbShootdown)] → h.mbop.toNat = n → 64 ≤ h.arg0.toNat → exec i s = ends cCONFIG_CHECK s)) ∧
  (
    ∀ s : State, let a := s.pkg.host.arg0
      let d := wordsOfBytes 8 s.pkg.host.desc
      let w (i : Nat) : Word := d.getD i 0
      let refused : Prop := 2 ^ 13 ≤ a.toNat ∨ a.extractLsb' 6 2 ≠ 0 ∨ 16 < (a.extractLsb' 8 5).toNat ∨ (w 0).extractLsb' 52 12 ≠ 0 ∨ (w 0).extractLsb' 0 11 ≠ 0 ∨
        (w 5).extractLsb' 0 39 ≠ 0 ∨ w 6 ≠ 0 ∨ w 7 ≠ 0 ∨ (w 5).extractLsb' 40 8 = 0 ∨ 144 < ((w 5).extractLsb' 40 8).toNat
      let taken : Prop := ∃ c, aget s.pkg.contexts (a.extractLsb' 0 6).toNat = some c ∧ (c.prioMask ≠ 0 ∨ c.maxBlk ≠ 0)
      (refused → setUp s = (.ok cCONFIG_CHECK, s)) ∧ (¬ refused → taken → setUp s = (.ok cACCESS, s)) ∧
      (¬ refused → ¬ taken → (w 2).toNat % 8 ≠ 0 ∨ (w 4).toNat % 128 ≠ 0 → setUp s = (.ok cMISALIGNED, s)) ∧
      ∀ t, setUp s = (.ok 0, t) → ∃ c, aget t.pkg.contexts (a.extractLsb' 0 6).toNat = some c ∧ c.root = ((w 0).extractLsb' 11 41).toNat * 2 ^ 11 ∧ c.seed = w 1 ∧ c.mflags = w 2 ∧
        c.strec = w 4 ∧ c.prioMask = (w 5).extractLsb' 48 16 ∧ c.maxBlk = ((w 5).extractLsb' 40 8).toNat ∧ c.rtok = (w 5).getLsbD 39 ∧ c.owner = a.extractLsb' 8 5) ∧
  (
    ∀ (s : State) (l : Launch), let a := s.pkg.host.arg0
      let save : Word := s.pkg.host.arg1 &&& ~~~(0xFFF#64)
      let stream := (a.extractLsb' 48 5).toNat
      (a.extractLsb' 59 5 ≠ 0 ∨ stream = 0 ∨ 16 < stream → askPreempt s = (s, cCONFIG_CHECK)) ∧
      (a.extractLsb' 59 5 = 0 → 1 ≤ stream → stream ≤ 16 →
        s.pkg.launches.find? (fun l : Launch => l.ctx == a.extractLsb' 53 6 && l.prio + 1 == stream && l.pos == a.extractLsb' 0 48) = none →
        ∃ r : List Word, askPreempt s = (post (a.extractLsb' 53 6) r s, cACCESS) ∧ r.length = 8 ∧ r.getD 2 0 = save ∧
          (r.getD 0 0).extractLsb' 0 8 = 5#8 ∧ (r.getD 0 0).extractLsb' 8 8 = cACCESS ∧ ((r.getD 0 0).extractLsb' 32 8).toNat = stream ∧
          (r.getD 0 0).extractLsb' 40 6 = a.extractLsb' 53 6 ∧ (r.getD 1 0).extractLsb' 0 48 = a.extractLsb' 0 48 ∧
          (r.getD 1 0).extractLsb' 48 16 = ((namedRecord (a.extractLsb' 53 6) stream (a.extractLsb' 0 48) s).getD 6 0).extractLsb' 48 16) ∧
      (a.extractLsb' 59 5 = 0 → 1 ≤ stream → stream ≤ 16 →
        s.pkg.launches.find? (fun l : Launch => l.ctx == a.extractLsb' 53 6 && l.prio + 1 == stream && l.pos == a.extractLsb' 0 48) = some l →
        (l.st ≠ .admitted ∨ l.preempt.isSome = true ∨ l.complete s.pkg = true → askPreempt s = (post (a.extractLsb' 53 6) (ackRecord l save cACCESS 0) s, cACCESS)) ∧
        (l.st = .admitted → l.preempt = none → l.complete s.pkg = false →
          (l.status ≠ none → askPreempt s = (s.onPkg (Package.onLaunch l.id fun l => { l with late := l.late ++ [save] }), cACCESS)) ∧
          (l.status = none → ∀ q p, placeRange true true (a.extractLsb' 53 6) save.toNat l.saveSize s.pkg = (.ok q, p) →
            ∃ t, askPreempt s = (t, 0) ∧ (∀ b ∈ t.pkg.boards, b.launch = some l.id → b.phase ≠ .running) ∧
              (t.pkg.launch l.id).bind (·.preempt) = some ⟨save, (s.pkg.host.arg1.extractLsb' 0 12).toNat⟩ ∧ t.cell = s.cell ∧ t.pkg.mem = s.pkg.mem))))

/-- R417-R419: each power state is entered by mailbox operation 12 and is refused where R417 says so (with ACCESS, and PS3 turns the module off
before its status could be read: log 53); PS3 and a thermal trip lose all but the record of the trip, which PS3 keeps too; the clock restarts; the
module comes up by stages, and a self-test that fails leads to stage 7. That the agenda and the outbox outlast the power is log 4's. -/
def Obligations.PowerAndBringUp : Prop :=
  (∀ s : State, s.pkg.host.powered = true → s.pkg.host.busy = true → s.pkg.host.result = none → s.pkg.host.mbop = 12 → s.pkg.host.arg0.toNat < 2 ^ 16 →
    s.pkg.host.arg0.extractLsb' 2 6 = 0 →
    let h := s.pkg.host
    let c := (h.arg0.extractLsb' 8 8).toNat
    let ends (code : Byte) (t : State) : Host.Outcome State Fault Refusal := .next (t.onHost fun h => { h with result := some code })
    (h.arg0.extractLsb' 0 2 = 0 →
      (c < 10 ∨ 25 < c → exec .powerStatePs0 s = ends cCONFIG_CHECK s) ∧
      (10 ≤ c → c ≤ 25 → ∃ t, exec .powerStatePs0 s = .next t ∧ t.pkg.host.ps = 0 ∧ t.pkg.host.clk = BitVec.ofNat 8 c ∧ t.pkg.host.gated = 0 ∧ t.pkg.host.clockStopped = true ∧
        t.pkg.host.result = some 0 ∧ t.pkg.allocDue = true ∧ t.pkg.mem = s.pkg.mem ∧ (h.ps ≠ 2 → t.cell = s.cell ∧ t.others = s.others) ∧
        (h.ps = 2 → t.cell = Cell.reset ∧ t.others = []))) ∧
    (h.arg0.extractLsb' 0 2 = 1 → let mask : BitVec 144 := BitVec.ofNat 144 (ofBytes (h.desc.take 18))
      (h.ps ≠ 2 → s.pkg.boards = [] → exec .powerStatePs1 s = ends 0 (s.onHost fun h => { h with ps := 1, gated := mask })) ∧
      (h.ps = 2 → exec .powerStatePs1 s = ends cACCESS s) ∧
      (∀ b ∈ s.pkg.boards, ∀ r c, b.brow ≤ r → r < b.brow + b.h → r < 6 → b.bcol ≤ c → c < b.bcol + b.w → c < 6 → b.die < 4 → mask.getLsbD (36 * b.die + 6 * r + c) = true →
        exec .powerStatePs1 s = ends cACCESS s)) ∧
    (h.arg0.extractLsb' 0 2 = 2 →
      (h.ps ≠ 2 → s.pkg.boards = [] → exec .powerStatePs2 s = ends 0 (s.onHost fun h => { h with ps := 2 })) ∧
      (h.ps = 2 ∨ s.pkg.boards ≠ [] → exec .powerStatePs2 s = ends cACCESS s)) ∧
    (h.arg0.extractLsb' 0 2 = 3 → exec .powerStatePs3 s = .next (turnedOff h.trip h.tsrc s)) ∧
    (∀ n i, (n, i) ∈ [(0, Instr.powerStatePs0), (1, .powerStatePs1), (2, .powerStatePs2)] → (h.arg0.extractLsb' 0 2).toNat ≠ n → exec i s = .next s)) ∧
  (∀ (src : BitVec 3) (s : State),
    (s.pkg.host.powered = true → src.toNat ≤ 4 → exec (.thermalTrip src) s = .next (turnedOff true src s)) ∧
    (s.pkg.host.powered = false ∨ 4 < src.toNat → exec (.thermalTrip src) s = .next s)) ∧
  (∀ (trip : Bool) (src : BitVec 3) (s : State), let t := turnedOff trip src s
    t.cell = Cell.reset ∧ t.others = [] ∧ t.pkg.mem = [] ∧ t.pkg.contexts = [] ∧ t.pkg.boards = [] ∧ t.pkg.host.powered = false ∧ t.pkg.host.trip = trip ∧ t.pkg.host.tsrc = src) ∧
  ∀ s : State, exec .clockRestart s = .next (s.onHost fun h => { h with clockStopped := false }) ∧
    (s.pkg.host.powered = false → exec .powerOn s = .next ((s.onHost fun h => { h with powered := true, stage := 1 }).onPkg fun p => { p with far := Config.farRanges })) ∧
    (s.pkg.host.powered = true → exec .powerOn s = .next s) ∧
    (s.pkg.host.powered = true → 1 ≤ s.pkg.host.stage.toNat → s.pkg.host.stage.toNat ≤ 3 →
      exec (.stageAdvance true) s = .next (s.onHost fun h => { h with stage := h.stage + 1 }) ∧ exec (.stageAdvance false) s = .next (s.onHost fun h => { h with stage := 7 })) ∧
    (s.pkg.host.powered = false ∨ s.pkg.host.stage = 0 ∨ 4 ≤ s.pkg.host.stage.toNat → ∀ ok, exec (.stageAdvance ok) s = .next s)
end

