-- ==== Sys2Proof/Laws/Maps.lean ====
section
/-! SUPPORT. The laws of sparse maps, keyed lists and byte lists, and of memory and cell store, which are built from them: read after
write, and that every operation keeps the canonical form. -/

namespace Sys2Proof.Machine

variable {α : Type} [DecidableEq α] (d : α)

/-! ### Sparse maps -/

theorem sparseFrom_mono {lo lo' : Nat} (h : lo' ≤ lo) : ∀ {m : List (Nat × α)}, sparseFrom d lo m = true → sparseFrom d lo' m = true
  | [], _ => rfl
  | (j, v) :: r, hm => by
    simp only [sparseFrom, Bool.and_eq_true, decide_eq_true_eq, Bool.not_eq_true', decide_eq_false_iff_not] at hm ⊢
    exact ⟨⟨by omega, hm.1.2⟩, hm.2⟩

/-- Taking a key out keeps the canonical form. -/
theorem sparseFrom_filter (k : Nat) : ∀ {m : List (Nat × α)} {lo : Nat}, sparseFrom d lo m = true → sparseFrom d lo (m.filter fun e => e.1 != k) = true
  | [], _, _ => rfl
  | (j, w) :: r, lo, hm => by
    simp only [sparseFrom, Bool.and_eq_true, decide_eq_true_eq] at hm
    by_cases hj : j = k
    · simpa [hj] using sparseFrom_mono d (by omega) (sparseFrom_filter k hm.2)
    · simp [hj, sparseFrom, hm.1.1, sparseFrom_filter k hm.2]
      simpa using hm.1.2

/-- Putting in a key that is not there keeps the canonical form. -/
theorem sparseFrom_sinsert (k : Nat) {v : α} (hv : v ≠ d) :
    ∀ {m : List (Nat × α)} {lo : Nat}, lo ≤ k → (∀ e ∈ m, e.1 ≠ k) → sparseFrom d lo m = true → sparseFrom d lo (sinsert k v m) = true
  | [], lo, h, _, _ => by simp [sinsert, sparseFrom, hv, h]
  | (j, w) :: r, lo, h, hk, hm => by
    simp only [sparseFrom, Bool.and_eq_true, decide_eq_true_eq, Bool.not_eq_true', decide_eq_false_iff_not] at hm
    have hj := hk (j, w) List.mem_cons_self
    unfold sinsert
    split
    · simp [sparseFrom, hv, h, hm.1.2, hm.2]; omega
    · have := sparseFrom_sinsert k hv (lo := j + 1) (by simp only [ne_eq] at hj; omega) (fun e he => hk e (List.mem_cons_of_mem _ he)) hm.2
      simp [sparseFrom, hm.1.1, hm.1.2, this]

omit [DecidableEq α] in
theorem not_key_filter (k : Nat) (m : List (Nat × α)) : ∀ e ∈ m.filter (fun e => e.1 != k), e.1 ≠ k := by
  intro e he
  simpa using (List.mem_filter.1 he).2

/-- A write keeps the canonical form. -/
theorem sparseFrom_sput (k : Nat) (v : α) {m : List (Nat × α)} {lo : Nat} (h : lo ≤ k) (hm : sparseFrom d lo m = true) :
    sparseFrom d lo (sput d k v m) = true := by
  unfold sput
  split
  · exact sparseFrom_filter d k hm
  · exact sparseFrom_sinsert d k ‹_› h (not_key_filter k m) (sparseFrom_filter d k hm)

theorem sput_keeps_wf (k : Nat) (v : α) {m : List (Nat × α)} (h : sparseWf d m = true) : sparseWf d (sput d k v m) = true :=
  sparseFrom_sput d k v (Nat.zero_le k) h

theorem sputs_keeps_wf (vs : List α) : ∀ (k : Nat) {m : List (Nat × α)}, sparseWf d m = true → sparseWf d (sputs d k vs m) = true := by
  induction vs with
  | nil => exact fun _ _ h => h
  | cons v vs ih => exact fun k _ h => ih (k + 1) (sput_keeps_wf d k v h)

theorem foldl_sput_keeps_wf (f : Nat → α) (l : List Nat) :
    ∀ {m : List (Nat × α)}, sparseWf d m = true → sparseWf d (l.foldl (fun m i => sput d i (f i) m) m) = true := by
  induction l with
  | nil => exact fun h => h
  | cons i l ih => exact fun h => ih (sput_keeps_wf d i (f i) h)

omit [DecidableEq α] in
theorem sget_filter_same (k : Nat) : ∀ m : List (Nat × α), sget d (m.filter fun e => e.1 != k) k = d
  | [] => rfl
  | (j, w) :: r => by
    by_cases hj : j = k
    · simpa [hj] using sget_filter_same k r
    · simpa [hj, sget] using sget_filter_same k r

omit [DecidableEq α] in
theorem sget_filter_other {k j : Nat} (hjk : j ≠ k) : ∀ m : List (Nat × α), sget d (m.filter fun e => e.1 != k) j = sget d m j
  | [] => rfl
  | (i, w) :: r => by
    by_cases hi : i = k
    · have : ¬ k = j := fun h => hjk h.symm
      simpa [hi, sget, this] using sget_filter_other hjk r
    · by_cases hj : i = j
      · simp [hj, sget, hjk]
      · simpa [hi, sget, hj] using sget_filter_other hjk r

omit [DecidableEq α] in
theorem sget_sinsert_same (k : Nat) (v : α) : ∀ {m : List (Nat × α)}, (∀ e ∈ m, e.1 ≠ k) → sget d (sinsert k v m) k = v
  | [], _ => by simp [sinsert, sget]
  | (j, w) :: r, hk => by
    unfold sinsert
    split
    · simp [sget]
    · have hj : ¬ j = k := hk (j, w) List.mem_cons_self
      simpa [sget, hj] using sget_sinsert_same k v fun e he => hk e (List.mem_cons_of_mem _ he)

omit [DecidableEq α] in
theorem sget_sinsert_other {k j : Nat} (v : α) (hjk : j ≠ k) : ∀ m : List (Nat × α), sget d (sinsert k v m) j = sget d m j
  | [] => by simp [sinsert, sget, Ne.symm hjk]
  | (i, w) :: r => by
    unfold sinsert
    split
    · simp [sget, Ne.symm hjk]
    · by_cases hi : i = j
      · simp [sget, hi]
      · simpa [sget, hi] using sget_sinsert_other v hjk r

/-- Reading the key that was written gives the value. -/
@[simp] theorem sget_sput_same (k : Nat) (v : α) (m : List (Nat × α)) : sget d (sput d k v m) k = v := by
  unfold sput
  split
  · rw [sget_filter_same, ‹v = d›]
  · exact sget_sinsert_same d k v (not_key_filter k m)

/-- Reading another key gives what it gave. -/
theorem sget_sput_other {k j : Nat} (v : α) (hjk : j ≠ k) (m : List (Nat × α)) : sget d (sput d k v m) j = sget d m j := by
  unfold sput
  split
  · exact sget_filter_other d hjk m
  · rw [sget_sinsert_other d v hjk, sget_filter_other d hjk]

/-- A key outside a written range reads as before. -/
theorem sget_sputs_outside (vs : List α) : ∀ {k j : Nat} (m : List (Nat × α)), (j < k ∨ k + vs.length ≤ j) → sget d (sputs d k vs m) j = sget d m j := by
  induction vs with
  | nil => intros; rfl
  | cons v vs ih =>
    intro k j m hj
    have hl : (v :: vs).length = vs.length + 1 := rfl
    rw [sputs, ih _ (by omega)]
    exact sget_sput_other d v (by omega) m

/-- The i-th key of a written range reads as the i-th value. -/
theorem sget_sputs_inside (vs : List α) : ∀ {k i : Nat} (m : List (Nat × α)) (hi : i < vs.length), sget d (sputs d k vs m) (k + i) = vs[i] := by
  induction vs with
  | nil => intro _ _ _ hi; simp at hi
  | cons v vs ih =>
    intro k i m hi
    cases i with
    | zero => rw [sputs, sget_sputs_outside d vs _ (.inl (by omega))]; exact sget_sput_same d k v m
    | succ i =>
      have := ih (k := k + 1) (i := i) (sput d k v m) (by simpa using hi)
      rw [sputs, show k + (i + 1) = k + 1 + i by omega, this]
      rfl

/-- A written range reads as what was written. -/
theorem sgets_sputs (vs : List α) (k : Nat) (m : List (Nat × α)) : sgets d (sputs d k vs m) k vs.length = vs := by
  apply List.ext_getElem
  · simp [sgets]
  · intro i h1 h2
    simp only [sgets, List.getElem_map, List.getElem_range]
    exact sget_sputs_inside d vs m h2

/-- What a whole range write leaves, byte by byte. -/
theorem sget_sputs (vs : List α) (k j : Nat) (m : List (Nat × α)) :
    sget d (sputs d k vs m) j = if k ≤ j ∧ j < k + vs.length then vs.getD (j - k) d else sget d m j := by
  split
  · rename_i h
    obtain ⟨i, rfl⟩ := Nat.exists_eq_add_of_le h.1
    have hi : i < vs.length := by omega
    simp [sget_sputs_inside d vs m hi, List.getD_eq_getElem?_getD, hi]
  · exact sget_sputs_outside d vs m (by omega)

/-! ### Memory and cell store -/

/-- A write keeps the canonical form of memory. -/
theorem write_keeps_wf (k : Nat) (data : List Byte) {p : Package} (h : Memory.wf p.mem = true) : Memory.wf (p.write k data).mem = true :=
  sputs_keeps_wf unlisted data k h

/-- Marking bytes as poisoned leaves memory. -/
theorem poisoned_mem (k n : Nat) (p : Package) : (p.poisoned k n).mem = p.mem := rfl

/-- What is written is read. -/
theorem read_write (k : Nat) (data : List Byte) (p : Package) : (p.write k data).read k data.length = data :=
  sgets_sputs unlisted data k p.mem

/-- A byte after a write: the one written there, or the one from before. -/
theorem byte_write (k q : Nat) (data : List Byte) (p : Package) :
    (p.write k data).byte q = if k ≤ q ∧ q < k + data.length then data.getD (q - k) unlisted else p.byte q :=
  sget_sputs unlisted data k q p.mem

/-- A byte outside what is written reads as before. -/
theorem byte_write_outside {k j : Nat} (data : List Byte) (p : Package) (hj : j < k ∨ k + data.length ≤ j) : (p.write k data).byte j = p.byte j :=
  sget_sputs_outside unlisted data p.mem hj

theorem writePieces_keeps_wf : ∀ (l : List (Nat × Nat)) (data : List Byte) {p : Package}, Memory.wf p.mem = true → Memory.wf (Package.writePieces l data p).mem = true
  | [], _, _, h => h
  | (k, n) :: r, data, _, h => writePieces_keeps_wf r (data.drop n) (write_keeps_wf k (data.take n) h)

end Sys2Proof.Machine
end

