-- ==== Sys2Proof/Laws/PerInstr.lean ====
section
/-! SUPPORT. The family EncodedLength: how many words an instruction takes in the instruction store (R54, R62), one lemma for each
constructor. -/

namespace Sys2Proof.Laws.EncodedLength

/-- An instruction encodes to one word, to four for a command, or, a step of the hardware, to none. -/
def Statement (i : Instr) : Prop := (encode i).length = 0 ∨ (encode i).length = 1 ∨ (encode i).length = 4

/-- The words of everything but the commands: at most one. -/
theorem one_or_none (w : W32) : (if w = 0 then ([] : List W32) else [w]).length = 0 ∨ (if w = 0 then ([] : List W32) else [w]).length = 1 ∨ (if w = 0 then ([] : List W32) else [w]).length = 4 := by
  by_cases h : w = 0
  · exact .inl (by rw [if_pos h]; rfl)
  · exact .inr (.inl (by rw [if_neg h]; rfl))

theorem add (d : XIdx) (a : XIdx) (b : XIdx) (w : Bool) : Statement (.add d a b w) := one_or_none (encodeWord (.add d a b w))
theorem sub (d : XIdx) (a : XIdx) (b : XIdx) (w : Bool) : Statement (.sub d a b w) := one_or_none (encodeWord (.sub d a b w))
theorem and (d : XIdx) (a : XIdx) (b : XIdx) : Statement (.and d a b) := one_or_none (encodeWord (.and d a b))
theorem or (d : XIdx) (a : XIdx) (b : XIdx) : Statement (.or d a b) := one_or_none (encodeWord (.or d a b))
theorem xor (d : XIdx) (a : XIdx) (b : XIdx) : Statement (.xor d a b) := one_or_none (encodeWord (.xor d a b))
theorem andn (d : XIdx) (a : XIdx) (b : XIdx) : Statement (.andn d a b) := one_or_none (encodeWord (.andn d a b))
theorem orn (d : XIdx) (a : XIdx) (b : XIdx) : Statement (.orn d a b) := one_or_none (encodeWord (.orn d a b))
theorem shl (d : XIdx) (a : XIdx) (b : XIdx) (w : Bool) : Statement (.shl d a b w) := one_or_none (encodeWord (.shl d a b w))
theorem shr (d : XIdx) (a : XIdx) (b : XIdx) (w : Bool) : Statement (.shr d a b w) := one_or_none (encodeWord (.shr d a b w))
theorem sra (d : XIdx) (a : XIdx) (b : XIdx) (w : Bool) : Statement (.sra d a b w) := one_or_none (encodeWord (.sra d a b w))
theorem rotl (d : XIdx) (a : XIdx) (b : XIdx) (w : Bool) : Statement (.rotl d a b w) := one_or_none (encodeWord (.rotl d a b w))
theorem min (d : XIdx) (a : XIdx) (b : XIdx) : Statement (.min d a b) := one_or_none (encodeWord (.min d a b))
theorem max (d : XIdx) (a : XIdx) (b : XIdx) : Statement (.max d a b) := one_or_none (encodeWord (.max d a b))
theorem minu (d : XIdx) (a : XIdx) (b : XIdx) : Statement (.minu d a b) := one_or_none (encodeWord (.minu d a b))
theorem maxu (d : XIdx) (a : XIdx) (b : XIdx) : Statement (.maxu d a b) := one_or_none (encodeWord (.maxu d a b))
theorem mul (d : XIdx) (a : XIdx) (b : XIdx) (w : Bool) : Statement (.mul d a b w) := one_or_none (encodeWord (.mul d a b w))
theorem mulh (d : XIdx) (a : XIdx) (b : XIdx) : Statement (.mulh d a b) := one_or_none (encodeWord (.mulh d a b))
theorem mulhu (d : XIdx) (a : XIdx) (b : XIdx) : Statement (.mulhu d a b) := one_or_none (encodeWord (.mulhu d a b))
theorem div (d : XIdx) (a : XIdx) (b : XIdx) (w : Bool) : Statement (.div d a b w) := one_or_none (encodeWord (.div d a b w))
theorem divu (d : XIdx) (a : XIdx) (b : XIdx) (w : Bool) : Statement (.divu d a b w) := one_or_none (encodeWord (.divu d a b w))
theorem rem (d : XIdx) (a : XIdx) (b : XIdx) (w : Bool) : Statement (.rem d a b w) := one_or_none (encodeWord (.rem d a b w))
theorem remu (d : XIdx) (a : XIdx) (b : XIdx) (w : Bool) : Statement (.remu d a b w) := one_or_none (encodeWord (.remu d a b w))
theorem slt (d : XIdx) (a : XIdx) (b : XIdx) : Statement (.slt d a b) := one_or_none (encodeWord (.slt d a b))
theorem sltu (d : XIdx) (a : XIdx) (b : XIdx) : Statement (.sltu d a b) := one_or_none (encodeWord (.sltu d a b))
theorem clz (d : XIdx) (a : XIdx) (w : Bool) : Statement (.clz d a w) := one_or_none (encodeWord (.clz d a w))
theorem ctz (d : XIdx) (a : XIdx) (w : Bool) : Statement (.ctz d a w) := one_or_none (encodeWord (.ctz d a w))
theorem popc (d : XIdx) (a : XIdx) (w : Bool) : Statement (.popc d a w) := one_or_none (encodeWord (.popc d a w))
theorem bswap (d : XIdx) (a : XIdx) (w : Bool) : Statement (.bswap d a w) := one_or_none (encodeWord (.bswap d a w))
theorem sel (d : XIdx) (a : XIdx) (b : XIdx) (p : PIdx) : Statement (.sel d a b p) := one_or_none (encodeWord (.sel d a b p))
theorem addi (d : XIdx) (a : XIdx) (i : BitVec 16) : Statement (.addi d a i) := one_or_none (encodeWord (.addi d a i))
theorem andi (d : XIdx) (a : XIdx) (i : BitVec 16) : Statement (.andi d a i) := one_or_none (encodeWord (.andi d a i))
theorem ori (d : XIdx) (a : XIdx) (i : BitVec 16) : Statement (.ori d a i) := one_or_none (encodeWord (.ori d a i))
theorem xori (d : XIdx) (a : XIdx) (i : BitVec 16) : Statement (.xori d a i) := one_or_none (encodeWord (.xori d a i))
theorem shli (d : XIdx) (a : XIdx) (s : BitVec 6) : Statement (.shli d a s) := one_or_none (encodeWord (.shli d a s))
theorem shri (d : XIdx) (a : XIdx) (s : BitVec 6) : Statement (.shri d a s) := one_or_none (encodeWord (.shri d a s))
theorem srai (d : XIdx) (a : XIdx) (s : BitVec 6) : Statement (.srai d a s) := one_or_none (encodeWord (.srai d a s))
theorem slti (d : XIdx) (a : XIdx) (i : BitVec 16) : Statement (.slti d a i) := one_or_none (encodeWord (.slti d a i))
theorem sltui (d : XIdx) (a : XIdx) (i : BitVec 16) : Statement (.sltui d a i) := one_or_none (encodeWord (.sltui d a i))
theorem lui (d : XIdx) (i : BitVec 16) : Statement (.lui d i) := one_or_none (encodeWord (.lui d i))
theorem lhi (d : XIdx) (h : Bool) (i : BitVec 16) : Statement (.lhi d h i) := one_or_none (encodeWord (.lhi d h i))
theorem lea (d : XIdx) (a : XIdx) (b : XIdx) (s : BitVec 3) : Statement (.lea d a b s) := one_or_none (encodeWord (.lea d a b s))
theorem extf (d : XIdx) (a : XIdx) (w : BitVec 6) (p : BitVec 6) : Statement (.extf d a w p) := one_or_none (encodeWord (.extf d a w p))
theorem extfs (d : XIdx) (a : XIdx) (w : BitVec 6) (p : BitVec 6) : Statement (.extfs d a w p) := one_or_none (encodeWord (.extfs d a w p))
theorem insf (d : XIdx) (a : XIdx) (w : BitVec 6) (p : BitVec 6) : Statement (.insf d a w p) := one_or_none (encodeWord (.insf d a w p))
theorem cmpEq (d : PIdx) (a : XIdx) (b : XIdx) : Statement (.cmpEq d a b) := one_or_none (encodeWord (.cmpEq d a b))
theorem cmpNe (d : PIdx) (a : XIdx) (b : XIdx) : Statement (.cmpNe d a b) := one_or_none (encodeWord (.cmpNe d a b))
theorem cmpLt (d : PIdx) (a : XIdx) (b : XIdx) : Statement (.cmpLt d a b) := one_or_none (encodeWord (.cmpLt d a b))
theorem cmpGe (d : PIdx) (a : XIdx) (b : XIdx) : Statement (.cmpGe d a b) := one_or_none (encodeWord (.cmpGe d a b))
theorem cmpLtu (d : PIdx) (a : XIdx) (b : XIdx) : Statement (.cmpLtu d a b) := one_or_none (encodeWord (.cmpLtu d a b))
theorem cmpGeu (d : PIdx) (a : XIdx) (b : XIdx) : Statement (.cmpGeu d a b) := one_or_none (encodeWord (.cmpGeu d a b))
theorem pand (d : PIdx) (a : PIdx) (b : PIdx) : Statement (.pand d a b) := one_or_none (encodeWord (.pand d a b))
theorem por (d : PIdx) (a : PIdx) (b : PIdx) : Statement (.por d a b) := one_or_none (encodeWord (.por d a b))
theorem pxor (d : PIdx) (a : PIdx) (b : PIdx) : Statement (.pxor d a b) := one_or_none (encodeWord (.pxor d a b))
theorem pnot (d : PIdx) (a : PIdx) : Statement (.pnot d a) := one_or_none (encodeWord (.pnot d a))
theorem pmov (d : PIdx) (a : PIdx) : Statement (.pmov d a) := one_or_none (encodeWord (.pmov d a))
theorem b (disp : BitVec 21) : Statement (.b disp) := one_or_none (encodeWord (.b disp))
theorem bp (p : PIdx) (disp : BitVec 21) : Statement (.bp p disp) := one_or_none (encodeWord (.bp p disp))
theorem bnp (p : PIdx) (disp : BitVec 21) : Statement (.bnp p disp) := one_or_none (encodeWord (.bnp p disp))
theorem bz (c : XIdx) (disp : BitVec 21) : Statement (.bz c disp) := one_or_none (encodeWord (.bz c disp))
theorem bnz (c : XIdx) (disp : BitVec 21) : Statement (.bnz c disp) := one_or_none (encodeWord (.bnz c disp))
theorem call (disp : BitVec 21) : Statement (.call disp) := one_or_none (encodeWord (.call disp))
theorem loop (c : XIdx) (disp : BitVec 21) : Statement (.loop c disp) := one_or_none (encodeWord (.loop c disp))
theorem jr (a : XIdx) : Statement (.jr a) := one_or_none (encodeWord (.jr a))
theorem jalr (d : XIdx) (a : XIdx) : Statement (.jalr d a) := one_or_none (encodeWord (.jalr d a))
theorem ret : Statement (.ret) := one_or_none (encodeWord (.ret))
theorem ld (d : XIdx) (b : XIdx) (c : BitVec 3) (s : BitVec 3) (w : BitVec 3) (z : BitVec 2) (o : BitVec 5) : Statement (.ld d b c s w z o) := one_or_none (encodeWord (.ld d b c s w z o))
theorem ldu (d : XIdx) (b : XIdx) (c : BitVec 3) (s : BitVec 3) (w : BitVec 3) (z : BitVec 2) (o : BitVec 5) : Statement (.ldu d b c s w z o) := one_or_none (encodeWord (.ldu d b c s w z o))
theorem st (d : XIdx) (b : XIdx) (c : BitVec 3) (s : BitVec 3) (w : BitVec 3) (z : BitVec 2) (o : BitVec 5) : Statement (.st d b c s w z o) := one_or_none (encodeWord (.st d b c s w z o))
theorem ldS (d : XIdx) (b : XIdx) (scope : BitVec 3) (s : BitVec 3) (w : BitVec 3) (z : BitVec 2) (o : BitVec 5) : Statement (.ldS d b scope s w z o) := one_or_none (encodeWord (.ldS d b scope s w z o))
theorem stS (d : XIdx) (b : XIdx) (scope : BitVec 3) (s : BitVec 3) (w : BitVec 3) (z : BitVec 2) (o : BitVec 5) : Statement (.stS d b scope s w z o) := one_or_none (encodeWord (.stS d b scope s w z o))
theorem ldSync (d : XIdx) (b : XIdx) (c : BitVec 2) (take : Bool) (s : BitVec 3) (w : BitVec 3) (z : Bool) (o : BitVec 5) : Statement (.ldSync d b c take s w z o) := one_or_none (encodeWord (.ldSync d b c take s w z o))
theorem stFill (d : XIdx) (b : XIdx) (c : BitVec 3) (s : BitVec 3) (w : BitVec 3) (z : BitVec 2) (o : BitVec 5) : Statement (.stFill d b c s w z o) := one_or_none (encodeWord (.stFill d b c s w z o))
theorem ldP (d : XIdx) (b : XIdx) (n : BitVec 3) (s : BitVec 3) (w : BitVec 3) (z : BitVec 2) (o : BitVec 5) : Statement (.ldP d b n s w z o) := one_or_none (encodeWord (.ldP d b n s w z o))
theorem ldV (v : VIdx) (b : BitVec 4) (c : BitVec 3) (s : BitVec 3) (w : BitVec 3) (l : BitVec 3) (o : BitVec 4) : Statement (.ldV v b c s w l o) := one_or_none (encodeWord (.ldV v b c s w l o))
theorem stV (v : VIdx) (b : BitVec 4) (c : BitVec 3) (s : BitVec 3) (w : BitVec 3) (l : BitVec 3) (o : BitVec 4) : Statement (.stV v b c s w l o) := one_or_none (encodeWord (.stV v b c s w l o))
theorem amoAdd (d : XIdx) (a : XIdx) (b : XIdx) (w : Bool) (ret : Bool) (scope : BitVec 3) : Statement (.amoAdd d a b w ret scope) := one_or_none (encodeWord (.amoAdd d a b w ret scope))
theorem amoAnd (d : XIdx) (a : XIdx) (b : XIdx) (w : Bool) (ret : Bool) (scope : BitVec 3) : Statement (.amoAnd d a b w ret scope) := one_or_none (encodeWord (.amoAnd d a b w ret scope))
theorem amoOr (d : XIdx) (a : XIdx) (b : XIdx) (w : Bool) (ret : Bool) (scope : BitVec 3) : Statement (.amoOr d a b w ret scope) := one_or_none (encodeWord (.amoOr d a b w ret scope))
theorem amoXor (d : XIdx) (a : XIdx) (b : XIdx) (w : Bool) (ret : Bool) (scope : BitVec 3) : Statement (.amoXor d a b w ret scope) := one_or_none (encodeWord (.amoXor d a b w ret scope))
theorem amoMin (d : XIdx) (a : XIdx) (b : XIdx) (w : Bool) (ret : Bool) (scope : BitVec 3) : Statement (.amoMin d a b w ret scope) := one_or_none (encodeWord (.amoMin d a b w ret scope))
theorem amoMax (d : XIdx) (a : XIdx) (b : XIdx) (w : Bool) (ret : Bool) (scope : BitVec 3) : Statement (.amoMax d a b w ret scope) := one_or_none (encodeWord (.amoMax d a b w ret scope))
theorem amoMinu (d : XIdx) (a : XIdx) (b : XIdx) (w : Bool) (ret : Bool) (scope : BitVec 3) : Statement (.amoMinu d a b w ret scope) := one_or_none (encodeWord (.amoMinu d a b w ret scope))
theorem amoMaxu (d : XIdx) (a : XIdx) (b : XIdx) (w : Bool) (ret : Bool) (scope : BitVec 3) : Statement (.amoMaxu d a b w ret scope) := one_or_none (encodeWord (.amoMaxu d a b w ret scope))
theorem amoSwap (d : XIdx) (a : XIdx) (b : XIdx) (w : Bool) (ret : Bool) (scope : BitVec 3) : Statement (.amoSwap d a b w ret scope) := one_or_none (encodeWord (.amoSwap d a b w ret scope))
theorem amoCas (d : XIdx) (a : XIdx) (b : XIdx) (w : Bool) (scope : BitVec 3) : Statement (.amoCas d a b w scope) := one_or_none (encodeWord (.amoCas d a b w scope))
theorem amoFaddF32 (d : XIdx) (a : XIdx) (b : XIdx) (ret : Bool) (scope : BitVec 3) : Statement (.amoFaddF32 d a b ret scope) := one_or_none (encodeWord (.amoFaddF32 d a b ret scope))
theorem amoFaddBf16 (d : XIdx) (a : XIdx) (b : XIdx) (ret : Bool) (scope : BitVec 3) : Statement (.amoFaddBf16 d a b ret scope) := one_or_none (encodeWord (.amoFaddBf16 d a b ret scope))
theorem amoFminF32 (d : XIdx) (a : XIdx) (b : XIdx) (ret : Bool) (scope : BitVec 3) : Statement (.amoFminF32 d a b ret scope) := one_or_none (encodeWord (.amoFminF32 d a b ret scope))
theorem amoFmaxF32 (d : XIdx) (a : XIdx) (b : XIdx) (ret : Bool) (scope : BitVec 3) : Statement (.amoFmaxF32 d a b ret scope) := one_or_none (encodeWord (.amoFmaxF32 d a b ret scope))
theorem sbind (d : XIdx) (a : XIdx) (b : XIdx) : Statement (.sbind d a b) := one_or_none (encodeWord (.sbind d a b))
theorem sjoin (d : XIdx) (a : XIdx) : Statement (.sjoin d a) := one_or_none (encodeWord (.sjoin d a))
theorem sleave (a : XIdx) : Statement (.sleave a) := one_or_none (encodeWord (.sleave a))
theorem spub (a : XIdx) (b : XIdx) : Statement (.spub a b) := one_or_none (encodeWord (.spub a b))
theorem srel (a : XIdx) (b : XIdx) : Statement (.srel a b) := one_or_none (encodeWord (.srel a b))
theorem shead (d : XIdx) (a : XIdx) : Statement (.shead d a) := one_or_none (encodeWord (.shead d a))
theorem stail (d : XIdx) (a : XIdx) : Statement (.stail d a) := one_or_none (encodeWord (.stail d a))
theorem sclose (a : XIdx) : Statement (.sclose a) := one_or_none (encodeWord (.sclose a))
theorem fence (k : BitVec 2) (scope : BitVec 3) : Statement (.fence k scope) := one_or_none (encodeWord (.fence k scope))
theorem l1Inv : Statement (.l1Inv) := one_or_none (encodeWord (.l1Inv))
theorem sbwait (m : BitVec 7) : Statement (.sbwait m) := one_or_none (encodeWord (.sbwait m))
theorem fenceEng (n : BitVec 3) (b : XIdx) : Statement (.fenceEng n b) := one_or_none (encodeWord (.fenceEng n b))
theorem feSet (a : XIdx) (f : FeFile) : Statement (.feSet a f) := one_or_none (encodeWord (.feSet a f))
theorem feClr (a : XIdx) (f : FeFile) : Statement (.feClr a f) := one_or_none (encodeWord (.feClr a f))
theorem feTest (d : PIdx) (a : XIdx) (f : FeFile) : Statement (.feTest d a f) := one_or_none (encodeWord (.feTest d a f))
theorem feMode (m : Bool) (a : XIdx) (vfile : Bool) : Statement (.feMode m a vfile) := one_or_none (encodeWord (.feMode m a vfile))
theorem park (a : XIdx) (f : FeFile) : Statement (.park a f) := one_or_none (encodeWord (.park a f))
theorem vadd (d : VIdx) (a : VIdx) (b : VIdx) (f : BitVec 3) : Statement (.vadd d a b f) := one_or_none (encodeWord (.vadd d a b f))
theorem vsub (d : VIdx) (a : VIdx) (b : VIdx) (f : BitVec 3) : Statement (.vsub d a b f) := one_or_none (encodeWord (.vsub d a b f))
theorem vmul (d : VIdx) (a : VIdx) (b : VIdx) (f : BitVec 3) : Statement (.vmul d a b f) := one_or_none (encodeWord (.vmul d a b f))
theorem vmin (d : VIdx) (a : VIdx) (b : VIdx) (f : BitVec 3) : Statement (.vmin d a b f) := one_or_none (encodeWord (.vmin d a b f))
theorem vmax (d : VIdx) (a : VIdx) (b : VIdx) (f : BitVec 3) : Statement (.vmax d a b f) := one_or_none (encodeWord (.vmax d a b f))
theorem vabs (d : VIdx) (a : VIdx) (f : BitVec 3) : Statement (.vabs d a f) := one_or_none (encodeWord (.vabs d a f))
theorem vneg (d : VIdx) (a : VIdx) (f : BitVec 3) : Statement (.vneg d a f) := one_or_none (encodeWord (.vneg d a f))
theorem vand (d : VIdx) (a : VIdx) (b : VIdx) : Statement (.vand d a b) := one_or_none (encodeWord (.vand d a b))
theorem vor (d : VIdx) (a : VIdx) (b : VIdx) : Statement (.vor d a b) := one_or_none (encodeWord (.vor d a b))
theorem vxor (d : VIdx) (a : VIdx) (b : VIdx) : Statement (.vxor d a b) := one_or_none (encodeWord (.vxor d a b))
theorem vshl (d : VIdx) (a : VIdx) (b : VIdx) (f : BitVec 3) : Statement (.vshl d a b f) := one_or_none (encodeWord (.vshl d a b f))
theorem vshr (d : VIdx) (a : VIdx) (b : VIdx) (f : BitVec 3) : Statement (.vshr d a b f) := one_or_none (encodeWord (.vshr d a b f))
theorem vsra (d : VIdx) (a : VIdx) (b : VIdx) (f : BitVec 3) : Statement (.vsra d a b f) := one_or_none (encodeWord (.vsra d a b f))
theorem vcmp (d : VIdx) (a : VIdx) (b : VIdx) (f : BitVec 3) : Statement (.vcmp d a b f) := one_or_none (encodeWord (.vcmp d a b f))
theorem vsel (d : VIdx) (a : VIdx) (b : VIdx) (f : BitVec 3) : Statement (.vsel d a b f) := one_or_none (encodeWord (.vsel d a b f))
theorem vfadd (d : VIdx) (a : VIdx) (b : VIdx) (f : FmtDesc) : Statement (.vfadd d a b f) := one_or_none (encodeWord (.vfadd d a b f))
theorem vfsub (d : VIdx) (a : VIdx) (b : VIdx) (f : FmtDesc) : Statement (.vfsub d a b f) := one_or_none (encodeWord (.vfsub d a b f))
theorem vfmul (d : VIdx) (a : VIdx) (b : VIdx) (f : FmtDesc) : Statement (.vfmul d a b f) := one_or_none (encodeWord (.vfmul d a b f))
theorem vfma (d : VIdx) (a : VIdx) (b : VIdx) (f : FmtDesc) : Statement (.vfma d a b f) := one_or_none (encodeWord (.vfma d a b f))
theorem vfmin (d : VIdx) (a : VIdx) (b : VIdx) (f : FmtDesc) : Statement (.vfmin d a b f) := one_or_none (encodeWord (.vfmin d a b f))
theorem vfmax (d : VIdx) (a : VIdx) (b : VIdx) (f : FmtDesc) : Statement (.vfmax d a b f) := one_or_none (encodeWord (.vfmax d a b f))
theorem vfabs (d : VIdx) (a : VIdx) (f : FmtDesc) : Statement (.vfabs d a f) := one_or_none (encodeWord (.vfabs d a f))
theorem vfneg (d : VIdx) (a : VIdx) (f : FmtDesc) : Statement (.vfneg d a f) := one_or_none (encodeWord (.vfneg d a f))
theorem vfcmp (d : VIdx) (a : VIdx) (b : VIdx) (f : FmtDesc) : Statement (.vfcmp d a b f) := one_or_none (encodeWord (.vfcmp d a b f))
theorem vcvt (d : VIdx) (a : VIdx) (dst : FmtDesc) (src : FmtDesc) : Statement (.vcvt d a dst src) := one_or_none (encodeWord (.vcvt d a dst src))
theorem vpack (d : VIdx) (a : VIdx) (dst : FmtDesc) (src : FmtDesc) : Statement (.vpack d a dst src) := one_or_none (encodeWord (.vpack d a dst src))
theorem vunpack (d : VIdx) (a : VIdx) (dst : FmtDesc) (src : FmtDesc) : Statement (.vunpack d a dst src) := one_or_none (encodeWord (.vunpack d a dst src))
theorem vrcp (d : VIdx) (a : VIdx) : Statement (.vrcp d a) := one_or_none (encodeWord (.vrcp d a))
theorem vrsq (d : VIdx) (a : VIdx) : Statement (.vrsq d a) := one_or_none (encodeWord (.vrsq d a))
theorem vexp2 (d : VIdx) (a : VIdx) : Statement (.vexp2 d a) := one_or_none (encodeWord (.vexp2 d a))
theorem vlog2 (d : VIdx) (a : VIdx) : Statement (.vlog2 d a) := one_or_none (encodeWord (.vlog2 d a))
theorem vrcpstep (d : VIdx) (a : VIdx) (b : VIdx) : Statement (.vrcpstep d a b) := one_or_none (encodeWord (.vrcpstep d a b))
theorem vrsqstep (d : VIdx) (a : VIdx) (b : VIdx) : Statement (.vrsqstep d a b) := one_or_none (encodeWord (.vrsqstep d a b))
theorem vsum (d : VIdx) (a : VIdx) (f : FmtDesc) : Statement (.vsum d a f) := one_or_none (encodeWord (.vsum d a f))
theorem vmaxr (d : VIdx) (a : VIdx) (f : FmtDesc) : Statement (.vmaxr d a f) := one_or_none (encodeWord (.vmaxr d a f))
theorem vperm (d : VIdx) (a : VIdx) (b : VIdx) : Statement (.vperm d a b) := one_or_none (encodeWord (.vperm d a b))
theorem vbcast (d : VIdx) (a : VIdx) (i : BitVec 5) (f : FmtDesc) : Statement (.vbcast d a i f) := one_or_none (encodeWord (.vbcast d a i f))
theorem vbfly (d : VIdx) (a : VIdx) (k : BitVec 3) (f : FmtDesc) : Statement (.vbfly d a k f) := one_or_none (encodeWord (.vbfly d a k f))
theorem vlen (d : VIdx) (a : VIdx) (n : BitVec 5) : Statement (.vlen d a n) := one_or_none (encodeWord (.vlen d a n))
theorem vbscale (d : VIdx) (a : VIdx) (b : VIdx) (f : FmtDesc) : Statement (.vbscale d a b f) := one_or_none (encodeWord (.vbscale d a b f))
theorem vquant (d : VIdx) (a : VIdx) (b : VIdx) (f : FmtDesc) : Statement (.vquant d a b f) := one_or_none (encodeWord (.vquant d a b f))
theorem vdequant (d : VIdx) (a : VIdx) (b : VIdx) (f : FmtDesc) : Statement (.vdequant d a b f) := one_or_none (encodeWord (.vdequant d a b f))
theorem vsmerge (d : VIdx) (a : VIdx) (b : VIdx) : Statement (.vsmerge d a b) := one_or_none (encodeWord (.vsmerge d a b))
theorem vdice (d : VIdx) (a : VIdx) (s : BitVec 5) (f32 : Bool) : Statement (.vdice d a s f32) := one_or_none (encodeWord (.vdice d a s f32))
theorem vcsc (d : VIdx) (a : VIdx) (b : VIdx) : Statement (.vcsc d a b) := one_or_none (encodeWord (.vcsc d a b))
theorem vnorm (d : VIdx) (a : VIdx) (b : VIdx) (f : FmtDesc) : Statement (.vnorm d a b f) := one_or_none (encodeWord (.vnorm d a b f))
theorem recv (d : VIdx) (c : ChIdx) (g : Option (BitVec 3)) (p : PIdx) : Statement (.recv d c g p) := one_or_none (encodeWord (.recv d c g p))
theorem peek (d : VIdx) (c : ChIdx) (g : Option (BitVec 3)) (p : PIdx) : Statement (.peek d c g p) := one_or_none (encodeWord (.peek d c g p))
theorem send (q : BitVec 3) (a : VIdx) (psn : Bool) (inv : Bool) (p : PIdx) : Statement (.send q a psn inv p) := one_or_none (encodeWord (.send q a psn inv p))
theorem sendx (q : BitVec 3) (a : XIdx) (psn : Bool) (inv : Bool) (p : PIdx) (w : Bool) : Statement (.sendx q a psn inv p w) := one_or_none (encodeWord (.sendx q a psn inv p w))
theorem drop (c : ChIdx) : Statement (.drop c) := one_or_none (encodeWord (.drop c))
theorem clen (d : XIdx) (c : ChIdx) : Statement (.clen d c) := one_or_none (encodeWord (.clen d c))
theorem hndEnd : Statement (.hndEnd) := one_or_none (encodeWord (.hndEnd))
theorem hndMask (a : XIdx) : Statement (.hndMask a) := one_or_none (encodeWord (.hndMask a))
theorem hndUnmask (a : XIdx) : Statement (.hndUnmask a) := one_or_none (encodeWord (.hndUnmask a))
theorem hndPrio (a : XIdx) (b : XIdx) : Statement (.hndPrio a b) := one_or_none (encodeWord (.hndPrio a b))
theorem hndBind (a : XIdx) (b : XIdx) : Statement (.hndBind a b) := one_or_none (encodeWord (.hndBind a b))
theorem hndSelf (d : XIdx) : Statement (.hndSelf d) := one_or_none (encodeWord (.hndSelf d))
theorem ctlDone (q : BitVec 3) (a : XIdx) : Statement (.ctlDone q a) := one_or_none (encodeWord (.ctlDone q a))
theorem ctlPermit (q : BitVec 3) (a : XIdx) (b : XIdx) : Statement (.ctlPermit q a b) := one_or_none (encodeWord (.ctlPermit q a b))
theorem ctlWait (d : XIdx) (c : ChIdx) : Statement (.ctlWait d c) := one_or_none (encodeWord (.ctlWait d c))
theorem argSet (a : XIdx) (b : VIdx) : Statement (.argSet a b) := one_or_none (encodeWord (.argSet a b))
theorem cfgLoad (d : XIdx) (a : XIdx) (b : XIdx) : Statement (.cfgLoad d a b) := one_or_none (encodeWord (.cfgLoad d a b))
theorem cfgDrain (d : XIdx) (b : XIdx) : Statement (.cfgDrain d b) := one_or_none (encodeWord (.cfgDrain d b))
theorem rld (d : XIdx) (a : XIdx) (b : XIdx) (u : Bool) (z : BitVec 3) : Statement (.rld d a b u z) := one_or_none (encodeWord (.rld d a b u z))
theorem rst (d : XIdx) (a : XIdx) (b : XIdx) (z : BitVec 3) : Statement (.rst d a b z) := one_or_none (encodeWord (.rst d a b z))
theorem rstO (d : XIdx) (a : XIdx) (b : XIdx) (z : BitVec 2) : Statement (.rstO d a b z) := one_or_none (encodeWord (.rstO d a b z))
theorem rfence (d : XIdx) : Statement (.rfence d) := one_or_none (encodeWord (.rfence d))
theorem mcred (d : XIdx) (a : XIdx) (b : XIdx) : Statement (.mcred d a b) := one_or_none (encodeWord (.mcred d a b))
theorem grpSet (d : XIdx) (a : XIdx) (b : XIdx) : Statement (.grpSet d a b) := one_or_none (encodeWord (.grpSet d a b))
theorem ramo (d : XIdx) (a : XIdx) (b : XIdx) (w : Bool) (ret : Bool) (n : BitVec 6) : Statement (.ramo d a b w ret n) := one_or_none (encodeWord (.ramo d a b w ret n))
theorem cvOpen (d : XIdx) (a : XIdx) (b : XIdx) : Statement (.cvOpen d a b) := one_or_none (encodeWord (.cvOpen d a b))
theorem cvBind (d : XIdx) (a : XIdx) (b : XIdx) : Statement (.cvBind d a b) := one_or_none (encodeWord (.cvBind d a b))
theorem cvSend (d : XIdx) (a : XIdx) (b : VIdx) : Statement (.cvSend d a b) := one_or_none (encodeWord (.cvSend d a b))
theorem cvRecv (d : VIdx) (a : XIdx) (c : ChIdx) (p : PIdx) : Statement (.cvRecv d a c p) := one_or_none (encodeWord (.cvRecv d a c p))
theorem cvChoose (d : XIdx) (a : XIdx) : Statement (.cvChoose d a) := one_or_none (encodeWord (.cvChoose d a))
theorem cvOffer (d : XIdx) (a : XIdx) (c : ChIdx) : Statement (.cvOffer d a c) := one_or_none (encodeWord (.cvOffer d a c))
theorem cvDeleg (d : XIdx) (a : XIdx) (b : XIdx) : Statement (.cvDeleg d a b) := one_or_none (encodeWord (.cvDeleg d a b))
theorem cvClose (d : XIdx) (a : XIdx) : Statement (.cvClose d a) := one_or_none (encodeWord (.cvClose d a))
theorem cvState (d : XIdx) (a : XIdx) (b : XIdx) : Statement (.cvState d a b) := one_or_none (encodeWord (.cvState d a b))
theorem tdBar (d : XIdx) (a : XIdx) : Statement (.tdBar d a) := one_or_none (encodeWord (.tdBar d a))
theorem tdStat (d : XIdx) : Statement (.tdStat d) := one_or_none (encodeWord (.tdStat d))
theorem nop : Statement (.nop) := one_or_none (encodeWord (.nop))
theorem trap (c : BitVec 5) (e : BitVec 5) (p : PIdx) : Statement (.trap c e p) := one_or_none (encodeWord (.trap c e p))
theorem eret : Statement (.eret) := one_or_none (encodeWord (.eret))
theorem fault (c : BitVec 5) : Statement (.fault c) := one_or_none (encodeWord (.fault c))
theorem brk : Statement (.brk) := one_or_none (encodeWord (.brk))
theorem csrr (d : XIdx) (k : BitVec 9) : Statement (.csrr d k) := one_or_none (encodeWord (.csrr d k))
theorem csrw (d : XIdx) (a : XIdx) (k : BitVec 9) : Statement (.csrw d a k) := one_or_none (encodeWord (.csrw d a k))
theorem csrs (d : XIdx) (a : XIdx) (k : BitVec 9) : Statement (.csrs d a k) := one_or_none (encodeWord (.csrs d a k))
theorem csrc (d : XIdx) (a : XIdx) (k : BitVec 9) : Statement (.csrc d a k) := one_or_none (encodeWord (.csrc d a k))
theorem mxLd (h : CmdHead) (w1 : W32) (w2 : W32) (w3 : W32) : Statement (.mxLd h w1 w2 w3) := .inr (.inr rfl)
theorem mxSt (h : CmdHead) (w1 : W32) (w2 : W32) (w3 : W32) : Statement (.mxSt h w1 w2 w3) := .inr (.inr rfl)
theorem mxMma (h : CmdHead) (w1 : W32) (w2 : W32) (w3 : W32) : Statement (.mxMma h w1 w2 w3) := .inr (.inr rfl)
theorem mxMv (h : CmdHead) (w1 : W32) (w2 : W32) (w3 : W32) : Statement (.mxMv h w1 w2 w3) := .inr (.inr rfl)
theorem mxZero (h : CmdHead) (w1 : W32) (w2 : W32) (w3 : W32) : Statement (.mxZero h w1 w2 w3) := .inr (.inr rfl)
theorem mxDrain (h : CmdHead) (w1 : W32) (w2 : W32) (w3 : W32) : Statement (.mxDrain h w1 w2 w3) := .inr (.inr rfl)
theorem mxSmax (h : CmdHead) (w1 : W32) (w2 : W32) (w3 : W32) : Statement (.mxSmax h w1 w2 w3) := .inr (.inr rfl)
theorem mxAccld (h : CmdHead) (w1 : W32) (w2 : W32) (w3 : W32) : Statement (.mxAccld h w1 w2 w3) := .inr (.inr rfl)
theorem mxAccst (h : CmdHead) (w1 : W32) (w2 : W32) (w3 : W32) : Statement (.mxAccst h w1 w2 w3) := .inr (.inr rfl)
theorem mxLoop (h : CmdHead) (w1 : W32) (w2 : W32) (w3 : W32) : Statement (.mxLoop h w1 w2 w3) := .inr (.inr rfl)
theorem cpNd (h : CmdHead) (w1 : W32) (w2 : W32) (w3 : W32) : Statement (.cpNd h w1 w2 w3) := .inr (.inr rfl)
theorem cpGather (h : CmdHead) (w1 : W32) (w2 : W32) (w3 : W32) : Statement (.cpGather h w1 w2 w3) := .inr (.inr rfl)
theorem cpFill (h : CmdHead) (w1 : W32) (w2 : W32) (w3 : W32) : Statement (.cpFill h w1 w2 w3) := .inr (.inr rfl)
theorem kvWalk (h : CmdHead) (w1 : W32) (w2 : W32) (w3 : W32) : Statement (.kvWalk h w1 w2 w3) := .inr (.inr rfl)
theorem kvLdk (h : CmdHead) (w1 : W32) (w2 : W32) (w3 : W32) : Statement (.kvLdk h w1 w2 w3) := .inr (.inr rfl)
theorem kvLdv (h : CmdHead) (w1 : W32) (w2 : W32) (w3 : W32) : Statement (.kvLdv h w1 w2 w3) := .inr (.inr rfl)
theorem kvPagein (h : CmdHead) (w1 : W32) (w2 : W32) (w3 : W32) : Statement (.kvPagein h w1 w2 w3) := .inr (.inr rfl)
theorem kvFree (h : CmdHead) (w1 : W32) (w2 : W32) (w3 : W32) : Statement (.kvFree h w1 w2 w3) := .inr (.inr rfl)
theorem skScore (h : CmdHead) (w1 : W32) (w2 : W32) (w3 : W32) : Statement (.skScore h w1 w2 w3) := .inr (.inr rfl)
theorem chRun (h : CmdHead) (w1 : W32) (w2 : W32) (w3 : W32) : Statement (.chRun h w1 w2 w3) := .inr (.inr rfl)
theorem gsArm (h : CmdHead) (w1 : W32) (w2 : W32) (w3 : W32) : Statement (.gsArm h w1 w2 w3) := .inr (.inr rfl)
theorem gsWait (h : CmdHead) (w1 : W32) (w2 : W32) (w3 : W32) : Statement (.gsWait h w1 w2 w3) := .inr (.inr rfl)
theorem valueLanding (c : CellId) (k : Nat) : Statement (.valueLanding c k) := one_or_none (encodeWord (.valueLanding c k))
theorem accessPerformed (c : CellId) (k : Nat) : Statement (.accessPerformed c k) := one_or_none (encodeWord (.accessPerformed c k))
theorem memoryFlagsWrite (k : Nat) : Statement (.memoryFlagsWrite k) := one_or_none (encodeWord (.memoryFlagsWrite k))
theorem resumeDoorbell (via : HostPath) (ctx : BitVec 6) : Statement (.resumeDoorbell via ctx) := one_or_none (encodeWord (.resumeDoorbell via ctx))
theorem handlerSelection (c : CellId) : Statement (.handlerSelection c) := one_or_none (encodeWord (.handlerSelection c))
theorem ageAdvance (c : CellId) (h : BitVec 6) : Statement (.ageAdvance c h) := one_or_none (encodeWord (.ageAdvance c h))
theorem tokenArrival (k : Arrival) : Statement (.tokenArrival k) := one_or_none (encodeWord (.tokenArrival k))
theorem packetDeparture (c : CellId) (q : BitVec 3) (slot : BitVec 8) : Statement (.packetDeparture c q slot) := one_or_none (encodeWord (.packetDeparture c q slot))
theorem creditReturn (k : Nat) : Statement (.creditReturn k) := one_or_none (encodeWord (.creditReturn k))
theorem controllerNodeToken (c : CellId) (n : BitVec 2) (ch : ChIdx) : Statement (.controllerNodeToken c n ch) := one_or_none (encodeWord (.controllerNodeToken c n ch))
theorem arbiterNodeToken (c : CellId) (n : BitVec 2) (reply : Bool) : Statement (.arbiterNodeToken c n reply) := one_or_none (encodeWord (.arbiterNodeToken c n reply))
theorem generatorNodeToken (c : CellId) (n : BitVec 2) (ch : ChIdx) : Statement (.generatorNodeToken c n ch) := one_or_none (encodeWord (.generatorNodeToken c n ch))
theorem constantInstall (c : CellId) (ch : ChIdx) : Statement (.constantInstall c ch) := one_or_none (encodeWord (.constantInstall c ch))
theorem engineCompletion (c : CellId) (e : Engine) : Statement (.engineCompletion c e) := one_or_none (encodeWord (.engineCompletion c e))
theorem completionTokenEntry (c : CellId) (e : Engine) : Statement (.completionTokenEntry c e) := one_or_none (encodeWord (.completionTokenEntry c e))
theorem loopTake (c : CellId) : Statement (.loopTake c) := one_or_none (encodeWord (.loopTake c))
theorem tierPoll (c : CellId) (w : BitVec 2) : Statement (.tierPoll c w) := one_or_none (encodeWord (.tierPoll c w))
theorem loadAcceptance (k : Nat) : Statement (.loadAcceptance k) := one_or_none (encodeWord (.loadAcceptance k))
theorem switchOver (k : Nat) : Statement (.switchOver k) := one_or_none (encodeWord (.switchOver k))
theorem boardQuiescent (k : Nat) : Statement (.boardQuiescent k) := one_or_none (encodeWord (.boardQuiescent k))
theorem join (c : CellId) (k : Nat) : Statement (.join c k) := one_or_none (encodeWord (.join c k))
theorem leave (c : CellId) (k : Nat) : Statement (.leave c k) := one_or_none (encodeWord (.leave c k))
theorem release (c : CellId) (k : Nat) : Statement (.release c k) := one_or_none (encodeWord (.release c k))
theorem publish (c : CellId) (k : Nat) : Statement (.publish c k) := one_or_none (encodeWord (.publish c k))
theorem close (c : CellId) (k : Nat) : Statement (.close c k) := one_or_none (encodeWord (.close c k))
theorem streamBind (c : CellId) (k : Nat) : Statement (.streamBind c k) := one_or_none (encodeWord (.streamBind c k))
theorem recordFetch (c : CellId) (stream : BitVec 15) : Statement (.recordFetch c stream) := one_or_none (encodeWord (.recordFetch c stream))
theorem overflowRecordPublish (ctx : BitVec 6) : Statement (.overflowRecordPublish ctx) := one_or_none (encodeWord (.overflowRecordPublish ctx))
theorem apertureBind (via : HostPath) (slot : Byte) (val : Word) : Statement (.apertureBind via slot val) := one_or_none (encodeWord (.apertureBind via slot val))
theorem apertureHead (via : HostPath) (slot : Byte) (val : Word) : Statement (.apertureHead via slot val) := one_or_none (encodeWord (.apertureHead via slot val))
theorem apertureTether (via : HostPath) (slot : Byte) (val : Word) : Statement (.apertureTether via slot val) := one_or_none (encodeWord (.apertureTether via slot val))
theorem apertureDataRead (via : HostPath) (slot : Byte) (off : BitVec 16) (n : Nat) : Statement (.apertureDataRead via slot off n) := one_or_none (encodeWord (.apertureDataRead via slot off n))
theorem apertureDataWrite (via : HostPath) (slot : Byte) (off : BitVec 16) (data : List Byte) : Statement (.apertureDataWrite via slot off data) := one_or_none (encodeWord (.apertureDataWrite via slot off data))
theorem faultAcceptance (b : Nat) : Statement (.faultAcceptance b) := one_or_none (encodeWord (.faultAcceptance b))
theorem watchdogExpiry (b : Nat) : Statement (.watchdogExpiry b) := one_or_none (encodeWord (.watchdogExpiry b))
theorem boardRelease (b : Nat) : Statement (.boardRelease b) := one_or_none (encodeWord (.boardRelease b))
theorem launchRecordRead (ctx : BitVec 6) (prio : BitVec 4) : Statement (.launchRecordRead ctx prio) := one_or_none (encodeWord (.launchRecordRead ctx prio))
theorem allocatorAction : Statement (.allocatorAction) := one_or_none (encodeWord (.allocatorAction))
theorem candidateReserved (ctx : BitVec 6) (prio : BitVec 4) : Statement (.candidateReserved ctx prio) := one_or_none (encodeWord (.candidateReserved ctx prio))
theorem nextLoad (l : Nat) (m : BitVec 2) : Statement (.nextLoad l m) := one_or_none (encodeWord (.nextLoad l m))
theorem classification (b : Nat) (lines : Nat) : Statement (.classification b lines) := one_or_none (encodeWord (.classification b lines))
theorem launchCompletion (l : Nat) : Statement (.launchCompletion l) := one_or_none (encodeWord (.launchCompletion l))
theorem preemptionSave (l : Nat) : Statement (.preemptionSave l) := one_or_none (encodeWord (.preemptionSave l))
theorem preemptionTimeout (l : Nat) : Statement (.preemptionTimeout l) := one_or_none (encodeWord (.preemptionTimeout l))
theorem linkDown (port : BitVec 5) : Statement (.linkDown port) := one_or_none (encodeWord (.linkDown port))
theorem pathDownNotice (first : Byte × BitVec 2) (others : List (Byte × BitVec 2)) : Statement (.pathDownNotice first others) := one_or_none (encodeWord (.pathDownNotice first others))
theorem remoteRequestArrival (src : Byte) (r : RemoteReq) : Statement (.remoteRequestArrival src r) := one_or_none (encodeWord (.remoteRequestArrival src r))
theorem remoteAcknowledgement (target : Byte) (head : ReplyHead) (poison : Bool) : Statement (.remoteAcknowledgement target head poison) := one_or_none (encodeWord (.remoteAcknowledgement target head poison))
theorem holdNotice (target : Byte) (head : ReplyHead) : Statement (.holdNotice target head) := one_or_none (encodeWord (.holdNotice target head))
theorem remoteReply (target : Byte) (head : ReplyHead) (r : RemoteAnswer) : Statement (.remoteReply target head r) := one_or_none (encodeWord (.remoteReply target head r))
theorem negativeNotice (target : Byte) (packet : RefusedPacket) : Statement (.negativeNotice target packet) := one_or_none (encodeWord (.negativeNotice target packet))
theorem resendTimeout (target : Byte) (seq : BitVec 48) : Statement (.resendTimeout target seq) := one_or_none (encodeWord (.resendTimeout target seq))
theorem peerFailure (target : Byte) (cause : BitVec 2) : Statement (.peerFailure target cause) := one_or_none (encodeWord (.peerFailure target cause))
theorem orderedFlagRelease (src : Byte) (seq : BitVec 48) : Statement (.orderedFlagRelease src seq) := one_or_none (encodeWord (.orderedFlagRelease src seq))
theorem linkRunTag (port : BitVec 5) (good : Bool) : Statement (.linkRunTag port good) := one_or_none (encodeWord (.linkRunTag port good))
theorem runEnd (port : BitVec 5) : Statement (.runEnd port) := one_or_none (encodeWord (.runEnd port))
theorem groupContribution (src : Byte) (r : RemoteReq) : Statement (.groupContribution src r) := one_or_none (encodeWord (.groupContribution src r))
theorem groupTimeout (ctx : BitVec 6) (g : Byte) : Statement (.groupTimeout ctx g) := one_or_none (encodeWord (.groupTimeout ctx g))
theorem convOpenRequest (src : Byte) (r : RemoteReq) : Statement (.convOpenRequest src r) := one_or_none (encodeWord (.convOpenRequest src r))
theorem convBindRequest (src : Byte) (r : RemoteReq) : Statement (.convBindRequest src r) := one_or_none (encodeWord (.convBindRequest src r))
theorem turnRequest (src : Byte) (r : RemoteReq) : Statement (.turnRequest src r) := one_or_none (encodeWord (.turnRequest src r))
theorem delegationRequest (src : Byte) (r : RemoteReq) : Statement (.delegationRequest src r) := one_or_none (encodeWord (.delegationRequest src r))
theorem closeRequest (src : Byte) (r : RemoteReq) : Statement (.closeRequest src r) := one_or_none (encodeWord (.closeRequest src r))
theorem stateRequest (src : Byte) (r : RemoteReq) : Statement (.stateRequest src r) := one_or_none (encodeWord (.stateRequest src r))
theorem messageDelivery (d : Delivery) : Statement (.messageDelivery d) := one_or_none (encodeWord (.messageDelivery d))
theorem conversationCredit (entry : BitVec 12) (role : BitVec 3) (pkg : Byte) (cell : CellId) (ch : ChIdx) : Statement (.conversationCredit entry role pkg cell ch) := one_or_none (encodeWord (.conversationCredit entry role pkg cell ch))
theorem conversationBreak (entry : BitVec 12) (role : BitVec 3) (e : Endpoint) : Statement (.conversationBreak entry role e) := one_or_none (encodeWord (.conversationBreak entry role e))
theorem barrierMessage (src : Byte) (ready : Bool) (head : ReplyHead) : Statement (.barrierMessage src ready head) := one_or_none (encodeWord (.barrierMessage src ready head))
theorem getVersion (who : BitVec 9) : Statement (.getVersion who) := one_or_none (encodeWord (.getVersion who))
theorem getCapabilities (who : BitVec 9) : Statement (.getCapabilities who) := one_or_none (encodeWord (.getCapabilities who))
theorem negotiateAlgorithms (who : BitVec 9) (offer : AlgOffer) : Statement (.negotiateAlgorithms who offer) := one_or_none (encodeWord (.negotiateAlgorithms who offer))
theorem getDigests (who : BitVec 9) : Statement (.getDigests who) := one_or_none (encodeWord (.getDigests who))
theorem getCertificate (who : BitVec 9) (slot : BitVec 4) : Statement (.getCertificate who slot) := one_or_none (encodeWord (.getCertificate who slot))
theorem challenge (who : BitVec 9) : Statement (.challenge who) := one_or_none (encodeWord (.challenge who))
theorem getMeasurements (who : BitVec 9) (index : Byte) : Statement (.getMeasurements who index) := one_or_none (encodeWord (.getMeasurements who index))
theorem keyExchange (who : BitVec 9) : Statement (.keyExchange who) := one_or_none (encodeWord (.keyExchange who))
theorem finish (who : BitVec 9) : Statement (.finish who) := one_or_none (encodeWord (.finish who))
theorem endSession (who : BitVec 9) : Statement (.endSession who) := one_or_none (encodeWord (.endSession who))
theorem keyUpdate (who : BitVec 9) : Statement (.keyUpdate who) := one_or_none (encodeWord (.keyUpdate who))
theorem heartbeat (who : BitVec 9) : Statement (.heartbeat who) := one_or_none (encodeWord (.heartbeat who))
theorem ideKm (fn : BitVec 5) (key : BitVec 256) : Statement (.ideKm fn key) := one_or_none (encodeWord (.ideKm fn key))
theorem lockInterfaceRequest (vf : BitVec 5) : Statement (.lockInterfaceRequest vf) := one_or_none (encodeWord (.lockInterfaceRequest vf))
theorem startInterfaceRequest (vf : BitVec 5) : Statement (.startInterfaceRequest vf) := one_or_none (encodeWord (.startInterfaceRequest vf))
theorem stopInterfaceRequest (vf : BitVec 5) : Statement (.stopInterfaceRequest vf) := one_or_none (encodeWord (.stopInterfaceRequest vf))
theorem scrubComplete (vf : BitVec 5) : Statement (.scrubComplete vf) := one_or_none (encodeWord (.scrubComplete vf))
theorem frozenRegisterWrite (vf : BitVec 5) (reg : FrozenReg) (val : Word) : Statement (.frozenRegisterWrite vf reg val) := one_or_none (encodeWord (.frozenRegisterWrite vf reg val))
theorem ideIntegrityFailure (vf : BitVec 5) : Statement (.ideIntegrityFailure vf) := one_or_none (encodeWord (.ideIntegrityFailure vf))
theorem tripClear : Statement (.tripClear) := one_or_none (encodeWord (.tripClear))
theorem registerWrite (via : HostPath) (slot : Option Byte) (off : BitVec 16) (val : Word) : Statement (.registerWrite via slot off val) := one_or_none (encodeWord (.registerWrite via slot off val))
theorem mailboxCompletion : Statement (.mailboxCompletion) := one_or_none (encodeWord (.mailboxCompletion))
theorem contextSetUp : Statement (.contextSetUp) := one_or_none (encodeWord (.contextSetUp))
theorem contextTeardown : Statement (.contextTeardown) := one_or_none (encodeWord (.contextTeardown))
theorem tlbShootdown : Statement (.tlbShootdown) := one_or_none (encodeWord (.tlbShootdown))
theorem preEmption : Statement (.preEmption) := one_or_none (encodeWord (.preEmption))
theorem routeEntry : Statement (.routeEntry) := one_or_none (encodeWord (.routeEntry))
theorem pathRevive : Statement (.pathRevive) := one_or_none (encodeWord (.pathRevive))
theorem peerClear : Statement (.peerClear) := one_or_none (encodeWord (.peerClear))
theorem linkSettings : Statement (.linkSettings) := one_or_none (encodeWord (.linkSettings))
theorem watchdogLimit : Statement (.watchdogLimit) := one_or_none (encodeWord (.watchdogLimit))
theorem packageNumber : Statement (.packageNumber) := one_or_none (encodeWord (.packageNumber))
theorem pendingMembership : Statement (.pendingMembership) := one_or_none (encodeWord (.pendingMembership))
theorem powerStatePs0 : Statement (.powerStatePs0) := one_or_none (encodeWord (.powerStatePs0))
theorem powerStatePs1 : Statement (.powerStatePs1) := one_or_none (encodeWord (.powerStatePs1))
theorem powerStatePs2 : Statement (.powerStatePs2) := one_or_none (encodeWord (.powerStatePs2))
theorem powerStatePs3 : Statement (.powerStatePs3) := one_or_none (encodeWord (.powerStatePs3))
theorem clockRestart : Statement (.clockRestart) := one_or_none (encodeWord (.clockRestart))
theorem thermalTrip (src : BitVec 3) : Statement (.thermalTrip src) := one_or_none (encodeWord (.thermalTrip src))
theorem powerOn : Statement (.powerOn) := one_or_none (encodeWord (.powerOn))
theorem stageAdvance (ok : Bool) : Statement (.stageAdvance ok) := one_or_none (encodeWord (.stageAdvance ok))
theorem reservedEncoding (word : W32) : Statement (.reservedEncoding word) := .inr (.inl rfl)
theorem holdExpiry (c : CellId) : Statement (.holdExpiry c) := one_or_none (encodeWord (.holdExpiry c))
theorem lookaheadFill (c : CellId) (w : BitVec 2) : Statement (.lookaheadFill c w) := one_or_none (encodeWord (.lookaheadFill c w))
theorem remoteRequestRefusal (target : Byte) (head : ReplyHead) (misaligned : Bool) : Statement (.remoteRequestRefusal target head misaligned) := one_or_none (encodeWord (.remoteRequestRefusal target head misaligned))
theorem msixVectorUnmask (vf : BitVec 5) (vec : Bool) : Statement (.msixVectorUnmask vf vec) := one_or_none (encodeWord (.msixVectorUnmask vf vec))

end Sys2Proof.Laws.EncodedLength
end

