-- ==== Sys2Proof/Laws/State.lean ====
section
/-! SUPPORT. One lemma per field and update: what each named update of the state leaves as it is, and what it sets. -/

namespace Sys2Proof.Machine

/-! ### Updates of one part of the state -/

@[simp] theorem State.onCell_agenda (f : Cell → Cell) (s : State) : (s.onCell f).agenda = s.agenda := rfl
@[simp] theorem State.onCell_tick (f : Cell → Cell) (s : State) : (s.onCell f).tick = s.tick := rfl
@[simp] theorem State.onCell_here (f : Cell → Cell) (s : State) : (s.onCell f).here = s.here := rfl
@[simp] theorem State.onCell_others (f : Cell → Cell) (s : State) : (s.onCell f).others = s.others := rfl
@[simp] theorem State.onCell_cell (f : Cell → Cell) (s : State) : (s.onCell f).cell = f s.cell := rfl
@[simp] theorem State.onCell_pkg (f : Cell → Cell) (s : State) : (s.onCell f).pkg = s.pkg := rfl
@[simp] theorem State.onPkg_agenda (f : Package → Package) (s : State) : (s.onPkg f).agenda = s.agenda := rfl
@[simp] theorem State.onPkg_tick (f : Package → Package) (s : State) : (s.onPkg f).tick = s.tick := rfl
@[simp] theorem State.onPkg_here (f : Package → Package) (s : State) : (s.onPkg f).here = s.here := rfl
@[simp] theorem State.onPkg_others (f : Package → Package) (s : State) : (s.onPkg f).others = s.others := rfl
@[simp] theorem State.onPkg_cell (f : Package → Package) (s : State) : (s.onPkg f).cell = s.cell := rfl
@[simp] theorem State.onPkg_pkg (f : Package → Package) (s : State) : (s.onPkg f).pkg = f s.pkg := rfl

/-! ### The program counter and the hold -/

@[simp] theorem advance_agenda (n : Nat) (s : State) : (advance n s).agenda = s.agenda := rfl
@[simp] theorem advance_tick (n : Nat) (s : State) : (advance n s).tick = s.tick := rfl
@[simp] theorem advance_here (n : Nat) (s : State) : (advance n s).here = s.here := rfl
@[simp] theorem advance_others (n : Nat) (s : State) : (advance n s).others = s.others := rfl
@[simp] theorem advance_pkg (n : Nat) (s : State) : (advance n s).pkg = s.pkg := rfl
@[simp] theorem advance_cell_x (n : Nat) (s : State) : (advance n s).cell.x = s.cell.x := rfl
@[simp] theorem advance_cell_p (n : Nat) (s : State) : (advance n s).cell.p = s.cell.p := rfl
@[simp] theorem advance_cell_v (n : Nat) (s : State) : (advance n s).cell.v = s.cell.v := rfl
@[simp] theorem advance_cell_tiles (n : Nat) (s : State) : (advance n s).cell.tiles = s.cell.tiles := rfl
@[simp] theorem advance_cell_acc (n : Nat) (s : State) : (advance n s).cell.acc = s.cell.acc := rfl
@[simp] theorem advance_cell_inner (n : Nat) (s : State) : (advance n s).cell.inner = s.cell.inner := rfl
@[simp] theorem advance_cell_poison (n : Nat) (s : State) : (advance n s).cell.poison = s.cell.poison := rfl
@[simp] theorem advance_cell_store (n : Nat) (s : State) : (advance n s).cell.store = s.cell.store := rfl
@[simp] theorem advance_cell_emptyWords (n : Nat) (s : State) : (advance n s).cell.emptyWords = s.cell.emptyWords := rfl
@[simp] theorem advance_cell_istore (n : Nat) (s : State) : (advance n s).cell.istore = s.cell.istore := rfl
@[simp] theorem advance_cell_badStore (n : Nat) (s : State) : (advance n s).cell.badStore = s.cell.badStore := rfl
@[simp] theorem advance_cell_poisonStore (n : Nat) (s : State) : (advance n s).cell.poisonStore = s.cell.poisonStore := rfl
@[simp] theorem advance_cell_badTiles (n : Nat) (s : State) : (advance n s).cell.badTiles = s.cell.badTiles := rfl
@[simp] theorem advance_cell_badCode (n : Nat) (s : State) : (advance n s).cell.badCode = s.cell.badCode := rfl
@[simp] theorem advance_cell_k (n : Nat) (s : State) : (advance n s).cell.k = s.cell.k := rfl
@[simp] theorem advance_cell_draw (n : Nat) (s : State) : (advance n s).cell.draw = s.cell.draw := rfl
@[simp] theorem advance_cell_pc (n : Nat) (s : State) : (advance n s).cell.pc = s.cell.pc + BitVec.ofNat 14 n := rfl
@[simp] theorem advance_cell_cur (n : Nat) (s : State) : (advance n s).cell.cur = s.cell.cur := rfl
@[simp] theorem advance_cell_hold (n : Nat) (s : State) : (advance n s).cell.hold = none := rfl
@[simp] theorem advance_cell_hnd (n : Nat) (s : State) : (advance n s).cell.hnd = s.cell.hnd := rfl
@[simp] theorem advance_cell_ptr (n : Nat) (s : State) : (advance n s).cell.ptr = s.cell.ptr := rfl
@[simp] theorem advance_cell_sb (n : Nat) (s : State) : (advance n s).cell.sb = s.cell.sb := rfl
@[simp] theorem advance_cell_inflight (n : Nat) (s : State) : (advance n s).cell.inflight = s.cell.inflight := rfl
@[simp] theorem advance_cell_nextId (n : Nat) (s : State) : (advance n s).cell.nextId = s.cell.nextId := rfl
@[simp] theorem advance_cell_l1 (n : Nat) (s : State) : (advance n s).cell.l1 = s.cell.l1 := rfl
@[simp] theorem advance_cell_l1Bad (n : Nat) (s : State) : (advance n s).cell.l1Bad = s.cell.l1Bad := rfl
@[simp] theorem advance_cell_win (n : Nat) (s : State) : (advance n s).cell.win = s.cell.win := rfl
@[simp] theorem advance_cell_chan (n : Nat) (s : State) : (advance n s).cell.chan = s.cell.chan := rfl
@[simp] theorem advance_cell_outq (n : Nat) (s : State) : (advance n s).cell.outq = s.cell.outq := rfl
@[simp] theorem advance_cell_slots (n : Nat) (s : State) : (advance n s).cell.slots = s.cell.slots := rfl
@[simp] theorem advance_cell_node (n : Nat) (s : State) : (advance n s).cell.node = s.cell.node := rfl
@[simp] theorem advance_cell_mx (n : Nat) (s : State) : (advance n s).cell.mx = s.cell.mx := rfl
@[simp] theorem advance_cell_cp (n : Nat) (s : State) : (advance n s).cell.cp = s.cell.cp := rfl
@[simp] theorem advance_cell_kv (n : Nat) (s : State) : (advance n s).cell.kv = s.cell.kv := rfl
@[simp] theorem advance_cell_sk (n : Nat) (s : State) : (advance n s).cell.sk = s.cell.sk := rfl
@[simp] theorem advance_cell_ch (n : Nat) (s : State) : (advance n s).cell.ch = s.cell.ch := rfl
@[simp] theorem advance_cell_gs (n : Nat) (s : State) : (advance n s).cell.gs = s.cell.gs := rfl
@[simp] theorem advance_cell_sections (n : Nat) (s : State) : (advance n s).cell.sections = s.cell.sections := rfl
@[simp] theorem advance_cell_collecting (n : Nat) (s : State) : (advance n s).cell.collecting = s.cell.collecting := rfl
@[simp] theorem advance_cell_walks (n : Nat) (s : State) : (advance n s).cell.walks = s.cell.walks := rfl
@[simp] theorem advance_cell_arrivals (n : Nat) (s : State) : (advance n s).cell.arrivals = s.cell.arrivals := rfl
@[simp] theorem advance_cell_port (n : Nat) (s : State) : (advance n s).cell.port = s.cell.port := rfl
@[simp] theorem advance_cell_widePosted (n : Nat) (s : State) : (advance n s).cell.widePosted = s.cell.widePosted := rfl
@[simp] theorem advance_cell_failedTo (n : Nat) (s : State) : (advance n s).cell.failedTo = s.cell.failedTo := rfl
@[simp] theorem advance_cell_fault (n : Nat) (s : State) : (advance n s).cell.fault = s.cell.fault := rfl
@[simp] theorem advance_cell_stopped (n : Nat) (s : State) : (advance n s).cell.stopped = s.cell.stopped := rfl
@[simp] theorem advance_cell_board (n : Nat) (s : State) : (advance n s).cell.board = s.cell.board := rfl
@[simp] theorem advance_cell_marks (n : Nat) (s : State) : (advance n s).cell.marks = s.cell.marks := rfl
@[simp] theorem jump_agenda (t : Pc) (s : State) : (jump t s).agenda = s.agenda := rfl
@[simp] theorem jump_tick (t : Pc) (s : State) : (jump t s).tick = s.tick := rfl
@[simp] theorem jump_here (t : Pc) (s : State) : (jump t s).here = s.here := rfl
@[simp] theorem jump_others (t : Pc) (s : State) : (jump t s).others = s.others := rfl
@[simp] theorem jump_pkg (t : Pc) (s : State) : (jump t s).pkg = s.pkg := rfl
@[simp] theorem jump_cell_x (t : Pc) (s : State) : (jump t s).cell.x = s.cell.x := rfl
@[simp] theorem jump_cell_p (t : Pc) (s : State) : (jump t s).cell.p = s.cell.p := rfl
@[simp] theorem jump_cell_v (t : Pc) (s : State) : (jump t s).cell.v = s.cell.v := rfl
@[simp] theorem jump_cell_tiles (t : Pc) (s : State) : (jump t s).cell.tiles = s.cell.tiles := rfl
@[simp] theorem jump_cell_acc (t : Pc) (s : State) : (jump t s).cell.acc = s.cell.acc := rfl
@[simp] theorem jump_cell_inner (t : Pc) (s : State) : (jump t s).cell.inner = s.cell.inner := rfl
@[simp] theorem jump_cell_poison (t : Pc) (s : State) : (jump t s).cell.poison = s.cell.poison := rfl
@[simp] theorem jump_cell_store (t : Pc) (s : State) : (jump t s).cell.store = s.cell.store := rfl
@[simp] theorem jump_cell_emptyWords (t : Pc) (s : State) : (jump t s).cell.emptyWords = s.cell.emptyWords := rfl
@[simp] theorem jump_cell_istore (t : Pc) (s : State) : (jump t s).cell.istore = s.cell.istore := rfl
@[simp] theorem jump_cell_badStore (t : Pc) (s : State) : (jump t s).cell.badStore = s.cell.badStore := rfl
@[simp] theorem jump_cell_poisonStore (t : Pc) (s : State) : (jump t s).cell.poisonStore = s.cell.poisonStore := rfl
@[simp] theorem jump_cell_badTiles (t : Pc) (s : State) : (jump t s).cell.badTiles = s.cell.badTiles := rfl
@[simp] theorem jump_cell_badCode (t : Pc) (s : State) : (jump t s).cell.badCode = s.cell.badCode := rfl
@[simp] theorem jump_cell_k (t : Pc) (s : State) : (jump t s).cell.k = s.cell.k := rfl
@[simp] theorem jump_cell_draw (t : Pc) (s : State) : (jump t s).cell.draw = s.cell.draw := rfl
@[simp] theorem jump_cell_pc (t : Pc) (s : State) : (jump t s).cell.pc = t := rfl
@[simp] theorem jump_cell_cur (t : Pc) (s : State) : (jump t s).cell.cur = s.cell.cur := rfl
@[simp] theorem jump_cell_hold (t : Pc) (s : State) : (jump t s).cell.hold = none := rfl
@[simp] theorem jump_cell_hnd (t : Pc) (s : State) : (jump t s).cell.hnd = s.cell.hnd := rfl
@[simp] theorem jump_cell_ptr (t : Pc) (s : State) : (jump t s).cell.ptr = s.cell.ptr := rfl
@[simp] theorem jump_cell_sb (t : Pc) (s : State) : (jump t s).cell.sb = s.cell.sb := rfl
@[simp] theorem jump_cell_inflight (t : Pc) (s : State) : (jump t s).cell.inflight = s.cell.inflight := rfl
@[simp] theorem jump_cell_nextId (t : Pc) (s : State) : (jump t s).cell.nextId = s.cell.nextId := rfl
@[simp] theorem jump_cell_l1 (t : Pc) (s : State) : (jump t s).cell.l1 = s.cell.l1 := rfl
@[simp] theorem jump_cell_l1Bad (t : Pc) (s : State) : (jump t s).cell.l1Bad = s.cell.l1Bad := rfl
@[simp] theorem jump_cell_win (t : Pc) (s : State) : (jump t s).cell.win = s.cell.win := rfl
@[simp] theorem jump_cell_chan (t : Pc) (s : State) : (jump t s).cell.chan = s.cell.chan := rfl
@[simp] theorem jump_cell_outq (t : Pc) (s : State) : (jump t s).cell.outq = s.cell.outq := rfl
@[simp] theorem jump_cell_slots (t : Pc) (s : State) : (jump t s).cell.slots = s.cell.slots := rfl
@[simp] theorem jump_cell_node (t : Pc) (s : State) : (jump t s).cell.node = s.cell.node := rfl
@[simp] theorem jump_cell_mx (t : Pc) (s : State) : (jump t s).cell.mx = s.cell.mx := rfl
@[simp] theorem jump_cell_cp (t : Pc) (s : State) : (jump t s).cell.cp = s.cell.cp := rfl
@[simp] theorem jump_cell_kv (t : Pc) (s : State) : (jump t s).cell.kv = s.cell.kv := rfl
@[simp] theorem jump_cell_sk (t : Pc) (s : State) : (jump t s).cell.sk = s.cell.sk := rfl
@[simp] theorem jump_cell_ch (t : Pc) (s : State) : (jump t s).cell.ch = s.cell.ch := rfl
@[simp] theorem jump_cell_gs (t : Pc) (s : State) : (jump t s).cell.gs = s.cell.gs := rfl
@[simp] theorem jump_cell_sections (t : Pc) (s : State) : (jump t s).cell.sections = s.cell.sections := rfl
@[simp] theorem jump_cell_collecting (t : Pc) (s : State) : (jump t s).cell.collecting = s.cell.collecting := rfl
@[simp] theorem jump_cell_walks (t : Pc) (s : State) : (jump t s).cell.walks = s.cell.walks := rfl
@[simp] theorem jump_cell_arrivals (t : Pc) (s : State) : (jump t s).cell.arrivals = s.cell.arrivals := rfl
@[simp] theorem jump_cell_port (t : Pc) (s : State) : (jump t s).cell.port = s.cell.port := rfl
@[simp] theorem jump_cell_widePosted (t : Pc) (s : State) : (jump t s).cell.widePosted = s.cell.widePosted := rfl
@[simp] theorem jump_cell_failedTo (t : Pc) (s : State) : (jump t s).cell.failedTo = s.cell.failedTo := rfl
@[simp] theorem jump_cell_fault (t : Pc) (s : State) : (jump t s).cell.fault = s.cell.fault := rfl
@[simp] theorem jump_cell_stopped (t : Pc) (s : State) : (jump t s).cell.stopped = s.cell.stopped := rfl
@[simp] theorem jump_cell_board (t : Pc) (s : State) : (jump t s).cell.board = s.cell.board := rfl
@[simp] theorem jump_cell_marks (t : Pc) (s : State) : (jump t s).cell.marks = s.cell.marks := rfl
@[simp] theorem hold_agenda (h : Hold) (s : State) : (hold h s).agenda = s.agenda := rfl
@[simp] theorem hold_tick (h : Hold) (s : State) : (hold h s).tick = s.tick := rfl
@[simp] theorem hold_here (h : Hold) (s : State) : (hold h s).here = s.here := rfl
@[simp] theorem hold_others (h : Hold) (s : State) : (hold h s).others = s.others := rfl
@[simp] theorem hold_pkg (h : Hold) (s : State) : (hold h s).pkg = s.pkg := rfl
@[simp] theorem hold_cell_x (h : Hold) (s : State) : (hold h s).cell.x = s.cell.x := rfl
@[simp] theorem hold_cell_p (h : Hold) (s : State) : (hold h s).cell.p = s.cell.p := rfl
@[simp] theorem hold_cell_v (h : Hold) (s : State) : (hold h s).cell.v = s.cell.v := rfl
@[simp] theorem hold_cell_tiles (h : Hold) (s : State) : (hold h s).cell.tiles = s.cell.tiles := rfl
@[simp] theorem hold_cell_acc (h : Hold) (s : State) : (hold h s).cell.acc = s.cell.acc := rfl
@[simp] theorem hold_cell_inner (h : Hold) (s : State) : (hold h s).cell.inner = s.cell.inner := rfl
@[simp] theorem hold_cell_poison (h : Hold) (s : State) : (hold h s).cell.poison = s.cell.poison := rfl
@[simp] theorem hold_cell_store (h : Hold) (s : State) : (hold h s).cell.store = s.cell.store := rfl
@[simp] theorem hold_cell_emptyWords (h : Hold) (s : State) : (hold h s).cell.emptyWords = s.cell.emptyWords := rfl
@[simp] theorem hold_cell_istore (h : Hold) (s : State) : (hold h s).cell.istore = s.cell.istore := rfl
@[simp] theorem hold_cell_badStore (h : Hold) (s : State) : (hold h s).cell.badStore = s.cell.badStore := rfl
@[simp] theorem hold_cell_poisonStore (h : Hold) (s : State) : (hold h s).cell.poisonStore = s.cell.poisonStore := rfl
@[simp] theorem hold_cell_badTiles (h : Hold) (s : State) : (hold h s).cell.badTiles = s.cell.badTiles := rfl
@[simp] theorem hold_cell_badCode (h : Hold) (s : State) : (hold h s).cell.badCode = s.cell.badCode := rfl
@[simp] theorem hold_cell_k (h : Hold) (s : State) : (hold h s).cell.k = s.cell.k := rfl
@[simp] theorem hold_cell_draw (h : Hold) (s : State) : (hold h s).cell.draw = s.cell.draw := rfl
@[simp] theorem hold_cell_pc (h : Hold) (s : State) : (hold h s).cell.pc = s.cell.pc := rfl
@[simp] theorem hold_cell_cur (h : Hold) (s : State) : (hold h s).cell.cur = s.cell.cur := rfl
@[simp] theorem hold_cell_hold (h : Hold) (s : State) : (hold h s).cell.hold = some h := rfl
@[simp] theorem hold_cell_hnd (h : Hold) (s : State) : (hold h s).cell.hnd = s.cell.hnd := rfl
@[simp] theorem hold_cell_ptr (h : Hold) (s : State) : (hold h s).cell.ptr = s.cell.ptr := rfl
@[simp] theorem hold_cell_sb (h : Hold) (s : State) : (hold h s).cell.sb = s.cell.sb := rfl
@[simp] theorem hold_cell_inflight (h : Hold) (s : State) : (hold h s).cell.inflight = s.cell.inflight := rfl
@[simp] theorem hold_cell_nextId (h : Hold) (s : State) : (hold h s).cell.nextId = s.cell.nextId := rfl
@[simp] theorem hold_cell_l1 (h : Hold) (s : State) : (hold h s).cell.l1 = s.cell.l1 := rfl
@[simp] theorem hold_cell_l1Bad (h : Hold) (s : State) : (hold h s).cell.l1Bad = s.cell.l1Bad := rfl
@[simp] theorem hold_cell_win (h : Hold) (s : State) : (hold h s).cell.win = s.cell.win := rfl
@[simp] theorem hold_cell_chan (h : Hold) (s : State) : (hold h s).cell.chan = s.cell.chan := rfl
@[simp] theorem hold_cell_outq (h : Hold) (s : State) : (hold h s).cell.outq = s.cell.outq := rfl
@[simp] theorem hold_cell_slots (h : Hold) (s : State) : (hold h s).cell.slots = s.cell.slots := rfl
@[simp] theorem hold_cell_node (h : Hold) (s : State) : (hold h s).cell.node = s.cell.node := rfl
@[simp] theorem hold_cell_mx (h : Hold) (s : State) : (hold h s).cell.mx = s.cell.mx := rfl
@[simp] theorem hold_cell_cp (h : Hold) (s : State) : (hold h s).cell.cp = s.cell.cp := rfl
@[simp] theorem hold_cell_kv (h : Hold) (s : State) : (hold h s).cell.kv = s.cell.kv := rfl
@[simp] theorem hold_cell_sk (h : Hold) (s : State) : (hold h s).cell.sk = s.cell.sk := rfl
@[simp] theorem hold_cell_ch (h : Hold) (s : State) : (hold h s).cell.ch = s.cell.ch := rfl
@[simp] theorem hold_cell_gs (h : Hold) (s : State) : (hold h s).cell.gs = s.cell.gs := rfl
@[simp] theorem hold_cell_sections (h : Hold) (s : State) : (hold h s).cell.sections = s.cell.sections := rfl
@[simp] theorem hold_cell_collecting (h : Hold) (s : State) : (hold h s).cell.collecting = s.cell.collecting := rfl
@[simp] theorem hold_cell_walks (h : Hold) (s : State) : (hold h s).cell.walks = s.cell.walks := rfl
@[simp] theorem hold_cell_arrivals (h : Hold) (s : State) : (hold h s).cell.arrivals = s.cell.arrivals := rfl
@[simp] theorem hold_cell_port (h : Hold) (s : State) : (hold h s).cell.port = s.cell.port := rfl
@[simp] theorem hold_cell_widePosted (h : Hold) (s : State) : (hold h s).cell.widePosted = s.cell.widePosted := rfl
@[simp] theorem hold_cell_failedTo (h : Hold) (s : State) : (hold h s).cell.failedTo = s.cell.failedTo := rfl
@[simp] theorem hold_cell_fault (h : Hold) (s : State) : (hold h s).cell.fault = s.cell.fault := rfl
@[simp] theorem hold_cell_stopped (h : Hold) (s : State) : (hold h s).cell.stopped = s.cell.stopped := rfl
@[simp] theorem hold_cell_board (h : Hold) (s : State) : (hold h s).cell.board = s.cell.board := rfl
@[simp] theorem hold_cell_marks (h : Hold) (s : State) : (hold h s).cell.marks = s.cell.marks := rfl

/-! ### Registers -/

@[simp] theorem Cell.putX_p (n : XIdx) (r : XReg) (c : Cell) : (c.putX n r).p = c.p := by unfold Cell.putX; split <;> rfl
@[simp] theorem Cell.putX_v (n : XIdx) (r : XReg) (c : Cell) : (c.putX n r).v = c.v := by unfold Cell.putX; split <;> rfl
@[simp] theorem Cell.putX_tiles (n : XIdx) (r : XReg) (c : Cell) : (c.putX n r).tiles = c.tiles := by unfold Cell.putX; split <;> rfl
@[simp] theorem Cell.putX_acc (n : XIdx) (r : XReg) (c : Cell) : (c.putX n r).acc = c.acc := by unfold Cell.putX; split <;> rfl
@[simp] theorem Cell.putX_inner (n : XIdx) (r : XReg) (c : Cell) : (c.putX n r).inner = c.inner := by unfold Cell.putX; split <;> rfl
@[simp] theorem Cell.putX_poison (n : XIdx) (r : XReg) (c : Cell) : (c.putX n r).poison = c.poison := by unfold Cell.putX; split <;> rfl
@[simp] theorem Cell.putX_store (n : XIdx) (r : XReg) (c : Cell) : (c.putX n r).store = c.store := by unfold Cell.putX; split <;> rfl
@[simp] theorem Cell.putX_emptyWords (n : XIdx) (r : XReg) (c : Cell) : (c.putX n r).emptyWords = c.emptyWords := by unfold Cell.putX; split <;> rfl
@[simp] theorem Cell.putX_istore (n : XIdx) (r : XReg) (c : Cell) : (c.putX n r).istore = c.istore := by unfold Cell.putX; split <;> rfl
@[simp] theorem Cell.putX_badStore (n : XIdx) (r : XReg) (c : Cell) : (c.putX n r).badStore = c.badStore := by unfold Cell.putX; split <;> rfl
@[simp] theorem Cell.putX_poisonStore (n : XIdx) (r : XReg) (c : Cell) : (c.putX n r).poisonStore = c.poisonStore := by unfold Cell.putX; split <;> rfl
@[simp] theorem Cell.putX_badTiles (n : XIdx) (r : XReg) (c : Cell) : (c.putX n r).badTiles = c.badTiles := by unfold Cell.putX; split <;> rfl
@[simp] theorem Cell.putX_badCode (n : XIdx) (r : XReg) (c : Cell) : (c.putX n r).badCode = c.badCode := by unfold Cell.putX; split <;> rfl
@[simp] theorem Cell.putX_k (n : XIdx) (r : XReg) (c : Cell) : (c.putX n r).k = c.k := by unfold Cell.putX; split <;> rfl
@[simp] theorem Cell.putX_draw (n : XIdx) (r : XReg) (c : Cell) : (c.putX n r).draw = c.draw := by unfold Cell.putX; split <;> rfl
@[simp] theorem Cell.putX_pc (n : XIdx) (r : XReg) (c : Cell) : (c.putX n r).pc = c.pc := by unfold Cell.putX; split <;> rfl
@[simp] theorem Cell.putX_cur (n : XIdx) (r : XReg) (c : Cell) : (c.putX n r).cur = c.cur := by unfold Cell.putX; split <;> rfl
@[simp] theorem Cell.putX_hold (n : XIdx) (r : XReg) (c : Cell) : (c.putX n r).hold = c.hold := by unfold Cell.putX; split <;> rfl
@[simp] theorem Cell.putX_hnd (n : XIdx) (r : XReg) (c : Cell) : (c.putX n r).hnd = c.hnd := by unfold Cell.putX; split <;> rfl
@[simp] theorem Cell.putX_ptr (n : XIdx) (r : XReg) (c : Cell) : (c.putX n r).ptr = c.ptr := by unfold Cell.putX; split <;> rfl
@[simp] theorem Cell.putX_sb (n : XIdx) (r : XReg) (c : Cell) : (c.putX n r).sb = c.sb := by unfold Cell.putX; split <;> rfl
@[simp] theorem Cell.putX_inflight (n : XIdx) (r : XReg) (c : Cell) : (c.putX n r).inflight = c.inflight := by unfold Cell.putX; split <;> rfl
@[simp] theorem Cell.putX_nextId (n : XIdx) (r : XReg) (c : Cell) : (c.putX n r).nextId = c.nextId := by unfold Cell.putX; split <;> rfl
@[simp] theorem Cell.putX_l1 (n : XIdx) (r : XReg) (c : Cell) : (c.putX n r).l1 = c.l1 := by unfold Cell.putX; split <;> rfl
@[simp] theorem Cell.putX_l1Bad (n : XIdx) (r : XReg) (c : Cell) : (c.putX n r).l1Bad = c.l1Bad := by unfold Cell.putX; split <;> rfl
@[simp] theorem Cell.putX_win (n : XIdx) (r : XReg) (c : Cell) : (c.putX n r).win = c.win := by unfold Cell.putX; split <;> rfl
@[simp] theorem Cell.putX_chan (n : XIdx) (r : XReg) (c : Cell) : (c.putX n r).chan = c.chan := by unfold Cell.putX; split <;> rfl
@[simp] theorem Cell.putX_outq (n : XIdx) (r : XReg) (c : Cell) : (c.putX n r).outq = c.outq := by unfold Cell.putX; split <;> rfl
@[simp] theorem Cell.putX_slots (n : XIdx) (r : XReg) (c : Cell) : (c.putX n r).slots = c.slots := by unfold Cell.putX; split <;> rfl
@[simp] theorem Cell.putX_node (n : XIdx) (r : XReg) (c : Cell) : (c.putX n r).node = c.node := by unfold Cell.putX; split <;> rfl
@[simp] theorem Cell.putX_mx (n : XIdx) (r : XReg) (c : Cell) : (c.putX n r).mx = c.mx := by unfold Cell.putX; split <;> rfl
@[simp] theorem Cell.putX_cp (n : XIdx) (r : XReg) (c : Cell) : (c.putX n r).cp = c.cp := by unfold Cell.putX; split <;> rfl
@[simp] theorem Cell.putX_kv (n : XIdx) (r : XReg) (c : Cell) : (c.putX n r).kv = c.kv := by unfold Cell.putX; split <;> rfl
@[simp] theorem Cell.putX_sk (n : XIdx) (r : XReg) (c : Cell) : (c.putX n r).sk = c.sk := by unfold Cell.putX; split <;> rfl
@[simp] theorem Cell.putX_ch (n : XIdx) (r : XReg) (c : Cell) : (c.putX n r).ch = c.ch := by unfold Cell.putX; split <;> rfl
@[simp] theorem Cell.putX_gs (n : XIdx) (r : XReg) (c : Cell) : (c.putX n r).gs = c.gs := by unfold Cell.putX; split <;> rfl
@[simp] theorem Cell.putX_sections (n : XIdx) (r : XReg) (c : Cell) : (c.putX n r).sections = c.sections := by unfold Cell.putX; split <;> rfl
@[simp] theorem Cell.putX_collecting (n : XIdx) (r : XReg) (c : Cell) : (c.putX n r).collecting = c.collecting := by unfold Cell.putX; split <;> rfl
@[simp] theorem Cell.putX_walks (n : XIdx) (r : XReg) (c : Cell) : (c.putX n r).walks = c.walks := by unfold Cell.putX; split <;> rfl
@[simp] theorem Cell.putX_arrivals (n : XIdx) (r : XReg) (c : Cell) : (c.putX n r).arrivals = c.arrivals := by unfold Cell.putX; split <;> rfl
@[simp] theorem Cell.putX_port (n : XIdx) (r : XReg) (c : Cell) : (c.putX n r).port = c.port := by unfold Cell.putX; split <;> rfl
@[simp] theorem Cell.putX_widePosted (n : XIdx) (r : XReg) (c : Cell) : (c.putX n r).widePosted = c.widePosted := by unfold Cell.putX; split <;> rfl
@[simp] theorem Cell.putX_failedTo (n : XIdx) (r : XReg) (c : Cell) : (c.putX n r).failedTo = c.failedTo := by unfold Cell.putX; split <;> rfl
@[simp] theorem Cell.putX_fault (n : XIdx) (r : XReg) (c : Cell) : (c.putX n r).fault = c.fault := by unfold Cell.putX; split <;> rfl
@[simp] theorem Cell.putX_stopped (n : XIdx) (r : XReg) (c : Cell) : (c.putX n r).stopped = c.stopped := by unfold Cell.putX; split <;> rfl
@[simp] theorem Cell.putX_board (n : XIdx) (r : XReg) (c : Cell) : (c.putX n r).board = c.board := by unfold Cell.putX; split <;> rfl
@[simp] theorem Cell.putX_marks (n : XIdx) (r : XReg) (c : Cell) : (c.putX n r).marks = c.marks := by unfold Cell.putX; split <;> rfl
@[simp] theorem Cell.putV_x (n : VIdx) (r : VReg) (c : Cell) : (c.putV n r).x = c.x := rfl
@[simp] theorem Cell.putV_p (n : VIdx) (r : VReg) (c : Cell) : (c.putV n r).p = c.p := rfl
@[simp] theorem Cell.putV_tiles (n : VIdx) (r : VReg) (c : Cell) : (c.putV n r).tiles = c.tiles := rfl
@[simp] theorem Cell.putV_acc (n : VIdx) (r : VReg) (c : Cell) : (c.putV n r).acc = c.acc := rfl
@[simp] theorem Cell.putV_inner (n : VIdx) (r : VReg) (c : Cell) : (c.putV n r).inner = c.inner := rfl
@[simp] theorem Cell.putV_poison (n : VIdx) (r : VReg) (c : Cell) : (c.putV n r).poison = c.poison := rfl
@[simp] theorem Cell.putV_store (n : VIdx) (r : VReg) (c : Cell) : (c.putV n r).store = c.store := rfl
@[simp] theorem Cell.putV_emptyWords (n : VIdx) (r : VReg) (c : Cell) : (c.putV n r).emptyWords = c.emptyWords := rfl
@[simp] theorem Cell.putV_istore (n : VIdx) (r : VReg) (c : Cell) : (c.putV n r).istore = c.istore := rfl
@[simp] theorem Cell.putV_badStore (n : VIdx) (r : VReg) (c : Cell) : (c.putV n r).badStore = c.badStore := rfl
@[simp] theorem Cell.putV_poisonStore (n : VIdx) (r : VReg) (c : Cell) : (c.putV n r).poisonStore = c.poisonStore := rfl
@[simp] theorem Cell.putV_badTiles (n : VIdx) (r : VReg) (c : Cell) : (c.putV n r).badTiles = c.badTiles := rfl
@[simp] theorem Cell.putV_badCode (n : VIdx) (r : VReg) (c : Cell) : (c.putV n r).badCode = c.badCode := rfl
@[simp] theorem Cell.putV_k (n : VIdx) (r : VReg) (c : Cell) : (c.putV n r).k = c.k := rfl
@[simp] theorem Cell.putV_draw (n : VIdx) (r : VReg) (c : Cell) : (c.putV n r).draw = c.draw := rfl
@[simp] theorem Cell.putV_pc (n : VIdx) (r : VReg) (c : Cell) : (c.putV n r).pc = c.pc := rfl
@[simp] theorem Cell.putV_cur (n : VIdx) (r : VReg) (c : Cell) : (c.putV n r).cur = c.cur := rfl
@[simp] theorem Cell.putV_hold (n : VIdx) (r : VReg) (c : Cell) : (c.putV n r).hold = c.hold := rfl
@[simp] theorem Cell.putV_hnd (n : VIdx) (r : VReg) (c : Cell) : (c.putV n r).hnd = c.hnd := rfl
@[simp] theorem Cell.putV_ptr (n : VIdx) (r : VReg) (c : Cell) : (c.putV n r).ptr = c.ptr := rfl
@[simp] theorem Cell.putV_sb (n : VIdx) (r : VReg) (c : Cell) : (c.putV n r).sb = c.sb := rfl
@[simp] theorem Cell.putV_inflight (n : VIdx) (r : VReg) (c : Cell) : (c.putV n r).inflight = c.inflight := rfl
@[simp] theorem Cell.putV_nextId (n : VIdx) (r : VReg) (c : Cell) : (c.putV n r).nextId = c.nextId := rfl
@[simp] theorem Cell.putV_l1 (n : VIdx) (r : VReg) (c : Cell) : (c.putV n r).l1 = c.l1 := rfl
@[simp] theorem Cell.putV_l1Bad (n : VIdx) (r : VReg) (c : Cell) : (c.putV n r).l1Bad = c.l1Bad := rfl
@[simp] theorem Cell.putV_win (n : VIdx) (r : VReg) (c : Cell) : (c.putV n r).win = c.win := rfl
@[simp] theorem Cell.putV_chan (n : VIdx) (r : VReg) (c : Cell) : (c.putV n r).chan = c.chan := rfl
@[simp] theorem Cell.putV_outq (n : VIdx) (r : VReg) (c : Cell) : (c.putV n r).outq = c.outq := rfl
@[simp] theorem Cell.putV_slots (n : VIdx) (r : VReg) (c : Cell) : (c.putV n r).slots = c.slots := rfl
@[simp] theorem Cell.putV_node (n : VIdx) (r : VReg) (c : Cell) : (c.putV n r).node = c.node := rfl
@[simp] theorem Cell.putV_mx (n : VIdx) (r : VReg) (c : Cell) : (c.putV n r).mx = c.mx := rfl
@[simp] theorem Cell.putV_cp (n : VIdx) (r : VReg) (c : Cell) : (c.putV n r).cp = c.cp := rfl
@[simp] theorem Cell.putV_kv (n : VIdx) (r : VReg) (c : Cell) : (c.putV n r).kv = c.kv := rfl
@[simp] theorem Cell.putV_sk (n : VIdx) (r : VReg) (c : Cell) : (c.putV n r).sk = c.sk := rfl
@[simp] theorem Cell.putV_ch (n : VIdx) (r : VReg) (c : Cell) : (c.putV n r).ch = c.ch := rfl
@[simp] theorem Cell.putV_gs (n : VIdx) (r : VReg) (c : Cell) : (c.putV n r).gs = c.gs := rfl
@[simp] theorem Cell.putV_sections (n : VIdx) (r : VReg) (c : Cell) : (c.putV n r).sections = c.sections := rfl
@[simp] theorem Cell.putV_collecting (n : VIdx) (r : VReg) (c : Cell) : (c.putV n r).collecting = c.collecting := rfl
@[simp] theorem Cell.putV_walks (n : VIdx) (r : VReg) (c : Cell) : (c.putV n r).walks = c.walks := rfl
@[simp] theorem Cell.putV_arrivals (n : VIdx) (r : VReg) (c : Cell) : (c.putV n r).arrivals = c.arrivals := rfl
@[simp] theorem Cell.putV_port (n : VIdx) (r : VReg) (c : Cell) : (c.putV n r).port = c.port := rfl
@[simp] theorem Cell.putV_widePosted (n : VIdx) (r : VReg) (c : Cell) : (c.putV n r).widePosted = c.widePosted := rfl
@[simp] theorem Cell.putV_failedTo (n : VIdx) (r : VReg) (c : Cell) : (c.putV n r).failedTo = c.failedTo := rfl
@[simp] theorem Cell.putV_fault (n : VIdx) (r : VReg) (c : Cell) : (c.putV n r).fault = c.fault := rfl
@[simp] theorem Cell.putV_stopped (n : VIdx) (r : VReg) (c : Cell) : (c.putV n r).stopped = c.stopped := rfl
@[simp] theorem Cell.putV_board (n : VIdx) (r : VReg) (c : Cell) : (c.putV n r).board = c.board := rfl
@[simp] theorem Cell.putV_marks (n : VIdx) (r : VReg) (c : Cell) : (c.putV n r).marks = c.marks := rfl
@[simp] theorem Cell.putP_x (n : PIdx) (b : Bool) (c : Cell) : (c.putP n b).x = c.x := by unfold Cell.putP; split <;> rfl
@[simp] theorem Cell.putP_v (n : PIdx) (b : Bool) (c : Cell) : (c.putP n b).v = c.v := by unfold Cell.putP; split <;> rfl
@[simp] theorem Cell.putP_tiles (n : PIdx) (b : Bool) (c : Cell) : (c.putP n b).tiles = c.tiles := by unfold Cell.putP; split <;> rfl
@[simp] theorem Cell.putP_acc (n : PIdx) (b : Bool) (c : Cell) : (c.putP n b).acc = c.acc := by unfold Cell.putP; split <;> rfl
@[simp] theorem Cell.putP_inner (n : PIdx) (b : Bool) (c : Cell) : (c.putP n b).inner = c.inner := by unfold Cell.putP; split <;> rfl
@[simp] theorem Cell.putP_poison (n : PIdx) (b : Bool) (c : Cell) : (c.putP n b).poison = c.poison := by unfold Cell.putP; split <;> rfl
@[simp] theorem Cell.putP_store (n : PIdx) (b : Bool) (c : Cell) : (c.putP n b).store = c.store := by unfold Cell.putP; split <;> rfl
@[simp] theorem Cell.putP_emptyWords (n : PIdx) (b : Bool) (c : Cell) : (c.putP n b).emptyWords = c.emptyWords := by unfold Cell.putP; split <;> rfl
@[simp] theorem Cell.putP_istore (n : PIdx) (b : Bool) (c : Cell) : (c.putP n b).istore = c.istore := by unfold Cell.putP; split <;> rfl
@[simp] theorem Cell.putP_badStore (n : PIdx) (b : Bool) (c : Cell) : (c.putP n b).badStore = c.badStore := by unfold Cell.putP; split <;> rfl
@[simp] theorem Cell.putP_poisonStore (n : PIdx) (b : Bool) (c : Cell) : (c.putP n b).poisonStore = c.poisonStore := by unfold Cell.putP; split <;> rfl
@[simp] theorem Cell.putP_badTiles (n : PIdx) (b : Bool) (c : Cell) : (c.putP n b).badTiles = c.badTiles := by unfold Cell.putP; split <;> rfl
@[simp] theorem Cell.putP_badCode (n : PIdx) (b : Bool) (c : Cell) : (c.putP n b).badCode = c.badCode := by unfold Cell.putP; split <;> rfl
@[simp] theorem Cell.putP_k (n : PIdx) (b : Bool) (c : Cell) : (c.putP n b).k = c.k := by unfold Cell.putP; split <;> rfl
@[simp] theorem Cell.putP_draw (n : PIdx) (b : Bool) (c : Cell) : (c.putP n b).draw = c.draw := by unfold Cell.putP; split <;> rfl
@[simp] theorem Cell.putP_pc (n : PIdx) (b : Bool) (c : Cell) : (c.putP n b).pc = c.pc := by unfold Cell.putP; split <;> rfl
@[simp] theorem Cell.putP_cur (n : PIdx) (b : Bool) (c : Cell) : (c.putP n b).cur = c.cur := by unfold Cell.putP; split <;> rfl
@[simp] theorem Cell.putP_hold (n : PIdx) (b : Bool) (c : Cell) : (c.putP n b).hold = c.hold := by unfold Cell.putP; split <;> rfl
@[simp] theorem Cell.putP_hnd (n : PIdx) (b : Bool) (c : Cell) : (c.putP n b).hnd = c.hnd := by unfold Cell.putP; split <;> rfl
@[simp] theorem Cell.putP_ptr (n : PIdx) (b : Bool) (c : Cell) : (c.putP n b).ptr = c.ptr := by unfold Cell.putP; split <;> rfl
@[simp] theorem Cell.putP_sb (n : PIdx) (b : Bool) (c : Cell) : (c.putP n b).sb = c.sb := by unfold Cell.putP; split <;> rfl
@[simp] theorem Cell.putP_inflight (n : PIdx) (b : Bool) (c : Cell) : (c.putP n b).inflight = c.inflight := by unfold Cell.putP; split <;> rfl
@[simp] theorem Cell.putP_nextId (n : PIdx) (b : Bool) (c : Cell) : (c.putP n b).nextId = c.nextId := by unfold Cell.putP; split <;> rfl
@[simp] theorem Cell.putP_l1 (n : PIdx) (b : Bool) (c : Cell) : (c.putP n b).l1 = c.l1 := by unfold Cell.putP; split <;> rfl
@[simp] theorem Cell.putP_l1Bad (n : PIdx) (b : Bool) (c : Cell) : (c.putP n b).l1Bad = c.l1Bad := by unfold Cell.putP; split <;> rfl
@[simp] theorem Cell.putP_win (n : PIdx) (b : Bool) (c : Cell) : (c.putP n b).win = c.win := by unfold Cell.putP; split <;> rfl
@[simp] theorem Cell.putP_chan (n : PIdx) (b : Bool) (c : Cell) : (c.putP n b).chan = c.chan := by unfold Cell.putP; split <;> rfl
@[simp] theorem Cell.putP_outq (n : PIdx) (b : Bool) (c : Cell) : (c.putP n b).outq = c.outq := by unfold Cell.putP; split <;> rfl
@[simp] theorem Cell.putP_slots (n : PIdx) (b : Bool) (c : Cell) : (c.putP n b).slots = c.slots := by unfold Cell.putP; split <;> rfl
@[simp] theorem Cell.putP_node (n : PIdx) (b : Bool) (c : Cell) : (c.putP n b).node = c.node := by unfold Cell.putP; split <;> rfl
@[simp] theorem Cell.putP_mx (n : PIdx) (b : Bool) (c : Cell) : (c.putP n b).mx = c.mx := by unfold Cell.putP; split <;> rfl
@[simp] theorem Cell.putP_cp (n : PIdx) (b : Bool) (c : Cell) : (c.putP n b).cp = c.cp := by unfold Cell.putP; split <;> rfl
@[simp] theorem Cell.putP_kv (n : PIdx) (b : Bool) (c : Cell) : (c.putP n b).kv = c.kv := by unfold Cell.putP; split <;> rfl
@[simp] theorem Cell.putP_sk (n : PIdx) (b : Bool) (c : Cell) : (c.putP n b).sk = c.sk := by unfold Cell.putP; split <;> rfl
@[simp] theorem Cell.putP_ch (n : PIdx) (b : Bool) (c : Cell) : (c.putP n b).ch = c.ch := by unfold Cell.putP; split <;> rfl
@[simp] theorem Cell.putP_gs (n : PIdx) (b : Bool) (c : Cell) : (c.putP n b).gs = c.gs := by unfold Cell.putP; split <;> rfl
@[simp] theorem Cell.putP_sections (n : PIdx) (b : Bool) (c : Cell) : (c.putP n b).sections = c.sections := by unfold Cell.putP; split <;> rfl
@[simp] theorem Cell.putP_collecting (n : PIdx) (b : Bool) (c : Cell) : (c.putP n b).collecting = c.collecting := by unfold Cell.putP; split <;> rfl
@[simp] theorem Cell.putP_walks (n : PIdx) (b : Bool) (c : Cell) : (c.putP n b).walks = c.walks := by unfold Cell.putP; split <;> rfl
@[simp] theorem Cell.putP_arrivals (n : PIdx) (b : Bool) (c : Cell) : (c.putP n b).arrivals = c.arrivals := by unfold Cell.putP; split <;> rfl
@[simp] theorem Cell.putP_port (n : PIdx) (b : Bool) (c : Cell) : (c.putP n b).port = c.port := by unfold Cell.putP; split <;> rfl
@[simp] theorem Cell.putP_widePosted (n : PIdx) (b : Bool) (c : Cell) : (c.putP n b).widePosted = c.widePosted := by unfold Cell.putP; split <;> rfl
@[simp] theorem Cell.putP_failedTo (n : PIdx) (b : Bool) (c : Cell) : (c.putP n b).failedTo = c.failedTo := by unfold Cell.putP; split <;> rfl
@[simp] theorem Cell.putP_fault (n : PIdx) (b : Bool) (c : Cell) : (c.putP n b).fault = c.fault := by unfold Cell.putP; split <;> rfl
@[simp] theorem Cell.putP_stopped (n : PIdx) (b : Bool) (c : Cell) : (c.putP n b).stopped = c.stopped := by unfold Cell.putP; split <;> rfl
@[simp] theorem Cell.putP_board (n : PIdx) (b : Bool) (c : Cell) : (c.putP n b).board = c.board := by unfold Cell.putP; split <;> rfl
@[simp] theorem Cell.putP_marks (n : PIdx) (b : Bool) (c : Cell) : (c.putP n b).marks = c.marks := by unfold Cell.putP; split <;> rfl
@[simp] theorem Cell.mergeFlags_x (f : BitVec 5) (c : Cell) : (c.mergeFlags f).x = c.x := rfl
@[simp] theorem Cell.mergeFlags_p (f : BitVec 5) (c : Cell) : (c.mergeFlags f).p = c.p := rfl
@[simp] theorem Cell.mergeFlags_v (f : BitVec 5) (c : Cell) : (c.mergeFlags f).v = c.v := rfl
@[simp] theorem Cell.mergeFlags_tiles (f : BitVec 5) (c : Cell) : (c.mergeFlags f).tiles = c.tiles := rfl
@[simp] theorem Cell.mergeFlags_acc (f : BitVec 5) (c : Cell) : (c.mergeFlags f).acc = c.acc := rfl
@[simp] theorem Cell.mergeFlags_inner (f : BitVec 5) (c : Cell) : (c.mergeFlags f).inner = c.inner := rfl
@[simp] theorem Cell.mergeFlags_poison (f : BitVec 5) (c : Cell) : (c.mergeFlags f).poison = c.poison := rfl
@[simp] theorem Cell.mergeFlags_store (f : BitVec 5) (c : Cell) : (c.mergeFlags f).store = c.store := rfl
@[simp] theorem Cell.mergeFlags_emptyWords (f : BitVec 5) (c : Cell) : (c.mergeFlags f).emptyWords = c.emptyWords := rfl
@[simp] theorem Cell.mergeFlags_istore (f : BitVec 5) (c : Cell) : (c.mergeFlags f).istore = c.istore := rfl
@[simp] theorem Cell.mergeFlags_badStore (f : BitVec 5) (c : Cell) : (c.mergeFlags f).badStore = c.badStore := rfl
@[simp] theorem Cell.mergeFlags_poisonStore (f : BitVec 5) (c : Cell) : (c.mergeFlags f).poisonStore = c.poisonStore := rfl
@[simp] theorem Cell.mergeFlags_badTiles (f : BitVec 5) (c : Cell) : (c.mergeFlags f).badTiles = c.badTiles := rfl
@[simp] theorem Cell.mergeFlags_badCode (f : BitVec 5) (c : Cell) : (c.mergeFlags f).badCode = c.badCode := rfl
@[simp] theorem Cell.mergeFlags_draw (f : BitVec 5) (c : Cell) : (c.mergeFlags f).draw = c.draw := rfl
@[simp] theorem Cell.mergeFlags_pc (f : BitVec 5) (c : Cell) : (c.mergeFlags f).pc = c.pc := rfl
@[simp] theorem Cell.mergeFlags_cur (f : BitVec 5) (c : Cell) : (c.mergeFlags f).cur = c.cur := rfl
@[simp] theorem Cell.mergeFlags_hold (f : BitVec 5) (c : Cell) : (c.mergeFlags f).hold = c.hold := rfl
@[simp] theorem Cell.mergeFlags_hnd (f : BitVec 5) (c : Cell) : (c.mergeFlags f).hnd = c.hnd := rfl
@[simp] theorem Cell.mergeFlags_ptr (f : BitVec 5) (c : Cell) : (c.mergeFlags f).ptr = c.ptr := rfl
@[simp] theorem Cell.mergeFlags_sb (f : BitVec 5) (c : Cell) : (c.mergeFlags f).sb = c.sb := rfl
@[simp] theorem Cell.mergeFlags_inflight (f : BitVec 5) (c : Cell) : (c.mergeFlags f).inflight = c.inflight := rfl
@[simp] theorem Cell.mergeFlags_nextId (f : BitVec 5) (c : Cell) : (c.mergeFlags f).nextId = c.nextId := rfl
@[simp] theorem Cell.mergeFlags_l1 (f : BitVec 5) (c : Cell) : (c.mergeFlags f).l1 = c.l1 := rfl
@[simp] theorem Cell.mergeFlags_l1Bad (f : BitVec 5) (c : Cell) : (c.mergeFlags f).l1Bad = c.l1Bad := rfl
@[simp] theorem Cell.mergeFlags_win (f : BitVec 5) (c : Cell) : (c.mergeFlags f).win = c.win := rfl
@[simp] theorem Cell.mergeFlags_chan (f : BitVec 5) (c : Cell) : (c.mergeFlags f).chan = c.chan := rfl
@[simp] theorem Cell.mergeFlags_outq (f : BitVec 5) (c : Cell) : (c.mergeFlags f).outq = c.outq := rfl
@[simp] theorem Cell.mergeFlags_slots (f : BitVec 5) (c : Cell) : (c.mergeFlags f).slots = c.slots := rfl
@[simp] theorem Cell.mergeFlags_node (f : BitVec 5) (c : Cell) : (c.mergeFlags f).node = c.node := rfl
@[simp] theorem Cell.mergeFlags_mx (f : BitVec 5) (c : Cell) : (c.mergeFlags f).mx = c.mx := rfl
@[simp] theorem Cell.mergeFlags_cp (f : BitVec 5) (c : Cell) : (c.mergeFlags f).cp = c.cp := rfl
@[simp] theorem Cell.mergeFlags_kv (f : BitVec 5) (c : Cell) : (c.mergeFlags f).kv = c.kv := rfl
@[simp] theorem Cell.mergeFlags_sk (f : BitVec 5) (c : Cell) : (c.mergeFlags f).sk = c.sk := rfl
@[simp] theorem Cell.mergeFlags_ch (f : BitVec 5) (c : Cell) : (c.mergeFlags f).ch = c.ch := rfl
@[simp] theorem Cell.mergeFlags_gs (f : BitVec 5) (c : Cell) : (c.mergeFlags f).gs = c.gs := rfl
@[simp] theorem Cell.mergeFlags_sections (f : BitVec 5) (c : Cell) : (c.mergeFlags f).sections = c.sections := rfl
@[simp] theorem Cell.mergeFlags_collecting (f : BitVec 5) (c : Cell) : (c.mergeFlags f).collecting = c.collecting := rfl
@[simp] theorem Cell.mergeFlags_walks (f : BitVec 5) (c : Cell) : (c.mergeFlags f).walks = c.walks := rfl
@[simp] theorem Cell.mergeFlags_arrivals (f : BitVec 5) (c : Cell) : (c.mergeFlags f).arrivals = c.arrivals := rfl
@[simp] theorem Cell.mergeFlags_port (f : BitVec 5) (c : Cell) : (c.mergeFlags f).port = c.port := rfl
@[simp] theorem Cell.mergeFlags_widePosted (f : BitVec 5) (c : Cell) : (c.mergeFlags f).widePosted = c.widePosted := rfl
@[simp] theorem Cell.mergeFlags_failedTo (f : BitVec 5) (c : Cell) : (c.mergeFlags f).failedTo = c.failedTo := rfl
@[simp] theorem Cell.mergeFlags_fault (f : BitVec 5) (c : Cell) : (c.mergeFlags f).fault = c.fault := rfl
@[simp] theorem Cell.mergeFlags_stopped (f : BitVec 5) (c : Cell) : (c.mergeFlags f).stopped = c.stopped := rfl
@[simp] theorem Cell.mergeFlags_board (f : BitVec 5) (c : Cell) : (c.mergeFlags f).board = c.board := rfl
@[simp] theorem Cell.mergeFlags_marks (f : BitVec 5) (c : Cell) : (c.mergeFlags f).marks = c.marks := rfl
@[simp] theorem Cell.unhold_x (p : ParkKey → Bool) (c : Cell) : (c.unhold p).x = c.x := by unfold Cell.unhold; split; (split <;> rfl); rfl
@[simp] theorem Cell.unhold_p (p : ParkKey → Bool) (c : Cell) : (c.unhold p).p = c.p := by unfold Cell.unhold; split; (split <;> rfl); rfl
@[simp] theorem Cell.unhold_v (p : ParkKey → Bool) (c : Cell) : (c.unhold p).v = c.v := by unfold Cell.unhold; split; (split <;> rfl); rfl
@[simp] theorem Cell.unhold_tiles (p : ParkKey → Bool) (c : Cell) : (c.unhold p).tiles = c.tiles := by unfold Cell.unhold; split; (split <;> rfl); rfl
@[simp] theorem Cell.unhold_acc (p : ParkKey → Bool) (c : Cell) : (c.unhold p).acc = c.acc := by unfold Cell.unhold; split; (split <;> rfl); rfl
@[simp] theorem Cell.unhold_inner (p : ParkKey → Bool) (c : Cell) : (c.unhold p).inner = c.inner := by unfold Cell.unhold; split; (split <;> rfl); rfl
@[simp] theorem Cell.unhold_poison (p : ParkKey → Bool) (c : Cell) : (c.unhold p).poison = c.poison := by unfold Cell.unhold; split; (split <;> rfl); rfl
@[simp] theorem Cell.unhold_store (p : ParkKey → Bool) (c : Cell) : (c.unhold p).store = c.store := by unfold Cell.unhold; split; (split <;> rfl); rfl
@[simp] theorem Cell.unhold_emptyWords (p : ParkKey → Bool) (c : Cell) : (c.unhold p).emptyWords = c.emptyWords := by unfold Cell.unhold; split; (split <;> rfl); rfl
@[simp] theorem Cell.unhold_istore (p : ParkKey → Bool) (c : Cell) : (c.unhold p).istore = c.istore := by unfold Cell.unhold; split; (split <;> rfl); rfl
@[simp] theorem Cell.unhold_badStore (p : ParkKey → Bool) (c : Cell) : (c.unhold p).badStore = c.badStore := by unfold Cell.unhold; split; (split <;> rfl); rfl
@[simp] theorem Cell.unhold_poisonStore (p : ParkKey → Bool) (c : Cell) : (c.unhold p).poisonStore = c.poisonStore := by unfold Cell.unhold; split; (split <;> rfl); rfl
@[simp] theorem Cell.unhold_badTiles (p : ParkKey → Bool) (c : Cell) : (c.unhold p).badTiles = c.badTiles := by unfold Cell.unhold; split; (split <;> rfl); rfl
@[simp] theorem Cell.unhold_badCode (p : ParkKey → Bool) (c : Cell) : (c.unhold p).badCode = c.badCode := by unfold Cell.unhold; split; (split <;> rfl); rfl
@[simp] theorem Cell.unhold_k (p : ParkKey → Bool) (c : Cell) : (c.unhold p).k = c.k := by unfold Cell.unhold; split; (split <;> rfl); rfl
@[simp] theorem Cell.unhold_draw (p : ParkKey → Bool) (c : Cell) : (c.unhold p).draw = c.draw := by unfold Cell.unhold; split; (split <;> rfl); rfl
@[simp] theorem Cell.unhold_pc (p : ParkKey → Bool) (c : Cell) : (c.unhold p).pc = c.pc := by unfold Cell.unhold; split; (split <;> rfl); rfl
@[simp] theorem Cell.unhold_cur (p : ParkKey → Bool) (c : Cell) : (c.unhold p).cur = c.cur := by unfold Cell.unhold; split; (split <;> rfl); rfl
@[simp] theorem Cell.unhold_hnd (p : ParkKey → Bool) (c : Cell) : (c.unhold p).hnd = c.hnd := by unfold Cell.unhold; split; (split <;> rfl); rfl
@[simp] theorem Cell.unhold_ptr (p : ParkKey → Bool) (c : Cell) : (c.unhold p).ptr = c.ptr := by unfold Cell.unhold; split; (split <;> rfl); rfl
@[simp] theorem Cell.unhold_sb (p : ParkKey → Bool) (c : Cell) : (c.unhold p).sb = c.sb := by unfold Cell.unhold; split; (split <;> rfl); rfl
@[simp] theorem Cell.unhold_inflight (p : ParkKey → Bool) (c : Cell) : (c.unhold p).inflight = c.inflight := by unfold Cell.unhold; split; (split <;> rfl); rfl
@[simp] theorem Cell.unhold_nextId (p : ParkKey → Bool) (c : Cell) : (c.unhold p).nextId = c.nextId := by unfold Cell.unhold; split; (split <;> rfl); rfl
@[simp] theorem Cell.unhold_l1 (p : ParkKey → Bool) (c : Cell) : (c.unhold p).l1 = c.l1 := by unfold Cell.unhold; split; (split <;> rfl); rfl
@[simp] theorem Cell.unhold_l1Bad (p : ParkKey → Bool) (c : Cell) : (c.unhold p).l1Bad = c.l1Bad := by unfold Cell.unhold; split; (split <;> rfl); rfl
@[simp] theorem Cell.unhold_win (p : ParkKey → Bool) (c : Cell) : (c.unhold p).win = c.win := by unfold Cell.unhold; split; (split <;> rfl); rfl
@[simp] theorem Cell.unhold_chan (p : ParkKey → Bool) (c : Cell) : (c.unhold p).chan = c.chan := by unfold Cell.unhold; split; (split <;> rfl); rfl
@[simp] theorem Cell.unhold_outq (p : ParkKey → Bool) (c : Cell) : (c.unhold p).outq = c.outq := by unfold Cell.unhold; split; (split <;> rfl); rfl
@[simp] theorem Cell.unhold_slots (p : ParkKey → Bool) (c : Cell) : (c.unhold p).slots = c.slots := by unfold Cell.unhold; split; (split <;> rfl); rfl
@[simp] theorem Cell.unhold_node (p : ParkKey → Bool) (c : Cell) : (c.unhold p).node = c.node := by unfold Cell.unhold; split; (split <;> rfl); rfl
@[simp] theorem Cell.unhold_mx (p : ParkKey → Bool) (c : Cell) : (c.unhold p).mx = c.mx := by unfold Cell.unhold; split; (split <;> rfl); rfl
@[simp] theorem Cell.unhold_cp (p : ParkKey → Bool) (c : Cell) : (c.unhold p).cp = c.cp := by unfold Cell.unhold; split; (split <;> rfl); rfl
@[simp] theorem Cell.unhold_kv (p : ParkKey → Bool) (c : Cell) : (c.unhold p).kv = c.kv := by unfold Cell.unhold; split; (split <;> rfl); rfl
@[simp] theorem Cell.unhold_sk (p : ParkKey → Bool) (c : Cell) : (c.unhold p).sk = c.sk := by unfold Cell.unhold; split; (split <;> rfl); rfl
@[simp] theorem Cell.unhold_ch (p : ParkKey → Bool) (c : Cell) : (c.unhold p).ch = c.ch := by unfold Cell.unhold; split; (split <;> rfl); rfl
@[simp] theorem Cell.unhold_gs (p : ParkKey → Bool) (c : Cell) : (c.unhold p).gs = c.gs := by unfold Cell.unhold; split; (split <;> rfl); rfl
@[simp] theorem Cell.unhold_sections (p : ParkKey → Bool) (c : Cell) : (c.unhold p).sections = c.sections := by unfold Cell.unhold; split; (split <;> rfl); rfl
@[simp] theorem Cell.unhold_collecting (p : ParkKey → Bool) (c : Cell) : (c.unhold p).collecting = c.collecting := by unfold Cell.unhold; split; (split <;> rfl); rfl
@[simp] theorem Cell.unhold_walks (p : ParkKey → Bool) (c : Cell) : (c.unhold p).walks = c.walks := by unfold Cell.unhold; split; (split <;> rfl); rfl
@[simp] theorem Cell.unhold_arrivals (p : ParkKey → Bool) (c : Cell) : (c.unhold p).arrivals = c.arrivals := by unfold Cell.unhold; split; (split <;> rfl); rfl
@[simp] theorem Cell.unhold_port (p : ParkKey → Bool) (c : Cell) : (c.unhold p).port = c.port := by unfold Cell.unhold; split; (split <;> rfl); rfl
@[simp] theorem Cell.unhold_widePosted (p : ParkKey → Bool) (c : Cell) : (c.unhold p).widePosted = c.widePosted := by unfold Cell.unhold; split; (split <;> rfl); rfl
@[simp] theorem Cell.unhold_failedTo (p : ParkKey → Bool) (c : Cell) : (c.unhold p).failedTo = c.failedTo := by unfold Cell.unhold; split; (split <;> rfl); rfl
@[simp] theorem Cell.unhold_fault (p : ParkKey → Bool) (c : Cell) : (c.unhold p).fault = c.fault := by unfold Cell.unhold; split; (split <;> rfl); rfl
@[simp] theorem Cell.unhold_stopped (p : ParkKey → Bool) (c : Cell) : (c.unhold p).stopped = c.stopped := by unfold Cell.unhold; split; (split <;> rfl); rfl
@[simp] theorem Cell.unhold_board (p : ParkKey → Bool) (c : Cell) : (c.unhold p).board = c.board := by unfold Cell.unhold; split; (split <;> rfl); rfl
@[simp] theorem Cell.unhold_marks (p : ParkKey → Bool) (c : Cell) : (c.unhold p).marks = c.marks := by unfold Cell.unhold; split; (split <;> rfl); rfl

/-! ### Wakes -/

@[simp] theorem Cell.wakeWhere_x (p : ParkKey → Bool) (c : Cell) : (c.wakeWhere p).x = c.x := by simp [Cell.wakeWhere]
@[simp] theorem Cell.wakeWhere_p (p : ParkKey → Bool) (c : Cell) : (c.wakeWhere p).p = c.p := by simp [Cell.wakeWhere]
@[simp] theorem Cell.wakeWhere_v (p : ParkKey → Bool) (c : Cell) : (c.wakeWhere p).v = c.v := by simp [Cell.wakeWhere]
@[simp] theorem Cell.wakeWhere_tiles (p : ParkKey → Bool) (c : Cell) : (c.wakeWhere p).tiles = c.tiles := by simp [Cell.wakeWhere]
@[simp] theorem Cell.wakeWhere_acc (p : ParkKey → Bool) (c : Cell) : (c.wakeWhere p).acc = c.acc := by simp [Cell.wakeWhere]
@[simp] theorem Cell.wakeWhere_inner (p : ParkKey → Bool) (c : Cell) : (c.wakeWhere p).inner = c.inner := by simp [Cell.wakeWhere]
@[simp] theorem Cell.wakeWhere_poison (p : ParkKey → Bool) (c : Cell) : (c.wakeWhere p).poison = c.poison := by simp [Cell.wakeWhere]
@[simp] theorem Cell.wakeWhere_store (p : ParkKey → Bool) (c : Cell) : (c.wakeWhere p).store = c.store := by simp [Cell.wakeWhere]
@[simp] theorem Cell.wakeWhere_emptyWords (p : ParkKey → Bool) (c : Cell) : (c.wakeWhere p).emptyWords = c.emptyWords := by simp [Cell.wakeWhere]
@[simp] theorem Cell.wakeWhere_istore (p : ParkKey → Bool) (c : Cell) : (c.wakeWhere p).istore = c.istore := by simp [Cell.wakeWhere]
@[simp] theorem Cell.wakeWhere_badStore (p : ParkKey → Bool) (c : Cell) : (c.wakeWhere p).badStore = c.badStore := by simp [Cell.wakeWhere]
@[simp] theorem Cell.wakeWhere_poisonStore (p : ParkKey → Bool) (c : Cell) : (c.wakeWhere p).poisonStore = c.poisonStore := by simp [Cell.wakeWhere]
@[simp] theorem Cell.wakeWhere_badTiles (p : ParkKey → Bool) (c : Cell) : (c.wakeWhere p).badTiles = c.badTiles := by simp [Cell.wakeWhere]
@[simp] theorem Cell.wakeWhere_badCode (p : ParkKey → Bool) (c : Cell) : (c.wakeWhere p).badCode = c.badCode := by simp [Cell.wakeWhere]
@[simp] theorem Cell.wakeWhere_k (p : ParkKey → Bool) (c : Cell) : (c.wakeWhere p).k = c.k := by simp [Cell.wakeWhere]
@[simp] theorem Cell.wakeWhere_draw (p : ParkKey → Bool) (c : Cell) : (c.wakeWhere p).draw = c.draw := by simp [Cell.wakeWhere]
@[simp] theorem Cell.wakeWhere_pc (p : ParkKey → Bool) (c : Cell) : (c.wakeWhere p).pc = c.pc := by simp [Cell.wakeWhere]
@[simp] theorem Cell.wakeWhere_cur (p : ParkKey → Bool) (c : Cell) : (c.wakeWhere p).cur = c.cur := by simp [Cell.wakeWhere]
@[simp] theorem Cell.wakeWhere_ptr (p : ParkKey → Bool) (c : Cell) : (c.wakeWhere p).ptr = c.ptr := by simp [Cell.wakeWhere]
@[simp] theorem Cell.wakeWhere_sb (p : ParkKey → Bool) (c : Cell) : (c.wakeWhere p).sb = c.sb := by simp [Cell.wakeWhere]
@[simp] theorem Cell.wakeWhere_inflight (p : ParkKey → Bool) (c : Cell) : (c.wakeWhere p).inflight = c.inflight := by simp [Cell.wakeWhere]
@[simp] theorem Cell.wakeWhere_nextId (p : ParkKey → Bool) (c : Cell) : (c.wakeWhere p).nextId = c.nextId := by simp [Cell.wakeWhere]
@[simp] theorem Cell.wakeWhere_l1 (p : ParkKey → Bool) (c : Cell) : (c.wakeWhere p).l1 = c.l1 := by simp [Cell.wakeWhere]
@[simp] theorem Cell.wakeWhere_l1Bad (p : ParkKey → Bool) (c : Cell) : (c.wakeWhere p).l1Bad = c.l1Bad := by simp [Cell.wakeWhere]
@[simp] theorem Cell.wakeWhere_win (p : ParkKey → Bool) (c : Cell) : (c.wakeWhere p).win = c.win := by simp [Cell.wakeWhere]
@[simp] theorem Cell.wakeWhere_chan (p : ParkKey → Bool) (c : Cell) : (c.wakeWhere p).chan = c.chan := by simp [Cell.wakeWhere]
@[simp] theorem Cell.wakeWhere_outq (p : ParkKey → Bool) (c : Cell) : (c.wakeWhere p).outq = c.outq := by simp [Cell.wakeWhere]
@[simp] theorem Cell.wakeWhere_slots (p : ParkKey → Bool) (c : Cell) : (c.wakeWhere p).slots = c.slots := by simp [Cell.wakeWhere]
@[simp] theorem Cell.wakeWhere_node (p : ParkKey → Bool) (c : Cell) : (c.wakeWhere p).node = c.node := by simp [Cell.wakeWhere]
@[simp] theorem Cell.wakeWhere_mx (p : ParkKey → Bool) (c : Cell) : (c.wakeWhere p).mx = c.mx := by simp [Cell.wakeWhere]
@[simp] theorem Cell.wakeWhere_cp (p : ParkKey → Bool) (c : Cell) : (c.wakeWhere p).cp = c.cp := by simp [Cell.wakeWhere]
@[simp] theorem Cell.wakeWhere_kv (p : ParkKey → Bool) (c : Cell) : (c.wakeWhere p).kv = c.kv := by simp [Cell.wakeWhere]
@[simp] theorem Cell.wakeWhere_sk (p : ParkKey → Bool) (c : Cell) : (c.wakeWhere p).sk = c.sk := by simp [Cell.wakeWhere]
@[simp] theorem Cell.wakeWhere_ch (p : ParkKey → Bool) (c : Cell) : (c.wakeWhere p).ch = c.ch := by simp [Cell.wakeWhere]
@[simp] theorem Cell.wakeWhere_gs (p : ParkKey → Bool) (c : Cell) : (c.wakeWhere p).gs = c.gs := by simp [Cell.wakeWhere]
@[simp] theorem Cell.wakeWhere_sections (p : ParkKey → Bool) (c : Cell) : (c.wakeWhere p).sections = c.sections := by simp [Cell.wakeWhere]
@[simp] theorem Cell.wakeWhere_collecting (p : ParkKey → Bool) (c : Cell) : (c.wakeWhere p).collecting = c.collecting := by simp [Cell.wakeWhere]
@[simp] theorem Cell.wakeWhere_walks (p : ParkKey → Bool) (c : Cell) : (c.wakeWhere p).walks = c.walks := by simp [Cell.wakeWhere]
@[simp] theorem Cell.wakeWhere_arrivals (p : ParkKey → Bool) (c : Cell) : (c.wakeWhere p).arrivals = c.arrivals := by simp [Cell.wakeWhere]
@[simp] theorem Cell.wakeWhere_port (p : ParkKey → Bool) (c : Cell) : (c.wakeWhere p).port = c.port := by simp [Cell.wakeWhere]
@[simp] theorem Cell.wakeWhere_widePosted (p : ParkKey → Bool) (c : Cell) : (c.wakeWhere p).widePosted = c.widePosted := by simp [Cell.wakeWhere]
@[simp] theorem Cell.wakeWhere_failedTo (p : ParkKey → Bool) (c : Cell) : (c.wakeWhere p).failedTo = c.failedTo := by simp [Cell.wakeWhere]
@[simp] theorem Cell.wakeWhere_fault (p : ParkKey → Bool) (c : Cell) : (c.wakeWhere p).fault = c.fault := by simp [Cell.wakeWhere]
@[simp] theorem Cell.wakeWhere_stopped (p : ParkKey → Bool) (c : Cell) : (c.wakeWhere p).stopped = c.stopped := by simp [Cell.wakeWhere]
@[simp] theorem Cell.wakeWhere_board (p : ParkKey → Bool) (c : Cell) : (c.wakeWhere p).board = c.board := by simp [Cell.wakeWhere]
@[simp] theorem Cell.wakeWhere_marks (p : ParkKey → Bool) (c : Cell) : (c.wakeWhere p).marks = c.marks := by simp [Cell.wakeWhere]
@[simp] theorem Cell.wakeOn_x (k : ParkKey) (c : Cell) : (c.wakeOn k).x = c.x := by simp [Cell.wakeOn]
@[simp] theorem Cell.wakeOn_p (k : ParkKey) (c : Cell) : (c.wakeOn k).p = c.p := by simp [Cell.wakeOn]
@[simp] theorem Cell.wakeOn_v (k : ParkKey) (c : Cell) : (c.wakeOn k).v = c.v := by simp [Cell.wakeOn]
@[simp] theorem Cell.wakeOn_tiles (k : ParkKey) (c : Cell) : (c.wakeOn k).tiles = c.tiles := by simp [Cell.wakeOn]
@[simp] theorem Cell.wakeOn_acc (k : ParkKey) (c : Cell) : (c.wakeOn k).acc = c.acc := by simp [Cell.wakeOn]
@[simp] theorem Cell.wakeOn_inner (k : ParkKey) (c : Cell) : (c.wakeOn k).inner = c.inner := by simp [Cell.wakeOn]
@[simp] theorem Cell.wakeOn_poison (k : ParkKey) (c : Cell) : (c.wakeOn k).poison = c.poison := by simp [Cell.wakeOn]
@[simp] theorem Cell.wakeOn_store (k : ParkKey) (c : Cell) : (c.wakeOn k).store = c.store := by simp [Cell.wakeOn]
@[simp] theorem Cell.wakeOn_emptyWords (k : ParkKey) (c : Cell) : (c.wakeOn k).emptyWords = c.emptyWords := by simp [Cell.wakeOn]
@[simp] theorem Cell.wakeOn_istore (k : ParkKey) (c : Cell) : (c.wakeOn k).istore = c.istore := by simp [Cell.wakeOn]
@[simp] theorem Cell.wakeOn_badStore (k : ParkKey) (c : Cell) : (c.wakeOn k).badStore = c.badStore := by simp [Cell.wakeOn]
@[simp] theorem Cell.wakeOn_poisonStore (k : ParkKey) (c : Cell) : (c.wakeOn k).poisonStore = c.poisonStore := by simp [Cell.wakeOn]
@[simp] theorem Cell.wakeOn_badTiles (k : ParkKey) (c : Cell) : (c.wakeOn k).badTiles = c.badTiles := by simp [Cell.wakeOn]
@[simp] theorem Cell.wakeOn_badCode (k : ParkKey) (c : Cell) : (c.wakeOn k).badCode = c.badCode := by simp [Cell.wakeOn]
@[simp] theorem Cell.wakeOn_k (k : ParkKey) (c : Cell) : (c.wakeOn k).k = c.k := by simp [Cell.wakeOn]
@[simp] theorem Cell.wakeOn_draw (k : ParkKey) (c : Cell) : (c.wakeOn k).draw = c.draw := by simp [Cell.wakeOn]
@[simp] theorem Cell.wakeOn_pc (k : ParkKey) (c : Cell) : (c.wakeOn k).pc = c.pc := by simp [Cell.wakeOn]
@[simp] theorem Cell.wakeOn_cur (k : ParkKey) (c : Cell) : (c.wakeOn k).cur = c.cur := by simp [Cell.wakeOn]
@[simp] theorem Cell.wakeOn_ptr (k : ParkKey) (c : Cell) : (c.wakeOn k).ptr = c.ptr := by simp [Cell.wakeOn]
@[simp] theorem Cell.wakeOn_sb (k : ParkKey) (c : Cell) : (c.wakeOn k).sb = c.sb := by simp [Cell.wakeOn]
@[simp] theorem Cell.wakeOn_inflight (k : ParkKey) (c : Cell) : (c.wakeOn k).inflight = c.inflight := by simp [Cell.wakeOn]
@[simp] theorem Cell.wakeOn_nextId (k : ParkKey) (c : Cell) : (c.wakeOn k).nextId = c.nextId := by simp [Cell.wakeOn]
@[simp] theorem Cell.wakeOn_l1 (k : ParkKey) (c : Cell) : (c.wakeOn k).l1 = c.l1 := by simp [Cell.wakeOn]
@[simp] theorem Cell.wakeOn_l1Bad (k : ParkKey) (c : Cell) : (c.wakeOn k).l1Bad = c.l1Bad := by simp [Cell.wakeOn]
@[simp] theorem Cell.wakeOn_win (k : ParkKey) (c : Cell) : (c.wakeOn k).win = c.win := by simp [Cell.wakeOn]
@[simp] theorem Cell.wakeOn_chan (k : ParkKey) (c : Cell) : (c.wakeOn k).chan = c.chan := by simp [Cell.wakeOn]
@[simp] theorem Cell.wakeOn_outq (k : ParkKey) (c : Cell) : (c.wakeOn k).outq = c.outq := by simp [Cell.wakeOn]
@[simp] theorem Cell.wakeOn_slots (k : ParkKey) (c : Cell) : (c.wakeOn k).slots = c.slots := by simp [Cell.wakeOn]
@[simp] theorem Cell.wakeOn_node (k : ParkKey) (c : Cell) : (c.wakeOn k).node = c.node := by simp [Cell.wakeOn]
@[simp] theorem Cell.wakeOn_mx (k : ParkKey) (c : Cell) : (c.wakeOn k).mx = c.mx := by simp [Cell.wakeOn]
@[simp] theorem Cell.wakeOn_cp (k : ParkKey) (c : Cell) : (c.wakeOn k).cp = c.cp := by simp [Cell.wakeOn]
@[simp] theorem Cell.wakeOn_kv (k : ParkKey) (c : Cell) : (c.wakeOn k).kv = c.kv := by simp [Cell.wakeOn]
@[simp] theorem Cell.wakeOn_sk (k : ParkKey) (c : Cell) : (c.wakeOn k).sk = c.sk := by simp [Cell.wakeOn]
@[simp] theorem Cell.wakeOn_ch (k : ParkKey) (c : Cell) : (c.wakeOn k).ch = c.ch := by simp [Cell.wakeOn]
@[simp] theorem Cell.wakeOn_gs (k : ParkKey) (c : Cell) : (c.wakeOn k).gs = c.gs := by simp [Cell.wakeOn]
@[simp] theorem Cell.wakeOn_sections (k : ParkKey) (c : Cell) : (c.wakeOn k).sections = c.sections := by simp [Cell.wakeOn]
@[simp] theorem Cell.wakeOn_collecting (k : ParkKey) (c : Cell) : (c.wakeOn k).collecting = c.collecting := by simp [Cell.wakeOn]
@[simp] theorem Cell.wakeOn_walks (k : ParkKey) (c : Cell) : (c.wakeOn k).walks = c.walks := by simp [Cell.wakeOn]
@[simp] theorem Cell.wakeOn_arrivals (k : ParkKey) (c : Cell) : (c.wakeOn k).arrivals = c.arrivals := by simp [Cell.wakeOn]
@[simp] theorem Cell.wakeOn_port (k : ParkKey) (c : Cell) : (c.wakeOn k).port = c.port := by simp [Cell.wakeOn]
@[simp] theorem Cell.wakeOn_widePosted (k : ParkKey) (c : Cell) : (c.wakeOn k).widePosted = c.widePosted := by simp [Cell.wakeOn]
@[simp] theorem Cell.wakeOn_failedTo (k : ParkKey) (c : Cell) : (c.wakeOn k).failedTo = c.failedTo := by simp [Cell.wakeOn]
@[simp] theorem Cell.wakeOn_fault (k : ParkKey) (c : Cell) : (c.wakeOn k).fault = c.fault := by simp [Cell.wakeOn]
@[simp] theorem Cell.wakeOn_stopped (k : ParkKey) (c : Cell) : (c.wakeOn k).stopped = c.stopped := by simp [Cell.wakeOn]
@[simp] theorem Cell.wakeOn_board (k : ParkKey) (c : Cell) : (c.wakeOn k).board = c.board := by simp [Cell.wakeOn]
@[simp] theorem Cell.wakeOn_marks (k : ParkKey) (c : Cell) : (c.wakeOn k).marks = c.marks := by simp [Cell.wakeOn]
@[simp] theorem Cell.landX_p (d : XIdx) (v : Word) (c : Cell) : (c.landX d v).p = c.p := by simp [Cell.landX]
@[simp] theorem Cell.landX_v (d : XIdx) (v : Word) (c : Cell) : (c.landX d v).v = c.v := by simp [Cell.landX]
@[simp] theorem Cell.landX_tiles (d : XIdx) (v : Word) (c : Cell) : (c.landX d v).tiles = c.tiles := by simp [Cell.landX]
@[simp] theorem Cell.landX_acc (d : XIdx) (v : Word) (c : Cell) : (c.landX d v).acc = c.acc := by simp [Cell.landX]
@[simp] theorem Cell.landX_inner (d : XIdx) (v : Word) (c : Cell) : (c.landX d v).inner = c.inner := by simp [Cell.landX]
@[simp] theorem Cell.landX_poison (d : XIdx) (v : Word) (c : Cell) : (c.landX d v).poison = c.poison := by simp [Cell.landX]
@[simp] theorem Cell.landX_store (d : XIdx) (v : Word) (c : Cell) : (c.landX d v).store = c.store := by simp [Cell.landX]
@[simp] theorem Cell.landX_emptyWords (d : XIdx) (v : Word) (c : Cell) : (c.landX d v).emptyWords = c.emptyWords := by simp [Cell.landX]
@[simp] theorem Cell.landX_istore (d : XIdx) (v : Word) (c : Cell) : (c.landX d v).istore = c.istore := by simp [Cell.landX]
@[simp] theorem Cell.landX_badStore (d : XIdx) (v : Word) (c : Cell) : (c.landX d v).badStore = c.badStore := by simp [Cell.landX]
@[simp] theorem Cell.landX_poisonStore (d : XIdx) (v : Word) (c : Cell) : (c.landX d v).poisonStore = c.poisonStore := by simp [Cell.landX]
@[simp] theorem Cell.landX_badTiles (d : XIdx) (v : Word) (c : Cell) : (c.landX d v).badTiles = c.badTiles := by simp [Cell.landX]
@[simp] theorem Cell.landX_badCode (d : XIdx) (v : Word) (c : Cell) : (c.landX d v).badCode = c.badCode := by simp [Cell.landX]
@[simp] theorem Cell.landX_k (d : XIdx) (v : Word) (c : Cell) : (c.landX d v).k = c.k := by simp [Cell.landX]
@[simp] theorem Cell.landX_draw (d : XIdx) (v : Word) (c : Cell) : (c.landX d v).draw = c.draw := by simp [Cell.landX]
@[simp] theorem Cell.landX_pc (d : XIdx) (v : Word) (c : Cell) : (c.landX d v).pc = c.pc := by simp [Cell.landX]
@[simp] theorem Cell.landX_cur (d : XIdx) (v : Word) (c : Cell) : (c.landX d v).cur = c.cur := by simp [Cell.landX]
@[simp] theorem Cell.landX_ptr (d : XIdx) (v : Word) (c : Cell) : (c.landX d v).ptr = c.ptr := by simp [Cell.landX]
@[simp] theorem Cell.landX_sb (d : XIdx) (v : Word) (c : Cell) : (c.landX d v).sb = c.sb := by simp [Cell.landX]
@[simp] theorem Cell.landX_inflight (d : XIdx) (v : Word) (c : Cell) : (c.landX d v).inflight = c.inflight := by simp [Cell.landX]
@[simp] theorem Cell.landX_nextId (d : XIdx) (v : Word) (c : Cell) : (c.landX d v).nextId = c.nextId := by simp [Cell.landX]
@[simp] theorem Cell.landX_l1 (d : XIdx) (v : Word) (c : Cell) : (c.landX d v).l1 = c.l1 := by simp [Cell.landX]
@[simp] theorem Cell.landX_l1Bad (d : XIdx) (v : Word) (c : Cell) : (c.landX d v).l1Bad = c.l1Bad := by simp [Cell.landX]
@[simp] theorem Cell.landX_win (d : XIdx) (v : Word) (c : Cell) : (c.landX d v).win = c.win := by simp [Cell.landX]
@[simp] theorem Cell.landX_chan (d : XIdx) (v : Word) (c : Cell) : (c.landX d v).chan = c.chan := by simp [Cell.landX]
@[simp] theorem Cell.landX_outq (d : XIdx) (v : Word) (c : Cell) : (c.landX d v).outq = c.outq := by simp [Cell.landX]
@[simp] theorem Cell.landX_slots (d : XIdx) (v : Word) (c : Cell) : (c.landX d v).slots = c.slots := by simp [Cell.landX]
@[simp] theorem Cell.landX_node (d : XIdx) (v : Word) (c : Cell) : (c.landX d v).node = c.node := by simp [Cell.landX]
@[simp] theorem Cell.landX_mx (d : XIdx) (v : Word) (c : Cell) : (c.landX d v).mx = c.mx := by simp [Cell.landX]
@[simp] theorem Cell.landX_cp (d : XIdx) (v : Word) (c : Cell) : (c.landX d v).cp = c.cp := by simp [Cell.landX]
@[simp] theorem Cell.landX_kv (d : XIdx) (v : Word) (c : Cell) : (c.landX d v).kv = c.kv := by simp [Cell.landX]
@[simp] theorem Cell.landX_sk (d : XIdx) (v : Word) (c : Cell) : (c.landX d v).sk = c.sk := by simp [Cell.landX]
@[simp] theorem Cell.landX_ch (d : XIdx) (v : Word) (c : Cell) : (c.landX d v).ch = c.ch := by simp [Cell.landX]
@[simp] theorem Cell.landX_gs (d : XIdx) (v : Word) (c : Cell) : (c.landX d v).gs = c.gs := by simp [Cell.landX]
@[simp] theorem Cell.landX_sections (d : XIdx) (v : Word) (c : Cell) : (c.landX d v).sections = c.sections := by simp [Cell.landX]
@[simp] theorem Cell.landX_collecting (d : XIdx) (v : Word) (c : Cell) : (c.landX d v).collecting = c.collecting := by simp [Cell.landX]
@[simp] theorem Cell.landX_walks (d : XIdx) (v : Word) (c : Cell) : (c.landX d v).walks = c.walks := by simp [Cell.landX]
@[simp] theorem Cell.landX_arrivals (d : XIdx) (v : Word) (c : Cell) : (c.landX d v).arrivals = c.arrivals := by simp [Cell.landX]
@[simp] theorem Cell.landX_port (d : XIdx) (v : Word) (c : Cell) : (c.landX d v).port = c.port := by simp [Cell.landX]
@[simp] theorem Cell.landX_widePosted (d : XIdx) (v : Word) (c : Cell) : (c.landX d v).widePosted = c.widePosted := by simp [Cell.landX]
@[simp] theorem Cell.landX_failedTo (d : XIdx) (v : Word) (c : Cell) : (c.landX d v).failedTo = c.failedTo := by simp [Cell.landX]
@[simp] theorem Cell.landX_fault (d : XIdx) (v : Word) (c : Cell) : (c.landX d v).fault = c.fault := by simp [Cell.landX]
@[simp] theorem Cell.landX_stopped (d : XIdx) (v : Word) (c : Cell) : (c.landX d v).stopped = c.stopped := by simp [Cell.landX]
@[simp] theorem Cell.landX_board (d : XIdx) (v : Word) (c : Cell) : (c.landX d v).board = c.board := by simp [Cell.landX]
@[simp] theorem Cell.landX_marks (d : XIdx) (v : Word) (c : Cell) : (c.landX d v).marks = c.marks := by simp [Cell.landX]
@[simp] theorem Cell.landV_x (d : VIdx) (l : List W32) (c : Cell) : (c.landV d l).x = c.x := by simp [Cell.landV]
@[simp] theorem Cell.landV_p (d : VIdx) (l : List W32) (c : Cell) : (c.landV d l).p = c.p := by simp [Cell.landV]
@[simp] theorem Cell.landV_tiles (d : VIdx) (l : List W32) (c : Cell) : (c.landV d l).tiles = c.tiles := by simp [Cell.landV]
@[simp] theorem Cell.landV_acc (d : VIdx) (l : List W32) (c : Cell) : (c.landV d l).acc = c.acc := by simp [Cell.landV]
@[simp] theorem Cell.landV_inner (d : VIdx) (l : List W32) (c : Cell) : (c.landV d l).inner = c.inner := by simp [Cell.landV]
@[simp] theorem Cell.landV_poison (d : VIdx) (l : List W32) (c : Cell) : (c.landV d l).poison = c.poison := by simp [Cell.landV]
@[simp] theorem Cell.landV_store (d : VIdx) (l : List W32) (c : Cell) : (c.landV d l).store = c.store := by simp [Cell.landV]
@[simp] theorem Cell.landV_emptyWords (d : VIdx) (l : List W32) (c : Cell) : (c.landV d l).emptyWords = c.emptyWords := by simp [Cell.landV]
@[simp] theorem Cell.landV_istore (d : VIdx) (l : List W32) (c : Cell) : (c.landV d l).istore = c.istore := by simp [Cell.landV]
@[simp] theorem Cell.landV_badStore (d : VIdx) (l : List W32) (c : Cell) : (c.landV d l).badStore = c.badStore := by simp [Cell.landV]
@[simp] theorem Cell.landV_poisonStore (d : VIdx) (l : List W32) (c : Cell) : (c.landV d l).poisonStore = c.poisonStore := by simp [Cell.landV]
@[simp] theorem Cell.landV_badTiles (d : VIdx) (l : List W32) (c : Cell) : (c.landV d l).badTiles = c.badTiles := by simp [Cell.landV]
@[simp] theorem Cell.landV_badCode (d : VIdx) (l : List W32) (c : Cell) : (c.landV d l).badCode = c.badCode := by simp [Cell.landV]
@[simp] theorem Cell.landV_k (d : VIdx) (l : List W32) (c : Cell) : (c.landV d l).k = c.k := by simp [Cell.landV]
@[simp] theorem Cell.landV_draw (d : VIdx) (l : List W32) (c : Cell) : (c.landV d l).draw = c.draw := by simp [Cell.landV]
@[simp] theorem Cell.landV_pc (d : VIdx) (l : List W32) (c : Cell) : (c.landV d l).pc = c.pc := by simp [Cell.landV]
@[simp] theorem Cell.landV_cur (d : VIdx) (l : List W32) (c : Cell) : (c.landV d l).cur = c.cur := by simp [Cell.landV]
@[simp] theorem Cell.landV_ptr (d : VIdx) (l : List W32) (c : Cell) : (c.landV d l).ptr = c.ptr := by simp [Cell.landV]
@[simp] theorem Cell.landV_sb (d : VIdx) (l : List W32) (c : Cell) : (c.landV d l).sb = c.sb := by simp [Cell.landV]
@[simp] theorem Cell.landV_inflight (d : VIdx) (l : List W32) (c : Cell) : (c.landV d l).inflight = c.inflight := by simp [Cell.landV]
@[simp] theorem Cell.landV_nextId (d : VIdx) (l : List W32) (c : Cell) : (c.landV d l).nextId = c.nextId := by simp [Cell.landV]
@[simp] theorem Cell.landV_l1 (d : VIdx) (l : List W32) (c : Cell) : (c.landV d l).l1 = c.l1 := by simp [Cell.landV]
@[simp] theorem Cell.landV_l1Bad (d : VIdx) (l : List W32) (c : Cell) : (c.landV d l).l1Bad = c.l1Bad := by simp [Cell.landV]
@[simp] theorem Cell.landV_win (d : VIdx) (l : List W32) (c : Cell) : (c.landV d l).win = c.win := by simp [Cell.landV]
@[simp] theorem Cell.landV_chan (d : VIdx) (l : List W32) (c : Cell) : (c.landV d l).chan = c.chan := by simp [Cell.landV]
@[simp] theorem Cell.landV_outq (d : VIdx) (l : List W32) (c : Cell) : (c.landV d l).outq = c.outq := by simp [Cell.landV]
@[simp] theorem Cell.landV_slots (d : VIdx) (l : List W32) (c : Cell) : (c.landV d l).slots = c.slots := by simp [Cell.landV]
@[simp] theorem Cell.landV_node (d : VIdx) (l : List W32) (c : Cell) : (c.landV d l).node = c.node := by simp [Cell.landV]
@[simp] theorem Cell.landV_mx (d : VIdx) (l : List W32) (c : Cell) : (c.landV d l).mx = c.mx := by simp [Cell.landV]
@[simp] theorem Cell.landV_cp (d : VIdx) (l : List W32) (c : Cell) : (c.landV d l).cp = c.cp := by simp [Cell.landV]
@[simp] theorem Cell.landV_kv (d : VIdx) (l : List W32) (c : Cell) : (c.landV d l).kv = c.kv := by simp [Cell.landV]
@[simp] theorem Cell.landV_sk (d : VIdx) (l : List W32) (c : Cell) : (c.landV d l).sk = c.sk := by simp [Cell.landV]
@[simp] theorem Cell.landV_ch (d : VIdx) (l : List W32) (c : Cell) : (c.landV d l).ch = c.ch := by simp [Cell.landV]
@[simp] theorem Cell.landV_gs (d : VIdx) (l : List W32) (c : Cell) : (c.landV d l).gs = c.gs := by simp [Cell.landV]
@[simp] theorem Cell.landV_sections (d : VIdx) (l : List W32) (c : Cell) : (c.landV d l).sections = c.sections := by simp [Cell.landV]
@[simp] theorem Cell.landV_collecting (d : VIdx) (l : List W32) (c : Cell) : (c.landV d l).collecting = c.collecting := by simp [Cell.landV]
@[simp] theorem Cell.landV_walks (d : VIdx) (l : List W32) (c : Cell) : (c.landV d l).walks = c.walks := by simp [Cell.landV]
@[simp] theorem Cell.landV_arrivals (d : VIdx) (l : List W32) (c : Cell) : (c.landV d l).arrivals = c.arrivals := by simp [Cell.landV]
@[simp] theorem Cell.landV_port (d : VIdx) (l : List W32) (c : Cell) : (c.landV d l).port = c.port := by simp [Cell.landV]
@[simp] theorem Cell.landV_widePosted (d : VIdx) (l : List W32) (c : Cell) : (c.landV d l).widePosted = c.widePosted := by simp [Cell.landV]
@[simp] theorem Cell.landV_failedTo (d : VIdx) (l : List W32) (c : Cell) : (c.landV d l).failedTo = c.failedTo := by simp [Cell.landV]
@[simp] theorem Cell.landV_fault (d : VIdx) (l : List W32) (c : Cell) : (c.landV d l).fault = c.fault := by simp [Cell.landV]
@[simp] theorem Cell.landV_stopped (d : VIdx) (l : List W32) (c : Cell) : (c.landV d l).stopped = c.stopped := by simp [Cell.landV]
@[simp] theorem Cell.landV_board (d : VIdx) (l : List W32) (c : Cell) : (c.landV d l).board = c.board := by simp [Cell.landV]
@[simp] theorem Cell.landV_marks (d : VIdx) (l : List W32) (c : Cell) : (c.landV d l).marks = c.marks := by simp [Cell.landV]
@[simp] theorem Cell.fillX_p (d : XIdx) (v : Word) (c : Cell) : (c.fillX d v).p = c.p := by unfold Cell.fillX; split <;> simp
@[simp] theorem Cell.fillX_v (d : XIdx) (v : Word) (c : Cell) : (c.fillX d v).v = c.v := by unfold Cell.fillX; split <;> simp
@[simp] theorem Cell.fillX_tiles (d : XIdx) (v : Word) (c : Cell) : (c.fillX d v).tiles = c.tiles := by unfold Cell.fillX; split <;> simp
@[simp] theorem Cell.fillX_acc (d : XIdx) (v : Word) (c : Cell) : (c.fillX d v).acc = c.acc := by unfold Cell.fillX; split <;> simp
@[simp] theorem Cell.fillX_inner (d : XIdx) (v : Word) (c : Cell) : (c.fillX d v).inner = c.inner := by unfold Cell.fillX; split <;> simp
@[simp] theorem Cell.fillX_poison (d : XIdx) (v : Word) (c : Cell) : (c.fillX d v).poison = c.poison := by unfold Cell.fillX; split <;> simp
@[simp] theorem Cell.fillX_store (d : XIdx) (v : Word) (c : Cell) : (c.fillX d v).store = c.store := by unfold Cell.fillX; split <;> simp
@[simp] theorem Cell.fillX_emptyWords (d : XIdx) (v : Word) (c : Cell) : (c.fillX d v).emptyWords = c.emptyWords := by unfold Cell.fillX; split <;> simp
@[simp] theorem Cell.fillX_istore (d : XIdx) (v : Word) (c : Cell) : (c.fillX d v).istore = c.istore := by unfold Cell.fillX; split <;> simp
@[simp] theorem Cell.fillX_badStore (d : XIdx) (v : Word) (c : Cell) : (c.fillX d v).badStore = c.badStore := by unfold Cell.fillX; split <;> simp
@[simp] theorem Cell.fillX_poisonStore (d : XIdx) (v : Word) (c : Cell) : (c.fillX d v).poisonStore = c.poisonStore := by unfold Cell.fillX; split <;> simp
@[simp] theorem Cell.fillX_badTiles (d : XIdx) (v : Word) (c : Cell) : (c.fillX d v).badTiles = c.badTiles := by unfold Cell.fillX; split <;> simp
@[simp] theorem Cell.fillX_badCode (d : XIdx) (v : Word) (c : Cell) : (c.fillX d v).badCode = c.badCode := by unfold Cell.fillX; split <;> simp
@[simp] theorem Cell.fillX_k (d : XIdx) (v : Word) (c : Cell) : (c.fillX d v).k = c.k := by unfold Cell.fillX; split <;> simp
@[simp] theorem Cell.fillX_draw (d : XIdx) (v : Word) (c : Cell) : (c.fillX d v).draw = c.draw := by unfold Cell.fillX; split <;> simp
@[simp] theorem Cell.fillX_pc (d : XIdx) (v : Word) (c : Cell) : (c.fillX d v).pc = c.pc := by unfold Cell.fillX; split <;> simp
@[simp] theorem Cell.fillX_cur (d : XIdx) (v : Word) (c : Cell) : (c.fillX d v).cur = c.cur := by unfold Cell.fillX; split <;> simp
@[simp] theorem Cell.fillX_ptr (d : XIdx) (v : Word) (c : Cell) : (c.fillX d v).ptr = c.ptr := by unfold Cell.fillX; split <;> simp
@[simp] theorem Cell.fillX_sb (d : XIdx) (v : Word) (c : Cell) : (c.fillX d v).sb = c.sb := by unfold Cell.fillX; split <;> simp
@[simp] theorem Cell.fillX_inflight (d : XIdx) (v : Word) (c : Cell) : (c.fillX d v).inflight = c.inflight := by unfold Cell.fillX; split <;> simp
@[simp] theorem Cell.fillX_nextId (d : XIdx) (v : Word) (c : Cell) : (c.fillX d v).nextId = c.nextId := by unfold Cell.fillX; split <;> simp
@[simp] theorem Cell.fillX_l1 (d : XIdx) (v : Word) (c : Cell) : (c.fillX d v).l1 = c.l1 := by unfold Cell.fillX; split <;> simp
@[simp] theorem Cell.fillX_l1Bad (d : XIdx) (v : Word) (c : Cell) : (c.fillX d v).l1Bad = c.l1Bad := by unfold Cell.fillX; split <;> simp
@[simp] theorem Cell.fillX_win (d : XIdx) (v : Word) (c : Cell) : (c.fillX d v).win = c.win := by unfold Cell.fillX; split <;> simp
@[simp] theorem Cell.fillX_chan (d : XIdx) (v : Word) (c : Cell) : (c.fillX d v).chan = c.chan := by unfold Cell.fillX; split <;> simp
@[simp] theorem Cell.fillX_outq (d : XIdx) (v : Word) (c : Cell) : (c.fillX d v).outq = c.outq := by unfold Cell.fillX; split <;> simp
@[simp] theorem Cell.fillX_slots (d : XIdx) (v : Word) (c : Cell) : (c.fillX d v).slots = c.slots := by unfold Cell.fillX; split <;> simp
@[simp] theorem Cell.fillX_node (d : XIdx) (v : Word) (c : Cell) : (c.fillX d v).node = c.node := by unfold Cell.fillX; split <;> simp
@[simp] theorem Cell.fillX_mx (d : XIdx) (v : Word) (c : Cell) : (c.fillX d v).mx = c.mx := by unfold Cell.fillX; split <;> simp
@[simp] theorem Cell.fillX_cp (d : XIdx) (v : Word) (c : Cell) : (c.fillX d v).cp = c.cp := by unfold Cell.fillX; split <;> simp
@[simp] theorem Cell.fillX_kv (d : XIdx) (v : Word) (c : Cell) : (c.fillX d v).kv = c.kv := by unfold Cell.fillX; split <;> simp
@[simp] theorem Cell.fillX_sk (d : XIdx) (v : Word) (c : Cell) : (c.fillX d v).sk = c.sk := by unfold Cell.fillX; split <;> simp
@[simp] theorem Cell.fillX_ch (d : XIdx) (v : Word) (c : Cell) : (c.fillX d v).ch = c.ch := by unfold Cell.fillX; split <;> simp
@[simp] theorem Cell.fillX_gs (d : XIdx) (v : Word) (c : Cell) : (c.fillX d v).gs = c.gs := by unfold Cell.fillX; split <;> simp
@[simp] theorem Cell.fillX_sections (d : XIdx) (v : Word) (c : Cell) : (c.fillX d v).sections = c.sections := by unfold Cell.fillX; split <;> simp
@[simp] theorem Cell.fillX_collecting (d : XIdx) (v : Word) (c : Cell) : (c.fillX d v).collecting = c.collecting := by unfold Cell.fillX; split <;> simp
@[simp] theorem Cell.fillX_walks (d : XIdx) (v : Word) (c : Cell) : (c.fillX d v).walks = c.walks := by unfold Cell.fillX; split <;> simp
@[simp] theorem Cell.fillX_arrivals (d : XIdx) (v : Word) (c : Cell) : (c.fillX d v).arrivals = c.arrivals := by unfold Cell.fillX; split <;> simp
@[simp] theorem Cell.fillX_port (d : XIdx) (v : Word) (c : Cell) : (c.fillX d v).port = c.port := by unfold Cell.fillX; split <;> simp
@[simp] theorem Cell.fillX_widePosted (d : XIdx) (v : Word) (c : Cell) : (c.fillX d v).widePosted = c.widePosted := by unfold Cell.fillX; split <;> simp
@[simp] theorem Cell.fillX_failedTo (d : XIdx) (v : Word) (c : Cell) : (c.fillX d v).failedTo = c.failedTo := by unfold Cell.fillX; split <;> simp
@[simp] theorem Cell.fillX_fault (d : XIdx) (v : Word) (c : Cell) : (c.fillX d v).fault = c.fault := by unfold Cell.fillX; split <;> simp
@[simp] theorem Cell.fillX_stopped (d : XIdx) (v : Word) (c : Cell) : (c.fillX d v).stopped = c.stopped := by unfold Cell.fillX; split <;> simp
@[simp] theorem Cell.fillX_board (d : XIdx) (v : Word) (c : Cell) : (c.fillX d v).board = c.board := by unfold Cell.fillX; split <;> simp
@[simp] theorem Cell.fillX_marks (d : XIdx) (v : Word) (c : Cell) : (c.fillX d v).marks = c.marks := by unfold Cell.fillX; split <;> simp
@[simp] theorem Cell.fillV_x (d : VIdx) (l : List W32) (c : Cell) : (c.fillV d l).x = c.x := by unfold Cell.fillV; split <;> simp
@[simp] theorem Cell.fillV_p (d : VIdx) (l : List W32) (c : Cell) : (c.fillV d l).p = c.p := by unfold Cell.fillV; split <;> simp
@[simp] theorem Cell.fillV_tiles (d : VIdx) (l : List W32) (c : Cell) : (c.fillV d l).tiles = c.tiles := by unfold Cell.fillV; split <;> simp
@[simp] theorem Cell.fillV_acc (d : VIdx) (l : List W32) (c : Cell) : (c.fillV d l).acc = c.acc := by unfold Cell.fillV; split <;> simp
@[simp] theorem Cell.fillV_inner (d : VIdx) (l : List W32) (c : Cell) : (c.fillV d l).inner = c.inner := by unfold Cell.fillV; split <;> simp
@[simp] theorem Cell.fillV_poison (d : VIdx) (l : List W32) (c : Cell) : (c.fillV d l).poison = c.poison := by unfold Cell.fillV; split <;> simp
@[simp] theorem Cell.fillV_store (d : VIdx) (l : List W32) (c : Cell) : (c.fillV d l).store = c.store := by unfold Cell.fillV; split <;> simp
@[simp] theorem Cell.fillV_emptyWords (d : VIdx) (l : List W32) (c : Cell) : (c.fillV d l).emptyWords = c.emptyWords := by unfold Cell.fillV; split <;> simp
@[simp] theorem Cell.fillV_istore (d : VIdx) (l : List W32) (c : Cell) : (c.fillV d l).istore = c.istore := by unfold Cell.fillV; split <;> simp
@[simp] theorem Cell.fillV_badStore (d : VIdx) (l : List W32) (c : Cell) : (c.fillV d l).badStore = c.badStore := by unfold Cell.fillV; split <;> simp
@[simp] theorem Cell.fillV_poisonStore (d : VIdx) (l : List W32) (c : Cell) : (c.fillV d l).poisonStore = c.poisonStore := by unfold Cell.fillV; split <;> simp
@[simp] theorem Cell.fillV_badTiles (d : VIdx) (l : List W32) (c : Cell) : (c.fillV d l).badTiles = c.badTiles := by unfold Cell.fillV; split <;> simp
@[simp] theorem Cell.fillV_badCode (d : VIdx) (l : List W32) (c : Cell) : (c.fillV d l).badCode = c.badCode := by unfold Cell.fillV; split <;> simp
@[simp] theorem Cell.fillV_k (d : VIdx) (l : List W32) (c : Cell) : (c.fillV d l).k = c.k := by unfold Cell.fillV; split <;> simp
@[simp] theorem Cell.fillV_draw (d : VIdx) (l : List W32) (c : Cell) : (c.fillV d l).draw = c.draw := by unfold Cell.fillV; split <;> simp
@[simp] theorem Cell.fillV_pc (d : VIdx) (l : List W32) (c : Cell) : (c.fillV d l).pc = c.pc := by unfold Cell.fillV; split <;> simp
@[simp] theorem Cell.fillV_cur (d : VIdx) (l : List W32) (c : Cell) : (c.fillV d l).cur = c.cur := by unfold Cell.fillV; split <;> simp
@[simp] theorem Cell.fillV_ptr (d : VIdx) (l : List W32) (c : Cell) : (c.fillV d l).ptr = c.ptr := by unfold Cell.fillV; split <;> simp
@[simp] theorem Cell.fillV_sb (d : VIdx) (l : List W32) (c : Cell) : (c.fillV d l).sb = c.sb := by unfold Cell.fillV; split <;> simp
@[simp] theorem Cell.fillV_inflight (d : VIdx) (l : List W32) (c : Cell) : (c.fillV d l).inflight = c.inflight := by unfold Cell.fillV; split <;> simp
@[simp] theorem Cell.fillV_nextId (d : VIdx) (l : List W32) (c : Cell) : (c.fillV d l).nextId = c.nextId := by unfold Cell.fillV; split <;> simp
@[simp] theorem Cell.fillV_l1 (d : VIdx) (l : List W32) (c : Cell) : (c.fillV d l).l1 = c.l1 := by unfold Cell.fillV; split <;> simp
@[simp] theorem Cell.fillV_l1Bad (d : VIdx) (l : List W32) (c : Cell) : (c.fillV d l).l1Bad = c.l1Bad := by unfold Cell.fillV; split <;> simp
@[simp] theorem Cell.fillV_win (d : VIdx) (l : List W32) (c : Cell) : (c.fillV d l).win = c.win := by unfold Cell.fillV; split <;> simp
@[simp] theorem Cell.fillV_chan (d : VIdx) (l : List W32) (c : Cell) : (c.fillV d l).chan = c.chan := by unfold Cell.fillV; split <;> simp
@[simp] theorem Cell.fillV_outq (d : VIdx) (l : List W32) (c : Cell) : (c.fillV d l).outq = c.outq := by unfold Cell.fillV; split <;> simp
@[simp] theorem Cell.fillV_slots (d : VIdx) (l : List W32) (c : Cell) : (c.fillV d l).slots = c.slots := by unfold Cell.fillV; split <;> simp
@[simp] theorem Cell.fillV_node (d : VIdx) (l : List W32) (c : Cell) : (c.fillV d l).node = c.node := by unfold Cell.fillV; split <;> simp
@[simp] theorem Cell.fillV_mx (d : VIdx) (l : List W32) (c : Cell) : (c.fillV d l).mx = c.mx := by unfold Cell.fillV; split <;> simp
@[simp] theorem Cell.fillV_cp (d : VIdx) (l : List W32) (c : Cell) : (c.fillV d l).cp = c.cp := by unfold Cell.fillV; split <;> simp
@[simp] theorem Cell.fillV_kv (d : VIdx) (l : List W32) (c : Cell) : (c.fillV d l).kv = c.kv := by unfold Cell.fillV; split <;> simp
@[simp] theorem Cell.fillV_sk (d : VIdx) (l : List W32) (c : Cell) : (c.fillV d l).sk = c.sk := by unfold Cell.fillV; split <;> simp
@[simp] theorem Cell.fillV_ch (d : VIdx) (l : List W32) (c : Cell) : (c.fillV d l).ch = c.ch := by unfold Cell.fillV; split <;> simp
@[simp] theorem Cell.fillV_gs (d : VIdx) (l : List W32) (c : Cell) : (c.fillV d l).gs = c.gs := by unfold Cell.fillV; split <;> simp
@[simp] theorem Cell.fillV_sections (d : VIdx) (l : List W32) (c : Cell) : (c.fillV d l).sections = c.sections := by unfold Cell.fillV; split <;> simp
@[simp] theorem Cell.fillV_collecting (d : VIdx) (l : List W32) (c : Cell) : (c.fillV d l).collecting = c.collecting := by unfold Cell.fillV; split <;> simp
@[simp] theorem Cell.fillV_walks (d : VIdx) (l : List W32) (c : Cell) : (c.fillV d l).walks = c.walks := by unfold Cell.fillV; split <;> simp
@[simp] theorem Cell.fillV_arrivals (d : VIdx) (l : List W32) (c : Cell) : (c.fillV d l).arrivals = c.arrivals := by unfold Cell.fillV; split <;> simp
@[simp] theorem Cell.fillV_port (d : VIdx) (l : List W32) (c : Cell) : (c.fillV d l).port = c.port := by unfold Cell.fillV; split <;> simp
@[simp] theorem Cell.fillV_widePosted (d : VIdx) (l : List W32) (c : Cell) : (c.fillV d l).widePosted = c.widePosted := by unfold Cell.fillV; split <;> simp
@[simp] theorem Cell.fillV_failedTo (d : VIdx) (l : List W32) (c : Cell) : (c.fillV d l).failedTo = c.failedTo := by unfold Cell.fillV; split <;> simp
@[simp] theorem Cell.fillV_fault (d : VIdx) (l : List W32) (c : Cell) : (c.fillV d l).fault = c.fault := by unfold Cell.fillV; split <;> simp
@[simp] theorem Cell.fillV_stopped (d : VIdx) (l : List W32) (c : Cell) : (c.fillV d l).stopped = c.stopped := by unfold Cell.fillV; split <;> simp
@[simp] theorem Cell.fillV_board (d : VIdx) (l : List W32) (c : Cell) : (c.fillV d l).board = c.board := by unfold Cell.fillV; split <;> simp
@[simp] theorem Cell.fillV_marks (d : VIdx) (l : List W32) (c : Cell) : (c.fillV d l).marks = c.marks := by unfold Cell.fillV; split <;> simp

/-! ### Writes of the cell in focus -/

@[simp] theorem setX_agenda (d : XIdx) (v : Word) (s : State) : (setX d v s).agenda = s.agenda := rfl
@[simp] theorem setX_tick (d : XIdx) (v : Word) (s : State) : (setX d v s).tick = s.tick := rfl
@[simp] theorem setX_here (d : XIdx) (v : Word) (s : State) : (setX d v s).here = s.here := rfl
@[simp] theorem setX_others (d : XIdx) (v : Word) (s : State) : (setX d v s).others = s.others := rfl
@[simp] theorem setX_pkg (d : XIdx) (v : Word) (s : State) : (setX d v s).pkg = s.pkg := rfl
@[simp] theorem setX_cell (d : XIdx) (v : Word) (s : State) : (setX d v s).cell = s.cell.fillX d v := rfl
@[simp] theorem setV_agenda (d : VIdx) (l : List W32) (s : State) : (setV d l s).agenda = s.agenda := rfl
@[simp] theorem setV_tick (d : VIdx) (l : List W32) (s : State) : (setV d l s).tick = s.tick := rfl
@[simp] theorem setV_here (d : VIdx) (l : List W32) (s : State) : (setV d l s).here = s.here := rfl
@[simp] theorem setV_others (d : VIdx) (l : List W32) (s : State) : (setV d l s).others = s.others := rfl
@[simp] theorem setV_pkg (d : VIdx) (l : List W32) (s : State) : (setV d l s).pkg = s.pkg := rfl
@[simp] theorem setV_cell (d : VIdx) (l : List W32) (s : State) : (setV d l s).cell = s.cell.fillV d l := rfl
@[simp] theorem setP_agenda (d : PIdx) (b : Bool) (s : State) : (setP d b s).agenda = s.agenda := rfl
@[simp] theorem setP_tick (d : PIdx) (b : Bool) (s : State) : (setP d b s).tick = s.tick := rfl
@[simp] theorem setP_here (d : PIdx) (b : Bool) (s : State) : (setP d b s).here = s.here := rfl
@[simp] theorem setP_others (d : PIdx) (b : Bool) (s : State) : (setP d b s).others = s.others := rfl
@[simp] theorem setP_pkg (d : PIdx) (b : Bool) (s : State) : (setP d b s).pkg = s.pkg := rfl
@[simp] theorem setP_cell (d : PIdx) (b : Bool) (s : State) : (setP d b s).cell = s.cell.putP d b := rfl
@[simp] theorem pendX_agenda (d : XIdx) (s : State) : (pendX d s).agenda = s.agenda := rfl
@[simp] theorem pendX_tick (d : XIdx) (s : State) : (pendX d s).tick = s.tick := rfl
@[simp] theorem pendX_here (d : XIdx) (s : State) : (pendX d s).here = s.here := rfl
@[simp] theorem pendX_others (d : XIdx) (s : State) : (pendX d s).others = s.others := rfl
@[simp] theorem pendX_pkg (d : XIdx) (s : State) : (pendX d s).pkg = s.pkg := rfl
@[simp] theorem pendX_cell (d : XIdx) (s : State) : (pendX d s).cell = s.cell.putX d { s.cell.xreg d with st := .pending } := rfl
@[simp] theorem pendV_agenda (d : VIdx) (s : State) : (pendV d s).agenda = s.agenda := rfl
@[simp] theorem pendV_tick (d : VIdx) (s : State) : (pendV d s).tick = s.tick := rfl
@[simp] theorem pendV_here (d : VIdx) (s : State) : (pendV d s).here = s.here := rfl
@[simp] theorem pendV_others (d : VIdx) (s : State) : (pendV d s).others = s.others := rfl
@[simp] theorem pendV_pkg (d : VIdx) (s : State) : (pendV d s).pkg = s.pkg := rfl
@[simp] theorem pendV_cell (d : VIdx) (s : State) : (pendV d s).cell = s.cell.putV d { s.cell.vreg d with st := .pending } := rfl

/-! ### Reading registers back -/

@[simp] theorem Cell.xreg_zero (c : Cell) : c.xreg 0 = XReg.reset := rfl

theorem Cell.xreg_putX_same {d : XIdx} (h : d ≠ 0) (r : XReg) (c : Cell) : (c.putX d r).xreg d = r := by
  have h' : ¬ d = 0 := h
  unfold Cell.xreg Cell.putX
  rw [if_neg h', if_neg h']
  exact Vector.getElem_set_self _

theorem Cell.xreg_putX_other {d n : XIdx} (h : n ≠ d) (r : XReg) (c : Cell) : (c.putX d r).xreg n = c.xreg n := by
  have hn : ¬ d.toNat = n.toNat := fun e => h (BitVec.eq_of_toNat_eq e.symm)
  unfold Cell.putX
  split
  · rfl
  · simp only [Cell.xreg]
    split
    · rfl
    · exact Vector.getElem_set_ne _ _ hn

@[simp] theorem Cell.vreg_putV_same (d : VIdx) (r : VReg) (c : Cell) : (c.putV d r).vreg d = r := by
  simp [Cell.vreg, Cell.putV]

theorem Cell.vreg_putV_other {d n : VIdx} (h : n ≠ d) (r : VReg) (c : Cell) : (c.putV d r).vreg n = c.vreg n := by
  have hn : ¬ d.toNat = n.toNat := fun e => h (BitVec.eq_of_toNat_eq e.symm)
  exact Vector.getElem_set_ne (by exact d.isLt) (by exact n.isLt) hn

@[simp] theorem Cell.pred_zero (c : Cell) : c.pred 0 = true := rfl

theorem Cell.pred_putP_same {d : PIdx} (h : d ≠ 0) (b : Bool) (c : Cell) : (c.putP d b).pred d = b := by
  have h' : ¬ d = 0 := h
  unfold Cell.pred Cell.putP
  rw [if_neg h', if_neg h']
  exact Vector.getElem_set_self _

theorem Cell.pred_putP_other {d n : PIdx} (h : n ≠ d) (b : Bool) (c : Cell) : (c.putP d b).pred n = c.pred n := by
  have hn : ¬ d.toNat = n.toNat := fun e => h (BitVec.eq_of_toNat_eq e.symm)
  unfold Cell.putP
  split
  · rfl
  · simp only [Cell.pred]
    split
    · rfl
    · exact Vector.getElem_set_ne _ _ hn

/-- A write of an instruction makes the register FULL with the value. -/
theorem Cell.xreg_fillX_same {d : XIdx} (h : d ≠ 0) (v : Word) (c : Cell) : (c.fillX d v).xreg d = ⟨v, .full⟩ := by
  unfold Cell.fillX
  split
  · exact Cell.xreg_putX_same h _ _
  · show ((c.putX d ⟨v, .full⟩).wakeOn (.regX d)).xreg d = _
    refine Eq.trans ?_ (Cell.xreg_putX_same h ⟨v, .full⟩ c)
    simp [Cell.xreg]

theorem Cell.xreg_fillX_other {d n : XIdx} (h : n ≠ d) (v : Word) (c : Cell) : (c.fillX d v).xreg n = c.xreg n := by
  unfold Cell.fillX
  split
  · exact Cell.xreg_putX_other h _ _
  · show ((c.putX d ⟨v, .full⟩).wakeOn (.regX d)).xreg n = _
    rw [← Cell.xreg_putX_other h ⟨v, .full⟩ c]
    simp [Cell.xreg]

/-! ### Cells by number -/

@[simp] theorem State.cellAt_here (s : State) : s.cellAt s.here = s.cell := if_pos rfl
@[simp] theorem State.focus_here (s : State) : s.focus s.here = s := if_pos rfl
@[simp] theorem State.within_here (f : State → State) (s : State) (h : (f s).here = s.here) : s.within s.here f = f s := by
  rw [State.within, State.focus_here, ← h, State.focus_here]

/-! ### Registers in the middle of an instruction -/

/-- A FULL register gives its value at once (R17). -/
theorem readX_full {n : XIdx} {s : State} (k : Word → State) (h : (s.cell.xreg n).st = .full) : readX n s k = k (s.cell.xreg n).val := by
  simp [readX, h]

/-- A PENDING register holds the instruction (R17). -/
theorem readX_pending {n : XIdx} {s : State} (k : Word → State) (h : (s.cell.xreg n).st = .pending) : readX n s k = hold (.expiring (.regX n)) s := by
  simp [readX, h]

theorem readV_full {n : VIdx} {s : State} (k : VReg → State) (h : (s.cell.vreg n).st = .full) : readV n s k = k (s.cell.vreg n) := by
  simp [readV, h]

/-- A destination that is not PENDING is free (R16). -/
theorem freeX_free {d : XIdx} {s : State} (t : State) (h : (s.cell.xreg d).st ≠ .pending) : freeX d s t = t := by simp [freeX, h]

theorem freeV_free {d : VIdx} {s : State} (t : State) (h : (s.cell.vreg d).st ≠ .pending) : freeV d s t = t := by simp [freeV, h]

/-- What the end of a scalar instruction does: the write, and the PC past its word. -/
theorem retireX_free {d : XIdx} {s : State} (v : Word) (h : (s.cell.xreg d).st ≠ .pending) : retireX d v s = advance 4 (setX d v s) := by
  simp [retireX, freeX, h]

/-- A trap is taken where the vector is enabled and no trap is in progress (R24). -/
theorem trap_taken {code detail : Byte} {info : W32} {epc : Pc} {done s : State} (he : s.cell.k.tven = true) (ht : s.cell.k.t = false) :
    trap code detail info epc done s = trapEntry code detail info epc done := by
  simp [trap, he, ht]

end Sys2Proof.Machine
end

