-- ==== Sys2Proof/Laws/Releases.lean ====
section
/-! SUPPORT. What a release or an acquire does before the instruction that asks for it, and what it says of the far tier, said once (R238, R239). -/

namespace Sys2Proof.Machine

variable {s : State} {sys : Bool} {first : List Nat} {k : State → State}

/-- With nothing fixed at a first issue, a release covers the set given. -/
theorem cover_first {c : Cell} (h : c.pend = .none) : c.cover first = first := by
  simp [Cell.cover, h]

/-- A retried release covers what it fixed at its first issue. -/
theorem cover_retried {c : Cell} {l : List Nat} {o : CellId} {n : Nat} (h : c.pend = .fence l o n) : c.cover first = l := by
  simp [Cell.cover, h]

/-- A first release behind an access that it covers holds, and keeps its set, its cell and the number of the next access. -/
theorem afterCovered_waits (h : s.cell.pend = .none) (hf : first.any s.cell.flying = true) :
    afterCovered sys first s k = hold (.expiring .covered) (s.onCell (Cell.setPend (.fence first s.here s.cell.nextId))) := by
  simp [afterCovered, cover_first h, h, hf]

/-- A release with nothing left to wait for goes on; where what follows holds, the set is kept for it. -/
theorem afterCovered_past (h : s.Past first) :
    afterCovered false first s k = if (k s).cell.hold.isSome then k s else (k s).onCell Cell.unfence := by
  have h' : ¬ (s.cell.cover first).any s.cell.flying = true := by rw [h]; exact Bool.false_ne_true
  unfold afterCovered
  simp only [if_neg h']
  rfl

/-- One at system scope does so with the cell's earlier far-tier writes completed (R239). -/
theorem afterCovered_system (h : s.Past first) (hp : s.cell.pend = .none) :
    let u := s.onPkg (Package.cxlDone s.here first s.here s.cell.nextId)
    afterCovered true first s k = if (k u).cell.hold.isSome then k u else (k u).onCell Cell.unfence := by
  have h' : ¬ first.any s.cell.flying = true := by rw [← cover_first (first := first) hp, h]; exact Bool.false_ne_true
  unfold afterCovered
  simp only [cover_first hp, hp, if_neg h']
  rfl

@[simp] theorem cxlDone_mem (here : CellId) (ids : List Nat) (cell : CellId) (n : Nat) (p : Package) : (p.cxlDone here ids cell n).mem = p.mem := rfl

/-- A write of the cell before the release is completed by the device when the release goes on (R239). -/
theorem mem_cxlDone {p : Package} {q i n : Nat} {here cell : CellId} {ids : List Nat} (h : (q, some (cell, i)) ∈ p.cxl) (hi : i < n) :
    (q, none) ∈ (p.cxlDone here ids cell n).cxl :=
  List.mem_map.mpr ⟨_, h, by simp [hi]⟩

@[simp] theorem wrote_cell (a : Access) (q n : Nat) (s : State) : (State.wrote a q n s).cell = s.cell := by
  unfold State.wrote
  split <;> rfl

@[simp] theorem wrote_mem (a : Access) (q n : Nat) (s : State) : (State.wrote a q n s).pkg.mem = s.pkg.mem := by
  unfold State.wrote
  split <;> rfl

/-- A byte of the far tier that an access has written is not known to be completed until a release covers it (R239). -/
theorem mem_wrote {a : Access} {q n i : Nat} {s : State} (hq : farBase ≤ q) (hi : i < n) : (q + i, some (s.here, a.id)) ∈ (State.wrote a q n s).pkg.cxl := by
  unfold State.wrote
  rw [if_neg (by omega)]
  exact List.mem_append_right _ (List.mem_map.mpr ⟨i, List.mem_range.mpr hi, rfl⟩)

/-- Nothing is kept of a release once its instruction is performed. -/
theorem unfence_drops (c : Cell) (l : List Nat) (o : CellId) (n : Nat) : c.unfence.pend ≠ .fence l o n := by
  intro e
  unfold Cell.unfence at e
  split at e
  · cases hc : c.cur <;> simp [Cell.setPend, Cell.pend, Cell.onHnd, hc] at e
  · simp_all

end Sys2Proof.Machine
end

