-- ==== Sys2Proof/Laws/Scalar.lean ====
section
/-! SUPPORT. What each operation that scalar instructions share does, said once. -/

namespace Sys2Proof.Machine

variable {s : State} {a b d : XIdx} {A B : Word}

theorem readX_has (h : s.HasX a A) (k : Word → State) : readX a s k = k A := by
  have h1 : (s.cell.xreg a).st = .full := by rw [h]
  have h2 : (s.cell.xreg a).val = A := by rw [h]
  rw [readX_full k h1, h2]

theorem retireX_wrote (h : s.FreeX d) (v : Word) : retireX d v s = s.wroteX d v := retireX_free v h

/-- A register that holds a value may be written (R15, R16). -/
theorem State.HasX.free (h : s.HasX d A) : s.FreeX d := by
  unfold State.FreeX
  rw [h]
  exact Fe.noConfusion

/-- Two sources and one result (R87). -/
theorem alu_has (ha : s.HasX a A) (hb : s.HasX b B) (hd : s.FreeX d) (f : Word → Word → Word) :
    alu d a b f s = s.wroteX d (f A B) := by
  rw [alu, readX_has ha, readX_has hb, retireX_wrote hd]

/-- One source and one result. -/
theorem alu1_has (ha : s.HasX a A) (hd : s.FreeX d) (f : Word → Word) : alu1 d a f s = s.wroteX d (f A) := by
  rw [alu1, readX_has ha, retireX_wrote hd]

/-- Two sources and a predicate (R93). -/
theorem compare_has {p : PIdx} (ha : s.HasX a A) (hb : s.HasX b B) (f : Word → Word → Bool) :
    compare p a b f s = s.wroteP p (f A B) := by
  rw [compare, readX_has ha, readX_has hb]
  rfl

/-- No flag: the instruction is performed and nothing else happens. -/
@[simp] theorem withFlags_none (done s : State) : withFlags 0#5 done s = done := by
  have h : ∀ f : BitVec 5, (0#5 &&& f) = 0#5 := by decide
  simp [withFlags, State.onCell, Cell.mergeFlags, h]

/-- Flags of which none is enabled merge (R22). -/
theorem withFlags_off {f : BitVec 5} {done : State} (h : f &&& s.cell.k.te = 0) :
    withFlags f done s = done.onCell (Cell.mergeFlags f) := by
  simp [withFlags, h]

/-- An enabled flag traps with ARITH (R23). -/
theorem withFlags_on {f : BitVec 5} {done : State} (h : f &&& s.cell.k.te ≠ 0) :
    withFlags f done s = trap cARITH (0#3 ++ (f &&& s.cell.k.te)) 0 done.cell.pc (done.onCell (Cell.mergeFlags f)) s := by
  have h' : ¬ f &&& s.cell.k.te = 0 := h
  simp only [withFlags]
  rw [if_neg h']
  rfl

/-- A condition whose trap is not taken is a fault (R24). -/
theorem trap_refused {code detail : Byte} {info : W32} {epc : Pc} {done : State} (h : s.cell.k.tven = false ∨ s.cell.k.t = true) :
    trap code detail info epc done s = raise code detail info s := by
  rcases h with h | h <;> simp [trap, h]

theorem divide_zero {w : Bool} (ha : s.HasX a A) (hb : s.HasX b B) (hd : s.FreeX d)
    (hz : (if w then B.setWidth 32 = 0#32 else B = 0)) (f : (n : Nat) → BitVec n → BitVec n → BitVec n) :
    divide d a b w f s = withFlags flDZ (s.wroteX d (inWidth w f A B)) s := by
  rw [divide, readX_has ha, readX_has hb]
  simp only [freeX, if_neg hd]
  cases w <;> simp_all [State.wroteX]

theorem divide_nonzero {w : Bool} (ha : s.HasX a A) (hb : s.HasX b B) (hd : s.FreeX d)
    (hz : ¬ (if w then B.setWidth 32 = 0#32 else B = 0)) (f : (n : Nat) → BitVec n → BitVec n → BitVec n) :
    divide d a b w f s = s.wroteX d (inWidth w f A B) := by
  rw [divide, readX_has ha, readX_has hb]
  simp only [freeX, if_neg hd]
  cases w <;> simp_all [State.wroteX]

end Sys2Proof.Machine
end

