-- ==== Sys2Proof/Tests/Slice0.lean ====
section
/-! SUPPORT. The model's own tests: ill-formed terms that each check refuses, a word of every encoding, small steps with results worked out
from the rules, and, for every statement with hypotheses, a state and operands that meet them. -/

namespace Sys2Proof.Tests

open Sys2Proof Sys2Proof.Machine

set_option Elab.async false

/-! ### States for tests -/

/-- A module that is up, with handler 0 running on the cell in focus. -/
def up : State := State.reset.withFetchWord 32 0

/-- A state with one `x` register full. -/
def withX (n : XIdx) (v : Word) (s : State) : State := s.onCell (Cell.putX n ⟨v, .full⟩)

/-- A state with one `v` register full with lanes. -/
def withV (n : VIdx) (l : List W32) (s : State) : State := s.onCell fun c => c.putV n { (c.vreg n).write l with st := .full }

/-- A state with the k-registers changed. -/
def withK (f : KRegs → KRegs) (s : State) : State := s.onCell fun c => { c with k := f c.k }

/-- A state whose register n is in a state other than full. -/
def withXState (n : XIdx) (st : Fe) (s : State) : State := s.onCell fun c => c.putX n { c.xreg n with st := st }

/-- `x1` = 5, `x2` = −2, `x4` = 0. -/
def regs : State := withX 1 5 (withX 2 0xFFFF_FFFF_FFFF_FFFE up)

/-- A cell with an enabled trap vector at 0x100. -/
def vectored : State := withK (fun k => { k with tven := true, vec := 0x100 }) regs

/-- A cell in its trap handler. -/
def inTrap : State := withK (fun k => { k with t := true, epc := 0x40, cause := 0x19 }) vectored

/-- An answer that is exactly the next state t. -/
def answers (r : Result) (t : State) : Bool := match r with | .next u => u = t | _ => false

/-- An answer that is a next state with a property. -/
def facet (r : Result) (f : State → Bool) : Bool := match r with | .next t => f t | _ => false

/-- Words that decode to an instruction. -/
def decodesTo (ws : List W32) (i : Instr) : Bool := match decode ws with | .ok j => j = i | .error _ => false

/-- Words that decode to nothing. -/
def decodesToNone (ws : List W32) : Bool := match decode ws with | .ok _ => false | .error _ => true

/-! ### Well-formedness: an ill-formed term for each check -/

theorem test_wf_refuses_fields : (Instr.extf 1 1 63 1).wf = false ∧ (Instr.extfs 1 1 32 32).wf = false ∧ (Instr.insf 1 1 0 63).wf = true ∧ (Instr.insf 1 1 1 63).wf = false := by decide +kernel
theorem test_wf_refuses_scopes : (Instr.ldS 1 1 6 0 0 0 0).wf = false ∧ (Instr.stS 1 1 7 0 0 0 0).wf = false ∧ (Instr.amoAdd 1 1 1 false true 6).wf = false ∧
    (Instr.amoCas 1 1 1 false 6).wf = false ∧ (Instr.amoFaddF32 1 1 1 true 7).wf = false ∧ (Instr.fence 0 6).wf = false := by decide +kernel
theorem test_wf_refuses_atomic_destination : (Instr.amoOr 1 1 1 false false 0).wf = false ∧ (Instr.amoOr 0 1 1 false false 0).wf = true ∧ (Instr.amoFmaxF32 3 1 1 false 0).wf = false := by decide +kernel
theorem test_wf_refuses_fence_kind : (Instr.fence 3 0).wf = false ∧ (Instr.sbwait 0).wf = false := by decide +kernel
theorem test_wf_refuses_formats : (Instr.vfadd 1 1 1 7).wf = false ∧ (Instr.vfmul 1 1 1 14).wf = false ∧ (Instr.vcvt 1 1 24 8).wf = false ∧ (Instr.vcvt 1 1 8 0x48).wf = false ∧
    (Instr.vsum 1 1 0x2A).wf = false ∧ (Instr.vbfly 1 1 0 31).wf = false ∧ (Instr.vquant 1 1 1 8).wf = false ∧ (Instr.vnorm 1 1 1 4).wf = false := by decide +kernel
theorem test_wf_refuses_length : (Instr.vlen 1 1 0).wf = false ∧ (Instr.vlen 1 1 9).wf = false ∧ (Instr.vlen 1 1 8).wf = true := by decide +kernel
theorem test_wf_refuses_remote : (Instr.rld 1 1 1 false 6).wf = false ∧ (Instr.rld 1 1 1 true 3).wf = false ∧ (Instr.rst 1 1 1 6).wf = false ∧ (Instr.ramo 31 1 1 false true 0).wf = false ∧
    (Instr.ramo 2 1 1 true true 10).wf = false := by decide +kernel
theorem test_wf_refuses_commands : (Instr.mxZero ⟨0, 0, 1, 0⟩ 0 0 0).wf = false ∧ (Instr.mxZero ⟨0, 3, 8, 0⟩ 0 0 0).wf = false ∧ (Instr.gsArm ⟨9, 0, 0, 0⟩ 1 0 0).wf = false ∧
    (Instr.gsArm ⟨1, 0, 0, 0⟩ 32 0 0).wf = false ∧ (Instr.gsArm ⟨8, 0, 0, 0⟩ 1 1 0).wf = false ∧ (Instr.gsArm ⟨4, 0, 0, 0⟩ 0 0 0x20).wf = false := by decide +kernel

theorem test_wf_refuses_codes : (Instr.trap 0 0 0).wf = false ∧ (Instr.trap 0x1E 0 0).wf = false ∧ (Instr.fault 0x1E).wf = false ∧ (Instr.csrr 1 0x011).wf = false ∧ (Instr.csrw 1 1 0x1FF).wf = false := by decide +kernel

/-! ### Decoding: a word of every encoding, written out from the tables of R56-R71 and the spec's own examples -/

theorem test_decode_alu :
    decodesTo [0x04C42840] (.add 6 4 5 true) = true ∧
    decodesTo [0x04C42841] (.sub 6 4 5 true) = true ∧
    decodesTo [0x04C42802] (.and 6 4 5) = true ∧
    decodesTo [0x04C42803] (.or 6 4 5) = true ∧
    decodesTo [0x04C42804] (.xor 6 4 5) = true ∧
    decodesTo [0x04C42805] (.andn 6 4 5) = true ∧
    decodesTo [0x04C42806] (.orn 6 4 5) = true ∧
    decodesTo [0x04C42847] (.shl 6 4 5 true) = true ∧
    decodesTo [0x04C42848] (.shr 6 4 5 true) = true ∧
    decodesTo [0x04C42849] (.sra 6 4 5 true) = true ∧
    decodesTo [0x04C4284A] (.rotl 6 4 5 true) = true ∧
    decodesTo [0x04C4280B] (.min 6 4 5) = true ∧
    decodesTo [0x04C4280C] (.max 6 4 5) = true ∧
    decodesTo [0x04C4280D] (.minu 6 4 5) = true ∧
    decodesTo [0x04C4280E] (.maxu 6 4 5) = true ∧
    decodesTo [0x04C4284F] (.mul 6 4 5 true) = true ∧
    decodesTo [0x04C42810] (.mulh 6 4 5) = true ∧
    decodesTo [0x04C42811] (.mulhu 6 4 5) = true ∧
    decodesTo [0x04C42852] (.div 6 4 5 true) = true ∧
    decodesTo [0x04C42853] (.divu 6 4 5 true) = true ∧
    decodesTo [0x04C42854] (.rem 6 4 5 true) = true ∧
    decodesTo [0x04C42855] (.remu 6 4 5 true) = true ∧
    decodesTo [0x04C42816] (.slt 6 4 5) = true ∧
    decodesTo [0x04C42817] (.sltu 6 4 5) = true ∧
    decodesTo [0x04C40058] (.clz 6 4 true) = true ∧
    decodesTo [0x04C40059] (.ctz 6 4 true) = true ∧
    decodesTo [0x04C4005A] (.popc 6 4 true) = true ∧
    decodesTo [0x04C4005B] (.bswap 6 4 true) = true ∧
    decodesTo [0x04C4291C] (.sel 6 4 5 2) = true := by
  decide +kernel

theorem test_decode_immediates :
    decodesTo [0x08C40123] (.addi 6 4 291) = true ∧
    decodesTo [0x0CC40123] (.andi 6 4 291) = true ∧
    decodesTo [0x10C40123] (.ori 6 4 291) = true ∧
    decodesTo [0x14C40123] (.xori 6 4 291) = true ∧
    decodesTo [0x18C40003] (.shli 6 4 3) = true ∧
    decodesTo [0x18C40043] (.shri 6 4 3) = true ∧
    decodesTo [0x18C40083] (.srai 6 4 3) = true ∧
    decodesTo [0x1CC40123] (.slti 6 4 291) = true ∧
    decodesTo [0x20C00123] (.lui 6 291) = true ∧
    decodesTo [0x24C10123] (.lhi 6 true 291) = true ∧
    decodesTo [0x28C40143] (.lea 6 4 5 3) = true ∧
    decodesTo [0x28C44B08] (.extf 6 4 11 8) = true ∧
    decodesTo [0x28C48B08] (.extfs 6 4 11 8) = true ∧
    decodesTo [0x28C4CB08] (.insf 6 4 11 8) = true ∧
    decodesTo [0x38C40123] (.sltui 6 4 291) = true := by
  decide +kernel

theorem test_decode_predicates :
    decodesTo [0x2CC42800] (.cmpEq 6 4 5) = true ∧
    decodesTo [0x2CC42801] (.cmpNe 6 4 5) = true ∧
    decodesTo [0x2CC42802] (.cmpLt 6 4 5) = true ∧
    decodesTo [0x2CC42803] (.cmpGe 6 4 5) = true ∧
    decodesTo [0x2CC42804] (.cmpLtu 6 4 5) = true ∧
    decodesTo [0x2CC42805] (.cmpGeu 6 4 5) = true ∧
    decodesTo [0x2CC42806] (.pand 6 4 5) = true ∧
    decodesTo [0x2CC42807] (.por 6 4 5) = true ∧
    decodesTo [0x2CC42808] (.pxor 6 4 5) = true ∧
    decodesTo [0x2CC40009] (.pnot 6 4) = true ∧
    decodesTo [0x2CC4000A] (.pmov 6 4) = true := by
  decide +kernel

theorem test_decode_branches :
    decodesTo [0x401FFFFB] (.b (-5)) = true ∧
    decodesTo [0x445FFFFB] (.bp 2 (-5)) = true ∧
    decodesTo [0x485FFFFB] (.bnp 2 (-5)) = true ∧
    decodesTo [0x4C7FFFFB] (.bz 3 (-5)) = true ∧
    decodesTo [0x507FFFFB] (.bnz 3 (-5)) = true ∧
    decodesTo [0x541FFFFB] (.call (-5)) = true ∧
    decodesTo [0x58040000] (.jr 4) = true ∧
    decodesTo [0x58C40001] (.jalr 6 4) = true ∧
    decodesTo [0x58000002] (.ret) = true ∧
    decodesTo [0x5C7FFFFB] (.loop 3 (-5)) = true := by
  decide +kernel

theorem test_decode_memory :
    decodesTo [0x60C56CC6] (.ld 6 5 3 3 1 2 6) = true ∧
    decodesTo [0x64C56CC6] (.ldu 6 5 3 3 1 2 6) = true ∧
    decodesTo [0x68C56CC6] (.st 6 5 3 3 1 2 6) = true ∧
    decodesTo [0x6CC56CC6] (.ldS 6 5 3 3 1 2 6) = true ∧
    decodesTo [0x70C56CC6] (.stS 6 5 3 3 1 2 6) = true ∧
    decodesTo [0x74C5CCC6] (.ldSync 6 5 3 false 3 1 false 6) = true ∧
    decodesTo [0x78C56CC6] (.stFill 6 5 3 3 1 2 6) = true ∧
    decodesTo [0x7CC54CC6] (.ldP 6 5 2 3 1 2 6) = true ∧
    decodesTo [0x80C56CC6] (.ldV 6 5 3 3 1 4 6) = true ∧
    decodesTo [0x80D56CC6] (.stV 6 5 3 3 1 4 6) = true := by
  decide +kernel

theorem test_decode_atomics :
    decodesTo [0x84C42B60] (.amoAdd 6 4 5 true true 3) = true ∧
    decodesTo [0x84C42B61] (.amoAnd 6 4 5 true true 3) = true ∧
    decodesTo [0x84C42B62] (.amoOr 6 4 5 true true 3) = true ∧
    decodesTo [0x84C42B63] (.amoXor 6 4 5 true true 3) = true ∧
    decodesTo [0x84C42B64] (.amoMin 6 4 5 true true 3) = true ∧
    decodesTo [0x84C42B65] (.amoMax 6 4 5 true true 3) = true ∧
    decodesTo [0x84C42B66] (.amoMinu 6 4 5 true true 3) = true ∧
    decodesTo [0x84C42B67] (.amoMaxu 6 4 5 true true 3) = true ∧
    decodesTo [0x84C42B68] (.amoSwap 6 4 5 true true 3) = true ∧
    decodesTo [0x84C42B69] (.amoCas 6 4 5 true 3) = true ∧
    decodesTo [0x84C4296A] (.amoFaddF32 6 4 5 true 3) = true ∧
    decodesTo [0x84C4296B] (.amoFaddBf16 6 4 5 true 3) = true ∧
    decodesTo [0x84C4296C] (.amoFminF32 6 4 5 true 3) = true ∧
    decodesTo [0x84C4296D] (.amoFmaxF32 6 4 5 true 3) = true := by
  decide +kernel

theorem test_decode_streams_fences :
    decodesTo [0x88C42800] (.sbind 6 4 5) = true ∧
    decodesTo [0x88C40001] (.sjoin 6 4) = true ∧
    decodesTo [0x88040002] (.sleave 4) = true ∧
    decodesTo [0x88042803] (.spub 4 5) = true ∧
    decodesTo [0x88042804] (.srel 4 5) = true ∧
    decodesTo [0x88C40005] (.shead 6 4) = true ∧
    decodesTo [0x88C40006] (.stail 6 4) = true ∧
    decodesTo [0x88040007] (.sclose 4) = true ∧
    decodesTo [0x8C0B0000] (.fence 1 3) = true ∧
    decodesTo [0x8C000001] (.l1Inv) = true ∧
    decodesTo [0x8C121002] (.sbwait 82) = true ∧
    decodesTo [0x8C022803] (.fenceEng 2 5) = true := by
  decide +kernel

theorem test_decode_full_empty :
    decodesTo [0x90040000] (.feSet 4 .x) = true ∧
    decodesTo [0x90040001] (.feClr 4 .x) = true ∧
    decodesTo [0x90C41002] (.feTest 6 4 .word) = true ∧
    decodesTo [0x90240803] (.feMode true 4 true) = true ∧
    decodesTo [0x90041004] (.park 4 .word) = true := by
  decide +kernel

theorem test_decode_lanes :
    decodesTo [0xA0C42840] (.vadd 6 4 5 1) = true ∧
    decodesTo [0xA0C42841] (.vsub 6 4 5 1) = true ∧
    decodesTo [0xA0C42842] (.vmul 6 4 5 1) = true ∧
    decodesTo [0xA0C42843] (.vmin 6 4 5 1) = true ∧
    decodesTo [0xA0C42844] (.vmax 6 4 5 1) = true ∧
    decodesTo [0xA0C40045] (.vabs 6 4 1) = true ∧
    decodesTo [0xA0C40046] (.vneg 6 4 1) = true ∧
    decodesTo [0xA0C42807] (.vand 6 4 5) = true ∧
    decodesTo [0xA0C42808] (.vor 6 4 5) = true ∧
    decodesTo [0xA0C42809] (.vxor 6 4 5) = true ∧
    decodesTo [0xA0C4284A] (.vshl 6 4 5 1) = true ∧
    decodesTo [0xA0C4284B] (.vshr 6 4 5 1) = true ∧
    decodesTo [0xA0C4284C] (.vsra 6 4 5 1) = true ∧
    decodesTo [0xA0C4284D] (.vcmp 6 4 5 1) = true ∧
    decodesTo [0xA0C4284E] (.vsel 6 4 5 1) = true ∧
    decodesTo [0xA4C42C70] (.vfadd 6 4 5 113) = true ∧
    decodesTo [0xA4C42AC1] (.vfsub 6 4 5 11) = true ∧
    decodesTo [0xA4C42C72] (.vfmul 6 4 5 113) = true ∧
    decodesTo [0xA4C42AC3] (.vfma 6 4 5 11) = true ∧
    decodesTo [0xA4C42AC4] (.vfmin 6 4 5 11) = true ∧
    decodesTo [0xA4C42AC5] (.vfmax 6 4 5 11) = true ∧
    decodesTo [0xA4C402C6] (.vfabs 6 4 11) = true ∧
    decodesTo [0xA4C402C7] (.vfneg 6 4 11) = true ∧
    decodesTo [0xA4C42AC8] (.vfcmp 6 4 5 11) = true := by
  decide +kernel

theorem test_decode_conversions :
    decodesTo [0xA8C452C0] (.vcvt 6 4 11 10) = true ∧
    decodesTo [0xA8C452C1] (.vpack 6 4 11 10) = true ∧
    decodesTo [0xA8C452C2] (.vunpack 6 4 11 10) = true ∧
    decodesTo [0xACC40200] (.vrcp 6 4) = true ∧
    decodesTo [0xACC40201] (.vrsq 6 4) = true ∧
    decodesTo [0xACC40202] (.vexp2 6 4) = true ∧
    decodesTo [0xACC40203] (.vlog2 6 4) = true ∧
    decodesTo [0xACC42A04] (.vrcpstep 6 4 5) = true ∧
    decodesTo [0xACC42A05] (.vrsqstep 6 4 5) = true := by
  decide +kernel

theorem test_decode_movement :
    decodesTo [0xB0C40200] (.vsum 6 4 8) = true ∧
    decodesTo [0xB0C40201] (.vmaxr 6 4 8) = true ∧
    decodesTo [0xB0C42802] (.vperm 6 4 5) = true ∧
    decodesTo [0xB0C41A03] (.vbcast 6 4 3 8) = true ∧
    decodesTo [0xB0C41A04] (.vbfly 6 4 3 8) = true ∧
    decodesTo [0xB0C42805] (.vlen 6 4 5) = true ∧
    decodesTo [0xB4C42AC0] (.vbscale 6 4 5 11) = true ∧
    decodesTo [0xB4C42AC1] (.vquant 6 4 5 11) = true ∧
    decodesTo [0xB4C42AC2] (.vdequant 6 4 5 11) = true ∧
    decodesTo [0xB4C42A03] (.vsmerge 6 4 5) = true ∧
    decodesTo [0xB8C41A00] (.vdice 6 4 3 true) = true ∧
    decodesTo [0xBCC42840] (.vcsc 6 4 5) = true ∧
    decodesTo [0xBCC42AC1] (.vnorm 6 4 5 11) = true := by
  decide +kernel

theorem test_decode_channels :
    decodesTo [0xC0C35100] (.recv 6 3 (some 2) 2) = true ∧
    decodesTo [0xC0C30101] (.peek 6 3 none 2) = true ∧
    decodesTo [0xC0641902] (.send 3 4 true true 2) = true ∧
    decodesTo [0xC0641943] (.sendx 3 4 true true 2 true) = true ∧
    decodesTo [0xC0030004] (.drop 3) = true ∧
    decodesTo [0xC0C30005] (.clen 6 3) = true ∧
    decodesTo [0xC4000000] (.hndEnd) = true ∧
    decodesTo [0xC4040001] (.hndMask 4) = true ∧
    decodesTo [0xC4040002] (.hndUnmask 4) = true ∧
    decodesTo [0xC4042803] (.hndPrio 4 5) = true ∧
    decodesTo [0xC4042804] (.hndBind 4 5) = true ∧
    decodesTo [0xC4C00005] (.hndSelf 6) = true ∧
    decodesTo [0xC8640000] (.ctlDone 3 4) = true ∧
    decodesTo [0xC8642801] (.ctlPermit 3 4 5) = true ∧
    decodesTo [0xC8C30002] (.ctlWait 6 3) = true ∧
    decodesTo [0xCC042800] (.argSet 4 5) = true ∧
    decodesTo [0xCCC42801] (.cfgLoad 6 4 5) = true ∧
    decodesTo [0xCCC02802] (.cfgDrain 6 5) = true := by
  decide +kernel

theorem test_decode_remote :
    decodesTo [0xD0C42D00] (.rld 6 4 5 true 2) = true ∧
    decodesTo [0xD0C42901] (.rst 6 4 5 2) = true ∧
    decodesTo [0xD0C42902] (.rstO 6 4 5 2) = true ∧
    decodesTo [0xD0C00003] (.rfence 6) = true ∧
    decodesTo [0xD0C42804] (.mcred 6 4 5) = true ∧
    decodesTo [0xD0C42805] (.grpSet 6 4 5) = true ∧
    decodesTo [0xD4C428C2] (.ramo 6 4 5 true true 2) = true := by
  decide +kernel

theorem test_decode_conversations :
    decodesTo [0xD8C42800] (.cvOpen 6 4 5) = true ∧
    decodesTo [0xD8C42801] (.cvBind 6 4 5) = true ∧
    decodesTo [0xD8C42802] (.cvSend 6 4 5) = true ∧
    decodesTo [0xD8C41903] (.cvRecv 6 4 3 2) = true ∧
    decodesTo [0xD8C40004] (.cvChoose 6 4) = true ∧
    decodesTo [0xD8C41805] (.cvOffer 6 4 3) = true ∧
    decodesTo [0xD8C42806] (.cvDeleg 6 4 5) = true ∧
    decodesTo [0xD8C40007] (.cvClose 6 4) = true ∧
    decodesTo [0xD8C42808] (.cvState 6 4 5) = true ∧
    decodesTo [0xDCC40000] (.tdBar 6 4) = true ∧
    decodesTo [0xDCC00001] (.tdStat 6) = true := by
  decide +kernel

theorem test_decode_system :
    decodesTo [0xE0000000] (.nop) = true ∧
    decodesTo [0xE0192901] (.trap 25 5 2) = true ∧
    decodesTo [0xE0000002] (.eret) = true ∧
    decodesTo [0xE0030003] (.fault 3) = true ∧
    decodesTo [0xE0000004] (.brk) = true ∧
    decodesTo [0xE0C01885] (.csrr 6 35) = true ∧
    decodesTo [0xE0C41886] (.csrw 6 4 35) = true ∧
    decodesTo [0xE0C41887] (.csrs 6 4 35) = true ∧
    decodesTo [0xE0C41888] (.csrc 6 4 35) = true := by
  decide +kernel

theorem test_decode_commands :
    decodesTo [0xFC00092C, 0x12345678, 2, 3] (.mxLd ⟨0, 2, 9, 3⟩ 0x12345678 2 3) = true ∧
    decodesTo [0xFC01092C, 0x12345678, 2, 3] (.mxSt ⟨0, 2, 9, 3⟩ 0x12345678 2 3) = true ∧
    decodesTo [0xFC02092C, 0x12345678, 2, 3] (.mxMma ⟨0, 2, 9, 3⟩ 0x12345678 2 3) = true ∧
    decodesTo [0xFC03092C, 0x12345678, 2, 3] (.mxMv ⟨0, 2, 9, 3⟩ 0x12345678 2 3) = true ∧
    decodesTo [0xFC04092C, 0x12345678, 2, 3] (.mxZero ⟨0, 2, 9, 3⟩ 0x12345678 2 3) = true ∧
    decodesTo [0xFC05092C, 0x12345678, 2, 3] (.mxDrain ⟨0, 2, 9, 3⟩ 0x12345678 2 3) = true ∧
    decodesTo [0xFC06092C, 0x12345678, 2, 3] (.mxSmax ⟨0, 2, 9, 3⟩ 0x12345678 2 3) = true ∧
    decodesTo [0xFC07092C, 0x12345678, 2, 3] (.mxAccld ⟨0, 2, 9, 3⟩ 0x12345678 2 3) = true ∧
    decodesTo [0xFC08092C, 0x12345678, 2, 3] (.mxAccst ⟨0, 2, 9, 3⟩ 0x12345678 2 3) = true ∧
    decodesTo [0xFC09092C, 0x12345678, 2, 3] (.mxLoop ⟨0, 2, 9, 3⟩ 0x12345678 2 3) = true ∧
    decodesTo [0xFC40092C, 0x12345678, 2, 3] (.cpNd ⟨0, 2, 9, 3⟩ 0x12345678 2 3) = true ∧
    decodesTo [0xFC41092C, 0x12345678, 2, 3] (.cpGather ⟨0, 2, 9, 3⟩ 0x12345678 2 3) = true ∧
    decodesTo [0xFC42092C, 0x12345678, 2, 3] (.cpFill ⟨0, 2, 9, 3⟩ 0x12345678 2 3) = true ∧
    decodesTo [0xFC80092C, 0x12345678, 2, 3] (.kvWalk ⟨0, 2, 9, 3⟩ 0x12345678 2 3) = true ∧
    decodesTo [0xFC81092C, 0x12345678, 2, 3] (.kvLdk ⟨0, 2, 9, 3⟩ 0x12345678 2 3) = true ∧
    decodesTo [0xFC82092C, 0x12345678, 2, 3] (.kvLdv ⟨0, 2, 9, 3⟩ 0x12345678 2 3) = true ∧
    decodesTo [0xFC83092C, 0x12345678, 2, 3] (.kvPagein ⟨0, 2, 9, 3⟩ 0x12345678 2 3) = true ∧
    decodesTo [0xFC84092C, 0x12345678, 2, 3] (.kvFree ⟨0, 2, 9, 3⟩ 0x12345678 2 3) = true ∧
    decodesTo [0xFCC0092C, 0x12345678, 2, 3] (.skScore ⟨0, 2, 9, 3⟩ 0x12345678 2 3) = true ∧
    decodesTo [0xFD00092C, 0x12345678, 2, 3] (.chRun ⟨0, 2, 9, 3⟩ 0x12345678 2 3) = true ∧
    decodesTo [0xFD40092C, 0x12345678, 2, 3] (.gsArm ⟨0, 2, 9, 3⟩ 0x12345678 2 3) = true ∧
    decodesTo [0xFD41092C, 0x12345678, 2, 3] (.gsWait ⟨0, 2, 9, 3⟩ 0x12345678 2 3) = true := by
  decide +kernel

/-- The spec's own words (R70, R82-R111). -/
theorem test_decode_examples : decodesTo [0x04C42852] (.div 6 4 5 true) ∧ decodesTo [0x0521119C] (.sel 9 1 2 3) ∧ decodesTo [0x44200002] (.bp 1 2) ∧ decodesTo [0x5CFFFFFB] (.loop 7 (-5)) ∧
    decodesTo [0x90030800] (.feSet 3 .v) ∧ decodesTo [0x90021004] (.park 2 .word) ∧ decodesTo [0x68C32062] (.st 6 3 1 0 0 3 2) ∧ decodesTo [0x75226041] (.ldSync 9 2 1 true 0 0 false 1) ∧
    decodesTo [0x80455031] (.ldV 2 5 2 4 0 3 1) ∧ decodesTo [0x8C0B0000] (.fence 1 3) ∧ decodesTo [0x8C060002] (.sbwait 6) ∧ decodesTo [0x8C033003] (.fenceEng 3 6) ∧
    decodesTo [0x84032220] (.amoAdd 0 3 4 true false 1) ∧ decodesTo [0xC0440882] (.send 2 4 false true 1) ∧ decodesTo [0xD1282982] (.rstO 9 8 5 3) := by decide +kernel

/-- Reserved words and fields decode to nothing (R55, R68, R89, R103). -/
theorem test_reserved_words : decodesToNone [0] ∧ decodesToNone [0xFFFF_FFFF] ∧ decodesToNone [0x04C42C52] ∧ decodesToNone [0x04C4285D] ∧ decodesToNone [0x24420000] ∧ decodesToNone [0xE0000040] ∧
    decodesToNone [0xE0010000] ∧ decodesToNone [0x90001800] ∧ decodesToNone [0xFC000000, 0, 0] := by decide +kernel

/-- Every row's word in the numbering of the opcode table. -/
theorem test_table_word : decodeTableWord 32 0x04C42852 = some (.div 6 4 5 true) ∧ decodeTableWord 32 0xFD000C00 = some (.chRun ⟨0, 3, 0, 0⟩ 0 0 0) ∧ decodeTableWord 32 0 = none := by decide +kernel

/-! ### Scalar instructions -/

theorem witness_ArithmeticAndLogic : regs.HasX 1 5 ∧ regs.HasX 2 0xFFFF_FFFF_FFFF_FFFE ∧ regs.FreeX 3 := by decide +kernel
theorem test_add : answers (exec (.add 3 1 2 false) regs) (regs.wroteX 3 3) ∧ answers (exec (.add 1 2 2 true) (withX 2 0x7FFF_FFFF up)) ((withX 2 0x7FFF_FFFF up).wroteX 1 0xFFFF_FFFF_FFFF_FFFE) := by decide +kernel
theorem test_sub : answers (exec (.sub 3 1 2 false) regs) (regs.wroteX 3 7) ∧ answers (exec (.sub 0 1 2 false) regs) (advance 4 regs) := by decide +kernel
theorem test_mul : answers (exec (.mul 3 1 2 false) regs) (regs.wroteX 3 (-10)) ∧ answers (exec (.mulh 3 1 2) regs) (regs.wroteX 3 (-1)) ∧ answers (exec (.mulhu 3 1 2) regs) (regs.wroteX 3 4) := by decide +kernel
theorem test_logic : answers (exec (.and 3 1 2) regs) (regs.wroteX 3 4) ∧ answers (exec (.or 3 1 2) regs) (regs.wroteX 3 (-1)) ∧ answers (exec (.xor 3 1 2) regs) (regs.wroteX 3 (-5)) ∧
    answers (exec (.andn 3 1 2) regs) (regs.wroteX 3 1) ∧ answers (exec (.orn 3 1 2) regs) (regs.wroteX 3 5) := by decide +kernel
theorem test_min_max : answers (exec (.min 3 1 2) regs) (regs.wroteX 3 (-2)) ∧ answers (exec (.max 3 1 2) regs) (regs.wroteX 3 5) ∧ answers (exec (.minu 3 1 2) regs) (regs.wroteX 3 5) ∧
    answers (exec (.maxu 3 1 2) regs) (regs.wroteX 3 (-2)) ∧ answers (exec (.slt 3 2 1) regs) (regs.wroteX 3 1) ∧ answers (exec (.sltu 3 2 1) regs) (regs.wroteX 3 0) := by decide +kernel
/-- `shr.w x1, x2, x0` with x2 = 0x8000_0000 (R87); shift amounts of 64 and more keep their low bits. -/
theorem test_shifts : answers (exec (.shr 1 2 0 true) (withX 2 0x8000_0000 up)) ((withX 2 0x8000_0000 up).wroteX 1 0xFFFF_FFFF_8000_0000) ∧
    answers (exec (.shl 3 1 2 false) regs) (regs.wroteX 3 0x4000_0000_0000_0000) ∧ answers (exec (.sra 3 2 1 false) regs) (regs.wroteX 3 (-1)) ∧
    answers (exec (.rotl 3 1 2 true) regs) (regs.wroteX 3 0x4000_0001) := by decide +kernel
theorem test_counts : answers (exec (.clz 3 1 false) regs) (regs.wroteX 3 61) ∧ answers (exec (.clz 3 4 true) regs) (regs.wroteX 3 32) ∧ answers (exec (.ctz 3 4 false) regs) (regs.wroteX 3 64) ∧
    answers (exec (.ctz 3 2 true) regs) (regs.wroteX 3 1) ∧ answers (exec (.popc 3 2 false) regs) (regs.wroteX 3 63) := by decide +kernel
theorem test_bswap_sel : answers (exec (.bswap 3 1 true) regs) (regs.wroteX 3 0x0500_0000) ∧ answers (exec (.bswap 3 1 false) regs) (regs.wroteX 3 0x0500_0000_0000_0000) ∧
    answers (exec (.sel 3 1 2 0) regs) (regs.wroteX 3 5) ∧ answers (exec (.sel 3 1 2 1) regs) (regs.wroteX 3 (-2)) := by decide +kernel

/-- Each clause of Division: a divisor other than 0, one whose low word alone is 0, and 0 with DZ disabled, enabled with a vector, and enabled inside a trap handler. -/
theorem witness_Division : (regs.HasX 1 5 ∧ regs.HasX 2 (-2) ∧ regs.FreeX 3 ∧ (-2 : Word) ≠ 0 ∧ (-2 : Word).setWidth 32 ≠ 0#32) ∧
    (let s := withX 5 0x1_0000_0000 regs; s.HasX 5 0x1_0000_0000 ∧ (0x1_0000_0000 : Word) ≠ 0 ∧ (0x1_0000_0000 : Word).setWidth 32 = 0#32) ∧
    (regs.HasX 4 0 ∧ regs.cell.k.te &&& flDZ = 0) ∧
    (let s := withK (fun k => { k with te := flDZ }) vectored; s.HasX 4 0 ∧ s.cell.k.te &&& flDZ ≠ 0 ∧ s.cell.k.tven = true ∧ s.cell.k.t = false) ∧
    (let s := withK (fun k => { k with te := flDZ }) inTrap; s.HasX 4 0 ∧ s.cell.k.te &&& flDZ ≠ 0 ∧ s.cell.k.t = true) := by decide +kernel
/-- −7 by 2 truncates toward zero; the least number by −1 wraps (R88). -/
theorem test_division : answers (exec (.div 3 2 1 false) (withX 2 (-7) (withX 1 2 up))) ((withX 2 (-7) (withX 1 2 up)).wroteX 3 (-3)) ∧
    answers (exec (.rem 3 2 1 false) (withX 2 (-7) (withX 1 2 up))) ((withX 2 (-7) (withX 1 2 up)).wroteX 3 (-1)) ∧
    answers (exec (.div 3 2 1 true) (withX 2 0x8000_0000 (withX 1 (-1) up))) ((withX 2 0x8000_0000 (withX 1 (-1) up)).wroteX 3 0xFFFF_FFFF_8000_0000) ∧
    answers (exec (.rem 3 2 1 true) (withX 2 0x8000_0000 (withX 1 (-1) up))) ((withX 2 0x8000_0000 (withX 1 (-1) up)).wroteX 3 0) := by decide +kernel
theorem test_division_by_zero : facet (exec (.divu 3 1 4 false) regs) (fun t => t.cell.xreg 3 = ⟨-1, .full⟩ ∧ t.cell.k.fflags = flDZ ∧ t.cell.pc = 4) ∧
    facet (exec (.remu 3 2 4 true) (withK (fun k => { k with te := flDZ }) vectored))
      (fun t => t.cell.xreg 3 = ⟨-2, .full⟩ ∧ t.cell.pc = 0x100 ∧ t.cell.k.epc = 4 ∧ t.cell.k.cause = 0x8_000D) := by decide +kernel

theorem witness_ImmediatesAndFields : regs.HasX 1 5 ∧ regs.FreeX 1 ∧ regs.FreeX 3 ∧ regs.HasX 2 (-2) ∧ regs.HasX 3 0 ∧ fieldFits 63 0 = true ∧ fieldFits 0 63 = true := by decide +kernel
theorem test_immediates : answers (exec (.addi 3 1 0xFFFF) regs) (regs.wroteX 3 4) ∧ answers (exec (.andi 3 2 0xFFFF) regs) (regs.wroteX 3 0xFFFE) ∧ answers (exec (.ori 3 1 0x8000) regs) (regs.wroteX 3 0x8005) ∧
    answers (exec (.xori 3 1 1) regs) (regs.wroteX 3 4) ∧ answers (exec (.slti 3 2 0xFFFF) regs) (regs.wroteX 3 1) ∧ answers (exec (.sltui 3 1 0xFFFF) regs) (regs.wroteX 3 1) ∧
    answers (exec (.lui 3 0x8000) regs) (regs.wroteX 3 0xFFFF_FFFF_8000_0000) ∧ answers (exec (.lhi 2 true 0x4000) regs) (regs.wroteX 2 0x4000_FFFF_FFFF_FFFE) := by decide +kernel
theorem test_shift_immediates : answers (exec (.shli 3 1 63) regs) (regs.wroteX 3 0x8000_0000_0000_0000) ∧ answers (exec (.shri 3 2 63) regs) (regs.wroteX 3 1) ∧ answers (exec (.srai 3 2 63) regs) (regs.wroteX 3 (-1)) := by decide +kernel
/-- The example of R92. -/
theorem test_lea : answers (exec (.lea 6 2 5 3) (withX 2 0x4000_0000_0000_0100 (withX 5 3 up))) ((withX 2 0x4000_0000_0000_0100 (withX 5 3 up)).wroteX 6 0x4000_0000_0000_0118) := by decide +kernel
theorem test_fields : answers (exec (.extf 3 2 11 8) regs) (regs.wroteX 3 0xFFF) ∧ answers (exec (.extfs 3 1 2 0) regs) (regs.wroteX 3 (-3)) ∧
    answers (exec (.insf 2 1 3 60) regs) (regs.wroteX 2 0x5FFF_FFFF_FFFF_FFFE) := by decide +kernel

theorem witness_ComparesAndPredicates : regs.HasX 1 5 ∧ regs.HasX 2 (-2) := by decide +kernel
theorem test_compares : facet (exec (.cmpLt 1 2 1) regs) (fun t => t.cell.pred 1) ∧ facet (exec (.cmpLtu 1 2 1) regs) (fun t => !t.cell.pred 1) ∧ facet (exec (.cmpGe 0 2 1) regs) (fun t => t.cell.pred 0) ∧
    facet (exec (.cmpGeu 7 2 1) regs) (fun t => t.cell.pred 7) ∧ facet (exec (.cmpEq 1 4 0) regs) (fun t => t.cell.pred 1) ∧ facet (exec (.cmpNe 1 4 0) regs) (fun t => !t.cell.pred 1) := by decide +kernel
theorem test_predicates : facet (exec (.pand 1 0 2) regs) (fun t => !t.cell.pred 1) ∧ facet (exec (.por 1 0 2) regs) (fun t => t.cell.pred 1) ∧ facet (exec (.pxor 1 0 0) regs) (fun t => !t.cell.pred 1) ∧
    facet (exec (.pnot 1 2) regs) (fun t => t.cell.pred 1) ∧ facet (exec (.pmov 1 0) regs) (fun t => t.cell.pred 1) := by decide +kernel

/-- A target with bits 1:0 zero, one with them non-zero, and the links in `x31` and `x5`. -/
theorem witness_ControlFlow : (regs.FreeX 31 ∧ regs.HasX 4 0 ∧ (0 : Word).toNat % 4 = 0) ∧ (regs.HasX 1 5 ∧ (5 : Word).toNat % 4 ≠ 0) ∧ ((withX 31 0x43 regs).HasX 31 0x43 ∧ (withX 31 0x40 regs).HasX 31 0x40 ∧ regs.FreeX 5) := by
  decide +kernel
theorem test_branches : answers (exec (.b (-1)) regs) (jump 0x3FFC regs) ∧ answers (exec (.bp 0 2) regs) (jump 8 regs) ∧ answers (exec (.bnp 0 2) regs) (advance 4 regs) ∧ answers (exec (.bz 4 2) regs) (jump 8 regs) ∧
    answers (exec (.bnz 1 2) regs) (jump 8 regs) := by decide +kernel
theorem test_loop : facet (exec (.loop 1 4) regs) (fun t => t.cell.pc = 16 ∧ t.cell.xreg 1 = ⟨4, .full⟩) ∧ facet (exec (.loop 4 4) regs) (fun t => t.cell.pc = 4 ∧ t.cell.xreg 4 = ⟨0, .full⟩) ∧
    answers (exec (.loop 0 4) regs) (advance 4 regs) := by decide +kernel
theorem test_jumps : facet (exec (.call 4) regs) (fun t => t.cell.pc = 16 ∧ t.cell.xreg 31 = ⟨4, .full⟩) ∧ facet (exec (.jalr 1 1) (withX 1 0x1_0020 regs)) (fun t => t.cell.pc = 0x20 ∧ t.cell.xreg 1 = ⟨4, .full⟩) ∧
    facet (exec .ret (withX 31 0x40 regs)) (fun t => t.cell.pc = 0x40) ∧ facet (exec (.jalr 2 1) regs) (fun t => t.cell.fault.isSome ∧ t.cell.xreg 2 = ⟨-2, .full⟩) ∧ facet (exec (.jr 4) regs) (fun t => t.cell.pc = 0) := by decide +kernel

/-! ### Full/empty state, traps and k-registers -/

/-- Each clause of RegisterStates: a register that is FULL, EMPTY and PENDING, in both files; a wait from the handler that runs; a source that is held, and a hold that may end. -/
theorem witness_RegisterStates : (regs.cell.xreg 1).st = .full ∧ ((withXState 1 .empty regs).cell.xreg 1).st = .empty ∧ ((withXState 1 .pending regs).cell.xreg 1).st = .pending ∧
    (regs.cell.vreg 1).st = .full ∧ (let s := withXState 1 .empty regs; (s.cell.xreg 1).st ≠ .full ∧ s.cell.k.t = false ∧ s.cell.cur = some 0 ∧ s.cell.waitEntries < 64) ∧
    (let s := withXState 1 .empty regs; (s.cell.xreg 1).st = .empty ∧ s.cell.trapModeX 1 = false) ∧
    (let s := hold (.expiring (.regX 1)) (withXState 1 .pending regs); (s.cell.xreg 1).st = .pending ∧ s.cell.hold = some (.expiring (.regX 1)) ∧ s.cell.cur = some 0 ∧ s.cell.k.t = false ∧ s.cell.waitEntries < 64) := by
  decide +kernel
theorem test_fe_registers : facet (exec (.feClr 1 .x) regs) (fun t => t.cell.xreg 1 = ⟨5, .empty⟩) ∧ facet (exec (.feSet 1 .x) (withXState 1 .empty regs)) (fun t => t.cell.xreg 1 = ⟨5, .full⟩) ∧
    facet (exec (.feTest 1 1 .x) (withXState 1 .pending regs)) (fun t => !t.cell.pred 1 && t.cell.pc = 4) ∧ answers (exec (.feClr 0 .x) regs) (advance 4 regs) := by decide +kernel
theorem test_park_register : facet (exec (.park 1 .x) (withXState 1 .empty regs)) (fun t => t.cell.cur = none ∧ (t.cell.handler 0).st = .parked ∧ (t.cell.handler 0).key = some (.regX 1)) ∧
    facet (exec (.feSet 1 .x) (withXState 1 .empty regs |>.onCell (Cell.parkEntry 1 (.regX 1) false))) (fun t => (t.cell.handler 1).st = .runnable) := by decide +kernel
theorem test_source_held : facet (exec (.add 3 1 2 false) (withXState 1 .pending regs)) (fun t => t.cell.hold = some (.expiring (.regX 1)) ∧ t.cell.pc = 0) ∧
    facet (exec (.holdExpiry 0) (hold (.expiring (.regX 1)) (withXState 1 .pending regs))) (fun t => t.cell.cur = none ∧ (t.cell.handler 0).pc = 0) := by decide +kernel

/-- Each clause of WordStatesAndReaderModes: an address outside the cell store, one off a word, the last word; and an EMPTY register whose mode is trap. -/
theorem witness_WordStatesAndReaderModes : ((withX 1 0x1_0000 up).HasX 1 0x1_0000 ∧ ∀ off, regionOf 0x1_0000 ≠ .cell off) ∧
    ((withX 1 0x4000_0000_0001_FFFE up).HasX 1 0x4000_0000_0001_FFFE ∧ regionOf 0x4000_0000_0001_FFFE = .cell 0x1_FFFE ∧ 0x1_FFFE % 4 ≠ 0) ∧
    (regionOf 0x4000_0000_0001_FFFC = .cell 0x1_FFFC ∧ 0x1_FFFC % 4 = 0 ∧ up.cell.storeBusy = false ∧ up.cell.wordFull 0x1_FFFC = true) ∧
    (let s := withXState 1 .empty (withK (fun k => { k with femode0 := 2 }) vectored); (s.cell.xreg 1).st = .empty ∧ s.cell.trapModeX 1 = true ∧ s.cell.k.tven = true ∧ s.cell.k.t = false) := by
  refine ⟨⟨by decide, ?_⟩, by decide, by decide, by decide⟩
  rw [show regionOf 0x1_0000 = .global by decide]
  exact fun _ h => Region.noConfusion h
theorem test_fe_words : facet (exec (.feClr 1 .word) (withX 1 0x4000_0000_0000_0008 up)) (fun t => !t.cell.wordFull 8 && t.cell.wordFull 4 && t.cell.pc = 4) ∧
    facet (exec (.feTest 1 1 .word) (withX 1 0x4000_0000_0000_0008 up)) (fun t => t.cell.pred 1) ∧ facet (exec (.park 1 .word) (withX 1 0x1_0000 up)) (fun t => t.cell.fault.map FaultRec.code = some cFE_SPACE) ∧
    facet (exec (.feSet 1 .word) (withX 1 0x4000_0000_0000_0009 up)) (fun t => t.cell.fault.map FaultRec.code = some cMISALIGNED) := by decide +kernel
theorem test_fe_mode : facet (exec (.feMode true 1 false) regs) (fun t => t.cell.k.femode0 = 2) ∧ facet (exec (.feMode true 0 false) regs) (fun t => t.cell.k.femode0 = 0) ∧
    facet (exec (.feMode true 31 true) regs) (fun t => t.cell.k.femode1 = 0x8000_0000) := by decide +kernel
/-- FE_TRAP: DETAIL is the register's number (R23). -/
theorem test_fe_trap : facet (exec (.addi 3 1 1) (withXState 1 .empty (withK (fun k => { k with femode0 := 2 }) vectored))) (fun t => t.cell.k.cause = 0x1_0003 ∧ t.cell.k.epc = 0 ∧ t.cell.pc = 0x100 ∧ t.cell.xreg 3 = XReg.reset) := by
  decide +kernel

/-- Each clause of TrapEntryAndReturn: a vector that is enabled, one that is not, a trap handler; a condition that traps only with PRTE, one that never does. -/
theorem witness_TrapEntryAndReturn : (vectored.cell.k.tven = true ∧ vectored.cell.k.t = false) ∧ (regs.cell.k.tven = false ∧ regs.cell.fault = none) ∧ (inTrap.cell.k.t = true ∧ inTrap.cell.fault = none) ∧
    (((withXState 1 .empty inTrap).cell.xreg 1).st ≠ .full ∧ (withXState 1 .empty inTrap).cell.k.t = true) ∧ ((hold (.expiring (.regX 1)) inTrap).cell.hold = some (.expiring (.regX 1))) ∧
    (vectored.cell.pred 1 = false ∧ vectored.cell.pred 0 = true ∧ (0x19#5 ∈ [0x03#5, 0x0D, 0x11, 0x19])) ∧
    ((withK (fun k => { k with prte := true }) vectored).cell.k.prte = true ∧ vectored.cell.k.prte = false ∧ (0x06#5 ∉ [0x03#5, 0x0D, 0x11, 0x19, 0x0B, 0x0C])) ∧ ((0x1D#5 : BitVec 5) ≠ 0) := by decide +kernel
theorem test_trap : facet (exec (.trap 0x19 5 0) vectored) (fun t => t.cell.pc = 0x100 ∧ t.cell.k.epc = 4 ∧ t.cell.k.cause = 0x5_0019 ∧ t.cell.k.t) ∧ answers (exec (.trap 0x19 5 1) vectored) (advance 4 vectored) ∧
    facet (exec (.trap 0x0B 0 0) vectored) (fun t => t.cell.fault.map FaultRec.code = some 0x0B) ∧ facet (exec (.trap 0x0B 0 0) (withK (fun k => { k with prte := true }) vectored)) (fun t => t.cell.k.t) := by decide +kernel
theorem test_brk_eret : facet (exec .brk vectored) (fun t => t.cell.k.cause = 0x19 ∧ t.cell.k.epc = 4) ∧ facet (exec .eret inTrap) (fun t => t.cell.pc = 0x40 ∧ !t.cell.k.t) ∧
    facet (exec .brk inTrap) (fun t => t.cell.fault.map (fun f => (f.code, f.aux0, f.aux1)) = some (cBREAKPOINT, 0x40, 0x19)) ∧ facet (exec .eret regs) (fun t => t.cell.fault.map FaultRec.code = some cILLEGAL) := by decide +kernel
theorem test_fault : facet (exec (.fault 0) inTrap) (fun t => t.cell.fault.map FaultRec.code = some 0x19) ∧ facet (exec (.fault 0) regs) (fun t => t.cell.fault.map FaultRec.code = some 0x01) ∧
    facet (exec (.fault 7) regs) (fun t => t.cell.fault.map FaultRec.code = some 7 ∧ t.cell.stopped) ∧ answers (exec .nop regs) (advance 4 regs) := by decide +kernel

theorem witness_FaultRecords : regs.cell.fault = none ∧ (∃ f, (raise 6 0 0 regs).cell.fault = some f) ∧ inTrap.cell.fault = none ∧ inTrap.cell.k.t = true := ⟨by decide, ⟨_, rfl⟩, by decide, by decide⟩
theorem test_reserved_encoding : facet (exec (.reservedEncoding 0) (jump 0x20 regs)) (fun t => t.cell.fault.map (fun f => (f.code, f.pc, f.word)) = some (1, 0x20, 0) ∧ t.cell.stopped) := by decide +kernel

/-- Each clause of ControlAndStatusRegisters: runtime level, and user level with a change of an RP field and without one. -/
theorem witness_ControlAndStatusRegisters : regs.FreeX 3 ∧ regs.cell.flagsPending = false ∧ regs.HasX 1 5 ∧ (withK (fun k => { k with lvl := true }) regs).runtime = true ∧ regs.runtime = false ∧
    (csrValue 0x006 regs ^^^ 5) &&& csrRpMask 0x006 = 0 ∧ (csrValue 0x00A regs ^^^ 5) &&& csrRpMask 0x00A ≠ 0 := by decide +kernel
theorem test_csr : facet (exec (.csrw 3 1 0x004) regs) (fun t => t.cell.k.fflags = 5 ∧ t.cell.xreg 3 = ⟨0, .full⟩) ∧ facet (exec (.csrs 0 1 0x006) regs) (fun t => t.cell.k.femode0 = 4) ∧
    facet (exec (.csrc 0 1 0x018) regs) (fun t => csrValue 0x018 t = 0x7A) ∧ facet (exec (.csrr 3 0x018) regs) (fun t => t.cell.xreg 3 = ⟨0x7F, .full⟩) := by decide +kernel
/-- RM takes no value of 5 to 7; `KCYC` is written at runtime level alone (R28, R30, R109). -/
theorem test_csr_fields : facet (exec (.csrw 0 1 0x005) regs) (fun t => t.cell.k.rm = 0) ∧ facet (exec (.csrs 3 0 0x00A) regs) (fun t => t.cell.pc = 4) ∧
    facet (exec (.csrw 0 1 0x00A) regs) (fun t => t.cell.fault.map FaultRec.code = some cPRIVILEGED) := by decide +kernel

/-! ### Memory -/

/-- Virtual page 1 of context 0 lies at 0x2_0000 of the near memory, readable and writable; page 2 is not mapped by a leaf that is valid. `x1` = 0x1_0000, `x5` = a cell-store address, `x6` = 0x2_0000. -/
def paged : State :=
  withX 1 0x1_0000 (withX 5 0x4000_0000_0000_0100 (withX 6 0x2_0000 (withX 7 0xF000_0000_0000_0000 (withX 2 0x1122_3344_5566_7788 (up.onPkg fun p =>
    { p with tlb := [⟨0, 1, 0x2_0000, 0x0F⟩], contexts := [(0, ⟨0x8000, 0, 0, 0, 0, 0, false, 0, [], [], 0, [], [], Vector.replicate 16 0⟩)] })))))

/-- A stream 20 of two frames of 2^12 bytes, with HEAD at 0x1000 and the cell's tether at 0, in the cell's window unit; its frames lie in the near memory, and its frame table at virtual 0x1_8000. -/
def streaming : State :=
  (paged.onPkg fun p => ({ p with bound := [⟨0, 20, 0x1_1000, 0x2_1000, [0x1_2000, 0x1_3000], none⟩] } : Package).write 0x2_8000 (bytesOf 8 0x1_2000 ++ bytesOf 8 0x1_3000)).onCell fun c =>
    { c with win := [⟨20, 0x1000, 0, false, some 0, 0x1_8000, 1, 12, 1⟩] }

theorem reaches_global_read (va : Word) (n : Nat) (h : region va n = .global) (ht : translateFor true false 0 va paged.pkg = (.ok (0x2_0000 + (va.toNat - 0x1_0000), 0x0F), paged.pkg)) :
    paged.ReachesGlobal true false va n (.phys (0x2_0000 + (va.toNat - 0x1_0000)) 0x0F) :=
  ⟨h, by decide +kernel, _, _, _, ht, rfl, fun h => Bool.noConfusion h⟩

/-- Each clause of LoadsAndStallsIssue: a load of global memory at the last byte of a page, of the cell's own store, of a stream; an address that is not aligned, one that is nowhere, and one whose walk
meets V = 0. -/
theorem witness_LoadsAndStallsIssue : (paged.HasX 1 0x1_0000 ∧ paged.FreeX 3 ∧ paged.Ready 1 0) ∧ paged.ReachesGlobal true false 0x1_0000 8 (.phys 0x2_0000 0x0F) ∧
    ReachesCell 0x4000_0000_0000_0100 8 (.cell 0x100) ∧ streaming.ReachesRead 0x8014_0000_0000_0FF8 8 (.stream 20 0xFF8) ∧ ((0x1_0001 : Word).toNat % 2 ≠ 0) ∧
    (region 0xF000_0000_0000_0000 1 = .stream 0x7000 0) ∧ (region 0x3000_0000_0000_0000 1 = .none) ∧ (region 0x2_0000 8 = .global ∧ paged.cell.buffers < 32 ∧ translateFor true false 0 0x2_0000 paged.pkg = (.stall 0 0x2_0000, paged.pkg)) := by
  refine ⟨by decide +kernel, reaches_global_read 0x1_0000 8 (by decide +kernel) (by decide +kernel), ⟨0x100, by decide +kernel⟩, ?_, by decide +kernel⟩
  exact ⟨20, 0xFF8, _, 0, .phys 0x2_2FF8, streaming.pkg, by decide +kernel, rfl, by decide +kernel, rfl, rfl, by decide +kernel, by decide +kernel, by decide +kernel, by decide +kernel, by decide +kernel⟩
theorem test_ld : facet (exec (.ld 3 1 0 1 0 3 0) paged) (fun t => t.cell.inflight.map (fun a => (a.op, a.dst, a.loc, a.after)) = [(.load 8 true, .x 3, .phys 0x2_0000 0x0F, [])] ∧ (t.cell.xreg 3).st = .pending ∧
      t.cell.slot 1 = 1 ∧ t.cell.pc = 4) ∧
    facet (exec (.ldu 3 1 0 0 0 1 0) (withX 1 0x1_0001 paged)) (fun t => t.cell.fault.map (fun f => (f.code, f.info)) = some (cMISALIGNED, 0x1_0001)) := by decide +kernel
/-- A load after a store of its class waits for it; one of class 7 does not (R229). -/
theorem test_class_order : facet (exec (.st 2 1 3 0 0 3 0) paged) (fun t => facet (exec (.ld 3 1 3 0 0 3 1) t) (fun u => (u.cell.inflight.map fun a => a.after) = [[], [0]]) ∧
    facet (exec (.ld 3 1 7 0 0 3 1) t) (fun u => (u.cell.inflight.map fun a => a.after) = [[], []])) := by decide +kernel

/-- Each clause of WindowAndPacketLoads: a window that holds the bytes, one that ends within them, none, with and without PRTE; a packet of eight lanes in the cell store, and one off its alignment. -/
theorem witness_WindowAndPacketLoads :
    (let s := withX 8 0 (withX 9 1 (withK (fun k => { k with pwb := k.pwb.set 2 0x1_0000, pws := k.pws.set 2 8 }) paged)); s.HasX 8 0 ∧ s.FreeX 3 ∧ s.Ready 0 0 ∧ (0 : Word).toNat + 8 ≤ 8 ∧ s.HasX 9 1 ∧ 8 < (1 : Word).toNat + 8 ∧
      s.cell.k.prte = false) ∧
    (let s := withX 9 1 (withK (fun k => { k with pwb := k.pwb.set 2 0x1_0000, pws := k.pws.set 2 8, prte := true }) (withX 1 5 vectored)); s.cell.k.prte = true ∧ s.cell.k.tven = true ∧ s.cell.k.t = false) ∧
    (paged.HasX ((5#4).setWidth 5) 0x4000_0000_0000_0100 ∧ paged.FreeV 3 ∧ ReachesCell 0x4000_0000_0000_0100 32 (.cell 0x100) ∧ (0x4000_0000_0000_0100 : Word).toNat % 32 = 0) :=
  ⟨by decide +kernel, by decide +kernel, by decide +kernel, by decide +kernel, ⟨0x100, by decide +kernel⟩, by decide +kernel⟩
theorem test_ld_p : facet (exec (.ldP 3 9 2 0 0 3 0) (withX 9 1 (withK (fun k => { k with pwb := k.pwb.set 2 0x1_0000, pws := k.pws.set 2 8 }) paged))) (fun t => t.cell.fault.map (fun f => (f.code, f.detail, f.info)) = some (cPARAM_BOUND, 2, 1)) ∧
    facet (exec (.ldP 3 0 2 0 0 3 0) (withK (fun k => { k with pwb := k.pwb.set 2 0x1_0000, pws := k.pws.set 2 8 }) paged)) (fun t => t.cell.inflight.map (fun a => (a.va, a.cls)) = [(0x1_0000, 7)]) := by decide +kernel
theorem test_ld_v : facet (exec (.ldV 3 5 0 0 0 3 1) paged) (fun t => t.cell.inflight.map (fun a => (a.op, a.va, a.dst)) = [(.loadV 3 [], 0x4000_0000_0000_0120, .v 3)]) := by decide +kernel

/-- Each clause of StoresIssue: a store to global memory, to the cell store and to a stream's window; `st.fill` off its alignment and outside the cell store; a packet. -/
theorem witness_StoresIssue : (paged.HasX 1 0x1_0000 ∧ paged.HasX 2 0x1122_3344_5566_7788 ∧ paged.Ready 0 0 ∧ paged.HasX 5 0x4000_0000_0000_0100 ∧ paged.HasV 3 (paged.cell.vreg 3)) ∧
    paged.ReachesGlobal false true 0x1_0000 8 (.phys 0x2_0000 0x0F) ∧ ReachesCell 0x4000_0000_0000_0100 8 (.cell 0x100) ∧ streaming.ReachesWrite 0x8014_0000_0000_1FF8 8 (.stream 20 0x1FF8) ∧
    (regionOf 0x4000_0000_0000_0101 = .cell 0x101 ∧ (0x4000_0000_0000_0101 : Word).toNat % 2 ≠ 0) ∧ regionOf 0x1_0000 = .global := by
  refine ⟨by decide +kernel, ⟨by decide +kernel, by decide +kernel, 0x2_0000, 0x0F, paged.pkg, by decide +kernel, rfl, fun _ => by decide +kernel⟩, ⟨0x100, by decide +kernel⟩, ?_, by decide +kernel, by decide +kernel⟩
  exact ⟨20, 0x1FF8, _, .phys 0x2_3FF8, streaming.pkg, by decide +kernel, rfl, by decide +kernel, rfl, by decide +kernel, by decide +kernel, by decide +kernel, by decide +kernel, by decide +kernel, by decide +kernel⟩
theorem test_st : facet (exec (.st 2 1 0 0 0 1 3) paged) (fun t => t.cell.inflight.map (fun a => (a.op, a.loc)) = [(.store [0x88, 0x77] false, .phys 0x2_0006 0x0F)] ∧ t.pkg.mem = paged.pkg.mem) ∧
    facet (exec (.stFill 2 1 0 0 0 2 0) paged) (fun t => t.cell.fault.map FaultRec.code = some cFE_SPACE) ∧
    facet (exec (.stV 3 5 0 0 0 1 0) (withV 3 [7, 8] paged)) (fun t => t.cell.inflight.map (fun a => (a.op, a.loc)) = [(.storeV 1 [(0, 7)], .cell 0x100)]) := by decide +kernel

/-- Each clause of SyncLoad: both words full, the first empty, the second empty; the last double word of the cell store. -/
theorem witness_SyncLoad : (paged.HasX 5 0x4000_0000_0000_0100 ∧ paged.Ready 0 0 ∧ paged.FreeX 3 ∧ paged.HasX 1 0x1_0000) ∧ (regionOf 0x4000_0000_0001_FFF8 = .cell 0x1_FFF8 ∧ 0x1_FFF8 % 8 = 0) ∧
    (paged.cell.classBefore (0#1 ++ 0#2) true ++ paged.cell.syncBefore = [] ∧ paged.cell.wordFull 0x100 = true ∧ paged.cell.wordFull (0x100 + 8 - 4) = true ∧ paged.cell.damagedAt 0x100 8 = false) ∧
    (let s := paged.onCell (Cell.emptyWord 0x100); s.cell.wordFull 0x100 = false) ∧
    (let s := paged.onCell (Cell.emptyWord 0x104); s.cell.wordFull 0x100 = true ∧ s.cell.wordFull (0x100 + 8 - 4) = false) ∧ (regionOf 0x4000_0000_0000_0104 = .cell 0x104 ∧ 0x104 % 8 ≠ 0) := by decide +kernel
theorem test_ld_sync : facet (exec (.ldSync 3 5 0 true 0 0 true 0) (paged.onCell (Cell.storeAt 0x100 [1, 2, 3, 4, 5, 6, 7, 0x88]))) (fun t => t.cell.inflight.map (fun a => (a.op, a.dst)) = [(.value 0x8807_0605_0403_0201 0, .x 3)] ∧
      !t.cell.wordFull 0x100 ∧ !t.cell.wordFull 0x104) ∧
    facet (exec (.ldSync 3 5 0 true 0 0 true 0) (paged.onCell (Cell.emptyWord 0x104))) (fun t => (t.cell.handler 0).key = some (.word 0x104)) := by decide +kernel

/-- A cell with one access in flight that waits for nothing. -/
def flying (op : AccOp) (dst : Dst) (loc : Loc) : State :=
  paged.onCell fun c => { c with inflight := [⟨3, 0, 0x10, 0, op, dst, 0x1_0000, loc, 0, 0, [], false, false, true, false⟩], nextId := 4 }

theorem witness_LoadsLand : ((flying (.load 4 true) (.x 3) (.cell 0x1_FFFC)).due 0).isSome = true ∧ (flying (.load 4 true) (.x 3) (.cell 0x1_FFFC)).cell.damagedAt 0x1_FFFC 4 = false ∧
    ((flying (.load 8 true) (.x 3) (.phys 0x2_0000 0x0F)).due 0).isSome = true ∧ paged.pkg.damaged (physKey 0x0F 0x2_0000) 8 = false ∧ ((flying (.loadV 8 []) (.v 3) (.cell 0)).due 0).isSome = true ∧
    paged.cell.damagedAt 0 32 = false ∧ ((flying (.value 7 1) (.x 3) .none).due 0).isSome = true ∧
    (let s := (flying (.load 4 true) (.x 3) (.cell 8)).onCell fun c => { c with badStore := [(1, true)] }; (s.due 0).isSome = true ∧ s.cell.damagedAt 8 4 = true ∧ s.cell.fault = none) := by decide +kernel
theorem test_value_landing : facet (exec (.valueLanding 0 0) ((flying (.load 2 true) (.x 3) (.phys 0x2_0000 0x0F)).onPkg (Package.write 0x2_0000 [0x34, 0x92]))) (fun t => t.cell.xreg 3 = ⟨0xFFFF_FFFF_FFFF_9234, .full⟩ ∧ t.cell.inflight = []) ∧
    facet (exec (.valueLanding 0 0) ((flying (.load 4 true) (.x 3) (.cell 8)).onCell fun c => { c with badStore := [(1, true)] })) (fun t => t.cell.fault.map (fun f => (f.code, f.pc, f.info)) = some (cUNCORRECTABLE, 0x10, 0x1_0000)) := by
  decide +kernel

theorem witness_StoresPerformed : ((flying (.store [1, 2] false) .none (.phys 0x2_FFFE 0x0F)).due 0).isSome = true ∧ paged.pkg.inRecord (physKey 0x0F 0x2_FFFE) 2 = false ∧
    ((flying (.store [1, 2] true) .none (.cell 0x1_FFFE)).due 0).isSome = true := by decide +kernel
theorem test_access_performed : facet (exec (.accessPerformed 0 0) (flying (.store [1, 2] false) .none (.phys 0x2_FFFE 0x0F))) (fun t => t.pkg.read 0x2_FFFD 4 = [0, 1, 2, 0] ∧ t.cell.inflight = []) ∧
    facet (exec (.accessPerformed 0 0) ((flying (.store [1, 2] true) .none (.cell 0x102)).onCell (Cell.emptyWord 0x100))) (fun t => t.cell.load 0x101 4 = [0, 1, 2, 0] ∧ t.cell.wordFull 0x100) := by decide +kernel

/-- Each clause of AtomicsIssueAndPerform: an aligned address, one that is not, one outside global space; and an atomic that is due, of 4 and of 8 bytes. -/
theorem witness_AtomicsIssueAndPerform : (paged.HasX 1 0x1_0000 ∧ paged.HasX 2 0x1122_3344_5566_7788 ∧ paged.HasX 3 0 ∧ paged.cell.acquiring = false) ∧ paged.ReachesGlobal true true 0x1_0000 8 (.phys 0x2_0000 0x0F) ∧
    (paged.HasX 5 0x4000_0000_0000_0100 ∧ region 0x4000_0000_0000_0100 4 ≠ .global ∧ (0x1_0002 : Word).toNat % 4 ≠ 0) ∧
    (((flying (.amo .add 4 1 0 true 0 false) (.x 3) (.phys 0x2_0000 0x0F)).due 0).isSome = true ∧ ((flying (.amo .cas 8 1 0 false 0 false) .none (.phys 0x2_0000 0x0F)).due 0).isSome = true ∧
      paged.pkg.inRecord (physKey 0x0F 0x2_0000) 8 = false ∧ paged.pkg.damaged (physKey 0x0F 0x2_0000) 8 = false) :=
  ⟨by decide +kernel, ⟨by decide +kernel, by decide +kernel, 0x2_0000, 0x0F, paged.pkg, by decide +kernel, rfl, fun _ => by decide +kernel⟩, by decide +kernel, by decide +kernel⟩
theorem test_amo : facet (exec (.valueLanding 0 0) ((flying (.amo .max 4 0xFFFF_FFFF 0 true 0 false) (.x 3) (.phys 0x2_0000 0x0F)).onPkg (Package.write 0x2_0000 [0xFE, 0xFF, 0xFF, 0xFF, 9])))
      (fun t => t.pkg.read 0x2_0000 5 = [0xFF, 0xFF, 0xFF, 0xFF, 9] ∧ t.cell.xreg 3 = ⟨-2, .full⟩) ∧
    facet (exec (.accessPerformed 0 0) ((flying (.amo .cas 4 7 5 false 0 false) .none (.phys 0x2_0000 0x0F)).onPkg (Package.write 0x2_0000 [5]))) (fun t => t.pkg.read 0x2_0000 4 = [7, 0, 0, 0]) := by decide +kernel
/-- 1.0 + 2.0 in place (R245). -/
theorem test_amo_fadd : facet (exec (.accessPerformed 0 0) ((flying (.amo .faddF32 4 0x4000_0000 0 false 0 false) .none (.phys 0x2_0000 0x0F)).onPkg (Package.write 0x2_0000 [0, 0, 0x80, 0x3F]))) (fun t => t.pkg.read 0x2_0000 4 = [0, 0, 0x40, 0x40]) := by
  decide +kernel

/-- Each clause of FencesWaitsAndMemoryFlags: nothing to wait for, a store still in flight, a slot that is 0 and one that is not, a counter that has reached its target and one that has not. -/
theorem witness_FencesWaitsAndMemoryFlags : (paged.cell.pend = .none ∧ paged.cell.acquiring = false ∧ paged.cell.fenceSet 0 = [] ∧ paged.cell.cur = some 0) ∧
    (let s := flying (.store [1] false) .none (.phys 0x2_0000 0x0F); s.cell.fenceSet 2 = [3] ∧ s.cell.flying 3 = true ∧ s.cell.pend = .none ∧ s.cell.acquiring = false ∧ s.cell.cur = some 0) ∧
    (paged.cell.slot 1 = 0 ∧ (let s := paged.onCell fun c => { c with sb := c.sb.set 7 1 }; s.cell.slot 7 ≠ 0)) ∧ (paged.HasX 0 0 ∧ (paged.cell.k.ecnt[3] - (0 : W32)).toNat < 2 ^ 31 ∧ (paged.cell.k.ecnt[3] - (1 : W32)).toNat ≥ 2 ^ 31) ∧
    (let s := paged.onPkg fun p => { p with flagWrites := [⟨0, 0, 3, false⟩], contexts := p.contexts.map fun e => (e.1, { e.2 with mflags := 0x1_0000 }) };
      (s.pkg.flagWrites[0]?).isSome = true ∧ regionOf 0x1_0000 = .global ∧ translateFor true true 0 0x1_0000 s.pkg = (.ok (0x2_0000, 0x0F), s.pkg)) := by decide +kernel
theorem test_fence : facet (exec (.fence 0 2) paged) (fun t => t.cell.pc = 4) ∧ facet (exec (.fence 1 2) (flying (.store [1] false) .none (.phys 0x2_0000 0x0F))) (fun t => t.cell.hold = some (.expiring .covered) ∧ t.cell.pc = 0) := by decide +kernel
theorem test_sbwait : facet (exec (.sbwait 0x41) (paged.onCell fun c => { c with sb := c.sb.set 7 1 })) (fun t => t.cell.hold = some (.expiring (.slot 7))) ∧ facet (exec (.fenceEng 3 0) paged) (fun t => t.cell.pc = 4) ∧
    facet (exec .l1Inv paged) (fun t => t.cell.l1 = [] ∧ t.cell.pc = 4) := by decide +kernel
theorem test_memory_flags : facet (exec (.memoryFlagsWrite 0) (paged.onPkg fun p => { p with flagWrites := [⟨0, 0, 3, false⟩], contexts := p.contexts.map fun e => (e.1, { e.2 with mflags := 0x1_0000 }) }))
    (fun t => t.pkg.read 0x2_0000 2 = [3, 0] ∧ t.pkg.flagWrites = []) := by decide +kernel

/-! ### Streams -/

/-- The record of stream 20: HEAD 0x1000, capacity 2^13, and whoever holds slot 0 with its tether at 0. -/
def record (owner : CellId) (f : StreamRec → StreamRec := id) : StreamRec :=
  f { head := 0x1000, tail := 0, slots := ⟨true, owner, 0⟩ :: List.replicate 7 ⟨false, 0, 0⟩, ftab := 0x1_8000, err := 0, closed := false, hread := false, hprod := false, back := 1, k := 12, logn := 1 }

/-- Stream 20 with a record in memory, and an operation of the cell on it in flight. -/
def atHome (r : StreamRec) (op : StreamOp) (dst : Dst) : State :=
  (streaming.onPkg (Package.write 0x2_1000 (recordBytes r))).onCell fun c =>
    { c with inflight := [⟨3, 0, 0x10, 0, .stream 20 op, dst, 0, .none, 0, 0, [], false, false, true, false⟩], nextId := 4 }

/-- Each clause of StreamInstructionsIssue: a stream whose record the window unit holds, stream 0, a number above the last, and the two levels. -/
theorem witness_StreamInstructionsIssue : (let s := withX 8 20 (withX 9 0x1_0000 streaming);
      s.HasX 8 20 ∧ s.HasX 9 0x1_0000 ∧ (20 : Word).toNat = (20#15).toNat ∧ s.FreeX 3 ∧ s.cell.acquiring = false ∧ s.cell.streamPending 20 = false ∧ s.cell.buffers < 32 ∧
      (s.cell.win.find? fun w : WinRec => w.num == 20).isSome = true ∧ (20#15 : BitVec 15) ≠ 0 ∧ 16 < (20#15).toNat ∧ s.runtime = false) ∧
    (let s := streaming.onCell fun c => { c with win := c.win.map fun w : WinRec => { w with num := 0 } }; s.HasX 0 0 ∧ (s.cell.win.find? fun w : WinRec => w.num == 0).isSome = true) ∧ (2 ^ 15 ≤ (0x8000 : Word).toNat) := by
  decide +kernel
theorem test_stream_issue : facet (exec (.spub 8 9) (withX 8 20 (withX 9 0x1_1234 streaming))) (fun t => t.cell.inflight.map (fun a => (a.op, a.dst)) = [(.stream 20 (.publish 0x1_1234), .none)]) ∧
    facet (exec (.shead 3 8) (withX 8 20 streaming)) (fun t => t.cell.inflight.map (fun a => (a.op, a.dst)) = [(.stream 20 .head, .x 3)] ∧ (t.cell.xreg 3).st = .pending) ∧
    facet (exec (.srel 8 9) (withX 8 0x8000 streaming)) (fun t => t.cell.fault.map (fun f => (f.code, f.info)) = some (cACCESS, 0x8000)) ∧
    facet (exec (.sbind 3 8 9) (withX 8 16 streaming)) (fun t => t.cell.fault.map FaultRec.code = some cPRIVILEGED) := by decide +kernel

/-- Each clause of StreamRecordOperations: a slot of the cell's own, the first free one, none free; a release behind the tether, past HEAD and between; a publish of the host's stream, of a closed one, not past
HEAD, past the window, and within it. -/
theorem witness_StreamRecordOperations :
    (((atHome (record 0) .join (.x 3)).due 0).isSome = true ∧ ((atHome (record 0) .join (.x 3)).pkg.boundOf 0 20).isSome = true ∧ (atHome (record 0) .join (.x 3)).here ≠ 0x3FFF) ∧
    ((record 0).slotFor 0 = some 0 ∧ (record 0).tetherOf 0 = some 0) ∧ ((record 5).slotFor 0 = none ∧ (record 5).taken.getD 1 none = none ∧ (record 5).taken.getD 0 none ≠ none) ∧
    (let r := record 5 fun r => { r with slots := List.replicate 8 ⟨true, 5, 0⟩ }; r.slotFor 0 = none ∧ ∀ j < 8, r.taken.getD j none ≠ none) ∧
    (let r := record 5 fun r => { r with slots := List.replicate 7 ⟨true, 5, 0⟩ ++ [⟨false, 0, 0⟩], hread := true }; r.slotFor 0 = none ∧ ∀ j < 7, r.taken.getD j none ≠ none) ∧
    (before (-1) 0 = true ∧ before 0x1001 0 = false ∧ before 0x1000 0x1001 = true ∧ before 0x1000 0 = false ∧ before 0x1000 0x1000 = false) ∧
    ((record 0 fun r => { r with hprod := true }).hprod = true ∧ (record 0 fun r => { r with closed := true }).closed = true ∧ before (record 0).head 0x2000 = true ∧ before ((record 0).tail + (record 0).cap) 0x2000 = false ∧
      before ((record 0).tail + (record 0).cap) 0x2001 = true) ∧ ((record 0).slots.length = 8 ∧ (record 0).k < 32 ∧ (record 0).logn < 16) := by decide +kernel
theorem test_join : facet (exec (.join 0 0) (atHome (record 5) .join (.x 3))) (fun t => t.cell.xreg 3 = ⟨1, .full⟩ ∧ (t.pkg.record 0x2_1000).slots.getD 1 ⟨false, 0, 0⟩ = ⟨true, 0, 0⟩) ∧
    facet (exec (.join 0 0) (atHome (record 5 fun r => { r with slots := List.replicate 8 ⟨true, 5, 0⟩ }) .join (.x 3))) (fun t => t.cell.xreg 3 = ⟨-1, .full⟩) ∧
    facet (exec (.leave 0 0) (atHome (record 0) .leave .none)) (fun t => t.pkg.record 0x2_1000 = record 0 fun r => { r with slots := List.replicate 8 ⟨false, 0, 0⟩, tail := 0x1000 }) := by decide +kernel
theorem test_release : facet (exec (.release 0 0) (atHome (record 0) (.release 0x800) .none)) (fun t => (t.pkg.record 0x2_1000).tail = 0x800 ∧ t.cell.inflight = []) ∧
    facet (exec (.release 0 0) (atHome (record 0) (.release (-1)) .none)) (fun t => t.cell.fault.map FaultRec.code = some cSTREAM_BEHIND ∧ (t.pkg.record 0x2_1000).err = cSTREAM_BEHIND) := by decide +kernel
theorem test_publish : facet (exec (.publish 0 0) (atHome (record 0) (.publish 0x2000) .none)) (fun t => (t.pkg.record 0x2_1000).head = 0x2000 ∧ t.cell.win.map WinRec.head = [0x2000]) ∧
    facet (exec (.publish 0 0) (atHome (record 0) (.publish 0x2001) .none)) (fun t => t.cell.fault.map FaultRec.code = some cACCESS ∧ (t.pkg.record 0x2_1000).head = 0x1000) ∧
    facet (exec (.close 0 0) (atHome (record 0) .close .none)) (fun t => (t.pkg.record 0x2_1000).closed) := by decide +kernel
theorem test_head_tail : facet (exec (.valueLanding 0 0) (atHome (record 0 fun r => { r with closed := true }) .head (.x 3))) (fun t => t.cell.xreg 3 = ⟨0x8000_0000_0000_1000, .full⟩) := by decide +kernel

/-- Each clause of StreamBindingAndWindows: a record that binds, one that is refused, a number that is unbound, one with a reader and one without; a fetch that waits; a record that overflows. -/
theorem witness_StreamBindingAndWindows :
    (let s := (atHome (record 0 fun r => { r with slots := List.replicate 8 ⟨false, 0, 0⟩, head := 0, k := 12 }) (.bind 0x1_1000) (.x 3)).onPkg fun p => { p with bound := [] };
      (s.due 0).isSome = true ∧ (match (bindStatus 0 20 0x1_1000 s.pkg).1 with | .ok (c, b) => c == 0 && b.isSome | _ => false) = true ∧ s.pkg.boundOf 0 20 = none ∧ (bindStatus 0 20 0x1_1001 s.pkg).1 = .ok (0x05, none)) ∧
    ((atHome (record 0) (.bind 0) (.x 3)).pkg.boundOf 0 20 ≠ none ∧ ((atHome (record 0) (.bind 0) (.x 3)).pkg.record 0x2_1000).taken.any Option.isSome = true) ∧
    ((atHome (record 0 fun r => { r with slots := List.replicate 8 ⟨false, 0, 0⟩ }) (.bind 0) (.x 3)).pkg.record 0x2_1000).taken.any Option.isSome = false ∧ (0x1_1001 : Word).toNat % 128 ≠ 0 ∧
    (let s := (atHome (record 0) (.bind 0) (.x 3)).onCell fun c => { c with hold := some (.fetching 20 7), win := [] }; s.cell.hold = some (.fetching 20 7) ∧ s.cell.win.length < 8 ∧ (s.pkg.boundOf 0 20).isSome = true ∧ s.pkg.boundOf 0 21 = none) ∧
    (let s := paged.onPkg fun p => { p with contexts := p.contexts.map fun e => (e.1, { e.2 with overflow := [[1, 2]] }) }; (aget s.pkg.contexts 0).map Context.overflow = some [[1, 2]]) := by decide +kernel
theorem test_stream_bind : facet (exec (.streamBind 0 0) ((atHome (record 0 fun r => { r with slots := List.replicate 8 ⟨false, 0, 0⟩, head := 0 }) (.bind 0x1_1000) (.x 3)).onPkg fun p => { p with bound := [] }))
      (fun t => t.cell.xreg 3 = ⟨0, .full⟩ ∧ t.pkg.bound.map (fun b => (b.num, b.pa)) = [(20, 0x2_1000)]) ∧
    facet (exec (.streamBind 0 0) (atHome (record 0) (.bind 0) (.x 3))) (fun t => t.cell.xreg 3 = ⟨6, .full⟩ ∧ t.pkg.bound.length = 1) := by decide +kernel
theorem test_record_fetch : facet (exec (.recordFetch 0 20) ((atHome (record 0) (.bind 0) (.x 3)).onCell fun c => { c with hold := some (.fetching 20 7), win := [] })) (fun t => t.cell.win.map (fun w => (w.num, w.head, w.slot)) = [(20, 0x1000, some 0)] ∧ t.cell.hold = none) := by
  decide +kernel

/-- Each clause of HostAperture: a slot with no stream, one attached to a stream that the host may publish, and one whose tether is in slot 7. -/
theorem witness_HostAperture : slotDown 3 streaming = false ∧ aget streaming.pkg.apertures 3 = none ∧
    (let r := record 5 fun r => { r with hread := true }; r.slotFor hostOwner = none ∧ r.taken.getD 7 none = none ∧ r.hread = true) ∧
    (let r := record 5 fun r => { r with hread := true, hprod := true, slots := List.replicate 7 ⟨false, 0, 0⟩ ++ [⟨true, hostOwner, 0⟩] };
      let s := (atHome r .head (.x 3)).onPkg fun p => { p with apertures := [(3, ⟨true, 0, 20, 0⟩)] };
      (apertureStream 3 s.pkg).isSome = true ∧ r.slotFor hostOwner = some 7 ∧ r.tetherOf hostOwner = some 0 ∧ before 0x800 0 = false ∧ before r.head 0x800 = false ∧ before r.head 0x1800 = true ∧ before (r.tail + r.cap) 0x1800 = false) := by
  decide +kernel
theorem test_aperture : facet (exec (.apertureBind .pf 3 0x8000_0000_0000_0014) (atHome (record 5 fun r => { r with hread := true }) .head (.x 3))) (fun t => (t.pkg.record 0x2_1000).slots.getD 7 ⟨false, 0, 0⟩ = ⟨true, hostOwner, 0⟩) ∧
    (let r := record 5 fun r => { r with hread := true, hprod := true, slots := List.replicate 7 ⟨false, 0, 0⟩ ++ [⟨true, hostOwner, 0⟩] };
      let s := (atHome r .head (.x 3)).onPkg fun p => { p with apertures := [(3, ⟨true, 0, 20, 0⟩)] };
      facet (exec (.apertureHead .pf 3 0x1800) s) (fun t => (t.pkg.record 0x2_1000).head = 0x1800) ∧ facet (exec (.apertureTether .pf 3 0x800) s) (fun t => (t.pkg.record 0x2_1000).tail = 0x800)) := by decide +kernel
theorem test_aperture_data : (let r := record 5 fun r => { r with hread := true, hprod := true, slots := List.replicate 7 ⟨false, 0, 0⟩ ++ [⟨true, hostOwner, 0⟩] };
      let s := (atHome r .head (.x 3)).onPkg fun p => { p with apertures := [(3, ⟨true, 0, 20, 0⟩)] };
      facet (exec (.apertureDataWrite .pf 3 0x2004 [1, 2, 3, 4]) s) (fun t => t.pkg.read 0x2_3004 4 = [1, 2, 3, 4]) ∧
      facet (exec (.apertureDataRead .pf 3 0x2FFC 8) s) (fun t => t.pkg.outbox.contains .hostAbort) ∧
      facet (exec (.apertureDataRead .pf 3 0x1FF8 8) (s.onPkg (Package.write 0x2_2FF8 [9]))) (fun t => t.pkg.outbox = [.hostRead [9, 0, 0, 0, 0, 0, 0, 0]])) := by decide +kernel

/-! ### Packets -/

/-- `v1` and `v2` with two lanes, `v3` with three. -/
def packets : State := withV 1 [0x8001_7F80, 5] (withV 2 [0x0001_0102, 0xFFFF_FFFF] (withV 3 [1, 0, 7] up))

/-- What an instruction leaves as the packet of a register. -/
def packetOf? (r : Result) (n : VIdx) (l : List W32) : Bool := facet r fun t => (t.cell.vreg n).packet = l

theorem witness_IntegerLanes : packets.HasV 1 (packets.cell.vreg 1) ∧ packets.HasV 2 (packets.cell.vreg 2) ∧ packets.FreeV 3 ∧ packets.HasV 3 (packets.cell.vreg 3) ∧ (packets.cell.vreg 3).length = 3 := by decide +kernel
/-- Bytes 80 7F 01 80 and 02 01 01 00: wrapped, and clamped under SAT (R171). -/
theorem test_lanes_add : packetOf? (exec (.vadd 4 1 2 0) packets) 4 [0x8002_8082, 0xFFFF_FF04] ∧ packetOf? (exec (.vadd 4 1 2 0) (withK (fun k => { k with sat := true }) packets)) 4 [0x8002_7F82, 0xFFFF_FF04] ∧
    packetOf? (exec (.vsub 4 1 2 4) packets) 4 [0x8000_7E7E, 6] ∧ packetOf? (exec (.vmul 4 1 2 4) packets) 4 [0x8102_7F00, 0xFFFF_FFFB] := by decide +kernel
/-- `vabs.i8` of −128 and `vneg.n8` of 5, with and without SAT (R171). -/
theorem test_lanes_abs_neg : packetOf? (exec (.vabs 4 5 0) (withV 5 [0x80] up)) 4 [0x80] ∧ packetOf? (exec (.vabs 4 5 0) (withK (fun k => { k with sat := true }) (withV 5 [0x80] up))) 4 [0x7F] ∧
    packetOf? (exec (.vneg 4 5 1) (withV 5 [5] up)) 4 [251] ∧ packetOf? (exec (.vneg 4 5 1) (withK (fun k => { k with sat := true }) (withV 5 [5] up))) 4 [0] := by decide +kernel
theorem test_lanes_order : packetOf? (exec (.vmin 4 1 2 0) packets) 4 [0x8001_0180, 0xFFFF_FFFF] ∧ packetOf? (exec (.vmax 4 1 2 1) packets) 4 [0x8001_7F80, 0xFFFF_FFFF] ∧
    packetOf? (exec (.vcmp 4 1 2 4) packets) 4 [0xFFFF_FFFF, 1] ∧ packetOf? (exec (.vsel 3 1 2 4) packets) 3 [0x8001_7F80, 0xFFFF_FFFF] := by decide +kernel
theorem test_lanes_bits : packetOf? (exec (.vand 4 1 2) packets) 4 [0x0001_0100, 5] ∧ packetOf? (exec (.vor 4 1 2) packets) 4 [0x8001_7F82, 0xFFFF_FFFF] ∧ packetOf? (exec (.vxor 4 1 2) packets) 4 [0x8000_7E82, 0xFFFF_FFFA] ∧
    packetOf? (exec (.vshl 4 1 2 0) packets) 4 [0x8002_FE00, 0x80] ∧ packetOf? (exec (.vshr 4 1 3 4) packets) 4 [0x4000_BFC0, 5] ∧ packetOf? (exec (.vsra 4 1 3 4) packets) 4 [0xC000_BFC0, 5] := by decide +kernel

theorem witness_FloatLanes : FmtDesc.isFloat 8 = true ∧ FmtDesc.isFloat 0x73 = true ∧ packets.HasV 1 (packets.cell.vreg 1) ∧ packets.FreeV 4 := by decide +kernel
/-- The example of R175, with SAT 0 and 1. -/
theorem test_vfadd : (let s := withV 1 [0x4038_7F7E] (withV 2 [0xB838_387E] up);
    facet (exec (.vfadd 5 1 2 12) s) (fun t => (t.cell.vreg 5).packet = [0x3840_7F7F] ∧ t.cell.k.fflags = flOF ||| flIX) ∧
    facet (exec (.vfadd 5 1 2 12) (withK (fun k => { k with sat := true }) s)) (fun t => (t.cell.vreg 5).packet = [0x3840_7F7E] ∧ t.cell.k.fflags = flOF ||| flIX)) := by decide +kernel
/-- FP32: 1 + 2, 1 − 2, 1 × 2, 1 × 2 + 3; the order of 1 and a NaN; the sign of 1 inverted. -/
theorem test_float_lanes : (let s := withV 1 [0x3F80_0000] (withV 2 [0x4000_0000] (withV 3 [0x4040_0000] (withV 4 [0x7F80_0001] up)));
    packetOf? (exec (.vfsub 5 1 2 8) s) 5 [0xBF80_0000] ∧ packetOf? (exec (.vfmul 5 1 2 8) s) 5 [0x4000_0000] ∧ packetOf? (exec (.vfma 3 1 2 8) s) 3 [0x40A0_0000] ∧ packetOf? (exec (.vfmin 5 1 2 8) s) 5 [0x3F80_0000] ∧
    packetOf? (exec (.vfmax 5 1 2 8) s) 5 [0x4000_0000] ∧ packetOf? (exec (.vfneg 5 1 8) s) 5 [0xBF80_0000] ∧ packetOf? (exec (.vfabs 5 1 8) s) 5 [0x3F80_0000] ∧
    facet (exec (.vfcmp 5 1 4 8) s) (fun t => (t.cell.vreg 5).packet = [2] ∧ t.cell.k.fflags = flNV)) := by decide +kernel

theorem witness_ConversionsAndFunctions : FmtDesc.valid 8 = true ∧ FmtDesc.valid 0 = true ∧ packets.HasV 2 (packets.cell.vreg 2) ∧ packets.HasV 1 (packets.cell.vreg 1) ∧ packets.FreeV 4 := by decide +kernel
/-- 1.5 and −2 to INT8 and back (R177). -/
theorem test_conversions : (let s := withV 1 [0x3FC0_0000, 0xC000_0000] (withV 2 [0x0000_FE02] up);
    packetOf? (exec (.vcvt 5 1 0 8) s) 5 [0x0000_FE02] ∧ packetOf? (exec (.vunpack 5 2 4 0) s) 5 [2, 0xFFFF_FFFE, 0, 0] ∧ packetOf? (exec (.vpack 5 2 0 0) s) 5 [2]) := by decide +kernel
/-- The example of R180: 1/3 by one step. -/
theorem test_reciprocal : (let s := withV 6 [0x4040_0000] (withV 7 [0x3EAA_A000] (withV 8 [0x4080_0000] up));
    packetOf? (exec (.vrcp 5 6) s) 5 [0x3EAA_A000] ∧ packetOf? (exec (.vrcpstep 5 6 7) s) 5 [0x3EAA_AAAA] ∧ packetOf? (exec (.vrsq 5 8) s) 5 [0x3F00_0000] ∧ packetOf? (exec (.vrsqstep 5 8 5) (withV 5 [0x3F00_0000] s)) 5 [0x3F00_0000]) := by
  decide +kernel
/-- 2^3 = 8 and log2 8 = 3, exactly; log2 of 0 is −∞ with DZ (R181). -/
theorem test_exp_log : packetOf? (exec (.vexp2 5 1) (withV 1 [0x4040_0000] up)) 5 [0x4100_0000] ∧ packetOf? (exec (.vlog2 5 1) (withV 1 [0x4100_0000] up)) 5 [0x4040_0000] ∧
    facet (exec (.vlog2 5 1) (withV 1 [0x8000_0000] up)) (fun t => (t.cell.vreg 5).packet = [0xFF80_0000] ∧ t.cell.k.fflags = flDZ) := by decide +kernel
/-- The special inputs of R179 and R181. -/
theorem test_special_inputs : rcpCode 0 = (0x7F80_0000, flDZ) ∧ rcpCode 0x8000_0000 = (0xFF80_0000, flDZ) ∧ rcpCode 0xFF80_0000 = (0x8000_0000, 0) ∧ rcpCode 0x7F80_0001 = (0x7FC0_0000, flNV) ∧
    rcpCode 1 = (0x7F80_0000, flOF ||| flIX) ∧ rsqCode 0x8000_0000 = (0xFF80_0000, flDZ) ∧ rsqCode 0xBF80_0000 = (0x7FC0_0000, flNV) ∧ exp2Of (.inf true) = .fin false 0 0 ∧
    log2Of (.fin true 1 0) = (.nan false, flNV) := by decide +kernel

/-- Each clause of ReductionsAndMovement: an integer and a float format; an element that is the greatest, the first of its kind, among others and a NaN; NaNs alone. -/
theorem witness_ReductionsAndMovement : FmtDesc.isInt 0 = true ∧ FmtDesc.isInt 8 = false ∧ FmtDesc.valid 8 = true ∧
    (let s := withV 1 [0x3F80_0000, 0x4000_0000, 0x7FC0_0000, 0x4000_0000] up; let E := (s.cell.vreg 1).elems 8 4
      E.getD 1 0 = 0x4000_0000 ∧ (valueOf 8 0x4000_0000).isNan = false ∧ (∀ j < 4, (valueOf 8 (E.getD j 0)).isNan = false → ranksBelow 8 0x4000_0000 (E.getD j 0) = false) ∧ ranksBelow 8 (E.getD 0 0) 0x4000_0000 = true) ∧
    (valueOf 8 0x7FC0_0000).isNan = true ∧ (8#5).toNat ≤ 8 := by decide +kernel
theorem test_reductions : packetOf? (exec (.vsum 5 1 0) packets) 5 [0xFFFF_FF85] ∧ packetOf? (exec (.vsum 5 1 8) (withV 1 [0x3F80_0000, 0x4000_0000, 0x4040_0000] up)) 5 [0x40C0_0000] ∧
    packetOf? (exec (.vmaxr 5 1 8) (withV 1 [0x3F80_0000, 0x4000_0000, 0x7FC0_0000, 0x4000_0000] up)) 5 [0x4000_0000, 1] := by decide +kernel
/-- The example of R184: a Walsh–Hadamard transform of 1, 2, 3, 4. -/
theorem test_butterfly : packetOf? (exec (.vbfly 2 1 0 8) (withV 1 [0x3F80_0000, 0x4000_0000, 0x4040_0000, 0x4080_0000] up)) 2 [0x4040_0000, 0xBF80_0000, 0x40E0_0000, 0xBF80_0000] ∧
    packetOf? (exec (.vbfly 3 2 1 8) (withV 2 [0x4040_0000, 0xBF80_0000, 0x40E0_0000, 0xBF80_0000] up)) 3 [0x4120_0000, 0xC000_0000, 0xC080_0000, 0] := by decide +kernel
theorem test_movement : packetOf? (exec (.vperm 5 1 3) packets) 5 [5, 0x8001_7F80, 0] ∧ packetOf? (exec (.vbcast 5 1 2 0) packets) 5 (List.replicate 8 0x0101_0101) ∧
    facet (exec (.vlen 5 1 8) packets) (fun t => (t.cell.vreg 5).packet = [0x8001_7F80, 5, 0, 0, 0, 0, 0, 0]) := by decide +kernel

theorem witness_ScalesMergesAndPipelines : packets.HasV 1 (packets.cell.vreg 1) ∧ packets.HasV 2 (packets.cell.vreg 2) ∧ packets.FreeV 4 ∧ FmtDesc.isNarrow 12 = true ∧ FmtDesc.isFloat 8 = true := by decide +kernel
/-- The greatest magnitude of 1 and −6 is 6; its E2M1 scale is 2 − 2 + 127 (R186); 6 × 2^0 is the E2M1 code 7 (R187). -/
theorem test_scales : packetOf? (exec (.vbscale 5 1 2 11) (withV 1 [0x3F80_0000, 0xC0C0_0000] (withV 2 [0] up))) 5 [0x40C0_0000, 127] ∧
    packetOf? (exec (.vquant 5 1 2 11) (withV 1 [0x3F80_0000, 0xC0C0_0000] (withV 2 [127] up))) 5 [0xF2] ∧ packetOf? (exec (.vdequant 5 1 2 11) (withV 1 [0xF2] (withV 2 [128] up))) 5
      [0x4000_0000, 0xC140_0000, 0, 0, 0, 0, 0, 0] := by decide +kernel
/-- The neutral state leaves the other side; two states of equal maxima add up (R188). -/
theorem test_merge : packetOf? (exec (.vsmerge 5 1 2) (withV 1 [0xFF80_0000, 0, 0] (withV 2 [0x3F80_0000, 0x4000_0000, 0x4040_0000] up))) 5 [0x3F80_0000, 0x4000_0000, 0x4040_0000] ∧
    packetOf? (exec (.vsmerge 5 1 1) (withV 1 [0x3F80_0000, 0x4000_0000, 0x4040_0000] up)) 5 [0x3F80_0000, 0x4080_0000, 0x40C0_0000] := by decide +kernel
/-- The published vectors of Philox-4x32-10: for a key and a counter of zeros, and for the digits of π in the counter {c3, c2, c1, c0} and the key. -/
theorem test_dice : (philox 0 0 0 0 0).1 = 0x6627_E8D5 ∧ philox 0x299F_31D0_A409_3822 0x243F_6A88 0x85A3_08D3 0x1319_8A2E 0x0370_7344 = (0xD16C_FE09, 0x94FD_CCEB, 0x5001_E420, 0x2412_6EA1) ∧ facet (exec (.vdice 5 1 0 false) packets) (fun t => (t.cell.vreg 5).length = 2 ∧ t.cell.draw = packets.cell.draw) ∧
    facet (exec (.vnorm 5 1 2 8) (withV 1 [0x0403_0201] (withV 2 [0x3F80_0000, 0, 0, 0, 0x4000_0000, 0x3F80_0000, 0x3F80_0000, 0x3F80_0000] up))) (fun t => (t.cell.vreg 5).packet = [0, 0x4000_0000, 0x4040_0000, 0x4080_0000]) ∧
    facet (exec (.vcsc 5 1 2) (withV 1 [0xAB00_0000] (withV 2 [0, 0, 0, 0, 0, 0, 0, 0] up))) (fun t => (t.cell.vreg 5).length = 1) := by decide +kernel

theorem witness_PacketRetirement : (1 ≤ [7#32].length ∧ [7#32].length ≤ 8) ∧ (flIX &&& up.cell.k.te = 0) ∧ (let s := withK (fun k => { k with te := flIX }) vectored; flIX &&& s.cell.k.te ≠ 0 ∧ s.cell.k.tven = true ∧ s.cell.k.t = false) := by
  decide +kernel

/-! ### Channels, handlers and nodes -/

/-- A packet as it lies in a channel. -/
def pk (l : List W32) (ends psn : Bool := false) : Packet := ⟨l, ends, psn, none, none, false, 0⟩

/-- A QUEUE channel of handler 0 that holds packets. -/
def chan (f : Channel → Channel := id) (l : List Packet) : Channel := f { Channel.reset with en := true, fire := true, depth := 4, pkts := l }

/-- Channel 4 of the cell in focus put in place; out-queue 2 is there and empty; handler 3 is valid. -/
def withChan (C : Channel) : State := packets.onCell fun c =>
  { c with chan := c.chan.set 4 C, outq := c.outq.set 2 { OutQueue.reset with en := true, dch := 4, credits := 4, toQueue := true }, hnd := c.hnd.set 3 { Handler.reset with v := true, pc := 0x80, entry := 0x80 } }

/-- Each clause of PacketsReceivedAndDropped: a channel that is absent, of a node, empty, and one that holds a packet, poisoned or not, of one, two and three lanes; widening that is given and not. -/
theorem witness_PacketsReceivedAndDropped : (packets.cell.chanAt 4).en = false ∧ (let s := withChan (chan (fun C => { C with tgt := 64 }) []); 64 ≤ (s.cell.chanAt 4).tgt.toNat) ∧
    (let s := withChan (chan id []); (s.cell.chanAt 4).en = true ∧ (s.cell.chanAt 4).tgt.toNat < 64 ∧ (s.cell.chanAt 4).pkts = []) ∧
    (let s := withChan (chan id [pk [7, 8, 9], pk [1]]); (s.cell.chanAt 4).pkts = [pk [7, 8, 9], pk [1]] ∧ (pk [7, 8, 9]).psn = false ∧ s.FreeV 5 ∧ s.FreeX 5 ∧ 2 < (pk [7, 8, 9]).lanes.length ∧ (s.cell.chanAt 4).latest = false) ∧
    (pk [1] false true).psn = true ∧ (pk [1, 2]).lanes = [1, 2] ∧ (chan (fun C => { C with latest := true }) []).latest = true ∧
    (let s := withChan (chan (fun C => { C with fmt := 0 }) [pk [0x80FF_0201]]); widen (s.cell.chanAt 4) s.cell [0x80FF_0201] 0 = some ([1, 2, 0xFFFF_FFFF, 0xFFFF_FF80], 0) ∧ widen (s.cell.chanAt 4) s.cell [0x80FF_0201] 1 = none) ∧
    (let P : Packet := { pk [1] with src := some (0, 2, 0) }; P.src = some (0, 2, 0) ∧ P.conv = none ∧ packets.pkg.joins = []) := by decide +kernel
theorem test_recv : facet (exec (.recv 5 4 none 1) (withChan (chan id [pk [7, 8] true, pk [1]]))) (fun t => t.cell.inflight.map (fun a => (a.op, a.dst)) = [(.packet [7, 8], .v 5)] ∧ t.cell.pred 1 ∧ (t.cell.chanAt 4).pkts = [pk [1]]) ∧
    facet (exec (.peek 5 4 none 0) (withChan (chan id [pk [7, 8] true]))) (fun t => (t.cell.chanAt 4).pkts.map (fun p => (p.lanes, p.read)) = [([7, 8], true)]) ∧
    facet (exec (.recv 5 4 (some 0) 0) (withChan (chan (fun C => { C with fmt := 0 }) [pk [0x80FF_0201]]))) (fun t => t.cell.inflight.map (fun a => a.op) = [.packet [1, 2, 0xFFFF_FFFF, 0xFFFF_FF80]]) := by decide +kernel
theorem test_recv_waits : facet (exec (.recv 5 4 none 0) (withChan (chan id []))) (fun t => (t.cell.handler 0).key = some (.chanIn 4)) ∧ facet (exec (.recv 5 4 none 0) packets) (fun t => t.cell.fault.map (fun f => (f.code, f.detail)) = some (cCHANNEL_FORMAT, 4)) ∧
    facet (exec (.ctlWait 5 4) (withChan (chan id [pk [7, 8]]))) (fun t => t.cell.inflight.map (fun a => (a.op, a.dst)) = [(.value 0x8_0000_0007 0, .x 5)]) := by decide +kernel
theorem test_drop_clen : facet (exec (.drop 4) (withChan (chan id [pk [7], pk [1, 2] true]))) (fun t => (t.cell.chanAt 4).pkts = [pk [1, 2] true]) ∧
    facet (exec (.clen 5 4) (withChan (chan id [pk [1, 2] true, pk [7]]))) (fun t => t.cell.xreg 5 = ⟨0x122, .full⟩) := by decide +kernel

/-- Each clause of PacketsSent: a queue that is absent, one with room, one that is full. -/
theorem witness_PacketsSent : packets.HasV 1 (packets.cell.vreg 1) ∧ packets.HasX 0 0 ∧ (packets.cell.queue 2).en = false ∧ ((withChan (chan id [])).cell.queue 2).en = true ∧ ((withChan (chan id [])).cell.queue 2).pkts.length < 2 ∧
    (let s := (withChan (chan id [])).onCell fun c => c.enqueue 2 (pk [1]) |>.enqueue 2 (pk [2]); 2 ≤ (s.cell.queue 2).pkts.length) := by decide +kernel
theorem test_send : facet (exec (.send 2 1 false true 0) (withChan (chan id []))) (fun t => (t.cell.queue 2).pkts.map (fun p => (p.lanes, p.ends, p.psn)) = [([0x8001_7F80, 5], false, false)]) ∧
    facet (exec (.sendx 2 1 true false 0 false) (withX 1 0x5_0000_0006 (withChan (chan id [])))) (fun t => (t.cell.queue 2).pkts.map (fun p => (p.lanes, p.ends, p.psn)) = [([6, 5], true, true)]) ∧
    facet (exec (.ctlDone 2 1) (withX 1 0x5_0000_0006 (withChan (chan id [])))) (fun t => (t.cell.queue 2).pkts.map (fun p => (p.lanes, p.ends)) = [([6], true)]) ∧
    facet (exec (.ctlPermit 2 1 0) (withX 1 6 (withChan (chan id [])))) (fun t => (t.cell.queue 2).pkts.map Packet.lanes = [[6, 0]]) := by decide +kernel

/-- Each clause of HandlerInstructions: a trap handler, a running handler, a handler that is absent and one that is there; a channel bound to it. -/
theorem witness_HandlerInstructions : (inTrap.cell.k.t = true) ∧ (let s := withX 5 3 (withX 6 4 (withChan (chan id [pk [1]]))); s.HasX 5 3 ∧ s.HasX 6 4 ∧ s.cell.k.t = false ∧ s.cell.cur = some 0 ∧ s.FreeX 7 ∧
    (s.cell.handler ((3 : Word).setWidth 6)).v = true ∧ (s.cell.handler ((4 : Word).setWidth 6)).v = false ∧ (s.cell.chanAt ((4 : Word).setWidth 5)).en = true ∧ (s.cell.chanAt ((4 : Word).setWidth 5)).tgt.toNat < 64) := by
  decide +kernel
theorem test_hnd : facet (exec .hndEnd packets) (fun t => t.cell.cur = none ∧ (t.cell.handler 0).st = .idle) ∧ facet (exec .hndEnd (withChan (chan id [pk [1]]))) (fun t => (t.cell.handler 0).st = .runnable) ∧
    facet (exec (.hndBind 6 5) (withX 5 3 (withX 6 4 (withChan (chan id [pk [1]]))))) (fun t => (t.cell.chanAt 4).tgt = 3 ∧ (t.cell.handler 3).st = .runnable) ∧
    facet (exec (.hndPrio 5 6) (withX 5 3 (withX 6 0x12 (withChan (chan id []))))) (fun t => (t.cell.handler 3).prio = 2) := by decide +kernel
theorem test_hnd_mask : facet (exec (.hndMask 5) (withX 5 3 (withChan (chan id [])))) (fun t => (t.cell.handler 3).mask) ∧ facet (exec (.hndUnmask 5) (withX 5 3 (withChan (chan id [])))) (fun t => !(t.cell.handler 3).mask) ∧
    facet (exec (.hndSelf 5) packets) (fun t => t.cell.xreg 5 = ⟨0, .full⟩) ∧ facet (exec (.hndMask 5) (withX 5 4 packets)) (fun t => t.cell.fault.map FaultRec.code = some cCHANNEL_FORMAT) := by decide +kernel

/-- A circuit from out-queue 2 of the cell to its own channel 4 in slot 9. -/
def circuit : State := (withChan (chan id [])).onCell fun c => { c.enqueue 2 (pk [7] true) with slots := [(9, 0x2_5000)] }

/-- Each clause of PacketsTravelAndNodesServe: a packet whose slot it is, one on the wire, channels that replace, merge and queue, and fire; a controller, an arbiter with and without lock, a generator. -/
theorem witness_PacketsTravelAndNodesServe : ((circuit.cellAt 0).queue 2).pkts = [pk [7] true] ∧ (circuit.cellAt 0).departs 2 9 = true ∧ circuit.moving (circuit.cellAt 0) = true ∧ circuit.sent (circuit.cellAt 0) = false ∧
    circuit.circuitEnds 0 9 = [0] ∧
    (let s := circuit.onPkg fun p => { p with wire := [⟨0, 2, 0, 4, pk [7]⟩], creditWire := [(0, 2)] }; (s.pkg.wire[0]?).isSome = true ∧ (s.pkg.wire.all fun f => s.pkg.firstOnWire 0 f) = true ∧ s.pkg.creditWire[0]? = some (0, 2)) ∧
    (chan id [pk [1]]).mergesWith (pk [2]) = none ∧ (chan (fun C => { C with merge := true }) [pk [1]]).mergesWith (pk [2]) = some (pk [1]) ∧ ((withChan (chan (fun C => { C with tgt := 3 }) [])).cell.handler 3).st = .idle := by
  decide +kernel
theorem test_packet_departure : facet (exec (.packetDeparture 0 2 9) circuit) (fun t => (t.cell.queue 2).pkts = [] ∧ (t.cell.queue 2).credits = 3 ∧ t.pkg.wire.map (fun f => (f.dst, f.ch, f.pkt.lanes, f.pkt.ends)) = [(0, 4, [7], true)]) ∧
    facet (exec (.tokenArrival ⟨0, false⟩) ((withChan (chan (fun C => { C with tgt := 3 }) [])).onPkg fun p => { p with wire := [⟨0, 2, 0, 4, pk [7]⟩] })) (fun t => (t.cell.chanAt 4).pkts.map Packet.lanes = [[7]] ∧ (t.cell.handler 3).st = .runnable ∧ t.pkg.wire = []) ∧
    facet (exec (.creditReturn 0) (circuit.onPkg fun p => { p with creditWire := [(0, 2)] })) (fun t => (t.cell.queue 2).credits = 5) := by decide +kernel

/-- Node 1 in place, with channel 4 as its own and a token there. -/
def node (n : Node) (P : Packet) : State := (withChan (chan (fun C => { C with tgt := 65 }) [P])).onCell fun c => { c with node := c.node.set 1 n }

theorem witness_nodes : ((node (.generator 0 0x22) (pk [0])).cell.nodeToken 1 4) = some (pk [0]) ∧ (0x22 : Word).extractLsb' 3 5 = 4#5 ∧ (node (.generator 0 0x22) (pk [0])).cell.queueRoom 2 = true ∧
    (node (.generator 0 0x22) (pk [0])).moving (node (.generator 0 0x22) (pk [0])).cell = true ∧ (node (.generator 0 0x22) (pk [0])).cell.stopped = false := by decide +kernel
theorem witness_controller_and_arbiter :
    (let s := node (.controller 0 0x2200_0000_002A false false 0 0 [0, 0, 0, 0] [0, 0, 0, 0] [0, 0, 0, 0]) (pk [3, 1]);
      s.cell.nodeToken 1 4 = some (pk [3, 1]) ∧ ctlRoot 0 = false ∧ ctlParent 0x2200_0000_002A = 4 ∧
      (match ctlTake 0 0x2200_0000_002A false false 0 0 [0, 0, 0, 0] [0, 0, 0, 0] [0, 0, 0, 0] 4 (pk [3, 1]) with | .node _ => true | _ => false) = true ∧
      (match ctlTake 0 0x2200_0000_002A false false 0 0 [0, 0, 0, 0] [0, 0, 0, 0] [0, 0, 0, 0] 4 (pk [3]) with | .wrong => true | _ => false) = true) ∧
    (let s := node (.arbiter 0x22 0x232 0 []) (pk [7]); arbStray 1 0x22 0x232 s.cell = none ∧ 0 < arbLimit 0x232 ∧ arbNext 1 0x22 0x232 0 s.cell = some 0 ∧ s.cell.nodeToken 1 (arbChannel 0x22 0) = some (pk [7]) ∧
      arbLock 0x232 = false ∧ s.cell.queueRoom (arbForward 0x232) = true ∧ arbLock 0x8232 = true ∧ s.cell.queueRoom (arbQueue 0x22 0) = true) ∧
    (let s := node (.arbiter 0x2A 0x222 0 [0]) (pk [7]); s.cell.nodeToken 1 (arbReplies 0x222) = some (pk [7]) ∧ s.cell.queueRoom (arbQueue 0x2A 0) = true) := by decide +kernel
/-- A permit 3 starts a run of one iteration, whose permit goes to the child (R141); an arbiter forwards a request, and passes on a reply (R142). -/
theorem test_controller_and_arbiter : facet (exec (.controllerNodeToken 0 1 4) (node (.controller 0 0x2200_0000_002A false false 0 0 [0, 0, 0, 0] [0, 0, 0, 0] [0, 0, 0, 0]) (pk [3, 1])))
      (fun t => (t.cell.queue 2).pkts.map Packet.lanes = [[0, 1]] ∧ (t.cell.chanAt 4).pkts = []) ∧
    facet (exec (.arbiterNodeToken 0 1 false) (node (.arbiter 0x22 0x232 0 []) (pk [7]))) (fun t => (t.cell.queue 2).pkts.map Packet.lanes = [[7]] ∧ t.cell.nodeAt 1 = .arbiter 0x22 0x232 0 [0]) ∧
    facet (exec (.arbiterNodeToken 0 1 true) (node (.arbiter 0x2A 0x222 0 [0]) (pk [7]))) (fun t => (t.cell.queue 2).pkts.map Packet.lanes = [[7]] ∧ t.cell.nodeAt 1 = .arbiter 0x2A 0x222 0 []) := by decide +kernel
/-- A generator sends the four words of Philox for index 0 (R143, R43). -/
theorem test_generator : facet (exec (.generatorNodeToken 0 1 4) (node (.generator 0 0x22) (pk [0] true))) (fun t => (t.cell.queue 2).pkts.map (fun p => (p.lanes, p.ends)) = [([0x6627_E8D5, 0xE169_C58D, 0xBC57_AC4C, 0x9B00_DBD8], true)] ∧ (t.cell.chanAt 4).pkts = []) := by
  decide +kernel

/-- Each clause of HandlerSelected: a free core with a candidate, and a handler passed over 4096 times. -/
theorem witness_HandlerSelected : (let s := (withChan (chan id [])).onCell fun c => { c with cur := none, hnd := c.hnd.set 3 { (c.hnd[3]) with st := .runnable } };
      (s.cellAt 0).cur = none ∧ (s.cellAt 0).stopped = false ∧ s.active (s.cellAt 0) = true ∧ s.cell.candidates = [3]) ∧
    (let s := packets.onCell fun c => { c with hnd := c.hnd.set 3 { Handler.reset with pass := 4096 } }; 4096 ≤ ((s.cellAt 0).handler 3).pass) := by decide +kernel
theorem test_selection : facet (exec (.handlerSelection 0) ((withChan (chan id [])).onCell fun c => { c with cur := none, hnd := (c.hnd.set 3 { (c.hnd[3]) with st := .runnable }).set 0 { (c.hnd[0]) with st := .idle } }))
      (fun t => t.cell.cur = some 3 ∧ t.cell.pc = 0x80 ∧ (t.cell.handler 3).st = .running) ∧
    facet (exec (.ageAdvance 0 3) (packets.onCell fun c => { c with hnd := c.hnd.set 3 { Handler.reset with pass := 4096 } })) (fun t => (t.cell.handler 3).age = 1 ∧ (t.cell.handler 3).pass = 0) := by decide +kernel


/-! ### Constants, the loader and the engines -/

/-- Board 0 of one core block at the first cell, running, with the cell in focus on it, at runtime level; channel 4 of the cell is a constant one and channel 5 a queue. -/
def boarded : State :=
  (paged.onPkg fun p => { p with boards := [⟨0, 0, 0, 0, 0, 1, 1, true, none, 0, .running, 0, 0, 0, 0, none, none, none⟩], nextBoard := 1 }).onCell fun c =>
    { c with board := some 0, k := { c.k with lvl := true }, chan := (c.chan.set 4 { Channel.reset with en := true, fire := true, latest := true, const := true, depth := 1, tgt := 3 }).set 5 { Channel.reset with en := true },
             hnd := c.hnd.set 3 { Handler.reset with v := true } }

/-- An image of one group, a handler 0 with V and START, its CRC worked out apart from the model (R128). -/
def image : List Word := [0x0000_3000_0001_7254, 0x60_0000]

/-- A request on its way to the loader, whose status the access 3 takes; its image stands at the virtual address 0x1_0000. -/
def loading (desc : Word) (drain : Bool := false) (f : LoadReq → LoadReq := id) : State :=
  (boarded.onPkg fun p => { p.write 0x2_0000 (image.flatMap fun w => bytesOf 8 w.toNat) with loads := [f ⟨some (0, 3), 0, 0x1_0000, desc, [], drain, .asked, [], 0⟩] }).onCell fun c =>
    { c.putX 3 ⟨0, .pending⟩ with inflight := [⟨3, 0, 0x10, 0, .await, .x 3, 0, .none, 7, 0, [], false, false, true, false⟩], nextId := 4 }

/-- Each clause of ConfigurationAndLoader: a constant channel of the board, the last cell of it, a column past it; a constant to install; both levels. -/
theorem witness_ConfigurationAndLoader : (let s := withX 8 4 (withX 9 0x7_0704 (withX 10 0x0_0804 boarded)); s.HasX 8 4 ∧ s.HasV 1 (s.cell.vreg 1) ∧ (s.boardOf s.cell).isSome = true ∧ ((s.cellAt 0).chanAt 4).const = true ∧
      s.HasX 9 0x7_0704 ∧ (0x7_0704 : Word).extractLsb' 16 6 = 7 ∧ (0x7_0704 : Word).extractLsb' 8 6 = 7 ∧ ((s.cellAt 0b111_000111).chanAt 4).const = false ∧ (0x0_0804 : Word).extractLsb' 8 6 = 8) ∧
    (let s := boarded.onCell (Cell.onChan 4 fun C => { C with nextConst := some [7, 8] }); ((s.cellAt 0).chanAt 4).nextConst = some [7, 8] ∧ (s.cellAt 0).stopped = false ∧ ((s.cellAt 0).chanAt 4).latest = true ∧
      ((s.cellAt 0).chanAt 4).fire = true ∧ ((s.cellAt 0).chanAt 4).tgt = (3#6).setWidth 7 ∧ ((s.cellAt 0).handler 3).st = .idle) ∧
    (boarded.HasX 1 0x1_0000 ∧ boarded.HasX 0 0 ∧ boarded.FreeX 3 ∧ boarded.cell.k.lvl = true ∧ paged.cell.k.lvl = false) := by decide +kernel
/-- Each clause on the loader: a request while the loader is busy and while it is not, misaligned, of a board that is not there or is draining, with a reserved bit; a drain; a load of an image that checks, graceful or not, and of
one that does not. -/
theorem witness_loader : (let s := loading 0x200_0000; s.pkg.loads[0]?.isSome = true ∧ s.pkg.loaderBusy 0 = false ∧ s.pkg.loads.map LoadReq.phase = [.asked] ∧ s.cell.inflight.find? (·.id == 3) ≠ none ∧
      describedBoard 0 0x200_0000 s.pkg = s.pkg.boards.head? ∧ describedBoard 0 0x200_0800 s.pkg = none ∧ descOk false 0x200_0000 = true ∧ descOk false 0x204_0000 = false ∧ descOk false 0 = false ∧ descOk true 0 = true ∧ descOk true 0x1_0000 = false) ∧
    (let s := (loading 0x200_0000).onPkg fun p => { p with loads := p.loads ++ [⟨none, 0, 0, 0, [], false, .graceful, [], 0⟩] }; s.pkg.loaderBusy 0 = true) ∧
    ((loading 0x200_0000).pkg.boards.map Board.phase = [.running] ∧ (loading 0x200_0000 false fun q => { q with addr := 0x1_0004 }).pkg.loads.map (fun q => q.addr.toNat % 8) = [4]) := by decide +kernel
theorem witness_images : (let s := loading 0x200_0000; readVirtual 0 0x1_0000 16 s.pkg = (.ok (image.flatMap (fun w => bytesOf 8 w.toNat), false), s.pkg) ∧ wordsOfBytes 2 (image.flatMap fun w => bytesOf 8 w.toNat) = image) ∧
    (checkImage 8 8 image).isSome = true ∧ checkImage 8 8 [0x0000_3000_0001_7255, 0x60_0000] = none ∧ (0x201_0000 : Word).getLsbD 16 = true := by decide +kernel
theorem witness_switch : (let s := loading 0x200_0000 false fun q => { q with phase := .graceful }; s.pkg.loads.map LoadReq.phase = [.graceful] ∧ (s.pkg.board 0).isSome = true ∧
      (s.pkg.boards.all fun b => !s.quiescent b) = true) ∧
    (let s := (loading 0x200_0000 false fun q => { q with phase := .graceful }).onCell fun c => { c with inflight := [], hnd := c.hnd.set 0 Handler.reset }; (s.pkg.boards.all fun b => s.quiescent b) = true) ∧
    (let s := loading 0x200_0000 false fun q => { q with phase := .words }; s.pkg.loads.map (fun q => (q.phase, q.issuer.isSome)) = [(.words, true)] ∧ (s.pkg.boards.all fun b => (s.pkg.memberOf b).isNone) = true) := by decide +kernel
theorem test_arg_set : facet (exec (.argSet 8 1) (withX 8 4 (withV 1 [7, 8] boarded))) (fun t => (t.cell.chanAt 4).nextConst = some [7, 8]) ∧
    facet (exec (.argSet 8 1) (withX 8 0x7_0704 boarded)) (fun t => t.cell.fault.map (fun f => (f.code, f.detail)) = some (cCHANNEL_FORMAT, 4)) ∧
    facet (exec (.argSet 8 1) (withX 8 0x0_0804 boarded)) (fun t => t.cell.fault.map FaultRec.code = some cACCESS) ∧
    facet (exec (.constantInstall 0 4) (boarded.onCell (Cell.onChan 4 fun C => { C with nextConst := some [7, 8] }))) (fun t => (t.cell.chanAt 4).pkts.map Packet.lanes = [[7, 8]] ∧ (t.cell.handler 3).st = .runnable) := by decide +kernel
theorem test_cfg_load : facet (exec (.cfgLoad 3 1 2) boarded) (fun t => t.pkg.loads.map (fun q => (q.addr, q.desc, q.drain, q.phase)) = [(0x1_0000, 0x1122_3344_5566_7788, false, .asked)] ∧ (t.cell.xreg 3).st = .pending) ∧
    facet (exec (.cfgDrain 3 2) paged) (fun t => t.cell.fault.map FaultRec.code = some cPRIVILEGED) := by decide +kernel
theorem test_load_acceptance : facet (exec (.loadAcceptance 0) (loading 0x201_0000)) (fun t => (t.cell.xreg 3).st = .pending ∧ t.pkg.loads.map LoadReq.phase = [.graceful] ∧ !t.cell.stopped) ∧
    facet (exec (.loadAcceptance 0) (loading 0x200_0000)) (fun t => t.cell.stopped ∧ t.pkg.boards.map Board.phase = [.empty]) ∧
    facet (exec (.loadAcceptance 0) (loading 0x200_0800)) (fun t => t.cell.xreg 3 = ⟨cACCESS.setWidth 64, .full⟩ ∧ t.pkg.loads = []) ∧
    facet (exec (.loadAcceptance 0) (loading 0x300_0000)) (fun t => t.cell.xreg 3 = ⟨cCONFIG_CHECK.setWidth 64, .full⟩) := by decide +kernel
/-- The next load fires: the START handler of the image is RUNNABLE at its entry, and the cell runs at the level of the description (R134). -/
theorem test_switch_over : facet (exec (.switchOver 0) (loading 0x200_0000 false fun q => { q with phase := .words, groups := (checkImage 8 8 image).getD [] })) (fun t => (t.cell.handler 0).st = .runnable ∧ !t.cell.k.lvl ∧ t.cell.cur = none ∧
      t.pkg.boards.map (fun b => (b.phase, b.generation)) = [(.running, 1)] ∧ t.pkg.loads = []) := by decide +kernel

/-- A command as an engine holds it. -/
def cmd (verb : Nat) (w1 w2 w3 : W32) (f : Cmd → Cmd := id) : Cmd :=
  f { verb := verb, w1 := w1, w2 := w2, w3 := w3, word0 := 0, hnd := 0, pc := 0x20, done := 0, chan := 0, sb := 0, rm := 0, sat := false, scales := Vector.replicate 8 0x7F, dkey := 0, draw := 0, unit := 0,
      flags := 0, stalled := false, note := 0, internal := false, ctx := 0, orphan := false, waits := none, lane := 0, begun := false, desc := [], after := [], iter := 0, index := 0, bodyNote := 0, buf := [] }

/-- Commands in an engine's queue. -/
def queued (e : Engine) (l : List Cmd) (s : State := boarded) : State := s.onCell (Cell.putEngine e ⟨l, []⟩)

/-- Each clause of EngineCommandsAccepted: words as they stand, taken from registers and from one register in a pair; no slot, one with room and one that is full; a unit with room and a full one. -/
theorem witness_EngineCommandsAccepted : CommandWords ⟨0, 3, 0, 0⟩ 1 2 3 1 2 3 boarded ∧ CommandWords ⟨0xC, 0, 0, 1⟩ 2 0 1 0x5566_7788 0x1122_3344 0x1_0000 boarded ∧ CommandWords ⟨7, 0, 0, 7⟩ 0 1 2 0 0x1_0000 0x5566_7788 boarded ∧
    (boarded.cell.acquiring = false ∧ boarded.cell.collecting = none ∧ boarded.cell.slot 1 < 63) ∧ (let s := boarded.onCell fun c => { c with sb := c.sb.set 7 63 }; 63 ≤ s.cell.slot 7) ∧
    (boarded.cell.mx.load 0 < 4 ∧ (queued .ch [cmd 0 0 0 0, cmd 0 0 0 0]).cell.ch.load 0 = 2 ∧ engineLimit .ch = some 2 ∧ engineLimit .gs = none) := by
  refine ⟨⟨⟨rfl, rfl⟩, rfl⟩, ⟨⟨0x1122_3344_5566_7788, by decide +kernel, by decide, by decide⟩, ⟨0x1_0000, by decide +kernel, by decide⟩⟩, ⟨⟨⟨0, by decide +kernel, by decide⟩, ⟨0x1_0000, by decide +kernel, by decide⟩⟩, ⟨0x1122_3344_5566_7788, by decide +kernel, by decide⟩⟩, ?_⟩
  decide +kernel
theorem test_command_accepted : facet (exec (.mxLd ⟨8, 1, 0, 3⟩ 2 0 7) boarded) (fun t => t.cell.mx.q.map (fun x => (x.verb, x.w1, x.w2, x.w3, x.done, x.sb)) = [(0, 0x5566_7788, 0x1122_3344, 7, 1, 3)] ∧ t.cell.pc = 16 ∧ t.cell.slot 3 = 1) ∧
    facet (exec (.chRun ⟨0, 0, 0, 0⟩ 0 0 0) (queued .ch [cmd 0 0 0 0, cmd 0 0 0 0])) (fun t => t.cell.hold = some (.expiring (.queue .ch)) ∧ t.cell.pc = 0) ∧
    facet (exec (.gsArm ⟨0, 0, 0, 7⟩ 5 0 0) (boarded.onCell fun c => { c with sb := c.sb.set 7 63 })) (fun t => t.cell.hold = some .staying) := by decide +kernel

/-- Each clause of EngineUnits: a command that moves; the four ways to report; a rectangle of one entry and of the whole store, with rows that are poisoned and not; a section that is armed and one that is not; a held token with room; a loop. -/
theorem witness_EngineUnits : (let x := cmd 4 0 0 0; let s := queued .mx [x]; s.cell.mx.q = [x] ∧ x.stalled = false ∧ x.after.any s.cell.flying = false ∧ s.cell.stopped = false ∧ s.active s.cell = true ∧
      settle .mx 0 x (runEngine .mx x s) ≠ s) ∧
    (let c := (queued .mx [cmd 4 0 0 0 fun x => { x with done := 2, chan := 5 }]).cell; c.mx.q.map (fun x => (x.internal, x.done)) = [(false, 2)] ∧ c.tokenRoom .mx 5 = false) ∧
    (let x := cmd 4 0x01FC_07F0 0 0; mxOk x = true ∧ boarded.cell.tokenChannel x = true ∧ mxOk (cmd 4 0 0 0) = true) ∧
    (let x := cmd 8 0x1_FFFC 0 0; mxOk x = true ∧ (rectOf x.w2).any (fun e => boarded.cell.poisonedRow e.1) = false ∧ (rectOf x.w2).any (fun e => (boarded.cell.markRows true [0]).poisonedRow e.1) = true) := by decide +kernel
theorem witness_sequencer : (let x := cmd 0 5 0x7_0707 0; gsTarget x boarded = some 0b111_000111 ∧ boarded.cell.tokenChannel x = true ∧ gsSec x = 7) ∧
    (gsTarget (cmd 1 0 0 0) boarded = some 0 ∧ ((boarded.cellAt 0).sectionAt 0).count = 0 ∧ (boarded.cellAt 0).looping 0 = false ∧ ((boarded.onCell (Cell.arm 0 3)).cell.sectionAt 0).count ≠ 0) ∧
    (let s := boarded.onCell (Cell.putEngine .mx ⟨[], [⟨4, 9, 0, 0, 0⟩]⟩); ((s.cellAt 0).engine .mx).held = [⟨4, 9, 0, 0, 0⟩] ∧ ((s.cellAt 0).chanAt 4).room = true ∧ (s.cellAt 0).stopped = false) ∧
    (let l := cmd 9 0 3 0 fun x => { x with begun := true }; let s := (queued .mx [l]).onCell (Cell.arm 3 2); (s.cellAt 0).mx.q = [l] ∧ s.active (s.cellAt 0) = true ∧ loopSec l = 3 ∧
      ((s.cellAt 0).sectionAt (loopSec l)).count ≠ 0) := by decide +kernel

/-- A walk over the string whose next header stands at 0x1_0000, with the pages it holds. -/
def walking (pages : List Page) (hdr : List Word) : State :=
  (boarded.onPkg (Package.write 0x2_0000 (hdr.flatMap fun w => bytesOf 8 w.toNat))).onCell
    (Cell.putWalk 1 (some { auto := false, pair := false, cap := 8, hd := 64, kf := 12, vf := 12, low := 0, faddr := 0, ftabDue := false, ftab := [], index := 0, next := 0x1_0000, pages := pages, posted := [] }))

/-- A page of the lookahead whose tier is 1. -/
def page : Page := { hdr := 0x1_0000, next := 0, tier := 1, tcount := 1, posBase := 0, data := 0, far := 0, sketch := 0, index := 0, err := 0, stale := false }

/-- The two clauses on walkers: a page to read, and one whose tier is read again. -/
theorem witness_walkers : (let s := walking [page] [0x1_0040, 0x8_0000_0010, 0x1_0080, 0, 0, 0, 0, 0]; s.cell.stopped = false ∧ s.active s.cell = true ∧
      (s.cell.walkAt 1).map (fun w => (w.following, w.pages.length, (w.pages.filter fun p => !p.stale && p.tier != 0 && p.err == 0))) = some (some (0x1_0000, 1), 1, [page]) ∧
      (match readHeader .kv 8 0x1_0000 1 s with | .ok p _ => p.next == 0x1_0040 && p.tcount == 8 && p.posBase == 16 | _ => false) = true ∧ (match readTier page.hdr s with | .ok t _ => t == 0 | _ => false) = true) := by decide +kernel
theorem test_walkers : facet (exec (.lookaheadFill 0 1) (walking [page] [0x1_0040, 0x8_0000_0010, 0x1_0080, 0, 0, 0, 0, 0])) (fun t => (t.cell.walkAt 1).map (fun w => (w.next, w.pages.map Page.tcount)) = some (0x1_0040, [1, 8])) ∧
    facet (exec (.tierPoll 0 1) (walking [page] [0x1_0040, 0x8_0000_0010, 0x1_0080, 0, 0, 0, 0, 0])) (fun t => (t.cell.walkAt 1).map (fun w => w.pages.map Page.tier) = some [0]) := by decide +kernel
theorem test_mx_units : facet (exec (.engineCompletion 0 .mx) ((queued .mx [cmd 4 0 0 0 fun x => { x with sb := 2, done := 3, chan := 1 }]).onCell fun c => { c.putAcc 0 0 9 with sb := c.sb.set 2 1 }))
      (fun t => t.cell.accAt 0 0 = 0 ∧ t.cell.mx.q = [] ∧ t.cell.slot 2 = 0 ∧ t.cell.k.ecnt[1] = 1) ∧
    facet (exec (.engineCompletion 0 .mx) ((queued .mx [cmd 8 0x100 0 0 fun x => { x with done := 2, chan := 4 }]).onCell (Cell.putAcc 0 0 0x1234))) (fun t => t.cell.load 0x100 4 = [0x34, 0x12, 0, 0] ∧ (t.cell.chanAt 4).pkts.map Packet.lanes = [[8]]) ∧
    facet (exec (.engineCompletion 0 .mx) ((queued .mx [cmd 8 0x100 0 0]).onCell (Cell.markRows true [0]))) (fun t => t.cell.fault.map (fun f => (f.code, f.src, f.pc, f.aux1)) = some (cUNCORRECTABLE, 2, 0x20, 0x100)) := by decide +kernel
/-- 1 + 2^−8 rounds to BF16 with SR: up where the 16 bits of R273 and R195 are at least 0x8000. The bits are those of the published generator at the counters {0x2000_0000, 0, 5, col} and {0x4000_0000, 0, 0, k} under key 0. -/
theorem test_engine_dice : facet (exec (.engineCompletion 0 .mx) ((queued .mx [cmd 5 0x100 0x4000_0000 0x0A00_4C00]).onCell fun c => (List.range 32).foldl (fun c j => c.putAcc 5 j 0x3F80_8000) c))
      (fun t => (t.cell.load 0x100 16) = [0x81, 0x3F, 0x81, 0x3F, 0x81, 0x3F, 0x81, 0x3F, 0x80, 0x3F, 0x80, 0x3F, 0x81, 0x3F, 0x81, 0x3F]) ∧
    facet (exec (.engineCompletion 0 .ch) ((queued .ch [cmd 0 0 0 0 fun x => { x with begun := true, desc := [0x4000_0000_0000_0100, 0x4000_0000_0000_0200, 0, 0x1000_0908_0000_0008, 0, 0, 0, 0] }]).onCell fun c =>
        c.storeAt 0x100 ((List.replicate 8 [0x00, 0x80, 0x80, 0x3F]).flatten)))
      (fun t => (t.cell.load 0x200 16) = [0x81, 0x3F, 0x81, 0x3F, 0x81, 0x3F, 0x80, 0x3F, 0x81, 0x3F, 0x80, 0x3F, 0x81, 0x3F, 0x80, 0x3F]) := by decide +kernel
theorem test_sequencer : facet (exec (.engineCompletion 0 .gs) (queued .gs [cmd 0 5 2 0])) (fun t => (t.cell.sectionAt 2).count = 5 ∧ t.cell.gs.q = []) ∧
    facet (exec (.loopTake 0) ((queued .mx [cmd 9 0 3 0 fun x => { x with begun := true }]).onCell (Cell.arm 3 2))) (fun t => t.cell.mx.q.map Cmd.note = [2] ∧ (t.cell.sectionAt 3).count = 0) ∧
    facet (exec (.completionTokenEntry 0 .mx) (boarded.onCell (Cell.putEngine .mx ⟨[], [⟨4, 9, 0, 1, 0⟩]⟩))) (fun t => (t.cell.chanAt 4).pkts.map Packet.lanes = [[9]] ∧ t.cell.k.fflags = 1 ∧ t.cell.mx.held = []) := by decide +kernel

/-! ### The link -/

/-- Package 0 with one live path, by port 5, to package 2, and none to package 3; `x8` names package 2, `x9` package 2 by path 1, `x10` package 3. -/
def linked : State :=
  withX 8 2 (withX 9 0x502 (withX 10 3 (boarded.onPkg (Package.onPeer 2 fun P => { P with ports := P.ports.set 0 (some 5), live := P.live.set 0 true }))))

/-- Each clause of RemoteLoadsAndStores: the sizes, the last bytes of a cell of another package, an address in no form, a word with a reserved bit; a peer that requests reach, and one that is cut off; data of a register, a packet and a line. -/
theorem witness_RemoteLoadsAndStores : (linked.HasX 1 0x1_0000 ∧ linked.HasX 8 2 ∧ linked.cell.acquiring = false ∧ linked.Reaches 2 ∧ linked.cell.buffers < 32 ∧ linked.FreeX 3 ∧ linked.FreeV 3 ∧ linked.pkg.cutOff 3 = true) ∧
    (remoteForm 0x1_0000 128 ≠ .none ∧ remoteForm 0x4000_0000_7FFF_FFF8 8 = .cell 0x3FFF 0x1_FFF8 ∧ remoteForm 0x0100_0000_0000_0000 1 = .none ∧ (0x1_0001 : Word).toNat % remoteSize 1 ≠ 0 ∧ (0x802 : Word).extractLsb' 11 53 ≠ 0) ∧
    (linked.HasX 5 0x4000_0000_0000_0100 ∧ (0x4000_0000_0000_0100 : Word).toNat % 128 = 0 ∧ regionOf 0x4000_0000_0000_0100 = .cell 0x100 ∧ linked.cell.cellPending = false ∧ remoteSize 5 = 128) ∧
    (linked.HasX 2 0x1122_3344_5566_7788 ∧ linked.HasV 3 (linked.cell.vreg 3) ∧ (0x1_0000 : Word).toNat % 2 ^ (3#2).toNat = 0) := by decide +kernel
theorem test_rld : facet (exec (.rld 3 1 8 true 1) linked) (fun t => (t.cell.xreg 3).st = .pending ∧ (t.pkg.peer 2).out.map (fun o => (o.req.op, o.req.seq, o.path, o.write)) = [(.load 0x1_0000 2, 0, some 0, false)] ∧ t.pkg.outbox.length = 1) ∧
    facet (exec (.rld 3 1 10 true 1) linked) (fun t => t.cell.fault.map (fun f => (f.code, f.info)) = some (cPEER_FAIL, 3)) ∧ facet (exec (.rld 3 2 8 false 3) (withX 2 4 linked)) (fun t => t.cell.fault.map FaultRec.code = some cMISALIGNED) := by decide +kernel
/-- The S of the tag counts a write and is sent with the next flag; a path that is not there gives path 0 (R353, R358, R359). -/
theorem test_rst : facet (exec (.rst 2 1 9 1) linked) (fun t => (t.pkg.peer 2).s.toList = [1, 0, 0, 0] ∧ (t.pkg.peer 2).out.map (fun o => (o.req.op, o.req.tag)) = [(.store 0x1_0000 [0x88, 0x77] [], 0)] ∧ t.cell.pc = 4 ∧
      facet (exec (.rstO 0 1 8 2) t) (fun u => (u.pkg.peer 2).out.map (fun o => o.req.op) = [.store 0x1_0000 [0x88, 0x77] [], .flag 0x1_0000 [0, 0, 0, 0] [1, 0, 0, 0]])) ∧
    facet (exec (.rst 2 1 10 3) linked) (fun t => t.cell.failedTo = [3] ∧ t.cell.pc = 4 ∧ (t.pkg.peer 3).out = []) := by decide +kernel

/-- A group 7 of packages 0 and 2, at home on package 2, of four BF16 elements, and on package 0. -/
def grouped (home : Byte := 2) (f : Group → Group := id) : State :=
  linked.onPkg fun p => { p with groups := [f { ctx := 0, g := 7, members := [0, 2], home := home, gto := 9, count := 3, multicast := false, outF32 := false, inF32 := false, dst := 0x1_0080, round := 0, mine := 0, contribs := [], closed := [] }] }

/-- The descriptor of that group at a cell-store address 0x100 (R365). -/
def descriptor : List Byte := [0, 2] ++ List.replicate 62 0 ++ bytesOf 8 0x9_0006_0102 ++ bytesOf 8 0x1_0080 ++ List.replicate 48 0

/-- Each clause of RemoteAtomicsFencesAndGroups: a recipe that returns and one that does not, off its alignment; a fence with nothing and with a write to wait for, failed peers; a contribution from the cell store and from memory. -/
theorem witness_RemoteAtomicsFencesAndGroups : (linked.HasX 2 0x1122_3344_5566_7788 ∧ linked.HasX (2 + 1) 0 ∧ linked.cell.releaseSet = [] ∧ (recipeBytes 0 0 false linked.pkg).getD 1 = 8 ∧ (0x1_0004 : Word).toNat % 8 ≠ 0) ∧
    (linked.cell.pend = .none ∧ linked.writesOf = [] ∧ linked.FreeX 3 ∧ (linked.onCell (Cell.failedWrite 3)).cell.failedTo = [3] ∧ linked.cell.cur ≠ none) ∧
    facet (exec (.rst 2 1 8 1) linked) (fun t => t.writesOf = [(2, 0)] ∧ t.cell.pend = .none ∧ t.cell.acquiring = false ∧ t.FreeX 3) ∧
    (let s := withX 9 7 grouped; s.HasX 9 ((7 : Byte).setWidth 64) ∧ (s.pkg.group 0 7).map (fun x => (x.home, x.bytes)) = some (2, 8) ∧ s.HasX 5 0x4000_0000_0000_0100 ∧ region 0x4000_0000_0000_0100 8 = .cell 0x100 ∧
      s.cell.damagedAt 0x100 8 = false ∧ s.cell.cellPending = false ∧ region 0x1_0000 8 = .global ∧ readVirtual 0 0x1_0000 8 s.pkg = (.ok (List.replicate 8 0, false), s.pkg) ∧ s.Reaches 2) := by decide +kernel
/-- The clauses on `grp.set`: no group to remove, one that is there; a descriptor off its alignment, one that is refused and one that installs, in the cell store and in memory. -/
theorem witness_grp_set : (linked.pkg.group 0 7 = none ∧ (grouped.pkg.group 0 7).map Group.contribs = some [] ∧ linked.cell.k.lvl = true ∧ paged.cell.k.lvl = false ∧ linked.cell.inflight = [] ∧ (0x107 : Word).getLsbD 8 = true ∧
      (0x107 : Word).extractLsb' 9 55 = 0 ∧ (0x7 : Word).getLsbD 8 = false ∧ (0x1_0040 : Word).toNat % 128 ≠ 0) ∧
    (let s := linked.onCell (Cell.storeAt 0x100 descriptor); s.cell.load 0x100 128 = descriptor ∧ region 0x4000_0000_0000_0100 128 = .cell 0x100 ∧ installStatus (groupFrom 0 7 descriptor) descriptor s.pkg = 0 ∧ s.pkg.early = [] ∧
      installStatus (groupFrom 0 7 (descriptor.set 1 0)) (descriptor.set 1 0) s.pkg = cCONFIG_CHECK) ∧
    (let s := linked.onPkg (Package.write 0x2_0000 descriptor); region 0x1_0000 128 = .global ∧ readVirtual 0 0x1_0000 128 s.pkg = (.ok (descriptor, false), s.pkg)) := by decide +kernel
theorem test_grp_set : facet (exec (.grpSet 3 8 5) (withX 8 0x107 (linked.onCell (Cell.storeAt 0x100 descriptor)))) (fun t => t.pkg.groups.map (fun x => (x.members, x.home, x.gto, x.count, x.bytes, x.dst)) = [([0, 2], 2, 9, 3, 8, 0x1_0080)] ∧ t.cell.xreg 3 = ⟨0, .full⟩) ∧
    facet (exec (.grpSet 3 8 5) (withX 8 7 linked)) (fun t => t.cell.inflight.map Access.op = [.value (cACCESS.setWidth 64) 0]) ∧ facet (exec (.grpSet 3 8 5) (withX 8 7 grouped)) (fun t => t.pkg.groups = []) ∧ facet (exec (.grpSet 3 8 5) (withX 8 7 (grouped 0))) (fun t => t.pkg.removed = [(0, 7)]) := by decide +kernel
theorem test_mcred_ramo : facet (exec (.mcred 3 5 9) (withX 9 7 (grouped.onCell (Cell.storeAt 0x100 [1, 2, 3, 4, 5, 6, 7, 8])))) (fun t => (t.pkg.peer 2).out.map (fun o => o.req.op) = [.contrib 7 0 [1, 2, 3, 4, 5, 6, 7, 8]] ∧ (t.pkg.group 0 7).map Group.mine = some 1) ∧
    facet (exec (.ramo 2 1 8 false true 0) linked) (fun t => (t.cell.xreg 2).st = .pending ∧ (t.pkg.peer 2).out.map (fun o => o.req.op) = [.recipe 0x1_0000 0 false true 0x1122_3344_5566_7788 0 0 false] ∧ t.cell.acquiring) := by decide +kernel
/-- The status of a fence names the lowest failed peer (R371). -/
theorem test_rfence : facet (exec (.rfence 3) (linked.onCell fun c => (c.failedWrite 9).failedWrite 3)) (fun t => t.cell.xreg 3 = ⟨0x3_0000 / 0x100 + cPEER_FAIL.setWidth 64, .full⟩ ∧ t.cell.pc = 4) ∧
    facet (exec (.rst 2 1 8 1) linked) (fun t => facet (exec (.rfence 3) t) (fun u => u.cell.hold = some (.expiring .covered) ∧ u.cell.pend = .rfence [(2, 0)] [] ∧ u.cell.pc = 4)) := by decide +kernel

/-! ### Conversations and the trust domain -/

/-- A protocol of two roles and one turn: in state 0 role 0 says kind 3 to role 1, which leads to state 1 (R380). -/
def protocol : List Word := [0x1_0001, 0x1008_1800]

/-- `x11`, a conversation word: role 0, kind 3, home 2, entry 5; `x12`, the same conversation at a home that is cut off; `x13`, an endpoint (package 2, cell 3, channel 6); the protocol at 0x100 of the cell store; channel 5 is fit to be an endpoint. -/
def talking (l : List Packet := []) : State :=
  ((withX 11 0x30_2005 (withX 12 0x30_3005 (withX 13 0x100_0066 linked))).onCell (Cell.storeAt 0x100 (protocol.flatMap fun w => bytesOf 8 w.toNat))).onCell
    (Cell.onChan 5 fun C => { C with en := true, depth := 4, pkts := l })

/-- A message of entry 5, and one that is a choice. -/
def message (h : W32) : Packet := pk [h, 9]

/-- Each clause of ConversationRequestsAndMessages: an image in the cell store, in memory and nowhere; a home that requests reach and one cut off; an endpoint channel that is fit and one that is not, empty, with a message of the conversation, plain and a choice, and with one of another. -/
theorem witness_ConversationRequestsAndMessages : (talking.HasX 8 2 ∧ talking.HasX 5 0x4000_0000_0000_0100 ∧ (0x4000_0000_0000_0100 : Word).toNat % 64 = 0 ∧ talking.cell.cellPending = false ∧ region 0x4000_0000_0000_0100 16 = .cell 0x100 ∧
      ofBytes (talking.cell.load 0x100 8) % 2048 = 1 ∧ talking.cell.damagedAt 0x100 16 = false ∧ talking.cell.acquiring = false ∧ talking.FreeX 3 ∧ talking.Reaches 2 ∧ talking.cell.buffers < 32 ∧ talking.pkg.cutOff 3 = true ∧ talking.HasX 10 3) ∧
    (let s := talking.onPkg (Package.write 0x2_0000 (protocol.flatMap fun w => bytesOf 8 w.toNat)); readVirtual 0 0x1_0000 8 s.pkg = (.ok (bytesOf 8 0x1_0001, false), s.pkg) ∧ region 0x1_0000 16 = .global ∧
      readVirtual 0 0x1_0000 16 s.pkg = (.ok (protocol.flatMap (fun w => bytesOf 8 w.toNat), false), s.pkg) ∧ region 0x3000_0000_0000_0000 8 = .none) ∧
    (talking.HasX 11 0x30_2005 ∧ cvHome 0x30_2005 = 2 ∧ cvHome 0x30_3005 = 3 ∧ (talking.cell.chanAt 5).fit = true ∧ (talking.cell.chanAt 4).fit = false ∧ (5 : Word).extractLsb' 5 59 = 0 ∧ (talking.cell.chanAt 5).pkts = []) ∧
    (let s := talking [message 0x5, message 0x4000_0005]; (s.cell.chanAt 5).pkts = [message 0x5, message 0x4000_0005] ∧ (message 5).psn = false ∧ ((message 5).lanes.headD 0).extractLsb' 0 12 = cvEntry 0x30_2005 ∧ s.FreeV 3 ∧ s.FreeX 3 ∧
      ((message 0x4000_0005).lanes.headD 0).getLsbD 30 = true ∧ ((message 6).lanes.headD 0).extractLsb' 0 12 ≠ cvEntry 0x30_2005) := by decide +kernel
theorem test_cv_requests : facet (exec (.cvOpen 3 8 5) talking) (fun t => (t.pkg.peer 2).out.map (fun o => o.req.op) = [.convOpen (some protocol)] ∧ (t.cell.xreg 3).st = .pending) ∧
    facet (exec (.cvBind 3 11 14) (withX 14 5 talking)) (fun t => (t.pkg.peer 2).out.map (fun o => o.req.op) = [.convBind 0x30_2005 5 4]) ∧ facet (exec (.cvBind 3 11 14) (withX 14 4 talking)) (fun t => t.cell.fault.map (fun f => (f.code, f.detail)) = some (cCHANNEL_FORMAT, 4)) ∧
    facet (exec (.cvState 3 12 0) talking) (fun t => t.cell.inflight.map Access.op = [.value 0x8000_0000_0000_0300 0]) ∧ facet (exec (.cvState 3 11 8) talking) (fun t => (t.pkg.peer 2).out.map (fun o => o.req.op) = [.convState 0x30_2005 (some 2)]) := by decide +kernel
theorem test_cv_messages : facet (exec (.cvRecv 3 11 5 1) (talking [message 0x8000_0005])) (fun t => t.cell.inflight.map (fun a => (a.op, a.dst)) = [(.packet [0x8000_0005, 9], .v 3)] ∧ !t.cell.pred 1 ∧ (t.cell.chanAt 5).pkts = []) ∧
    facet (exec (.cvOffer 3 11 5) (talking [message 0x4000_0005])) (fun t => t.cell.inflight.map (fun a => (a.op, a.dst)) = [(.value 0x4000_0005 0, .x 3)]) ∧
    facet (exec (.cvOffer 3 11 5) (talking [message 5])) (fun t => t.cell.fault.map FaultRec.code = some cCHANNEL_FORMAT) ∧ facet (exec (.cvRecv 3 11 5 0) talking) (fun t => (t.cell.handler 0).key = some (.turn 0x30_2005)) := by decide +kernel

/-- A cell whose handler 0 has what a conversation instruction left in its entry. -/
def pending (p : Pend) (s : State := talking) : State := withXState 3 .pending (s.onCell (Cell.setPend p))

/-- Each clause of ConversationTurns: each verdict, with a vector that is enabled; a first issue, of a packet with seven and with eight lanes; a trap handler. -/
theorem witness_ConversationTurns : (let s := withK (fun k => { k with tven := true, vec := 0x100 }) (pending (.verdict .accepted 0x30_2005 true)); s.cell.pend = .verdict .accepted 0x30_2005 true ∧ s.cell.k.tven = true ∧ s.cell.k.t = false ∧
      s.cell.fault = none) ∧ ((pending (.verdict (.turn 7) 0x30_2005 true)).cell.pend = .verdict (.turn 7) 0x30_2005 true ∧ (pending (.verdict .broken 0 false)).cell.pend = .verdict .broken 0 false ∧ (pending (.verdict .role 0 false)).cell.pend = .verdict .role 0 false) ∧
    (let s := withV 1 [1, 2, 3, 4, 5, 6, 7] (withV 2 [1, 2, 3, 4, 5, 6, 7, 8] talking); s.cell.pend = .none ∧ s.cell.cur ≠ none ∧ s.HasX 11 0x30_2005 ∧ s.cell.k.t = false ∧ s.cell.acquiring = false ∧ s.FreeX 3 ∧ s.Reaches (cvHome 0x30_2005) ∧
      s.HasV 1 (s.cell.vreg 1) ∧ (s.cell.vreg 1).length = 7 ∧ (s.cell.vreg 2).length = 8 ∧ s.HasV 2 (s.cell.vreg 2) ∧ s.cell.releaseSet.any s.cell.flying = false ∧ s.HasX 13 0x100_0066 ∧ (0x100_0066 : Word).extractLsb' 27 37 = 0) ∧
    (let s := withK (fun k => { k with t := true }) talking; s.cell.k.t = true ∧ s.cell.pend = .none) := by decide +kernel
theorem test_cv_turns : facet (exec (.cvSend 3 11 1) (withV 1 [7, 8] talking)) (fun t => (t.pkg.peer 2).out.map (fun o => o.req.op) = [.convTurn 0x30_2005 false [7, 8]] ∧ (t.cell.handler 0).key = some (.turn 0x30_2005) ∧ (t.cell.handler 0).pend = .request 2 0 0 0x30_2005 true) ∧
    facet (exec (.cvChoose 3 11) (pending (.verdict .accepted 0x30_2005 true))) (fun t => t.cell.xreg 3 = ⟨0, .full⟩ ∧ t.cell.pc = 4 ∧ t.cell.pend = .none) ∧
    facet (exec (.cvDeleg 3 11 13) talking) (fun t => (t.pkg.peer 2).out.map (fun o => o.req.op) = [.convDeleg 0x30_2005 0x100_0066]) ∧
    facet (exec (.cvClose 3 11) (pending (.verdict .role 0x30_2005 false))) (fun t => t.cell.fault.map FaultRec.code = some cCONV_ROLE ∧ (t.cell.xreg 3).st = .empty) := by decide +kernel
/-- CONV_TURN: DETAIL is the kind and INFO the state; the destination is as it was (R388). -/
theorem test_cv_turn_trap : facet (exec (.cvSend 3 11 1) (withK (fun k => { k with tven := true, vec := 0x100 }) (pending (.verdict (.turn 7) 0x30_2005 true)))) (fun t => t.cell.k.cause = 0x7_0003_0000 + cCONV_TURN.setWidth 64 ∧ t.cell.pc = 0x100 ∧ (t.cell.xreg 3).st = .full) := by
  decide +kernel

/-- A package with a pending membership of itself and package 2 in epoch 5. -/
def membership (f : Trust → Trust := id) : State := linked.onPkg fun p => { p with trust := f { p.trust with pending := some (5, 5), sessions := [(2, 77)] } }

/-- A write of this package to package 2 that is not acknowledged, of another cell. -/
def unacknowledged (w : Bool) (op : RemoteOp) : OutReq := ⟨⟨0, 0, 0, 9, 0, true, 0, op⟩, some 0, none, 0, 0, 0, w, false, 0, 0, false, false, none, none, none⟩

/-- Each clause of TrustDomainWords: a barrier that is done, an epoch that is not pending and one that is, while another cell's write is out; both levels. -/
theorem witness_TrustDomainWords : ((pending (.barrierDone 7)).cell.pend = .barrierDone 7 ∧ linked.cell.k.lvl = true ∧ paged.cell.k.lvl = false) ∧
    (let s := (withX 11 5 membership).onPkg (Package.onPeer 2 fun P => { P with out := [unacknowledged true (.store 0 [0] [])] }); s.cell.pend = .none ∧ s.HasX 11 5 ∧ s.cell.acquiring = false ∧ s.FreeX 3 ∧ (s.cell.fenceSet 2).any s.cell.flying = false ∧ s.writesOf = [] ∧
      s.pkg.trust.pending = some (5, 5) ∧ (5 : Word).setWidth 32 = ((5 : Word).setWidth 32 : W32) ∧ s.pkg.trust.barrier = none ∧ s.pkg.writesOut = true ∧ (s.pkg.othersOf 5).all (fun m => !(s.pkg.peer m).failed) = true ∧ s.pkg.othersOf 5 = [2] ∧ s.cell.cur ≠ none) ∧
    (linked.pkg.trust.pending = none) := by decide +kernel
theorem test_td : facet (exec (.tdBar 3 11) (withX 11 5 membership)) (fun t => t.cell.pend = .barrier 5 ∧ t.pkg.trust.barrier = some ⟨true⟩ ∧ t.pkg.outbox = [.barrier 2 true 4] ∧ t.cell.pc = 0) ∧
    facet (exec (.tdBar 3 11) (withX 11 6 membership)) (fun t => t.cell.xreg 3 = ⟨cDOMAIN_EPOCH.setWidth 64, .full⟩ ∧ t.cell.pc = 4) ∧ facet (exec (.tdBar 3 11) paged) (fun t => t.cell.fault.map FaultRec.code = some cPRIVILEGED) ∧
    facet (exec (.tdStat 3) (membership fun T => { T with td := true, mask := 7, epoch := 9, sealF := 2, epDrop := 3 })) (fun t => t.cell.xreg 3 = ⟨0x9_0302_0201, .full⟩) := by decide +kernel

/-! ### Requests, answers, groups and conversations -/

/-- A request of cell 9 of package 2, with sequence n. -/
def asks (op : RemoteOp) (n : BitVec 48 := 0) : RemoteReq := ⟨n, 0, 0, 9, 0, true, 5, op⟩

/-- The state in which a new request of package 2 is performed. -/
def taken (r : RemoteReq) (s : State := talking) : State := accept 2 r (s.onPkg fun p => { p with trust := { p.trust with ahead := p.trust.ahead.filter (· != (2, r)) } })

theorem takes_new (r : RemoteReq) (s : State) (h : (2 : Byte) ≠ s.pkg.number ∧ (s.pkg.peer 2).failed = false ∧ r.epoch = s.pkg.trust.epoch ∧ (s.pkg.trust.td = true → r.sealed = true ∧ s.pkg.trust.mask.getLsbD (2 : Byte).toNat = true) ∧
    (s.pkg.peer 2).belowWindow r.seq = false ∧ r.seq ∉ (s.pkg.peer 2).seen) : s.TakesNew 2 r (taken r s) := .inr ⟨h.1, h.2.1, h.2.2.1, h.2.2.2.1, h.2.2.2.2.1, h.2.2.2.2.2, rfl⟩

/-- Each clause of RequestsAtTheTarget: a new request, inside a trust domain and out of one; a load and a store of a cell and of memory, at the first and the last bytes of the cell store; a flag that the counts cover and one that waits; a duplicate of a store. -/
theorem witness_RequestsAtTheTarget : talking.TakesNew 2 (asks (.load 0x1_0000 8)) (taken (asks (.load 0x1_0000 8))) ∧
    (talking.onPkg fun p => { p with trust := { p.trust with td := true, mask := 5 } }).TakesNew 2 (asks (.load 0x1_0000 8)) (taken (asks (.load 0x1_0000 8)) (talking.onPkg fun p => { p with trust := { p.trust with td := true, mask := 5 } })) ∧
    ((2 : Byte) ≠ talking.pkg.number ∧ talking.pkg.skidRun = [] ∧ remoteForm 0x4000_0000_0000_0000 8 = .cell 0 0 ∧ remoteForm 0x4000_0000_0001_FFF8 8 = .cell 0 0x1_FFF8 ∧ talking.onBoardOf 0 0 = true ∧ talking.onBoardOf 0 0x3FFF = false ∧
      remoteForm 0x4000_0000_7FFE_0000 8 = .cell 0x3FFF 0) ∧
    (remoteForm 0x1_0000 8 = .global ∧ readVirtual 0 0x1_0000 8 talking.pkg = (.ok (List.replicate 8 0, false), talking.pkg) ∧ storeVirtual 0 0x1_0000 [1, 2] talking.pkg = (.ok (), talking.pkg.write 0x2_0000 [1, 2]) ∧
      placeRange false true 0 0x1_0000 2 (talking.pkg.write 0x2_0000 [1, 2]) = (.ok [(0x2_0000, 2)], talking.pkg.write 0x2_0000 [1, 2])) ∧
    ((talking.pkg.peer 2).covers [0, 0, 0, 0] = true ∧ (talking.pkg.peer 2).covers [0, 0, 0, 1] = false) ∧
    (let s := talking.onPkg (Package.onPeer 2 fun P => { P with seen := [0], top := some 0 }); (s.pkg.peer 2).belowWindow 0 = false ∧ (0 : BitVec 48) ∈ (s.pkg.peer 2).seen ∧ s.pkg.stillHeld 2 0 = false ∧ (s.pkg.peer 2).results = [] ∧
      (s.pkg.peer 2).refusals = [] ∧ s.pkg.trust.barrier = none ∧ s.pkg.trust.td = false) ∧
    (let r := asks (.flag 0x1_0000 [7] [1, 0, 0, 0]); let s := talking.onPkg (Package.onPeer 2 fun P => { P with held := [r] }); (s.pkg.peer 2).held.find? (fun r => r.seq == 0) = some r) :=
  ⟨takes_new _ _ (by decide +kernel), takes_new _ _ (by decide +kernel), by decide +kernel⟩
theorem test_request_arrival : facet (exec (.remoteRequestArrival 2 (asks (.load 0x4000_0000_0000_0104 4))) (talking.onCell (Cell.storeAt 0x104 [1, 2, 3, 4]))) (fun t => t.pkg.outbox = [.answer 2 0 (.bytes [1, 2, 3, 4] false)] ∧ (t.pkg.peer 2).seen = [0]) ∧
    facet (exec (.remoteRequestArrival 2 (asks (.store 0x1_0000 [7, 8] []))) talking) (fun t => t.pkg.read 0x2_0000 2 = [7, 8] ∧ t.pkg.outbox = [.acknowledge 2 0 false] ∧ (t.pkg.peer 2).q.toList = [1, 0, 0, 0]) ∧
    facet (exec (.remoteRequestArrival 2 (asks (.store 0x4000_0000_7FFE_0000 [7, 8] []))) talking) (fun t => t.pkg.outbox = [.refusal 2 0 false]) := by decide +kernel
/-- A flag waits for the counts, sets words full, and is performed when they cover it (R359). -/
theorem test_flag : facet (exec (.remoteRequestArrival 2 (asks (.flag 0x4000_0000_0000_0104 [7, 0, 0, 0] [1, 0, 0, 0]))) (talking.onCell (Cell.emptyWord 0x104))) (fun t => t.pkg.outbox = [.holdNotice 2 0] ∧ !t.cell.wordFull 0x104 ∧
    answers (exec (.orderedFlagRelease 2 0) t) t ∧
    facet (exec (.orderedFlagRelease 2 0) (t.onPkg (Package.onPeer 2 fun P => { P with q := P.q.set 0 1 }))) (fun u => u.cell.wordFull 0x104 ∧ u.cell.load 0x104 4 = [7, 0, 0, 0] ∧ (u.pkg.peer 2).held = [] ∧ u.pkg.outbox.length = 2)) := by decide +kernel

/-- A state with one request of the cell in focus out to package 2, which completes access 3. -/
def waiting (w : Bool) (op : RemoteOp) (dst : Dst) (f : OutReq → OutReq := id) : State :=
  (talking.onPkg (Package.onPeer 2 fun P => { P with out := [f ⟨⟨0, 0, 0, 0, 0, true, 0, op⟩, some 0, if w then none else some 3, 0, 0x10, 0x77, w, false, 0, 0, false, false, none, none, none⟩], nextSeq := 1 })).onCell fun c =>
    if w then c else { c with inflight := [⟨3, 0, 0x10, 0x400, .await, dst, 0x1_0000, .none, 7, 0, [], false, false, true, false⟩], nextId := 4 }

/-- Each clause of AnswersAndLinkEvents on what comes back: a write and a load in flight, into either file, noticed or not; a live path to resend on. -/
theorem witness_AnswersAndLinkEvents : (let s := waiting true (.store 0x1_0000 [7] []) .none; (s.pkg.outReq 2 0).isSome = true ∧ (2 : Byte) ≠ s.pkg.number ∧ s.pkg.trust.barrier = none ∧ ((s.onCell (Cell.setPend (.rfence [(2, 0)] []))).cell.handler 0).pend = .rfence [(2, 0)] []) ∧
    (let s := waiting false (.load 0x1_0000 8) (.x 3); (s.pkg.outReq 2 0).map (fun o => (o.write, o.gone, o.engine)) = some (false, false, false) ∧ (s.pkg.outReq 2 0).map (fun o => (o.req.cell, o.access, o.noticed)) = some (s.here, some 3, false) ∧ s.cell.fault = none ∧
      (s.cell.inflight.find? (·.id == 3)).map (fun a => (a.op, a.dst)) = some (.await, .x 3) ∧ s.pkg.livePath 2 1 = some 0 ∧ s.pkg.trust.td = false) ∧
    (let s := waiting false (.load 0x1_0000 32) (.v 3) fun o => { o with noticed := true }; (s.pkg.outReq 2 0).map OutReq.noticed = some true ∧ (s.cell.inflight.find? (·.id == 3)).map Access.dst = some (.v 3)) := ⟨by decide +kernel, by decide +kernel, by decide +kernel⟩
/-- The clauses on paths, runs, failures and the doorbell. -/
theorem witness_links : (talking.pkg.pathLive 2 0 = true ∧ talking.pkg.pathLive 2 1 = false ∧ (talking.pkg.peer 2).ports.toList.getD 0 none = some 5) ∧
    ((let s := talking.onPkg fun p => { p with runs := [(5, 3)] }; aget s.pkg.runs (5 : BitVec 5).toNat = some 3) ∧ aget talking.pkg.runs 5 = none ∧ talking.pkg.skid = false ∧ talking.pkg.skidRun = []) ∧
    (let s := talking.onPkg fun p => { p with skid := true, skidRun := [⟨2, 0, 5, 0, [(none, 0x2_0000, 8)], some (.acknowledge 2 0 false), false, false⟩] }; s.pkg.skidRun.map (fun e => (e.msg, some e.port)) = [(some (.acknowledge 2 0 false), some 5)]) ∧
    ((waiting true (.store 0 [7] []) .none).pkg.peer 2).out ≠ [] ∧ (let s := talking.onPkg (Package.onPeer 2 fun P => { P with live := Vector.replicate 4 false }); s.pkg.pathCount 2 ≠ 0 ∧ s.pkg.livePath 2 0 = none) ∧ (talking.pkg.peer 2).out = [] ∧
    ((boarded.pkg.groups.filter fun x : Group => x.ctx == 0) = [] ∧ boarded.pkg.peers = [] ∧ boarded.pkg.trust.barrier = none) := by decide +kernel
theorem test_answers : facet (exec (.remoteReply 2 ⟨0, true, 0⟩ (.bytes [0x34, 0x92] false)) (waiting false (.load 0x1_0000 2) (.x 3))) (fun t => t.cell.xreg 3 = ⟨0x9234, .full⟩ ∧ t.pkg.outReq 2 0 = none) ∧
    facet (exec (.remoteAcknowledgement 2 ⟨0, true, 0⟩ false) ((waiting true (.store 0 [7] []) .none).onCell (Cell.setPend (.rfence [(2, 0)] [])))) (fun t => t.cell.pend = .rfence [] [] ∧ (t.pkg.peer 2).out = []) ∧
    facet (exec (.remoteRequestRefusal 2 ⟨0, true, 0⟩ false) (waiting false (.load 0x1_0000 2) (.x 3))) (fun t => t.cell.fault.map (fun f => (f.code, f.pc, f.word, f.info)) = some (cACCESS, 0x10, 0x77, 0x1_0000)) := by decide +kernel
theorem test_resend : facet (exec (.resendTimeout 2 0) (waiting true (.store 0 [7] []) .none)) (fun t => t.pkg.outbox.length = 1) ∧ facet (exec (.holdNotice 2 ⟨0, true, 0⟩) (waiting true (.store 0 [7] []) .none)) (fun t => facet (exec (.resendTimeout 2 0) t) (fun u => u.pkg.outbox = [])) ∧
    facet (exec (.negativeNotice 2 ⟨⟨0, true, 0⟩, false⟩) (waiting true (.store 0 [7] []) .none)) (fun t => t.pkg.outbox.length = 1) := by decide +kernel
theorem test_links : facet (exec (.linkDown 5) talking) (fun t => !t.pkg.pathLive 2 0 ∧ t.pkg.outbox = [.pathDown 5]) ∧ facet (exec (.pathDownNotice (2, 0) []) talking) (fun t => !t.pkg.pathLive 2 0) ∧
    facet (exec (.runEnd 5) (talking.onPkg fun p => { p with runs := [(5, 3)] })) (fun t => t.pkg.runs = [] ∧ t.pkg.outbox = [.runTag 5 .crc64]) ∧ facet (exec (.linkRunTag 5 false) talking) (fun t => t.pkg.outbox = [.runRefused 5]) ∧
    facet (exec (.linkRunTag 5 false) (talking.onPkg fun p => { p with skid := true, skidRun := [⟨2, 0, 5, 0, [(none, 0x2_0000, 8)], some (.acknowledge 2 0 false), false, false⟩] })) (fun t => t.pkg.damaged 0x2_0000 8 ∧ t.pkg.outbox = [.acknowledge 2 0 true]) := by decide +kernel
theorem test_peer_failure : facet (exec (.peerFailure 2 0) (waiting true (.store 0 [7] []) .none)) (fun t => (t.pkg.peer 2).failed ∧ t.cell.failedTo = [2] ∧ (t.pkg.peer 2).out = []) ∧
    facet (exec (.peerFailure 2 0) (waiting false (.load 0 2) (.x 3))) (fun t => t.cell.fault.map (fun f => (f.code, f.info)) = some (cPEER_FAIL, 2)) ∧ answers (exec (.peerFailure 2 0) talking) talking := by decide +kernel
theorem test_resume : facet (exec (.resumeDoorbell .pf 0) (boarded.onPkg fun p => { p with flagWrites := [⟨0, 0, 1, true⟩] })) (fun t => t.pkg.flagWrites.map FlagWrite.stalled = [false]) := by decide +kernel

/-- Each clause of GroupsAtTheHome: a new contribution to no group, to one removed, to one homed elsewhere, for a closed round and for the current one; a round that is complete, one whose time is up; a barrier message, the last one due and another. -/
theorem witness_GroupsAtTheHome : talking.TakesNew 2 (asks (.contrib 7 0 [1, 2, 3, 4, 5, 6, 7, 8])) (taken (asks (.contrib 7 0 [1, 2, 3, 4, 5, 6, 7, 8]))) ∧
    (talking.pkg.group 0 7 = none ∧ ((0 : BitVec 6), (7 : Byte)) ∉ talking.pkg.removed ∧ (let s := talking.onPkg fun p => { p with removed := [(0, 7)] }; ((0 : BitVec 6), (7 : Byte)) ∈ s.pkg.removed)) ∧
    ((grouped 2).pkg.group 0 7 ≠ none ∧ ((grouped 0).pkg.group 0 7).map (fun x => (x.home, x.members.contains 2, x.bytes, x.round)) = some (0, true, 8, 0) ∧
      ((grouped 0 fun x => { x with round := 1 }).pkg.group 0 7).map Group.round = some 1) ∧
    (let c : Contrib := ⟨0, asks (.contrib 7 0 []), 0, [0x80, 0x3F, 0, 0, 0, 0, 0, 0]⟩; let s := grouped 0 fun x => { x with contribs := [c] }; s.pkg.groups.map (fun x => (x.multicast, x.gto, x.now, x.members.all fun m => x.now.any (·.src == m))) = [(false, 9, [c], false)] ∧
      s.pkg.groups.map (fun x => storeVirtual x.ctx x.dst.toNat [0, 0] s.pkg) = [(.ok (), s.pkg.write 0x2_0080 [0, 0])] ∧ s.pkg.groupOps = []) ∧
    (let s := membership fun T => { T with barrier := some ⟨true⟩ }; (2 : Byte) ≠ s.pkg.number ∧ (s.pkg.peer 2).failed = false ∧ ((2 : Byte), (4 : Word)) ∉ s.pkg.trust.reports ∧ s.pkg.trust.pending = some (5, 5) ∧ (5 : BitVec 256).getLsbD 0 = true ∧
      (s.pkg.othersOf 5).all (fun m => !(s.pkg.peer m).failed) = true ∧ s.pkg.othersOf 5 = [2]) := ⟨takes_new _ _ (by decide +kernel), by decide +kernel, by decide +kernel, by decide +kernel, by decide +kernel⟩
/-- 1.0 of package 0 and 2.0 of package 2: 3.0 at the destination, and both are answered (R366). -/
theorem test_reduction : facet (exec (.groupContribution 2 (asks (.contrib 7 0 [0, 0x40, 0, 0, 0, 0, 0, 0]))) (grouped 0 fun x => { x with contribs := [⟨0, asks (.contrib 7 0 []), 0, [0x80, 0x3F, 0, 0, 0, 0, 0, 0]⟩] }))
      (fun t => t.pkg.read 0x2_0080 3 = [0x40, 0x40, 0] ∧ t.pkg.groups.map (fun x => (x.round, x.contribs)) = [(1, [])] ∧ t.pkg.outbox = [.holdNotice 2 0, .answer 2 0 (.status 0 0)]) ∧
    facet (exec (.groupContribution 2 (asks (.contrib 7 0 [0]))) (grouped 0)) (fun t => t.pkg.outbox = [.refusal 2 0 false]) := by decide +kernel
theorem test_group_timeout : facet (exec (.groupTimeout 0 7) (grouped 0 fun x => { x with contribs := [⟨2, asks (.contrib 7 0 []), 0, [0, 0, 0, 0, 0, 0, 0, 0]⟩] })) (fun t => t.pkg.outbox = [.answer 2 0 (.status 1 0)] ∧ t.pkg.groups.map (fun x => (x.round, x.closed)) = [(1, [(0, 1)])]) ∧
    facet (exec (.barrierMessage 2 true ⟨0, true, 4⟩) ((membership fun T => { T with barrier := some ⟨true⟩ }).onCell (Cell.setPend (.barrier 5)))) (fun t => t.pkg.trust.td ∧ t.pkg.trust.epoch = 5 ∧ t.cell.pend = .barrierDone 0) := by decide +kernel

/-- A conversation of the two roles: role 0 at cell 9 of package 2, role 1 at channel 5 of the cell in focus. -/
def conv (f : Conv → Conv := id) : Conv :=
  f { ctx := 0, image := protocol, roles := 1, trans := protocol.tail.map transOf, state := 0, turns := 0, brk := false, cause := 0,
      role := (Vector.replicate 8 none).set 0 (some ⟨2, 9, 6⟩) |>.set 1 (some ⟨0, 0, 5⟩), owner := Vector.replicate 8 none, credits := [(⟨0, 0, 5⟩, 4)], msgs := [], heldTurns := [], heldClose := [], closing := false, waiting := [] }

/-- That conversation in entry 5 here. -/
def homed (f : Conv → Conv := id) : State := talking.onPkg fun p => { p with convs := [(5, conv f)] }

/-- A word of entry 5 at package 0 for a role and a kind. -/
def word (role : BitVec 3) (kind : BitVec 6) : Word := (role.setWidth 64 <<< 28) ||| (kind.setWidth 64 <<< 20) ||| 5

/-- Each clause of ConversationsAtTheHome on requests: an image that checks and one that does not; a conversation that is broken, a role past the last, one that is bound and one that is not; a turn of another cell, one the state does not allow, one that is accepted and one that must wait; an end. -/
theorem witness_ConversationsAtTheHome : talking.TakesNew 2 (asks (.convOpen (some protocol))) (taken (asks (.convOpen (some protocol)))) ∧ homed.TakesNew 2 (asks (.convClose (word 0 0))) (taken (asks (.convClose (word 0 0))) homed) ∧
    (imageOk protocol = true ∧ imageOk [0x1_0000] = false ∧ (List.range 4096).find? (fun i => (aget talking.pkg.convs i).isNone) = some 0 ∧ (putConv 0 conv talking).pkg.protocolStore = 1 ∧ aget talking.pkg.convs 4095 = none) ∧
    ((homed.pkg.conv 5 0 = some conv) ∧ cvEntry (word 1 3) = 5 ∧ cvRole (word 7 0) = 7 ∧ conv.brk = false ∧ conv.roles < (cvRole (word 7 0)).toNat ∧ (conv.endpoint 1).isSome = true ∧ (conv fun v => v.bindRole 1 none none).endpoint 1 = none ∧ homed.pkg.conv 6 0 = none) ∧
    (let r := asks (.convTurn (word 0 3) false [7]); conv.holder homed 2 r 0 = true ∧ conv.holder homed 2 r 1 = false ∧ (match conv.decide homed 5 2 r (word 0 3) false [7] with | .accepted v => v.state == 1 && v.turns == 1 | _ => false) = true ∧
      (match (conv fun v => { v with msgs := List.replicate 16 ⟨1, [], false, none, none, false⟩, credits := [] }).decide homed 5 2 r (word 0 3) false [7] with | .held => true | _ => false) = true ∧
      (conv.trans.all fun x => !(x.state == conv.state && x.role == cvRole (word 0 4) && x.kind == cvKind (word 0 4) && x.choice == false)) = true) := ⟨takes_new _ _ (by decide +kernel), takes_new _ _ (by decide +kernel), by decide +kernel⟩
/-- The clauses on closes, deliveries, credits and breaks. -/
theorem witness_conversation_ends : ((conv fun v => { v with state := 1 }).terminal = true ∧ conv.terminal = false ∧ (aget (breakConv 5 1 0 homed).pkg.convs 5).isSome = true) ∧
    (let m : ConvMsg := ⟨0, [5], true, some ⟨2, 9, 6⟩, none, false⟩; (conv fun v => { v with msgs := [m] }).msgs.find? (fun m => m.role == 0 && m.credit) = some m ∧ (2 : Byte) ≠ homed.pkg.number ∧ (homed.pkg.peer 2).failed = false) ∧
    (homed.onBoardOf 0 0 = true ∧ ((homed.cellAt 0).chanAt 5).fit = true ∧ homed.moving (homed.cellAt 0) = true ∧ ((5 : BitVec 12), (1 : BitVec 3), (⟨0, 0, 5⟩ : Endpoint)) ∉ homed.pkg.endings ∧ (homed.cellAt 0).stopped = false ∧ ((homed.cellAt 0).chanAt 5).room = true ∧ (homed.cellAt 0).port = []) ∧
    ((conv fun v => v.setCredits ⟨2, 9, 6⟩ 3).credits.any fun c => c.1 == ⟨2, 9, 6⟩) = true ∧ conv.endpoint 0 = some ⟨2, 9, 6⟩ ∧
    (let s := homed.onPkg fun p => { p with endings := [(5, 1, ⟨0, 0, 5⟩)] }; ((5 : BitVec 12), (1 : BitVec 3), (⟨0, 0, 5⟩ : Endpoint)) ∈ s.pkg.endings ∧ conv.endpoint 1 = some ⟨0, 0, 5⟩) := by decide +kernel
theorem test_conv_open_bind : facet (exec (.convOpenRequest 2 (asks (.convOpen (some protocol)))) talking) (fun t => t.pkg.outbox = [.answer 2 0 (.status 0 0)] ∧ t.pkg.convs.map (fun e => (e.1, e.2.roles)) = [(0, 1)]) ∧
    facet (exec (.convOpenRequest 2 (asks (.convOpen (some [0x1_0000])))) talking) (fun t => t.pkg.outbox = [.answer 2 0 (.status (0x8000_0000_0000_0000 + cCONFIG_CHECK.setWidth 64) 0)]) ∧
    facet (exec (.convBindRequest 2 (asks (.convBind (word 1 0) 6 4))) homed) (fun t => t.pkg.outbox = [.answer 2 0 (.status (cACCESS.setWidth 64) 0)]) ∧
    facet (exec (.convBindRequest 2 (asks (.convBind (word 1 0) 6 4))) (homed fun v => v.bindRole 1 none none)) (fun t => t.pkg.convs.map (fun e => e.2.endpoint 1) = [some ⟨2, 9, 6⟩]) := by decide +kernel
/-- A turn: state 1, one turn, and a message with the header of R384 for role 1. -/
theorem test_conv_turn : facet (exec (.turnRequest 2 (asks (.convTurn (word 0 3) false [7]))) homed) (fun t => t.pkg.outbox = [.answer 2 0 (.verdict .accepted)] ∧ t.pkg.convs.map (fun e => (e.2.state, e.2.turns)) = [(1, 1)] ∧
      t.pkg.convs.map (fun e => e.2.msgs.map fun m => (m.role, m.lanes, m.credit)) = [[(1, [0x0060_2005, 7], true)]]) ∧
    facet (exec (.turnRequest 2 (asks (.convTurn (word 0 4) false [7]))) homed) (fun t => t.pkg.outbox = [.answer 2 0 (.verdict (.turn 0))]) ∧ facet (exec (.turnRequest 2 (asks (.convTurn (word 1 3) false [7]))) homed) (fun t => t.pkg.outbox = [.answer 2 0 (.verdict .role)]) := by decide +kernel
theorem test_conv_others : facet (exec (.delegationRequest 2 (asks (.convDeleg (word 0 0) 0x100_0066))) homed) (fun t => t.pkg.convs.map (fun e => (e.2.endpoint 0, e.2.turns)) = [(some ⟨0x20, 3, 6⟩, 1)]) ∧
    facet (exec (.closeRequest 2 (asks (.convClose (word 0 0)))) (homed fun v => { v with state := 1 })) (fun t => t.pkg.convs = [] ∧ t.pkg.outbox = [.answer 2 0 (.verdict .accepted)]) ∧
    facet (exec (.stateRequest 2 (asks (.convState (word 0 0) none))) (homed fun v => { v with state := 1, turns := 3 })) (fun t => t.pkg.outbox = [.answer 2 0 (.status 0x3_0001 0)]) ∧
    facet (exec (.stateRequest 2 (asks (.convState (word 0 0) (some 1)))) homed) (fun t => t.pkg.outbox = [.holdNotice 2 0] ∧ t.pkg.convs.map (fun e => e.2.waiting.length) = [1]) := by decide +kernel
theorem test_conv_events : facet (exec (.messageDelivery (.buffered 5 1)) (homed fun v => { v with msgs := [⟨1, [5, 7], true, some ⟨0, 0, 5⟩, none, false⟩] })) (fun t => (t.cell.chanAt 5).pkts.map (fun p => (p.lanes, p.conv)) = [([5, 7], some (0, 5, 1))]) ∧
    facet (exec (.messageDelivery (.incoming 2 0 6 1 0 5 [6, 7])) talking) (fun t => (t.cell.chanAt 5).pkts.map Packet.lanes = [[6, 7]]) ∧
    facet (exec (.conversationCredit 5 0 2 9 6) (homed fun v => v.setCredits ⟨2, 9, 6⟩ 3)) (fun t => t.pkg.convs.map (fun e => e.2.creditsOf ⟨2, 9, 6⟩) = [4]) ∧
    facet (exec (.conversationBreak 5 1 ⟨0, 0, 5⟩) (homed.onPkg fun p => { p with endings := [(5, 1, ⟨0, 0, 5⟩)] })) (fun t => t.pkg.convs.map (fun e => (e.2.brk, e.2.msgs.map ConvMsg.role)) = [(true, [0])] ∧ t.pkg.endings = []) := by decide +kernel

/-! ### Launches, faults and pre-emption -/

/-- A graph of one load, whose image stands at 0x1_0000. -/
def member (f : Member → Member := id) : Member := f ⟨0x1_4000, false, 1, 1, [⟨0x1_0000, 2, [], true⟩], none, 0, false, none⟩

/-- A launch of that graph, a candidate. -/
def gang (f : Launch → Launch := id) (m : Member := member) : Launch :=
  f { id := 0, ctx := 0, prio := 0, pos := 0, tag := 0x7AB, ser := false, clsHint := 0, windows := List.replicate 8 (0, 0), members := [m, .absent, .absent, .absent], pipes := [],
      st := .candidate, passes := 0, reserved := none, status := none, preempt := none, late := [], saved := [], saveAt := (0, 0), pinned := false, requests := [] }

/-- Context 0 may hold two blocks; its launch stream 1 is bound, and at position 0 of it stands the record of that launch, with its graph descriptor at 0x1_4000 (R314, R316). -/
def launching (ls : List Launch := []) : State :=
  let words (l : List Word) : List Byte := l.flatMap fun w => bytesOf 8 w.toNat
  boarded.onPkg fun p =>
    let q := ((((({ p with bound := [⟨0, 1, 0x1_1000, 0x2_1000, [0x1_2000, 0x1_3000], none⟩], launches := ls, nextLaunch := ls.length, allocDue := true,
                           contexts := p.contexts.map fun e => (e.1, { e.2 with maxBlk := 2, prioMask := 1 }) } : Package).write 0x2_0000 (words image)).write 0x2_1000 (recordBytes (record 0x3FFE))).write 0x2_8000 (words [0x1_2000, 0x1_3000])).write
      0x2_2000 (words [0x1_4000, 0, 0, 0, 0, 0, 0x07AB_0000_0000_0000, 0])).write 0x2_4000 (words [0, 0, 0, 0, 0x1_0000, 0x200_0000, 0x1_0000, 0])
    q

/-- Each clause of LaunchesAdmitted: a stream with a record to read, one without, one that has a candidate; a record that leads to a launch and one that is refused; an action that admits, one that finds nothing, a candidate that fits and one passed over for the 64th time. -/
theorem witness_LaunchesAdmitted : (aget launching.pkg.contexts 0).isSome = true ∧ (launching.pkg.boundOf 0 1).map Bound.pa = some 0x2_1000 ∧ before (launching.pkg.record 0x2_1000).head 64 = false ∧ before (launching.pkg.record 0x2_1000).head (0x1000 + 64) = true ∧
    launching.pkg.launches = [] ∧ ((launching [gang]).pkg.launches.any fun l : Launch => l.ctx == 0 && l.prio == 0 && l.st == .candidate) = true ∧
    (match readRecordAt ⟨0, 1, 0x1_1000, 0x2_1000, [0x1_2000, 0x1_3000], none⟩ (launching.pkg.record 0x2_1000) 0 launching with
      | (.ok d, p) => (match (aget p.contexts 0).map fun c => readTables 0 c d p with | some (.ok t, _) => t == ([member, .absent, .absent, .absent], List.replicate 8 (0, 0), []) | _ => false) &&
          (match (aget p.contexts 0).map fun c => readTables 0 c (d.set 7 1) p with | some (.refused c, _) => c == cCONFIG_CHECK | _ => false)
      | _ => false) = true := by decide +kernel
theorem witness_allocator : (launching.pkg.allocDue = true ∧ (launching.onPkg fun p => { p with allocDue := false }).pkg.allocDue = false) ∧ (match takeFirst launching.pkg.candidates none launching with | .idle _ => true | _ => false) = true ∧
    (match takeFirst (launching [gang]).pkg.candidates none (launching [gang]) with | .admitted _ => true | _ => false) = true ∧ (launching [gang]).pkg.placesFor gang = some [⟨1, 0, 0, 1, 1⟩] ∧
    (match takeIn gang [⟨1, 0, 0, 1, 1⟩] (launching [gang]) with | .ok _ => true | _ => false) = true ∧ ((launching [gang]).pkg.boards.filter fun b => b.ctx == 0).length = 1 ∧
    (let big := gang id (member fun m => { m with h := 7 }); (launching [big]).pkg.placesFor big = none ∧ big.reserved = none) ∧
    (let l := gang fun l => { l with passes := 64 }; (launching [l]).pkg.candidate 0 0 = some l ∧ (launching [l]).pkg.launch 0 = some l ∧ l.reserved = none) ∧ (launching [gang]).pkg.candidate 0 0 = some gang := by decide +kernel
theorem witness_one_member : (let l := gang fun l => { l with members := [member] }; l.members = [member] ∧ member.graph ≠ 0 ∧ l.pipes = [] ∧ l.saved = [] ∧ member.ended = false ∧ (launching [l]).pkg.launches = [l]) := by decide +kernel
theorem test_launch_record_read : facet (exec (.launchRecordRead 0 0) launching) (fun t => t.pkg.launches = [gang] ∧ t.pkg.allocDue ∧ (aget t.pkg.contexts 0).map (fun c => c.readPos[0]) = some 64) ∧
    facet (exec (.launchRecordRead 0 0) (launching.onPkg (Package.write 0x2_2038 [1]))) (fun t => t.pkg.launches.map (fun l => (l.st, l.status)) = [(.ended, some cCONFIG_CHECK)]) := by decide +kernel
/-- The board goes to the first block of the die with the most free blocks, and its load is asked for (R321, R324). -/
theorem test_allocator_action : facet (exec .allocatorAction ((launching [gang]).onPkg (Package.onCtx 0 fun c => { c with readPos := Vector.replicate 16 0x1000 }))) (fun t => t.pkg.boards.map (fun b => (b.die, b.brow, b.bcol, b.phase, b.launch)) = [(0, 0, 0, .running, none), (1, 0, 0, .empty, some 0)] ∧ t.pkg.launches.map Launch.st = [.admitted] ∧
      t.pkg.loads.map (fun q => (q.addr, q.board, q.issuer)) = [(0x1_0000, 1, none)] ∧ !t.pkg.allocDue) ∧
    facet (exec (.candidateReserved 0 0) (launching [gang fun l => { l with passes := 64 }])) (fun t => t.pkg.launches.map Launch.reserved = [some 0]) ∧ answers (exec (.candidateReserved 0 0) (launching [gang])) (launching [gang]) := by decide +kernel

/-- The launch runs on board 0. -/
def running (f : Launch → Launch := id) (b : Board → Board := id) (m : Member := member fun m => { m with board := some 0 }) : State :=
  ((launching [gang (fun l => f { l with st := .admitted }) m]).onPkg fun p => { p with boards := p.boards.map fun x => b { x with launch := some 0 } }).onCell fun c => { c with hnd := c.hnd.set 0 Handler.reset, cur := none }

/-- A request of that launch to the loader. -/
def asked (ph : LoadPhase) (s : State) : State := s.onPkg fun p => { p with loads := [⟨none, 0, 0x1_0000, 0x200_0000, [], false, ph, (checkImage 8 8 image).getD [], 0⟩] }

/-- Each clause of LaunchesRun: a load that checks and one that does not, a switch-over; a quiescent board at its last load and before it, one that is not quiescent; a load with products to classify; a launch that is complete and one that is not. -/
theorem witness_LaunchesRun : (let s := asked .asked (running id fun b => { b with phase := .empty }); s.pkg.loads.map (fun q => (q.phase, q.issuer)) = [(.asked, none)] ∧ s.pkg.loaderBusy 0 = false ∧ (s.pkg.boards.all fun b => (s.pkg.memberOf b).isSome) = true ∧
      s.pkg.launches.map Launch.saved = [[]] ∧ (s.pkg.boards.all fun b => (match checkGraph b ⟨0x1_0000, 2, [], true⟩ true s.pkg with | (.accepted _ _, _) => true | _ => false)) = true ∧
      (s.pkg.boards.all fun b => (match checkGraph b ⟨0x1_0000, 1, [], true⟩ true s.pkg with | (.refused c, _) => c == cCONFIG_CHECK | _ => false)) = true) ∧
    (let s := asked .words running; s.pkg.loads.map LoadReq.phase = [.words] ∧ s.pkg.launches.map (fun l => (l.saved, l.preempt)) = [([], none)]) := by decide +kernel
theorem witness_next_load : (let s := running; (s.pkg.launch 0).map (fun L => (L.status, L.members[0]?.map Member.board)) = some (none, some (some 0)) ∧ (s.pkg.boards.all fun b => s.quiescent b && b.phase == .running) = true ∧ s.pkg.raised = [] ∧ s.pkg.loads = []) ∧
    (let s := running id id (member fun m => { m with board := some 0, loads := m.loads ++ m.loads }); s.pkg.launches.map (fun L => (L.members.headD Member.absent).loads.length) = [2] ∧ s.pkg.loaderBusy 0 = false ∧
      (s.pkg.boards.all fun b => (match checkGraph b ⟨0x1_0000, 2, [], true⟩ false s.pkg with | (.accepted _ _, _) => true | _ => false)) = true) ∧
    (let s := running.onCell fun c => { c with hnd := c.hnd.set 5 { Handler.reset with st := .runnable } }; (s.pkg.boards.all fun b => !s.quiescent b) = true) ∧ (boarded.pkg.boards.map Board.cls = [none] ∧ (boarded.pkg.boards.all fun b => (boarded.pkg.memberOf b).isNone) = true) ∧
    (gang (fun l => { l with st := .ended })).complete running.pkg = true ∧ ((running.pkg.launch 0).all fun L => !L.complete running.pkg) = true ∧ (gang.prio < 16) ∧ (running.pkg.boards.map Board.load = [0]) := by decide +kernel
theorem test_graph_loads : facet (exec (.loadAcceptance 0) (asked .asked (running id fun b => { b with phase := .empty }))) (fun t => t.pkg.loads.map LoadReq.phase = [.words]) ∧
    facet (exec (.switchOver 0) (asked .words running)) (fun t => (t.cell.handler 0).st = .runnable ∧ t.pkg.launches.map (fun L => (L.members.headD Member.absent).fired) = [1]) ∧
    facet (exec (.nextLoad 0 0) running) (fun t => t.pkg.launches.map (fun L => (L.members.headD Member.absent).ended) = [true] ∧ t.pkg.boards.map Board.phase = [.empty]) := by decide +kernel
/-- 64 products for each of the 128 bytes of a line are compute-bound, one less is not (R322). -/
theorem test_classification : facet (exec (.classification 0 1) (running id fun b => { b with products := 8192 })) (fun t => t.pkg.boards.map Board.cls = [some true] ∧ t.pkg.classes = [(0x1_4000, true)]) ∧
    facet (exec (.classification 0 1) (running id fun b => { b with products := 8191 })) (fun t => t.pkg.boards.map Board.cls = [some false]) := by decide +kernel
theorem test_launch_completion : facet (exec (.launchCompletion 0) (running (fun l => { l with status := some 6 }) fun b => { b with launch := none })) (fun t => t.pkg.launches = [] ∧ t.pkg.allocDue) ∧ answers (exec (.launchCompletion 0) running) running := by decide +kernel

/-- A running board whose cell has raised a fault. -/
def faulted : State := (raise cMISALIGNED 0 5 running).onPkg fun p => { p with raised := [0] }

/-- Each clause of FaultsAndPreemption: a board with a fault raised, one without; a draining board that is busy and one that is not, for a `cfg.drain` or not; the watchdog at its limit and under it; parked activations. -/
theorem witness_FaultsAndPreemption : (faulted.pkg.board 0).isSome = true ∧ (faulted.pkg.boards.all fun b => faulted.raisedOn b == some 0 && b.phase != .draining) = true ∧ (faulted.cellAt 0).fault.isSome = true ∧ (running.pkg.boards.all fun b => (running.raisedOn b).isNone) = true ∧
    (boarded.pkg.boards.map Board.launch = [none]) ∧ (let s := running id fun b => { b with watchdog := 2 ^ 28 }; s.pkg.watchdogLimit = 2 ^ 28 ∧ (s.pkg.boards.all fun b => !s.watchHeld b) = true) ∧
    (let s := running id fun b => { b with phase := .draining, drainFor := some (9, 3) }; (s.pkg.boards.all fun b => !s.busy b) = true) ∧ (let s := (flying (.store [1] false) .none (.phys 0x2_0000 0x0F)).onCell fun c => { c with board := some 0 }; (boarded.pkg.boards.all fun b => s.busy b) = true) ∧
    (let s := running.onCell fun c => { c with hnd := c.hnd.set 5 { Handler.reset with st := .parked } }; (s.pkg.boards.all fun b => s.firstParked b == some 0) = true) ∧ (running.pkg.boards.all fun b => (running.firstParked b).isNone) = true ∧ running.cell.board = some 0 := by decide +kernel
/-- The clauses on pre-emption: a launch that is asked, with a limit and without; one whose boards still run; one whose boards are all collected (here a launch that holds none), with a save area that takes the state. -/
theorem witness_preemption : (let s := running fun l => { l with preempt := some ⟨0x1_F000, 5⟩ }; (s.pkg.launch 0).bind (fun L => L.preempt) = some ⟨0x1_F000, 5⟩ ∧ (s.pkg.gang 0).length = 1 ∧ (s.pkg.gang 0).any (fun b => b.phase == .running) = true) ∧
    (let s := running (fun l => { l with preempt := some ⟨0x1_F000, 0⟩ }) fun b => { b with phase := .preempting }; (s.pkg.gang 0).all (fun b => b.phase == .preempting && s.collectable b) = true ∧ ((s.pkg.launch 0).all fun L => !L.complete s.pkg && L.status.isNone) = true) ∧
    (let s := running (fun l => { l with preempt := some ⟨0x1_F000, 0⟩ }) fun b => { b with launch := none }; s.pkg.gang 0 = [] ∧ (s.pkg.launch 0).map (fun l => writeAreas l s.pkg.saves 0x1_F000 [] s.pkg) = some (.ok (), s.pkg)) := by decide +kernel
theorem test_fault_acceptance : facet (exec (.faultAcceptance 0) faulted) (fun t => t.pkg.boards.map Board.phase = [.draining] ∧ t.pkg.launches.map Launch.status = [some cMISALIGNED]) ∧ answers (exec (.faultAcceptance 0) running) running ∧
    facet (exec (.watchdogExpiry 0) (running id fun b => { b with watchdog := 2 ^ 28 })) (fun t => t.pkg.launches.map Launch.status = [some cWATCHDOG]) := by decide +kernel
theorem test_fault_record : (faultRecord 0x2041 (running.cell.onChan 5 fun C => { C with pkts := [pk [0xABCD]] }) ⟨6, 9, true, 2, 3, 0x77, 0x40, 0x55, 0x66, 0x88⟩) =
    [0x09C0_E041_0000_0601, 0x0000_0077_FFFF_0040, 0x0000_0055_0000_0066, 0x88, 0x10_0000, 0, 0xABCD, 0] := by decide +kernel
theorem test_board_release : facet (exec (.boardRelease 0) (running id fun b => { b with phase := .draining })) (fun t => t.pkg.boards = [] ∧ t.cell.board = none ∧ t.cell.hnd = Cell.reset.hnd) ∧
    facet (exec (.preemptionTimeout 0) (running fun l => { l with preempt := some ⟨0x3000_0000_0000_0000, 5⟩ })) (fun t => t.pkg.launches.map (fun L => (L.status, L.preempt)) = [(some cWATCHDOG, none)] ∧ t.pkg.boards.map Board.phase = [.draining]) ∧
    (let s := running fun l => { l with preempt := some ⟨0x1_F000, 5⟩ }; answers (exec (.preemptionSave 0) s) s) := by decide +kernel

/-! ### The host, security and power -/

/-- A module at stage 4 whose mailbox runs an operation, with its arguments and its staging window. -/
def mail (op : Byte) (arg0 : Word) (f : HostPort → HostPort := id) (desc : List Byte := List.replicate 64 0) (s : State := launching) : State := s.onHost fun h => f { h with mbop := op, arg0 := arg0, busy := true, desc := desc }

/-- A requester that has come as far as a session, and an interface in a state, keyed and enabled. -/
def secured (x : Spdm) (st : Tdisp := .unlocked) (stopping : Bool := false) : State :=
  (putSpdm 256 x launching).onHost fun h => { h with numVfs := 16, vfEnable := 1, vfs := h.vfs.set 0 { Vf.reset with st := st, stopping := stopping, ideKey := some 9 } }

/-- Each clause of SecurityEngineAndInterfaces: no power and power, each step of the exchange done and not; an interface in each state, keyed and enabled or not; a frozen register that changes and one that does not. -/
theorem witness_SecurityEngineAndInterfaces : State.reset.pkg.host.powered = false ∧ (secured Spdm.reset).pkg.host.powered = true ∧ ((secured Spdm.reset).pkg.spdmOf 256).version = false ∧ ((secured Spdm.reset).pkg.spdmOf 256).algs = false ∧ ((secured Spdm.reset).pkg.spdmOf 256).session = none ∧
    (let s := secured ⟨true, true, true, some 5, some 6, 0⟩; (s.pkg.spdmOf 256).version = true ∧ (s.pkg.spdmOf 256).caps = true ∧ (s.pkg.spdmOf 256).algs = true ∧ (s.pkg.spdmOf 256).exchanged ≠ none ∧ (s.pkg.spdmOf 256).session ≠ none) := by decide +kernel
theorem witness_interfaces : ((secured Spdm.reset).vfOf 1).map (fun f => (f.st, f.ideKey.isSome)) = some (.unlocked, true) ∧ (secured Spdm.reset).pkg.host.vfEnable.getLsbD 0 = true ∧ 1 ≤ (secured Spdm.reset).pkg.host.numVfs.toNat ∧
    ((secured Spdm.reset).vfOf 2).map (fun f => f.ideKey) = some none ∧ ((secured Spdm.reset).vfOf 16).isSome = true ∧ (secured Spdm.reset).vfOf 17 = none ∧ ((secured Spdm.reset .locked).vfOf 1).map (fun f => (f.st, f.command)) = some (.locked, 0) ∧
    ((secured Spdm.reset .run).vfOf 1).map Vf.st = some .run ∧ ((secured Spdm.reset .run true).vfOf 1).map Vf.stopping = some true ∧ ((secured Spdm.reset .run true).pkg.boards.any fun b => ((secured Spdm.reset .run true).pkg.ownedBy 1).contains b.ctx) = false ∧
    (let s := (secured Spdm.reset .run true).onPkg (Package.onCtx 0 fun c => { c with owner := 1 }); (s.pkg.boards.any fun b => (s.pkg.ownedBy 1).contains b.ctx) = true) ∧ (secured Spdm.reset).pkg.launches = [] := by decide +kernel
theorem test_spdm : facet (exec (.getVersion 256) (secured Spdm.reset)) (fun t => t.pkg.outbox = [.spdm 256 "VERSION" [0x13]] ∧ (t.pkg.spdmOf 256).version) ∧ facet (exec (.getCapabilities 3) (secured Spdm.reset)) (fun t => t.pkg.outbox = [.spdm 3 "ERROR UnexpectedRequest" []]) ∧
    facet (exec (.negotiateAlgorithms 256 ⟨true, true, false, true⟩) (secured ⟨true, true, false, none, none, 0⟩)) (fun t => t.pkg.outbox = [.spdm 256 "ERROR UnsupportedRequest" []]) ∧
    facet (exec (.finish 256) (secured ⟨true, true, true, some 5, none, 0⟩)) (fun t => (t.pkg.spdmOf 256).session = some 5 ∧ (t.pkg.spdmOf 256).exchanged = none) := by decide +kernel
theorem test_spdm_session : facet (exec (.ideKm 1 7) (secured ⟨true, true, true, none, some 6, 0⟩)) (fun t => (t.vfOf 1).map Vf.ideKey = some (some 7)) ∧ facet (exec (.heartbeat 256) (secured Spdm.reset)) (fun t => t.pkg.outbox = [.spdm 256 "ERROR UnexpectedRequest" []]) ∧
    facet (exec (.keyUpdate 256) (secured ⟨true, true, true, none, some 6, 0⟩)) (fun t => (t.pkg.spdmOf 256).updates = 1) ∧ facet (exec (.endSession 256) (secured ⟨true, true, true, none, some 6, 0⟩)) (fun t => (t.pkg.spdmOf 256).session = none) := by decide +kernel
theorem test_tdisp : facet (exec (.lockInterfaceRequest 1) (secured Spdm.reset)) (fun t => (t.vfOf 1).map Vf.st = some .locked ∧ facet (exec (.startInterfaceRequest 1) t) (fun u => (u.vfOf 1).map Vf.st = some .run ∧
      facet (exec (.frozenRegisterWrite 1 .command 7) u) (fun v => (v.vfOf 1).map (fun f => (f.st, f.command)) = some (.error, 7)))) ∧
    facet (exec (.lockInterfaceRequest 2) (secured Spdm.reset)) (fun t => t.pkg.outbox = [.spdm 256 "TDISP_ERROR" [2]]) ∧
    facet (exec (.stopInterfaceRequest 1) (secured Spdm.reset .run)) (fun t => facet (exec (.scrubComplete 1) t) (fun u => (u.vfOf 1).map Vf.st = some .unlocked ∧ u.pkg.outbox = [.spdm 256 "STOP_INTERFACE_RESPONSE" [1]])) := by decide +kernel

/-- Each clause of HostRegistersAndMailbox on registers: a mailbox that takes writes and one that does not; a slot that is not down; a vector with a message pending; an operation in progress, performed, and out of range. -/
theorem witness_HostRegistersAndMailbox : (launching.pkg.host.powered = true ∧ 4 ≤ launching.pkg.host.stage.toNat ∧ launching.pkg.host.busy = false ∧ State.reset.pkg.host.powered = false ∧ (mail 3 0).pkg.host.busy = true) ∧ slotDown 0 launching = false ∧ (0x138 : BitVec 16).toNat = 0x100 + 8 * 7 ∧
    (let s := launching.onHost fun h => { h with vfs := h.vfs.set 0 { Vf.reset with pendingBit := Vector.replicate 2 true } }; (s.vfOf 1).map (fun f => (f.st, f.pendingBit[1])) = some (.unlocked, true)) ∧
    ((mail 3 0 fun h => { h with result := some 0 }).pkg.host.result = some 0 ∧ (mail 13 0).pkg.host.result = none ∧ 12 < (mail 13 0).pkg.host.mbop.toNat) := by decide +kernel
/-- The clauses on operations: their argument in range and past it; a context that is there, one that is not and one that runs; a set-up that is refused; a peer that failed, one with requests out; times at their bounds. -/
theorem witness_mailbox : ((mail 2 63).pkg.host.arg0.toNat < 64 ∧ (mail 2 64).pkg.host.arg0.toNat = 64 ∧ aget (mail 2 63).pkg.contexts 63 = none ∧ aget (mail 2 0).pkg.contexts 0 ≠ none ∧ (mail 2 0).pkg.launches = []) ∧
    ((launching [gang fun l => { l with st := .admitted }]).pkg.launches.any fun l : Launch => l.ctx == 0 && l.st == .admitted) = true ∧ (match (setUp (mail 1 0)).1 with | .ok c => c == cCONFIG_CHECK | _ => false) = true ∧
    (match (setUp (mail 1 1 id (bytesOf 8 0x8000 ++ List.replicate 24 0 ++ bytesOf 8 0x1_1000 ++ bytesOf 8 0x0001_0100_0000_0000 ++ List.replicate 16 0))).1 with | .stall .. => true | _ => false) = true ∧ (match (setUp (mail 1 1 id (bytesOf 8 0x8000 ++ List.replicate 24 0 ++ bytesOf 8 0x4000_0000_0000_0000 ++ bytesOf 8 0x0001_0100_0000_0000 ++ List.replicate 16 0))).1 with | .ok c => c == cACCESS | _ => false) = true ∧ (routeEntry (mail 5 0x9402)).1 = 0 ∧ (routeEntry (mail 5 0x9502)).1 = cCONFIG_CHECK ∧
    (((waiting true (.store 0 [7] []) .none).pkg.peer 2).out ≠ [] ∧ ((waiting true (.store 0 [7] []) .none).pkg.peer 2).failed = false ∧ (talking.pkg.peer 2).out = []) ∧
    ((mail 8 (1 <<< 24 ||| 10000000)).pkg.host.arg0.extractLsb' 0 24 = 10000000#24 ∧ (mail 8 (10000001 <<< 24 ||| 1)).pkg.host.arg0.extractLsb' 24 24 = 10000001#24) ∧ (State.reset.pkg.contexts = [] ∧ (mail 10 255).pkg.contexts ≠ []) := by decide +kernel
theorem test_registers : facet (exec (.registerWrite .pf none 0x040 3) launching) (fun t => t.pkg.host.busy ∧ t.pkg.host.mbop = 3) ∧ facet (exec (.registerWrite .pf none 0x108 0x1234) launching) (fun t => (t.pkg.host.desc.drop 7).take 4 = [0, 0x34, 0x12, 0]) ∧
    answers (exec (.registerWrite .pf none 0x048 3) (mail 3 0)) (mail 3 0) ∧ facet (exec (.registerWrite .pf (some 9) 0x020 0x1FFF) launching) (fun t => t.pkg.apertures.map (fun e => (e.1, e.2.view)) = [(9, 0x1000)]) ∧
    facet (exec .mailboxCompletion (mail 3 0 fun h => { h with result := some 9 })) (fun t => !t.pkg.host.busy ∧ t.pkg.host.mbstat = 9) ∧ facet (exec .tripClear (launching.onHost fun h => { h with trip := true })) (fun t => !t.pkg.host.trip) := by decide +kernel
theorem test_mailbox_contexts : facet (exec .contextTeardown (mail 2 0)) (fun t => t.pkg.contexts = [] ∧ t.pkg.tlb = [] ∧ t.pkg.bound = [] ∧ t.pkg.host.result = some 0) ∧ facet (exec .contextTeardown (mail 2 5)) (fun t => t.pkg.host.result = some cACCESS) ∧
    facet (exec .tlbShootdown (mail 3 0)) (fun t => t.pkg.tlb = [] ∧ t.pkg.host.result = some 0) ∧ facet (exec .contextSetUp (mail 1 0)) (fun t => t.pkg.host.result = some cCONFIG_CHECK) ∧
    facet (exec .preEmption (mail 4 (1 <<< 48) (fun h => { h with arg1 := 0x1_F000 }) (List.replicate 64 0) running)) (fun t => t.pkg.host.result = some 0 ∧ t.pkg.boards.map Board.phase = [.preempting]) := by decide +kernel
/-- A route by port 5, then one by port 24, which no package has; the timer values; the limit, the number and the membership (R416). -/
theorem test_mailbox_link : facet (exec .routeEntry (mail 5 0x9402)) (fun t => (t.pkg.peer 2).ports[0] = some 5 ∧ t.pkg.pathLive 2 0) ∧ facet (exec .routeEntry (mail 5 0xE002)) (fun t => t.pkg.host.result = some cCONFIG_CHECK) ∧
    facet (exec .pathRevive (mail 6 2 id (List.replicate 64 0) (talking.onPkg (Package.onPeer 2 fun P => { P with live := Vector.replicate 4 false })))) (fun t => t.pkg.pathLive 2 0) ∧
    facet (exec .peerClear (mail 7 2 id (List.replicate 64 0) (waiting true (.store 0 [7] []) .none))) (fun t => t.pkg.host.result = some cACCESS) ∧
    facet (exec .linkSettings (mail 8 (1 <<< 48 ||| 7 <<< 24 ||| 9))) (fun t => t.pkg.linkTimeout = 9 ∧ t.pkg.resendInterval = 7 ∧ t.pkg.skid) ∧ facet (exec .watchdogLimit (mail 9 0)) (fun t => t.pkg.watchdogLimit = 0) ∧
    facet (exec .packageNumber (mail 10 7)) (fun t => t.pkg.number = 0 ∧ t.pkg.host.result = some cACCESS) ∧ facet (exec .pendingMembership (mail 11 5 id (1 :: List.replicate 63 0))) (fun t => t.pkg.trust.pending = some (1, 5)) := by decide +kernel

/-- Each clause of PowerAndBringUp: each state asked for, clock fields at their bounds, PS2 and another state, boards or none, a gated block with a board and without; the sources of a trip; the stages. -/
theorem witness_PowerAndBringUp : (let s := mail 12 0x1900; s.pkg.host.powered = true ∧ s.pkg.host.busy = true ∧ s.pkg.host.result = none ∧ s.pkg.host.mbop = 12 ∧ s.pkg.host.arg0.toNat < 2 ^ 16 ∧ s.pkg.host.arg0.extractLsb' 2 6 = 0 ∧ (s.pkg.host.arg0.extractLsb' 8 8).toNat = 25 ∧
      s.pkg.host.arg0.extractLsb' 0 2 = 0 ∧ s.pkg.host.ps ≠ 2) ∧ ((mail 12 0x0900).pkg.host.arg0.extractLsb' 8 8).toNat = 9 ∧ ((mail 12 0x0A00).pkg.host.arg0.extractLsb' 8 8).toNat = 10 ∧ ((mail 12 0x1A00).pkg.host.arg0.extractLsb' 8 8).toNat = 26 ∧
    (mail 12 1).pkg.host.arg0.extractLsb' 0 2 = 1 ∧ (mail 12 1 fun h => { h with ps := 2 }).pkg.host.ps = 2 ∧ (mail 12 1).pkg.boards ≠ [] ∧ (mail 12 1 id (List.replicate 64 0) paged).pkg.boards = [] ∧
    (BitVec.ofNat 144 (ofBytes ((mail 12 1 id (1 :: List.replicate 63 0)).pkg.host.desc.take 18))).getLsbD 0 = true ∧ ((mail 12 1).pkg.boards.map fun b => (b.die, b.brow, b.bcol, b.h, b.w)) = [(0, 0, 0, 1, 1)] ∧
    (State.reset.onHost fun h => { h with powered := true, stage := 3 }).pkg.host.stage.toNat = 3 ∧ (5 : BitVec 3).toNat = 5 := by decide +kernel
theorem test_power_states : facet (exec .powerStatePs0 (mail 12 0x0A00 fun h => { h with ps := 2 })) (fun t => t.pkg.host.ps = 0 ∧ t.pkg.host.clk = 10 ∧ t.pkg.host.clockStopped ∧ t.cell = Cell.reset) ∧
    facet (exec .powerStatePs1 (mail 12 1 id (1 :: List.replicate 63 0))) (fun t => t.pkg.host.result = some cACCESS ∧ t.pkg.host.ps = 0) ∧ facet (exec .powerStatePs1 (mail 12 1 id (2 :: List.replicate 63 0))) (fun t => t.pkg.host.result = some 0 ∧ t.pkg.host.ps = 1 ∧ t.pkg.host.gated = 2) ∧
    facet (exec .powerStatePs2 (mail 12 2)) (fun t => t.pkg.host.result = some cACCESS) ∧ facet (exec .powerStatePs3 (mail 12 3)) (fun t => !t.pkg.host.powered ∧ t.pkg.mem = [] ∧ t.pkg.boards = []) := by decide +kernel
theorem test_bring_up : facet (exec .powerOn State.reset) (fun t => t.pkg.host.stage = 1 ∧ facet (exec (.stageAdvance true) t) (fun u => u.pkg.host.stage = 2 ∧ facet (exec (.stageAdvance false) u) (fun v => v.pkg.host.stage = 7))) ∧
    facet (exec (.thermalTrip 4) launching) (fun t => t.pkg.host.trip ∧ t.pkg.host.tsrc = 4 ∧ !t.pkg.host.powered) ∧ answers (exec (.thermalTrip 5) launching) launching ∧ facet (exec .clockRestart (launching.onHost fun h => { h with clockStopped := true })) (fun t => !t.pkg.host.clockStopped) := by decide +kernel

/-! ### Steps and the encoding -/

/-- A state where a core moves by the agenda, and one where it does by the model's own order; a reserved word; an event (StepRunsTheDecodedInstruction). -/
theorem witness_StepRunsTheDecodedInstruction : (let s := State.reset.withFetchWord 32 0x24414000; s.agenda = [.core 0] ∧ s.pkg.host.powered = true ∧ s.pkg.host.runs = true ∧ (s.cellAt 0).issues = true ∧ (clocked s.tick (({ s with agenda := [] } : State).focus 0)).cell.badWord = none ∧
      decodesTo (clocked s.tick (({ s with agenda := [] } : State).focus 0)).cell.fetched (.lhi 2 true 0x4000) = true) ∧
    decodesToNone (State.reset.withFetchWord 32 0).cell.fetched = true ∧ (let s := { State.reset.withFetchWord 32 0x24414000 with agenda := [] }; defaultMove s = some (.core 0)) ∧ isStep (.handlerSelection 0) = true := by
  refine ⟨by decide +kernel, by decide +kernel, ?_, by decide +kernel⟩
  rfl
/-- The first step after the placing of a word runs the instruction (R12). -/
theorem test_first_step : facet (step (State.reset.withFetchWord 32 0x24414000)) (fun t => t.cell.xreg 2 = ⟨0x4000_0000_0000_0000, .full⟩ ∧ t.cell.pc = 4 ∧ t.tick = 1 ∧ t.agenda = []) ∧
    facet (step (State.reset.withFetchWord 32 0)) (fun t => t.cell.fault.map FaultRec.code = some cILLEGAL ∧ t.pkg.raised = [0]) ∧
    facet (step { packets with agenda := [.event (.handlerSelection 0)] }) (fun t => t.tick = 1) ∧ (match step { State.reset with agenda := [.core 0] } with | .fault .poweredOff => true | _ => false) = true := by decide +kernel
theorem witness_EncodedInstructionsDecode : (Instr.lhi 2 true 0x4000).wf = true ∧ encode (.lhi 2 true 0x4000) = [0x24414000] ∧ (∀ w, Instr.lhi 2 true 0x4000 ≠ .reservedEncoding w) ∧ (Instr.mxZero ⟨0, 1, 0, 0⟩ 0 0 0).wf = true ∧ encode (.mxZero ⟨0, 1, 0, 0⟩ 0 0 0) ≠ [] := by
  refine ⟨by decide +kernel, by decide +kernel, fun w h => ?_, by decide +kernel, by decide +kernel⟩
  exact Instr.noConfusion h
theorem witness_DecodedWordsAreTheEncoding : decode [0x24414000, 9] = .ok (.lhi 2 true 0x4000) := rfl
theorem witness_RegisterFrame : facet (exec (.add 3 1 2 false) regs) (fun t => t.cell.pc = 4) ∧ facet (exec (.vadd 4 1 2 0) packets) (fun t => t.cell.pc = 4) ∧ facet (exec (.bp 1 2) regs) (fun t => t.cell.pc = 4) ∧ facet (exec (.cmpEq 1 1 2) regs) (fun t => t.cell.pc = 4) ∧
    facet (exec (.call 2) regs) (fun t => t.cell.pc = 8) := by decide +kernel
theorem witness_MemoryStaysCanonical : Memory.wf State.reset.pkg.mem = true ∧ Memory.wf launching.pkg.mem = true ∧ launching.pkg.mem ≠ [] ∧ facet (step { launching with agenda := [.core 0] }) (fun t => Memory.wf t.pkg.mem) := by decide +kernel
theorem witness_HardwiredRegisters : regs.FreeX 31 ∧ (31 : XIdx) ≠ 0 := by decide +kernel
/-! ### Further witnesses: the clauses of the statements that the theorems above do not reach -/

/-- A state whose packet register n is in a state other than full. -/
def withVState (n : VIdx) (st : Fe) (s : State) : State := s.onCell fun c => c.putV n { c.vreg n with st := st }

/-- Clauses of RegisterStates on packet registers, and of FaultRecords on a word that names a k-register. -/
theorem witness_vector_states : ((withVState 1 .empty regs).cell.vreg 1).st = .empty ∧ ((withVState 1 .pending regs).cell.vreg 1).st = .pending ∧
    (let s := withVState 1 .empty regs; (s.cell.vreg 1).st ≠ .full ∧ s.cell.k.t = false ∧ s.cell.cur = some 0 ∧ s.cell.waitEntries < 64 ∧ s.cell.trapModeV 1 = false) ∧
    decodesTo [0xE0201885] (.csrr 1 0x023) = true := by decide +kernel

/-- Clauses of LoadsAndStallsIssue and StoresIssue on streams: no slot, behind the tether, across frames, past HEAD of an open and of a closed stream; a closed stream, before HEAD, across frames, past the window. -/
theorem witness_stream_accesses :
    let w (f : WinRec → WinRec) : State := streaming.onCell fun c => { c with win := c.win.map f };
    let r (s : State) : Option WinRec := s.cell.win.find? fun x : WinRec => x.num == 20;
    (region 0x8014_0000_0000_1000 8 = .stream 20 0x1000 ∧ streaming.cell.streamPending 20 = false ∧ (r (w fun x => { x with slot := none })).map WinRec.slot = some none) ∧
    ((r (w fun x => { x with slot := some 0x800 })).map WinRec.slot = some (some 0x800) ∧ before 0x7F8 0x800 = true ∧ before 0x800 0x800 = false) ∧
    ((r (w fun x => { x with k := 2 })).map WinRec.k = some 2 ∧ spansFrames 2 0x1000 8 = true ∧ spansFrames 12 0x1FF8 8 = false) ∧
    ((r streaming).map (fun x => (x.head, x.closed)) = some (0x1000, false) ∧ before 0x1000 (0x1000 + BitVec.ofNat 48 8) = true ∧ before 0x1000 (0xFF8 + BitVec.ofNat 48 8) = false) ∧
    (r (w fun x => { x with closed := true })).map WinRec.closed = some true ∧
    (before 0xFF8 0x1000 = true ∧ before 0x1000 0x1000 = false ∧ (r streaming).map (fun x => x.tail + x.cap) = some 0x2000 ∧ before 0x2000 (0x2000 + BitVec.ofNat 48 8) = true ∧
      before 0x2000 (0x1FF8 + BitVec.ofNat 48 8) = false) := by decide +kernel

/-- Clauses of SyncLoad on the memory path: an earlier access of its class; one that is due with its words full, and with the second empty. -/
theorem witness_sync_waits : (let s := flying (.store [1] false) .none (.cell 0x100); s.cell.classBefore (0#1 ++ 0#2) true ++ s.cell.syncBefore ≠ [] ∧ s.FreeX 3) ∧
    (let s := flying (.sync 8 true) (.x 3) (.cell 0x1_FFF8); (s.due 0).map (fun a => (a.op, a.dst, a.loc)) = some (.sync 8 true, .x 3, .cell 0x1_FFF8) ∧ s.cell.wordFull 0x1_FFF8 = true ∧ s.cell.wordFull 0x1_FFFC = true ∧ s.cell.damagedAt 0x1_FFF8 8 = false ∧
      (s.onCell (Cell.emptyWord 0x1_FFFC)).cell.wordFull 0x1_FFFC = false ∧ ((s.onCell (Cell.emptyWord 0x1_FFFC)).due 0).isSome = true) := by decide +kernel

/-- The access in flight of a state, at a place of stream 20 whose record is r. -/
def inStream (r : StreamRec) (op : AccOp) (dst : Dst) (pos : BitVec 48) : State :=
  (atHome r .head dst).onCell fun c => { c with inflight := c.inflight.map fun a => { a with op := op, loc := .stream 20 pos } }

/-- Clauses of LoadsLand and StoresPerformed: packets with one lane left and with more; a stream load from a frame; a stream store past a close, before HEAD, and into a frame of memory and of a cell store. -/
theorem witness_lanes_and_frames :
    ((List.range 8).filter (fun i => !([] : List (Nat × W32)).any (·.1 == i))).length = 8 ∧ ((List.range 2).filter (fun i => !(([(1, 5)] : List (Nat × W32)).any (·.1 == i)))).length = 1 ∧
    (∀ i < 8, paged.cell.damagedAt (0 + 4 * i) 4 = false) ∧ ((flying (.storeV 8 [(3, 7)]) .none (.cell 0x100)).due 0).isSome = true ∧
    (let s := inStream (record 0) (.load 8 true) (.x 3) 0xFF8; (s.due 0).map (fun a => (a.op, a.dst, a.loc, a.gone)) = some (.load 8 true, .x 3, .stream 20 0xFF8, false) ∧ s.pkg.boundOf s.cell.k.ctx 20 = some ⟨0, 20, 0x1_1000, 0x2_1000, [0x1_2000, 0x1_3000], none⟩ ∧
      framePlace false 0 [0x1_2000, 0x1_3000] (s.pkg.record 0x2_1000).back (s.pkg.record 0x2_1000).k (s.pkg.record 0x2_1000).logn 0xFF8 s.pkg = (.ok (.phys 0x2_2FF8), s.pkg) ∧ (readPlace (.phys 0x2_2FF8) 8 s).2 = false) ∧
    (let s := inStream (record 0) (.store [1, 2] false) .none 0x1FFE; (s.due 0).isSome = true ∧ s.cell.fault = none ∧ (s.pkg.record 0x2_1000).closed = false ∧ before 0x1FFE (s.pkg.record 0x2_1000).head = false ∧ before 0xFFF (s.pkg.record 0x2_1000).head = true ∧
      framePlace true 0 [0x1_2000, 0x1_3000] 1 12 1 0x1FFE s.pkg = (.ok (.phys 0x2_3FFE), s.pkg) ∧ s.pkg.writable (.phys 0x2_3FFE) 2 = true) ∧
    (let s := inStream (record 0 fun r => { r with closed := true }) (.store [1, 2] false) .none 0x1FFE; (s.pkg.record 0x2_1000).closed = true) ∧
    (let p : Package := { paged.pkg with boards := boarded.pkg.boards }; framePlace true 0 [0x100, 0x200] 0 12 1 0x1FFE p = (.ok (.cell 0 0x11FE), p) ∧ framePlace true 0 [0x100, 0x200] 0 12 1 0x1FFE paged.pkg = (.bad, paged.pkg)) ∧
    (paged.pkg.writable (.cell 0 0x11FE) 2 = true) := by decide +kernel

/-- Clauses of AtomicsIssueAndPerform on values: a float atomic of each width that is due; a recipe, fixed and of the user, asked of its target. -/
theorem witness_float_atomics_and_recipes :
    (((flying (.amo .faddF32 4 0x4000_0000 0 true 0 false) (.x 3) (.phys 0x2_0000 0x0F)).due 0).map Access.gone = some false ∧ ((flying (.amo .faddBf16 2 1 0 false 0 false) .none (.phys 0x2_0000 0x0F)).due 0).isSome = true ∧
      paged.pkg.inRecord (physKey 0x0F 0x2_0000) 4 = false ∧ paged.pkg.flagWrites = []) ∧
    (let q : Recipe := ⟨0, true, [(1, 5, 0, 1)]⟩; let p := { talking.pkg with contexts := talking.pkg.contexts.map fun e => (e.1, { e.2 with recipes := [(16, q)] }) };
      (2 : Byte) ≠ p.number ∧ p.skidRun = [] ∧ recipeBytes 0 0 true p = some 4 ∧ recipeBytes 0 16 false p = some 4 ∧ remoteForm 0x1_0000 1 = .global ∧ p.recipe 0 16 = some q ∧ (4 = if q.w4 then 4 else 8) ∧
        translateFor true true 0 0x1_0000 p = (.ok (0x2_0000, 0x0F), p) ∧ p.trust.td = false ∧ (p.livePath 2 0).isSome = true) ∧
    (([1, 2, 3, 4, 5, 6, 7, 8] : List Nat).length = 8 ∧ ∀ x ∈ [1, 2, 3, 4, 5, 6, 7, 8], x < 2 ^ (8 * 4)) := by decide +kernel

/-- The acquire set and the frame of the memory-flags word: a load of the same activation in flight. -/
theorem witness_covered : (let s := flying (.load 8 true) (.x 3) (.cell 0); s.cell.inflight.any (fun a => s.cell.own a && a.acquired) = true ∧ paged.pkg.inRecord (physKey 0x0F 0x2_0000) 8 = false) := by decide +kernel

/-- Clauses of StreamInstructionsIssue on what is in flight: a read and a write of the activation in the stream, an operation on it, and a number above the last. -/
theorem witness_stream_order :
    (let s (op : AccOp) : State := withX 8 20 ((flying op .none (.stream 20 0)).onCell fun c => { c with win := streaming.cell.win, inflight := c.inflight.map fun a => { a with va := 0x8014_0000_0000_0000 } });
      regionOf 0x8014_0000_0000_0000 = .stream 20 0 ∧ (s (.load 8 true)).cell.inflight.all ((s (.load 8 true)).cell.own) = true ∧ (s (.load 8 true)).cell.streamPending 20 = false ∧
        (s (.store [1] false)).cell.inflight.all (fun a => (s (.store [1] false)).cell.own a && a.writes) = true) ∧
    (atHome (record 0) .join (.x 3)).cell.streamPending 20 = true ∧ (let s := withX 8 0x8000 streaming; s.HasX 8 0x8000 ∧ s.cell.acquiring = false ∧ s.FreeX 3) ∧
    (let s := withX 8 16 (withK (fun k => { k with lvl := true }) streaming); s.runtime = true ∧ s.HasX 8 16) := by decide +kernel;

/-- Clauses of StreamBindingAndWindows and HostAperture: a record of the overflow buffer that is published, one that waits for room and one that is dropped; data within the bounds and past them. -/
theorem witness_overflow_and_aperture :
    (let s (n : BitVec 15) (r : StreamRec) : State := (atHome r .head (.x 3)).onPkg fun p => { p with bound := p.bound.map fun b => { b with num := n } };
      (match publishNow 0 [1, 2] (s 0 (record 0)) with | .done _ => true | _ => false) = true ∧
      (match publishNow 0 [1, 2] (s 0 (record 0 fun r => { r with head := 0x2000 })) with | .waits => true | _ => false) = true ∧
      (match publishNow 0 [1, 2] (s 20 (record 0)) with | .dropped => true | _ => false) = true) ∧
    (let r := record 5 fun r => { r with hread := true, hprod := true };
      let s := (atHome r .head (.x 3)).onPkg fun p => { p with apertures := [(3, ⟨true, 0, 20, 0⟩)] };
      (apertureStream 3 s.pkg).map (·.1) = some ⟨true, 0, 20, 0⟩ ∧ before ((⟨true, 0, 20, 0⟩ : Aperture).pos 0x1FF8) r.tail = false ∧ before r.head ((⟨true, 0, 20, 0⟩ : Aperture).pos 0x1FF8 + BitVec.ofNat 48 8) = false ∧
        before r.head ((⟨true, 0, 20, 0⟩ : Aperture).pos 0x1FF8 + BitVec.ofNat 48 16) = true ∧
        (match framePlaces false ⟨0, 20, 0x1_1000, 0x2_1000, [0x1_2000, 0x1_3000], none⟩ r (framePieces r.k (8 / 2 ^ min r.k 7 + 2) 0xFF8 8) s.pkg with | (.ok l, _) => l == [(.phys 0x2_2FF8, 8)] | _ => false) = true ∧
        before ((⟨true, 0, 20, 0x1000⟩ : Aperture).pos 0x1FF8) r.head = false ∧ before (r.tail + r.cap) ((⟨true, 0, 20, 0x1000⟩ : Aperture).pos 0x1FF8 + BitVec.ofNat 48 8) = false) := by decide +kernel

/-- Clauses of ConversionsAndFunctions on values: a NaN of each kind, the infinities, zeros, a subnormal at the bound of the reciprocal and one past it, numbers of either sign, integer powers and powers of two. -/
theorem witness_function_values : (valueOf fFP32 0x7FA0_0000).isSig = true ∧ (valueOf fFP32 0x7FC0_0000).isNan = true ∧ valueOf fFP32 0x7F80_0000 = .inf false ∧ valueOf fFP32 0xFF80_0000 = .inf true ∧
    valueOf fFP32 0x8000_0000 = .fin true 0 (-149) ∧ valueOf fFP32 0x0020_0000 = .fin false (2 ^ 21) (-149) ∧ rat false (2 ^ 21) (-149) = 2 ^ (-128 : Int) ∧ valueOf fFP32 0x0020_0001 = .fin false (2 ^ 21 + 1) (-149) ∧
    (2 : ℚ) ^ (-128 : Int) < rat false (2 ^ 21 + 1) (-149) ∧ rat false 3 0 = (3 : Int) ∧ (8 : Nat) = 2 ^ 3 ∧ (∀ x ∈ [0x3F80_0000, 0x4040_0000], x < 2 ^ 32) := by
  refine ⟨by decide +kernel, by decide +kernel, by decide +kernel, by decide +kernel, by decide +kernel, by decide +kernel, ?_, by decide +kernel, ?_, ?_, by decide, by decide⟩ <;> norm_num [rat]

/-- Clauses of ReductionsAndMovement on sums: zeros that are all −0, a zero sum that is not, a sum that is none; NaNs alone. -/
theorem witness_sums : (∀ x ∈ [Machine.Num.fin true 0 3, .fin true 0 0], ∃ e, x = .fin true 0 e) ∧ ([Machine.Num.fin true 2 0, .fin false 1 1].map Machine.Num.rat).sum = 0 ∧ (¬∃ e, Machine.Num.fin true 2 0 = .fin true 0 e) ∧
    ([Machine.Num.fin false 3 0].map Machine.Num.rat).sum ≠ 0 ∧ (let s := withV 1 [0x7FC0_0000, 0x7FA0_0000] up; ∀ c ∈ (s.cell.vreg 1).elems 8 2, (valueOf 8 c).isNan = true) := by
  refine ⟨by intro x hx; simp only [List.mem_cons, List.not_mem_nil, or_false] at hx; rcases hx with rfl | rfl <;> exact ⟨_, rfl⟩, by norm_num [Machine.Num.rat, rat], by simp, by norm_num [Machine.Num.rat, rat], by decide +kernel⟩

/-- Clauses of ScalesMergesAndPipelines: a packet with a NaN, one with an infinity, one whose greatest magnitude is known; maxima that are both −∞, a NaN, in either order and equal; a matrix of numbers and one with a NaN. -/
theorem witness_scale_values : (valueOf fFP32 0x7FC0_0000).isNan = true ∧ valueOf fFP32 0xFF80_0000 = .inf true ∧ valueOf fFP32 0xC0C0_0000 = .fin true (3 * 2 ^ 22) (-21) ∧ rat false (3 * 2 ^ 22) (-21) = 6 ∧
    (Machine.Num.fin false 1 0).lt (.fin false 1 1) = true ∧ (Machine.Num.fin false 1 1).lt (.fin false 1 0) = false ∧ (Machine.Num.fin true 0 0).lt (.fin false 0 0) = false ∧ (FmtDesc.code 11 = 11 ∧ FmtDesc.isNarrow 11 = true) ∧
    (∃ m e, magValue (floatFmt 11) false (floatFmt 11).cmax = .fin false m e) ∧ (∃ m e, valueOf fBF16 0x3F80 = .fin false m e) ∧ (∀ n m e, valueOf fBF16 0x7FC0 ≠ .fin n m e) := by
  refine ⟨by decide +kernel, by decide +kernel, by decide +kernel, by norm_num [rat], by decide +kernel, by decide +kernel, by decide +kernel, by decide +kernel, ⟨_, _, rfl⟩, ⟨_, _, rfl⟩, fun n m e h => ?_⟩
  exact absurd (congrArg Machine.Num.isNan h) (by rw [show (valueOf fBF16 0x7FC0).isNan = true by decide +kernel]; exact Bool.noConfusion)

/-- Clauses of HandlerInstructions and PacketsTravelAndNodesServe: a channel that fires and holds a packet, of an idle handler that `hnd.bind` makes RUNNABLE; an arrival that an error spoils; a channel that replaces. -/
theorem witness_binding : (let s := withX 5 4 (withX 6 3 (withChan (chan id [pk [1]]))); s.HasX 5 4 ∧ s.HasX 6 3 ∧ (s.cell.chanAt 4).en = true ∧ (s.cell.chanAt 4).fire = true ∧ (s.cell.chanAt 4).waiting = true ∧
      (s.cell.handler 3).v = true ∧ (s.cell.handler 3).st = .idle) ∧
    (let s := circuit.onPkg fun p => { p with wire := [⟨0, 2, 0, 4, pk [7]⟩] }; (s.pkg.wire[(⟨0, true⟩ : Arrival).index]?).isSome = true) ∧ (chan (fun C => { C with latest := true }) [pk [1]]).latest = true := by decide +kernel

/-! ### Units of the engines -/

/-- What a read or write of an engine came to: 0 done, 1 waiting or stalled, 2 a fault. -/
def ioKind {α : Type} (r : Io α) : Nat := match r with | .ok .. => 0 | .block .. => 1 | .fault .. => 2
/-- What a unit came to: 0 more, 1 done, 2 waiting or stalled, 3 a fault. -/
def ranKind (r : Ran) : Nat := match r with | .more .. => 0 | .done .. => 1 | .block .. => 2 | .fault .. => 3
/-- A property of the state in which a unit goes on or ends. -/
def ranWith (r : Ran) (f : State → Bool) : Bool := match r with | .more _ t => f t | .done _ _ _ t => f t | _ => false

/-- Clauses of EngineUnits on tiles: a load and a store by rows and transposed, that read, meet a translation stall and meet an error; with a row left and with none. -/
theorem witness_tile_moves :
    let x (v : Nat) (u : Nat) (w3 : W32) : Cmd := cmd v 0x100 0x4000_0000 w3 fun x => { x with unit := u, begun := true };
    (mxOk (x 0 0 0x0020_0004) = true ∧ boarded.cell.tokenChannel (x 0 0 0x0020_0004) = true ∧ fld (x 0 0 0x0020_0004).w3 21 5 + 1 = 2 ∧ moveAddr (x 0 1 0x0020_0004) 1 = 0x4000_0000_0000_0140) ∧
    ((match readMem .mx 0x4000_0000_0000_0100 64 boarded with | .ok b _ => b.length == 64 | _ => false) = true ∧ ranKind (runEngine .mx (x 0 0 0x0020_0004) boarded) = 0 ∧ ranKind (runEngine .mx (x 0 1 0x0020_0004) boarded) = 1) ∧
    (let s := boarded.onCell fun c => { c with badStore := [(0x20, true)] }; ioKind (readMem .mx 0x4000_0000_0000_0100 64 s) = 2 ∧ ranKind (runEngine .mx (x 0 0 0x0020_0004) s) = 3) ∧
    (ioKind (readMem .mx 0x2_0000 64 boarded) = 1 ∧ ranKind (runEngine .mx (cmd 0 0x2_0000 0 0) boarded) = 2) ∧
    (mxOk (x 0 0 0x1820_0001) = true ∧ moveWidth (x 0 0 0x1820_0001) = 32 ∧ ioKind (Io.each (fun c s => readRow (moveAddr (x 0 0 0x1820_0001) c) ((2 * 32 + 7) / 8) s) (List.range 16) boarded) = 0) ∧
    (mxOk (x 1 1 0x0020_0004) = true ∧ boarded.cell.badRows 0 [1] = false ∧ ranWith (runEngine .mx (x 1 1 0x0020_0004) (boarded.onCell fun c => c.putTileRow 0 1 (List.replicate 64 9))) (fun t => t.cell.load 0x140 2 == [9, 9]) = true) ∧
    (mxOk (x 1 0 0x1020_0001) = true ∧ 2 * moveWidth (x 1 0 0x1020_0001) % 8 = 0 ∧ boarded.cell.badRows 0 (List.range 2) = false ∧
      ranWith (runEngine .mx (x 1 0 0x1020_0001) (boarded.onCell fun c => (c.putTileRow 0 0 [1, 2, 3]).putTileRow 0 1 [4, 5, 6])) (fun t => t.cell.load 0x110 2 == [2, 5]) = true) := by decide +kernel

/-- Clauses of EngineUnits on products: a group of each kind and its last pass; a matrix-vector product; the sums of a pair, of a block and of an integer. -/
theorem witness_products :
    let x (f : FmtDesc) (w2 : W32) (u : Nat) : Cmd := cmd 2 (BitVec.ofNat 32 (f.toNat * 2 ^ 25 + f.toNat * 2 ^ 18)) w2 0 fun x => { x with unit := u, begun := true };
    (mxOk (x fBF16 0 0) = true ∧ mmaGroup (x fBF16 0 0) = some .half ∧ boarded.cell.tokenChannel (x fBF16 0 0) = true ∧ boarded.cell.badTiles = [] ∧ fld (x fBF16 0 0).w2 8 8 + 1 = 1) ∧
    (mxOk (x 12 0x2700 1) = true ∧ mmaGroup (x 12 0x2700 1) = some .eight ∧ 32 * 1 < fld (x 12 0x2700 1).w2 8 8 + 1 ∧ 32 * (1 + 1) ≥ fld (x 12 0x2700 1).w2 8 8 + 1) ∧
    (mxOk (x fE2M1 0x3F00 0) = true ∧ mmaGroup (x fE2M1 0x3F00 0) = some .scaled) ∧ (mxOk (x 0 0xFF8 0) = true ∧ mmaGroup (x 0 0xFF8 0) = some .int ∧ fld (x 0 0xFF8 0).w2 2 1 = 0) ∧
    (let z := cmd 3 0x100 0x4000_0000 (BitVec.ofNat 32 (fBF16.toNat * 2 ^ 9 + fBF16.toNat * 4)); mxOk z = true ∧ mvGroup z = some .half ∧ fld z.w3 16 1 = 0 ∧ 512 / max (width fBF16) (width fBF16) * width fBF16 / 8 = 64 ∧
      ioKind (readMem .mx (z.addr + BitVec.ofNat 64 (31 * 64)) 64 boarded) = 0) ∧
    (let e : List (Machine.Num × Machine.Num) := [(.fin false 3 0, .fin true 1 0)]; (∀ i ∈ e, (match i.1, i.2 with | .fin .., .fin .. => true | _, _ => false) = true) ∧ (0x7F : Nat) < 0xFF) ∧
    (intProduct 1 ⟨5, Inner.zero, false, none⟩ (0, -7, false)).acc = -2 ∧ (intProduct 2 ⟨5, Inner.zero, false, none⟩ (0, -7, false)).inner = ⟨-7, 1⟩ := by decide +kernel
/-- Clauses of EngineUnits on what leaves the accumulators: a row to drain, one that is poisoned; a softmax of each kind; a rectangle to load, damaged and not. -/
theorem witness_accumulators :
    (let z := cmd 5 0x100 0x4000_0000 0x0A00_4C00; mxOk z = true ∧ fld z.w3 25 7 = 5 ∧ boarded.cell.poisonedRow 5 = false ∧ (boarded.cell.markRows true [5]).poisonedRow 5 = true ∧
      ioKind (writeAll .mx ((rowPieces (drainAddr z 0) (drainBytes z)).mapIdx fun i q => (q.1, List.replicate q.2 0)) boarded) = 0) ∧
    (let z (fin : Nat) : Cmd := cmd 6 (BitVec.ofNat 32 (64 * 2 ^ 11 + 96 * 2 ^ 4 + fin * 2)) (if fin = 1 then 0 else BitVec.ofNat 32 (12 * 2 ^ 22)) 0; mxOk (z 1) = true ∧ mxOk (z 0) = true ∧ fld (z 1).w1 1 1 = 1 ∧ fld (z 0).w1 1 1 = 0 ∧
      fld (z 0).w1 2 1 = 0 ∧ ∀ i < 32, boarded.cell.poisonedRow (fld (z 0).w1 25 7 + i) = false) ∧
    (let z := cmd 7 0x1_FFFC 0 0; mxOk z = true ∧ boarded.cell.damagedAt 0x1_FFFC 4 = false ∧ (boarded.onCell fun c => { c with badStore := [(0x3FFF, true)] }).cell.damagedAt 0x1_FFFC 4 = true ∧ rectOf z.w2 = [(0, 0)]) := by decide +kernel

/-- A copy descriptor in one dimension of n elements of 8 bytes, from 0x1000 to 0x1040 of the cell store. -/
def copyDesc (n : Nat) : List Word := [0x4000_0000_0000_1000, 0x4000_0000_0000_1040, 0x0B, BitVec.ofNat 64 n] ++ List.replicate 3 0 ++ [8, 0, 0, 0, 0, 0, 0] ++ [8, 0, 0, 0, 0, 0, 0] ++ [0x4000_0000_0000_2000, 0x77, 0]

/-- Clauses of EngineUnits on the copy engine: a descriptor that checks and one that does not, a chunk left and none, elements in the cell store, and a destination that cannot be written. -/
theorem witness_copy : let x (d : List Word) : Cmd := cmd 0 0x100 0x4000_0000 0 fun x => { x with begun := true, desc := d };
    (x []).addr.toNat % 64 = 0 ∧ boarded.cell.tokenChannel (x []) = true ∧ (match readMem .cp (x []).addr 192 boarded with | .ok b _ => !cpOk 0 (wordsOfBytes 24 b) | _ => false) = true ∧
    (cpOk 0 (copyDesc 2) = true ∧ cpOk 1 (copyDesc 2) = true ∧ cpOk 2 (copyDesc 2) = true ∧ cpInStore (copyDesc 2) = true ∧ cpRem (copyDesc 2) = false ∧ cpElem (copyDesc 2) = 8 ∧ cpTotal (copyDesc 2) = 2 ∧ cpTotal (copyDesc 0) = 0) ∧
    (boarded.cell.badStore = [] ∧ boarded.cell.poisonStore = [] ∧ (∀ i < 2, region (cpDst (copyDesc 2) + strideSum (cpDstr (copyDesc 2)) (indexVector (cpCounts (copyDesc 2)) i)) 8 = .cell (0x1040 + 8 * i)) ∧
      (∀ i < 2, region (cpSrc (copyDesc 2) + strideSum (cpSstr (copyDesc 2)) (indexVector (cpCounts (copyDesc 2)) i)) 8 = .cell (0x1000 + 8 * i)) ∧
      (∀ i < 2, region (cpIdx (copyDesc 2) + BitVec.ofNat 64 ((indexVector (cpCounts (copyDesc 2)) i).getD 0 0 * 4)) 4 = .cell (0x2000 + 4 * i))) ∧
    ranWith (runEngine .cp (x (copyDesc 2)) (boarded.onCell (Cell.storeAt 0x1008 [1, 2, 3, 4, 5, 6, 7, 8]))) (fun t => t.cell.load 0x1048 8 == [1, 2, 3, 4, 5, 6, 7, 8]) = true ∧
    (let d := (copyDesc 2).set 1 0x3000_0000_0000_0000; ranKind (runEngine .cp (x d) boarded) = 3) := by decide +kernel

/-- Clauses of EngineUnits on the walker: a walk that closes, begins, waits for room and reads its descriptor; a load past the end, of a page that failed, is far or in place; each tier of a page-in, and its pieces; a free. -/
theorem witness_walker_commands :
    let hdr : List Word := [0, 0x8_0000_0010, 0x1_0080, 0, 0, 0, 0, 0];
    let x (v u : Nat) (w3 : W32) : Cmd := cmd v 0x1_0000 0 w3 fun x => { x with unit := u, begun := true };
    (kvOk (x 0 0 1) = true ∧ boarded.cell.tokenChannel (x 0 0 1) = true ∧ ranKind (runEngine .kv (cmd 0 0 0 1) boarded) = 1 ∧ ranKind (runEngine .kv (x 0 0 1) boarded) = 0 ∧ boarded.openWalks = 0 ∧ (x 0 1 1).addr ≠ 0 ∧ (cmd 0 0 0 1).addr = 0) ∧
    ((match readMem .kv 0x1_0000 64 boarded with | .ok b _ => b.length == 64 && !walkOk (wordsOfBytes 8 b) | _ => false) = true ∧ walkOk [0x1_0000, 0, 0x0000_8000_0000_0000 ||| BitVec.ofNat 64 (9 * 2 ^ 33 + 9 * 2 ^ 40)] = true) ∧
    (let s := walking [] hdr; s.cell.walkAt 1 ≠ none ∧ (s.cell.walkAt 1).map Walk.following = some (some (0x1_0000, 0)) ∧ ioKind (readHeader .kv 8 0x1_0000 0 s) = 0 ∧ ranKind (runEngine .kv (x 0 2 1) s) = 1) ∧
    (let w := (walking [] hdr).cell.walkAt 1; w.map (loadOk (cmd 1 0x100 0 1)) = some true) ∧
    (let s (f : Page → Page) : State := walking [f page] hdr; (s id).cell.walkAt 1 ≠ none ∧ ranKind (runEngine .kv (cmd 1 0x100 0 1) (s id)) = 2 ∧ ranKind (runEngine .kv (cmd 1 0x100 0 1) (s fun p => { p with tier := 3 })) = 3 ∧
      ranKind (runEngine .kv (cmd 1 0x100 0 1) (s fun p => { p with err := 2 })) = 3 ∧ ranKind (runEngine .kv (cmd 1 0x100 0 1) (s fun p => { p with tier := 0, data := 0x1_0000 })) = 1) ∧
    (let s := (walking [] hdr).onCell (Cell.onWalk 1 fun w => { w with next := 0 }); (s.cell.walkAt 1).map Walk.following = some none ∧ ranKind (runEngine .kv (cmd 1 0x100 0 1) s) = 1) ∧
    (let s (t : Word) : State := walking [] [0, 0x8_0000_0010 ||| t <<< 48, 0x1_0080, 0x1_0100, 0, 0, 0, 0]; ranKind (runEngine .kv (x 3 0 0) (s 0)) = 1 ∧ ranKind (runEngine .kv (x 3 0 0) (s 1)) = 0 ∧ ranKind (runEngine .kv (x 3 0 0) (s 2)) = 0 ∧ ranKind (runEngine .kv (x 3 0 0) (s 3)) = 3) ∧
    (let y (u : Nat) : Cmd := cmd 3 0x1_0000 0 1 fun x => { x with unit := u, begun := true, desc := [0x1_0080, 0x1_0100] }; ranKind (runEngine .kv (y 2) boarded) = 0 ∧ ranKind (runEngine .kv (y 3) boarded) = 1 ∧ (y 2).ctx = boarded.cell.k.ctx) ∧
    (freeOk (cmd 4 0x1_0000 0 0) [0x1_0200, 0x1_0300, 0x1_FFFF_FFFF, 0] = true ∧ ranKind (runEngine .kv (cmd 4 0x1_0000 0 0 fun x => { x with unit := 1, begun := true, desc := [0x1_0200, 0x1_0300, 0x1_0000_FFFF, 0, 0x1_0000] }) (walking [] hdr)) = 0 ∧
      ranKind (runEngine .kv (cmd 4 0x1_0000 0 0 fun x => { x with unit := 1, begun := true, desc := [0x1_0200, 0x1_0300, 0x1_0000_FFFF, 0, 0] }) (walking [] hdr)) = 1) := by decide +kernel

/-- Clauses of EngineUnits on sketches and chains: a descriptor to read, a page of each outcome, the end of the pages; scores kept by threshold and by rank; a chain with elements left, with none, and one whose result cannot be written. -/
theorem witness_sketch_and_chain :
    let hdr : List Word := [0x1_0040, 0x1_0000_0010, 0x1_0080, 0, 0x1_0100, 0, 0, 0];
    let d : List Word := [0x1_0000, 0x1_0200, 0x1_0300, 1, 0, 0, 0, 0];
    let x (u : Nat) (l : List Word) : Cmd := cmd 0 0x1_0000 0 0 fun x => { x with unit := u, begun := true, desc := d ++ l };
    ((x 0 []).w3 = 0 ∧ boarded.cell.tokenChannel (x 0 []) = true ∧ skOk (x 0 []) d = true ∧ skPages d = 1 ∧ ranKind (runEngine .sk (cmd 0 0x1_0000 0 0) boarded) = 3 ∧ (0 < skPages (x 0 []).desc)) ∧
    (dw (x 0 [0]).desc 8 = 0 ∧ dw (x 0 [0x1_0000]).desc 8 ≠ 0 ∧ ranKind (runEngine .sk (x 0 [0x1_0000]) (walking [] hdr)) = 0 ∧
      (match readHeader .sk 32 0x1_0000 0 (walking [] hdr) with | .ok p _ => p.sketch.toNat % 64 == 0 && p.tcount == 1 && p.tier == 0 | _ => false) = true) ∧
    (skPages (x 1 [0, 1]).desc ≤ 1 ∧ ranKind (runEngine .sk (x 1 [0, 1]) boarded) = 1) ∧
    (skTop d = false ∧ skTop (d.set 3 0x1_0004_0001) = true ∧ survivors (d.set 3 0x1_0004_0002) [.score 3, .score 5] = [false, true] ∧ survivors d [.score (-1), .bit true] = [false, true]) ∧
    (let z (u : Nat) (a : Word) : Cmd := cmd 0 0 0 0 fun x => { x with unit := u, begun := true, desc := [0x4000_0000_0000_0100, a, 0, 0x1000_0808_0000_0001, 0, 0, 0, 0] };
      (chainDesc (z 0 0) (z 0 0).desc).count = 1 ∧ ranKind (runEngine .ch (z 0 0x4000_0000_0000_0200) boarded) = 0 ∧ ranKind (runEngine .ch (z 1 0x4000_0000_0000_0200) boarded) = 1 ∧ ranKind (runEngine .ch (z 0 0x3000_0000_0000_0000) boarded) = 3) := by decide +kernel

/-! ### The link, groups and conversations -/

/-- Clauses of RemoteLoadsAndStores, ConversationRequestsAndMessages and ConversationTurns on holds: a barrier that holds requests, a home that is cut off, an earlier store still in flight, a packet that is poisoned. -/
theorem witness_held_requests : (let s := linked.onPkg fun p => { p with trust := { p.trust with barrier := some ⟨false⟩ } }; s.pkg.trust.barrier ≠ none ∧ s.linkHeld 2 = true ∧ s.linkHeld 3 = true ∧ linked.pkg.trust.barrier = none ∧ linked.pkg.cutOff 3 = true) ∧
    (let s := withX 12 0x30_3005 talking; s.HasX 12 0x30_3005 ∧ s.pkg.cutOff (cvHome 0x30_3005) = true ∧ s.cell.pend = .none ∧ s.cell.cur ≠ none ∧ s.cell.k.t = false ∧ s.TakesMessages ∧ (s.cell.chanAt 5).pkts = []) ∧
    (let s := talking.onCell fun c => { c with inflight := [⟨3, 0, 0x10, 0, .store [1] false, .none, 0x1_0000, .phys 0x2_0000 0x0F, 0, 0, [], false, false, true, false⟩], nextId := 4 }; s.cell.releaseSet.any s.cell.flying = true) ∧
    (let s := talking [{ message 5 with psn := true }]; (s.cell.chanAt 5).pkts.map Packet.psn = [true] ∧ s.TakesMessages) := by decide +kernel

/-- Clauses of AnswersAndLinkEvents on replies: a reply out of a trust domain and in one, of an epoch that is over and with a bad seal; a line load, a verdict, a status, a refusal to a copy; a run that a failed tag ends, with its message out and not. -/
theorem witness_replies : (waiting true (.store 0x1_0000 [7] []) .none).TakesReply 2 ⟨0, true, 0⟩ ∧
    (let s := (waiting true (.store 0x1_0000 [7] []) .none fun o => { o with req := { o.req with epoch := 3 } }).onPkg fun p => { p with trust := { p.trust with td := true, mask := 5, epoch := 3 } }; s.TakesReply 2 ⟨0, true, 3⟩ ∧ (2 : Word).toNat < s.pkg.trust.epoch.toNat ∧ s.pkg.trust.epDrop ≠ 255 ∧ s.pkg.trust.sealF ≠ 255 ∧
      (s.pkg.peer 2).badRun < 2 ∧ s.pkg.trust.barrier = none ∧ (s.pkg.peer 2).failed = false ∧ (s.pkg.outReq 2 0).map OutReq.refused = some 0) := by decide +kernel
theorem witness_landings :
    (let s := (waiting false (.load 0x1_0000 128) .none).onCell fun c => { c with inflight := c.inflight.map fun a => { a with op := .awaitLine 0x100 } }; (s.cell.inflight.find? (·.id == 3)).map Access.op = some (.awaitLine 0x100)) ∧
    (let s := (waiting false (.convTurn 0x30_2005 false []) .none).onCell (Cell.setPend (.request 2 0 0 0x30_2005 false)); (s.cell.handler 0).pend = .request 2 0 0 0x30_2005 false ∧ (s.pkg.outReq 2 0).map (fun o => o.req.epoch) = some 0) ∧
    (let s := waiting false (.convState 0x30_2005 none) (.x 3); (s.cell.inflight.find? (·.id == 3)).map (fun a => (a.dst, a.gone)) = some (.x 3, false)) ∧
    (let s := (waiting false (.store 0x1_0000 [7] []) .none fun o => { o with engine := true, access := none, launch := none }).onCell (Cell.putEngine .cp ⟨[cmd 0 0 0 0 fun x => { x with begun := true }], []⟩); s.launchAt s.here = none ∧
      (s.cell.cp.q.find? (fun x : Cmd => x.lane == 0 && x.begun)).isSome = true ∧ s.cell.fault = none) ∧
    (let e : SkidReq := ⟨2, 0, 5, 0, [(none, 0x2_0000, 8)], none, false, false⟩; e.failed = false ∧ e.msg.isNone = true ∧ e.port = 5 ∧ (talking.pkg.livePath 2 0).isSome = true) ∧
    (let s := waiting true (.store 0 [7] []) .none; (s.pkg.peer 2).out.all (fun o => o.write && !o.engine) = true ∧ s.pkg.bindings = [] ∧ s.pkg.convs = [] ∧ s.pkg.groups = []) ∧
    (let s := boarded.onCell fun c => { c with inflight := [⟨3, 0, 0x10, 0, .load 8 true, .x 3, 0x1_0000, .stall 1, 0, 0, [], false, false, true, false⟩], nextId := 4 }; s.pkg.host.held = false ∧ s.others = [] ∧ s.cell.inflight.map Access.loc = [.stall 1] ∧
      regionOf 0x1_0000 = .global ∧ translateFor true false 0 0x1_0000 s.pkg = (.ok (0x2_0000, 0x0F), s.pkg)) := by decide +kernel

/-- A contribution of the cell in focus, at home on its own package, that completes access 3. -/
def own7 : State := ((grouped 0).onPkg (Package.onPeer 0 fun P => { P with out := [⟨{ asks (.contrib 7 0 []) with seq := 4, cell := 0 }, some 0, some 3, 0, 0x10, 0x77, false, false, 0, 0, false, false, none, none, none⟩], nextSeq := 5 })).onCell fun c =>
  { c with inflight := [⟨3, 0, 0x10, 0, .await, .x 3, 0x1_0000, .none, 7, 0, [], true, false, true, false⟩], nextId := 4 }

/-- Clauses of GroupsAtTheHome on a round: complete, with a member that failed, with one that is only late; a destination that is written, refused and not translated; what waits for the end of the round; a session of every new member. -/
theorem witness_rounds :
    let a : Contrib := ⟨0, asks (.contrib 7 0 []), 0, [0x80, 0x3F, 0, 0, 0, 0, 0, 0]⟩; let b : Contrib := ⟨2, asks (.contrib 7 0 []), 0, [0x00, 0x40, 0, 0, 0, 0, 0, 0]⟩;
    let s (l : List Contrib) (f : Group → Group) : State := grouped 0 fun x => f { x with contribs := l };
    (((s [a, b] id).pkg.group 0 7).map (fun x => (x.contribs == x.now, x.members.all fun m => x.now.any (·.src == m))) = some (true, true) ∧ ((s [] id).pkg.group 0 7).map Group.now = some [] ∧
      ((s [a] id).pkg.group 0 7).map (fun x => (x.members.all fun m => x.now.any (·.src == m), x.members.any fun m => m != 0 && (linked.pkg.peer m).failed)) = some (false, false) ∧
      (let t := (s [a] id).onPkg (Package.onPeer 2 fun P => { P with failed := true }); (t.pkg.peer 2).failed = true)) ∧
    ((s [a, b] fun x => { x with multicast := true }).pkg.group 0 7).map (fun x => x.multicast && x.members.contains 0) = some true ∧
    ((s [b] fun x => { x with multicast := true, members := [2] }).pkg.group 0 7).map (fun x => x.members.contains 0 || x.now.any (·.src == 0)) = some false ∧
    (match (storeVirtual 0 0x3000_0000_0000_0000 [0, 0] linked.pkg).1 with | .bad => true | _ => false) = true ∧ (match (storeVirtual 0 0x2_0000 [0, 0] linked.pkg).1 with | .stall .. => true | _ => false) = true ∧
    (let t := own7; t.pkg.outReq 0 4 ≠ none ∧ (t.cell.inflight.find? (·.id == 3)).map (fun a => (a.dst, a.acq)) = some (.x 3, true)) ∧
    (membership.pkg.prk 2).isSome = true ∧ (let t := membership fun T => { T with barrier := some ⟨true⟩, pending := some (4, 5) }; t.pkg.trust.pending = some (4, 5) ∧ (4 : BitVec 256).getLsbD t.pkg.number.toNat = false) := by decide +kernel

/-! ### Conversations at their home, launches, faults, the host -/

/-- Clauses of ConversationsAtTheHome: a protocol store with room for an image and one without; a delegation that is accepted and one that waits for a place among the 16. -/
theorem witness_conversation_room :
    (let room (s : State) : Bool := decide (s.pkg.protocolStore + (if s.pkg.convs.any (fun e => e.2.image == protocol) then 0 else protocol.length - 1) ≤ 16384);
      let full (n : Nat) : State := talking.onPkg fun p => { p with convs := [(0, conv fun v => { v with image := List.replicate n 0 })] };
      room talking = true ∧ room homed = true ∧ room (full 16384) = true ∧ room (full 16385) = false) ∧
    (let r := asks (.convDeleg (word 0 0) 0x10_0127); (match conv.decideDeleg homed 5 2 r (word 0 0) 0x10_0127 with | .accepted v => v.endpoint 0 == some ⟨2, 9, 7⟩ && v.turns == 1 | _ => false) = true ∧
      (match (conv fun v => { v with msgs := List.replicate 16 ⟨1, [], false, none, none, false⟩, credits := [(⟨0, 0, 5⟩, 0)] }).decideDeleg homed 5 2 (asks (.convDeleg (word 0 0) 5)) (word 0 0) 5 with | .held => true | _ => false) = true ∧
      (conv fun v => { v with msgs := List.replicate 15 ⟨1, [], false, none, none, false⟩, credits := [] }).buffered < 16 ∧ ¬ (conv fun v => { v with msgs := List.replicate 16 ⟨1, [], false, none, none, false⟩, credits := [] }).buffered < 16) ∧
    (let x := transOf 0x1008_1800; conv.trans.find? (fun t => t.state == conv.state && t.role == cvRole (word 0 3) && t.kind == cvKind (word 0 3) && t.choice == false) = some x ∧ x.recv.getLsbD 1 = true ∧ conv.holder homed 2 (asks (.convTurn (word 0 3) false [7])) (cvRole (word 0 3)) = true ∧
      conv.buffered + ((List.range 8).filter x.recv.getLsbD).length ≤ 16) := by decide +kernel

/-- Clauses of ConversationsAtTheHome on deliveries: a message to an endpoint here, whose role a load owns or none, and which is a delegation or not; an endpoint that is not fit; a message that comes from another home. -/
theorem witness_deliveries :
    (let m : ConvMsg := ⟨1, [5], true, some ⟨0, 0, 5⟩, homed.launchAt 0, false⟩; let v := conv fun v => { v with msgs := [m] }; v.msgs.find? (fun m => m.role == 1 && m.credit) = some m ∧ v.msgs.find? (fun m => m.dest == some ⟨0, 0, 5⟩) = some m ∧ (0 : Byte) = homed.pkg.number ∧ v.ownerOf 1 = homed.launchAt 0 ∧
      (m.lanes.headD 0).getLsbD 12 = false) ∧
    (let m : ConvMsg := ⟨1, [0x1000], true, some ⟨0, 0, 5⟩, none, false⟩; (m.lanes.headD 0).getLsbD 12 = true ∧ conv.ownerOf 1 = none ∧ (conv fun v => v.bindRole 1 (some ⟨0, 0, 5⟩) (some 4)).ownerOf 1 = some 4 ∧
      (let s := (running.onPkg fun p => { p with convs := [(5, conv)] }); s.launchAt 0 = some 0 ∧ s.onBoardOf 0 0 = true)) ∧
    (homed.onBoardOf 0 9 = false ∧ ((homed.cellAt 0).chanAt 6).fit = false ∧ ((homed.cellAt 0).chanAt 5).fit = true) ∧
    (([0x1000] : List W32).headD 0).getLsbD 12 = true ∧ (([0x1000] : List W32).headD 0).getLsbD 31 = false ∧ homed.pkg.bindings = [] ∧ (homed.cellAt 0).stopped = false ∧ homed.moving (homed.cellAt 0) = true ∧ ((homed.cellAt 0).chanAt 5).room = true ∧
    (let s := homed (fun v => v.setCredits ⟨2, 9, 6⟩ 3); (2 : Byte) ≠ s.pkg.number ∧ (aget s.pkg.convs 5).map (fun v => v.credits.any fun c => c.1 == ⟨2, 9, 6⟩) = some true) ∧
    (let v := conv fun v => { v with brk := true }; v.brk = true ∧ v.endpoint 0 = some ⟨2, 9, 6⟩ ∧ (homed fun _ => v).pkg.endings = []) ∧ ((conv fun v => { v with state := 1 }).terminal = true ∧ conv.terminal = false) := by decide +kernel

/-- A context whose interface is in ERROR. -/
def erring : State := (launching.onPkg (Package.onCtx 0 fun c => { c with owner := 1 })).onHost fun h => { h with vfs := h.vfs.set 0 { Vf.reset with st := .error } }

/-- Clauses of LaunchesAdmitted on the record: a context that is barred; a record that is damaged, whose frame is not mapped, and whose frame stands at no address. -/
theorem witness_launch_records :
    (let b : Bound := ⟨0, 1, 0x1_1000, 0x2_1000, [0x1_2000, 0x1_3000], none⟩; let read (b : Bound) (s : State) := readRecordAt b (s.pkg.record b.pa) 0 s;
      (match read b erring with | (.ok _, p) => p.barred 0 | _ => false) = true ∧ (match read b launching with | (.ok _, p) => !p.barred 0 | _ => false) = true ∧
      (match read { b with frames := [0x3_2000, 0x3_3000] } launching with | (.stall .., _) => true | _ => false) = true ∧
      (match read { b with frames := [0x3000_0000_0000_2000, 0x3000_0000_0000_3000] } launching with | (.refused c, _) => c == cACCESS | _ => false) = true) ∧
    (match fetchWords 0 0x1_0000 2 launching.pkg with | (.ok l, _) => l == image | _ => false) = true ∧ (match fetchWords 0 0x2_0000 2 launching.pkg with | (.stall .., _) => true | _ => false) = true ∧
    (match fetchWords 0 0x3000_0000_0000_0000 2 launching.pkg with | (.refused c, _) => c == cACCESS | _ => false) = true := by decide +kernel

/-- A launch record with one member, and the same with a field changed. -/
def recordWords (f : List Word → List Word := id) : List Word := f [0x1_4000, 0, 0, 0, 0, 0, 0x07AB_0000_0000_0000, 0]

/-- Clauses of LaunchesAdmitted on the tables: reserved bits, addresses that are not aligned, tables that are refused, a level without the right to it, more blocks than the context may hold, and a record that reads; a graph, its loads and a pipe likewise. -/
theorem witness_launch_tables :
    (let c (f : Context → Context) : Context := f ⟨0x8000, 0, 0, 0, 0, 2, false, 0, [], [], 0, [], [], Vector.replicate 16 0⟩;
      let reads (c : Context) (d : List Word) (code : Option Byte) (s : State := launching) : Bool := match (readTables 0 c d s.pkg).1, code with | .refused e, some f => e == f | .ok _, none => true | _, _ => false;
      let with' (a : Nat) (l : List Word) : State := launching.onPkg fun p => p.write a (l.flatMap fun w => bytesOf 8 w.toNat);
      reads (c id) recordWords none = true ∧ reads (c id) (recordWords (·.set 7 1)) (some cCONFIG_CHECK) = true ∧ reads (c id) (recordWords (·.set 6 1)) (some cCONFIG_CHECK) = true ∧ reads (c id) (recordWords (·.set 6 (65 <<< 32))) (some cCONFIG_CHECK) = true ∧
      reads (c id) (recordWords (·.set 6 0xC)) (some cCONFIG_CHECK) = true ∧ reads (c id) (recordWords (·.set 0 0)) (some cCONFIG_CHECK) = true ∧ reads (c id) (recordWords (·.set 0 0x1_4010)) (some cMISALIGNED) = true ∧ reads (c id) (recordWords (·.set 4 0x1_4020)) (some cMISALIGNED) = true ∧
      reads (c id) (recordWords fun l => (l.set 5 0x1_4008).set 6 (1 <<< 32)) (some cMISALIGNED) = true ∧ reads (c id) (recordWords (·.set 1 0x3000_0000_0000_0000)) (some cACCESS) = true ∧ reads (c id) (recordWords (·.set 4 0x3000_0000_0000_0000)) (some cACCESS) = true ∧
      reads (c id) (recordWords fun l => (l.set 5 0x3000_0000_0000_0000).set 6 (1 <<< 32)) (some cACCESS) = true ∧ reads (c fun c => { c with maxBlk := 0 }) recordWords (some cACCESS) = true ∧
      reads (c id) (recordWords fun l => (l.set 5 0x1_5000).set 6 (1 <<< 32)) none (with' 0x2_5000 [0x1_1000, 17]) = true ∧ reads (c id) recordWords (some cPRIVILEGED) (with' 0x2_4000 [0x4000]) = true ∧ reads (c fun c => { c with rtok := true }) recordWords none (with' 0x2_4000 [0x4000]) = true) := by decide +kernel
theorem witness_launch_graphs :
    (let with' (a : Nat) (l : List Word) : State := launching.onPkg fun p => p.write a (l.flatMap fun w => bytesOf 8 w.toNat);
      let refused (code : Byte) (l : List Word) : Bool := match (readMember 0 0x1_4000 (with' 0x2_4000 l).pkg).1 with | .refused c => c == code | _ => false;
      (match (readMember 0 0x1_4000 launching.pkg).1 with | .ok m => m == member | _ => false) = true ∧ (match (readMember 0 0 launching.pkg).1 with | .ok m => m == Member.absent | _ => false) = true ∧ refused cCONFIG_CHECK [0x8000] = true ∧ refused cCONFIG_CHECK [0, 1] = true ∧ refused cCONFIG_CHECK [6 <<< 11] = true ∧
      refused cCONFIG_CHECK [0, 0, 0, 0, 0x1_0000, 0x1000] = true ∧ refused cMISALIGNED [0, 0, 0, 0, 0x1_0004] = true ∧ (match (readMember 0 0x3000_0000_0000_0000 launching.pkg).1 with | .refused c => c == cACCESS | _ => false) = true) ∧
    (let e : List Word := [0x1_0000, 0x200_0001, 0x1_0000, 0]; (match (readGraphLoad 0 1 1 e launching.pkg).1 with | .ok g => g.len == 2 && g.arms.length == 1 | _ => false) = true ∧ (match (readGraphLoad 0 1 1 (e.set 3 1) launching.pkg).1 with | .refused c => c == cCONFIG_CHECK | _ => false) = true ∧
      (match (readGraphLoad 0 1 1 (e.set 2 0x1_0004) launching.pkg).1 with | .refused c => c == cMISALIGNED | _ => false) = true) ∧
    (let pipe (e : List Word) : Fetch Pipe := (readPipe (fun m => m == 0) e launching.pkg).1; (match pipe [0x1_1000, 17] with | .ok p => p.stream == 17 && p.member == 0 | _ => false) = true ∧ (match pipe [0x1_1000, 16] with | .refused c => c == cCONFIG_CHECK | _ => false) = true ∧
      (match pipe [0x1_1000, 0x1_0011] with | .refused c => c == cCONFIG_CHECK | _ => false) = true ∧ (match pipe [0x1_1040, 17] with | .refused c => c == cMISALIGNED | _ => false) = true) := by decide +kernel

/-- Every block of every die is another context's. -/
def crowded (s : State) : State := s.onPkg fun p => { p with boards := (List.range 4).flatMap fun d => (List.range 36).map fun i => ⟨i, 9, d, i / 6, i % 6, 1, 1, true, none, 0, .running, 0, 0, 0, 0, none, none, none⟩ }

/-- Clauses of LaunchesAdmitted on the allocator: a candidate passed over for the 63rd time and for the 64th, one held back by a reservation, one whose context holds as many blocks as it may. -/
theorem witness_allocator_passes :
    (let c (n : Nat) : Launch := gang fun l => { l with passes := n }; let s (n : Nat) : State := crowded (launching [c n]);
      ((s 62).onPkg (c 62).lookedUp).pkg.placesFor (c 62) = none ∧ (s 62).pkg.launch 0 = some (c 62) ∧ (c 62).st = .candidate ∧ (c 62).reserved = none ∧ (c 62).passes < 63 ∧ ((s 63).onPkg (c 63).lookedUp).pkg.placesFor (c 63) = none ∧ 63 ≤ (c 63).passes) ∧
    (let s := (launching [gang]).onPkg (Package.onCtx 0 fun c => { c with maxBlk := 1 }); (s.onPkg gang.lookedUp).pkg.placesFor gang = some [⟨1, 0, 0, 1, 1⟩] ∧ (s.pkg.boards.filter fun b => b.ctx == 0).length = 1 ∧ (aget s.pkg.contexts 0).map (·.maxBlk) = some 1) ∧
    (gang.prio ≤ 0 ∧ (launching [gang]).pkg.candidates = [gang]) := by decide +kernel

/-- Clauses of LaunchesRun on the load ahead: none checked yet, one that checked and one that did not; a load whose arms do not check, without words, whose image is at no address or does not check; the class of the first load. -/
theorem witness_loads_ahead :
    (let two (f : Board → Board) : State := running id f (member fun m => { m with board := some 0, loads := m.loads ++ m.loads });
      ((two id).pkg.boards.map Board.ahead = [none]) ∧ ((two fun b => { b with ahead := some none }).pkg.boards.map fun b => (b.ahead, b.load)) = [(some none, 0)] ∧ ((two fun b => { b with ahead := some (some []) }).pkg.boards.all fun b => b.ahead.isSome && (two fun b => { b with ahead := some (some []) }).quiescent b) = true ∧
      ((two id).pkg.loads.any fun q => q.board == 0 && q.phase != .asked) = false ∧ ((asked .words (two id)).pkg.loaderBusy 0 = true) ∧
      (match (two id).pkg.boards.head? with
        | some b => let no (g : GraphLoad) (first : Bool) (c : Byte) : Bool := match (checkGraph b g first (two id).pkg).1 with | .refused d => c == d | _ => false
                    no ⟨0x1_0000, 2, [], false⟩ true cCONFIG_CHECK && no ⟨0x1_0000, 0, [], true⟩ true cCONFIG_CHECK && no ⟨0x3000_0000_0000_0000, 2, [], true⟩ true cACCESS && no ⟨0x3000_0000_0000_0000, 2, [], true⟩ false cCONFIG_CHECK && no ⟨0x1_4000, 2, [], true⟩ true cCONFIG_CHECK
        | none => false) = true) ∧
    ((running.pkg.boards.all fun b => (running.pkg.memberOf b).any (fun e => e.2.cls.isNone) && b.load == 0 && b.cls.isNone) = true) ∧ (let s := running (fun l => { l with st := .ended }); (s.pkg.launch 0).map (fun L => (L.preempt, L.late)) = some (none, [])) := by decide +kernel

/-- Clauses of FaultsAndPreemption: a board of a launch and one of none, a member with pipes, two cells with faults; a save area that is at no address or not mapped. -/
theorem witness_gang_faults :
    ((running.pkg.boards.map Board.launch = [some 0]) ∧ (boarded.pkg.boards.map Board.launch = [none])) ∧ (faulted.pkg.boards.all fun b => (faulted.raisedOn b).any b.holds && (faulted.pkg.raised.any b.holds)) = true ∧
    (let s := raise cMISALIGNED 0 5 running; s.pkg.raised = [] ∧ (s.pkg.boards.all fun b => s.raisedOn b == some 0) = true) ∧
    ((running fun l => { l with preempt := some ⟨0x1_F000, 5⟩ }).pkg.launch 0).bind (·.preempt) = some ⟨0x1_F000, 5⟩ ∧ ((running.pkg.launch 0).map (·.preempt) = some none) ∧ (running (fun l => { l with pipes := [⟨0x1_1000, 0, 17⟩] })).pkg.launches.map (fun l => l.pipes.filter fun q => q.member != 0) = [[]] ∧
    (match writeVirtual 0 0x3000_0000_0000_0000 [0] running.pkg with | (.bad, _) => true | _ => false) = true ∧ (match writeVirtual 0 0x2_0000 [0] running.pkg with | (.stall .., _) => true | _ => false) = true ∧
    (let s := running.onCell fun c => { c with hnd := c.hnd.set 5 { Handler.reset with st := .parked, pc := 0x20 } }; (s.cell.handler 5).st = .parked ∧ ((List.range 5).all fun g => (s.cell.handler (BitVec.ofNat 6 g)).st != .parked) = true) := by decide +kernel

/-- Clauses of SecurityEngineAndInterfaces: a requester of a lower number and of a higher one, algorithms that are all offered, blocks at their bounds; a session with a peer of a higher number that is there and one that is not. -/
theorem witness_requesters :
    (let s := secured ⟨true, true, true, some 5, some 6, 0⟩; (256 : BitVec 9).toNat = 256 ∧ s.pkg.number.toNat ≤ (3 : BitVec 9).toNat ∧ ((3 : BitVec 9).toNat < 256) ∧ (let t := s.onPkg fun p => { p with number := 7 }; (3 : BitVec 9).toNat < t.pkg.number.toNat)) ∧
    (let o : AlgOffer := ⟨true, true, true, true⟩; o.mlDsa87 = true ∧ o.sha3 = true ∧ o.mlKem1024 = true ∧ o.aesGcm = true) ∧ ((6 : Byte).toNat ≤ 6 ∧ 7 ≤ (7 : Byte).toNat ∧ (7 : Byte) ≠ 0xFF) ∧
    (launching.pkg.number.toNat < (2 : Byte).toNat ∧ launching.pkg.prk 2 = none ∧ (membership.pkg.prk 2).isSome = true) ∧ ((16 : BitVec 5).toNat = 16 ∧ ((secured Spdm.reset).vfOf 1).map Vf.command = some 0) := by decide +kernel

/-- A slot of an aperture bound to the launch stream. -/
def apertured : State := launching.onPkg fun p => { p with apertures := [(9, ⟨true, 0, 1, 0⟩)] }

/-- Clauses of HostRegistersAndMailbox: an aperture that reads, its stream bound; a capability that is enabled, disabled and masked; a set-up held by a stall; each operation's number; requests to pre-empt that meet nothing, a launch that is not admitted, one already asked, one that has ended, one to save. -/
theorem witness_host_reads :
    (slotDown 9 apertured = false ∧ (aget apertured.pkg.apertures 9).map Aperture.en = some true ∧ (apertureStream 9 apertured.pkg).map (fun e => e.2.pa) = some 0x2_1000) ∧
    (let f (m : Word) : Vf := { Vf.reset with msix := m }; (f 0x8000_0000).msix.getLsbD 31 = true ∧ (f 0x8000_0000).msix.getLsbD 30 = false ∧ (f 0xC000_0000).msix.getLsbD 30 = true ∧ (f 0).msix.getLsbD 31 = false) ∧
    ((mail 1 0 fun h => { h with held := true }).pkg.host.held = true ∧ (mail 1 0).pkg.host.held = false ∧ (mail 12 0).pkg.host.mbop.toNat ≠ 1) ∧
    (let a (n : Word) (s : State) : State := mail 4 n (fun h => { h with arg1 := 0x1_F000 }) (List.replicate 64 0) s; (askPreempt (a (1 <<< 59) running)).2 = cCONFIG_CHECK ∧ (askPreempt (a (17 <<< 48) running)).2 = cCONFIG_CHECK ∧ (askPreempt (a (1 <<< 48) (launching [gang]))).2 = cACCESS ∧
      (askPreempt (a (1 <<< 48) (running fun l => { l with preempt := some ⟨0, 0⟩ }))).2 = cACCESS ∧ (askPreempt (a (1 <<< 48) (running fun l => { l with status := some 6 }))).2 = cACCESS ∧ (askPreempt (a (1 <<< 48) running)).2 = 0) := by decide +kernel

/-! ### Further witnesses: units that wait in a stall, what ends while it is on its way, notices with a seal -/

/-- Clauses of ResetState, FaultRecords and StreamRecordOperations: a cell out of its trap handler; a join and a leave whose load has ended. -/
theorem witness_gone_operations :
    let s (op : StreamOp) : State := (atHome (record 0) op (.x 3)).onCell fun c => { c with inflight := c.inflight.map fun a => { a with gone := true, live := false } };
    regs.cell.k.t = false ∧ ((s .join).due 0).map (fun a => (a.op, a.gone)) = some (.stream 20 .join, true) ∧ ((s .leave).due 0).map (fun a => (a.op, a.gone)) = some (.stream 20 .leave, true) ∧
      ((atHome (record 0) .join (.x 3)).due 0).map Access.gone = some false := by decide +kernel
theorem test_gone_operations :
    let s (op : StreamOp) : State := (atHome (record 0) op (.x 3)).onCell fun c => { c with inflight := c.inflight.map fun a => { a with gone := true, live := false } };
    facet (exec (.leave 0 0) (s .leave)) (fun t => t.pkg.mem = (s .leave).pkg.mem) := by decide +kernel

/-- A unit beside the cells of context 0 waits for its resume. -/
def stalledIn (u : StallUnit) (s : State) : State := s.onPkg (Package.stallAt 0 u)

/-- Clauses of StreamBindingAndWindows, LaunchesAdmitted, LaunchesRun and ConfigurationAndLoader on the units that wait for a resume: each of them waiting, and none; an event record that stalls, a record that cannot be placed, a placing that waits. -/
theorem witness_stalled_units :
    ((stalledIn .events launching).pkg.stalledAt 0 .events = true ∧ launching.pkg.stalledAt 0 .events = false ∧ (stalledIn (.read 0) launching).pkg.stalledAt 0 (.read 0) = true ∧ launching.pkg.stalledAt 0 (.read 0) = false) ∧
    (let s : State := (atHome (record 0) .head (.x 3)).onPkg fun p => { p with bound := p.bound.map fun b => { b with num := 0, frames := [0x3_2000, 0x3_3000] } };
      (match publishNow 0 [1, 2] s with | .stalls => true | _ => false) = true ∧ s.pkg.stalledAt 0 .events = false) ∧
    (let s := launching [gang]; (match takeFirst s.pkg.candidates none (stalledIn (.place 0) s) with | .waits => true | _ => false) = true ∧ (match takeFirst s.pkg.candidates none s with | .admitted _ => true | _ => false) = true ∧
      (stalledIn (.place 0) s).pkg.stalledAt 0 (.place 0) = true ∧ s.pkg.stalledAt 0 (.place 0) = false) ∧
    (let l := gang fun l => { l with pipes := [⟨0x3_1000, 0, 17⟩] }; (match takeIn l [⟨1, 0, 0, 1, 1⟩] (launching [l]) with | .stall _ _ => true | _ => false) = true ∧
      (match takeFirst [l] none (launching [l]) with | .stalled c _ _ => c == l | _ => false) = true) ∧
    (let s := asked .asked (running id fun b => { b with phase := .empty }); (stalledIn (.load 0 none) s).pkg.stalledAt 0 (.load 0 none) = true ∧ s.pkg.stalledAt 0 (.load 0 none) = false) ∧
    (let s := running id id (member fun m => { m with board := some 0, loads := m.loads ++ m.loads }); (stalledIn (.ahead 0) s).pkg.stalledAt 0 (.ahead 0) = true ∧ s.pkg.stalledAt 0 (.ahead 0) = false ∧ (s.pkg.boards.map fun b => (b.id, b.ctx, b.load)) = [(0, 0, 0)]) ∧
    (let s := running (fun l => { l with preempt := some ⟨0x1_F000, 0⟩ }) fun b => { b with phase := .preempting }; (stalledIn (.save 0) s).pkg.stalledAt 0 (.save 0) = true ∧ s.pkg.stalledAt 0 (.save 0) = false) := by decide +kernel
theorem test_stalled_units : answers (exec (.launchRecordRead 0 0) (stalledIn (.read 0) launching)) (stalledIn (.read 0) launching) ∧
    facet (exec (.resumeDoorbell .pf 0) (stalledIn (.read 0) launching)) (fun t => !t.pkg.stalledAt 0 (.read 0)) := by decide +kernel

/-- Clauses of the remote and conversation words: an activation that is in its `td.bar`, and none; a word with a reserved bit and an address in no form. -/
theorem witness_fencing : (let s := membership.onCell (Cell.setPend (.barFence [] [] 5 none)); s.fencing = true ∧ s.linkHeld 2 = true) ∧ membership.fencing = false ∧ linked.fencing = false ∧ linked.pkg.cutOff 3 = true ∧ linked.pkg.trust.barrier = none ∧
    (withX 12 0x30_3005 talking).fencing = false ∧
    (let s := withX 14 0x0100_0000_0000_0000 (withX 15 0x802 linked); s.HasX 14 0x0100_0000_0000_0000 ∧ s.HasX 15 0x802 ∧ s.HasX 1 0x1_0000 ∧ s.HasX 8 2 ∧ s.HasX 2 0x1122_3344_5566_7788 ∧ (0x0100_0000_0000_0000 : Word).toNat % remoteSize 3 = 0 ∧ remoteForm 0x0100_0000_0000_0000 (remoteSize 3) = .none ∧
      remoteForm 0x0100_0000_0000_0000 (2 ^ (3#2).toNat) = .none) := by decide +kernel
theorem test_fencing : facet (exec (.rst 2 1 8 1) (membership.onCell fun c => { c with hnd := c.hnd.set 5 { Handler.reset with st := .parked, pend := .barFence [] [] 5 none } })) (fun t => (t.pkg.peer 2).out = [] ∧ t.cell.pc = 0) := by decide +kernel

/-- A channel of FP8 E4M3 elements with blocks of 16 and their scales in the last lane. -/
def scaled : Channel := chan (fun C => { C with fmt := 12, ssrc := true, blk := 1 }) []

/-- Clauses of PacketsReceivedAndDropped on a widening: elements within the packet and past it, a scale beside the four of a lane, values of each kind. -/
theorem witness_widening : (scaled.ssrc = true ∧ scaled.blk = 1) ∧ width scaled.fmt = 8 ∧ 8 * 0 < 4 * ([0x7FB8_4038, 0x3000_7E01] : List W32).length ∧ 4 * ([0x7FB8_4038, 0x3000_7E01] : List W32).length ≤ 8 * 1 ∧ (∀ j < 8, (8 * 0 + j) / 16 ≤ 3) ∧ 3 < (8 * 8 + 0) / 16 ∧
    bits (0x80 : W32).toNat 0 8 ≠ 0xFF ∧ valueOf scaled.fmt (bits (0x7FB8_4038 : W32).toNat 24 8) = .nan false ∧ valueOf scaled.fmt 0x38 = .fin false 8 (-3) ∧ scaled.fmt.isInt = false ∧ valueOf fFP32 0xFF80_0000 = .inf true := by decide +kernel
/-- The example of R151 in FP8 E4M3 with the scale 2: 2, 4, −2, NaN, 2^−8, 896, 0, 1. -/
theorem test_widening : widen scaled up.cell [0x7FB8_4038, 0x3000_7E01, 0x80] 0 = some ([0x4000_0000, 0x4080_0000, 0xC000_0000, 0x7FC0_0000, 0x3B80_0000, 0x4460_0000, 0, 0x3F80_0000], 0) := by decide +kernel

/-- Clauses of RequestsAtTheTarget and AnswersAndLinkEvents: a duplicate of a request whose run failed and one whose acknowledgement is clean; a reply that is kept, whose path is live, and one that is not; no notice that waits; a request that has been sent. -/
theorem witness_kept_replies :
    let poisoned (s : State) : Bool := (s.pkg.peer 2).replies.any fun q => q.1 == 0 && (match q.2.2 with | .acknowledge _ _ bad => bad | _ => false);
    let s (m : OutMsg) : State := talking.onPkg (Package.onPeer 2 fun P => { P with seen := [0], top := some 0, replies := [(0, 0, m)] });
    poisoned (s (.acknowledge 2 0 true)) = true ∧ poisoned (s (.acknowledge 2 0 false)) = false ∧ ((s (.acknowledge 2 0 true)).pkg.livePath 2 0).isSome = true ∧ (s (.acknowledge 2 0 true)).TakesReply 2 ⟨0, true, 0⟩ ∧
      ((s (.acknowledge 2 0 true)).pkg.peer 2).replies.find? (fun q => q.1 == 0) = some (0, 0, .acknowledge 2 0 true) ∧ (talking.pkg.peer 2).replies.find? (fun q => q.1 == 0) = none ∧ talking.TakesReply 2 ⟨0, true, 0⟩ ∧
      (talking.pkg.trust.aheadReplies = []) ∧ (let w := waiting true (.store 0x1_0000 [7] []) .none; (w.pkg.outReq 2 0).map OutReq.path = some (some 0) ∧ w.TakesReply 2 ⟨0, true, 0⟩) ∧
      ((waiting true (.store 0x1_0000 [7] []) .none fun o => { o with path := none }).pkg.outReq 2 0).map (fun o => (o.path, o.saved talking.pkg)) = some (none, false) ∧
      (let w := (waiting true (.store 0x1_0000 [7] []) .none fun o => { o with refused := 2, req := { o.req with epoch := 3 } }).onPkg fun p => { p with trust := { p.trust with td := true, mask := 5, epoch := 3 } }; w.TakesReply 2 ⟨0, true, 3⟩ ∧ w.pkg.trust.td = true ∧ (w.pkg.outReq 2 0).map OutReq.refused = some 2) := by decide +kernel
theorem test_kept_replies : facet (exec (.negativeNotice 2 ⟨⟨0, true, 0⟩, true⟩) (talking.onPkg (Package.onPeer 2 fun P => { P with replies := [(0, 0, .acknowledge 2 0 false)] }))) (fun t => t.pkg.outbox = [.acknowledge 2 0 false]) ∧
    facet (exec (.remoteRequestArrival 2 (asks (.store 0x1_0000 [7] []))) (talking.onPkg (Package.onPeer 2 fun P => { P with seen := [0], top := some 0, replies := [(0, 0, .acknowledge 2 0 true)] }))) (fun t => t.pkg.outbox = [.acknowledge 2 0 true]) := by decide +kernel

/-- Clauses of AnswersAndLinkEvents on the doorbell: a module at stage 4, an access in a stall whose page is there now. -/
theorem witness_resume_doorbell : let s := (flying (.load 8 true) (.x 3) (.stall 0)).onCell fun c => { c with inflight := c.inflight.map fun a => { a with va := 0x1_0000 } };
    s.pkg.host.powered = true ∧ 4 ≤ s.pkg.host.stage.toNat ∧ s.pkg.host.held = false ∧ s.others = [] ∧ s.cell.k.ctx = 0 ∧ s.cell.inflight.map (fun a => (a.op, a.loc)) = [(.load 8 true, .stall 0)] := by decide +kernel
theorem test_resume_doorbell : answers (exec (.resumeDoorbell .pf 0) ((stalledIn .events launching).onHost fun h => { h with stage := 3 })) ((stalledIn .events launching).onHost fun h => { h with stage := 3 }) := by decide +kernel

/-- Clauses of ConversationsAtTheHome on messages: one whose outcome at another package is awaited; a delegation to another package and to a cell here, not yet held; a role that is unbound with a message that has its credit and one that has none; a launch that is pre-empted. -/
theorem witness_message_owners :
    (let m : ConvMsg := ⟨0, [0x1000], true, some ⟨2, 9, 6⟩, none, true⟩; let v := conv fun v => { v with msgs := [m] }; v.msgs.find? (fun m => m.role == 0 && m.dest == some ⟨2, 9, 6⟩ && m.sent) = some m ∧ aget (homed fun _ => v).pkg.convs 5 = some v) ∧
    (let m : ConvMsg := ⟨0, [0x1000], true, some ⟨2, 9, 6⟩, none, false⟩; let v := conv fun v => { v with msgs := [m] }; v.msgs.find? (fun m => m.role == 0 && m.credit && !m.sent) = some m ∧ v.msgs.find? (fun m => m.dest == some ⟨2, 9, 6⟩ && !m.sent) = some m ∧
      (m.lanes.headD 0).getLsbD 12 = true ∧ (2 : Byte) ≠ homed.pkg.number ∧ (homed.pkg.peer 2).failed = false) ∧
    (let m : ConvMsg := ⟨1, [0x1000], true, some ⟨0, 0, 5⟩, none, false⟩; let v := conv fun v => { v with msgs := [m] }; v.msgs.find? (fun m => m.role == 1 && m.credit && !m.sent) = some m ∧ v.msgs.find? (fun m => m.dest == some ⟨0, 0, 5⟩ && !m.sent) = some m ∧ m.own = none ∧
      ((homed fun _ => v).onBoardOf v.ctx 0 && (((homed fun _ => v).cellAt 0).chanAt 5).fit) = true ∧ (homed fun _ => v).moving ((homed fun _ => v).cellAt 0) = true) ∧
    (let v := conv fun v => { v with msgs := [⟨1, [5], true, some ⟨0, 0, 5⟩, some 0, false⟩, ⟨1, [6], false, some ⟨0, 0, 5⟩, some 0, false⟩] }; v.brk = false ∧ (v.clearRole 1).msgs = [⟨1, [6], false, none, none, false⟩] ∧ (v.clearRole 1).buffered = 1) ∧
    (let v := conv fun v => { v with msgs := [⟨1, [5], false, some ⟨0, 0, 5⟩, some 0, false⟩] }; let s := running fun l => { l with preempt := some ⟨0x1_F000, 5⟩ };
      (s.pkg.launches.map fun l => (l.id, l.preempt.isSome)) = [(0, true)] ∧ (v.granted s).msgs.map ConvMsg.credit = [false] ∧ (v.granted talking).msgs.map ConvMsg.credit = [true]) := by decide +kernel
theorem test_notice_outcome : facet (exec (.messageDelivery (.noticed 5 0 2 9 6 false)) (homed fun v => { v with msgs := [⟨0, [0x1000], true, some ⟨2, 9, 6⟩, none, true⟩] })) (fun t => (aget t.pkg.convs 5).any fun v => v.brk && v.cause == 0) := by decide +kernel

/-- Clauses of LaunchesRun and FaultsAndPreemption: a launch whose members have ended, with a store of theirs still in flight and without; where the save of a board begins and what stands before it; an area of no cells. -/
theorem witness_stores_and_saves :
    (let s : State := (running id id (member fun m => { m with board := some 0, ended := true })).onPkg fun p => { p with launches := p.launches.map fun l => { l with members := l.members.map fun m => { m with ended := true } } };
      (s.pkg.launch 0).map (fun L => (L.complete s.pkg, L.preempt, L.late)) = some (true, none, []) ∧ s.storesOf 0 = false ∧
      (s.onCell fun c => { c with inflight := [⟨3, 0, 0x10, 0, .store [1] false, .none, 0x1_0000, .phys 0x2_0000 0x0F, 0, 0, [], false, false, true, true⟩] }).storesOf 0 = true) ∧
    (running.pkg.boards.all fun b => decide ((0x1_F000 - 0x1_F000 : Word).toNat < gang.areaStart b.member + (4096 + 64 * b.h * b.w * 245760))) = true ∧ (0x1_F000 : Word).toNat ≤ (0x1_F000 : Word).toNat := by decide +kernel
theorem witness_area_written : ∃ p', writeVirtual gang.ctx ((0x1_0000 : Word).toNat + gang.areaStart 0) (saveArea 0 (gang.areaStart 0) []) launching.pkg = (.ok (), p') := by
  have hl (n : Nat) : (saveArea 0 n []).length = 4096 := by simp [saveArea]
  have hp : placeRange false true gang.ctx ((0x1_0000 : Word).toNat + gang.areaStart 0) 4096 launching.pkg = (.ok [(0x2_0000, 4096)], launching.pkg) := by decide +kernel
  have hr : ([(0x2_0000, 4096)].any fun q : Nat × Nat => launching.pkg.inRecord q.1 q.2) = false := by decide +kernel
  exact ⟨_, by rw [writeVirtual, hl, hp]; simp only [hr]; rfl⟩

/-- Clauses of SecurityEngineAndInterfaces: an interface whose stop waits for its scrub and one that does not stop. -/
theorem witness_stopping : ((secured Spdm.reset .run true).vfOf 1).map (fun f => (f.st, f.stopping)) = some (.run, true) ∧ ((secured Spdm.reset .locked).vfOf 1).map (fun f => (f.st, f.stopping)) = some (.locked, false) ∧
    ((secured Spdm.reset).vfOf 1).map (fun f => (f.st, f.stopping)) = some (.unlocked, false) ∧ State.reset.pkg.host.powered = false := by decide +kernel
theorem test_stopping : facet (exec (.stopInterfaceRequest 1) (secured Spdm.reset .run)) (fun t => (t.vfOf 1).map (fun f => (f.st, f.stopping)) = some (.run, true)) ∧
    facet (exec (.startInterfaceRequest 1) (secured Spdm.reset .locked true)) (fun t => t.pkg.outbox = [.spdm 256 "TDISP_ERROR" [1]]) := by decide +kernel

/-! ### Further witnesses: releases before an instruction, rounding, nodes, bodies of loops -/

/-- A store to the near memory in flight, a handler entry that holds the set of a release, and a far-tier byte that the cell has written. -/
def releasing (p : Pend) : State := ((flying (.store [1] false) .none (.phys 0x2_0000 0x0F)).onPkg fun q => { q with cxl := [(0x8_0000_0000_0000, some (0, 2))] }).onCell (Cell.setPend p)

/-- Clauses of FencesWaitsAndMemoryFlags, StoresIssue, AtomicsIssueAndPerform and TrapEntryAndReturn on what a release keeps: a set still in flight and one that is performed, a hold that ends, a far-tier byte of a write before the release. -/
theorem witness_releases : ((releasing (.fence [3] 0 4)).cell.pend = .fence [3] 0 4 ∧ (releasing (.fence [3] 0 4)).cell.flying 3 = true ∧ (releasing (.fence [3] 0 4)).cell.cur = some 0) ∧
    (let s := (releasing (.fence [3] 0 4)).onCell fun c => { c with hold := some (.expiring .covered) }; s.cell.hold = some (.expiring .covered) ∧ s.cell.cur = some 0 ∧ s.cell.k.t = false ∧ s.cell.waitEntries < 64) ∧
    ((releasing (.fence [1] 0 4)).Past [3] ∧ ¬ (releasing .none).Past [3] ∧ (releasing (.fence [1] 0 4)).pkg.cxl = [(0x8_0000_0000_0000, some (0, 2))]) ∧
    ((releasing .none).cell.pend = .none ∧ (releasing .none).cell.releaseSet = [3] ∧ (releasing .none).here = 0 ∧ (releasing .none).cell.nextId = 4) ∧ (regs.cell.pend = .none) := by decide +kernel
/-- A retried fence keeps its set and parks on it; one at system scope that goes on leaves the far-tier byte completed; an atomic and `st.s` hold behind a store. -/
theorem test_releases : facet (exec (.fence 1 2) (releasing (.fence [3] 0 4))) (fun t => t.cell.pend = .fence [3] 0 4 ∧ t.cell.hold = some (.expiring .covered)) ∧
    facet (exec (.holdExpiry 0) ((releasing (.fence [3] 0 4)).onCell fun c => { c with hold := some (.expiring .covered) })) (fun t => (t.cell.handler 0).st = .parked ∧ (t.cell.handler 0).key = some .covered ∧ t.cell.cur = none) ∧
    facet (exec (.fence 1 5) (releasing (.fence [1] 0 4))) (fun t => t.pkg.cxl = [(0x8_0000_0000_0000, none)] ∧ t.cell.pend = .none) ∧ facet (exec (.fence 1 2) (releasing (.fence [1] 0 4))) (fun t => t.pkg.cxl.map Prod.snd = [some (0, 2)]) := by decide +kernel
theorem test_release_first : facet (exec (.amoAdd 3 1 2 false true 0) (releasing .none)) (fun t => t.cell.pend = .fence [3] 0 4 ∧ t.cell.hold = some (.expiring .covered) ∧ (t.cell.xreg 3).st = .full ∧ t.cell.inflight.length = 1) ∧
    facet (exec (.stS 2 1 0 0 0 3 0) (releasing .none)) (fun t => t.cell.hold = some (.expiring .covered) ∧ t.cell.pc = 0) := by decide +kernel

/-- Clauses of RoundingToAFormat and FloatLanes: formats signed and not, with and without an infinity and a NaN; an inexact value between two codes under each mode, one past the largest, one below the least normal; NaNs, infinities and zeros; an integer format. -/
theorem witness_RoundingToAFormat : (FmtDesc.isFloat 17 = true ∧ (4#3).toNat ≤ 4 ∧ 65535 < 2 ^ 16 ∧ 1 < 2 ^ width 8 ∧ valueOf 8 1 = .fin false 1 (-149)) ∧
    (FmtDesc.isFloat 0x13 = true ∧ (floatFmt 0x13).signed = false ∧ (floatFmt 0x13).inf = none ∧ (floatFmt 0x13).nan = some 0xFF ∧ (floatFmt 8).signed = true ∧ (floatFmt 8).inf = some 0x7F80_0000 ∧ (floatFmt 11).inf = none ∧ (floatFmt 11).nan = none) ∧
    (roundTo 11 ⟨1, false⟩ 0 (.fin false 5 0) = (6, flIX) ∧ roundTo 11 ⟨0, false⟩ 0 (.fin false 100 0) = (7, flOF ||| flIX) ∧ roundTo 9 ⟨0, false⟩ 0 (.fin true 1 (-200)) = (0x8000, flIX)) ∧
    ((valueOf 8 0x7FC0_0000).isNan = true ∧ (valueOf 8 0x7FC0_0000).isSig = false ∧ (valueOf 8 0x7F80_0001).isSig = true ∧ valueOf 8 0x8000_0000 = .fin true 0 (-149) ∧ valueOf 8 0xFF80_0000 = .inf true ∧ (floatFmt 0x73).negZero = false) ∧
    (FmtDesc.isInt 0 = true ∧ FmtDesc.isInt 3 = true) := by decide +kernel
/-- 5 lies between E2M1's 4 and 6, one step of 2 apart, at one half: to even is 4; R41 gives each mode. 128.5 in INT8 saturates with NV. -/
theorem test_rounding : [0, 1, 2, 3].map (fun mode => (roundTo 11 ⟨mode, false⟩ 0 (.fin false 5 0)).1) = [6, 6, 7, 6] ∧ (roundTo 11 ⟨3, false⟩ 0 (.fin true 5 0)).1 = 15 ∧
    (roundTo 11 ⟨4, false⟩ 0x7FFF (.fin false 5 0)).1 = 6 ∧ (roundTo 11 ⟨4, false⟩ 0x8000 (.fin false 5 0)).1 = 7 ∧ roundTo 9 ⟨2, true⟩ 0 (.fin false 1 200) = (0x7F7F, flOF ||| flIX) := by decide +kernel
/-- Clauses of ControlAndStatusRegisters on the fields of R30, and of FloatLanes on numbers that are none, infinite and finite. -/
theorem witness_fields_and_numbers : ((0x006 : BitVec 9) ∉ [0x00A#9, 0x00E, 0x010] ∧ (0x006 : BitVec 9).toNat < 0x030) ∧ ((Machine.Num.nan true).isNan = true ∧ (Machine.Num.nan true).isSig = true ∧ (Machine.Num.inf false).isNan = false ∧ (Machine.Num.fin false 0 0).isNan = false) ∧
    (0 < 2 ^ width 8 ∧ (floatFmt 8).negZero = true ∧ (floatFmt 0x13).signed = false ∧ (valueOf 0x13 5).isNan = false ∧ (valueOf 8 5).isNan = false) := by decide +kernel

/-- A controller in a run, of a chain of two, with one permit sent; a lock arbiter of two arcs whose second asks; a channel that merges. -/
def conducting (kind last m : Nat) (sent returned : List Nat) : State := node (.controller (BitVec.ofNat 64 (kind * 2 ^ 38 + last * 2 ^ 36)) 0x2200_0000_0202 true false 7 m sent returned [0, 0, 0, 0]) (pk [0])

/-- Clauses of PacketsTravelAndNodesServe: permits due and not, of each kind; a run that is complete and one that is not, at a root or with room for its done; an arc that asks; two parts that merge. -/
theorem witness_permits : (let w (kind last : Nat) : Word := BitVec.ofNat 64 (kind * 2 ^ 38 + last * 2 ^ 36);
      (w 1 1).extractLsb' 38 2 = 1#2 ∧ (w 1 1).extractLsb' 36 2 = 1#2 ∧ (w 2 0).extractLsb' 38 2 = 2#2 ∧
      ctlMaySend (w 0 1) 3 [1, 0, 0, 0] [0, 0, 0, 0] 1 = false ∧ ctlMaySend (w 0 1) 3 [1, 0, 0, 0] [1, 0, 0, 0] 1 = true ∧ ctlMaySend (w 1 1) 3 [1, 0, 0, 0] [0, 0, 0, 0] 0 = false ∧ ctlMaySend (w 2 1) 3 [0, 1, 0, 0] [0, 0, 0, 0] 0 = true ∧
      ctlComplete (w 0 1) 1 [1, 1, 0, 0] [1, 1, 0, 0] = true ∧ ctlComplete (w 0 1) 1 [1, 1, 0, 0] [1, 0, 0, 0] = false ∧ ctlRoot 0x10 = ctlRoot 0x10) ∧
    ((conducting 0 1 3 [0, 0, 0, 0] [0, 0, 0, 0]).cell.nodeAt 1 = .controller 0x10_0000_0000 0x2200_0000_0202 true false 7 3 [0, 0, 0, 0] [0, 0, 0, 0] [0, 0, 0, 0] ∧ (conducting 0 1 3 [0, 0, 0, 0] [0, 0, 0, 0]).cell.queueRoom 2 = true ∧
      ((List.range 2).find? fun c => ctlMaySend 0x10_0000_0000 3 [0, 0, 0, 0] [0, 0, 0, 0] c && (conducting 0 1 3 [0, 0, 0, 0] [0, 0, 0, 0]).cell.queueRoom ((0x2200_0000_0202 : Word).extractLsb' (8 * c) 3)) = some 0) ∧
    ((node (.arbiter 0x22 0x232 0 []) (pk [7])).cell.nodeToken 1 4 = some (pk [7])) ∧
    (let C := chan (fun C => { C with merge := true }) [pk [1, 2]]; C.mergesWith (pk [3] true) = some (pk [1, 2]) ∧ C.mergesWith (pk [1, 2, 3, 4, 5, 6, 7]) = none) := by decide +kernel
/-- The first permit of a chain goes to its first child, the next iteration's waits for the last one's (R141). -/
theorem test_permits : ((ctlSend 1 16 (conducting 0 1 3 [0, 0, 0, 0] [0, 0, 0, 0]).cell).queue 2).pkts.map Packet.lanes = [[0, 1]] ∧ (ctlSend 1 16 (conducting 0 1 3 [1, 0, 0, 0] [1, 0, 0, 0]).cell).nodeAt 1 ≠ (conducting 0 1 3 [1, 0, 0, 0] [1, 0, 0, 0]).cell.nodeAt 1 := by decide +kernel

/-- Clauses of EngineCommandsAccepted: a body that is collected, with a place left and with none. -/
theorem witness_loop_bodies : (let s := boarded.onCell fun c => { c with collecting := some (3, 2) }; s.cell.collecting = some (3, 2) ∧ (s.cell.sectionAt (3 : BitVec 3).toNat).body.length < 8 ∧ mxOk (s.cell.command 4 ⟨0, 0, 0, 0⟩ 0 0 0 0) = true ∧ s.cell.acquiring = false) ∧
    (let s := boarded.onCell fun c => (Cell.onSection 3 (fun x => { x with body := List.replicate 8 (cmd 4 0 0 0) }) { c with collecting := some (3, 2) }); 8 ≤ (s.cell.sectionAt (3 : BitVec 3).toNat).body.length ∧ s.cell.collecting = some (3, 2)) := by decide +kernel
theorem test_loop_bodies : facet (exec (.mxZero ⟨0, 0, 0, 0⟩ 0 0 0) (boarded.onCell fun c => { c with collecting := some (3, 1) })) (fun t => (t.cell.sectionAt 3).body.map Cmd.verb = [4] ∧ t.cell.collecting = none ∧ t.cell.mx.q = []) ∧
    facet (exec (.mxZero ⟨0, 0, 0, 0⟩ 0 0 0) (boarded.onCell fun c => (Cell.onSection 3 (fun x => { x with body := List.replicate 8 (cmd 4 0 0 0) }) { c with collecting := some (3, 2) }))) (fun t => t.cell.hold = some (.expiring (.queue .mx)) ∧ t.cell.pc = 0) := by decide +kernel

/-- A domain of packages 0 and 2 in epoch 4 whose next is pending, with their pair keys; `x` marks a handler that waits in `td.bar`. -/
def sharing (f : Trust → Trust := id) : State := membership fun T => f { T with td := true, epoch := 4, mask := 5, keys := [(2, (11, 12))] }

/-- A launch that pre-emption has saved with one cell. -/
def savedWith (c : Cell) : Launch := gang fun l => { l with saved := [⟨0, 0, 0, 0, 0, 0, none, [c], [], []⟩] }

/-- Clauses of GroupsAtTheHome: contributions of both members, a complete round whose write waits for a resume; a domain with a member of it and a package that joins, a report that is due and one that is not, a saved cell that waits for the barrier. -/
theorem witness_rounds_and_reports :
    (let cs : List Contrib := [⟨0, asks (.contrib 7 0 []), 0, List.replicate 8 0⟩, ⟨2, asks (.contrib 7 0 []), 0, List.replicate 8 0⟩]; let s := grouped 0 fun x => { x with contribs := cs };
      s.pkg.groups.map (fun x => (x.now, x.now.map Contrib.src == x.members, x.home == s.pkg.number)) = [(cs, true, true)] ∧ s.pkg.stalledAt 0 (.round 7) = false ∧ (stalledIn (.round 7) s).pkg.stalledAt 0 (.round 7) = true) ∧
    ((2 : Byte) ≠ sharing.pkg.number ∧ (sharing.pkg.peer 2).failed = false ∧ ((2 : Byte), (4 : Word)) ∉ sharing.pkg.trust.reports ∧ sharing.pkg.trust.td = true ∧ sharing.pkg.trust.epoch = 4 ∧ sharing.pkg.trust.barrier = none ∧
      (sharing.pkg.peer 2).badRun < 2 ∧ sharing.pkg.trust.mask.getLsbD (2 : Byte).toNat = true ∧ sharing.pkg.trust.mask.getLsbD (3 : Byte).toNat = false) ∧
    (let c := linked.cell.setPend (.barrier 5); (c.handler 0).pend = .barrier 5 ∧ (savedWith c).saved.map Saved.cells = [[c]]) := by decide +kernel
/-- A member's DRAINED is sealed, and one in clear from it is refused; a package that joins sends READY bare; a cell on a saved board has its status. -/
theorem test_reports : ((sendReport 4 2 sharing).pkg.outbox.map fun m => (match m with | .sealed s (.barrier 2 false 4) => s.key == some 11 | _ => false)) = [true] ∧ ((sendReport 4 3 sharing).pkg.outbox = [.barrier 3 false 4]) ∧ ((sendReport 4 2 membership).pkg.outbox = [.barrier 2 true 4]) ∧
    facet (exec (.barrierMessage 2 false ⟨0, false, 4⟩) sharing) (fun t => t.pkg.trust.reports = [] ∧ (t.pkg.peer 2).badRun = 1) ∧ facet (exec (.barrierMessage 2 false ⟨0, true, 4⟩) sharing) (fun t => t.pkg.trust.reports = [(2, 4)]) ∧
    ((finishBarrier 5 0 (linked.onPkg fun p => { p with launches := [savedWith (linked.cell.setPend (.barrier 5))] })).pkg.launches.map fun l => l.saved.map fun v => v.cells.map Cell.pend) = [[[.barrierDone 0]]] := by decide +kernel
/-- A round with a negative zero, a one and a two in their order, and its flags (R366). -/
theorem test_sum_in_order : (grouped 0).pkg.groups.map (fun x => reduceElem x [0x8000, 0x3F80, 0x4000]) = [(0x4040, 0)] ∧
    ((grouped 0 fun x => { x with contribs := [⟨0, asks (.contrib 7 0 []), 0, [0x80, 0x3F, 0, 0, 0, 0, 0x80, 0x7F]⟩, ⟨2, asks (.contrib 7 0 []), 0, [0, 0x40, 0, 0, 0, 0, 0x80, 0xFF]⟩] }).pkg.groups.map fun x => (x.result.1.take 2, x.result.2)) = [([0x40, 0x40], flNV)] := by decide +kernel

/-- Clauses of ConversationsAtTheHome and ConversationEvents: an endpoint that has handed its role over, a held turn that fits and one that does not. -/
theorem witness_handed_over : (conv.endpoint 1 ≠ some ⟨2, 7, 6⟩ ∧ (2 : Byte) ≠ homed.pkg.number ∧ aget homed.pkg.convs 5 = some conv) ∧
    (let r := asks (.convTurn (word 0 3) false [7]); let v := conv fun v => { v with heldTurns := [(2, r)] }; v.heldTurns = [(2, r)] ∧ r.op = .convTurn (word 0 3) false [7] ∧
      (match ({ v with heldTurns := [] } : Conv).decide (homed fun _ => { v with heldTurns := [] }) 5 2 r (word 0 3) false [7] with | .accepted v => v.state == 1 | _ => false) = true ∧
      (match (conv fun v => { v with msgs := List.replicate 16 ⟨1, [], false, none, none, false⟩, credits := [] }).decide homed 5 2 r (word 0 3) false [7] with | .held => true | _ => false) = true) := by decide +kernel
/-- A held turn is taken when a place frees, and the end of an endpoint that has handed its role over breaks nothing. -/
theorem test_handed_over : ((retryTurns 5 (homed fun v => { v with heldTurns := [(2, asks (.convTurn (word 0 3) false [7]))] })).pkg.convs.map fun e => (e.2.state, e.2.heldTurns)) = [(1, [])] ∧
    facet (exec (.conversationBreak 5 1 ⟨2, 7, 6⟩) homed) (fun t => t.pkg.convs.map (fun e => (e.2.brk, e.2.endpoint 1)) = [(false, some ⟨0, 0, 5⟩)]) := by decide +kernel

/-- Clauses of RemoteAtomicsFencesAndGroups, RequestsAtTheTarget and LinkAndFailures: no landing buffer left, skid mode with a performed store that comes again, a link whose notice names two paths. -/
theorem witness_link_clauses : (let s := (withX 8 0x107 linked).onCell fun c => { c with inflight := List.replicate 32 ⟨3, 0, 0x10, 0, .load 8 true, .x 3, 0x1_0000, .phys 0x2_0000 0x0F, 0, 0, [], false, false, true, false⟩ }; 32 ≤ s.cell.buffers) ∧
    (let s := talking.onPkg fun p => { p.onPeer 2 (fun P => { P with seen := [0], top := some 0 }) with skid := true }; s.pkg.skid = true ∧ s.pkg.skidRun = [] ∧ (0 : BitVec 48) ∈ (s.pkg.peer 2).seen ∧ s.pkg.stillHeld 2 0 = false) ∧
    (∀ q ∈ [((2 : Byte), (0 : BitVec 2)), (2, 1)], q.1 ≠ talking.pkg.number) ∧ (∀ q ∈ [((3 : Byte), (0 : BitVec 2)), (0, 1)], q.1 = talking.pkg.number ∨ talking.pkg.pathLive q.1 q.2.toNat = false) := by decide +kernel
/-- A duplicate in skid mode writes nothing and is acknowledged by the tag of its own run, a bad tag with a poison mark; `grp.set` waits for a buffer. -/
theorem test_link_clauses : (let s := talking.onPkg fun p => { p.onPeer 2 (fun P => { P with seen := [0], top := some 0 }) with skid := true };
      facet (exec (.remoteRequestArrival 2 (asks (.store 0x1_0000 [7] []))) s) (fun t => t.pkg.mem = s.pkg.mem ∧ t.pkg.outbox = [] ∧ facet (exec (.linkRunTag 5 true) t) (fun u => u.pkg.outbox = [.acknowledge 2 0 false]) ∧
        facet (exec (.linkRunTag 5 false) t) (fun u => u.pkg.outbox = [.acknowledge 2 0 true]))) ∧
    facet (exec (.grpSet 3 8 5) ((withX 8 0x107 linked).onCell fun c => { c with inflight := List.replicate 32 ⟨3, 0, 0x10, 0, .load 8 true, .x 3, 0x1_0000, .phys 0x2_0000 0x0F, 0, 0, [], false, false, true, false⟩ })) (fun t => t.cell.hold = some .staying) := by decide +kernel

/-- Clauses of FaultsAndPreemption and HostRegistersAndMailbox: a watchdog and a limit at which a fault is raised already; a board that `cfg.drain` frees; a request for a launch that is not known. -/
theorem witness_first_faults : (let s := faulted.onPkg fun p => { p with boards := p.boards.map fun b => { b with watchdog := 2 ^ 28 } }; s.pkg.watchdogLimit = 2 ^ 28 ∧ (s.pkg.boards.all fun b => !s.watchHeld b && (s.raisedOn b).isSome) = true) ∧
    (let s := faulted.onPkg fun p => { p with boards := p.boards.map fun b => { b with phase := .preempting }, launches := p.launches.map fun l => { l with preempt := some ⟨0x1_F000, 5⟩ } };
      (s.pkg.boards.all fun b => (s.raisedOn b).isSome && b.phase != .draining && s.pkg.board b.id == some b) = true ∧ s.pkg.launches.map (fun l => (l.preempt.map (·.limit), l.status)) = [(some 5, none)]) ∧
    (let s := mail 4 0x0001_0000_0000_1000; (s.pkg.host.arg0.extractLsb' 59 5 = 0 ∧ (s.pkg.host.arg0.extractLsb' 48 5).toNat = 1) ∧ s.pkg.launches = []) := by decide +kernel
/-- The board's own fault is taken at the watchdog's expiry (R336), and the record of a request for no launch known has ACCESS. -/
theorem test_first_faults : (let s := faulted.onPkg fun p => { p with boards := p.boards.map fun b => { b with watchdog := 2 ^ 28 } }; facet (exec (.faultAcceptance 0) s) fun t => answers (exec (.watchdogExpiry 0) s) t) ∧
    facet (exec .preEmption (mail 4 0x0001_0000_0000_1000)) (fun t => t.pkg.host.result = some cACCESS) := by decide +kernel

end Sys2Proof.Tests
end

section
/-! What packet writes and traps leave, and what a performed packet instruction leaves (R9, R22, R23, R44, R170). -/

namespace Sys2Proof.Machine

/-! ### Packet registers -/

/-- The length field of 1 to 8 lanes reads back as their number (R9). -/
theorem lenOf_reads : ∀ n ≤ 8, 1 ≤ n → (if lenOf n = 0 then 8 else (lenOf n).toNat) = n := by decide

theorem VReg.length_write {lanes : List W32} (r : VReg) (h1 : 1 ≤ lanes.length) (h8 : lanes.length ≤ 8) :
    (r.write lanes).length = lanes.length :=
  lenOf_reads lanes.length h8 h1

/-- Lane i of a written register: the new lane below their number, and else the old one (R9, R168). -/
theorem VReg.lanes_write {lanes : List W32} (r : VReg) {i : Nat} (hi : i < 8) :
    (r.write lanes).lanes.toList[i]'(by simpa using hi) = lanes.getD i (r.lanes[i]'hi) := by
  simp [VReg.write]

/-- A register written with 1 to 8 lanes holds just these as its packet (R9). -/
theorem VReg.packet_write {lanes : List W32} (r : VReg) (h1 : 1 ≤ lanes.length) (h8 : lanes.length ≤ 8) :
    (r.write lanes).packet = lanes := by
  rw [VReg.packet, VReg.length_write r h1 h8]
  refine List.ext_getElem (by simpa using h8) fun i hi hi' => ?_
  rw [List.getElem_take, VReg.lanes_write r (by omega), List.getD_eq_getElem _ _ hi']

/-- The lanes past the written ones keep their bits (R9, R168). -/
theorem VReg.drop_write (lanes : List W32) (r : VReg) :
    (r.write lanes).lanes.toList.drop lanes.length = r.lanes.toList.drop lanes.length := by
  refine List.ext_getElem (by simp) fun i hi _ => ?_
  have h8 : lanes.length + i < 8 := by simp at hi; omega
  rw [List.getElem_drop, List.getElem_drop, VReg.lanes_write r h8, List.getD_eq_default _ _ (by omega), Vector.getElem_toList]

/-- A write of an instruction makes the packet register FULL with the lanes. -/
@[simp] theorem Cell.vreg_fillV_same (d : VIdx) (lanes : List W32) (c : Cell) :
    (c.fillV d lanes).vreg d = (c.vreg d).write lanes := by
  unfold Cell.fillV
  split
  · exact Cell.vreg_putV_same ..
  · refine Eq.trans ?_ (Cell.vreg_putV_same d ((c.vreg d).write lanes) c)
    simp [Cell.landV, Cell.vreg]

theorem Cell.vreg_fillV_other {d n : VIdx} (h : n ≠ d) (lanes : List W32) (c : Cell) :
    (c.fillV d lanes).vreg n = c.vreg n := by
  unfold Cell.fillV
  split
  · exact Cell.vreg_putV_other h ..
  · rw [← Cell.vreg_putV_other h ((c.vreg d).write lanes) c]
    simp [Cell.landV, Cell.vreg]

/-! ### The draw count -/

/-- A draw moves nothing but the draw count, and that only under SR (R44). -/
theorem Cell.drew_eq (c : Cell) : c.drew = { c with draw := if c.k.rm == 4 then c.draw + 1 else c.draw } := by
  unfold Cell.drew
  by_cases h : c.k.rm = 4
  · rw [if_pos h, h]; rfl
  · rw [if_neg h, beq_eq_false_iff_ne.2 h]; rfl

/-! ### Trap entry (R24) -/

theorem Cell.unfence_eq (c : Cell) : c.unfence = { c with hnd := c.unfence.hnd } := by
  unfold Cell.unfence Cell.setPend
  split
  · split <;> rfl
  · rfl

/-- What trap entry leaves of the cell: the PC at the vector, and `KEPC`, `KCAUSE` and T set. -/
theorem trapEntry_cell (code detail : Byte) (info : W32) (epc : Pc) (done : State) :
    (trapEntry code detail info epc done).cell =
      { done.cell with
        hnd := done.cell.unfence.hnd, hold := none, pc := done.cell.k.vec
        k := { done.cell.k with epc := epc, t := true, cause := info ++ 0#8 ++ detail ++ 0#8 ++ code } } := by
  simp only [trapEntry, State.onCell_cell]
  rw [Cell.unfence_eq]

@[simp] theorem trapEntry_cell_x (code detail : Byte) (info : W32) (epc : Pc) (done : State) :
    (trapEntry code detail info epc done).cell.x = done.cell.x := by
  rw [trapEntry_cell]
@[simp] theorem trapEntry_cell_v (code detail : Byte) (info : W32) (epc : Pc) (done : State) :
    (trapEntry code detail info epc done).cell.v = done.cell.v := by
  rw [trapEntry_cell]
@[simp] theorem trapEntry_cell_p (code detail : Byte) (info : W32) (epc : Pc) (done : State) :
    (trapEntry code detail info epc done).cell.p = done.cell.p := by
  rw [trapEntry_cell]
@[simp] theorem trapEntry_cell_pc (code detail : Byte) (info : W32) (epc : Pc) (done : State) :
    (trapEntry code detail info epc done).cell.pc = done.cell.k.vec := by
  rw [trapEntry_cell]
@[simp] theorem trapEntry_cell_k (code detail : Byte) (info : W32) (epc : Pc) (done : State) :
    (trapEntry code detail info epc done).cell.k = { done.cell.k with epc := epc, t := true, cause := info ++ 0#8 ++ detail ++ 0#8 ++ code } := by rw [trapEntry_cell]
@[simp] theorem trapEntry_pkg (code detail : Byte) (info : W32) (epc : Pc) (done : State) :
    (trapEntry code detail info epc done).pkg = done.pkg :=
  rfl
@[simp] theorem trapEntry_here (code detail : Byte) (info : W32) (epc : Pc) (done : State) :
    (trapEntry code detail info epc done).here = done.here :=
  rfl
@[simp] theorem trapEntry_others (code detail : Byte) (info : W32) (epc : Pc) (done : State) :
    (trapEntry code detail info epc done).others = done.others :=
  rfl
@[simp] theorem trapEntry_agenda (code detail : Byte) (info : W32) (epc : Pc) (done : State) :
    (trapEntry code detail info epc done).agenda = done.agenda :=
  rfl

/-- `KCAUSE` of a condition without INFO as a number: the detail from bit 16 on, the code below. -/
theorem cause_without_info (code detail : Byte) :
    (0 : W32) ++ 0#8 ++ detail ++ 0#8 ++ code = BitVec.ofNat 64 (detail.toNat * 2 ^ 16 + code.toNat) := by
  have hd := detail.isLt
  have hc := code.isLt
  apply BitVec.eq_of_toNat_eq
  rw [BitVec.toNat_ofNat, Nat.mod_eq_of_lt (by omega)]
  simp only [BitVec.toNat_append, BitVec.toNat_ofNat, ← Nat.shiftLeft_add_eq_or_of_lt hc, Nat.zero_mod, Nat.or_zero,
    show (0 : W32).toNat = 0 from rfl, Nat.zero_shiftLeft, Nat.zero_or]
  omega

/-- Five bits as a detail keep their value (R23). -/
theorem toNat_of_detail : ∀ f : BitVec 5, (0#3 ++ f : Byte).toNat = f.toNat := by decide

/-! ### Packet retirement -/

/-- The state that a packet instruction leaves before its flags merge or trap. -/
def State.donePacket (s : State) (rounds : Bool) (d : VIdx) (lanes : List W32) : State :=
  advance 4 ((setV d lanes s).onCell fun c => if rounds then c.drew else c)

theorem wrotePacket_eq (s : State) (rounds : Bool) (d : VIdx) (lanes : List W32) (f : Flags) :
    s.wrotePacket rounds d lanes f = withFlags f (s.donePacket rounds d lanes) s := rfl

/-- It differs in the written register, the waiters it wakes, the draw count and the PC. -/
theorem donePacket_cell (s : State) (rounds : Bool) (d : VIdx) (lanes : List W32) :
    (s.donePacket rounds d lanes).cell =
      { s.cell.fillV d lanes with
        draw := if rounds && s.cell.k.rm == 4 then s.cell.draw + 1 else s.cell.draw, pc := s.cell.pc + 4, hold := none } := by
  cases rounds
  · simp [State.donePacket, advance]
  · simp [State.donePacket, advance, Cell.drew_eq]

@[simp] theorem donePacket_v (s : State) (rounds : Bool) (d : VIdx) (lanes : List W32) :
    (s.donePacket rounds d lanes).cell.v = (s.cell.fillV d lanes).v := by
  rw [donePacket_cell]

@[simp] theorem donePacket_k (s : State) (rounds : Bool) (d : VIdx) (lanes : List W32) :
    (s.donePacket rounds d lanes).cell.k = s.cell.k := by
  simp [donePacket_cell]

@[simp] theorem donePacket_pc (s : State) (rounds : Bool) (d : VIdx) (lanes : List W32) :
    (s.donePacket rounds d lanes).cell.pc = s.cell.pc + 4 := by
  rw [donePacket_cell]

/-- Cells of one register file read the same. -/
theorem Cell.vreg_congr {c c' : Cell} (h : c'.v = c.v) (n : VIdx) : c'.vreg n = c.vreg n := by
  simp only [Cell.vreg, h]

/-- Settles O36: the flags either merge, or the trap of an enabled one is taken on the state that the instruction leaves. -/
theorem packetRetirement : Obligations.PacketRetirement := by
  intro rounds d lanes f s h1 h8
  rw [wrotePacket_eq]
  refine ⟨fun hoff => ?_, fun hon he ht => ?_⟩
  · rw [withFlags_off hoff]
    have hreg (n : VIdx) : ((s.donePacket rounds d lanes).onCell (Cell.mergeFlags f)).cell.vreg n = (s.cell.fillV d lanes).vreg n :=
      Cell.vreg_congr (by simp) n
    refine ⟨?_, ?_, ?_, fun n hn => ?_, ?_, ?_, ?_, ?_, ?_, ⟨?_, ?_, ?_, ?_, ?_, ?_⟩, ⟨rfl, rfl, rfl, rfl⟩⟩
    · rw [hreg, Cell.vreg_fillV_same, VReg.packet_write _ h1 h8]
    · rw [hreg, Cell.vreg_fillV_same, VReg.drop_write]
    · rw [hreg, Cell.vreg_fillV_same]; rfl
    · rw [hreg, Cell.vreg_fillV_other hn]
    all_goals simp [donePacket_cell, Cell.mergeFlags]
  · rw [withFlags_on hon, trap_taken he ht]
    refine ⟨?_, ?_, ?_, ?_, ?_, ?_⟩
    · rw [Cell.vreg_congr (c := s.cell.fillV d lanes) (by simp), Cell.vreg_fillV_same, VReg.packet_write _ h1 h8]
    · simp [Cell.mergeFlags]
    · simp [Cell.mergeFlags]
    · simp [Cell.mergeFlags]
    · simp
    · rw [trapEntry_cell_k]
      exact (cause_without_info _ _).trans (by rw [toNat_of_detail]; rfl)

end Sys2Proof.Machine
end

section
/-! The frame of the instructions that work on registers alone: which of its registers one may write, what no outcome of it
changes, and that every operation it is built from keeps to that (R22, R24, R85, R168). -/

namespace Sys2Proof.Machine

/-! ### The registers that an instruction may write -/

/-- The one register that an instruction may write, if any. -/
inductive Written where
  | none
  | x (d : XIdx)
  | v (d : VIdx)
  | p (d : PIdx)

/-- The registers stand but for the one written. -/
def Written.Keeps : Written → Cell → Cell → Prop
  | .none, c, c' => c'.x = c.x ∧ c'.v = c.v ∧ c'.p = c.p
  | .x d, c, c' => c.SameXBut c' d ∧ c'.v = c.v ∧ c'.p = c.p
  | .v d, c, c' => c'.x = c.x ∧ c'.p = c.p ∧ c.SameVBut c' d
  | .p d, c, c' => c'.x = c.x ∧ c'.v = c.v ∧ ∀ n, n ≠ d → c'.pred n = c.pred n

theorem Written.keeps_self (w : Written) (c : Cell) : w.Keeps c c := by
  cases w with
  | none => exact ⟨rfl, rfl, rfl⟩
  | x d => exact ⟨fun _ _ => rfl, rfl, rfl⟩
  | v d => exact ⟨rfl, rfl, fun _ _ => rfl⟩
  | p d => exact ⟨rfl, rfl, fun _ _ => rfl⟩

theorem Cell.xreg_congr {c c' : Cell} (h : c'.x = c.x) (n : XIdx) : c'.xreg n = c.xreg n := by simp only [Cell.xreg, h]
theorem Cell.pred_congr {c c' : Cell} (h : c'.p = c.p) (n : PIdx) : c'.pred n = c.pred n := by simp only [Cell.pred, h]

/-- Only the three register files count. -/
theorem Written.Keeps.congr {w : Written} {c c' c'' : Cell} (h : w.Keeps c c') (hx : c''.x = c'.x) (hv : c''.v = c'.v) (hp : c''.p = c'.p) :
    w.Keeps c c'' := by
  cases w with
  | none =>
    obtain ⟨ex, ev, ep⟩ := h
    exact ⟨hx.trans ex, hv.trans ev, hp.trans ep⟩
  | x d =>
    obtain ⟨ex, ev, ep⟩ := h
    exact ⟨fun n hn => (Cell.xreg_congr hx n).trans (ex n hn), hv.trans ev, hp.trans ep⟩
  | v d =>
    obtain ⟨ex, ep, ev⟩ := h
    exact ⟨hx.trans ex, hp.trans ep, fun n hn => (Cell.vreg_congr hv n).trans (ev n hn)⟩
  | p d =>
    obtain ⟨ex, ev, ep⟩ := h
    exact ⟨hx.trans ex, hv.trans ev, fun n hn => (Cell.pred_congr hp n).trans (ep n hn)⟩

/-! ### Moves that touch no register -/

theorem KRegs.sameButTrap_self (k : KRegs) : k.SameButTrap k := ⟨rfl, BitVec.and_self⟩

theorem KRegs.SameButTrap.trans {k k' k'' : KRegs} (h : k.SameButTrap k') (h' : k'.SameButTrap k'') :
    k.SameButTrap k'' := by
  obtain ⟨hk, hf⟩ := h
  obtain ⟨hk', hf'⟩ := h'
  refine ⟨by rw [hk', hk], ?_⟩
  rw [← hf, ← BitVec.and_assoc, hf']

/-- One state differs from another at most in the PC, the hold, the handler entries, the draw count, the fault and what a trap writes. -/
structure State.Moved (s t : State) : Prop where
  outside : s.SameOutside t
  cell : t.cell = { s.cell with
    k := t.cell.k, draw := t.cell.draw, pc := t.cell.pc, hold := t.cell.hold, hnd := t.cell.hnd, fault := t.cell.fault, stopped := t.cell.stopped }
  k : s.cell.k.SameButTrap t.cell.k

variable {s t done : State}

theorem moved_advance (n : Nat) (s : State) : s.Moved (advance n s) :=
  ⟨⟨rfl, rfl, rfl, rfl⟩, rfl, KRegs.sameButTrap_self _⟩
theorem moved_jump (target : Pc) (s : State) : s.Moved (jump target s) :=
  ⟨⟨rfl, rfl, rfl, rfl⟩, rfl, KRegs.sameButTrap_self _⟩
theorem moved_hold (h : Hold) (s : State) : s.Moved (hold h s) := ⟨⟨rfl, rfl, rfl, rfl⟩, rfl, KRegs.sameButTrap_self _⟩
theorem moved_withFault (f : Cell → FaultRec) (s : State) : s.Moved (s.onCell fun c => c.withFault (f c)) :=
  ⟨⟨rfl, rfl, rfl, rfl⟩, rfl, KRegs.sameButTrap_self _⟩
theorem moved_raise (code detail : Byte) (info : W32) (s : State) : s.Moved (raise code detail info s) :=
  moved_withFault _ s

theorem moved_mergeFlags (f : Flags) (s : State) : s.Moved (s.onCell (Cell.mergeFlags f)) :=
  ⟨⟨rfl, rfl, rfl, rfl⟩, rfl, rfl, by ext i; simp [Cell.mergeFlags]; tauto⟩

theorem moved_trapEntry (code detail : Byte) (info : W32) (epc : Pc) (s : State) :
    s.Moved (trapEntry code detail info epc s) :=
  ⟨⟨rfl, rfl, rfl, rfl⟩, by simp [trapEntry_cell], by rw [trapEntry_cell_k]; exact ⟨rfl, BitVec.and_self⟩⟩

theorem moved_trapReturn (s : State) : s.Moved (trapReturn s) := by
  unfold trapReturn
  split
  · exact ⟨⟨rfl, rfl, rfl, rfl⟩, rfl, rfl, BitVec.and_self⟩
  · exact moved_raise ..

/-! ### The frame -/

/-- All but register w of the cell, its PC and its handler entries stands, and of the k-registers all but what a trap and flags write. -/
structure State.FrameBut (w : Written) (s t : State) : Prop where
  outside : s.SameOutside t
  stores : t.cell.SameStores s.cell
  units : t.cell.SameUnits s.cell
  k : s.cell.k.SameButTrap t.cell.k
  regs : w.Keeps s.cell t.cell

variable {w : Written}

theorem State.FrameBut.moved (h : s.FrameBut w t) {u : State} (m : t.Moved u) : s.FrameBut w u := by
  obtain ⟨⟨o1, o2, o3, o4⟩, hs, hu, hk, hr⟩ := h
  obtain ⟨⟨p1, p2, p3, p4⟩, hc, hk'⟩ := m
  refine ⟨⟨p1.trans o1, p2.trans o2, p3.trans o3, p4.trans o4⟩, ?_, ?_, hk.trans hk', hr.congr ?_ ?_ ?_⟩
  · rw [hc]; exact hs
  · rw [hc]; exact hu
  all_goals rw [hc]

theorem frame_self (w : Written) (s : State) : s.FrameBut w s :=
  ⟨⟨rfl, rfl, rfl, rfl⟩, ⟨rfl, rfl, rfl, rfl, rfl, rfl⟩, ⟨rfl, rfl, rfl, rfl, rfl, rfl, rfl, rfl, rfl, rfl, rfl, rfl, rfl⟩, KRegs.sameButTrap_self _, w.keeps_self _⟩

theorem State.Moved.frame (m : s.Moved t) : s.FrameBut w t := (frame_self w s).moved m

theorem State.FrameBut.advance (h : s.FrameBut w t) (n : Nat) : s.FrameBut w (advance n t) :=
  h.moved (moved_advance n t)
theorem State.FrameBut.jump (h : s.FrameBut w t) (target : Pc) : s.FrameBut w (jump target t) :=
  h.moved (moved_jump target t)

/-- A trap is taken on what the instruction leaves, or is a fault of the state before it. -/
theorem State.FrameBut.trap (h : s.FrameBut w done) (code detail : Byte) (info : W32) (epc : Pc) :
    s.FrameBut w (trap code detail info epc done s) := by
  unfold Machine.trap
  split
  · exact h.moved (moved_trapEntry ..)
  · exact (moved_raise ..).frame

theorem State.FrameBut.withFlags (h : s.FrameBut w done) (f : Flags) : s.FrameBut w (withFlags f done s) := by
  have hm := h.moved (moved_mergeFlags f done)
  unfold Machine.withFlags
  simp only
  split
  · exact hm
  · exact hm.trap ..

theorem frame_readX {k : Word → State} (a : XIdx) (h : ∀ A, s.FrameBut w (k A)) : s.FrameBut w (readX a s k) := by
  unfold readX trapHere
  split
  · exact h _
  · split
    · exact (frame_self w s).trap ..
    · exact (moved_hold ..).frame
  · exact (moved_hold ..).frame

theorem frame_readV {k : VReg → State} (a : VIdx) (h : ∀ A, s.FrameBut w (k A)) : s.FrameBut w (readV a s k) := by
  unfold readV trapHere
  split
  · exact h _
  · split
    · exact (frame_self w s).trap ..
    · exact (moved_hold ..).frame
  · exact (moved_hold ..).frame

theorem frame_freeX (d : XIdx) (h : s.FrameBut w t) : s.FrameBut w (freeX d s t) := by
  unfold freeX
  split
  · exact (moved_hold ..).frame
  · exact h

theorem frame_freeV (d : VIdx) (h : s.FrameBut w t) : s.FrameBut w (freeV d s t) := by
  unfold freeV
  split
  · exact (moved_hold ..).frame
  · exact h

/-! ### Writes -/

theorem frame_setX (d : XIdx) (v : Word) (s : State) : s.FrameBut (.x d) (setX d v s) := by
  refine ⟨⟨rfl, rfl, rfl, rfl⟩, ?_, ?_, ?_, fun n hn => Cell.xreg_fillX_other hn v s.cell, ?_, ?_⟩ <;>
    simp [Cell.SameStores, Cell.SameUnits, KRegs.SameButTrap]

theorem frame_setP (d : PIdx) (b : Bool) (s : State) : s.FrameBut (.p d) (setP d b s) := by
  refine ⟨⟨rfl, rfl, rfl, rfl⟩, ?_, ?_, ?_, ?_, ?_, fun n hn => Cell.pred_putP_other hn b s.cell⟩ <;>
    simp [Cell.SameStores, Cell.SameUnits, KRegs.SameButTrap]

theorem frame_setV (d : VIdx) (l : List W32) (s : State) : s.FrameBut (.v d) (setV d l s) := by
  refine ⟨⟨rfl, rfl, rfl, rfl⟩, ?_, ?_, ?_, ?_, ?_, fun n hn => Cell.vreg_fillV_other hn l s.cell⟩ <;>
    simp [Cell.SameStores, Cell.SameUnits, KRegs.SameButTrap]

/-- A second write of the register that the instruction writes. -/
theorem State.FrameBut.putV {d : VIdx} (h : s.FrameBut (.v d) t) (r : Cell → VReg) :
    s.FrameBut (.v d) (t.onCell fun c => c.putV d (r c)) := by
  obtain ⟨ho, hs, hu, hk, hx, hp, hv⟩ := h
  exact ⟨ho, hs, hu, hk, hx, hp, fun n hn => (Cell.vreg_putV_other hn _ _).trans (hv n hn)⟩

/-! ### The operations that instructions on registers share -/

theorem frame_retireX (d : XIdx) (v : Word) (s : State) : s.FrameBut (.x d) (retireX d v s) :=
  frame_freeX d ((frame_setX d v s).advance 4)

theorem frame_alu (d a b : XIdx) (f : Word → Word → Word) (s : State) : s.FrameBut (.x d) (alu d a b f s) :=
  frame_readX a fun A => frame_readX b fun B => frame_retireX d (f A B) s

theorem frame_alu1 (d a : XIdx) (f : Word → Word) (s : State) : s.FrameBut (.x d) (alu1 d a f s) :=
  frame_readX a fun A => frame_retireX d (f A) s

theorem frame_divide (d a b : XIdx) (w : Bool) (f : (n : Nat) → BitVec n → BitVec n → BitVec n) (s : State) :
    s.FrameBut (.x d) (divide d a b w f s) :=
  frame_readX a fun A => frame_readX b fun B => frame_freeX d (((frame_setX d (inWidth w f A B) s).advance 4).withFlags _)

theorem frame_csrRead {k : BitVec 9} {f : Word → State} (h : ∀ v, s.FrameBut w (f v)) :
    s.FrameBut w (csrRead k s f) := by
  unfold csrRead
  split
  · exact (moved_hold ..).frame
  · exact h _

theorem frame_ownChannel {ch : ChIdx} {f : Channel → State} (h : ∀ C, s.FrameBut w (f C)) :
    s.FrameBut w (ownChannel ch s f) := by
  unfold ownChannel
  simp only
  split
  · exact (moved_raise ..).frame
  · exact h _

theorem frame_jumpTo (target : Word) (h : s.FrameBut w done) : s.FrameBut w (jumpTo target done s) := by
  unfold jumpTo
  split
  · exact h.jump _
  · exact (moved_raise ..).frame

theorem frame_loop (c : XIdx) (disp : BitVec 21) (s : State) :
    s.FrameBut (.x c) (readX c s fun n => if 1#64 < n then jump (target disp s) (setX c (n - 1) s) else advance 4 (setX c 0 s)) := by
  refine frame_readX c fun n => ?_
  split
  · exact (frame_setX ..).jump _
  · exact (frame_setX ..).advance 4

theorem frame_compare (d : PIdx) (a b : XIdx) (f : Word → Word → Bool) (s : State) :
    s.FrameBut (.p d) (compare d a b f s) :=
  frame_readX a fun A => frame_readX b fun B => (frame_setP d (f A B) s).advance 4

theorem frame_predicate (d : PIdx) (v : Bool) (s : State) : s.FrameBut (.p d) (predicate d v s) :=
  (frame_setP d v s).advance 4

theorem frame_branch (taken : Bool) (disp : BitVec 21) (s : State) : s.FrameBut w (branch taken disp s) := by
  cases taken
  · exact (moved_advance ..).frame
  · exact (moved_jump ..).frame

theorem frame_trapOr (code detail : Byte) (info : W32) (epc : Pc) (h : s.FrameBut w done) :
    s.FrameBut w (trapOr code detail info epc done s) := by
  unfold trapOr
  split
  · exact h.trap ..
  · exact (moved_raise ..).frame

/-! ### Packet instructions -/

theorem frame_packetDone (rounds : Bool) (d : VIdx) (lanes : List W32) (f : Flags) (s : State) :
    s.FrameBut (.v d) (packetDone rounds d lanes f s) := by
  have hdraw : State.Moved (setV d lanes s) ((setV d lanes s).onCell fun c => if rounds then c.drew else c) := by
    cases rounds
    · exact ⟨⟨rfl, rfl, rfl, rfl⟩, rfl, KRegs.sameButTrap_self _⟩
    · refine ⟨⟨rfl, rfl, rfl, rfl⟩, ?_, ?_⟩ <;> simp only [State.onCell_cell, if_true, Cell.drew_eq]
      exact KRegs.sameButTrap_self _
  exact frame_freeV d ((((frame_setV d lanes s).moved hdraw).advance 4).withFlags f)

theorem frame_packet1 (rounds : Bool) (d a : VIdx) (f : FmtDesc) (op : Nat → Nat → Nat × Flags) (s : State) :
    s.FrameBut (.v d) (packet1 rounds d a f op s) :=
  frame_readV a fun _ => frame_packetDone ..

theorem frame_packet2 (rounds : Bool) (d a b : VIdx) (f : FmtDesc) (op : Nat → Nat → Nat → Nat × Flags) (s : State) :
    s.FrameBut (.v d) (packet2 rounds d a b f op s) :=
  frame_readV a fun _ => frame_readV b fun _ => frame_packetDone ..

theorem frame_packet3 (rounds : Bool) (d a b : VIdx) (f : FmtDesc) (op : Nat → Nat → Nat → Nat → Nat × Flags) (s : State) :
    s.FrameBut (.v d) (packet3 rounds d a b f op s) :=
  frame_readV a fun _ => frame_readV b fun _ => frame_readV d fun _ => frame_packetDone ..

theorem frame_viExact (d a b : VIdx) (f : BitVec 3) (op : Int → Int → Int) (s : State) :
    s.FrameBut (.v d) (viExact d a b f op s) := by
  unfold viExact
  exact frame_packet2 ..

theorem frame_viShift (d a b : VIdx) (f : BitVec 3) (op : (n : Nat) → BitVec n → Nat → BitVec n) (s : State) :
    s.FrameBut (.v d) (viShift d a b f op s) := by
  unfold viShift viCode
  exact frame_packet2 ..

/-- One source, and any lanes and flags made from it. -/
theorem frame_one {d : VIdx} (a : VIdx) {rounds : Bool} {lanes : VReg → List W32} {f : VReg → Flags} :
    s.FrameBut (.v d) (readV a s fun A => packetDone rounds d (lanes A) (f A) s) :=
  frame_readV a fun _ => frame_packetDone ..

/-- Two sources, and any lanes and flags made from them. -/
theorem frame_two {d : VIdx} (a b : VIdx) {rounds : Bool} {lanes : VReg → VReg → List W32} {f : VReg → VReg → Flags} :
    s.FrameBut (.v d) (readV a s fun A => readV b s fun B => packetDone rounds d (lanes A B) (f A B) s) :=
  frame_readV a fun _ => frame_readV b fun _ => frame_packetDone ..

theorem frame_vsum (d a : VIdx) (f : FmtDesc) (s : State) :
    s.FrameBut (.v d) (readV a s fun A =>
      let l := A.elems f A.length
      if f.isInt then packetDone false d [BitVec.ofNat 32 (sumInt f s.cell.k.sat l)] 0 s
      else
        let (v, fl) := vfRound s.cell fFP32 0 (sumExact s.cell.k.rm (l.map (valueOf f)))
        packetDone true d [BitVec.ofNat 32 v] fl s) := by
  refine frame_readV a fun A => ?_
  cases h : f.isInt
  · exact frame_packetDone ..
  · exact frame_packetDone ..

theorem frame_vlen (d a : VIdx) (n : BitVec 5) (s : State) :
    s.FrameBut (.v d) (readV a s fun A => freeV d s (advance 4 ((setV d A.lanes.toList s).onCell fun c =>
      c.putV d { c.vreg d with len := n.setWidth 3 }))) :=
  frame_readV a fun A => frame_freeV d (((frame_setV d A.lanes.toList s).putV _).advance 4)

/-! ### Lists of instructions -/

/-- Instruction j keeps the frame: whatever it ends in, all but register w stands. -/
def KeepsFrame (s : State) (w : Written) (j : Instr) : Prop := ∀ {t : State}, exec j s = .next t → s.FrameBut w t

theorem keepsFrame {j : Instr} {u : State} (hj : exec j s = .next u) (hu : s.FrameBut w u) : KeepsFrame s w j := by
  intro t h
  rw [hj] at h
  cases h
  exact hu

/-- The frame in the form in which the statement says it. -/
theorem KeepsFrame.parts {j : Instr} (h : KeepsFrame s w j) (hj : exec j s = .next t) :
    (s.SameOutside t ∧ t.cell.SameStores s.cell ∧ t.cell.SameUnits s.cell ∧ s.cell.k.SameButTrap t.cell.k) ∧ w.Keeps s.cell t.cell := by
  obtain ⟨ho, hs, hu, hk, hr⟩ := h hj
  exact ⟨⟨ho, hs, hu, hk⟩, hr⟩

theorem frame_trapInstr (w : Written) (c e : BitVec 5) (p : PIdx) (s : State) : KeepsFrame s w (.trap c e p) := by
  refine keepsFrame rfl ?_
  split
  · exact frame_trapOr _ _ _ _ (moved_advance ..).frame
  · exact (moved_advance ..).frame

/-- Settles O6: each instruction is one of the shared operations, and each of these keeps the frame. -/
theorem registerFrame : Obligations.RegisterFrame := by
  intro d a b vd va vb p q r w h i m n z k3 disp f src c5 kn s t frame
  refine ⟨fun j hj => KeepsFrame.parts (w := .x d) ?_, KeepsFrame.parts (w := .x 31) ?_, fun j hj => KeepsFrame.parts (w := .p p) ?_,
    fun j hj => KeepsFrame.parts (w := .none) ?_, fun j hj => KeepsFrame.parts (w := .v vd) ?_⟩
  · have one {j : Instr} {a f} (hj : exec j s = .next (alu1 d a f s)) : KeepsFrame s (.x d) j := keepsFrame hj (frame_alu1 ..)
    have two {j : Instr} {a b f} (hj : exec j s = .next (alu d a b f s)) : KeepsFrame s (.x d) j := keepsFrame hj (frame_alu ..)
    have div {j : Instr} {a b w f} (hj : exec j s = .next (divide d a b w f s)) : KeepsFrame s (.x d) j := keepsFrame hj (frame_divide ..)
    revert j
    simp only [List.forall_mem_cons]
    exact ⟨two rfl, two rfl, two rfl, two rfl, two rfl, div rfl, div rfl, div rfl, div rfl, two rfl, two rfl, two rfl, two rfl, two rfl, two rfl, two rfl,
      two rfl, two rfl, two rfl, two rfl, two rfl, two rfl, two rfl, two rfl, one rfl, one rfl, one rfl, one rfl, two rfl, one rfl, one rfl, one rfl,
      one rfl, one rfl, one rfl, one rfl, one rfl, one rfl, keepsFrame rfl (frame_retireX ..), one rfl, two rfl, one rfl, one rfl, two rfl,
      keepsFrame rfl (frame_loop ..), keepsFrame rfl (frame_readX a fun A => frame_freeX d (frame_jumpTo A (frame_setX ..))),
      keepsFrame rfl (frame_csrRead fun v => frame_retireX d v s), keepsFrame rfl (frame_ownChannel fun C => frame_retireX ..),
      keepsFrame rfl (frame_retireX ..), keepsFrame rfl (frame_retireX ..), List.forall_mem_nil _⟩
  · exact keepsFrame rfl (frame_freeX 31 ((frame_setX ..).jump _))
  · have cmp {j : Instr} {a b f} (hj : exec j s = .next (compare p a b f s)) : KeepsFrame s (.p p) j := keepsFrame hj (frame_compare ..)
    have put {j : Instr} {v} (hj : exec j s = .next (predicate p v s)) : KeepsFrame s (.p p) j := keepsFrame hj (frame_predicate ..)
    revert j
    simp only [List.forall_mem_cons]
    exact ⟨cmp rfl, cmp rfl, cmp rfl, cmp rfl, cmp rfl, cmp rfl, put rfl, put rfl, put rfl, put rfl, put rfl, put rfl, put rfl, List.forall_mem_nil _⟩
  · have go {j : Instr} {c} (hj : exec j s = .next (branch c disp s)) : KeepsFrame s .none j := keepsFrame hj (frame_branch ..)
    revert j
    simp only [List.forall_mem_cons]
    exact ⟨go rfl, go rfl, go rfl, keepsFrame rfl (frame_readX a fun _ => frame_branch ..), keepsFrame rfl (frame_readX a fun _ => frame_branch ..),
      keepsFrame rfl (frame_readX a fun A => frame_jumpTo A (frame_self _ s)), keepsFrame rfl (frame_readX 31 fun A => frame_jumpTo A (frame_self _ s)),
      keepsFrame rfl (moved_advance ..).frame, frame_trapInstr _ a b p s,
      keepsFrame rfl (moved_trapReturn s).frame, keepsFrame rfl (moved_raise ..).frame, keepsFrame rfl ((moved_advance ..).frame.trap ..),
      keepsFrame rfl (moved_withFault ..).frame, List.forall_mem_nil _⟩
  · have vi {j : Instr} {a b f op} (hj : exec j s = .next (viExact vd a b f op s)) : KeepsFrame s (.v vd) j := keepsFrame hj (frame_viExact ..)
    have sh {j : Instr} {a b f op} (hj : exec j s = .next (viShift vd a b f op s)) : KeepsFrame s (.v vd) j := keepsFrame hj (frame_viShift ..)
    have p1 {j : Instr} {r a f op} (hj : exec j s = .next (packet1 r vd a f op s)) : KeepsFrame s (.v vd) j := keepsFrame hj (frame_packet1 ..)
    have p2 {j : Instr} {r a b f op} (hj : exec j s = .next (packet2 r vd a b f op s)) : KeepsFrame s (.v vd) j := keepsFrame hj (frame_packet2 ..)
    have p3 {j : Instr} {r a b f op} (hj : exec j s = .next (packet3 r vd a b f op s)) : KeepsFrame s (.v vd) j := keepsFrame hj (frame_packet3 ..)
    have one {j : Instr} {r a} {l : VReg → List W32} {fl : VReg → Flags}
        (hj : exec j s = .next (readV a s fun A => packetDone r vd (l A) (fl A) s)) : KeepsFrame s (.v vd) j := keepsFrame hj (frame_one a)
    have two {j : Instr} {r a b} {l : VReg → VReg → List W32} {fl : VReg → VReg → Flags}
        (hj : exec j s = .next (readV a s fun A => readV b s fun B => packetDone r vd (l A B) (fl A B) s)) : KeepsFrame s (.v vd) j :=
      keepsFrame hj (frame_two a b)
    revert j
    simp only [List.forall_mem_cons]
    exact ⟨vi rfl, vi rfl, vi rfl, p2 rfl, p2 rfl, p1 rfl, p1 rfl,
      p2 rfl, p2 rfl, p2 rfl, sh rfl, sh rfl, sh rfl, p2 rfl, p3 rfl,
      p2 rfl, p2 rfl, p2 rfl, p3 rfl, p2 rfl, p2 rfl, p1 rfl, p1 rfl, p2 rfl,
      one rfl, one rfl, one rfl, p1 rfl, p1 rfl, p1 rfl, p1 rfl, p2 rfl, p2 rfl,
      keepsFrame rfl (frame_vsum ..), one rfl, two rfl, one rfl, one rfl, keepsFrame rfl (frame_vlen ..),
      two rfl, two rfl, two rfl, two rfl, one rfl, two rfl, two rfl, List.forall_mem_nil _⟩

end Sys2Proof.Machine
end

section
/-! The wired registers (R8), trap entry and return (R24, R25), and the control and status registers (R27-R30). -/

namespace Sys2Proof.Machine

/-! ### Wired registers (R8) -/

theorem Cell.fillX_zero (v : Word) (c : Cell) : c.fillX 0 v = c := rfl
theorem Cell.putP_zero (b : Bool) (c : Cell) : c.putP 0 b = c := rfl
theorem Cell.landX_zero_x (v : Word) (c : Cell) : (c.landX 0 v).x = c.x := by simp [Cell.landX, Cell.putX]

/-- The link of `call` as a number: the address of the next word, modulo 16 KiB (R94). -/
theorem link_eq (s : State) : link s = BitVec.ofNat 64 ((s.cell.pc.toNat + 4) % 16384) := by
  apply BitVec.eq_of_toNat_eq
  simp [link]

/-- `call` writes its link and goes to its target at once where `x31` is not PENDING (R94). -/
theorem exec_call_free {disp : BitVec 21} {s : State} (h : s.FreeX 31) :
    exec (.call disp) s = .next (jump (target disp s) (setX 31 (link s) s)) :=
  congrArg Host.Outcome.next (freeX_free _ h)

/-- Settles O8: the wired registers take no write, and each other register reads back what is written, `x31` the link of `call` too. -/
theorem hardwiredRegisters : Obligations.HardwiredRegisters := by
  refine ⟨fun c => ⟨Cell.xreg_zero c, Cell.pred_zero c⟩, fun v b s => ⟨?_, ?_, Cell.landX_zero_x v s.cell⟩, fun d v s hd => ⟨?_, fun n hn => ?_⟩, fun disp s hfree => ?_⟩
  · rw [setX_cell, Cell.fillX_zero]
  · rw [setP_cell, Cell.putP_zero]
  · exact Cell.xreg_fillX_same hd v s.cell
  · exact Cell.xreg_fillX_other hn v s.cell
  · refine ⟨_, exec_call_free hfree, ?_, fun n hn => Cell.xreg_fillX_other hn (link s) s.cell⟩
    rw [← link_eq]
    exact Cell.xreg_fillX_same (by decide) (link s) s.cell

/-! ### Faults and traps (R24, R25) -/

/-- A fault inside a trap handler, the first of its cell, records `KEPC` and `KCAUSE` (R24). -/
theorem raise_in_handler {code detail : Byte} {info : W32} {s : State} (ht : s.cell.k.t = true) (hf : s.cell.fault = none) :
    ∃ f, (raise code detail info s).cell.fault = some f ∧ f.code = code ∧ f.aux0 = s.cell.k.epc.setWidth 32 ∧ f.aux1 = s.cell.k.cause := by
  simp [raise, Cell.withFault, hf, Cell.traceOf, ht]

/-- Nothing of a release is kept past trap entry. -/
theorem trapEntry_pend (code detail : Byte) (info : W32) (epc : Pc) (done : State) :
    (trapEntry code detail info epc done).cell.pend = done.cell.unfence.pend := by
  rw [trapEntry_cell, Cell.unfence_eq done.cell]
  rfl

/-- With no release kept, dropping it changes nothing. -/
theorem Cell.unfence_none {c : Cell} (h : ∀ l o n, c.pend ≠ .fence l o n) : c.unfence = c := by
  unfold Cell.unfence
  split
  · exact (h _ _ _ ‹_›).elim
  · rfl

/-- Inside a trap handler a park is a fault (R25). -/
theorem park_in_handler (k : ParkKey) {s : State} (h : s.cell.k.t = true) : park k s = raise cWAIT_ILLEGAL 0 0 s :=
  if_pos h

theorem exec_park_empty {a : XIdx} {s : State} (h : (s.cell.xreg a).st ≠ .full) :
    exec (.park a .x) s = .next (park (.regX a) s) :=
  congrArg Host.Outcome.next (if_neg h)

theorem exec_holdExpiry_here {k : ParkKey} {s : State} (h : s.cell.hold = some (.expiring k)) (hp : (park k s).here = s.here) :
    exec (.holdExpiry s.here) s = .next (park k s) := by
  show Host.Outcome.next _ = _
  rw [State.cellAt_here, h]
  exact congrArg Host.Outcome.next (State.within_here (park k) s hp)

/-- A `trap` whose predicate holds (R104). -/
theorem exec_trap_true {c e : BitVec 5} {p : PIdx} {s : State} (h : s.cell.pred p = true) :
    exec (.trap c e p) s = .next (trapOr (c.setWidth 8) (e.setWidth 8) 0 (s.cell.pc + 4) (advance 4 s) s) := congrArg Host.Outcome.next (if_pos h)

theorem exec_trap_false {c e : BitVec 5} {p : PIdx} {s : State} (h : s.cell.pred p = false) :
    exec (.trap c e p) s = .next (advance 4 s) :=
  congrArg Host.Outcome.next (if_neg (by simp [h]))

/-- The codes of `trap` that vector always (R23). -/
theorem vectors_always : ∀ c ∈ [0x03#5, 0x0D, 0x11, 0x19], ∀ prte, vectors (c.setWidth 8) prte = true := by decide

/-- The codes of `trap` that vector under PRTE only. -/
theorem vectors_parameter : ∀ c ∈ [0x0B#5, 0x0C], ∀ prte, vectors (c.setWidth 8) prte = prte := by decide

theorem vectors_never :
    ∀ c : BitVec 5, c ∉ [0x03#5, 0x0D, 0x11, 0x19, 0x0B, 0x0C] → ∀ prte, vectors (c.setWidth 8) prte = false := by
  decide

/-- The trap that an instruction takes after itself: to the vector, with the next address in `KEPC` and the registers as they stand (R23, R24). -/
theorem trapEntry_after (code detail : Byte) (s : State) :
    let t := trapEntry code detail 0 (s.cell.pc + 4) (advance 4 s)
    t.cell.pc = s.cell.k.vec ∧ t.cell.k.epc = s.cell.pc + 4 ∧ t.cell.k.t = true ∧ t.cell.k.cause = BitVec.ofNat 64 (detail.toNat * 2 ^ 16 + code.toNat) ∧
      t.cell.x = s.cell.x ∧ t.cell.v = s.cell.v ∧ t.cell.p = s.cell.p := by
  refine ⟨?_, ?_, ?_, ?_, ?_, ?_, ?_⟩
  case refine_4 => exact (congrArg KRegs.cause (trapEntry_cell_k ..)).trans (cause_without_info code detail)
  all_goals simp

/-- The code of `fault 0`: that of `KCAUSE` where it is one (R107). -/
theorem fault_zero_code (cause : Word) :
    (if (0#5 : BitVec 5) ≠ 0 then (0#5).setWidth 8 else if cause.setWidth 8 ≠ 0#8 ∧ cause.setWidth 8 ≤ 0x1D#8 then cause.setWidth 8 else cILLEGAL) =
      if 1 ≤ cause.toNat % 256 ∧ cause.toNat % 256 ≤ 0x1D then BitVec.ofNat 8 (cause.toNat % 256) else cILLEGAL := by
  have hcode : cause.setWidth 8 = BitVec.ofNat 8 (cause.toNat % 256) := by
    apply BitVec.eq_of_toNat_eq
    simp
  have hlt : cause.toNat % 256 < 256 := Nat.mod_lt _ (by decide)
  have hiff : (cause.setWidth 8 ≠ 0#8 ∧ cause.setWidth 8 ≤ 0x1D#8) ↔ 1 ≤ cause.toNat % 256 ∧ cause.toNat % 256 ≤ 0x1D := by
    rw [hcode, ne_eq, ← BitVec.toNat_inj, BitVec.le_def]
    simp
    omega
  rw [if_neg (by simp), if_congr hiff hcode rfl]

/-- Settles O16: a trap is taken, or refused as a fault; the instructions that trap answer with one or the other. -/
theorem trapEntryAndReturn : Obligations.TrapEntryAndReturn := by
  refine ⟨⟨fun code detail info epc done s => ⟨fun he ht => trap_taken he ht, trap_refused, raise_in_handler, ?_⟩, fun k s ht => park_in_handler k ht,
    fun a k s ht => ⟨fun ha => ?_, fun hk => ?_⟩⟩, fun s => ?_⟩
  · refine ⟨?_, ?_, ?_, ?_, ?_, ?_, ?_, ?_, ?_, fun l c n => ?_, fun h => ?_⟩
    case refine_10 =>
      rw [trapEntry_pend]
      exact unfence_drops _ _ _ _
    all_goals simp [trapEntry_cell]
    rw [Cell.unfence_none h]
  · rw [exec_park_empty ha, park_in_handler _ ht]
  · rw [exec_holdExpiry_here hk (by rw [park_in_handler _ ht]; rfl), park_in_handler _ ht]
  · refine ⟨rfl, fun c e p hp => exec_trap_false hp, fun c e p hp hc he ht => ?_, fun c e p hp h => ?_, fun he ht => ?_, fun h => ?_, fun ht => ?_, fun ht => ?_,
      fun c hc => ?_, ?_⟩
    · have hv : vectors (c.setWidth 8) s.cell.k.prte = true := by
        obtain hc | ⟨hc, hp⟩ := hc
        · exact vectors_always c hc _
        · rw [vectors_parameter c hc, hp]
      have hnum (f : BitVec 5) : (f.setWidth 8).toNat = f.toNat := BitVec.toNat_setWidth_of_le (by decide)
      have hafter := trapEntry_after (c.setWidth 8) (e.setWidth 8) s
      rw [hnum, hnum] at hafter
      exact ⟨_, (exec_trap_true hp).trans (congrArg Host.Outcome.next ((if_pos hv).trans (trap_taken he ht))), hafter⟩
    · have hraise : trapOr (c.setWidth 8) (e.setWidth 8) 0 (s.cell.pc + 4) (advance 4 s) s = raise (c.setWidth 8) (e.setWidth 8) 0 s := by
        obtain hc | ⟨hc, hp⟩ | h := h
        · exact if_neg (by simp [vectors_never c hc])
        · exact if_neg (by simp [vectors_parameter c hc, hp])
        · unfold trapOr
          split
          · exact trap_refused h
          · rfl
      rw [exec_trap_true hp, hraise]
    · exact ⟨_, congrArg Host.Outcome.next (trap_taken he ht), trapEntry_after cBREAKPOINT 0 s⟩
    · exact congrArg Host.Outcome.next (trap_refused h)
    · exact ⟨_, congrArg Host.Outcome.next (if_pos ht), rfl, rfl, rfl, rfl, rfl, rfl, rfl⟩
    · exact congrArg Host.Outcome.next (if_neg (by simp [ht]))
    · exact congrArg (fun code => Host.Outcome.next (raise code 0 0 s)) (if_pos hc)
    · exact congrArg (fun code => Host.Outcome.next (raise code 0 0 s)) (fault_zero_code s.cell.k.cause)

end Sys2Proof.Machine
end

section
/-! The control and status registers (R27-R30, R108, R109). -/

namespace Sys2Proof.Machine

/-! ### Fields of a word -/

theorem foldl_fields (l : List (Nat × Nat)) (n : Nat) :
    l.foldl (fun a e => a + e.1 * 2 ^ e.2) n = n + l.foldl (fun a e => a + e.1 * 2 ^ e.2) 0 := by
  induction l generalizing n with
  | nil => rfl
  | cons e l ih =>
    simp only [List.foldl_cons]
    rw [ih, ih (0 + e.1 * 2 ^ e.2)]
    omega

theorem fields_cons (e : Nat × Nat) (l : List (Nat × Nat)) :
    fields (e :: l) = BitVec.ofNat 64 (e.1 * 2 ^ e.2) + fields l := by
  rw [fields, List.foldl_cons, foldl_fields, Nat.zero_add, BitVec.ofNat_add]
  rfl

theorem fields_nil : fields [] = 0#64 := rfl

/-- A field that the width of its register holds. -/
theorem fields_one {n : Nat} (x : BitVec n) : fields [(x.toNat, 0)] = x.setWidth 64 := by
  simp [fields, BitVec.ofNat_toNat]

/-- The n bits of a word from bit i on, put back in their place. -/
theorem field_extract (i n : Nat) (v : Word) :
    BitVec.ofNat 64 ((v.extractLsb' i n).toNat * 2 ^ i) = v &&& ((BitVec.allOnes n).setWidth 64 <<< i) := by
  refine BitVec.eq_of_getLsbD_eq fun j hj => ?_
  rw [BitVec.getLsbD_ofNat, ← Nat.shiftLeft_eq, Nat.testBit_shiftLeft, BitVec.testBit_toNat, BitVec.getLsbD_extractLsb', BitVec.getLsbD_and,
    BitVec.getLsbD_shiftLeft, BitVec.getLsbD_setWidth, BitVec.getLsbD_allOnes]
  rcases Nat.lt_or_ge j i with h | h
  · simp [h]
  · have hlow : ¬ j < i := by omega
    have hsub : j - i < 64 := by omega
    simp [hj, h, hlow, hsub, Bool.and_comm]

/-- A bit of a word, put back in its place. -/
theorem field_bit (v : Word) (i : Nat) : BitVec.ofNat 64 (b2n (v.getLsbD i) * 2 ^ i) = v &&& BitVec.twoPow 64 i := by
  rw [BitVec.and_twoPow]
  cases v.getLsbD i
  · simp [b2n]
  · exact BitVec.eq_of_toNat_eq (by simp [b2n])

/-- A value narrowed to n bits and widened again keeps just these. -/
theorem widen_narrow (n : Nat) (v : Word) : (v.setWidth n).setWidth 64 = v &&& (BitVec.allOnes n).setWidth 64 := by
  ext i hi
  simp [BitVec.getElem_setWidth, Bool.and_comm, BitVec.getLsbD_eq_getElem hi]

/-- Bits of one word in disjoint places add up. -/
theorem and_disjoint {v m m' : Word} (h : m &&& m' = 0#64) : v &&& m &&& (v &&& m') = 0#64 :=
  calc v &&& m &&& (v &&& m') = v &&& v &&& (m &&& m') := by ac_rfl
    _ = 0#64 := by rw [h, BitVec.and_zero]

theorem and_add_and {v m m' : Word} (h : m &&& m' = 0#64) : (v &&& m) + (v &&& m') = v &&& (m ||| m') := by
  rw [BitVec.add_eq_or_of_and_eq_zero _ _ (and_disjoint h), BitVec.and_or_distrib_left]

/-! ### Reads and writes of a k-register at issue -/

/-- `KFFLAGS` waits for flags that have still to merge; every other k-register is read at once (R29, R110). -/
theorem csrRead_ready {k : BitVec 9} {s : State} (h : k = 0x004#9 → s.cell.flagsPending = false) (f : Word → State) :
    csrRead k s f = f (csrValue k s) := by
  unfold csrRead
  rw [if_neg]
  rintro ⟨hk, hp⟩
  simp [h hk] at hp

variable {d a : XIdx} {k : BitVec 9} {A : Word} {f : Word → Word → Word} {s : State}

theorem csrUpdate_ready (ha : s.HasX a A) (hp : k = 0x004#9 → s.cell.flagsPending = false) :
    csrUpdate d a k f s =
      if !s.runtime && (csrValue k s ^^^ f (csrValue k s) A) &&& csrRpMask k != 0 then raise cPRIVILEGED 0 0 s
      else freeX d s (advance 4 (setX d (csrValue k s) (s.onCell (csrWrite k (f (csrValue k s) A))))) := by
  rw [csrUpdate, readX_has ha, csrRead_ready hp]

/-- The update of a k-register that the level of the board allows (R108, R109). -/
theorem csrUpdate_allowed (hd : s.FreeX d) (ha : s.HasX a A) (hp : k = 0x004#9 → s.cell.flagsPending = false)
    (h : s.runtime = true ∨ (csrValue k s ^^^ f (csrValue k s) A) &&& csrRpMask k = 0) :
    csrUpdate d a k f s = advance 4 (setX d (csrValue k s) (s.onCell (csrWrite k (f (csrValue k s) A)))) := by
  rw [csrUpdate_ready ha hp, if_neg, freeX_free _ hd]
  rcases h with h | h <;> simp [h]

/-- One that changes a field of runtime level at user level (R109). -/
theorem csrUpdate_refused (ha : s.HasX a A) (hp : k = 0x004#9 → s.cell.flagsPending = false) (hl : s.runtime = false)
    (h : (csrValue k s ^^^ f (csrValue k s) A) &&& csrRpMask k ≠ 0) : csrUpdate d a k f s = raise cPRIVILEGED 0 0 s := by
  rw [csrUpdate_ready ha hp, if_pos]
  simpa [hl] using h

/-! ### What a written k-register reads as (R28, R30) -/

theorem getD_setIfInBounds {α : Type} {n i : Nat} (hi : i < n) (r : Vector α n) (x y : α) :
    (r.setIfInBounds i x).toList.getD i y = x := by
  simp [List.getD_eq_getElem?_getD, hi]

/-- A counter's write wakes its waiters and is a write all the same (R84). -/
theorem csrWrite_k (k : BitVec 9) (v : Word) (c : Cell) : (csrWrite k v c).k = csrPut k v c.k := by
  unfold csrWrite Cell.wakeCounter
  simp only
  split
  · rw [Cell.wakeWhere_k]
  · rfl

/-- A k-register of a file of eight reads as what a write puts in its place. -/
theorem csrValue_of_file {α : Type} {k : BitVec 9} {v : Word} {n : Nat} {file : KRegs → Vector α 8} {read : α → Word} {dflt x : α} (hn : n < 8)
    (hread : ∀ s : State, csrValue k s = read ((file s.cell.k).toList.getD n dflt)) (hput : ∀ r, file (csrPut k v r) = (file r).setIfInBounds n x)
    (s : State) : csrValue k (s.onCell (csrWrite k v)) = read x := by
  rw [hread, State.onCell_cell, csrWrite_k, hput, getD_setIfInBounds hn]

theorem scale_written {n : Nat} (hn : n < 8) (v : Word) (s : State) :
    csrValue (BitVec.ofNat 9 (0x018 + n)) (s.onCell (csrWrite (BitVec.ofNat 9 (0x018 + n)) v)) = v &&& 0xFF#64 := by
  have h := csrValue_of_file (k := BitVec.ofNat 9 (0x018 + n)) (v := v) (file := KRegs.scale) (read := fun x => fields [(x.toNat, 0)]) (dflt := 0)
    (x := v.setWidth 8) hn (fun s => by interval_cases n <;> rfl) (fun r => by interval_cases n <;> rfl) s
  rw [h, fields_one, widen_narrow]
  rfl

theorem ecnt_written {n : Nat} (hn : n < 8) (v : Word) (s : State) :
    csrValue (BitVec.ofNat 9 (0x020 + n)) (s.onCell (csrWrite (BitVec.ofNat 9 (0x020 + n)) v)) = v &&& 0xFFFF_FFFF#64 := by
  have h := csrValue_of_file (k := BitVec.ofNat 9 (0x020 + n)) (v := v) (file := KRegs.ecnt) (read := fun x => fields [(x.toNat, 0)]) (dflt := 0)
    (x := v.setWidth 32) hn (fun s => by interval_cases n <;> rfl) (fun r => by interval_cases n <;> rfl) s
  rw [h, fields_one, widen_narrow]
  rfl

theorem pwb_written {n : Nat} (hn : n < 8) (v : Word) (s : State) :
    csrValue (BitVec.ofNat 9 (0x030 + n)) (s.onCell (csrWrite (BitVec.ofNat 9 (0x030 + n)) v)) = v &&& ~~~0x3F#64 :=
  csrValue_of_file (file := KRegs.pwb) (read := id) (dflt := 0) hn (fun s => by interval_cases n <;> rfl) (fun r => by interval_cases n <;> rfl) s

theorem pws_written {n : Nat} (hn : n < 8) (v : Word) (s : State) :
    csrValue (BitVec.ofNat 9 (0x038 + n)) (s.onCell (csrWrite (BitVec.ofNat 9 (0x038 + n)) v)) = v &&& 0xFF_FFFF_FFFF#64 :=
  csrValue_of_file (file := KRegs.pws) (read := id) (dflt := 0) hn (fun s => by interval_cases n <;> rfl) (fun r => by interval_cases n <;> rfl) s

/-- `KSTAT`: PRTE takes the value, every other field is RO (R30). -/
theorem kstat_fields : ∀ (prio : BitVec 4) (prte lvl t b : Bool),
    fields [(prio.toNat, 4), (b2n b, 2), (b2n lvl, 1), (b2n t, 0)] =
      (fields [(prio.toNat, 4), (b2n prte, 2), (b2n lvl, 1), (b2n t, 0)] &&& ~~~0x4#64) ||| (if b then 0x4#64 else 0) := by decide

/-- `KMXSTAT`: OVI takes the value, the others are RO. -/
theorem kmxstat_fields : ∀ p m o b : Bool,
    fields [(b2n p, 2), (b2n m, 1), (b2n b, 0)] = (fields [(b2n p, 2), (b2n m, 1), (b2n o, 0)] &&& ~~~0x1#64) ||| (if b then 0x1#64 else 0) := by decide

theorem kstat_written (v : Word) (s : State) :
    csrValue 0x000 (s.onCell (csrWrite 0x000 v)) = (csrValue 0x000 s &&& ~~~0x4#64) ||| (v &&& 0x4#64) := by
  rw [show v &&& 0x4#64 = if v.getLsbD 2 then 0x4#64 else 0 from BitVec.and_twoPow v 2]
  exact kstat_fields s.cell.k.prio s.cell.k.prte s.cell.k.lvl s.cell.k.t (v.getLsbD 2)

theorem kmxstat_written (v : Word) (s : State) :
    csrValue 0x00F (s.onCell (csrWrite 0x00F v)) = (csrValue 0x00F s &&& ~~~0x1#64) ||| (v &&& 0x1#64) := by
  rw [show v &&& 0x1#64 = if v.getLsbD 0 then 0x1#64 else 0 from BitVec.and_twoPow v 0]
  exact kmxstat_fields _ _ s.cell.k.ovi (v.getLsbD 0)

theorem kvec_written (v : Word) (s : State) : csrValue 0x003 (s.onCell (csrWrite 0x003 v)) = v &&& 0x3FFD#64 := by
  show fields [((v.setWidth 14 &&& 0x3FFC#14).toNat, 0), (b2n (v.getLsbD 0), 0)] = _
  have hvec : BitVec.ofNat 64 ((v.setWidth 14 &&& 0x3FFC#14).toNat * 2 ^ 0) = v &&& 0x3FFC#64 := by
    rw [pow_zero, mul_one, BitVec.ofNat_toNat, BitVec.setWidth_and, widen_narrow, BitVec.and_assoc]
    rfl
  rw [fields_cons, fields_cons, fields_nil, BitVec.add_zero, hvec, field_bit, and_add_and (by decide)]
  rfl

/-- RM takes the values 0 to 4 (R30). -/
theorem rm_written (v : Word) (rm : BitVec 3) :
    BitVec.setWidth 64 (if v.setWidth 3 < 5#3 then v.setWidth 3 else rm) = if v.toNat % 8 < 5 then v &&& 0x7#64 else rm.setWidth 64 := by
  have hiff : v.setWidth 3 < 5#3 ↔ v.toNat % 8 < 5 := by simp [BitVec.lt_def]
  rw [apply_ite (BitVec.setWidth 64), if_congr hiff (widen_narrow 3 v) rfl]
  rfl

theorem kfrm_written (v : Word) (s : State) :
    csrValue 0x005 (s.onCell (csrWrite 0x005 v)) = (v &&& 0x1F08#64) ||| (if v.toNat % 8 < 5 then v &&& 0x7#64 else s.cell.k.rm.setWidth 64) := by
  show fields [((v.extractLsb' 8 5).toNat, 8), (b2n (v.getLsbD 3), 3), ((if v.setWidth 3 < 5#3 then v.setWidth 3 else s.cell.k.rm).toNat, 0)] = _
  have hrm : ∀ rm : BitVec 3, 0x1F08#64 &&& rm.setWidth 64 = 0#64 := by decide
  rw [fields_cons, fields_cons, field_bit, field_extract, fields_one, rm_written, ← BitVec.add_assoc, and_add_and (by decide)]
  refine BitVec.add_eq_or_of_and_eq_zero _ _ ?_
  split
  · exact and_disjoint (by decide)
  · rw [BitVec.and_assoc]
    exact (congrArg (v &&& ·) (hrm _)).trans BitVec.and_zero

theorem kmxrow_written (v : Word) (s : State) :
    csrValue 0x010 (s.onCell (csrWrite 0x010 v)) = v &&& 0xFFFF_001F#64 := by
  show fields [((v.extractLsb' 16 16).toNat, 16), ((v.setWidth 5).toNat, 0)] = _
  rw [fields_cons, field_extract, fields_one, widen_narrow, and_add_and (by decide)]
  rfl

/-! ### The obligation -/

/-- The other numbers have no field of runtime level (R30). -/
theorem csrRpMask_none {k : BitVec 9} (hk : k ∉ [0x00A#9, 0x00E, 0x010]) (h : k.toNat < 0x030 ∨ 0x040 ≤ k.toNat) :
    csrRpMask k = 0 := by
  have hne (n : BitVec 9) (hn : n ∈ [0x00A#9, 0x00E, 0x010]) : k.toNat ≠ n.toNat := fun e => hk (BitVec.eq_of_toNat_eq e ▸ hn)
  have h1 := hne 0x00A (by decide)
  have h2 := hne 0x00E (by decide)
  have h3 := hne 0x010 (by decide)
  unfold csrRpMask
  split
  · contradiction
  · contradiction
  · contradiction
  · rw [if_neg (by omega), if_neg (by omega)]

/-- Settles O18: an update is performed or refused by the level of the board, and each register keeps the fields that it has. -/
theorem controlAndStatusRegisters : Obligations.ControlAndStatusRegisters := by
  refine ⟨fun d a k A s hd hp => ⟨?_, fun ha e he => ?_⟩, ⟨rfl, rfl, rfl, fun n hn => ?_, fun k => csrRpMask_none⟩, fun v s => ?_⟩
  · exact congrArg Host.Outcome.next ((csrRead_ready hp _).trans (retireX_wrote hd _))
  · simp only [List.mem_cons, List.not_mem_nil, or_false] at he
    obtain rfl | rfl | rfl := he
    all_goals exact ⟨fun h => congrArg Host.Outcome.next (csrUpdate_allowed hd ha hp h), fun hl h => congrArg Host.Outcome.next (csrUpdate_refused ha hp hl h)⟩
  · interval_cases n <;> exact ⟨rfl, rfl⟩
  · refine ⟨kstat_written v s, rfl, ?_, kvec_written v s, ?_, kfrm_written v s, ?_, ?_, ?_, rfl, rfl, ?_, kmxstat_written v s, kmxrow_written v s,
      fun n hn => ⟨scale_written hn v s, ecnt_written hn v s, pwb_written hn v s, pws_written hn v s⟩⟩
    · show (v.setWidth 14 &&& 0x3FFC#14).setWidth 64 = _
      rw [BitVec.setWidth_and, widen_narrow, BitVec.and_assoc]
      rfl
    · exact widen_narrow 5 v
    · show (v.setWidth 32 &&& ~~~1#32).setWidth 64 = _
      rw [BitVec.setWidth_and, widen_narrow, BitVec.and_assoc]
      rfl
    · exact widen_narrow 32 v
    · simp only [List.forall_mem_cons]
      exact ⟨rfl, rfl, rfl, rfl, List.forall_mem_nil _⟩
    · exact widen_narrow 32 v

end Sys2Proof.Machine
end

section
/-! Issuing an access to memory (R15, R208, R216, R229-R231, R242): what the checks before it let through, and what an access in
flight leaves. -/

namespace Sys2Proof.Machine

/-! ### The checks before an access -/

theorem issuable_ready {s t : State} {set wait : BitVec 3} (h : s.Ready set wait) : issuable set wait s t = t := by
  obtain ⟨hacq, hwait, hset⟩ := h
  have hw : ¬ (wait ≠ 0 ∧ s.cell.slot wait ≠ 0) := fun ⟨hn, hs⟩ => hs (hwait hn)
  have hs : ¬ (set ≠ 0 ∧ s.cell.slot set ≥ 63) := fun ⟨hn, hs⟩ => absurd (hset hn) (by omega)
  unfold issuable
  rw [hacq, if_neg Bool.false_ne_true, if_neg hw, if_neg hs]

theorem aligned_at {va : Word} {n : Nat} {s t : State} (h : va.toNat % n = 0) : aligned va n s t = t :=
  if_neg (by omega)

theorem aligned_off {va : Word} {n : Nat} {s t : State} (h : va.toNat % n ≠ 0) :
    aligned va n s t = raise cMISALIGNED 0 (va.setWidth 32) s :=
  if_pos h

theorem buffered_free {s t : State} (h : s.cell.buffers < 32) : buffered s t = t := if_neg (by omega)

/-- The destination of an access, where it has one, may be written (R16). -/
def State.FreeDst (s : State) : Dst → Prop
  | .none => True
  | .x d => s.FreeX d
  | .v d => s.FreeV d

theorem freeDst_free {d : Dst} {s t : State} (h : s.FreeDst d) : freeDst d s t = t := by
  cases d with
  | none => rfl
  | x d => exact freeX_free t h
  | v d => exact freeV_free t h

/-! ### Translation changes no byte -/

/-- A translation can only add to what the TLB holds (R209). -/
theorem translate_pkg (ctx : BitVec 6) (va : Word) (p : Package) :
    (translate ctx va p).2 = { p with tlb := (translate ctx va p).2.tlb } := by
  unfold translate
  simp only
  split
  · rfl
  · split
    · rfl
    · split
      · rfl
      · split <;> rfl

theorem translateFor_pkg (rd wr : Bool) (ctx : BitVec 6) (va : Word) (p : Package) :
    (translateFor rd wr ctx va p).2 = { p with tlb := (translateFor rd wr ctx va p).2.tlb } := by
  have h := translate_pkg ctx va p
  unfold translateFor
  split
  next heq => rwa [heq] at h
  next => exact h

theorem framePlace_pkg (wr : Bool) (ctx : BitVec 6) (frames : List Word) (back : BitVec 2) (k logn : Nat) (pos : BitVec 48) (p : Package) :
    (framePlace wr ctx frames back k logn pos p).2 = { p with tlb := (framePlace wr ctx frames back k logn pos p).2.tlb } := by
  unfold framePlace
  simp only
  split
  · split <;> rfl
  · have h := translateFor_pkg (!wr) wr ctx (BitVec.ofNat 64 ((frames.getD (pos.toNat / 2 ^ k % 2 ^ logn) 0).toNat + pos.toNat % 2 ^ k)) p
    split <;> (next heq => rw [heq] at h; exact h)

theorem mem_of_translateFor {rd wr : Bool} {ctx : BitVec 6} {va : Word} {p p' : Package} {g : Got Xlat} (h : translateFor rd wr ctx va p = (g, p')) :
    p'.mem = p.mem := by
  have hp := congrArg Package.mem (translateFor_pkg rd wr ctx va p)
  rw [h] at hp
  exact hp

theorem mem_of_framePlace {wr : Bool} {ctx : BitVec 6} {frames : List Word} {back : BitVec 2} {k logn : Nat} {pos : BitVec 48} {p p' : Package} {g : Got Place}
    (h : framePlace wr ctx frames back k logn pos p = (g, p')) : p'.mem = p.mem := by
  have hp := congrArg Package.mem (framePlace_pkg wr ctx frames back k logn pos p)
  rw [h] at hp
  exact hp

/-! ### An access in flight -/

theorem Cell.onSlot_eq (n : BitVec 3) (f : Nat → Nat) (c : Cell) :
    c.onSlot n f = { c with sb := (c.onSlot n f).sb } := by
  unfold Cell.onSlot
  split <;> rfl

theorem Cell.slot_onSlot {n : BitVec 3} (h : n ≠ 0) (f : Nat → Nat) (c : Cell) :
    (c.onSlot n f).slot n = f (c.slot n) := by
  unfold Cell.onSlot
  rw [if_neg h]
  exact Vector.getElem_set_self _

/-- The access that a request leaves in flight. -/
def Req.access (q : Req) (loc : Loc) (after : List Nat) (l1 : Bool) (c : Cell) : Access :=
  ⟨c.nextId, c.cur.getD 0, c.pc, c.wordAt c.pc, q.op, q.dst, q.va, loc, q.cls, q.set, after, q.acq, l1, true, false⟩

/-- The cell with the access in flight and counted, before its destination is PENDING. -/
def Cell.joined (a : Access) (c : Cell) : Cell := ({ c with inflight := c.inflight ++ [a], nextId := c.nextId + 1 } : Cell).onSlot a.set (· + 1)

theorem launch_req (q : Req) (loc : Loc) (after : List Nat) (l1 : Bool) (s : State) :
    launch q.op q.dst q.va loc q.cls q.set after q.acq l1 s = pendDst q.dst (s.onCell (Cell.joined (q.access loc after l1 s.cell))) := rfl

theorem Cell.joined_eq (a : Access) (c : Cell) :
    c.joined a = { c with inflight := c.inflight ++ [a], nextId := c.nextId + 1, sb := (c.joined a).sb } := by
  rw [Cell.joined, Cell.onSlot_eq]

@[simp] theorem Cell.joined_x (a : Access) (c : Cell) : (c.joined a).x = c.x := by rw [Cell.joined_eq]
@[simp] theorem Cell.joined_v (a : Access) (c : Cell) : (c.joined a).v = c.v := by rw [Cell.joined_eq]
@[simp] theorem Cell.joined_store (a : Access) (c : Cell) : (c.joined a).store = c.store := by rw [Cell.joined_eq]
@[simp] theorem Cell.joined_pc (a : Access) (c : Cell) : (c.joined a).pc = c.pc := by rw [Cell.joined_eq]
@[simp] theorem Cell.joined_fault (a : Access) (c : Cell) : (c.joined a).fault = c.fault := by rw [Cell.joined_eq]
@[simp] theorem Cell.joined_inflight (a : Access) (c : Cell) : (c.joined a).inflight = c.inflight ++ [a] := by
  rw [Cell.joined_eq]

theorem Cell.joined_slot {a : Access} (h : a.set ≠ 0) (c : Cell) : (c.joined a).slot a.set = c.slot a.set + 1 :=
  Cell.slot_onSlot h _ _

@[simp] theorem pendDst_store (d : Dst) (s : State) : (pendDst d s).cell.store = s.cell.store := by
  cases d <;> simp [pendDst]
@[simp] theorem pendDst_pc (d : Dst) (s : State) : (pendDst d s).cell.pc = s.cell.pc := by cases d <;> simp [pendDst]
@[simp] theorem pendDst_fault (d : Dst) (s : State) : (pendDst d s).cell.fault = s.cell.fault := by
  cases d <;> simp [pendDst]
@[simp] theorem pendDst_inflight (d : Dst) (s : State) : (pendDst d s).cell.inflight = s.cell.inflight := by
  cases d <;> simp [pendDst]
@[simp] theorem pendDst_sb (d : Dst) (s : State) : (pendDst d s).cell.sb = s.cell.sb := by cases d <;> simp [pendDst]
@[simp] theorem pendDst_pkg (d : Dst) (s : State) : (pendDst d s).pkg = s.pkg := by cases d <;> rfl

/-- The destination of an access in flight is PENDING, and no other register has changed (R15). -/
def Dst.Pending (d : Dst) (c c' : Cell) : Prop :=
  match d with
  | .none => c'.x = c.x ∧ c'.v = c.v
  | .x d => (d ≠ 0 → (c'.xreg d).st = .pending) ∧ c'.v = c.v ∧ ∀ n, n ≠ d → c'.xreg n = c.xreg n
  | .v d => (c'.vreg d).st = .pending ∧ c'.x = c.x ∧ ∀ n, n ≠ d → c'.vreg n = c.vreg n

theorem pendDst_pending (d : Dst) (s : State) : d.Pending s.cell (pendDst d s).cell := by
  cases d with
  | none => exact ⟨rfl, rfl⟩
  | x d => exact ⟨fun hd => congrArg XReg.st (Cell.xreg_putX_same hd _ _), Cell.putX_v .., fun n hn => Cell.xreg_putX_other hn _ _⟩
  | v d => exact ⟨congrArg VReg.st (Cell.vreg_putV_same ..), rfl, fun n hn => Cell.vreg_putV_other hn _ _⟩

/-- Only the register files count. -/
theorem Dst.Pending.congr {d : Dst} {c c' e e' : Cell} (h : d.Pending c c') (hx : e.x = c.x) (hv : e.v = c.v) (hx' : e'.x = c'.x) (hv' : e'.v = c'.v) :
    d.Pending e e' := by
  cases d with
  | none =>
    obtain ⟨h1, h2⟩ := h
    exact ⟨hx'.trans (h1.trans hx.symm), hv'.trans (h2.trans hv.symm)⟩
  | x d =>
    obtain ⟨h1, h2, h3⟩ := h
    refine ⟨fun hd => ?_, hv'.trans (h2.trans hv.symm), fun n hn => ?_⟩
    · rw [Cell.xreg_congr hx']
      exact h1 hd
    · rw [Cell.xreg_congr hx', Cell.xreg_congr hx]
      exact h3 n hn
  | v d =>
    obtain ⟨h1, h2, h3⟩ := h
    refine ⟨?_, hx'.trans (h2.trans hx.symm), fun n hn => ?_⟩
    · rw [Cell.vreg_congr hv']
      exact h1
    · rw [Cell.vreg_congr hv', Cell.vreg_congr hv]
      exact h3 n hn

/-- A request at the issue of its instruction: the access in flight, its slot and destination, and the PC past the word. -/
def Req.issued (q : Req) (loc : Loc) (after : List Nat) (l1 : Bool) (s : State) : State :=
  advance 4 (launch q.op q.dst q.va loc q.cls q.set after q.acq l1 s)

theorem issued_eq (q : Req) (loc : Loc) (after : List Nat) (l1 : Bool) (s : State) :
    q.issued loc after l1 s = advance 4 (pendDst q.dst (s.onCell (Cell.joined (q.access loc after l1 s.cell)))) := rfl

section

variable (q : Req) (loc : Loc) (after : List Nat) (l1 : Bool) (s : State)

@[simp] theorem issued_inflight :
    (q.issued loc after l1 s).cell.inflight = s.cell.inflight ++ [q.access loc after l1 s.cell] := by
  simp [issued_eq]
@[simp] theorem issued_pc : (q.issued loc after l1 s).cell.pc = s.cell.pc + 4 := by simp [issued_eq]
@[simp] theorem issued_fault : (q.issued loc after l1 s).cell.fault = s.cell.fault := by simp [issued_eq]
@[simp] theorem issued_store : (q.issued loc after l1 s).cell.store = s.cell.store := by simp [issued_eq]
@[simp] theorem issued_pkg : (q.issued loc after l1 s).pkg = s.pkg := by simp [issued_eq]

theorem issued_slot (h : q.set ≠ 0) : (q.issued loc after l1 s).cell.slot q.set = s.cell.slot q.set + 1 := by
  refine Eq.trans ?_ (Cell.joined_slot (a := q.access loc after l1 s.cell) h s.cell)
  simp only [Cell.slot, issued_eq, advance_cell_sb, pendDst_sb]
  rfl

theorem issued_pending : q.dst.Pending s.cell (q.issued loc after l1 s).cell :=
  (pendDst_pending q.dst (s.onCell (Cell.joined (q.access loc after l1 s.cell)))).congr (by simp) (by simp) rfl rfl

end

/-- An access is issued from a state in which the translation and the window record may have moved on. -/
theorem issued_of_request {q : Req} {loc : Loc} {after : List Nat} {l1 : Bool} {s s1 : State} (hc : s1.cell = { s.cell with win := s1.cell.win })
    (hm : s1.pkg.mem = s.pkg.mem) : s.Issued (q.issued loc after l1 s1) (q.access loc after l1 s.cell) := by
  have ha : q.access loc after l1 s1.cell = q.access loc after l1 s.cell := by rw [hc]; rfl
  refine ⟨?_, rfl, ?_, by rw [issued_pkg, hm], ?_, fun h => ?_, ?_⟩
  · rw [issued_inflight, ha, hc]
  · rw [issued_pc, hc]
  · rw [issued_store, hc]
  · refine (issued_slot q loc after l1 s1 h).trans ?_
    rw [hc]
    rfl
  · exact (issued_pending q loc after l1 s1).congr (by rw [hc]) (by rw [hc]) rfl rfl

/-! ### Accesses that their checks let through (R200, R205-R208, R216) -/

/-- The accesses that the class puts before a later one are in its list (R229). -/
theorem ordered_classBefore {s : State} {a : Access} {writes : Bool} (h : ∀ i ∈ s.cell.classBefore a.cls writes, i ∈ a.after) :
    s.Ordered a writes := by
  intro b hb hown hcls h7 hw
  refine h b.id ?_
  rw [Cell.classBefore, if_neg h7]
  refine List.mem_map.2 ⟨b, List.mem_filter.2 ⟨hb, ?_⟩, rfl⟩
  rcases hw with hw | hw <;> simp [hown, hcls, hw]

/-- What an access in flight has of its request, at its place and in its order. -/
structure Req.Made (q : Req) (s : State) (loc : Loc) (a : Access) : Prop where
  op : a.op = q.op
  dst : a.dst = q.dst
  va : a.va = q.va
  loc : a.loc = loc
  cls : a.cls = q.cls
  set : a.set = q.set
  acq : a.acq = q.acq
  ordered : s.Ordered a q.wr

theorem access_made (q : Req) (s : State) (loc : Loc) (l1 : Bool) {after : List Nat} (h : ∀ i ∈ s.cell.classBefore q.cls q.wr, i ∈ after) :
    q.Made s loc (q.access loc after l1 s.cell) :=
  ⟨rfl, rfl, rfl, rfl, rfl, rfl, rfl, ordered_classBefore h⟩

theorem globalAccess_issues {q : Req} {s : State} {loc : Loc} (hd : s.FreeDst q.dst) (h : s.ReachesGlobal q.rd q.wr q.va q.n loc) :
    ∃ a, s.Issued (globalAccess q s) a ∧ q.Made s loc a ∧ a.l1 = q.weak := by
  obtain ⟨-, hbuf, pa, attr, p, ht, rfl, hrec⟩ := h
  have hw : (q.wr && p.inRecord (physKey attr pa) q.n) = false := by
    cases hwr : q.wr
    · rfl
    · exact hrec hwr
  refine ⟨_, ?_, access_made q s (.phys pa attr) q.weak (after := q.after ++ s.cell.classBefore q.cls q.wr) fun i hi => List.mem_append_right _ hi, rfl⟩
  have he : globalAccess q s = q.issued (.phys pa attr) (q.after ++ s.cell.classBefore q.cls q.wr) q.weak { s with pkg := p } := by
    rw [globalAccess, buffered_free hbuf, freeDst_free hd]
    simp only [ht, hw]
    rfl
  rw [he]
  exact issued_of_request rfl (mem_of_translateFor ht)

theorem cellAccess_issues {q : Req} {s : State} (off : Nat) (hd : s.FreeDst q.dst) :
    ∃ a, s.Issued (cellAccess q off s) a ∧ q.Made s (.cell off) a ∧ a.l1 = false := by
  refine ⟨_, ?_, access_made q s (.cell off) false (after := q.after ++ s.cell.classBefore q.cls q.wr ++ s.cell.syncBefore) fun i hi =>
    List.mem_append_left _ (List.mem_append_right _ hi), rfl⟩
  rw [cellAccess, freeDst_free hd]
  exact issued_of_request rfl rfl

/-- The use of a window record moves it alone (R266). -/
theorem Cell.touchWin_eq (num : BitVec 15) (c : Cell) : c.touchWin num = { c with win := (c.touchWin num).win } := rfl

theorem streamLaunch_issues {q : Req} {num : BitVec 15} {pos : BitVec 48} {w : WinRec} {s : State} {pl : Place} {p : Package} (hbuf : s.cell.buffers < 32)
    (hd : s.FreeDst q.dst) (hp : framePlace q.wr s.cell.k.ctx (s.pkg.framesOf s.cell.k.ctx num) w.back w.k w.logn pos s.pkg = (.ok pl, p))
    (hw : q.wr = true → p.writable pl q.n = true) :
    ∃ a, s.Issued (streamLaunch q num pos w s) a ∧ q.Made s (.stream num pos) a := by
  have hd' : (s.onCell (Cell.touchWin num)).FreeDst q.dst := by
    cases hq : q.dst <;> (rw [hq] at hd; exact hd)
  have hwr : (q.wr && !p.writable pl q.n) = false := by
    cases h : q.wr
    · rfl
    · simp [hw h]
  refine ⟨_, ?_, access_made q s (.stream num pos) false (after := q.after ++ s.cell.classBefore q.cls q.wr) fun i hi => List.mem_append_right _ hi⟩
  have he : streamLaunch q num pos w s =
      q.issued (.stream num pos) (q.after ++ s.cell.classBefore q.cls q.wr) false { s.onCell (Cell.touchWin num) with pkg := p } := by
    have hp' : framePlace q.wr (s.onCell (Cell.touchWin num)).cell.k.ctx ((s.onCell (Cell.touchWin num)).pkg.framesOf (s.onCell (Cell.touchWin num)).cell.k.ctx num)
        w.back w.k w.logn pos (s.onCell (Cell.touchWin num)).pkg = (.ok pl, p) := hp
    rw [streamLaunch]
    simp only
    rw [buffered_free (by exact hbuf), freeDst_free hd']
    simp only [hp', hwr]
    rfl
  rw [he]
  exact issued_of_request rfl (mem_of_framePlace hp)

end Sys2Proof.Machine
end

section
/-! What posting to the event stream and pushing stream records leaves of the cell in focus (R214, R224, R225). -/

namespace Sys2Proof.Machine

/-- A cell to which bytes have been stored, records pushed and wakes sent, and nothing else. -/
def Cell.Posted (c c' : Cell) : Prop :=
  c' = { c with
    store := c'.store, badStore := c'.badStore, poisonStore := c'.poisonStore, win := c'.win, hold := c'.hold, hnd := c'.hnd
    mx := c'.mx, cp := c'.cp, kv := c'.kv, sk := c'.sk, ch := c'.ch, gs := c'.gs }

theorem Cell.Posted.refl (c : Cell) : c.Posted c := rfl

theorem Cell.Posted.trans {c c' c'' : Cell} (h : c.Posted c') (h' : c'.Posted c'') : c.Posted c'' := by
  refine Eq.trans h' ?_
  rw [h]

theorem Cell.posted_wakeWhere (p : ParkKey → Bool) (c : Cell) : c.Posted (c.wakeWhere p) := by
  unfold Cell.Posted Cell.wakeWhere Cell.unhold
  split
  · split <;> rfl
  · rfl

theorem Cell.posted_push (r : StreamRec) (num : BitVec 15) (id : CellId) (c : Cell) : c.Posted (c.push r num id) := by
  unfold Cell.push
  split
  · refine Cell.Posted.trans (c' := { c with win := c.win.map fun w : WinRec => if w.num == num then r.pushed num id else w }) rfl ?_
    exact (Cell.posted_wakeWhere _ _).trans rfl
  · rfl

theorem Cell.posted_storeAt (off : Nat) (data : List Byte) (c : Cell) : c.Posted (c.storeAt off data) := rfl

/-- A state whose cell in focus is posted to. -/
structure State.Posted (s t : State) : Prop where
  here : t.here = s.here
  cell : s.cell.Posted t.cell

variable {s t u : State}

theorem State.Posted.refl (s : State) : s.Posted s := ⟨rfl, .refl _⟩
theorem State.Posted.trans (h : s.Posted t) (h' : t.Posted u) : s.Posted u :=
  ⟨h'.here.trans h.here, h.cell.trans h'.cell⟩

theorem State.Posted.ite {c : Prop} [Decidable c] (h : s.Posted t) (h' : s.Posted u) :
    s.Posted (if c then t else u) := by
  split
  · exact h
  · exact h'

theorem posted_onPkg (f : Package → Package) (s : State) : s.Posted (s.onPkg f) := ⟨rfl, .refl _⟩

/-- A signal moves the host port and the outbox alone. -/
theorem posted_signal (n : Nat) (vec : Bool) (s : State) : s.Posted (signal n vec s) := by
  unfold signal
  split
  · exact .ite (.refl s) (.ite (posted_onPkg ..) (posted_onPkg ..))
  · exact .refl s

theorem posted_signals (l : List Nat) (vec : Bool) (s : State) : s.Posted (l.foldl (fun s n => signal n vec s) s) := by
  induction l generalizing s with
  | nil => exact .refl s
  | cons n l ih => exact (posted_signal n vec s).trans (ih _)

theorem posted_setRecord (b : Bound) (r : StreamRec) (s : State) : s.Posted (setRecord b r s) := by
  have hpush (p : Package → Package) : s.Posted ((s.onPkg p).mapCells fun id c => if c.k.ctx = b.ctx then c.push r b.num id else c) := by
    refine ⟨rfl, ?_⟩
    show s.cell.Posted (if s.cell.k.ctx = b.ctx then s.cell.push r b.num s.here else s.cell)
    split
    · exact Cell.posted_push ..
    · exact .refl _
  unfold setRecord
  dsimp only
  split
  · exact (hpush _).trans (posted_signals ..)
  · exact hpush _

theorem posted_atCell (c : CellId) {f : Cell → Cell} (hf : ∀ x : Cell, x.Posted (f x)) (s : State) :
    s.Posted (s.atCell c f) := by
  unfold State.atCell State.putCell State.cellAt
  split
  · exact ⟨rfl, hf _⟩
  · exact ⟨rfl, .refl _⟩

theorem posted_writePlace (pl : Place) (data : List Byte) (s : State) : s.Posted (writePlace pl data s) := by
  cases pl with
  | cell c off => exact posted_atCell c (Cell.posted_storeAt off data) s
  | phys k => exact posted_onPkg ..

theorem posted_writePlaces (l : List (Place × Nat)) (d : List Byte) (s : State) : s.Posted (writePlaces l d s) := by
  induction l generalizing d s with
  | nil => exact .refl s
  | cons e l ih => exact (posted_writePlace e.1 (d.take e.2) s).trans (ih _ _)

theorem posted_publishNow {ctx : BitVec 6} {d : List Word} (h : publishNow ctx d s = .done t) : s.Posted t := by
  unfold publishNow at h
  split at h
  · dsimp only at h
    split at h
    · cases h
    · split at h
      · cases h
        exact (posted_onPkg (fun _ => _) s).trans ((posted_writePlaces ..).trans ((posted_setRecord ..).trans (posted_signal ..)))
      · cases h
      · cases h
  · cases h

theorem posted_post (ctx : BitVec 6) (d : List Word) (s : State) : s.Posted (post ctx d s) := by
  have hwait (c : Context) : s.Posted (if c.overflow.length < 256 then s.onPkg (Package.onCtx ctx fun c => { c with overflow := c.overflow ++ [d] }) else dropRecord ctx s) := by
    split <;> exact posted_onPkg ..
  unfold post
  split
  · exact .refl s
  · dsimp only
    split
    · exact hwait _
    · split
      next h => exact posted_publishNow h
      · exact hwait _
      · exact (hwait _).trans (posted_onPkg ..)
      · exact posted_onPkg ..

theorem posted_noteStall (ctx : BitVec 6) (cell : CellId) (src acc level : Nat) (va : Word) (s : State) :
    s.Posted (noteStall ctx cell src acc level va s) := by
  unfold noteStall
  dsimp only
  split
  · exact .refl s
  · split
    · exact .refl s
    · exact (posted_onPkg ..).trans (posted_post ..)

/-- What is posted to leaves the accesses in flight, the PC, the registers and the fault. -/
theorem Cell.Posted.inflight {c c' : Cell} (h : c.Posted c') : c'.inflight = c.inflight := by rw [h]
theorem Cell.Posted.pc {c c' : Cell} (h : c.Posted c') : c'.pc = c.pc := by rw [h]
theorem Cell.Posted.fault {c c' : Cell} (h : c.Posted c') : c'.fault = c.fault := by rw [h]

end Sys2Proof.Machine
end

section
/-! The issue of loads, by region and with what refuses them (R13, R200, R208, R216, R231, R242). -/

namespace Sys2Proof.Machine

/-! ### What a load asks of memory -/

/-- The request of `ld` and `ldu` (R231). -/
def loadReq (sext : Bool) (d : XIdx) (va : Word) (n : Nat) (cls set : BitVec 3) : Req := ⟨.load n sext, .x d, va, n, cls, set, true, false, false, true, []⟩

/-- The request of `ld.s`, with the strong accesses that it follows (R242, R243). -/
def strongLoadReq (d : XIdx) (va : Word) (n : Nat) (set : BitVec 3) (c : Cell) : Req :=
  ⟨.load n true, .x d, va, n, 7, set, true, false, true, false, c.idsWhere fun a => c.own a && a.strong⟩

variable {b d : XIdx} {B : Word} {c si w : BitVec 3} {z : BitVec 2} {o : BitVec 5} {s : State}

/-- A load with its base FULL and its slots ready makes its request once its address is aligned. -/
theorem loadX_checked (hb : s.HasX b B) (hr : s.Ready si w) (sext : Bool) :
    loadX sext d b c si w z o s = aligned (effective B o.toNat (2 ^ z.toNat)) (2 ^ z.toNat) s
      (access (loadReq sext d (effective B o.toNat (2 ^ z.toNat)) (2 ^ z.toNat) c si) s) := by
  rw [loadX, readX_has hb, issuable_ready hr]
  rfl

theorem execLdS_checked (hb : s.HasX b B) (hr : s.Ready si w) :
    execLdS d b c si w z o s = .next (aligned (effective B o.toNat (2 ^ z.toNat)) (2 ^ z.toNat) s
      (strongAccess (strongLoadReq d (effective B o.toNat (2 ^ z.toNat)) (2 ^ z.toNat) si s.cell) s)) := by
  rw [execLdS, readX_has hb, issuable_ready hr]
  rfl

/-! ### Regions -/

section region

variable {q : Req}

theorem access_global (h : region q.va q.n = .global) : access q s = globalAccess q s := by rw [access, h]
theorem access_cell {off : Nat} (h : region q.va q.n = .cell off) : access q s = cellAccess q off s := by rw [access, h]
theorem access_stream {num : BitVec 15} {pos : BitVec 48} (h : region q.va q.n = .stream num pos) :
    access q s = streamAccess q num pos s := by
  rw [access, h]
theorem access_nowhere (h : region q.va q.n = .none) : access q s = denied q.va s := by rw [access, h]

theorem strongAccess_nowhere (h : region q.va q.n = .none) : strongAccess q s = denied q.va s := by rw [strongAccess, h]

/-- A read of a stream whose record the cell holds comes to its checks (R216, R249, R266). -/
theorem access_streamRead {num : BitVec 15} {pos : BitVec 48} {r : WinRec} (h : region q.va q.n = .stream num pos) (hwr : q.wr = false)
    (hp : s.cell.streamPending num = false) (hw : s.cell.win.find? (fun w : WinRec => w.num == num) = some r) :
    access q s = streamRead q num pos r s := by
  rw [access_stream h, streamAccess, hp, withWindow, hw]
  simp [hwr]

section read

variable {num : BitVec 15} {pos t : BitVec 48} {r : WinRec}

/-! What a read in stream space meets, in the order of R216. -/

theorem streamRead_noSlot (h : r.slot = none) : streamRead q num pos r s = denied q.va s := by simp [streamRead, h]

theorem streamRead_behind (h : r.slot = some t) (hb : before pos t = true) :
    streamRead q num pos r s = raise cSTREAM_BEHIND 0 (pos.setWidth 32) s := by
  simp [streamRead, h, hb]

theorem streamRead_spans (h : r.slot = some t) (hb : before pos t = false) (hs : spansFrames r.k pos q.n = true) :
    streamRead q num pos r s = raise cMISALIGNED 0 (q.va.setWidth 32) s := by
  simp [streamRead, h, hb, hs]

theorem streamRead_closed (h : r.slot = some t) (hb : before pos t = false) (hs : spansFrames r.k pos q.n = false)
    (hh : before r.head (pos + BitVec.ofNat 48 q.n) = true) (hc : r.closed = true) : streamRead q num pos r s = raise cSTREAM_CLOSED 0 (pos.setWidth 32) s := by
  simp [streamRead, h, hb, hs, hh, hc]

theorem streamRead_parks (h : r.slot = some t) (hb : before pos t = false) (hs : spansFrames r.k pos q.n = false)
    (hh : before r.head (pos + BitVec.ofNat 48 q.n) = true) (hc : r.closed = false) :
    streamRead q num pos r s = parkStream num (.head num (pos + BitVec.ofNat 48 q.n)) s := by
  simp [streamRead, h, hb, hs, hh, hc]

theorem streamRead_launches (h : r.slot = some t) (hb : before pos t = false) (hs : spansFrames r.k pos q.n = false)
    (hh : before r.head (pos + BitVec.ofNat 48 q.n) = false) : streamRead q num pos r s = streamLaunch q num pos r s := by
  simp [streamRead, h, hb, hs, hh]

end read

/-- A load whose address may be read leaves an access in flight. -/
theorem access_issues {loc : Loc} (hrd : q.rd = true) (hwr : q.wr = false) (hd : s.FreeDst q.dst)
    (h : s.ReachesGlobal true false q.va q.n loc ∨ ReachesCell q.va q.n loc ∨ s.ReachesRead q.va q.n loc) :
    ∃ a, s.Issued (access q s) a ∧ q.Made s loc a := by
  obtain h | ⟨off, h, rfl⟩ | ⟨num, pos, r, t, pl, p, h, rfl, hp, hw, ht, hbehind, hspan, hhead, hbuf, hplace⟩ := h
  · rw [access_global h.1]
    obtain ⟨a, hi, hm, -⟩ := globalAccess_issues hd (by rw [hrd, hwr]; exact h)
    exact ⟨a, hi, hm⟩
  · rw [access_cell h]
    obtain ⟨a, hi, hm, -⟩ := cellAccess_issues off hd
    exact ⟨a, hi, hm⟩
  · rw [access_streamRead h hwr hp hw, streamRead_launches ht hbehind hspan hhead]
    exact streamLaunch_issues hbuf hd (by rw [hwr]; exact hplace) (by simp [hwr])

theorem strongAccess_issues {loc : Loc} (hrd : q.rd = true) (hwr : q.wr = false) (hweak : q.weak = false) (hd : s.FreeDst q.dst)
    (h : s.ReachesGlobal true false q.va q.n loc ∨ ReachesCell q.va q.n loc) :
    ∃ a, s.Issued (strongAccess q s) a ∧ q.Made s loc a ∧ a.l1 = false := by
  obtain h | ⟨off, h, rfl⟩ := h
  · rw [strongAccess, h.1]
    obtain ⟨a, hi, hm, hl⟩ := globalAccess_issues hd (by rw [hrd, hwr]; exact h)
    exact ⟨a, hi, hm, hl.trans hweak⟩
  · rw [strongAccess, h]
    exact cellAccess_issues off hd

/-! ### Stalls (R208) -/

/-- An access whose translation stalls is issued all the same, from the state in which its notice is posted. -/
theorem globalAccess_stalls {l : Nat} {v : Word} {p : Package} (hbuf : s.cell.buffers < 32) (hd : s.FreeDst q.dst)
    (ht : translateFor q.rd q.wr s.cell.k.ctx q.va s.pkg = (.stall l v, p)) :
    ∃ u, s.Posted u ∧ globalAccess q s = q.issued (.stall l) (q.after ++ s.cell.classBefore q.cls q.wr) q.weak u := by
  refine ⟨noteStall s.cell.k.ctx s.here 0 (if q.wr then (if q.rd then 2 else 1) else 0) l v { s with pkg := p },
    (posted_onPkg (fun _ => p) s).trans (posted_noteStall ..), ?_⟩
  rw [globalAccess, buffered_free hbuf, freeDst_free hd]
  simp only [ht]
  rfl

/-- An access cannot be performed while it stalls. -/
theorem due_stalled {t : State} {l : List Access} {a : Access} {k : Nat} (ht : t.cell.inflight = l ++ [a]) (ha : a.loc = .stall k) :
    t.due l.length = none := by
  simp [State.due, ht, Access.ready, ha]

end region

/-! ### The obligation -/

theorem exec_ld : exec (.ld d b c si w z o) s = .next (loadX true d b c si w z o s) := rfl
theorem exec_ldu : exec (.ldu d b c si w z o) s = .next (loadX false d b c si w z o s) := rfl
theorem exec_ldS : exec (.ldS d b c si w z o) s = execLdS d b c si w z o s := rfl

/-- A load at an aligned address makes its request. -/
theorem loadX_at (hb : s.HasX b B) (hr : s.Ready si w) (sext : Bool) (hal : (effective B o.toNat (2 ^ z.toNat)).toNat % 2 ^ z.toNat = 0) :
    loadX sext d b c si w z o s = access (loadReq sext d (effective B o.toNat (2 ^ z.toNat)) (2 ^ z.toNat) c si) s := by
  rw [loadX_checked hb hr, aligned_at hal]

theorem execLdS_at (hb : s.HasX b B) (hr : s.Ready si w) (hal : (effective B o.toNat (2 ^ z.toNat)).toNat % 2 ^ z.toNat = 0) :
    execLdS d b c si w z o s = .next (strongAccess (strongLoadReq d (effective B o.toNat (2 ^ z.toNat)) (2 ^ z.toNat) si s.cell) s) := by
  rw [execLdS_checked hb hr, aligned_at hal]

theorem loadX_off (hb : s.HasX b B) (hr : s.Ready si w) (sext : Bool) (hal : (effective B o.toNat (2 ^ z.toNat)).toNat % 2 ^ z.toNat ≠ 0) :
    loadX sext d b c si w z o s = raise cMISALIGNED 0 ((effective B o.toNat (2 ^ z.toNat)).setWidth 32) s := by
  rw [loadX_checked hb hr, aligned_off hal]

theorem execLdS_off (hb : s.HasX b B) (hr : s.Ready si w) (hal : (effective B o.toNat (2 ^ z.toNat)).toNat % 2 ^ z.toNat ≠ 0) :
    execLdS d b c si w z o s = .next (raise cMISALIGNED 0 ((effective B o.toNat (2 ^ z.toNat)).setWidth 32) s) := by
  rw [execLdS_checked hb hr, aligned_off hal]

/-- Settles O19: a load that its checks let through is issued, one whose translation stalls too, and the others are refused or park. -/
theorem loadsAndStallsIssue : Obligations.LoadsAndStallsIssue := by
  refine ⟨fun b d B c si w z o loc s hb hd hr => ?_, fun b d B c si w z o l v p s hb hd hr => ?_, fun b d B c si w z o num pos r s hb hr => ?_⟩
  · intro n va
    refine ⟨fun hal h => ?_, fun hal h => ?_, fun hal => ?_, fun hal hreg => ?_⟩
    · have hload (sext : Bool) : ∃ a, s.Issued (loadX sext d b c si w z o s) a ∧ (loadReq sext d va n c si).Made s loc a := by
        rw [loadX_at hb hr sext hal]
        exact access_issues rfl rfl hd h
      obtain ⟨a, hi, hm⟩ := hload true
      obtain ⟨a', hi', hm'⟩ := hload false
      exact ⟨⟨_, a, rfl, hi, hm.op, hm.dst, hm.va, hm.loc, hm.cls, hm.set, hm.ordered⟩, ⟨_, a', rfl, hi', hm'.op, hm'.dst, hm'.va, hm'.loc, hm'.cls, hm'.set, hm'.ordered⟩⟩
    · obtain ⟨a, hi, hm, hl⟩ := strongAccess_issues (q := strongLoadReq d va n si s.cell) rfl rfl rfl hd h
      exact ⟨_, a, execLdS_at (c := c) hb hr hal, hi, hm.op, hm.dst, hm.va, hm.loc, hm.set, hm.acq, hl⟩
    · simp only [List.forall_mem_cons]
      exact ⟨congrArg Host.Outcome.next (loadX_off hb hr true hal), congrArg Host.Outcome.next (loadX_off hb hr false hal), execLdS_off (c := c) hb hr hal,
        List.forall_mem_nil _⟩
    · have hload (sext : Bool) : loadX sext d b c si w z o s = raise cACCESS 0 (va.setWidth 32) s := by
        rw [loadX_at hb hr sext hal, access_nowhere hreg]
        rfl
      have hstrong : execLdS d b c si w z o s = .next (raise cACCESS 0 (va.setWidth 32) s) := by
        rw [execLdS_at hb hr hal, strongAccess_nowhere hreg]
        rfl
      simp only [List.forall_mem_cons]
      exact ⟨congrArg Host.Outcome.next (hload true), congrArg Host.Outcome.next (hload false), hstrong, List.forall_mem_nil _⟩
  · intro n va hal hreg hbuf ht
    obtain ⟨u, hu, he⟩ := globalAccess_stalls (q := loadReq true d va n c si) hbuf hd ht
    have hexec : exec (.ld d b c si w z o) s = .next ((loadReq true d va n c si).issued (.stall l) (s.cell.classBefore c false) true u) := by
      rw [exec_ld, loadX_at hb hr true hal, access_global hreg]
      exact congrArg Host.Outcome.next he
    have hin : ((loadReq true d va n c si).issued (.stall l) (s.cell.classBefore c false) true u).cell.inflight =
        s.cell.inflight ++ [(loadReq true d va n c si).access (.stall l) (s.cell.classBefore c false) true u.cell] := by
      rw [issued_inflight, hu.cell.inflight]
    refine ⟨_, _, hexec, hin, rfl, rfl, ?_, fun hd0 => ?_, ?_, due_stalled hin rfl⟩
    · rw [issued_pc, hu.cell.pc]
    · exact (issued_pending (loadReq true d va n c si) _ _ _ u).1 hd0
    · rw [issued_fault, hu.cell.fault]
  · intro n va hal hreg hp hw
    have hload (sext : Bool) : loadX sext d b c si w z o s = streamRead (loadReq sext d va n c si) num pos r s := by
      rw [loadX_at hb hr sext hal]
      exact access_streamRead hreg rfl hp hw
    have hexec : ∀ i ∈ [Instr.ld d b c si w z o, .ldu d b c si w z o], ∃ sext, exec i s = .next (streamRead (loadReq sext d va n c si) num pos r s) := by
      simp only [List.forall_mem_cons]
      exact ⟨⟨true, congrArg Host.Outcome.next (hload true)⟩, ⟨false, congrArg Host.Outcome.next (hload false)⟩, List.forall_mem_nil _⟩
    intro i hi
    obtain ⟨sext, he⟩ := hexec i hi
    rw [he]
    refine ⟨fun hslot => ?_, fun t hslot => ⟨fun hbehind => ?_, fun hbehind hspan => ?_, fun hbehind hspan hhead => ⟨fun hclosed => ?_, fun hclosed => ?_⟩⟩⟩
    · rw [streamRead_noSlot hslot]; rfl
    · rw [streamRead_behind hslot hbehind]
    · rw [streamRead_spans (q := loadReq sext d va n c si) hslot hbehind hspan]; rfl
    · rw [streamRead_closed (q := loadReq sext d va n c si) hslot hbehind hspan hhead hclosed]
    · rw [streamRead_parks (q := loadReq sext d va n c si) hslot hbehind hspan hhead hclosed]; rfl

end Sys2Proof.Machine
end

section
/-! Performing a store (R14, R217, R228, R234, R262): what its bytes change at the place where it was issued to, and what leaving
the accesses in flight changes of the cell. -/

namespace Sys2Proof.Machine

/-! ### Leaving the accesses in flight (R228, R230) -/

/-- A cell with wakes sent: the hold and the handler entries may have moved, and nothing else. -/
def Cell.Woken (c c' : Cell) : Prop := c' = { c with hold := c'.hold, hnd := c'.hnd }

theorem Cell.Woken.trans {c c' c'' : Cell} (h : c.Woken c') (h' : c'.Woken c'') : c.Woken c'' := by
  refine Eq.trans h' ?_
  rw [h]

theorem Cell.woken_unhold (p : ParkKey → Bool) (c : Cell) : c.Woken (c.unhold p) := by
  unfold Cell.Woken Cell.unhold
  split
  · split <;> rfl
  · rfl

theorem Cell.woken_wakeWhere (p : ParkKey → Bool) (c : Cell) : c.Woken (c.wakeWhere p) := (c.woken_unhold p).trans rfl

theorem Cell.woken_wakeFences (c : Cell) : c.Woken c.wakeFences := by
  have h := c.woken_unhold fun k => k == .covered && c.covered c.pend
  unfold Cell.wakeFences
  dsimp only
  split
  · exact h.trans rfl
  · exact h

/-- An access that leaves: its slot counts down, and waiters wake. -/
theorem Cell.finish_eq (a : Access) (c : Cell) : c.finish a = { c with
    inflight := c.inflight.filter fun x => x.id != a.id, sb := (c.finish a).sb, hold := (c.finish a).hold, hnd := (c.finish a).hnd } := by
  have hslot := Cell.onSlot_eq a.set (· - 1) { c with inflight := c.inflight.filter fun x => x.id != a.id }
  have hwoken : Cell.Woken (({ c with inflight := c.inflight.filter fun x => x.id != a.id } : Cell).onSlot a.set (· - 1)) (c.finish a) := by
    unfold Cell.finish
    dsimp only
    split
    · exact (Cell.woken_wakeWhere ..).trans (Cell.woken_wakeFences _)
    · exact Cell.woken_wakeFences _
  have hsb := congrArg Cell.sb hwoken
  dsimp only at hsb
  refine Eq.trans hwoken ?_
  rw [hsb, hslot]

@[simp] theorem Cell.finish_x (a : Access) (c : Cell) : (c.finish a).x = c.x := by rw [Cell.finish_eq]
@[simp] theorem Cell.finish_v (a : Access) (c : Cell) : (c.finish a).v = c.v := by rw [Cell.finish_eq]
@[simp] theorem Cell.finish_k (a : Access) (c : Cell) : (c.finish a).k = c.k := by rw [Cell.finish_eq]
@[simp] theorem Cell.finish_store (a : Access) (c : Cell) : (c.finish a).store = c.store := by rw [Cell.finish_eq]
@[simp] theorem Cell.finish_emptyWords (a : Access) (c : Cell) : (c.finish a).emptyWords = c.emptyWords := by
  rw [Cell.finish_eq]
@[simp] theorem Cell.finish_fault (a : Access) (c : Cell) : (c.finish a).fault = c.fault := by rw [Cell.finish_eq]

/-- An access that has left is not among those in flight. -/
theorem Cell.finish_gone (a : Access) (c : Cell) : ∀ x ∈ (c.finish a).inflight, x.id ≠ a.id := by
  rw [Cell.finish_eq]
  intro x hx
  simpa using (List.mem_filter.1 hx).2

/-! ### Bytes and words of a cell store (R14) -/

/-- The byte at an offset, as a load reads it. -/
theorem Cell.load_one (c : Cell) (q : Nat) : c.load q 1 = [sget 0 c.store q] := rfl

/-- A store changes exactly its bytes. -/
theorem Cell.load_storeAt (off q : Nat) (data : List Byte) (c : Cell) :
    (c.storeAt off data).load q 1 = if off ≤ q ∧ q < off + data.length then [data.getD (q - off) 0] else c.load q 1 := by
  rw [Cell.load_one, Cell.load_one]
  show [sget 0 (sputs 0 off data c.store) q] = _
  rw [sget_sputs]
  split <;> rfl

theorem Cell.load_congr {c c' : Cell} (h : c'.store = c.store) (q n : Nat) : c'.load q n = c.load q n := by
  simp only [Cell.load, h]
theorem Cell.wordFull_congr {c c' : Cell} (h : c'.emptyWords = c.emptyWords) (q : Nat) :
    c'.wordFull q = c.wordFull q := by
  simp only [Cell.wordFull, h]

@[simp] theorem Cell.fillWord_store (o : Nat) (c : Cell) : (c.fillWord o).store = c.store := by simp [Cell.fillWord]
@[simp] theorem Cell.fillWord_x (o : Nat) (c : Cell) : (c.fillWord o).x = c.x := by simp [Cell.fillWord]
@[simp] theorem Cell.fillWord_v (o : Nat) (c : Cell) : (c.fillWord o).v = c.v := by simp [Cell.fillWord]

theorem Cell.wordFull_fillWord (o q : Nat) (c : Cell) :
    (c.fillWord o).wordFull q = (decide (q / 4 = o / 4) || c.wordFull q) := by
  have he : (c.fillWord o).emptyWords = sput false (o / 4) false c.emptyWords := by simp [Cell.fillWord]
  simp only [Cell.wordFull, he]
  by_cases h : q / 4 = o / 4
  · simp [h]
  · simp [h, sget_sput_other false false h]

/-- Every word that n bytes at an offset touch becomes full, and no other changes. -/
theorem Cell.wordFull_fillWords {off n : Nat} (hn : n ≠ 0) (q : Nat) (c : Cell) :
    (c.fillWords off n).wordFull q = ((decide (off / 4 ≤ q / 4) && decide (q / 4 < (off + n + 3) / 4)) || c.wordFull q) := by
  have hfold (l : List Nat) (c : Cell) : (l.foldl (fun c o => c.fillWord o) c).wordFull q = (l.any (fun o => decide (q / 4 = o / 4)) || c.wordFull q) := by
    induction l generalizing c with
    | nil => rfl
    | cons o l ih =>
      rw [List.foldl_cons, ih, Cell.wordFull_fillWord, List.any_cons, ← Bool.or_assoc, Bool.or_comm (decide _)]
  have hany : (wordsTouched off n).any (fun o => decide (q / 4 = o / 4)) = (decide (off / 4 ≤ q / 4) && decide (q / 4 < (off + n + 3) / 4)) := by
    rw [wordsTouched, if_neg hn, Bool.eq_iff_iff]
    simp only [List.any_eq_true, List.mem_map, List.mem_range, decide_eq_true_eq, Bool.and_eq_true]
    constructor
    · rintro ⟨_, ⟨i, hi, rfl⟩, hq⟩
      omega
    · intro h
      exact ⟨_, ⟨q / 4 - off / 4, by omega, rfl⟩, by omega⟩
  rw [Cell.fillWords, hfold, hany]

theorem Cell.fillWords_same {α : Type} {field : Cell → α} (h : ∀ o c, field (Cell.fillWord o c) = field c) (off n : Nat) (c : Cell) :
    field (c.fillWords off n) = field c := by
  unfold Cell.fillWords
  induction wordsTouched off n generalizing c with
  | nil => rfl
  | cons o l ih => exact (ih _).trans (h o c)

/-! ### The step that performs an access (R228) -/

/-- The k-th access in flight of the cell in focus is performed where it is due. -/
theorem exec_accessPerformed_due {s : State} {k : Nat} {a : Access} (hd : s.due k = some a) (hh : (performing a s).here = s.here) :
    exec (.accessPerformed s.here k) s = .next (performing a s) := by
  have hf : (fun s : State => match s.due k with | some a => performing a s | none => s) s = performing a s := by
    simp only [hd]
  show Host.Outcome.next _ = _
  exact congrArg Host.Outcome.next ((State.within_here _ s ((congrArg State.here hf).trans hh)).trans hf)

/-! ### A store to the cell's own store -/

theorem performStore_cell {a : Access} {off : Nat} (h : a.loc = .cell off) (i covered : Nat) (data : List Byte) (fill : Bool) (fin : Cell → Cell) (s : State) :
    performStore a i data fill covered fin s = s.onCell fun c =>
      fin (if fill then ((c.storeAt (off + i) data).repair off covered).fillWords (off + i) data.length else (c.storeAt (off + i) data).repair off covered) := by
  rw [performStore, h]

/-- The cell that a store leaves before its access goes on: the bytes written and, where it fills, the words full. -/
theorem Cell.stored_fields (off i covered : Nat) (data : List Byte) (fill : Bool) (c : Cell) :
    let c' := if fill then ((c.storeAt (off + i) data).repair off covered).fillWords (off + i) data.length else (c.storeAt (off + i) data).repair off covered
    c'.store = (c.storeAt (off + i) data).store ∧ c'.x = c.x ∧ c'.v = c.v := by
  cases fill
  · exact ⟨rfl, rfl, rfl⟩
  · exact ⟨Cell.fillWords_same Cell.fillWord_store .., Cell.fillWords_same Cell.fillWord_x .., Cell.fillWords_same Cell.fillWord_v ..⟩

/-! ### A store to memory -/

theorem performStore_phys {a : Access} {pa : Nat} {attr : Byte} (h : a.loc = .phys pa attr) {i covered : Nat} {data : List Byte} {fill : Bool} {fin : Cell → Cell}
    {s : State} (hr : s.pkg.inRecord (physKey attr (pa + i)) data.length = false) :
    performStore a i data fill covered fin s =
      ((s.onPkg fun p => (p.write (physKey attr (pa + i)) data).repair (physKey attr (pa + i) - i) covered).wrote a (physKey attr (pa + i)) data.length).onCell
        fun c => fin ((c.l1Write (physKey attr (pa + i)) data).l1Repair (physKey attr (pa + i) - i) covered) := by
  rw [performStore, h]
  dsimp only
  rw [hr]
  rfl

/-- A far-tier byte has a key from the base of the tier on (R204). -/
theorem farBase_le_physKey {attr : Byte} (h : attrT attr = true) (pa : Nat) : farBase ≤ physKey attr pa := by
  simp [physKey, h]

/-- A byte just written for an access is not known as completed (R239). -/
theorem not_completed_wrote {a : Access} {k n i : Nat} {s : State} (h : (k + i, none) ∉ s.pkg.cxl) :
    (k + i, none) ∉ (State.wrote a k n s).pkg.cxl := by
  unfold State.wrote
  split
  · exact h
  · simp [h]

theorem not_known_write {k i : Nat} {data : List Byte} (h : i < data.length) (o : Option (CellId × Nat)) (p : Package) :
    (k + i, o) ∉ (p.write k data).cxl := by
  simp [Package.write, h]

theorem byte_congr {p p' : Package} (h : p'.mem = p.mem) (q : Nat) : p'.byte q = p.byte q := by
  simp only [Package.byte, h]

@[simp] theorem wrote_here (a : Access) (k n : Nat) (s : State) : (State.wrote a k n s).here = s.here := by
  unfold State.wrote
  split <;> rfl

/-! ### Lanes of an `st.v` -/

theorem nextLane_lt {tick n : Nat} (h : 0 < n) : nextLane tick n < n := Nat.mod_lt _ h

theorem delNth_length {α : Type} : ∀ {i : Nat} {l : List α}, i < l.length → (delNth i l).length + 1 = l.length
  | _, [], h => by simp at h
  | 0, _ :: _, _ => rfl
  | i + 1, x :: l, h => by
    simp only [delNth, List.length_cons]
    rw [delNth_length (by simpa using h)]

/-! ### Stores performed -/

section performed

variable {s : State} {k : Nat} {a : Access} {data : List Byte} {fill : Bool}

theorem performing_store (hop : a.op = .store data fill) :
    performing a s = performStore a 0 data fill 0 (Cell.finish a) s := by
  rw [performing, hop]

/-- A store to memory that belongs to no bound record (R228, R239). -/
theorem store_phys_performed (hd : s.due k = some a) (hop : a.op = .store data fill) {pa : Nat} {attr : Byte} (hloc : a.loc = .phys pa attr)
    (hr : s.pkg.inRecord (physKey attr pa) data.length = false) :
    ∃ t, exec (.accessPerformed s.here k) s = .next t ∧ t.cell.store = s.cell.store ∧ t.cell.x = s.cell.x ∧ t.cell.v = s.cell.v ∧
      (∀ x ∈ t.cell.inflight, x.id ≠ a.id) ∧
      (∀ i < data.length, attrT attr = true → (physKey attr pa + i, some (s.here, a.id)) ∈ t.pkg.cxl ∧ (physKey attr pa + i, none) ∉ t.pkg.cxl) ∧
      ∀ q, t.pkg.byte q = if physKey attr pa ≤ q ∧ q < physKey attr pa + data.length then data.getD (q - physKey attr pa) 0 else s.pkg.byte q := by
  have hp : performing a s = ((s.onPkg fun p => (p.write (physKey attr pa) data).repair (physKey attr pa - 0) 0).wrote a (physKey attr pa) data.length).onCell
      fun c => ((c.l1Write (physKey attr pa) data).l1Repair (physKey attr pa - 0) 0).finish a := by
    rw [performing_store hop]
    exact performStore_phys hloc hr
  refine ⟨_, exec_accessPerformed_due hd ?_, ?_⟩
  · rw [hp, State.onCell_here, wrote_here, State.onPkg_here]
  rw [hp]
  refine ⟨?_, ?_, ?_, Cell.finish_gone a _, fun i hi ht => ⟨?_, ?_⟩, fun q => ?_⟩
  case refine_4 => exact mem_wrote (farBase_le_physKey ht pa) hi
  case refine_5 => exact not_completed_wrote (not_known_write hi none s.pkg)
  case refine_6 => exact (byte_congr (wrote_mem ..) q).trans (byte_write ..)
  all_goals
    rw [State.onCell_cell]
    simp
    rfl

/-- A store to the cell's own store (R14, R234). -/
theorem store_cell_performed (hd : s.due k = some a) (hop : a.op = .store data fill) (hne : data ≠ []) {off : Nat} (hloc : a.loc = .cell off) :
    ∃ t, exec (.accessPerformed s.here k) s = .next t ∧ t.pkg = s.pkg ∧ t.cell.x = s.cell.x ∧ t.cell.v = s.cell.v ∧
      (∀ x ∈ t.cell.inflight, x.id ≠ a.id) ∧
      (∀ q, t.cell.load q 1 = if off ≤ q ∧ q < off + data.length then [data.getD (q - off) 0] else s.cell.load q 1) ∧
      ∀ q, t.cell.wordFull q = ((fill && decide (off / 4 ≤ q / 4) && decide (q / 4 < (off + data.length + 3) / 4)) || s.cell.wordFull q) := by
  have hp := (performing_store hop).trans (performStore_cell hloc 0 0 data fill (Cell.finish a) s)
  obtain ⟨hs, hx, hv⟩ := Cell.stored_fields off 0 0 data fill s.cell
  refine ⟨_, exec_accessPerformed_due hd (by rw [hp]; rfl), ?_⟩
  rw [hp]
  refine ⟨rfl, (Cell.finish_x ..).trans hx, (Cell.finish_v ..).trans hv, Cell.finish_gone a _, fun q => ?_, fun q => ?_⟩
  · exact (Cell.load_congr ((Cell.finish_store ..).trans hs) q 1).trans (Cell.load_storeAt ..)
  · rw [State.onCell_cell, Cell.wordFull_congr (Cell.finish_emptyWords ..)]
    cases fill
    · rfl
    · exact Cell.wordFull_fillWords (by simpa using hne) q _

/-- What a lane of an `st.v` does to its access once its bytes are written: the last one ends it, any other goes on with the lanes that are left. -/
def afterLane (a : Access) (n : Nat) (rest : List (Nat × W32)) : Cell → Cell := if rest = [] then Cell.finish a else Cell.setOp a (.storeV n rest)

theorem afterLane_fields (a : Access) (n : Nat) (rest : List (Nat × W32)) (c : Cell) :
    (afterLane a n rest c).store = c.store ∧ (afterLane a n rest c).x = c.x ∧ (afterLane a n rest c).v = c.v := by
  unfold afterLane
  split
  · exact ⟨Cell.finish_store .., Cell.finish_x .., Cell.finish_v ..⟩
  · exact ⟨rfl, rfl, rfl⟩

/-- An access that is in flight after a lane has lanes left, and these are its operation. -/
theorem afterLane_inflight {a : Access} {n : Nat} {rest : List (Nat × W32)} {c : Cell} :
    ∀ x ∈ (afterLane a n rest c).inflight, x.id = a.id → rest ≠ [] ∧ x.op = .storeV n rest := by
  intro x hx hid
  unfold afterLane at hx
  split at hx
  · exact absurd hid (Cell.finish_gone a c x hx)
  · obtain ⟨y, -, rfl⟩ := List.mem_map.1 hx
    split at hid
    next h => exact ⟨‹_›, by simp [h]⟩
    next h => exact absurd hid (by simpa using h)

theorem performLane_eq {n j i : Nat} {w : W32} {left : List (Nat × W32)} (hj : j = nextLane s.tick left.length) (hl : left[j]? = some (i, w)) :
    performLane a n left s =
      performStore a (4 * i) (bytesOf 4 w.toNat) false (if delNth j left = [] then 4 * n else 0) (afterLane a n (delNth j left)) s := by
  rw [performLane]
  dsimp only
  rw [← hj, hl]
  dsimp only
  unfold afterLane
  split <;> rfl

/-- One lane of an `st.v` to the cell's own store (R262). -/
theorem lane_cell_performed {n off : Nat} {left : List (Nat × W32)} (hd : s.due k = some a) (hop : a.op = .storeV n left) (hloc : a.loc = .cell off)
    (hne : left ≠ []) :
    ∃ t, ∃ j < left.length, ∃ i w, left[j]? = some (i, w) ∧ exec (.accessPerformed s.here k) s = .next t ∧ t.pkg = s.pkg ∧ t.cell.x = s.cell.x ∧
      t.cell.v = s.cell.v ∧
      (∀ q, t.cell.load q 1 = if off + 4 * i ≤ q ∧ q < off + 4 * i + 4 then [(bytesOf 4 w.toNat).getD (q - (off + 4 * i)) 0] else s.cell.load q 1) ∧
      ∀ x ∈ t.cell.inflight, x.id = a.id → 1 < left.length ∧ x.op = .storeV n (delNth j left) := by
  have hj : nextLane s.tick left.length < left.length := nextLane_lt (List.length_pos_iff.2 hne)
  have hl := List.getElem?_eq_getElem hj
  have hp : performing a s = performLane a n left s := by rw [performing, hop]
  have hp := (hp.trans (performLane_eq rfl hl)).trans (performStore_cell hloc ..)
  refine ⟨_, _, hj, _, _, hl, exec_accessPerformed_due hd (by rw [hp]; rfl), ?_⟩
  rw [hp]
  obtain ⟨hs, hx, hv⟩ := afterLane_fields a n (delNth (nextLane s.tick left.length) left)
    ((s.cell.storeAt (off + 4 * left[nextLane s.tick left.length].1) (bytesOf 4 left[nextLane s.tick left.length].2.toNat)).repair off
      (if delNth (nextLane s.tick left.length) left = [] then 4 * n else 0))
  refine ⟨rfl, hx, hv, fun q => (Cell.load_congr hs q 1).trans (Cell.load_storeAt ..), fun x hx hid => ?_⟩
  obtain ⟨hrest, hxop⟩ := afterLane_inflight x hx hid
  have hlen := delNth_length hj
  have := List.length_pos_iff.2 hrest
  exact ⟨by omega, hxop⟩

end performed

end Sys2Proof.Machine
end

section
/-! Performing a store in stream space (R217): what is refused at the home of the stream, and what is written there. -/

namespace Sys2Proof.Machine

variable {s : State} {k : Nat} {a : Access} {data : List Byte} {num : BitVec 15} {pos : BitVec 48} {b : Bound}

/-! ### The record takes an error (R214) -/

@[simp] theorem Cell.push_store (r : StreamRec) (num : BitVec 15) (id : CellId) (c : Cell) :
    (c.push r num id).store = c.store := by
  unfold Cell.push
  split
  · simp [Cell.wakeAll]
  · rfl

/-- A record whose HEAD and CLOSED stand signals no one: it is written and pushed. -/
theorem setRecord_quiet {r : StreamRec} (hh : r.head = (s.pkg.record b.pa).head) (hc : r.closed = (s.pkg.record b.pa).closed) :
    setRecord b r s =
      (s.onPkg fun p => { p.write b.pa (recordBytes r) with allocDue := p.allocDue || false }).mapCells fun id c => if c.k.ctx = b.ctx then c.push r b.num id else c := by
  have hhead : ¬ (r.head ≠ (s.pkg.record b.pa).head ∨ (r.closed && !(s.pkg.record b.pa).closed) = true) := by simp [hh, hc]
  unfold setRecord
  dsimp only
  rw [if_neg hhead, hh]
  simp

theorem setRecord_quiet_mem {r : StreamRec} (hh : r.head = (s.pkg.record b.pa).head) (hc : r.closed = (s.pkg.record b.pa).closed) :
    (setRecord b r s).pkg.mem = (s.pkg.write b.pa (recordBytes r)).mem := by rw [setRecord_quiet hh hc]; rfl

theorem setRecord_quiet_store {r : StreamRec} (hh : r.head = (s.pkg.record b.pa).head) (hc : r.closed = (s.pkg.record b.pa).closed) :
    (setRecord b r s).cell.store = s.cell.store := by
  rw [setRecord_quiet hh hc]
  show (if s.cell.k.ctx = b.ctx then s.cell.push r b.num s.here else s.cell).store = s.cell.store
  split
  · exact Cell.push_store ..
  · rfl

/-! ### Refusals -/

/-- The first fault of a cell that an access raises names the instruction that issued it (R249, R332). -/
theorem accessFault_first {code : Byte} {info : W32} {c : Cell} (hg : a.gone = false) (hf : c.fault = none) :
    ∃ f, (c.accessFault a code info).fault = some f ∧ f.code = code ∧ f.info = info ∧ f.pc = a.pc ∧ f.word = a.word := by
  simp [Cell.accessFault, hg, Cell.withFault, hf]

@[simp] theorem Cell.accessFault_store (code : Byte) (info : W32) (c : Cell) :
    (c.accessFault a code info).store = c.store := by
  unfold Cell.accessFault
  split <;> rfl

/-- A write at the home of a stream that the record refuses with a code. -/
def refusedWrite (a : Access) (b : Bound) (code : Byte) (pos : BitVec 48) (s : State) : State :=
  (setRecord b { s.pkg.record b.pa with err := code } s).onCell fun c => (c.accessFault a code (pos.setWidth 32)).finish a

theorem performing_stream (hop : a.op = .store data false) (hloc : a.loc = .stream num pos) :
    performing a s = performStreamWrite a num pos 0 data 0 (Cell.finish a) s := by
  rw [performing_store hop, performStore, hloc]
  simp

theorem streamWrite_closed (hb : s.pkg.boundOf s.cell.k.ctx num = some b) (hc : (s.pkg.record b.pa).closed = true) (fin : Cell → Cell) :
    performStreamWrite a num pos 0 data 0 fin s = refusedWrite a b cSTREAM_CLOSED pos s := by
  rw [performStreamWrite, hb]
  dsimp only
  rw [if_pos hc]
  rfl

theorem streamWrite_published (hb : s.pkg.boundOf s.cell.k.ctx num = some b) (hc : (s.pkg.record b.pa).closed = false)
    (hp : before pos (s.pkg.record b.pa).head = true) (fin : Cell → Cell) :
    performStreamWrite a num pos 0 data 0 fin s = refusedWrite a b cSTREAM_PUBLISHED pos s := by
  rw [performStreamWrite, hb]
  dsimp only
  rw [if_neg (by simp [hc]), if_pos hp]
  rfl

/-- A refused store is discarded: the record takes the error, the cell the fault, and no byte of a cell store changes. -/
theorem refusedWrite_discards {code : Byte} (hd : s.due k = some a) (hp : performing a s = refusedWrite a b code pos s) (hg : a.gone = false) (hf : s.cell.fault = none) :
    ∃ t f, exec (.accessPerformed s.here k) s = .next t ∧ t.cell.fault = some f ∧ f.code = code ∧ f.info = pos.setWidth 32 ∧ f.pc = a.pc ∧ f.word = a.word ∧
      t.pkg.mem = (s.pkg.write b.pa (recordBytes { s.pkg.record b.pa with err := code })).mem ∧ t.cell.store = s.cell.store := by
  have hset := posted_setRecord b { s.pkg.record b.pa with err := code } s
  obtain ⟨f, hfault, hcode, hinfo, hpc, hword⟩ := accessFault_first (code := code) (info := pos.setWidth 32) hg (hset.cell.fault.trans hf)
  refine ⟨_, f, exec_accessPerformed_due hd (by rw [hp, refusedWrite, State.onCell_here, hset.here]), ?_⟩
  rw [hp, refusedWrite, State.onCell_cell, State.onCell_pkg]
  refine ⟨(Cell.finish_fault ..).trans hfault, hcode, hinfo, hpc, hword, setRecord_quiet_mem rfl rfl, ?_⟩
  exact (Cell.finish_store ..).trans ((Cell.accessFault_store ..).trans (setRecord_quiet_store rfl rfl))

/-! ### Writes -/

section taken

variable {p : Package} (hb : s.pkg.boundOf s.cell.k.ctx num = some b) (hc : (s.pkg.record b.pa).closed = false)
  (hh : before pos (s.pkg.record b.pa).head = false)

include hb hc hh

/-- A store whose frame lies in memory is written there. -/
theorem streamWrite_phys {key : Nat} (fin : Cell → Cell)
    (hp : framePlace true s.cell.k.ctx b.frames (s.pkg.record b.pa).back (s.pkg.record b.pa).k (s.pkg.record b.pa).logn pos s.pkg = (.ok (.phys key), p))
    (hw : p.writable (.phys key) data.length = true) :
    performStreamWrite a num pos 0 data 0 fin s =
      ((s.onPkg fun _ => (p.write key data).repair (key - 0) 0).wrote a key data.length).onCell fun c => fin ((c.l1Write key data).l1Repair (key - 0) 0) := by
  rw [performStreamWrite, hb]
  dsimp only
  rw [if_neg (by simp [hc]), if_neg (by simp [hh])]
  simp only [hp, hw]
  rfl

/-- A store whose frame lies in a cell store is written there (R268). -/
theorem streamWrite_cell {c : CellId} {off : Nat} (fin : Cell → Cell)
    (hp : framePlace true s.cell.k.ctx b.frames (s.pkg.record b.pa).back (s.pkg.record b.pa).k (s.pkg.record b.pa).logn pos s.pkg = (.ok (.cell c off), p))
    (hw : p.writable (.cell c off) data.length = true) :
    performStreamWrite a num pos 0 data 0 fin s =
      (((s.onPkg fun _ => p).atCell c (Cell.storeAt off data)).atCell c (Cell.repair (off - 0) 0)).onCell fin := by
  rw [performStreamWrite, hb]
  dsimp only
  rw [if_neg (by simp [hc]), if_neg (by simp [hh])]
  simp only [hp, hw]
  rfl

end taken

/-! ### Cells by number -/

theorem cellAt_atCell (c : CellId) (f : Cell → Cell) (s : State) : (s.atCell c f).cellAt c = f (s.cellAt c) := by
  unfold State.atCell State.putCell
  split
  next h => simp [State.cellAt, h]
  next h => simp [State.cellAt, h]

/-- A change of one cell that leaves a field leaves it in the cell in focus. -/
theorem atCell_field {α : Type} {field : Cell → α} {f : Cell → Cell} (h : ∀ c, field (f c) = field c) (c : CellId) (s : State) :
    field (s.atCell c f).cell = field s.cell := by
  unfold State.atCell State.putCell
  split
  next hc =>
    subst hc
    rw [State.cellAt_here]
    exact h _
  next => rfl

theorem atCell_here (c : CellId) (f : Cell → Cell) (s : State) : (s.atCell c f).here = s.here := by
  unfold State.atCell State.putCell
  split <;> rfl

theorem atCell_pkg (c : CellId) (f : Cell → Cell) (s : State) : (s.atCell c f).pkg = s.pkg := by
  unfold State.atCell State.putCell
  split <;> rfl

/-- What a change of the cell in focus that leaves a field leaves of any cell. -/
theorem cellAt_onCell_field {α : Type} {field : Cell → α} {f : Cell → Cell} (h : ∀ c, field (f c) = field c) (c : CellId) (s : State) :
    field ((s.onCell f).cellAt c) = field (s.cellAt c) := by
  unfold State.cellAt
  by_cases hc : c = s.here
  · rw [if_pos hc, if_pos (by exact hc)]
    exact h _
  · rw [if_neg hc, if_neg (by exact hc)]
    rfl

/-- A store in stream space to a frame in memory. -/
theorem stream_phys_performed {p : Package} {key : Nat} (hd : s.due k = some a) (hop : a.op = .store data false) (hloc : a.loc = .stream num pos)
    (hb : s.pkg.boundOf s.cell.k.ctx num = some b) (hc : (s.pkg.record b.pa).closed = false) (hh : before pos (s.pkg.record b.pa).head = false)
    (hp : framePlace true s.cell.k.ctx b.frames (s.pkg.record b.pa).back (s.pkg.record b.pa).k (s.pkg.record b.pa).logn pos s.pkg = (.ok (.phys key), p))
    (hw : p.writable (.phys key) data.length = true) :
    ∃ t, exec (.accessPerformed s.here k) s = .next t ∧ t.cell.x = s.cell.x ∧ t.cell.v = s.cell.v ∧ (∀ x ∈ t.cell.inflight, x.id ≠ a.id) ∧
      t.cell.store = s.cell.store ∧ ∀ q, t.pkg.byte q = if key ≤ q ∧ q < key + data.length then data.getD (q - key) 0 else s.pkg.byte q := by
  have hperf := (performing_stream hop hloc).trans (streamWrite_phys hb hc hh (Cell.finish a) hp hw)
  refine ⟨_, exec_accessPerformed_due hd ?_, ?_⟩
  · rw [hperf, State.onCell_here, wrote_here, State.onPkg_here]
  rw [hperf]
  refine ⟨?_, ?_, Cell.finish_gone a _, ?_, fun q => ?_⟩
  case refine_4 =>
    refine (byte_congr (wrote_mem ..) q).trans ((byte_write key q data p).trans ?_)
    rw [byte_congr (mem_of_framePlace hp)]
    rfl
  all_goals
    rw [State.onCell_cell]
    simp
    rfl

/-- A store in stream space to a frame in a cell store. -/
theorem stream_cell_performed {p : Package} {c : CellId} {off : Nat} (hd : s.due k = some a) (hop : a.op = .store data false) (hloc : a.loc = .stream num pos)
    (hb : s.pkg.boundOf s.cell.k.ctx num = some b) (hc : (s.pkg.record b.pa).closed = false) (hh : before pos (s.pkg.record b.pa).head = false)
    (hp : framePlace true s.cell.k.ctx b.frames (s.pkg.record b.pa).back (s.pkg.record b.pa).k (s.pkg.record b.pa).logn pos s.pkg = (.ok (.cell c off), p))
    (hw : p.writable (.cell c off) data.length = true) :
    ∃ t, exec (.accessPerformed s.here k) s = .next t ∧ t.cell.x = s.cell.x ∧ t.cell.v = s.cell.v ∧ (∀ x ∈ t.cell.inflight, x.id ≠ a.id) ∧
      t.pkg.mem = s.pkg.mem ∧
        ∀ q, (t.cellAt c).load q 1 = if off ≤ q ∧ q < off + data.length then [data.getD (q - off) 0] else (s.cellAt c).load q 1 := by
  have hperf := (performing_stream hop hloc).trans (streamWrite_cell hb hc hh (Cell.finish a) hp hw)
  refine ⟨_, exec_accessPerformed_due hd ?_, ?_⟩
  · rw [hperf, State.onCell_here, atCell_here, atCell_here, State.onPkg_here]
  rw [hperf]
  have hfield {α : Type} {field : Cell → α} (h1 : ∀ x, field (Cell.storeAt off data x) = field x) (h2 : ∀ x, field (Cell.repair (off - 0) 0 x) = field x) :
      field (((s.onPkg fun _ => p).atCell c (Cell.storeAt off data)).atCell c (Cell.repair (off - 0) 0)).cell = field s.cell :=
    (atCell_field h2 ..).trans (atCell_field h1 ..)
  refine ⟨?_, ?_, Cell.finish_gone a _, ?_, fun q => ?_⟩
  · exact (Cell.finish_x ..).trans (hfield (field := Cell.x) (fun _ => rfl) fun _ => rfl)
  · exact (Cell.finish_v ..).trans (hfield (field := Cell.v) (fun _ => rfl) fun _ => rfl)
  · rw [State.onCell_pkg, atCell_pkg, atCell_pkg]
    exact mem_of_framePlace hp
  · rw [cellAt_onCell_field (field := fun x => x.load q 1) fun x => Cell.load_congr (Cell.finish_store ..) q 1]
    rw [cellAt_atCell, cellAt_atCell]
    exact Cell.load_storeAt ..

/-- Settles O24: by the place of the store and, in stream space, by what its home finds. -/
theorem storesPerformed : Obligations.StoresPerformed := by
  refine ⟨fun s k a data fill hd hop hne => ⟨fun pa attr hloc hr => store_phys_performed hd hop hloc hr, fun off hloc => store_cell_performed hd hop hne hloc⟩,
    fun s k a n off left hd hop hloc hne => lane_cell_performed hd hop hloc hne, fun s k a data num pos b hd hop hloc hb hg hf => ?_⟩
  intro r discarded
  refine ⟨fun hc => ?_, fun hc hh => ?_, fun pl p hc hh hp hw hne => ?_⟩
  · exact refusedWrite_discards hd ((performing_stream hop hloc).trans (streamWrite_closed hb hc _)) hg hf
  · exact refusedWrite_discards hd ((performing_stream hop hloc).trans (streamWrite_published hb hc hh _)) hg hf
  · cases pl with
    | phys key =>
      obtain ⟨t, he, hx, hv, hin, hstore, hbyte⟩ := stream_phys_performed hd hop hloc hb hc hh hp hw
      exact ⟨t, he, hx, hv, hin, fun key' h => by cases h; exact ⟨hstore, hbyte⟩, fun c off h => nomatch h⟩
    | cell c off =>
      obtain ⟨t, he, hx, hv, hin, hmem, hload⟩ := stream_cell_performed hd hop hloc hb hc hh hp hw
      exact ⟨t, he, hx, hv, hin, fun key h => (nomatch h), fun c' off' h => by cases h; exact ⟨hmem, hload⟩⟩

end Sys2Proof.Machine
end

section
/-! The state at power-up (R30, R312, R337, R369, R399, R408, R415), and what a step does around the instruction that it performs
(R12, R68, R332, R337). -/

namespace Sys2Proof.Machine

/-! ### Reset -/

/-- Every cell of the machine at reset is a cell on which no load has fired. -/
theorem cellAt_reset (c : CellId) : State.reset.cellAt c = Cell.reset := by
  unfold State.cellAt
  split <;> rfl

theorem focus_reset_cell (c : CellId) : (State.reset.focus c).cell = Cell.reset := by
  unfold State.focus
  split <;> rfl

theorem xreg_reset (n : XIdx) : Cell.reset.xreg n = ⟨0, .full⟩ := by
  unfold Cell.xreg
  split
  · rfl
  · exact Vector.getElem_replicate _

theorem pred_reset {n : PIdx} (h : n ≠ 0) : Cell.reset.pred n = false := by
  unfold Cell.pred
  rw [if_neg h]
  exact Vector.getElem_replicate _

theorem vreg_reset (n : VIdx) : Cell.reset.vreg n = VReg.reset := Vector.getElem_replicate _

/-- An empty cell store reads as zeros. -/
theorem load_reset (a n : Nat) : Cell.reset.load a n = List.replicate n 0 := by
  show (List.range n).map (fun i => sget 0 [] (a + i)) = _
  simp [sget, List.map_const']

/-- Every k-register but `KTD`'s reads as the cell makes it, whatever stands around the cell. -/
theorem csrValue_congr {k : BitVec 9} {s t : State} (hk : k.toNat ≠ 0x00D) (h : s.cell = t.cell) :
    csrValue k s = csrValue k t := by
  unfold csrValue
  rw [h]
  split
  case h_14 heq => exact absurd heq hk
  all_goals rfl

/-- The k-registers that `csrr` makes of the cell's units read 0 (R30). -/
theorem csrValue_reset (c : CellId) :
    ∀ k ∈ [0x008#9, 0x009, 0x00E, 0x00F, 0x010], csrValue k (State.reset.focus c) = 0 := by
  have h : ∀ k : BitVec 9, k.toNat ≠ 0x00D → csrValue k (State.reset.focus c) = csrValue k { State.reset with cell := Cell.reset } :=
    fun k hk => csrValue_congr hk (focus_reset_cell c)
  simp only [List.forall_mem_cons]
  refine ⟨?_, ?_, ?_, ?_, ?_, List.forall_mem_nil _⟩ <;> rw [h _ (by decide)]
  · decide
  · rfl
  · rfl
  · decide
  · decide

/-- Settles O1. -/
theorem resetState : Obligations.ResetState := by
  refine ⟨rfl, rfl, rfl, rfl, rfl, rfl, rfl, rfl, rfl, rfl, rfl, rfl, rfl, rfl, rfl, rfl, rfl, rfl, rfl, rfl, fun c => ?_⟩
  rw [cellAt_reset]
  refine ⟨xreg_reset, fun n => pred_reset, fun n => ?_, fun _ _ => rfl, fun _ => rfl, load_reset, fun _ => rfl, rfl, rfl, rfl, rfl, rfl, rfl, rfl, rfl, rfl, rfl, rfl,
    rfl, rfl, rfl, rfl, rfl, rfl, rfl, rfl, csrValue_reset c⟩
  rw [vreg_reset]
  exact ⟨rfl, rfl⟩

/-! ### A step -/

variable {s t : State} {c : CellId} {i : Instr}

/-- What a core issues: the instruction that the words at its PC decode to (R12, R55). -/
theorem issueNow_decoded {u : State} (hw : u.cell.badWord = none) (hd : decode u.cell.fetched = .ok i) :
    issueNow u = exec i u := by
  rw [issueNow, hw]
  simp only [hd]

/-- Words that decode to none are performed as a reserved encoding (R68). -/
theorem issueNow_reserved {u : State} {e : DecodeErr} (hw : u.cell.badWord = none) (hd : decode u.cell.fetched = .error e) :
    issueNow u = exec (.reservedEncoding (u.cell.wordAt u.cell.pc)) u := by
  rw [issueNow, hw]
  simp only [hd]
  rfl

theorem coreStep_next (h : issueNow (clocked s.tick (s.focus c)) = .next t) : coreStep c s = .next (settled s t) := by
  simp only [coreStep, h]

theorem coreStep_fault {f : Fault} (h : issueNow (clocked s.tick (s.focus c)) = .fault f) :
    coreStep c s = .fault f := by
  simp only [coreStep, h]

theorem coreStep_refused {r : Refusal} (h : issueNow (clocked s.tick (s.focus c)) = .refused r) :
    coreStep c s = .refused r := by
  simp only [coreStep, h]

/-- The core that the agenda names issues on a module that runs. -/
theorem step_core {rest : List Move} (ha : s.agenda = .core c :: rest) (hp : s.pkg.host.powered = true) (hr : s.pkg.host.runs = true)
    (hi : (s.cellAt c).issues = true) : step s = coreStep c { s with agenda := rest } := by
  have hi' : (({ s with agenda := rest } : State).cellAt c).issues = true := hi
  rw [step, ha]
  simp only [perform, hp, hr, hi']
  rfl

theorem step_default (ha : s.agenda = []) (hm : defaultMove s = some (.core c)) : step s = coreStep c s := by
  rw [step, ha]
  simp only [hm]

theorem step_event {rest : List Move} (ha : s.agenda = .event i :: rest) (hs : isStep i = true) (h : exec i { s with agenda := rest } = .next t) :
    step s = .next (settled { s with agenda := rest } t) := by
  rw [step, ha]
  simp only [perform, hs, eventStep, h]
  rfl

/-- A watchdog moves nothing of its board but its own count (R337). -/
theorem watch_board (s t : State) (b : Board) : { watch s t b with watchdog := 0 } = { b with watchdog := 0 } := by
  unfold watch
  split
  · rfl
  · split <;> rfl

/-- Settles O2. -/
theorem stepRunsTheDecodedInstruction : Obligations.StepRunsTheDecodedInstruction := by
  refine ⟨fun s c rest ha hp hr hi => ?_, fun s c ha hm => ?_, fun s i rest t ha hs h => step_event ha hs h, fun n s => rfl, fun s t => ⟨rfl, ?_⟩⟩
  · intro u hw
    rw [step_core ha hp hr hi]
    refine ⟨fun i hd => ⟨fun t h => ?_, fun f h => ?_, fun r h => ?_⟩, fun e t hd h => ?_⟩
    · exact coreStep_next ((issueNow_decoded hw hd).trans h)
    · exact coreStep_fault ((issueNow_decoded hw hd).trans h)
    · exact coreStep_refused ((issueNow_decoded hw hd).trans h)
    · exact coreStep_next ((issueNow_reserved hw hd).trans h)
  · intro u hw i t hd h
    rw [step_default ha hm]
    exact coreStep_next ((issueNow_decoded hw hd).trans h)
  · show (t.pkg.boards.map (watch s t)).map _ = _
    rw [List.map_map]
    exact List.map_congr_left fun b _ => watch_board s t b

end Sys2Proof.Machine
end

section
/-! Delivering a value to a format (R39-R42, R46, R47): where a magnitude lies between two neighbouring codes, which of the two its mode
takes, and what the tables make of the rest. -/

namespace Sys2Proof.Machine

/-! ### A value between two neighbours -/

/-- What a bracket says of a value x that lies from lo on and below hi (R40, R41). -/
structure Bracket.Places (q : Bracket) (lo hi x : ℚ) : Prop where
  lower : lo ≤ x
  upper : x < hi
  inexact : q.inexact = true ↔ lo ≠ x
  above : q.above = true ↔ hi - x < x - lo
  tie : q.tie = true ↔ hi - x = x - lo
  frac : (q.frac : ℤ) = ⌊(x - lo) / (hi - lo) * 2 ^ 16⌋

/-- Only the lengths' ratio counts: a bracket places a value in a step of any width as it does in one of width 1. -/
theorem Bracket.Places.scale {q : Bracket} {lo hi x u : ℚ} (h : q.Places lo hi x) (hu : 0 < u) : q.Places (lo * u) (hi * u) (x * u) where
  lower := mul_le_mul_of_nonneg_right h.lower hu.le
  upper := mul_lt_mul_of_pos_right h.upper hu
  inexact := by rw [h.inexact, ne_eq, ne_eq, mul_left_inj' hu.ne']
  above := by rw [h.above, ← sub_mul, ← sub_mul, mul_lt_mul_iff_left₀ hu]
  tie := by rw [h.tie, ← sub_mul, ← sub_mul, mul_left_inj' hu.ne']
  frac := by rw [h.frac, ← sub_mul, ← sub_mul, mul_div_mul_right _ _ hu.ne']

/-- Whether a bracketed value rounds away from zero is what R39 and R41 say. -/
theorem roundsUp_iff {q : Bracket} {lo hi x : ℚ} {mode : BitVec 3} (h : q.Places lo hi x) (hm : mode.toNat ≤ 4) (neg : Bool) (rnd : Nat) :
    roundsUp mode neg rnd q = true ↔ RoundsAway mode neg rnd (q.code % 2 = 1) lo hi x := by
  have hstep := h.lower.trans_lt h.upper
  have hne (ha : hi - x < x - lo ∨ (hi - x = x - lo ∧ q.code % 2 = 1)) : ¬ lo = x := by
    rintro rfl
    rcases ha with h' | ⟨h', -⟩ <;> linarith
  have hf : 65536 ≤ q.frac + rnd ↔ 65536 ≤ ⌊(x - lo) / (hi - lo) * 2 ^ 16⌋ + rnd := by rw [← h.frac]; omega
  have hmode : mode = 0 ∨ mode = 1 ∨ mode = 2 ∨ mode = 3 ∨ mode = 4 := by bv_omega
  rcases hmode with rfl | rfl | rfl | rfl | rfl
  · simpa [roundsUp, RoundsAway, h.above, h.tie] using hne
  · simp [roundsUp, RoundsAway]
  · simp [roundsUp, RoundsAway, h.inexact]
  · simp [roundsUp, RoundsAway, h.inexact]
  · simp [roundsUp, RoundsAway, h.inexact, hf]

/-- A quotient cut to an integer, with what its remainder says. -/
theorem places_div (m d : Nat) (hd : 0 < d) :
    Bracket.Places ⟨m / d, m % d != 0, d < 2 * (m % d), 2 * (m % d) == d, m % d * 2 ^ 16 / d⟩ (m / d : Nat) ((m / d : Nat) + 1) (m / d) := by
  have hd' : (0 : ℚ) < d := by exact_mod_cast hd
  have hx : (m : ℚ) / d = (m / d : Nat) + (m % d : Nat) / d := by
    rw [eq_comm, add_div' _ _ _ hd'.ne']
    congr 1
    exact_mod_cast Nat.div_add_mod' m d
  have hr : ((m % d : Nat) : ℚ) / d < 1 := by rw [div_lt_one hd']; exact_mod_cast Nat.mod_lt m hd
  have htwice : 1 - ((m % d : Nat) : ℚ) / d = (d - (m % d : Nat)) / d := by rw [sub_div, div_self hd'.ne']
  rw [hx]
  generalize m % d = r at *
  constructor
  · exact le_add_of_nonneg_right (by positivity)
  · exact add_lt_add_right hr _
  · simp [hd.ne']
  · rw [add_sub_add_left_eq_sub, add_sub_cancel_left, htwice, div_lt_div_iff_of_pos_right hd', decide_eq_true_iff, sub_lt_iff_lt_add]
    norm_cast
    omega
  · rw [add_sub_add_left_eq_sub, add_sub_cancel_left, htwice, div_left_inj' hd'.ne', beq_iff_eq, sub_eq_iff_eq_add]
    norm_cast
    omega
  · rw [add_sub_cancel_left, add_sub_cancel_left, div_one, div_mul_eq_mul_div]
    exact_mod_cast (Rat.floor_natCast_div_natCast (r * 2 ^ 16) d).symm

/-- m · 2^sh lies between two integers as its cut says. -/
theorem places_cut (m : Nat) (sh : Int) : (cut m sh).Places (cut m sh).code ((cut m sh).code + 1) (m * 2 ^ sh) := by
  cases sh with
  | ofNat k => simpa [cut, Nat.mod_one] using places_div (m * 2 ^ k) 1 one_pos
  | negSucc k => simpa [cut, zpow_negSucc, div_eq_mul_inv] using places_div m (2 ^ (k + 1)) (by positivity)

/-! ### The magnitudes of a format's codes -/

theorem rat_false (m : Nat) (e : Int) : rat false m e = m * 2 ^ e := rfl

/-- A code of binade n with its leading bit counted in j, or of the least binade, whose codes may lack it; 2^(t+1) is the next binade's first (R35). -/
theorem magnitude_binade (ff : FloatFmt) {n j : Nat} (hj : j ≤ 2 ^ (ff.t + 1)) (hn : n = 0 ∨ 2 ^ ff.t ≤ j) :
    ff.magnitude (n * 2 ^ ff.t + j) = j * 2 ^ ((n : Int) + 1 - ff.b - ff.t) := by
  have hT : 0 < 2 ^ ff.t := by positivity
  unfold FloatFmt.magnitude
  rcases Nat.lt_or_ge j (2 ^ ff.t) with hlt | hge
  · obtain rfl : n = 0 := by omega
    simp [hlt]
  obtain ⟨i, rfl⟩ := Nat.exists_eq_add_of_le hge
  have hc : n * 2 ^ ff.t + (2 ^ ff.t + i) = i + (n + 1) * 2 ^ ff.t := by ring
  rw [if_neg (by rw [hc]; nlinarith), hc, Nat.add_mul_mod_self_right, Nat.add_mul_div_right _ _ hT]
  rcases Nat.lt_or_ge i (2 ^ ff.t) with hi | hi
  · rw [Nat.mod_eq_of_lt hi, Nat.div_eq_of_lt hi]
    congr 2
    push_cast
    ring
  · obtain rfl : i = 2 ^ ff.t := by rw [pow_succ] at hj; omega
    rw [Nat.mod_self, Nat.div_self hT, show ((1 + (n + 1) : Nat) : Int) - ff.b - ff.t = ((n : Int) + 1 - ff.b - ff.t) + 1 by push_cast; ring,
      zpow_add_one₀ two_ne_zero]
    push_cast
    ring

/-- Every code is j of a binade n. -/
theorem exists_binade (t c : Nat) : ∃ n j, c = n * 2 ^ t + j ∧ j < 2 ^ (t + 1) ∧ (n = 0 ∨ 2 ^ t ≤ j) := by
  have hT : 0 < 2 ^ t := by positivity
  rcases Nat.eq_zero_or_pos (c / 2 ^ t) with h0 | hpos
  · exact ⟨0, c, by simp, ((Nat.div_eq_zero_iff_lt hT).mp h0).trans (by rw [pow_succ]; omega), .inl rfl⟩
  · refine ⟨c / 2 ^ t - 1, 2 ^ t + c % 2 ^ t, ?_, ?_, .inr (by omega)⟩
    · rw [← add_assoc, ← Nat.succ_mul, Nat.succ_eq_add_one, Nat.sub_add_cancel hpos, Nat.div_add_mod']
    · have := Nat.mod_lt c hT
      rw [pow_succ]; omega

theorem magnitude_zero (ff : FloatFmt) : ff.magnitude 0 = 0 := by simp [FloatFmt.magnitude]

theorem magnitude_strictMono (ff : FloatFmt) : StrictMono ff.magnitude := by
  refine strictMono_nat_of_lt_succ fun c => ?_
  obtain ⟨n, j, rfl, hj, hn⟩ := exists_binade ff.t c
  rw [magnitude_binade ff hj.le hn, add_assoc, magnitude_binade ff hj (hn.imp_right Nat.le_succ_of_le)]
  exact mul_lt_mul_of_pos_right (by push_cast; linarith) (by positivity)

/-- The value of a magnitude code is its magnitude. -/
theorem magValue_magnitude (ff : FloatFmt) (neg : Bool) (c : Nat) : ∃ m e, magValue ff neg c = .fin neg m e ∧ rat false m e = ff.magnitude c := by
  have hT : 0 < 2 ^ ff.t := by positivity
  unfold magValue FloatFmt.magnitude
  simp only [Nat.div_eq_zero_iff_lt hT]
  split
  · next h => exact ⟨_, _, rfl, by simp [rat_false, Nat.mod_eq_of_lt h]⟩
  · exact ⟨_, _, rfl, by simp [rat_false]⟩

/-! ### The code below a value -/

/-- The binade in which a value is rounded: that of its leading bit, and not below the least. -/
def roundBinade (b : Int) (m : Nat) (e : Int) : Nat := ((Nat.log2 m : Int) + e + b - 1).toNat

/-- A bracket cuts at its binade's spacing. -/
theorem bracket_cut (t : Nat) (b : Int) (m : Nat) (e : Int) :
    bracket t b m e = { cut m (e - (roundBinade b m e + 1 - b - t)) with
      code := roundBinade b m e * 2 ^ t + (cut m (e - (roundBinade b m e + 1 - b - t))).code } := by
  unfold bracket roundBinade
  dsimp only
  split
  · next h => rw [show ((Nat.log2 m : Int) + e + b - 1).toNat = 0 by omega]; simp
  · next h => rw [show (((Nat.log2 m : Int) + e + b - 1).toNat : Int) = (Nat.log2 m : Int) + e + b - 1 by omega]; simp

/-- The leading bit of a value, in units of its binade's spacing. -/
theorem roundBinade_bounds (t : Nat) (b : Int) {m : Nat} (hm : m ≠ 0) (e : Int) :
    (m : ℚ) * 2 ^ (e - (roundBinade b m e + 1 - b - t)) < 2 ^ (t + 1) ∧
      (roundBinade b m e = 0 ∨ (2 : ℚ) ^ t ≤ m * 2 ^ (e - (roundBinade b m e + 1 - b - t))) := by
  have hlo : (2 : ℚ) ^ (Nat.log2 m) ≤ m := by exact_mod_cast Nat.log2_self_le hm
  have hhi : (m : ℚ) < 2 ^ (Nat.log2 m + 1) := by exact_mod_cast Nat.lt_log2_self
  have hn : roundBinade b m e = 0 ∨ ((Nat.log2 m : Int) + (e - (roundBinade b m e + 1 - b - t)) = t) := by unfold roundBinade; omega
  have hle : ((Nat.log2 m : Int) + 1) + (e - (roundBinade b m e + 1 - b - t)) ≤ (t + 1 : Nat) := by unfold roundBinade; omega
  generalize e - ((roundBinade b m e : Int) + 1 - b - t) = sh at *
  refine ⟨?_, hn.imp_right fun h => ?_⟩
  · calc (m : ℚ) * 2 ^ sh < 2 ^ (Nat.log2 m + 1) * 2 ^ sh := mul_lt_mul_of_pos_right hhi (by positivity)
      _ = 2 ^ (((Nat.log2 m : Int) + 1) + sh) := by rw [zpow_add₀ two_ne_zero]; norm_cast
      _ ≤ 2 ^ ((t + 1 : Nat) : Int) := zpow_le_zpow_right₀ one_le_two hle
      _ = 2 ^ (t + 1) := zpow_natCast _ _
  · calc (2 : ℚ) ^ t = 2 ^ ((Nat.log2 m : Int) + sh) := by rw [h, zpow_natCast]
      _ = 2 ^ (Nat.log2 m) * 2 ^ sh := by rw [zpow_add₀ two_ne_zero, zpow_natCast]
      _ ≤ m * 2 ^ sh := mul_le_mul_of_nonneg_right hlo (by positivity)

/-- A value lies between the code that its bracket names and the next (R40 step 1). -/
theorem places_bracket (ff : FloatFmt) {m : Nat} (hm : m ≠ 0) (e : Int) :
    let q := bracket ff.t ff.b m e
    q.Places (ff.magnitude q.code) (ff.magnitude (q.code + 1)) (rat false m e) := by
  obtain ⟨hhi, hlo⟩ := roundBinade_bounds ff.t ff.b hm e
  have hq := places_cut m (e - (roundBinade ff.b m e + 1 - ff.b - ff.t))
  rw [bracket_cut]
  generalize roundBinade ff.b m e = n at *
  generalize cut m (e - (n + 1 - ff.b - ff.t)) = q at *
  have hj : q.code < 2 ^ (ff.t + 1) := by exact_mod_cast hq.lower.trans_lt hhi
  have hn : n = 0 ∨ 2 ^ ff.t ≤ q.code := hlo.imp_right fun h => Nat.lt_succ_iff.mp (by exact_mod_cast h.trans_lt hq.upper)
  have hx : rat false m e = m * 2 ^ (e - (n + 1 - ff.b - ff.t)) * 2 ^ ((n : Int) + 1 - ff.b - ff.t) := by
    rw [mul_assoc, ← zpow_add₀ two_ne_zero, sub_add_cancel, rat_false]
  dsimp only
  rw [magnitude_binade ff hj.le hn, add_assoc, magnitude_binade ff hj (hn.imp_right Nat.le_succ_of_le), hx]
  have h := hq.scale (u := 2 ^ ((n : Int) + 1 - ff.b - ff.t)) (by positivity)
  exact ⟨h.lower, by exact_mod_cast h.upper, h.inexact, by exact_mod_cast h.above, by exact_mod_cast h.tie, by exact_mod_cast h.frac⟩

/-! ### The float formats' tables (R35, R36), checked for each descriptor -/

/-- No largest magnitude reaches the sign bit. -/
theorem cmax_lt_sign : ∀ f : FmtDesc, f.isFloat = true → (floatFmt f).signed = true → (floatFmt f).cmax < 2 ^ (width f - 1) := by decide +kernel

theorem cmax_lt_inf : ∀ f : FmtDesc, f.isFloat = true → ∀ i ∈ (floatFmt f).inf, (floatFmt f).cmax < i := by decide +kernel

theorem cmax_lt_nan : ∀ f : FmtDesc, f.isFloat = true → f.isP3109 = true → ∀ q ∈ (floatFmt f).nan, (floatFmt f).cmax < q := by decide +kernel

/-- Where there is no −0, its code is the NaN. -/
theorem nan_of_no_negZero : ∀ f : FmtDesc, f.isFloat = true → (floatFmt f).signed = true → (floatFmt f).negZero = false →
    f.isP3109 = true ∧ (floatFmt f).nan = some (2 ^ (width f - 1)) := by decide +kernel

theorem width_pos : ∀ f : FmtDesc, 0 < width f := by decide +kernel

theorem not_isInt_of_isFloat {f : FmtDesc} (hf : f.isFloat = true) : ¬ f.isInt = true := by
  simp only [FmtDesc.isFloat, FmtDesc.isInt, Bool.and_eq_true, decide_eq_true_iff] at *
  omega

/-- A value whose sign a format has is not refused for it (R46). -/
theorem hasSign {f : FmtDesc} {neg : Bool} (h : neg = false ∨ (floatFmt f).signed = true) : (neg && !(floatFmt f).signed) = false := by
  rcases h with h | h <;> simp [h]

/-! ### Values of codes -/

theorem valueOf_float {f : FmtDesc} (hf : f.isFloat = true) (c : Nat) : valueOf f c = floatValue f c := if_neg (not_isInt_of_isFloat hf)

/-- Codes up to the largest finite magnitude are the non-negative values (R35, R36). -/
theorem valueOf_magnitude {f : FmtDesc} (hf : f.isFloat = true) {c : Nat} (hc : c ≤ (floatFmt f).cmax) :
    valueOf f c = magValue (floatFmt f) false c := by
  have hnan : ¬ (f.isP3109 && some c == (floatFmt f).nan) = true := by
    simp only [Bool.and_eq_true, beq_iff_eq]
    rintro ⟨hp, hn⟩
    exact absurd (cmax_lt_nan f hf hp c hn.symm) (by omega)
  have hinf : ¬ (some c == (floatFmt f).inf) = true := by
    rw [beq_iff_eq]
    exact fun hi => absurd (cmax_lt_inf f hf c hi.symm) (by omega)
  have hlt (hs : (floatFmt f).signed = true) : c < 2 ^ (width f - 1) := hc.trans_lt (cmax_lt_sign f hf hs)
  have hneg : ((floatFmt f).signed && c.testBit (width f - 1)) = false := by
    cases hs : (floatFmt f).signed
    · rfl
    · exact Nat.testBit_lt_two_pow (hlt hs)
  have hmag : (if (floatFmt f).signed then c % 2 ^ (width f - 1) else c) = c := by
    split
    · next hs => exact Nat.mod_eq_of_lt (hlt hs)
    · rfl
  rw [valueOf_float hf, floatValue]
  simp only [if_neg hnan, hneg, hmag, if_neg hinf, if_pos hc]

theorem magValue_sign {ff : FloatFmt} {n neg : Bool} {k m : Nat} {e : Int} (h : magValue ff n k = .fin neg m e) : n = neg := by
  unfold magValue at h
  dsimp only at h
  split at h <;> exact (Num.fin.inj h).1

/-- A code of a float format is its sign bit and its magnitude code. -/
theorem code_eq_signed (f : FmtDesc) {c : Nat} (hc : c < 2 ^ width f) :
    c = signed f ((floatFmt f).signed && c.testBit (width f - 1)) (if (floatFmt f).signed then c % 2 ^ (width f - 1) else c) := by
  rw [← Nat.sub_add_cancel (width_pos f)] at hc
  have h : c % 2 ^ (width f - 1 + 1) = _ := Nat.mod_pow_succ
  rw [Nat.mod_eq_of_lt hc, ← Nat.toNat_testBit] at h
  unfold signed
  cases (floatFmt f).signed
  · rfl
  · generalize c.testBit (width f - 1) = b at *
    cases b <;> simpa using h

/-- A code that has a finite value is the sign and the magnitude code of that value, and −0 only where the format has it. -/
theorem code_of_finite {f : FmtDesc} (hf : f.isFloat = true) {c : Nat} (hc : c < 2 ^ width f) {neg : Bool} {m : Nat} {e : Int}
    (hv : valueOf f c = .fin neg m e) : ∃ k ≤ (floatFmt f).cmax, c = signed f neg k ∧ magValue (floatFmt f) neg k = .fin neg m e ∧
      (neg = true → (floatFmt f).signed = true) ∧ (k = 0 → neg = true → (floatFmt f).negZero = true) := by
  rw [valueOf_float hf, floatValue] at hv
  have hcode := code_eq_signed f hc
  dsimp only at hv
  generalize (if (floatFmt f).signed then c % 2 ^ (width f - 1) else c) = k at *
  split at hv
  · cases hv
  next hnan =>
  split at hv
  · cases hv
  split at hv
  case isFalse => cases hv
  next hmax =>
  have hneg := magValue_sign hv
  rw [hneg] at hcode hv
  refine ⟨k, hmax, hcode, hv, fun hn => ?_, fun hk0 hn => ?_⟩
  · rw [hn, Bool.and_eq_true] at hneg
    exact hneg.1
  · rw [hn, Bool.and_eq_true] at hneg
    by_contra hz
    obtain ⟨hp, hq⟩ := nan_of_no_negZero f hf hneg.1 (Bool.eq_false_iff.mpr hz)
    refine hnan ?_
    rw [hp, hq, hcode, hk0, hn]
    simp [signed, hneg.1]

/-! ### A finite value delivered to a float format -/

section finite
variable {f : FmtDesc} {r : Rounding} {rnd m : Nat} {neg : Bool} {e : Int}

theorem roundTo_finite (hf : f.isFloat = true) : roundTo f r rnd (.fin neg m e) = roundFinite f r rnd neg m e :=
  if_neg (not_isInt_of_isFloat hf)

/-- A zero keeps its sign where the format has −0 (R40). -/
theorem roundFinite_zero : roundFinite f r rnd neg 0 e = (if (floatFmt f).negZero then signed f neg 0 else 0, 0) := rfl

/-- The magnitude code that a non-zero value is rounded to. -/
def roundedCode (f : FmtDesc) (mode : BitVec 3) (rnd : Nat) (neg : Bool) (m : Nat) (e : Int) : Nat :=
  let q := bracket (floatFmt f).t (floatFmt f).b m e
  if roundsUp mode neg rnd q then q.code + 1 else q.code

variable {x lo hi : ℚ} (hm : m ≠ 0)
include hm

/-- Past the largest finite code, the overflow result (R40 step 4). -/
theorem roundFinite_overflow (hs : neg = false ∨ (floatFmt f).signed = true) (hc : (floatFmt f).cmax < roundedCode f r.mode rnd neg m e) :
    roundFinite f r rnd neg m e =
      (overflowCode f r neg (roundsUp r.mode neg rnd (bracket (floatFmt f).t (floatFmt f).b m e)), flOF ||| flIX) := by
  have hs' := hasSign hs
  unfold roundedCode at hc
  simp only [roundFinite, if_neg hm, hs', if_pos hc, Bool.false_eq_true, if_false]

variable (hp : (bracket (floatFmt f).t (floatFmt f).b m e).Places lo hi x)
include hp

/-- An unsigned format holds no negative value (R46). -/
theorem roundFinite_unsigned (hn : neg = true) (hs : (floatFmt f).signed = false) :
    roundFinite f r rnd neg m e = if roundedCode f r.mode rnd neg m e = 0 then (0, if lo = x then 0 else flIX) else refuseNegative f r.sat := by
  simp [roundFinite, roundedCode, hm, hn, hs, hp.inexact]

/-- Up to the largest finite code, the rounded code with its sign, inexact and tiny flags (R40). -/
theorem roundFinite_within (hs : neg = false ∨ (floatFmt f).signed = true) (hc : roundedCode f r.mode rnd neg m e ≤ (floatFmt f).cmax) :
    roundFinite f r rnd neg m e =
      (if roundedCode f r.mode rnd neg m e = 0 ∧ (floatFmt f).negZero = false then 0 else signed f neg (roundedCode f r.mode rnd neg m e),
        (if lo = x then 0 else flIX) |||
          (if lo ≠ x ∧ roundedCode f r.mode rnd neg m e ≠ 0 ∧ roundedCode f r.mode rnd neg m e < 2 ^ (floatFmt f).t then flUF else 0)) := by
  have hs' := hasSign hs
  have hover : ¬ (floatFmt f).cmax < roundedCode f r.mode rnd neg m e := hc.not_gt
  unfold roundedCode at *
  simp only [roundFinite, if_neg hm, hs', if_neg hover, Bool.false_eq_true, if_false]
  generalize (if roundsUp r.mode neg rnd _ then _ else _ : Nat) = c
  rcases Nat.eq_zero_or_pos c with rfl | h0
  · cases h : (floatFmt f).negZero <;> simp [hp.inexact]
  · simp [h0.ne', hp.inexact]

end finite

/-- The overflow result of a value that rounds toward zero, and under SAT (R42). -/
theorem overflowCode_toward {f : FmtDesc} {r : Rounding} {neg up : Bool} (h : r.sat = true ∨ overflowsAway r.mode neg up = false) :
    overflowCode f r neg up = signed f neg (floatFmt f).cmax := by
  have h' : (r.sat || !overflowsAway r.mode neg up) = true := by rcases h with h | h <;> simp [h]
  simp only [overflowCode, if_pos h']

/-- The overflow result of a value that rounds away from zero (R42). -/
theorem overflowCode_away {f : FmtDesc} {r : Rounding} {neg up : Bool} (hs : r.sat = false) (h : overflowsAway r.mode neg up = true) :
    (∀ i, (floatFmt f).inf = some i → overflowCode f r neg up = signed f neg i) ∧
      ((floatFmt f).inf = none → ∀ q, (floatFmt f).nan = some q → overflowCode f r neg up = q) ∧
      ((floatFmt f).inf = none → (floatFmt f).nan = none → overflowCode f r neg up = signed f neg (floatFmt f).cmax) := by
  refine ⟨fun i hi => ?_, fun hi q hq => ?_, fun hi hq => ?_⟩
  · simp [overflowCode, hs, h, hi]
  · simp [overflowCode, hs, h, hi, hq]
  · simp [overflowCode, hs, h, hi, hq]

theorem overflowsAway_false {mode : BitVec 3} {neg up : Bool}
    (h : mode = 1 ∨ (mode = 2 ∧ neg = true) ∨ (mode = 3 ∧ neg = false) ∨ (mode = 4 ∧ up = false)) : overflowsAway mode neg up = false := by
  rcases h with rfl | ⟨rfl, rfl⟩ | ⟨rfl, rfl⟩ | ⟨rfl, rfl⟩ <;> rfl

theorem overflowsAway_true {mode : BitVec 3} {neg up : Bool}
    (h : mode = 0 ∨ (mode = 2 ∧ neg = false) ∨ (mode = 3 ∧ neg = true) ∨ (mode = 4 ∧ up = true)) : overflowsAway mode neg up = true := by
  rcases h with rfl | ⟨rfl, rfl⟩ | ⟨rfl, rfl⟩ | ⟨rfl, rfl⟩ <;> rfl

/-- A value that a format holds exactly is delivered unchanged, under every mode (R40, R41). -/
theorem roundTo_exact {f : FmtDesc} (hf : f.isFloat = true) {r : Rounding} (hr : r.mode.toNat ≤ 4) (rnd : Nat) {c : Nat} (hc : c < 2 ^ width f)
    {neg : Bool} {m : Nat} {e : Int} (hv : valueOf f c = .fin neg m e) : roundTo f r rnd (.fin neg m e) = (c, 0) := by
  obtain ⟨k, hk, rfl, hval, hs, hz⟩ := code_of_finite hf hc hv
  obtain ⟨m', e', hval', hx⟩ := magValue_magnitude (floatFmt f) neg k
  obtain ⟨-, rfl, rfl⟩ := Num.fin.inj (hval'.symm.trans hval)
  rw [roundTo_finite hf]
  have hmono := magnitude_strictMono (floatFmt f)
  have hzero : m' = 0 ↔ k = 0 := by
    rw [← hmono.injective.eq_iff (a := k), ← hx, magnitude_zero]
    simp [rat_false, zpow_ne_zero]
  rcases Nat.eq_zero_or_pos m' with rfl | hm
  · obtain rfl := hzero.mp rfl
    rw [roundFinite_zero]
    cases neg
    · simp [signed]
    · rw [if_pos (hz rfl rfl)]
  have hp := places_bracket (floatFmt f) hm.ne' e'
  rw [hx] at hp
  have hcode : (bracket (floatFmt f).t (floatFmt f).b m' e').code = k :=
    le_antisymm (hmono.le_iff_le.mp hp.lower) (Nat.lt_succ_iff.mp (hmono.lt_iff_lt.mp hp.upper))
  have hup : roundsUp r.mode neg rnd (bracket (floatFmt f).t (floatFmt f).b m' e') ≠ true := by
    rw [ne_eq, roundsUp_iff hp hr, hcode]
    exact fun h => h.1 rfl
  have hrc : roundedCode f r.mode rnd neg m' e' = k := by simp only [roundedCode, if_neg hup, hcode]
  have hsign : neg = false ∨ (floatFmt f).signed = true := (Bool.eq_false_or_eq_true neg).symm.imp_right hs
  rw [roundFinite_within hm.ne' hp hsign (hrc.trans_le hk), hrc, hcode]
  simp [mt hzero.mpr hm.ne']

/-! ### NaNs and infinities delivered to a float format -/

theorem roundTo_nan {f : FmtDesc} (hf : f.isFloat = true) (r : Rounding) (rnd : Nat) (sig : Bool) :
    roundTo f r rnd (.nan sig) = deliverNan f sig :=
  if_neg (not_isInt_of_isFloat hf)

theorem roundTo_inf {f : FmtDesc} (hf : f.isFloat = true) (r : Rounding) (rnd : Nat) (neg : Bool) :
    roundTo f r rnd (.inf neg) = deliverInf f r neg :=
  if_neg (not_isInt_of_isFloat hf)

/-- An infinity whose sign the format has (R46). -/
theorem deliverInf_signed {f : FmtDesc} {r : Rounding} {neg : Bool} (hs : neg = false ∨ (floatFmt f).signed = true) :
    (∀ i, (floatFmt f).inf = some i → deliverInf f r neg = (signed f neg i, 0)) ∧
      ((floatFmt f).inf = none → (floatFmt f).nan = none →
        deliverInf f r neg = (signed f neg (floatFmt f).cmax, if r.sat then 0 else flNV)) ∧
      ∀ q, (floatFmt f).inf = none → (floatFmt f).nan = some q →
        deliverInf f r neg = if r.sat then (signed f neg (floatFmt f).cmax, 0) else (q, flNV) := by
  have hs' := hasSign hs
  refine ⟨fun i hi => ?_, fun hi hq => ?_, fun q hi hq => ?_⟩
  · simp [deliverInf, hs', hi]
  · simp [deliverInf, hs', hi, hq]
  · simp [deliverInf, hs', hi, hq]

/-! ### A value delivered to an integer format -/

theorem intMin_le_intMax (f : FmtDesc) : intMin f ≤ intMax f := by
  have h (n : Nat) : 1 ≤ 2 ^ n := Nat.one_le_two_pow
  have hw := h (width f)
  have hs := h (width f - 1)
  unfold intMin intMax
  split <;> omega

theorem intCode_lt (f : FmtDesc) (i : Int) : intCode f i < 2 ^ width f := by
  have h : (0 : Int) < (2 ^ width f : Nat) := by positivity
  have := Int.emod_lt_of_pos i h
  have := Int.emod_nonneg i h.ne'
  unfold intCode
  omega

/-- An integer of a format's range is the value of its code (R34). -/
theorem intOf_intCode {f : FmtDesc} {i : Int} (hlo : intMin f ≤ i) (hhi : i ≤ intMax f) : intOf f (intCode f i) = i := by
  have hw : 2 ^ width f = 2 * 2 ^ (width f - 1) := by rw [← pow_succ', Nat.sub_add_cancel (width_pos f)]
  have hlt := intCode_lt f i
  cases h : intSigned f
  · simp only [intMin, intMax, intOf, h, Bool.false_eq_true, if_false, Bool.false_and] at *
    rw [intCode, Int.emod_eq_of_lt hlo (by omega), Int.toNat_of_nonneg hlo]
  simp only [intMin, intMax, intOf, h, if_true, Bool.true_and] at *
  rcases Int.lt_or_le i 0 with hi | hi
  · have hc : (intCode f i : Int) = i + (2 ^ width f : Nat) := by
      rw [intCode, ← Int.add_emod_right, Int.emod_eq_of_lt (by omega) (by omega), Int.toNat_of_nonneg (by omega)]
    rw [if_pos (Nat.testBit_of_two_pow_le_and_two_pow_add_one_gt (by omega) (by rw [pow_succ']; omega)), hc, add_sub_cancel_right]
  · have hc : (intCode f i : Int) = i := by rw [intCode, Int.emod_eq_of_lt hi (by omega), Int.toNat_of_nonneg hi]
    rw [Nat.testBit_lt_two_pow (by omega), if_neg Bool.false_ne_true, hc]

theorem clampInt_eq {lo hi i : Int} (h : lo ≤ hi) : clampInt lo hi i = max lo (min hi i) := by
  unfold clampInt
  split <;> [skip; split] <;> omega

section integer
variable {f : FmtDesc} (hf : f.isInt = true) (r : Rounding) (rnd : Nat)
include hf

theorem roundTo_int (x : Num) : roundTo f r rnd x = roundToInt f r rnd x := if_pos hf

/-- An integer format gives its minimum or maximum for an infinity (R46). -/
theorem roundTo_int_inf (neg : Bool) : (roundTo f r rnd (.inf neg)).2 = flNV ∧
    intOf f (roundTo f r rnd (.inf neg)).1 = if neg then intMin f else intMax f := by
  rw [roundTo_int hf]
  have h := intMin_le_intMax f
  refine ⟨rfl, ?_⟩
  cases neg
  · exact intOf_intCode h le_rfl
  · exact intOf_intCode le_rfl h

/-- A finite value is rounded to an integer, and one past the range is clamped to it (R46). -/
theorem roundTo_int_finite (neg : Bool) (m : Nat) (e : Int) :
    let i := (roundInt r.mode rnd neg m e).1
    let x := roundTo f r rnd (.fin neg m e)
    x.1 < 2 ^ width f ∧ intOf f x.1 = max (intMin f) (min (intMax f) i) ∧
      x.2 = if i < intMin f ∨ intMax f < i then flNV else if (cut m e).inexact then flIX else 0 := by
  rw [roundTo_int hf]
  have h := intMin_le_intMax f
  have hr : roundToInt f r rnd (.fin neg m e) = let i := (roundInt r.mode rnd neg m e).1
      if (decide (i < intMin f) || decide (intMax f < i)) = true then (intCode f (clampInt (intMin f) (intMax f) i), flNV)
      else (intCode f i, if (cut m e).inexact then flIX else 0) := rfl
  rw [hr]
  generalize (roundInt r.mode rnd neg m e).1 = i
  simp only [Bool.or_eq_true, decide_eq_true_iff, clampInt_eq h]
  split
  · exact ⟨intCode_lt _ _, intOf_intCode (by omega) (by omega), rfl⟩
  · next hi => exact ⟨intCode_lt _ _, (intOf_intCode (by omega) (by omega)).trans (by omega), rfl⟩

end integer

/-- Settles O37: a bracket places the value between two codes, and each mode's choice between them is read off that place. -/
theorem roundingToAFormat : Obligations.RoundingToAFormat := by
  refine ⟨fun f mode sat rnd c neg m e hf hm _ hc hv => roundTo_exact hf hm rnd hc hv, fun f c hf hc => ?_, ?_, ?_, ?_⟩
  · rw [valueOf_magnitude hf hc]
    exact magValue_magnitude _ _ _
  · intro f mode sat rnd neg m e hf hmode _
    dsimp only
    rw [roundTo_finite hf]
    refine ⟨?_, fun hm => ?_⟩
    · rintro rfl
      exact roundFinite_zero
    have hp := places_bracket (floatFmt f) hm e
    refine ⟨_, roundsUp mode neg rnd (bracket (floatFmt f).t (floatFmt f).b m e), hp.lower, hp.upper, roundsUp_iff hp hmode neg rnd,
      fun hn hs => roundFinite_unsigned hm hp hn hs, fun hs hc => ?_, fun hs hc => ?_⟩
    · rw [roundFinite_within (r := ⟨mode, sat⟩) (rnd := rnd) hm hp hs hc]
      exact ⟨rfl, rfl⟩
    · rw [roundFinite_overflow (r := ⟨mode, sat⟩) (rnd := rnd) hm hs hc]
      exact ⟨rfl, fun h => overflowCode_toward (h.imp_right overflowsAway_false), fun hs h => overflowCode_away hs (overflowsAway_true h)⟩
  · intro f mode sat sig rnd hf
    dsimp only
    simp only [roundTo_nan hf, roundTo_inf hf]
    refine ⟨fun q hq => ?_, fun hq => ?_, fun neg => ⟨fun hn hs => ?_, fun hs => deliverInf_signed hs⟩⟩
    · simp [deliverNan, nanCode, hq]
    · simp [deliverNan, nanCode, hq]
    · simp [deliverInf, hn, hs, refuseNegative, nanCode]
  · intro f mode sat rnd hf hmode
    refine ⟨fun sig => by rw [roundTo_int hf]; rfl, fun neg => roundTo_int_inf hf _ rnd neg, fun neg m e => ?_⟩
    have hp : (cut m e).Places _ _ (rat false m e) := places_cut m e
    refine ⟨(cut m e).code, roundsUp mode neg rnd (cut m e), hp.lower, hp.upper, roundsUp_iff hp hmode neg rnd, ?_⟩
    obtain ⟨hlt, hval, hfl⟩ := roundTo_int_finite hf ⟨mode, sat⟩ rnd neg m e
    exact ⟨hlt, hval, hfl.trans (by simp [hp.inexact, roundInt])⟩

end Sys2Proof.Machine
end

section
/-! PROOFS (encoding, R54-R71). A format is a concatenation of fields, so that a word is in the format exactly when the fields read from it are those.
This one fact per format is read in both directions: from the encoder to the decoder and back. -/

namespace Sys2Proof
open BitVec (ofBool extractLsb'_append_eq_left extractLsb'_append_eq_right extractLsb'_append_eq_of_le extractLsb'_append_eq_of_add_le
  extractLsb'_append_extractLsb'_eq_extractLsb')

/-! ### Bits and parts of fields -/

/-- A one-bit field holds a flag when it reads back as it. -/
theorem eq_ofBool_iff {x : BitVec 1} {b : Bool} : x = ofBool b ↔ bit x = b := by
  revert x b
  decide

theorem bit_eq_false_iff {x : BitVec 1} : bit x = false ↔ x = 0#1 := eq_ofBool_iff.symm

/-- A slice of a word is two slices next to each other. -/
theorem slice_eq_append_iff {n s : Nat} (a b : Nat) {w : BitVec n} {x : BitVec a} {y : BitVec b} :
    w.extractLsb' s (a + b) = x ++ y ↔ w.extractLsb' (s + b) a = x ∧ w.extractLsb' s b = y := by
  rw [← extractLsb'_append_extractLsb'_eq_extractLsb' rfl]
  constructor
  · intro h
    have hl := congrArg (BitVec.extractLsb' b a) h
    have hr := congrArg (BitVec.extractLsb' 0 b) h
    rw [extractLsb'_append_eq_left, extractLsb'_append_eq_left] at hl
    rw [extractLsb'_append_eq_right, extractLsb'_append_eq_right] at hr
    exact ⟨hl, hr⟩
  · rintro ⟨rfl, rfl⟩
    rfl

/-- Two parts make up a value when they are its slices. -/
theorem append_eq_iff (a b : Nat) {x : BitVec a} {y : BitVec b} {z : BitVec (a + b)} :
    x ++ y = z ↔ x = z.extractLsb' b a ∧ y = z.extractLsb' 0 b := by
  have h := slice_eq_append_iff (s := 0) a b (w := z) (x := x) (y := y)
  rw [BitVec.extractLsb'_eq_self, Nat.zero_add] at h
  rw [eq_comm, h, eq_comm, eq_comm (b := y)]

section parts
variable {w : W32} {p : PIdx} {b : Bool} {x : BitVec 2} {y : BitVec 3}

theorem fD_eq_inP_iff : fD w = inP p ↔ w.extractLsb' 24 2 = 0 ∧ w.extractLsb' 21 3 = p := slice_eq_append_iff 2 3

theorem fA_eq_inP_iff : fA w = inP p ↔ w.extractLsb' 19 2 = 0 ∧ w.extractLsb' 16 3 = p := slice_eq_append_iff 2 3

theorem fB_eq_inP_iff : fB w = inP p ↔ w.extractLsb' 14 2 = 0 ∧ w.extractLsb' 11 3 = p := slice_eq_append_iff 2 3

theorem fA_eq_append_iff : fA w = x ++ y ↔ w.extractLsb' 19 2 = x ∧ w.extractLsb' 16 3 = y := slice_eq_append_iff 2 3

theorem fB_eq_append_iff : fB w = y ++ x ↔ w.extractLsb' 13 3 = y ∧ w.extractLsb' 11 2 = x := slice_eq_append_iff 3 2

theorem fD_eq_flag_iff : fD w = 0#4 ++ ofBool b ↔ w.extractLsb' 22 4 = 0 ∧ bit (w.extractLsb' 21 1) = b := by
  rw [← eq_ofBool_iff]
  exact slice_eq_append_iff 4 1

theorem fA_eq_flag_iff : fA w = 0#4 ++ ofBool b ↔ w.extractLsb' 17 4 = 0 ∧ bit (w.extractLsb' 16 1) = b := by
  rw [← eq_ofBool_iff]
  exact slice_eq_append_iff 4 1

theorem fB_eq_inSend_iff {psn inv : Bool} :
    fB w = inSend psn inv ↔ w.extractLsb' 13 3 = 0 ∧ bit (w.extractLsb' 12 1) = psn ∧ bit (w.extractLsb' 11 1) = inv := by
  rw [← eq_ofBool_iff, ← eq_ofBool_iff, ← and_assoc]
  exact (slice_eq_append_iff 4 1).trans (and_congr_left' (slice_eq_append_iff 3 1))

theorem fClass_eq_append_iff : fClass w = x ++ ofBool b ↔ w.extractLsb' 14 2 = x ∧ bit (w.extractLsb' 13 1) = b := by
  rw [← eq_ofBool_iff]
  exact slice_eq_append_iff 2 1

theorem fSize_eq_append_iff {z : BitVec 1} : fSize w = z ++ ofBool b ↔ w.extractLsb' 6 1 = z ∧ bit (w.extractLsb' 5 1) = b := by
  rw [← eq_ofBool_iff]
  exact slice_eq_append_iff 1 1

theorem fP_eq_append_iff {z : BitVec 1} : fP w = z ++ x ↔ w.extractLsb' 9 1 = z ∧ w.extractLsb' 7 2 = x := slice_eq_append_iff 1 2

theorem fImm_eq_shift_iff {s : BitVec 6} : fImm w = 0#8 ++ x ++ s ↔ w.extractLsb' 6 10 = 0#8 ++ x ∧ w.extractLsb' 0 6 = s := slice_eq_append_iff 10 6

theorem fImm_eq_lea_iff {z : BitVec 2} {r : BitVec 5} {q s t : BitVec 3} : fImm w = z ++ q ++ r ++ s ++ t ↔
    (((w.extractLsb' 14 2 = z ∧ w.extractLsb' 11 3 = q) ∧ w.extractLsb' 6 5 = r) ∧ w.extractLsb' 3 3 = s) ∧ w.extractLsb' 0 3 = t :=
  (slice_eq_append_iff 13 3).trans (and_congr_left' ((slice_eq_append_iff 10 3).trans (and_congr_left' ((slice_eq_append_iff 5 5).trans (and_congr_left' (slice_eq_append_iff 2 3))))))

theorem fDesc_eq_iff {f : FmtDesc} : fDesc w = f ↔ fVar w = f.extractLsb' 5 2 ∧ fFmt w = f.extractLsb' 0 5 := append_eq_iff 2 5

theorem fSrcDesc_eq_iff {f : FmtDesc} : fSrcDesc w = f ↔ w.extractLsb' 2 2 = f.extractLsb' 5 2 ∧ fB w = f.extractLsb' 0 5 := append_eq_iff 2 5

theorem fDesc_eq_append_iff : fDesc w = 0#4 ++ y ↔ fVar w = 0 ∧ w.extractLsb' 9 2 = 0 ∧ w.extractLsb' 6 3 = y := by
  have h : fFmt w = 0#2 ++ y ↔ w.extractLsb' 9 2 = 0 ∧ w.extractLsb' 6 3 = y := slice_eq_append_iff 2 3
  have hv (y : BitVec 3) : BitVec.extractLsb' 5 2 (0#4 ++ y) = 0 := by
    revert y
    decide
  have hf (y : BitVec 3) : BitVec.extractLsb' 0 5 (0#4 ++ y) = 0#2 ++ y := by
    revert y
    decide
  rw [fDesc_eq_iff, ← h, hv, hf]

end parts

theorem inFile_eq_iff {f : FeFile} {r : BitVec 5} : r = inFile f ↔ fileOf r = some f := by
  cases f <;> revert r <;> decide

theorem inGroup_eq_iff {g : Option (BitVec 3)} {r : BitVec 5} : r = inGroup g ↔ groupOf r = some g := by
  revert g r
  decide

/-! ### Words of a format -/

section formats
variable {w : W32} {m : BitVec 6} {d a b : BitVec 5} {op : BitVec 6} {v u r : Bool} {p c q t z : BitVec 3}

theorem formatR_eq_iff_fn {fn : BitVec 11} : formatR m d a b fn = w ↔ fMajor w = m ∧ fD w = d ∧ fA w = a ∧ fB w = b ∧ w.extractLsb' 0 11 = fn := by
  unfold fMajor fD fA fB formatR
  constructor
  · rintro rfl
    simp [extractLsb'_append_eq_of_le, extractLsb'_append_eq_of_add_le, -Nat.reduceAdd]
  · rintro ⟨rfl, rfl, rfl, rfl, rfl⟩
    simp [extractLsb'_append_extractLsb'_eq_extractLsb', -Nat.reduceAdd]

/-- Format R with fn by its parts. -/
theorem formatR_parts_eq_iff {y : BitVec 1} {x : BitVec 1} : formatR m d a b (y ++ p ++ x ++ op) = w ↔
    fMajor w = m ∧ fD w = d ∧ fA w = a ∧ fB w = b ∧ fZ w = y ∧ fP w = p ∧ fW w = x ∧ fOp w = op := by
  have h : w.extractLsb' 0 11 = y ++ p ++ x ++ op ↔ ((fZ w = y ∧ fP w = p) ∧ fW w = x) ∧ fOp w = op :=
    (slice_eq_append_iff 5 6).trans (and_congr_left' ((slice_eq_append_iff 4 1).trans (and_congr_left' (slice_eq_append_iff 1 3))))
  simp only [formatR_eq_iff_fn, h, and_assoc]

/-- Format R with fn as a number. -/
theorem formatR_eq_iff {fn : BitVec 11} : formatR m d a b fn = w ↔ fMajor w = m ∧ fD w = d ∧ fA w = a ∧ fB w = b ∧
    fZ w = fn.extractLsb' 10 1 ∧ fP w = fn.extractLsb' 7 3 ∧ fW w = fn.extractLsb' 6 1 ∧ fOp w = fn.extractLsb' 0 6 := by
  have h : fn = fn.extractLsb' 10 1 ++ fn.extractLsb' 7 3 ++ fn.extractLsb' 6 1 ++ fn.extractLsb' 0 6 := by
    simp [extractLsb'_append_extractLsb'_eq_extractLsb', -Nat.reduceAdd]
  conv_lhs => rw [h]
  exact formatR_parts_eq_iff

section fn

@[simp] theorem extractLsb'_fnR_fZ : (fnR p v op).extractLsb' 10 1 = 0 := by
  simp [fnR, extractLsb'_append_eq_of_le, -Nat.reduceAdd]

@[simp] theorem extractLsb'_fnR_fP : (fnR p v op).extractLsb' 7 3 = p := by
  simp [fnR, extractLsb'_append_eq_of_le, extractLsb'_append_eq_of_add_le, -Nat.reduceAdd]

@[simp] theorem extractLsb'_fnR_fW : (fnR p v op).extractLsb' 6 1 = ofBool v := by
  simp [fnR, extractLsb'_append_eq_of_le, extractLsb'_append_eq_of_add_le, -Nat.reduceAdd]

@[simp] theorem extractLsb'_fnR_fOp : (fnR p v op).extractLsb' 0 6 = op := extractLsb'_append_eq_right

end fn

theorem formatR_rld_eq_iff : formatR m d a b (ofBool u ++ z ++ 0#1 ++ 0#6) = w ↔
    fMajor w = m ∧ fD w = d ∧ fA w = a ∧ fB w = b ∧ bit (fZ w) = u ∧ fP w = z ∧ fW w = 0 ∧ fOp w = 0 := by
  rw [← eq_ofBool_iff]
  exact formatR_parts_eq_iff

theorem formatR_ramo_eq_iff : formatR m d a b (0#3 ++ ofBool v ++ ofBool r ++ op) = w ↔ fMajor w = m ∧ fD w = d ∧ fA w = a ∧ fB w = b ∧
    w.extractLsb' 8 3 = 0 ∧ bit (w.extractLsb' 7 1) = v ∧ bit (w.extractLsb' 6 1) = r ∧ w.extractLsb' 0 6 = op := by
  have h : w.extractLsb' 0 11 = 0#3 ++ ofBool v ++ ofBool r ++ op ↔
      ((w.extractLsb' 8 3 = 0 ∧ w.extractLsb' 7 1 = ofBool v) ∧ w.extractLsb' 6 1 = ofBool r) ∧ w.extractLsb' 0 6 = op :=
    (slice_eq_append_iff 5 6).trans (and_congr_left' ((slice_eq_append_iff 4 1).trans (and_congr_left' (slice_eq_append_iff 3 1))))
  simp only [formatR_eq_iff_fn, h, eq_ofBool_iff, and_assoc]

theorem formatI_eq_iff {i : BitVec 16} : formatI m d a i = w ↔ fMajor w = m ∧ fD w = d ∧ fA w = a ∧ fImm w = i := by
  unfold fMajor fD fA fImm formatI
  constructor
  · rintro rfl
    simp [extractLsb'_append_eq_of_le, extractLsb'_append_eq_of_add_le, -Nat.reduceAdd]
  · rintro ⟨rfl, rfl, rfl, rfl⟩
    simp [extractLsb'_append_extractLsb'_eq_extractLsb', -Nat.reduceAdd]

theorem formatB_eq_iff {disp : BitVec 21} : formatB m d disp = w ↔ fMajor w = m ∧ fD w = d ∧ fDisp w = disp := by
  unfold fMajor fD fDisp formatB
  constructor
  · rintro rfl
    simp [extractLsb'_append_eq_of_le, extractLsb'_append_eq_of_add_le, -Nat.reduceAdd]
  · rintro ⟨rfl, rfl, rfl⟩
    simp [extractLsb'_append_extractLsb'_eq_extractLsb', -Nat.reduceAdd]

theorem formatM_eq_iff {s : BitVec 2} {o : BitVec 5} : formatM m d a c q t s o = w ↔
    fMajor w = m ∧ fD w = d ∧ fA w = a ∧ fClass w = c ∧ fSet w = q ∧ fWait w = t ∧ fSize w = s ∧ fOff w = o := by
  unfold fMajor fD fA fClass fSet fWait fSize fOff formatM
  constructor
  · rintro rfl
    simp [extractLsb'_append_eq_of_le, extractLsb'_append_eq_of_add_le, -Nat.reduceAdd]
  · rintro ⟨rfl, rfl, rfl, rfl, rfl, rfl, rfl, rfl⟩
    simp [extractLsb'_append_extractLsb'_eq_extractLsb', -Nat.reduceAdd]

theorem formatV_eq_iff {f : FmtDesc} {o : BitVec 4} : formatV m d a b f o = w ↔
    fMajor w = m ∧ fD w = d ∧ fA w = a ∧ fB w = b ∧ fDesc w = f ∧ fVop w = o := by
  rw [fDesc_eq_iff]
  unfold fMajor fD fA fB fVar fFmt fVop formatV
  constructor
  · rintro rfl
    simp [extractLsb'_append_eq_of_le, extractLsb'_append_eq_of_add_le, -Nat.reduceAdd]
  · rintro ⟨rfl, rfl, rfl, rfl, ⟨hv, hf⟩, rfl⟩
    rw [← hv, ← hf]
    simp [extractLsb'_append_extractLsb'_eq_extractLsb', -Nat.reduceAdd]

theorem formatVcvt_eq_iff {f g : FmtDesc} {o : BitVec 2} : formatVcvt d a f g o = w ↔
    fMajor w = 0x2A#6 ∧ fD w = d ∧ fA w = a ∧ fDesc w = f ∧ fSrcDesc w = g ∧ w.extractLsb' 0 2 = o := by
  rw [fDesc_eq_iff, fSrcDesc_eq_iff]
  unfold fMajor fD fA fB fVar fFmt formatVcvt
  constructor
  · rintro rfl
    simp [extractLsb'_append_eq_of_le, extractLsb'_append_eq_of_add_le, -Nat.reduceAdd]
  · rintro ⟨hm, rfl, rfl, ⟨hv, hf⟩, ⟨hu, hg⟩, rfl⟩
    rw [← hm, ← hv, ← hf, ← hu, ← hg]
    simp [extractLsb'_append_extractLsb'_eq_extractLsb', -Nat.reduceAdd]

theorem formatVM_eq_iff {x o : BitVec 4} : formatVM v d x c q t z o = w ↔ fMajor w = 0x20#6 ∧ fD w = d ∧ bit (w.extractLsb' 20 1) = v ∧
    w.extractLsb' 16 4 = x ∧ fClass w = c ∧ fSet w = q ∧ fWait w = t ∧ w.extractLsb' 4 3 = z ∧ w.extractLsb' 0 4 = o := by
  rw [← eq_ofBool_iff]
  unfold fMajor fD fClass fSet fWait formatVM
  constructor
  · rintro rfl
    simp [extractLsb'_append_eq_of_le, extractLsb'_append_eq_of_add_le, -Nat.reduceAdd]
  · rintro ⟨hm, rfl, hv, rfl, rfl, rfl, rfl, rfl, rfl⟩
    rw [← hm, ← hv]
    simp [extractLsb'_append_extractLsb'_eq_extractLsb', -Nat.reduceAdd]

theorem formatAmo_eq_iff {o : BitVec 5} : formatAmo d a b v r c o = w ↔ fMajor w = 0x21#6 ∧ fD w = d ∧ fA w = a ∧ fB w = b ∧ fZ w = 0#1 ∧
    bit (w.extractLsb' 9 1) = v ∧ bit (w.extractLsb' 8 1) = r ∧ w.extractLsb' 5 3 = c ∧ w.extractLsb' 0 5 = o := by
  rw [← eq_ofBool_iff, ← eq_ofBool_iff]
  unfold fMajor fD fA fB fZ formatAmo
  constructor
  · rintro rfl
    simp [extractLsb'_append_eq_of_le, extractLsb'_append_eq_of_add_le, -Nat.reduceAdd]
  · rintro ⟨hm, rfl, rfl, rfl, hz, hv, hr, rfl, rfl⟩
    rw [← hm, ← hv, ← hr, ← hz]
    simp [extractLsb'_append_extractLsb'_eq_extractLsb', -Nat.reduceAdd]

theorem formatF_eq_iff {o : BitVec 2} {x y : BitVec 6} : formatF o d a x y = w ↔ fMajor w = 0x0A#6 ∧ fD w = d ∧ fA w = a ∧
    w.extractLsb' 14 2 = o ∧ w.extractLsb' 8 6 = x ∧ w.extractLsb' 6 2 = 0#2 ∧ w.extractLsb' 0 6 = y := by
  unfold fMajor fD fA formatF
  constructor
  · rintro rfl
    simp [extractLsb'_append_eq_of_le, extractLsb'_append_eq_of_add_le, -Nat.reduceAdd]
  · rintro ⟨hm, rfl, rfl, rfl, rfl, hz, rfl⟩
    rw [← hm, ← hz]
    simp [extractLsb'_append_extractLsb'_eq_extractLsb', -Nat.reduceAdd]

theorem formatK_eq_iff {k : BitVec 9} : formatK d a k op = w ↔
    fMajor w = 0x38#6 ∧ fD w = d ∧ fA w = a ∧ w.extractLsb' 7 4 ++ fB w = k ∧ fW w = 0#1 ∧ fOp w = op := by
  have hk : w.extractLsb' 7 4 ++ fB w = k ↔ w.extractLsb' 7 4 = k.extractLsb' 5 4 ∧ fB w = k.extractLsb' 0 5 := append_eq_iff 4 5
  rw [hk]
  unfold fMajor fD fA fB fW fOp formatK
  constructor
  · rintro rfl
    simp [extractLsb'_append_eq_of_le, extractLsb'_append_eq_of_add_le, -Nat.reduceAdd]
  · rintro ⟨hm, rfl, rfl, ⟨hv, hf⟩, hz, rfl⟩
    rw [← hm, ← hv, ← hf, ← hz]
    simp [extractLsb'_append_extractLsb'_eq_extractLsb', -Nat.reduceAdd]

theorem formatC_eq_iff {e : BitVec 4} {h : CmdHead} : formatC e op h = w ↔ fMajor w = 0x3F#6 ∧ w.extractLsb' 22 4 = e ∧ w.extractLsb' 16 6 = op ∧
    (⟨w.extractLsb' 12 4, w.extractLsb' 10 2, w.extractLsb' 5 5, w.extractLsb' 2 3⟩ : CmdHead) = h ∧ w.extractLsb' 0 2 = 0#2 := by
  unfold fMajor formatC
  constructor
  · rintro rfl
    simp [extractLsb'_append_eq_of_le, extractLsb'_append_eq_of_add_le, -Nat.reduceAdd]
  · rintro ⟨hm, rfl, rfl, rfl, hz⟩
    rw [← hm, ← hz]
    simp [extractLsb'_append_extractLsb'_eq_extractLsb', -Nat.reduceAdd]

end formats
end Sys2Proof
end

section
/-! Reading every encoding back, family by family (R54-R71). -/

namespace Sys2Proof

/-! ### Every encoding is read back (R54-R61) -/

/-- The decoder's layout reads the instruction back from its word. -/
def ReadBack (i : Instr) : Prop := ∀ w, encodeWord i = w → layoutWord w = .ok i

section families
variable (d a b : BitVec 5) (v r u : Bool) (p q t z : BitVec 3)

theorem readBack_alu : ∀ i ∈ [Instr.add d a b v, .sub d a b v, .shl d a b v, .shr d a b v, .sra d a b v, .rotl d a b v, .mul d a b v, .div d a b v, .divu d a b v,
    .rem d a b v, .remu d a b v, .and d a b, .or d a b, .xor d a b, .andn d a b, .orn d a b, .min d a b, .max d a b, .minu d a b, .maxu d a b, .mulh d a b, .mulhu d a b,
    .slt d a b, .sltu d a b, .clz d a v, .ctz d a v, .popc d a v, .bswap d a v, .sel d a b p], ReadBack i := by
  simp only [List.forall_mem_cons, List.not_mem_nil, false_imp_iff, implies_true, and_true]
  and_intros
  all_goals
    intro w hw
    unfold encodeWord at hw
    dsimp only at hw
    simp only [formatR_eq_iff, extractLsb'_fnR_fZ, extractLsb'_fnR_fP, extractLsb'_fnR_fW, extractLsb'_fnR_fOp, eq_ofBool_iff, bit_eq_false_iff] at hw
    simp [layoutWord, decodeAlu, unlessUsed, hw]

theorem readBack_immediate (n : BitVec 16) (s y : BitVec 6) : ∀ i ∈ [Instr.addi d a n, .andi d a n, .ori d a n, .xori d a n, .slti d a n, .sltui d a n, .shli d a s, .shri d a s,
    .srai d a s, .lui d n, .lhi d v n, .lea d a b p, .extf d a s y, .extfs d a s y, .insf d a s y], ReadBack i := by
  simp only [List.forall_mem_cons, List.not_mem_nil, false_imp_iff, implies_true, and_true]
  and_intros
  all_goals
    intro w hw
    unfold encodeWord at hw
    dsimp only at hw
    simp only [formatI_eq_iff, formatF_eq_iff, fImm_eq_shift_iff, fImm_eq_lea_iff, fA_eq_flag_iff] at hw
    simp [layoutWord, decodeShiftImm, decodeField, unlessUsed, hw]

theorem readBack_compare : ∀ i ∈ [Instr.cmpEq p a b, .cmpNe p a b, .cmpLt p a b, .cmpGe p a b, .cmpLtu p a b, .cmpGeu p a b, .pand p q t, .por p q t, .pxor p q t, .pnot p q,
    .pmov p q], ReadBack i := by
  simp only [List.forall_mem_cons, List.not_mem_nil, false_imp_iff, implies_true, and_true]
  and_intros
  all_goals
    intro w hw
    unfold encodeWord at hw
    dsimp only at hw
    simp only [formatR_eq_iff, fD_eq_inP_iff, fA_eq_inP_iff, fB_eq_inP_iff] at hw
    simp [layoutWord, decodeCmp, unlessUsed, hw]

theorem slice_eq_fD {w : W32} : w.extractLsb' 21 5 = fD w := rfl

theorem readBack_jump (x : BitVec 21) : ∀ i ∈ [Instr.b x, .bp p x, .bnp p x, .bz a x, .bnz a x, .call x, .loop a x, .jr a, .jalr d a, .ret], ReadBack i := by
  simp only [List.forall_mem_cons, List.not_mem_nil, false_imp_iff, implies_true, and_true]
  and_intros
  all_goals
    intro w hw
    unfold encodeWord at hw
    dsimp only at hw
    simp only [formatR_eq_iff, formatB_eq_iff, fD_eq_inP_iff] at hw
    simp [layoutWord, slice_eq_fD, decodeJump, unlessUsed, hw]

theorem readBack_memory (x y : BitVec 4) (c s : BitVec 2) : ∀ i ∈ [Instr.ld d a p q t s b, .ldu d a p q t s b, .st d a p q t s b, .ldS d a p q t s b, .stS d a p q t s b,
    .stFill d a p q t s b, .ldP d a p q t s b, .ldSync d a c v q t r b, .ldV d x p q t z y, .stV d x p q t z y], ReadBack i := by
  simp only [List.forall_mem_cons, List.not_mem_nil, false_imp_iff, implies_true, and_true]
  and_intros
  all_goals
    intro w hw
    unfold encodeWord at hw
    dsimp only at hw
    simp only [formatM_eq_iff, formatVM_eq_iff, fClass_eq_append_iff, fSize_eq_append_iff] at hw
    simp [layoutWord, hw]

theorem readBack_atomic : ∀ i ∈ [Instr.amoAdd d a b v r p, .amoAnd d a b v r p, .amoOr d a b v r p, .amoXor d a b v r p, .amoMin d a b v r p, .amoMax d a b v r p,
    .amoMinu d a b v r p, .amoMaxu d a b v r p, .amoSwap d a b v r p, .amoCas d a b v p, .amoFaddF32 d a b r p, .amoFaddBf16 d a b r p, .amoFminF32 d a b r p,
    .amoFmaxF32 d a b r p], ReadBack i := by
  simp only [List.forall_mem_cons, List.not_mem_nil, false_imp_iff, implies_true, and_true]
  and_intros
  all_goals
    intro w hw
    unfold encodeWord at hw
    dsimp only at hw
    simp only [formatAmo_eq_iff] at hw
    simp [layoutWord, decodeAmo, unlessUsed, hw]

theorem readBack_stream : ∀ i ∈ [Instr.sbind d a b, .sjoin d a, .sleave a, .spub a b, .srel a b, .shead d a, .stail d a, .sclose a], ReadBack i := by
  simp only [List.forall_mem_cons, List.not_mem_nil, false_imp_iff, implies_true, and_true]
  and_intros
  all_goals
    intro w hw
    unfold encodeWord at hw
    dsimp only at hw
    simp only [formatR_eq_iff] at hw
    simp [layoutWord, decodeStream, unlessUsed, hw]

theorem readBack_fence (c : BitVec 2) : ∀ i ∈ [Instr.fence c p, .l1Inv, .fenceEng p b], ReadBack i := by
  simp only [List.forall_mem_cons, List.not_mem_nil, false_imp_iff, implies_true, and_true]
  and_intros
  all_goals
    intro w hw
    unfold encodeWord at hw
    dsimp only at hw
    simp only [formatR_eq_iff, fA_eq_inP_iff, fA_eq_append_iff] at hw
    simp [layoutWord, decodeFence, unlessUsed, hw]

theorem readBack_sbwait (m : BitVec 7) : ReadBack (.sbwait m) := by
  intro w hw
  unfold encodeWord at hw
  dsimp only at hw
  obtain ⟨hm, hd, ha, hb, hz, hp, hv, ho⟩ := formatR_eq_iff.1 hw
  obtain ⟨h, hx⟩ := fB_eq_append_iff.1 hb
  have hn : w.extractLsb' 11 2 ++ fA w = m := (append_eq_iff 2 5).2 ⟨hx, ha⟩
  simp [layoutWord, decodeFence, unlessUsed, hm, hd, hz, hp, hv, ho, h, hn]

theorem readBack_fullEmpty (f : FeFile) : ∀ i ∈ [Instr.feSet a f, .feClr a f, .feTest p a f, .feMode v a true, .feMode v a false, .park a f], ReadBack i := by
  simp only [List.forall_mem_cons, List.not_mem_nil, false_imp_iff, implies_true, and_true]
  and_intros
  all_goals
    intro w hw
    unfold encodeWord at hw
    dsimp only at hw
    simp only [formatR_eq_iff, inFile_eq_iff, fD_eq_inP_iff, fD_eq_flag_iff] at hw
    simp [layoutWord, decodeFe, unlessUsed, hw]
theorem readBack_integerLanes (f : BitVec 3) : ∀ i ∈ [Instr.vadd d a b f, .vsub d a b f, .vmul d a b f, .vmin d a b f, .vmax d a b f, .vabs d a f, .vneg d a f, .vand d a b, .vor d a b, .vxor d a b,
    .vshl d a b f, .vshr d a b f, .vsra d a b f, .vcmp d a b f, .vsel d a b f], ReadBack i := by
  simp only [List.forall_mem_cons, List.not_mem_nil, false_imp_iff, implies_true, and_true]
  and_intros
  all_goals
    intro w hw
    unfold encodeWord at hw
    dsimp only at hw
    simp only [formatV_eq_iff, fDesc_eq_append_iff] at hw
    simp [layoutWord, decodeVi, unlessUsed, hw]

theorem readBack_floatLanes (f : FmtDesc) : ∀ i ∈ [Instr.vfadd d a b f, .vfsub d a b f, .vfmul d a b f, .vfma d a b f, .vfmin d a b f, .vfmax d a b f, .vfabs d a f, .vfneg d a f, .vfcmp d a b f], ReadBack i := by
  simp only [List.forall_mem_cons, List.not_mem_nil, false_imp_iff, implies_true, and_true]
  and_intros
  all_goals
    intro w hw
    unfold encodeWord at hw
    dsimp only at hw
    simp only [formatV_eq_iff] at hw
    simp [layoutWord, decodeVf, unlessUsed, hw]

theorem readBack_conversion (f g : FmtDesc) : ∀ i ∈ [Instr.vcvt d a f g, .vpack d a f g, .vunpack d a f g], ReadBack i := by
  simp only [List.forall_mem_cons, List.not_mem_nil, false_imp_iff, implies_true, and_true]
  and_intros
  all_goals
    intro w hw
    unfold encodeWord at hw
    dsimp only at hw
    simp only [formatVcvt_eq_iff] at hw
    simp [layoutWord, decodeVcvt, hw]

theorem readBack_special : ∀ i ∈ [Instr.vrcp d a, .vrsq d a, .vexp2 d a, .vlog2 d a, .vrcpstep d a b, .vrsqstep d a b], ReadBack i := by
  simp only [List.forall_mem_cons, List.not_mem_nil, false_imp_iff, implies_true, and_true]
  and_intros
  all_goals
    intro w hw
    unfold encodeWord at hw
    dsimp only at hw
    simp only [formatV_eq_iff] at hw
    simp [layoutWord, decodeVsf, unlessUsed, hw]

theorem readBack_movement (f : FmtDesc) : ∀ i ∈ [Instr.vsum d a f, .vmaxr d a f, .vperm d a b, .vbcast d a b f, .vbfly d a p f, .vlen d a b], ReadBack i := by
  simp only [List.forall_mem_cons, List.not_mem_nil, false_imp_iff, implies_true, and_true]
  and_intros
  all_goals
    intro w hw
    unfold encodeWord at hw
    dsimp only at hw
    simp only [formatV_eq_iff, fB_eq_inP_iff] at hw
    simp [layoutWord, decodeVperm, unlessUsed, hw]

theorem readBack_scales (f : FmtDesc) : ∀ i ∈ [Instr.vbscale d a b f, .vquant d a b f, .vdequant d a b f, .vsmerge d a b], ReadBack i := by
  simp only [List.forall_mem_cons, List.not_mem_nil, false_imp_iff, implies_true, and_true]
  and_intros
  all_goals
    intro w hw
    unfold encodeWord at hw
    dsimp only at hw
    simp only [formatV_eq_iff] at hw
    simp [layoutWord, decodeVmx, hw]

theorem readBack_pipelines (f : FmtDesc) : ∀ i ∈ [Instr.vdice d a b true, .vdice d a b false, .vcsc d a b, .vnorm d a b f], ReadBack i := by
  simp only [List.forall_mem_cons, List.not_mem_nil, false_imp_iff, implies_true, and_true]
  and_intros
  all_goals
    intro w hw
    unfold encodeWord at hw
    dsimp only at hw
    simp only [formatV_eq_iff] at hw
    simp [layoutWord, decodeVdice, decodeVpre, hw]

theorem readBack_channel (g : Option (BitVec 3)) : ∀ i ∈ [Instr.recv d a g p, .peek d a g p, .send q a v r p, .sendx q a v r p u, .drop a, .clen d a], ReadBack i := by
  simp only [List.forall_mem_cons, List.not_mem_nil, false_imp_iff, implies_true, and_true]
  and_intros
  all_goals
    intro w hw
    unfold encodeWord at hw
    dsimp only at hw
    simp only [formatR_eq_iff, extractLsb'_fnR_fZ, extractLsb'_fnR_fP, extractLsb'_fnR_fW, extractLsb'_fnR_fOp, eq_ofBool_iff, bit_eq_false_iff, inGroup_eq_iff, fB_eq_inSend_iff, fD_eq_inP_iff] at hw
    simp [layoutWord, decodeChannel, unlessUsed, hw]

theorem readBack_handler : ∀ i ∈ [Instr.hndEnd, .hndMask a, .hndUnmask a, .hndPrio a b, .hndBind a b, .hndSelf d], ReadBack i := by
  simp only [List.forall_mem_cons, List.not_mem_nil, false_imp_iff, implies_true, and_true]
  and_intros
  all_goals
    intro w hw
    unfold encodeWord at hw
    dsimp only at hw
    simp only [formatR_eq_iff] at hw
    simp [layoutWord, decodeHandler, unlessUsed, hw]

theorem readBack_controller : ∀ i ∈ [Instr.ctlDone p a, .ctlPermit p a b, .ctlWait d a, .argSet a b, .cfgLoad d a b, .cfgDrain d b], ReadBack i := by
  simp only [List.forall_mem_cons, List.not_mem_nil, false_imp_iff, implies_true, and_true]
  and_intros
  all_goals
    intro w hw
    unfold encodeWord at hw
    dsimp only at hw
    simp only [formatR_eq_iff, fD_eq_inP_iff] at hw
    simp [layoutWord, decodeController, decodeConfig, unlessUsed, hw]

theorem readBack_remote (x : BitVec 2) : ∀ i ∈ [Instr.rst d a b p, .rstO d a b x, .rfence d, .mcred d a b, .grpSet d a b], ReadBack i := by
  simp only [List.forall_mem_cons, List.not_mem_nil, false_imp_iff, implies_true, and_true]
  and_intros
  all_goals
    intro w hw
    unfold encodeWord at hw
    dsimp only at hw
    simp only [formatR_eq_iff, extractLsb'_fnR_fZ, extractLsb'_fnR_fP, extractLsb'_fnR_fW, extractLsb'_fnR_fOp, eq_ofBool_iff, bit_eq_false_iff, fP_eq_append_iff] at hw
    simp [layoutWord, decodeRemote, unlessUsed, hw]

theorem readBack_rld : ReadBack (.rld d a b v p) := by
  intro w hw
  unfold encodeWord at hw
  dsimp only at hw
  rw [formatR_rld_eq_iff] at hw
  simp [layoutWord, decodeRemote, unlessUsed, hw]

theorem readBack_ramo (n : BitVec 6) : ReadBack (.ramo d a b v r n) := by
  intro w hw
  unfold encodeWord at hw
  dsimp only at hw
  rw [formatR_ramo_eq_iff] at hw
  simp [layoutWord, unlessUsed, hw]

theorem readBack_conversation : ∀ i ∈ [Instr.cvOpen d a b, .cvBind d a b, .cvSend d a b, .cvRecv d a b p, .cvChoose d a, .cvOffer d a b, .cvDeleg d a b, .cvClose d a, .cvState d a b, .tdBar d a, .tdStat d], ReadBack i := by
  simp only [List.forall_mem_cons, List.not_mem_nil, false_imp_iff, implies_true, and_true]
  and_intros
  all_goals
    intro w hw
    unfold encodeWord at hw
    dsimp only at hw
    simp only [formatR_eq_iff, extractLsb'_fnR_fZ, extractLsb'_fnR_fP, extractLsb'_fnR_fW, extractLsb'_fnR_fOp, eq_ofBool_iff, bit_eq_false_iff] at hw
    simp [layoutWord, decodeConv, decodeTrust, unlessUsed, hw]

theorem readBack_system (k : BitVec 9) : ∀ i ∈ [Instr.nop, .trap a b p, .eret, .fault a, .brk, .csrr d k, .csrw d a k, .csrs d a k, .csrc d a k], ReadBack i := by
  simp only [List.forall_mem_cons, List.not_mem_nil, false_imp_iff, implies_true, and_true]
  and_intros
  all_goals
    intro w hw
    unfold encodeWord at hw
    dsimp only at hw
    simp only [formatR_eq_iff, formatK_eq_iff, extractLsb'_fnR_fZ, extractLsb'_fnR_fP, extractLsb'_fnR_fW, extractLsb'_fnR_fOp, eq_ofBool_iff, bit_eq_false_iff] at hw
    simp [layoutWord, decodeSystem, unlessUsed, hw]

end families
end Sys2Proof
end

section
/-! Whole encodings: words and commands (R54, R62). -/

namespace Sys2Proof

/-! ### Whole encodings -/

/-- Every word that the encoder writes is read back: the instructions by their families, and the rest has no word. -/
theorem readBack_of_encodeWord_ne_zero (i : Instr) (h : encodeWord i ≠ 0) : ReadBack i := by
  cases i
  case add d a b v | sub d a b v | shl d a b v | shr d a b v | sra d a b v | rotl d a b v | mul d a b v | div d a b v | divu d a b v | rem d a b v | remu d a b v =>
    exact readBack_alu d a b v 0 _ (by simp)
  case and d a b | or d a b | xor d a b | andn d a b | orn d a b | min d a b | max d a b | minu d a b | maxu d a b | mulh d a b | mulhu d a b | slt d a b | sltu d a b =>
    exact readBack_alu d a b false 0 _ (by simp)
  case clz d a v | ctz d a v | popc d a v | bswap d a v => exact readBack_alu d a 0 v 0 _ (by simp)
  case sel d a b p => exact readBack_alu d a b false p _ (by simp)
  case addi d a n | andi d a n | ori d a n | xori d a n | slti d a n | sltui d a n => exact readBack_immediate d a 0 false 0 n 0 0 _ (by simp)
  case shli d a s | shri d a s | srai d a s => exact readBack_immediate d a 0 false 0 0 s 0 _ (by simp)
  case lui d n => exact readBack_immediate d 0 0 false 0 n 0 0 _ (by simp)
  case lhi d v n => exact readBack_immediate d 0 0 v 0 n 0 0 _ (by simp)
  case lea d a b p => exact readBack_immediate d a b false p 0 0 0 _ (by simp)
  case extf d a s y | extfs d a s y | insf d a s y => exact readBack_immediate d a 0 false 0 0 s y _ (by simp)
  case cmpEq p a b | cmpNe p a b | cmpLt p a b | cmpGe p a b | cmpLtu p a b | cmpGeu p a b => exact readBack_compare a b p 0 0 _ (by simp)
  case pand p q t | por p q t | pxor p q t => exact readBack_compare 0 0 p q t _ (by simp)
  case pnot p q | pmov p q => exact readBack_compare 0 0 p q 0 _ (by simp)
  case b x | call x => exact readBack_jump 0 0 0 x _ (by simp)
  case bp p x | bnp p x => exact readBack_jump 0 0 p x _ (by simp)
  case bz a x | bnz a x | loop a x => exact readBack_jump 0 a 0 x _ (by simp)
  case jr a => exact readBack_jump 0 a 0 0 _ (by simp)
  case jalr d a => exact readBack_jump d a 0 0 _ (by simp)
  case ret => exact readBack_jump 0 0 0 0 _ (by simp)
  case ld d a p q t s b | ldu d a p q t s b | st d a p q t s b | ldS d a p q t s b | stS d a p q t s b | stFill d a p q t s b | ldP d a p q t s b =>
    exact readBack_memory d a b false false p q t 0 0 0 0 s _ (by simp)
  case ldSync d a c v q t r b => exact readBack_memory d a b v r 0 q t 0 0 0 c 0 _ (by simp)
  case ldV d x p q t z y | stV d x p q t z y => exact readBack_memory d 0 0 false false p q t z x y 0 0 _ (by simp)
  case amoAdd d a b v r p | amoAnd d a b v r p | amoOr d a b v r p | amoXor d a b v r p | amoMin d a b v r p | amoMax d a b v r p | amoMinu d a b v r p
      | amoMaxu d a b v r p | amoSwap d a b v r p => exact readBack_atomic d a b v r p _ (by simp)
  case amoCas d a b v p => exact readBack_atomic d a b v false p _ (by simp)
  case amoFaddF32 d a b r p | amoFaddBf16 d a b r p | amoFminF32 d a b r p | amoFmaxF32 d a b r p => exact readBack_atomic d a b false r p _ (by simp)
  case sbind d a b => exact readBack_stream d a b _ (by simp)
  case sjoin d a | shead d a | stail d a => exact readBack_stream d a 0 _ (by simp)
  case spub a b | srel a b => exact readBack_stream 0 a b _ (by simp)
  case sleave a | sclose a => exact readBack_stream 0 a 0 _ (by simp)
  case fence c p => exact readBack_fence 0 p c _ (by simp)
  case l1Inv => exact readBack_fence 0 0 0 _ (by simp)
  case fenceEng p b => exact readBack_fence b p 0 _ (by simp)
  case sbwait m => exact readBack_sbwait m
  case feSet a f | feClr a f | park a f => exact readBack_fullEmpty a false 0 f _ (by simp)
  case feTest p a f => exact readBack_fullEmpty a false p f _ (by simp)
  case feMode v a r => cases r <;> exact readBack_fullEmpty a v 0 .x _ (by simp)
  case vadd d a b f | vsub d a b f | vmul d a b f | vmin d a b f | vmax d a b f | vshl d a b f | vshr d a b f | vsra d a b f | vcmp d a b f | vsel d a b f =>
    exact readBack_integerLanes d a b f _ (by simp)
  case vabs d a f | vneg d a f => exact readBack_integerLanes d a 0 f _ (by simp)
  case vand d a b | vor d a b | vxor d a b => exact readBack_integerLanes d a b 0 _ (by simp)
  case vfadd d a b f | vfsub d a b f | vfmul d a b f | vfma d a b f | vfmin d a b f | vfmax d a b f | vfcmp d a b f => exact readBack_floatLanes d a b f _ (by simp)
  case vfabs d a f | vfneg d a f => exact readBack_floatLanes d a 0 f _ (by simp)
  case vcvt d a f g | vpack d a f g | vunpack d a f g => exact readBack_conversion d a f g _ (by simp)
  case vrcp d a | vrsq d a | vexp2 d a | vlog2 d a => exact readBack_special d a 0 _ (by simp)
  case vrcpstep d a b | vrsqstep d a b => exact readBack_special d a b _ (by simp)
  case vsum d a f | vmaxr d a f => exact readBack_movement d a 0 0 f _ (by simp)
  case vperm d a b | vlen d a b => exact readBack_movement d a b 0 0 _ (by simp)
  case vbcast d a b f => exact readBack_movement d a b 0 f _ (by simp)
  case vbfly d a p f => exact readBack_movement d a 0 p f _ (by simp)
  case vbscale d a b f | vquant d a b f | vdequant d a b f => exact readBack_scales d a b f _ (by simp)
  case vsmerge d a b => exact readBack_scales d a b 0 _ (by simp)
  case vdice d a b v => cases v <;> exact readBack_pipelines d a b 0 _ (by simp)
  case vcsc d a b => exact readBack_pipelines d a b 0 _ (by simp)
  case vnorm d a b f => exact readBack_pipelines d a b f _ (by simp)
  case recv d a g p | peek d a g p => exact readBack_channel d a false false false p 0 g _ (by simp)
  case send q a v r p => exact readBack_channel 0 a v r false p q none _ (by simp)
  case sendx q a v r p u => exact readBack_channel 0 a v r u p q none _ (by simp)
  case drop a => exact readBack_channel 0 a false false false 0 0 none _ (by simp)
  case clen d a => exact readBack_channel d a false false false 0 0 none _ (by simp)
  case hndEnd => exact readBack_handler 0 0 0 _ (by simp)
  case hndMask a | hndUnmask a => exact readBack_handler 0 a 0 _ (by simp)
  case hndPrio a b | hndBind a b => exact readBack_handler 0 a b _ (by simp)
  case hndSelf d => exact readBack_handler d 0 0 _ (by simp)
  case ctlDone p a => exact readBack_controller 0 a 0 p _ (by simp)
  case ctlPermit p a b => exact readBack_controller 0 a b p _ (by simp)
  case ctlWait d a => exact readBack_controller d a 0 0 _ (by simp)
  case argSet a b => exact readBack_controller 0 a b 0 _ (by simp)
  case cfgLoad d a b => exact readBack_controller d a b 0 _ (by simp)
  case cfgDrain d b => exact readBack_controller d 0 b 0 _ (by simp)
  case rld d a b v p => exact readBack_rld d a b v p
  case rst d a b p => exact readBack_remote d a b p 0 _ (by simp)
  case rstO d a b x => exact readBack_remote d a b 0 x _ (by simp)
  case rfence d => exact readBack_remote d 0 0 0 0 _ (by simp)
  case mcred d a b | grpSet d a b => exact readBack_remote d a b 0 0 _ (by simp)
  case ramo d a b v r n => exact readBack_ramo d a b v r n
  case cvOpen d a b | cvBind d a b | cvSend d a b | cvOffer d a b | cvDeleg d a b | cvState d a b => exact readBack_conversation d a b 0 _ (by simp)
  case cvRecv d a b p => exact readBack_conversation d a b p _ (by simp)
  case cvChoose d a | cvClose d a | tdBar d a => exact readBack_conversation d a 0 0 _ (by simp)
  case tdStat d => exact readBack_conversation d 0 0 0 _ (by simp)
  case nop | eret | brk => exact readBack_system 0 0 0 0 0 _ (by simp)
  case trap a b p => exact readBack_system 0 a b p 0 _ (by simp)
  case fault a => exact readBack_system 0 a 0 0 0 _ (by simp)
  case csrr d k => exact readBack_system d 0 0 0 k _ (by simp)
  case csrw d a k | csrs d a k | csrc d a k => exact readBack_system d a 0 0 k _ (by simp)
  all_goals exact absurd rfl h

theorem layoutWord_of_command {w : W32} (h : fMajor w = 0x3F) : layoutWord w = .error .reservedMajor := by
  simp [layoutWord, h]

theorem decode_word {i : Instr} {w : W32} {rest : List W32} (h : layoutWord w = .ok i) (hwf : i.wf = true) : decode (w :: rest) = .ok i := by
  have hm : fMajor w ≠ 0x3F#6 := fun hm => by simp [layoutWord_of_command hm] at h
  simp [decode, layout, hm, h, checked, hwf]

theorem decode_command {i : Instr} {e : BitVec 4} {verb : BitVec 6} {h : CmdHead} {w1 w2 w3 : W32} {rest : List W32}
    (hl : ∀ w, formatC e verb h = w → layoutCommand w w1 w2 w3 = .ok i) (hwf : i.wf = true) : decode ([formatC e verb h, w1, w2, w3] ++ rest) = .ok i := by
  have hm : fMajor (formatC e verb h) = 0x3F#6 := (formatC_eq_iff.1 rfl).1
  simp [decode, layout, hm, hl _ rfl, checked, hwf]

/-- The commands of every engine (R71). -/
def commandsOf (h : CmdHead) (w1 w2 w3 : W32) : List Instr :=
  [.mxLd h w1 w2 w3, .mxSt h w1 w2 w3, .mxMma h w1 w2 w3, .mxMv h w1 w2 w3, .mxZero h w1 w2 w3, .mxDrain h w1 w2 w3, .mxSmax h w1 w2 w3, .mxAccld h w1 w2 w3,
    .mxAccst h w1 w2 w3, .mxLoop h w1 w2 w3, .cpNd h w1 w2 w3, .cpGather h w1 w2 w3, .cpFill h w1 w2 w3, .kvWalk h w1 w2 w3, .kvLdk h w1 w2 w3, .kvLdv h w1 w2 w3,
    .kvPagein h w1 w2 w3, .kvFree h w1 w2 w3, .skScore h w1 w2 w3, .chRun h w1 w2 w3, .gsArm h w1 w2 w3, .gsWait h w1 w2 w3]

theorem decode_encode_command (h : CmdHead) (w1 w2 w3 : W32) (rest : List W32) : ∀ i ∈ commandsOf h w1 w2 w3, i.wf = true → decode (encode i ++ rest) = .ok i := by
  simp only [commandsOf, List.forall_mem_cons, List.not_mem_nil, false_imp_iff, implies_true, and_true]
  and_intros
  all_goals
    refine fun hwf => decode_command (fun w hw => ?_) hwf
    obtain ⟨-, he, hv, hh, hz⟩ := formatC_eq_iff.1 hw
    simp [layoutCommand, he, hv, hh, hz]

theorem decode_encode_word {i : Instr} (he : encode i = if encodeWord i = 0 then [] else [encodeWord i]) (hn : encode i ≠ []) (hwf : i.wf = true) (rest : List W32) :
    decode (encode i ++ rest) = .ok i := by
  have h0 : encodeWord i ≠ 0 := fun h0 => hn (by rw [he, if_pos h0])
  rw [he, if_neg h0]
  exact decode_word (readBack_of_encodeWord_ne_zero i h0 _ rfl) hwf

/-- An instruction is a command, a reserved word, or has the one word that `encodeWord` gives it, if any. -/
theorem encode_shape (i : Instr) : (∃ h w1 w2 w3, i ∈ commandsOf h w1 w2 w3) ∨ (∃ w, i = .reservedEncoding w) ∨ encode i = if encodeWord i = 0 then [] else [encodeWord i] := by
  cases i
  case mxLd h w1 w2 w3 | mxSt h w1 w2 w3 | mxMma h w1 w2 w3 | mxMv h w1 w2 w3 | mxZero h w1 w2 w3 | mxDrain h w1 w2 w3 | mxSmax h w1 w2 w3 | mxAccld h w1 w2 w3
      | mxAccst h w1 w2 w3 | mxLoop h w1 w2 w3 | cpNd h w1 w2 w3 | cpGather h w1 w2 w3 | cpFill h w1 w2 w3 | kvWalk h w1 w2 w3 | kvLdk h w1 w2 w3 | kvLdv h w1 w2 w3
      | kvPagein h w1 w2 w3 | kvFree h w1 w2 w3 | skScore h w1 w2 w3 | chRun h w1 w2 w3 | gsArm h w1 w2 w3 | gsWait h w1 w2 w3 =>
    exact .inl ⟨h, w1, w2, w3, by simp [commandsOf]⟩
  case reservedEncoding w => exact .inr (.inl ⟨w, rfl⟩)
  all_goals exact .inr (.inr rfl)

/-- Settles O4: a command is read back by its engine and verb, and every other instruction by the fields of its format. -/
theorem encodedInstructionsDecode : Obligations.EncodedInstructionsDecode := by
  intro i rest hwf hn hr
  obtain ⟨h, w1, w2, w3, hi⟩ | ⟨w, rfl⟩ | he := encode_shape i
  · exact decode_encode_command h w1 w2 w3 rest i hi hwf
  · exact absurd rfl (hr w)
  · exact decode_encode_word he hn hwf rest

end Sys2Proof
end

section
/-! Words that decode: the layout of a word leaves no bit of it free (R67, R68). -/

namespace Sys2Proof
open BitVec (extractLsb'_append_eq_left extractLsb'_append_eq_right)

/-! ### Words that decode are encodings -/

/-- A guarded answer, with its guard kept apart from the instruction. -/
theorem unlessUsed_eq_ok {bad : Bool} {i j : Instr} : unlessUsed bad i = .ok j ↔ bad = false ∧ i = j := by
  cases bad <;> simp [unlessUsed]

theorem ite_error_eq_ok {c : Bool} {e : DecodeErr} {r : Except DecodeErr Instr} {i : Instr} : (if c then .error e else r) = .ok i ↔ c = false ∧ r = .ok i := by
  cases c <;> simp

theorem ok_eq_ok {i j : Instr} : (.ok i : Except DecodeErr Instr) = .ok j ↔ True ∧ i = j := by simp

section decoders
variable {w : W32} {i : Instr}

theorem encodeWord_of_decodeAlu (hm : fMajor w = 0x01#6) (h : decodeAlu w = .ok i) : encodeWord i = w := by
  unfold decodeAlu at h
  dsimp only at h
  split at h
  case h_30 => nomatch h
  all_goals
    rename_i hop
    obtain ⟨hu, rfl⟩ := unlessUsed_eq_ok.1 h
    simp only [Bool.or_eq_false_iff, bne_eq_false_iff_eq] at hu
    unfold encodeWord
    dsimp only
    simp only [formatR_eq_iff, extractLsb'_fnR_fZ, extractLsb'_fnR_fP, extractLsb'_fnR_fW, extractLsb'_fnR_fOp, eq_ofBool_iff, bit_eq_false_iff]
    simp [hm, hu, (BitVec.toNat_eq_nat.1 hop).2]

theorem encodeWord_of_decodeShiftImm (hm : fMajor w = 0x06#6) (h : decodeShiftImm w = .ok i) : encodeWord i = w := by
  unfold decodeShiftImm at h
  dsimp only at h
  split at h
  case h_4 | h_5 => nomatch h
  all_goals
    rename_i hop
    cases h
    unfold encodeWord
    dsimp only
    simp only [formatI_eq_iff, fImm_eq_shift_iff]
    simp [hm, (BitVec.toNat_eq_nat.1 hop).2]

theorem encodeWord_of_decodeField (hm : fMajor w = 0x0A#6) (h : decodeField w = .ok i) : encodeWord i = w := by
  unfold decodeField at h
  dsimp only at h
  split at h
  case h_5 => nomatch h
  all_goals
    rename_i hop
    obtain ⟨hu, rfl⟩ := unlessUsed_eq_ok.1 h
    simp only [Bool.or_eq_false_iff, bne_eq_false_iff_eq] at hu
    unfold encodeWord
    dsimp only
    simp only [formatI_eq_iff, fImm_eq_lea_iff, formatF_eq_iff]
    simp [hm, hu, (BitVec.toNat_eq_nat.1 hop).2]

theorem encodeWord_of_decodeCmp (hm : fMajor w = 0x0B#6) (h : decodeCmp w = .ok i) : encodeWord i = w := by
  unfold decodeCmp at h
  dsimp only at h
  split at h
  case h_12 => nomatch h
  all_goals
    rename_i hop
    obtain ⟨hu, rfl⟩ := unlessUsed_eq_ok.1 h
    simp only [Bool.or_eq_false_iff, bne_eq_false_iff_eq] at hu
    unfold encodeWord
    dsimp only
    simp only [formatR_eq_iff, fD_eq_inP_iff, fA_eq_inP_iff, fB_eq_inP_iff]
    simp [hm, hu, (BitVec.toNat_eq_nat.1 hop).2]

theorem encodeWord_of_decodeJump (hm : fMajor w = 0x16#6) (h : decodeJump w = .ok i) : encodeWord i = w := by
  unfold decodeJump at h
  dsimp only at h
  split at h
  case h_4 => nomatch h
  all_goals
    rename_i hop
    obtain ⟨hu, rfl⟩ := unlessUsed_eq_ok.1 h
    simp only [Bool.or_eq_false_iff, bne_eq_false_iff_eq] at hu
    unfold encodeWord
    dsimp only
    simp only [formatR_eq_iff]
    simp [hm, hu, (BitVec.toNat_eq_nat.1 hop).2]

theorem encodeWord_of_decodeAmo (hm : fMajor w = 0x21#6) (h : decodeAmo w = .ok i) : encodeWord i = w := by
  unfold decodeAmo at h
  dsimp only at h
  split at h
  case h_15 => nomatch h
  case h_10 hop =>
    split at h
    case isFalse => nomatch h
    next hr =>
      obtain ⟨hu, rfl⟩ := unlessUsed_eq_ok.1 h
      rw [bne_eq_false_iff_eq] at hu
      unfold encodeWord
      dsimp only
      simp [formatAmo_eq_iff, hm, hu, hr, (BitVec.toNat_eq_nat.1 hop).2]
  all_goals
    rename_i hop
    obtain ⟨hu, rfl⟩ := unlessUsed_eq_ok.1 h
    simp only [Bool.or_eq_false_iff, bne_eq_false_iff_eq] at hu
    unfold encodeWord
    dsimp only
    simp only [formatAmo_eq_iff]
    simp [hm, hu, (BitVec.toNat_eq_nat.1 hop).2]

theorem encodeWord_of_decodeStream (hm : fMajor w = 0x22#6) (h : decodeStream w = .ok i) : encodeWord i = w := by
  unfold decodeStream at h
  dsimp only at h
  split at h
  case h_9 => nomatch h
  all_goals
    rename_i hop
    obtain ⟨hu, rfl⟩ := unlessUsed_eq_ok.1 h
    simp only [Bool.or_eq_false_iff, bne_eq_false_iff_eq] at hu
    unfold encodeWord
    dsimp only
    simp only [formatR_eq_iff]
    simp [hm, hu, (BitVec.toNat_eq_nat.1 hop).2]

theorem encodeWord_of_decodeFence (hm : fMajor w = 0x23#6) (h : decodeFence w = .ok i) : encodeWord i = w := by
  unfold decodeFence at h
  dsimp only at h
  split at h
  case h_5 => nomatch h
  all_goals
    rename_i hop
    obtain ⟨hu, rfl⟩ := unlessUsed_eq_ok.1 h
    simp only [Bool.or_eq_false_iff, bne_eq_false_iff_eq] at hu
    unfold encodeWord
    dsimp only
    simp only [formatR_eq_iff, fA_eq_append_iff, fA_eq_inP_iff, fB_eq_append_iff, extractLsb'_append_eq_left, extractLsb'_append_eq_right]
    simp [hm, hu, (BitVec.toNat_eq_nat.1 hop).2]

theorem encodeWord_of_decodeFe (hm : fMajor w = 0x24#6) (h : decodeFe w = .ok i) : encodeWord i = w := by
  unfold decodeFe at h
  dsimp only at h
  split at h
  case h_6 => nomatch h
  case h_4 hop =>
    split at h
    case isTrue hb =>
      obtain ⟨hu, rfl⟩ := unlessUsed_eq_ok.1 h
      simp only [Bool.or_eq_false_iff, bne_eq_false_iff_eq] at hu
      unfold encodeWord
      dsimp only
      simp only [formatR_eq_iff, fD_eq_flag_iff]
      simp [hm, hb, hu, (BitVec.toNat_eq_nat.1 hop).2]
    case isFalse =>
      split at h
      case isFalse => nomatch h
      case isTrue hb =>
        obtain ⟨hu, rfl⟩ := unlessUsed_eq_ok.1 h
        simp only [Bool.or_eq_false_iff, bne_eq_false_iff_eq] at hu
        unfold encodeWord
        dsimp only
        simp only [formatR_eq_iff, fD_eq_flag_iff]
        simp [hm, hb, hu, (BitVec.toNat_eq_nat.1 hop).2]
  all_goals
    rename_i hop
    split at h
    case h_2 => nomatch h
    case h_1 f hf =>
      obtain ⟨hu, rfl⟩ := unlessUsed_eq_ok.1 h
      simp only [Bool.or_eq_false_iff, bne_eq_false_iff_eq] at hu
      unfold encodeWord
      dsimp only
      simp only [formatR_eq_iff, inFile_eq_iff, fD_eq_inP_iff]
      simp [hm, hf, hu, (BitVec.toNat_eq_nat.1 hop).2]

theorem encodeWord_of_decodeVi (hm : fMajor w = 0x28#6) (h : decodeVi w = .ok i) : encodeWord i = w := by
  unfold decodeVi at h
  dsimp only at h
  split at h
  case h_16 => nomatch h
  all_goals
    rename_i hop
    simp only [ite_error_eq_ok, unlessUsed_eq_ok, ok_eq_ok, Bool.or_eq_false_iff, bne_eq_false_iff_eq, ← and_assoc] at h
    obtain ⟨hu, rfl⟩ := h
    unfold encodeWord
    dsimp only
    simp only [formatV_eq_iff, fDesc_eq_append_iff]
    simp [hm, hu, (BitVec.toNat_eq_nat.1 hop).2]

theorem encodeWord_of_decodeVf (hm : fMajor w = 0x29#6) (h : decodeVf w = .ok i) : encodeWord i = w := by
  unfold decodeVf at h
  dsimp only at h
  split at h
  case h_10 => nomatch h
  all_goals
    rename_i hop
    simp only [unlessUsed_eq_ok, ok_eq_ok, bne_eq_false_iff_eq] at h
    obtain ⟨hu, rfl⟩ := h
    unfold encodeWord
    dsimp only
    simp only [formatV_eq_iff]
    simp [hm, hu, (BitVec.toNat_eq_nat.1 hop).2]

theorem encodeWord_of_decodeVcvt (hm : fMajor w = 0x2A#6) (h : decodeVcvt w = .ok i) : encodeWord i = w := by
  unfold decodeVcvt at h
  dsimp only at h
  split at h
  case h_4 => nomatch h
  all_goals
    rename_i hop
    cases h
    unfold encodeWord
    dsimp only
    simp only [formatVcvt_eq_iff]
    simp [hm, (BitVec.toNat_eq_nat.1 hop).2]

theorem encodeWord_of_decodeVsf (hm : fMajor w = 0x2B#6) (h : decodeVsf w = .ok i) : encodeWord i = w := by
  unfold decodeVsf at h
  obtain ⟨hf, h⟩ := ite_error_eq_ok.1 h
  rw [bne_eq_false_iff_eq] at hf
  split at h
  case h_7 => nomatch h
  all_goals
    rename_i hop
    simp only [unlessUsed_eq_ok, ok_eq_ok, bne_eq_false_iff_eq] at h
    obtain ⟨hu, rfl⟩ := h
    unfold encodeWord
    dsimp only
    simp only [formatV_eq_iff]
    simp [hm, hf, hu, (BitVec.toNat_eq_nat.1 hop).2]

theorem encodeWord_of_decodeVperm (hm : fMajor w = 0x2C#6) (h : decodeVperm w = .ok i) : encodeWord i = w := by
  unfold decodeVperm at h
  dsimp only at h
  split at h
  case h_7 => nomatch h
  all_goals
    rename_i hop
    simp only [ite_error_eq_ok, unlessUsed_eq_ok, ok_eq_ok, bne_eq_false_iff_eq, ← and_assoc] at h
    obtain ⟨hu, rfl⟩ := h
    unfold encodeWord
    dsimp only
    simp only [formatV_eq_iff, fB_eq_inP_iff]
    simp [hm, hu, (BitVec.toNat_eq_nat.1 hop).2]

theorem encodeWord_of_decodeVmx (hm : fMajor w = 0x2D#6) (h : decodeVmx w = .ok i) : encodeWord i = w := by
  unfold decodeVmx at h
  dsimp only at h
  split at h
  case h_5 => nomatch h
  all_goals
    rename_i hop
    simp only [ite_error_eq_ok, ok_eq_ok, bne_eq_false_iff_eq, ← and_assoc] at h
    obtain ⟨hu, rfl⟩ := h
    unfold encodeWord
    dsimp only
    simp only [formatV_eq_iff]
    simp [hm, hu, (BitVec.toNat_eq_nat.1 hop).2]

theorem encodeWord_of_decodeVdice (hm : fMajor w = 0x2E#6) (h : decodeVdice w = .ok i) : encodeWord i = w := by
  unfold decodeVdice at h
  dsimp only at h
  split at h
  case h_2 => nomatch h
  case h_1 hop =>
    have hop := (BitVec.toNat_eq_nat.1 hop).2
    split at h
    case isTrue hf =>
      cases h
      exact formatV_eq_iff.2 ⟨hm, rfl, rfl, rfl, hf, hop⟩
    case isFalse =>
      split at h
      case isFalse => nomatch h
      case isTrue hf =>
        cases h
        exact formatV_eq_iff.2 ⟨hm, rfl, rfl, rfl, hf, hop⟩

theorem encodeWord_of_decodeVpre (hm : fMajor w = 0x2F#6) (h : decodeVpre w = .ok i) : encodeWord i = w := by
  unfold decodeVpre at h
  dsimp only at h
  split at h
  case h_3 => nomatch h
  all_goals
    rename_i hop
    simp only [ite_error_eq_ok, ok_eq_ok, bne_eq_false_iff_eq, ← and_assoc] at h
    obtain ⟨hu, rfl⟩ := h
    unfold encodeWord
    dsimp only
    simp only [formatV_eq_iff]
    simp [hm, hu, (BitVec.toNat_eq_nat.1 hop).2]

theorem encodeWord_of_decodeChannel (hm : fMajor w = 0x30#6) (h : decodeChannel w = .ok i) : encodeWord i = w := by
  unfold decodeChannel at h
  dsimp only at h
  split at h
  case h_7 => nomatch h
  case h_1 hop | h_2 hop =>
    split at h
    case h_2 => nomatch h
    case h_1 g hg =>
      obtain ⟨hu, rfl⟩ := unlessUsed_eq_ok.1 h
      simp only [Bool.or_eq_false_iff, bne_eq_false_iff_eq] at hu
      unfold encodeWord
      dsimp only
      simp only [formatR_eq_iff, inGroup_eq_iff, extractLsb'_fnR_fZ, extractLsb'_fnR_fP, extractLsb'_fnR_fW, extractLsb'_fnR_fOp]
      simp [hm, hg, hu, (BitVec.toNat_eq_nat.1 hop).2]
  all_goals
    rename_i hop
    obtain ⟨hu, rfl⟩ := unlessUsed_eq_ok.1 h
    simp only [Bool.or_eq_false_iff, bne_eq_false_iff_eq] at hu
    unfold encodeWord
    dsimp only
    simp only [formatR_eq_iff, fB_eq_inSend_iff, fD_eq_inP_iff, extractLsb'_fnR_fZ, extractLsb'_fnR_fP, extractLsb'_fnR_fW, extractLsb'_fnR_fOp, eq_ofBool_iff, bit_eq_false_iff]
    simp [hm, hu, (BitVec.toNat_eq_nat.1 hop).2]

theorem encodeWord_of_decodeHandler (hm : fMajor w = 0x31#6) (h : decodeHandler w = .ok i) : encodeWord i = w := by
  unfold decodeHandler at h
  dsimp only at h
  split at h
  case h_7 => nomatch h
  all_goals
    rename_i hop
    obtain ⟨hu, rfl⟩ := unlessUsed_eq_ok.1 h
    simp only [Bool.or_eq_false_iff, bne_eq_false_iff_eq] at hu
    unfold encodeWord
    dsimp only
    simp only [formatR_eq_iff]
    simp [hm, hu, (BitVec.toNat_eq_nat.1 hop).2]

theorem encodeWord_of_decodeController (hm : fMajor w = 0x32#6) (h : decodeController w = .ok i) : encodeWord i = w := by
  unfold decodeController at h
  dsimp only at h
  split at h
  case h_4 => nomatch h
  all_goals
    rename_i hop
    obtain ⟨hu, rfl⟩ := unlessUsed_eq_ok.1 h
    simp only [Bool.or_eq_false_iff, bne_eq_false_iff_eq] at hu
    unfold encodeWord
    dsimp only
    simp only [formatR_eq_iff, fD_eq_inP_iff]
    simp [hm, hu, (BitVec.toNat_eq_nat.1 hop).2]

theorem encodeWord_of_decodeConfig (hm : fMajor w = 0x33#6) (h : decodeConfig w = .ok i) : encodeWord i = w := by
  unfold decodeConfig at h
  dsimp only at h
  split at h
  case h_4 => nomatch h
  all_goals
    rename_i hop
    obtain ⟨hu, rfl⟩ := unlessUsed_eq_ok.1 h
    simp only [Bool.or_eq_false_iff, bne_eq_false_iff_eq] at hu
    unfold encodeWord
    dsimp only
    simp only [formatR_eq_iff]
    simp [hm, hu, (BitVec.toNat_eq_nat.1 hop).2]

theorem encodeWord_of_decodeRemote (hm : fMajor w = 0x34#6) (h : decodeRemote w = .ok i) : encodeWord i = w := by
  unfold decodeRemote at h
  dsimp only at h
  split at h
  case h_7 => nomatch h
  case h_1 hop =>
    obtain ⟨hu, rfl⟩ := unlessUsed_eq_ok.1 h
    exact formatR_rld_eq_iff.2 ⟨hm, rfl, rfl, rfl, rfl, rfl, by simpa using hu, (BitVec.toNat_eq_nat.1 hop).2⟩
  all_goals
    rename_i hop
    simp only [ite_error_eq_ok, unlessUsed_eq_ok, Bool.or_eq_false_iff, bne_eq_false_iff_eq, ← and_assoc] at h
    obtain ⟨hu, rfl⟩ := h
    unfold encodeWord
    dsimp only
    simp only [formatR_eq_iff, extractLsb'_fnR_fZ, extractLsb'_fnR_fP, extractLsb'_fnR_fW, extractLsb'_fnR_fOp, fP_eq_append_iff]
    simp [hm, hu, (BitVec.toNat_eq_nat.1 hop).2]

theorem encodeWord_of_decodeConv (hm : fMajor w = 0x36#6) (h : decodeConv w = .ok i) : encodeWord i = w := by
  unfold decodeConv at h
  dsimp only at h
  split at h
  case h_10 => nomatch h
  all_goals
    rename_i hop
    obtain ⟨hu, rfl⟩ := unlessUsed_eq_ok.1 h
    simp only [Bool.or_eq_false_iff, bne_eq_false_iff_eq] at hu
    unfold encodeWord
    dsimp only
    simp only [formatR_eq_iff, extractLsb'_fnR_fZ, extractLsb'_fnR_fP, extractLsb'_fnR_fW, extractLsb'_fnR_fOp]
    simp [hm, hu, (BitVec.toNat_eq_nat.1 hop).2]

theorem encodeWord_of_decodeTrust (hm : fMajor w = 0x37#6) (h : decodeTrust w = .ok i) : encodeWord i = w := by
  unfold decodeTrust at h
  dsimp only at h
  split at h
  case h_3 => nomatch h
  all_goals
    rename_i hop
    obtain ⟨hu, rfl⟩ := unlessUsed_eq_ok.1 h
    simp only [Bool.or_eq_false_iff, bne_eq_false_iff_eq] at hu
    unfold encodeWord
    dsimp only
    simp only [formatR_eq_iff]
    simp [hm, hu, (BitVec.toNat_eq_nat.1 hop).2]

theorem encodeWord_of_decodeSystem (hm : fMajor w = 0x38#6) (h : decodeSystem w = .ok i) : encodeWord i = w := by
  unfold decodeSystem at h
  dsimp only at h
  split at h
  case h_10 => nomatch h
  all_goals
    rename_i hop
    obtain ⟨hu, rfl⟩ := unlessUsed_eq_ok.1 h
    simp only [Bool.or_eq_false_iff, bne_eq_false_iff_eq] at hu
    unfold encodeWord
    dsimp only
    simp only [formatR_eq_iff, formatK_eq_iff, extractLsb'_fnR_fZ, extractLsb'_fnR_fP, extractLsb'_fnR_fW, extractLsb'_fnR_fOp]
    simp [hm, hu, (BitVec.toNat_eq_nat.1 hop).2]

theorem encodeWord_of_layoutWord (h : layoutWord w = .ok i) : encodeWord i = w := by
  unfold layoutWord at h
  dsimp only at h
  split at h
  case h_51 => nomatch h
  all_goals
    rename_i hm
    replace hm := (BitVec.toNat_eq_nat.1 hm).2
  case h_1 => exact encodeWord_of_decodeAlu hm h
  case h_6 => exact encodeWord_of_decodeShiftImm hm h
  case h_10 => exact encodeWord_of_decodeField hm h
  case h_11 => exact encodeWord_of_decodeCmp hm h
  case h_19 => exact encodeWord_of_decodeJump hm h
  case h_30 => exact encodeWord_of_decodeAmo hm h
  case h_31 => exact encodeWord_of_decodeStream hm h
  case h_32 => exact encodeWord_of_decodeFence hm h
  case h_33 => exact encodeWord_of_decodeFe hm h
  case h_34 => exact encodeWord_of_decodeVi hm h
  case h_35 => exact encodeWord_of_decodeVf hm h
  case h_36 => exact encodeWord_of_decodeVcvt hm h
  case h_37 => exact encodeWord_of_decodeVsf hm h
  case h_38 => exact encodeWord_of_decodeVperm hm h
  case h_39 => exact encodeWord_of_decodeVmx hm h
  case h_40 => exact encodeWord_of_decodeVdice hm h
  case h_41 => exact encodeWord_of_decodeVpre hm h
  case h_42 => exact encodeWord_of_decodeChannel hm h
  case h_43 => exact encodeWord_of_decodeHandler hm h
  case h_44 => exact encodeWord_of_decodeController hm h
  case h_45 => exact encodeWord_of_decodeConfig hm h
  case h_46 => exact encodeWord_of_decodeRemote hm h
  case h_48 => exact encodeWord_of_decodeConv hm h
  case h_49 => exact encodeWord_of_decodeTrust hm h
  case h_50 => exact encodeWord_of_decodeSystem hm h
  case h_2 | h_3 | h_4 | h_5 | h_7 | h_12 =>
    cases h
    exact formatI_eq_iff.2 ⟨hm, rfl, rfl, rfl⟩
  case h_8 =>
    obtain ⟨hu, rfl⟩ := unlessUsed_eq_ok.1 h
    exact formatI_eq_iff.2 ⟨hm, rfl, bne_eq_false_iff_eq.1 hu, rfl⟩
  case h_9 =>
    simp only [ite_error_eq_ok, bne_eq_false_iff_eq] at h
    obtain ⟨hu, h⟩ := h
    cases h
    exact formatI_eq_iff.2 ⟨hm, rfl, fA_eq_flag_iff.2 ⟨hu, rfl⟩, rfl⟩
  case h_13 | h_18 =>
    obtain ⟨hu, rfl⟩ := unlessUsed_eq_ok.1 h
    exact formatB_eq_iff.2 ⟨hm, bne_eq_false_iff_eq.1 hu, rfl⟩
  case h_14 | h_15 =>
    obtain ⟨hu, rfl⟩ := unlessUsed_eq_ok.1 h
    exact formatB_eq_iff.2 ⟨hm, fD_eq_inP_iff.2 ⟨bne_eq_false_iff_eq.1 hu, rfl⟩, rfl⟩
  case h_16 | h_17 | h_20 =>
    cases h
    exact formatB_eq_iff.2 ⟨hm, rfl, rfl⟩
  case h_21 | h_22 | h_23 | h_24 | h_25 | h_27 | h_28 =>
    cases h
    exact formatM_eq_iff.2 ⟨hm, rfl, rfl, rfl, rfl, rfl, rfl, rfl⟩
  case h_26 =>
    simp only [ite_error_eq_ok, bne_eq_false_iff_eq] at h
    obtain ⟨hu, h⟩ := h
    cases h
    exact formatM_eq_iff.2 ⟨hm, rfl, rfl, fClass_eq_append_iff.2 ⟨rfl, rfl⟩, rfl, rfl, fSize_eq_append_iff.2 ⟨hu, rfl⟩, rfl⟩
  case h_29 =>
    split at h
    all_goals
      rename_i hs
      cases h
      exact formatVM_eq_iff.2 ⟨hm, rfl, by simpa using hs, rfl, rfl, rfl, rfl, rfl, rfl⟩
  case h_47 =>
    obtain ⟨hu, rfl⟩ := unlessUsed_eq_ok.1 h
    exact formatR_ramo_eq_iff.2 ⟨hm, rfl, rfl, rfl, bne_eq_false_iff_eq.1 hu, rfl, rfl, rfl⟩

theorem encode_of_layoutCommand {w1 w2 w3 : W32} (hm : fMajor w = 0x3F#6) (h : layoutCommand w w1 w2 w3 = .ok i) : encode i = [w, w1, w2, w3] := by
  unfold layoutCommand at h
  dsimp only at h
  obtain ⟨hz, h⟩ := ite_error_eq_ok.1 h
  split at h
  case h_23 => nomatch h
  all_goals
    rename_i he hv
    cases h
    exact congrArg (fun x => [x, w1, w2, w3]) (formatC_eq_iff.2 ⟨hm, (BitVec.toNat_eq_nat.1 he).2, (BitVec.toNat_eq_nat.1 hv).2, rfl, bne_eq_false_iff_eq.1 hz⟩)

theorem encodeWord_command (c : CmdHead) (w1 w2 w3 : W32) : ∀ i ∈ commandsOf c w1 w2 w3, encodeWord i = 0 := by
  simp only [commandsOf, List.forall_mem_cons, List.not_mem_nil, false_imp_iff, implies_true, and_true]
  and_intros
  all_goals rfl

theorem encode_of_layoutWord (h : layoutWord w = .ok i) : encode i = [w] := by
  have hw := encodeWord_of_layoutWord h
  have h0 : encodeWord i ≠ 0 := by
    rintro h0
    rw [← hw, h0] at h
    nomatch h
  obtain ⟨c, w1, w2, w3, hi⟩ | ⟨x, rfl⟩ | he := encode_shape i
  · exact absurd (encodeWord_command c w1 w2 w3 i hi) h0
  · exact absurd rfl h0
  · rw [he, if_neg h0, hw]

theorem wf_of_decode {ws : List W32} (h : decode ws = .ok i) : i.wf = true ∧ layout ws = .ok i := by
  unfold decode checked at h
  split at h
  case h_2 => nomatch h
  case h_1 j hj =>
    split at h
    case isFalse => nomatch h
    case isTrue hwf =>
      cases h
      exact ⟨hwf, hj⟩

end decoders

/-- Settles O5: the layout of a word leaves no bit of it free. -/
theorem decodedWordsAreTheEncoding : Obligations.DecodedWordsAreTheEncoding := by
  intro ws i h
  obtain ⟨hwf, hl⟩ := wf_of_decode h
  refine ⟨hwf, ?_⟩
  cases ws with
  | nil => nomatch hl
  | cons w rest =>
    unfold layout at hl
    dsimp only at hl
    split at hl
    case isFalse => exact ⟨rest, by rw [encode_of_layoutWord hl]; rfl⟩
    case isTrue hm =>
      split at hl
      case h_2 => nomatch hl
      case h_1 w1 w2 w3 tail => exact ⟨tail, by rw [encode_of_layoutCommand hm hl]; rfl⟩

/-- Settles O3: each word is taken apart as the decoder does. -/
theorem wordsOfTheSpecDecode : Obligations.WordsOfTheSpecDecode := by
  unfold Obligations.WordsOfTheSpecDecode
  and_intros
  all_goals rfl

end Sys2Proof
end

section
/-! The issue of engine commands (R62, R63, R65, R230, R285): what an offered command meets, for the engines without sections and for the bodies
that a loop collects; the obligation about accepted commands is read off it. -/

namespace Sys2Proof.Machine

/-! ### Slots and queues -/

@[simp] theorem Cell.engine_putEngine (e : Engine) (q : EngineQ) (c : Cell) : (c.putEngine e q).engine e = q := by
  cases e <;> rfl

/-- The fields beside a slot that acceptance leaves as they are. -/
theorem Cell.onSlot_rest (n : BitVec 3) (f : Nat → Nat) (c : Cell) :
    (∀ e, (c.onSlot n f).engine e = c.engine e) ∧ (c.onSlot n f).pc = c.pc ∧ (c.onSlot n f).x = c.x ∧ (c.onSlot n f).store = c.store ∧
      (c.onSlot n f).acc = c.acc ∧ (c.onSlot n f).tiles = c.tiles := by
  rw [Cell.onSlot_eq]
  exact ⟨fun e => by cases e <;> rfl, rfl, rfl, rfl, rfl, rfl⟩

/-- The fields beside an engine's queue that acceptance leaves as they are. -/
theorem Cell.putEngine_rest (e : Engine) (q : EngineQ) (c : Cell) :
    (c.putEngine e q).pc = c.pc ∧ (c.putEngine e q).sb = c.sb ∧ (c.putEngine e q).x = c.x ∧ (c.putEngine e q).store = c.store ∧
      (c.putEngine e q).acc = c.acc ∧ (c.putEngine e q).tiles = c.tiles := by
  cases e <;> exact ⟨rfl, rfl, rfl, rfl, rfl, rfl⟩

/-- What the acceptance of a command leaves (R65, R230). -/
structure Cell.Accepted (e : Engine) (x : Cmd) (c d : Cell) : Prop where
  queue : (d.engine e).q = (c.engine e).q ++ [x]
  pc : d.pc = c.pc
  slot : x.sb ≠ 0 → d.slot x.sb = c.slot x.sb + 1
  regs : d.x = c.x
  store : d.store = c.store
  acc : d.acc = c.acc
  tiles : d.tiles = c.tiles

theorem Cell.accept_accepted (e : Engine) (x : Cmd) (c : Cell) : c.Accepted e x (c.accept e x) := by
  obtain ⟨hq, hpc, hx, hst, hacc, ht⟩ :=
    Cell.onSlot_rest x.sb (· + 1) (c.putEngine e { c.engine e with q := (c.engine e).q ++ [x] })
  obtain ⟨hpc', hsb, hx', hst', hacc', ht'⟩ := Cell.putEngine_rest e { c.engine e with q := (c.engine e).q ++ [x] } c
  refine ⟨?_, hpc.trans hpc', fun h => ?_, hx.trans hx', hst.trans hst', hacc.trans hacc', ht.trans ht'⟩
  · rw [Cell.accept, hq, Cell.engine_putEngine]
  · rw [Cell.accept, Cell.slot_onSlot h, Cell.slot, Cell.slot]
    simp only [hsb]

/-! ### Issue -/

/-- Where the registers that the head names are FULL, the command goes on with its substituted words (R63). -/
theorem substituted_words {h : CmdHead} {w1 w2 w3 a b c : W32} {s : State} (hw : CommandWords h w1 w2 w3 a b c s) (k : W32 → W32 → W32 → State) :
    substituted h w1 w2 w3 s k = k a b c := by
  obtain ⟨hab, hc⟩ := hw
  have last (a b : W32) : (if h.subst.getLsbD 2 then readX (w3.setWidth 5) s fun v => k a b (v.setWidth 32) else k a b w3) = k a b c := by
    split at hc
    next h2 => obtain ⟨A, hA, rfl⟩ := hc; rw [if_pos h2, readX_has hA]
    next h2 => rw [if_neg h2, hc]
  simp only [substituted, last]
  split at hab
  next h3 => obtain ⟨A, hA, rfl, rfl⟩ := hab; rw [if_pos h3, readX_has hA]
  next h3 =>
    obtain ⟨ha, hb⟩ := hab
    have second (a : W32) : (if h.subst.getLsbD 1 then readX (w2.setWidth 5) s fun v => k a (v.setWidth 32) c else k a w2 c) = k a b c := by
      split at hb
      next h1 => obtain ⟨A, hA, rfl⟩ := hb; rw [if_pos h1, readX_has hA]
      next h1 => rw [if_neg h1, hb]
    simp only [if_neg h3, second]
    split at ha
    next h0 => obtain ⟨A, hA, rfl⟩ := ha; rw [if_pos h0, readX_has hA]
    next h0 => rw [if_neg h0, ha]

section
variable {h : CmdHead} {w1 w2 w3 a b c : W32} {s : State} {e : Engine} {verb : Nat} {take : Cmd → State → State}
  (hw : CommandWords h w1 w2 w3 a b c s) (hacq : s.cell.acquiring = false)
include hw hacq

theorem issueTo_room (hsb : h.sb ≠ 0 → s.cell.slot h.sb < 63) (hu : ∀ n, engineLimit e = some n → (s.cell.engine e).load (unitOf e (b ++ a) s) < n) :
    issueTo e verb h w1 w2 w3 s take = advance 16 (take (s.cell.command verb h a b c (unitOf e (b ++ a) s)) s) := by
  have hfull : ¬ (h.sb ≠ 0 ∧ s.cell.slot h.sb ≥ 63) := fun ⟨h0, hge⟩ => absurd (hsb h0) (by omega)
  have hunit : (engineLimit e).any (· ≤ (s.cell.engine e).load (unitOf e (b ++ a) s)) = false := by
    cases hl : engineLimit e with
    | none => rfl
    | some n => simpa using hu n hl
  rw [issueTo, substituted_words hw]
  simp only [hacq, hfull, hunit, Bool.false_eq_true, if_false]

theorem issueTo_slot_full (h0 : h.sb ≠ 0) (hge : 63 ≤ s.cell.slot h.sb) : issueTo e verb h w1 w2 w3 s take = hold .staying s := by
  rw [issueTo, substituted_words hw]
  simp only [hacq, Bool.false_eq_true, if_false]
  exact if_pos ⟨h0, hge⟩

theorem issueTo_unit_full (hsb : h.sb ≠ 0 → s.cell.slot h.sb < 63) {n : Nat} (hl : engineLimit e = some n)
    (hn : n ≤ (s.cell.engine e).load (unitOf e (b ++ a) s)) : issueTo e verb h w1 w2 w3 s take = hold (.expiring (.queue e)) s := by
  have hfull : ¬ (h.sb ≠ 0 ∧ s.cell.slot h.sb ≥ 63) := fun ⟨h0, hge⟩ => absurd (hsb h0) (by omega)
  rw [issueTo, substituted_words hw]
  simp only [hacq, hfull, hl, Option.any_some, decide_eq_true hn, Bool.false_eq_true, if_false, if_true]

/-- Where a loop collects and its section's buffer is full, the command waits for the queue (R285). -/
theorem issueMx_body_full {sec : BitVec 3} {n : Nat} (hc : s.cell.collecting = some (sec, n)) (hfull : 8 ≤ (s.cell.sectionAt sec.toNat).body.length) :
    issueMx verb h w1 w2 w3 s = hold (.expiring (.queue .mx)) s := by
  rw [issueMx, hc]
  simp only [substituted_words hw]
  simp [hacq, hfull]

/-- Where a loop collects and its section's buffer has room, the command is taken there. -/
theorem issueMx_body_room {sec : BitVec 3} {n : Nat} (hc : s.cell.collecting = some (sec, n)) (hroom : (s.cell.sectionAt sec.toNat).body.length < 8) :
    issueMx verb h w1 w2 w3 s = advance 16 (acceptMx (s.cell.command verb h a b c 0) s) := by
  rw [issueMx, hc]
  simp only [substituted_words hw]
  simp [hacq, Nat.not_le.mpr hroom]

end

/-- Outside a body a matrix command is offered as any other. -/
theorem issueMx_plain {s : State} (hc : s.cell.collecting = none) (verb : Nat) (h : CmdHead) (w1 w2 w3 : W32) :
    issueMx verb h w1 w2 w3 s = issueTo .mx verb h w1 w2 w3 s acceptMx := by
  rw [issueMx, hc]

/-- A matrix command outside a body joins the queue; a loop also begins to collect its body (R285). -/
theorem acceptMx_accepted {x : Cmd} {s : State} (hc : s.cell.collecting = none) :
    s.cell.Accepted .mx x (acceptMx x s).cell ∧ (acceptMx x s).pkg = s.pkg := by
  have ha := Cell.accept_accepted .mx x s.cell
  simp only [acceptMx, hc]
  split
  · exact ⟨⟨ha.queue, ha.pc, ha.slot, ha.regs, ha.store, ha.acc, ha.tiles⟩, rfl⟩
  · exact ⟨ha, rfl⟩

/-! ### Sections -/

theorem Cell.sectionAt_onSection {n : Nat} (hn : n < 8) (f : Section → Section) (c : Cell) : (c.onSection n f).sectionAt n = f (c.sectionAt n) := by
  have hlen : c.sections.toArray.size = 8 := c.sections.size_toArray
  simp [Cell.onSection, Cell.sectionAt, List.getD, hn]

/-- A command of a body joins its section's buffer, and counts as one of those to collect (R285). -/
theorem acceptMx_body {x : Cmd} {s : State} {sec : BitVec 3} {n : Nat} (hc : s.cell.collecting = some (sec, n)) (hv : x.verb ≠ 9) (hd : x.done = 0)
    (hsb : x.sb = 0) (hok : mxOk x = true) :
    acceptMx x s = s.onCell fun c =>
      { c.onSection sec.toNat (fun q => { q with body := q.body ++ [x] }) with collecting := if n ≤ 1 then none else some (sec, n - 1) } := by
  simp [acceptMx, hc, hv, hd, hsb, hok]

/-! ### The obligation -/

@[simp] theorem advance_engine (n : Nat) (s : State) (e : Engine) : (advance n s).cell.engine e = s.cell.engine e := by
  cases e <;> rfl

/-- The commands of the engines with their verbs, as the obligation lists them. -/
def engineCommands (h : CmdHead) (w1 w2 w3 : W32) : List (Engine × Nat × Instr) :=
  [(.mx, 0, .mxLd h w1 w2 w3), (.mx, 1, .mxSt h w1 w2 w3), (.mx, 2, .mxMma h w1 w2 w3), (.mx, 3, .mxMv h w1 w2 w3), (.mx, 4, .mxZero h w1 w2 w3),
    (.mx, 5, .mxDrain h w1 w2 w3), (.mx, 6, .mxSmax h w1 w2 w3), (.mx, 7, .mxAccld h w1 w2 w3), (.mx, 8, .mxAccst h w1 w2 w3), (.mx, 9, .mxLoop h w1 w2 w3),
    (.cp, 0, .cpNd h w1 w2 w3), (.cp, 1, .cpGather h w1 w2 w3), (.cp, 2, .cpFill h w1 w2 w3), (.kv, 0, .kvWalk h w1 w2 w3), (.kv, 1, .kvLdk h w1 w2 w3),
    (.kv, 2, .kvLdv h w1 w2 w3), (.kv, 3, .kvPagein h w1 w2 w3), (.kv, 4, .kvFree h w1 w2 w3), (.sk, 0, .skScore h w1 w2 w3), (.ch, 0, .chRun h w1 w2 w3),
    (.gs, 0, .gsArm h w1 w2 w3), (.gs, 1, .gsWait h w1 w2 w3)]

/-- How an engine's command is offered: the matrix engine has sections. -/
def offered (e : Engine) (verb : Nat) (h : CmdHead) (w1 w2 w3 : W32) (s : State) : State :=
  match e with
  | .mx => issueMx verb h w1 w2 w3 s
  | e => issue e verb h w1 w2 w3 s

/-- Every command of an engine is offered to it. -/
theorem exec_engineCommand (h : CmdHead) (w1 w2 w3 : W32) (s : State) :
    ∀ q ∈ engineCommands h w1 w2 w3, exec q.2.2 s = .next (offered q.1 q.2.1 h w1 w2 w3 s) := by
  simp only [engineCommands, List.forall_mem_cons, List.not_mem_nil, false_implies, implies_true, and_true]
  and_intros <;> rfl

/-- Outside a body, every engine is offered its commands in one way; only what acceptance does differs. -/
theorem offered_issueTo {e : Engine} {s : State} (hc : e = .mx → s.cell.collecting = none) (verb : Nat) (h : CmdHead) (w1 w2 w3 : W32) :
    ∃ take : Cmd → State → State, offered e verb h w1 w2 w3 s = issueTo e verb h w1 w2 w3 s take ∧
      ∀ x, s.cell.Accepted e x (take x s).cell ∧ (take x s).pkg = s.pkg := by
  by_cases he : e = .mx
  · subst he
    exact ⟨acceptMx, issueMx_plain (hc rfl) verb h w1 w2 w3, fun x => acceptMx_accepted (hc rfl)⟩
  · refine ⟨fun x s => s.onCell (Cell.accept e x), ?_, fun x => ⟨Cell.accept_accepted e x s.cell, rfl⟩⟩
    cases e with
    | mx => exact absurd rfl he
    | cp | kv | sk | ch | gs => rfl

/-- Settles O44: outside a body a command is offered to its engine as every other; in one it goes to its section's buffer. -/
theorem engineCommandsAccepted : Obligations.EngineCommandsAccepted := by
  unfold Obligations.EngineCommandsAccepted
  intro h w1 w2 w3 a b c s hw hacq
  refine ⟨fun verb i sec n hi hc => ?_, fun e verb i hi hc => ?_⟩
  · have hi : exec i s = .next (issueMx verb h w1 w2 w3 s) := exec_engineCommand h w1 w2 w3 s _ hi
    refine ⟨fun hfull => by rw [hi, issueMx_body_full hw hacq hc hfull], fun hroom hv hd hsb hok => ⟨_, hi, ?_⟩⟩
    rw [issueMx_body_room hw hacq hc hroom, acceptMx_body hc hv hd hsb hok]
    exact ⟨rfl, rfl, congrArg Section.body (Cell.sectionAt_onSection sec.isLt _ s.cell), rfl⟩
  · have hi : exec i s = .next (offered e verb h w1 w2 w3 s) := exec_engineCommand h w1 w2 w3 s _ hi
    obtain ⟨take, ho, htake⟩ := offered_issueTo hc verb h w1 w2 w3
    rw [ho] at hi
    refine ⟨fun hsb hu => ?_, fun h0 hge => by rw [hi, issueTo_slot_full hw hacq h0 hge],
      fun hsb n hl hn => by rw [hi, issueTo_unit_full hw hacq hsb hl hn]⟩
    obtain ⟨ha, hpkg⟩ := htake (s.cell.command verb h a b c (unitOf e (b ++ a) s))
    rw [issueTo_room hw hacq hsb hu] at hi
    refine ⟨_, _, hi, by rw [advance_engine, ha.queue], rfl, rfl, rfl, rfl, rfl, rfl, rfl, rfl, rfl, rfl, rfl, rfl, rfl, rfl, ?_, ha.slot, ha.regs,
      ha.store, ha.acc, ha.tiles, hpkg⟩
    rw [advance_cell_pc, ha.pc]
    rfl

end Sys2Proof.Machine
end

section
/-! One unit of an engine's work and what its outcome does (R64, R66, R208, R222, R334): the laws of queues, reports and held tokens. -/

namespace Sys2Proof.Machine

/-! ### The command that moves -/

/-- The first command of a queue is first of its unit. -/
theorem EngineQ.heads_cons {q : EngineQ} {x : Cmd} {r : List Cmd} (h : q.q = x :: r) : ∃ l, q.heads = 0 :: l := by
  unfold EngineQ.heads
  rw [h, List.length_cons, List.range_succ_eq_map, List.filter_cons_of_pos (by simp)]
  exact ⟨_, rfl⟩

/-- The head of an engine that is neither stopped nor frozen moves first. -/
theorem stepEngine_head {e : Engine} {x : Cmd} {r : List Cmd} {s : State} (run : Cmd → State → Ran) (hq : (s.cell.engine e).q = x :: r)
    (hst : x.stalled = false) (hb : x.begun = true ∨ x.after.any s.cell.flying = false) (hs : s.cell.stopped = false) (ha : s.active s.cell = true)
    (hne : settle e 0 x (run x s) ≠ s) : stepEngine e run s = settle e 0 x (run x s) := by
  obtain ⟨l, hl⟩ := EngineQ.heads_cons hq
  have hmove : stepCmd e run 0 s = settle e 0 x (run x s) := by
    have hgo : (x.stalled || (!x.begun && x.after.any s.cell.flying)) = false := by
      rcases hb with hb | hb <;> simp [hst, hb]
    rw [stepCmd, hq]
    simp [hgo]
  have hne' : (stepCmd e run 0 s != s) = true := by rw [hmove]; exact bne_iff_ne.2 hne
  simp [stepEngine, hl, hs, ha, hne', ← hmove]

/-! ### What its outcome does -/

theorem settle_waits {e : Engine} {x : Cmd} {k : ParkKey} {u : State} (h : x.waits ≠ some k) (b : Bool)
    (hroom : (u.onCell (Cell.putCmd e 0 { x with waits := none })).cell.waitEntries < 64) :
    settle e 0 x (.block (some k) b u) = deadlockCheck u.cell.k.ctx k.streamNum
      ((u.onCell (Cell.putCmd e 0 { x with waits := none })).onCell fun c => (c.putCmd e 0 { x with waits := some k }).touchWin k.streamNum) := by
  have hctx : (u.onCell (Cell.putCmd e 0 { x with waits := none })).cell.k = u.cell.k := by cases e <;> rfl
  simp only [settle, blockCmd, if_neg h, if_pos hroom, hctx]

theorem settle_no_entry {e : Engine} {x : Cmd} {k : ParkKey} {u : State} (h : x.waits ≠ some k) (b : Bool)
    (hfull : 64 ≤ (u.onCell (Cell.putCmd e 0 { x with waits := none })).cell.waitEntries) :
    settle e 0 x (.block (some k) b u) = (u.onCell (Cell.putCmd e 0 { x with waits := none })).onCell (Cell.touchWin k.streamNum) := by
  simp only [settle, blockCmd, if_neg h, if_neg (Nat.not_lt.2 hfull)]

/-- The record of a command's fault. -/
def Cmd.record (x : Cmd) (code : Byte) (info : W32) (t : Bool) : FaultRec :=
  ⟨code, 0, t, 2, x.hnd.setWidth 7, x.word0, x.pc, info, x.w3, x.w2 ++ x.w1⟩

theorem delNth_zero {α : Type} (l : List α) : delNth 0 l = l.drop 1 := by cases l <;> rfl

@[simp] theorem Cell.engine_dequeue (e : Engine) (i : Nat) (c : Cell) : ((c.dequeue e i).engine e).q = delNth i (c.engine e).q := by
  rw [Cell.dequeue, Cell.engine_putEngine]

theorem settle_fault {e : Engine} {x : Cmd} {u : State} (code : Byte) (info : W32) (h : u.cell.fault = none) :
    let t := settle e 0 x (.fault code info u)
    t.cell.fault = some (x.record code info u.cell.k.t) ∧ t.cell.stopped = true ∧ t.pkg = u.pkg ∧
      (t.cell.engine e).q = if x.isPagein e then (u.cell.engine e).q.drop 1 else (u.cell.engine e).q := by
  have hq : ((u.cell.cmdFault x code info).engine e) = u.cell.engine e := by cases e <;> rfl
  have hf : (u.cell.cmdFault x code info).fault = some (x.record code info u.cell.k.t) := by
    simp only [Cell.cmdFault, Cell.withFault, h]
    rfl
  have hgone (c : Cell) : (c.dequeue e 0).fault = c.fault ∧ (c.dequeue e 0).stopped = c.stopped := by cases e <;> exact ⟨rfl, rfl⟩
  dsimp only [settle]
  split
  next hp => simp [hgone, hf, hq, delNth_zero]; rfl
  next hp => exact ⟨hf, rfl, rfl, congrArg EngineQ.q hq⟩

/-! ### Reports -/

theorem Cell.Woken.engine {c c' : Cell} (h : c.Woken c') (e : Engine) : c'.engine e = c.engine e := by
  rw [h]
  cases e <;> rfl

/-- What completes a command that has left its queue. -/
def Cell.completed (e : Engine) (x : Cmd) (c : Cell) : Cell := ((c.mergeFlags x.flags).slotDown x.sb).engineFree e

theorem Cell.completed_woken (e : Engine) (x : Cmd) (c : Cell) : ((c.mergeFlags x.flags).onSlot x.sb (· - 1)).Woken (c.completed e x) := by
  unfold Cell.completed Cell.slotDown Cell.engineFree
  dsimp only
  split
  · exact (Cell.woken_wakeWhere ..).trans (Cell.woken_wakeWhere ..)
  · exact Cell.woken_wakeWhere ..

/-- What the completion of a command changes of a cell, and what it leaves (R64, R230, R273). -/
structure Cell.Completed (e : Engine) (x : Cmd) (c d : Cell) : Prop where
  queue : d.engine e = c.engine e
  flags : d.k = { c.k with fflags := c.k.fflags ||| x.flags }
  slot : x.sb ≠ 0 → d.slot x.sb = c.slot x.sb - 1
  store : d.store = c.store
  words : d.emptyWords = c.emptyWords

theorem Cell.completed_spec (e : Engine) (x : Cmd) (c : Cell) : c.Completed e x (c.completed e x) := by
  have hw := Cell.completed_woken e x c
  have hs := Cell.onSlot_eq x.sb (· - 1) (c.mergeFlags x.flags)
  refine ⟨?_, ?_, fun h => ?_, ?_, ?_⟩
  · rw [hw.engine, hs]
    cases e <;> rfl
  · rw [hw, hs]
    rfl
  · have hsb : (c.completed e x).sb = ((c.mergeFlags x.flags).onSlot x.sb (· - 1)).sb := by rw [hw]
    calc (c.completed e x).slot x.sb = ((c.mergeFlags x.flags).onSlot x.sb (· - 1)).slot x.sb := by simp only [Cell.slot, hsb]
      _ = c.slot x.sb - 1 := Cell.slot_onSlot h _ _
  · rw [hw, hs]
    rfl
  · rw [hw, hs]
    rfl

/-- The fields that taking a command out of a queue leaves. -/
theorem Cell.dequeue_rest (e : Engine) (i : Nat) (c : Cell) :
    (c.dequeue e i).k = c.k ∧ (c.dequeue e i).sb = c.sb ∧ (c.dequeue e i).store = c.store ∧ (c.dequeue e i).emptyWords = c.emptyWords ∧
      (c.dequeue e i).chan = c.chan ∧ ((c.dequeue e i).engine e).held = (c.engine e).held := by
  cases e <;> exact ⟨rfl, rfl, rfl, rfl, rfl, rfl⟩

section
variable {e : Engine} {x : Cmd} {r : List Cmd} {c : Cell}

theorem Cell.dequeue_head (hq : (c.engine e).q = x :: r) : ((c.dequeue e 0).engine e).q = r := by
  rw [Cell.engine_dequeue, hq]
  rfl

/-- A command that ends with mode 0 reports by its flags and its slot alone. -/
theorem Cell.report_plain (hi : x.internal = false) (hd : x.done = 0) (lane : W32) (fill : List (Nat × Nat)) :
    c.report e 0 x lane fill = (c.dequeue e 0).completed e x := by
  simp [Cell.report, hi, hd, Cell.completed]

theorem Cell.report_fill (hi : x.internal = false) (hd : x.done = 1) (lane : W32) (fill : List (Nat × Nat)) :
    c.report e 0 x lane fill = (fill.foldl (fun c r => c.fillWords r.1 r.2) (c.dequeue e 0)).completed e x := by
  simp [Cell.report, hi, hd, Cell.completed]

theorem Cell.report_count (hi : x.internal = false) (hd : x.done = 3) (lane : W32) (fill : List (Nat × Nat)) :
    c.report e 0 x lane fill = ((c.dequeue e 0).count (x.chan.setWidth 3)).completed e x := by
  simp [Cell.report, hi, hd, Cell.completed]

theorem Cell.report_held (hi : x.internal = false) (hd : x.done = 2) (hr : c.tokenRoom e x.chan = false) (lane : W32) (fill : List (Nat × Nat)) :
    c.report e 0 x lane fill = (c.dequeue e 0).putEngine e
      { (c.dequeue e 0).engine e with held := ((c.dequeue e 0).engine e).held ++ [⟨x.chan, lane, x.sb, x.flags, x.lane⟩] } := by
  have hr' : (c.dequeue e 0).tokenRoom e x.chan = false := by
    rw [← hr]
    cases e <;> rfl
  simp [Cell.report, hi, hd, hr']

/-- A cell with words of its store filled: their states, the hold and the handler entries may have moved, and nothing else. -/
def Cell.Filled (c d : Cell) : Prop := d = { c with emptyWords := d.emptyWords, hold := d.hold, hnd := d.hnd }

theorem Cell.Filled.trans {c d f : Cell} (h : c.Filled d) (h' : d.Filled f) : c.Filled f := by
  refine Eq.trans h' ?_
  rw [h]

theorem Cell.filled_fillWord (o : Nat) (c : Cell) : c.Filled (c.fillWord o) := by
  have h : Cell.Woken { c with emptyWords := sput false (o / 4) false c.emptyWords } (c.fillWord o) := Cell.woken_wakeWhere ..
  unfold Cell.Filled
  rw [h]

theorem Cell.filled_foldl {α : Type} {f : Cell → α → Cell} (h : ∀ (c : Cell) (a : α), c.Filled (f c a)) (l : List α) (c : Cell) : c.Filled (l.foldl f c) := by
  induction l generalizing c with
  | nil => rfl
  | cons a l ih => exact (h c a).trans (ih _)

theorem Cell.filled_ranges (fill : List (Nat × Nat)) (c : Cell) : c.Filled (fill.foldl (fun c r => c.fillWords r.1 r.2) c) :=
  Cell.filled_foldl (fun c _ => Cell.filled_foldl (fun c o => Cell.filled_fillWord o c) _ c) fill c

theorem Cell.Filled.engine {c d : Cell} (h : c.Filled d) (e : Engine) : d.engine e = c.engine e := by
  rw [h]
  cases e <;> rfl

/-- A word is full after ranges are filled where one of them touches it, or where it was. -/
theorem Cell.wordFull_fillRanges (fill : List (Nat × Nat)) (o : Nat) (c : Cell) :
    (fill.foldl (fun c r => c.fillWords r.1 r.2) c).wordFull o = true ↔
      (∃ q ∈ fill, 0 < q.2 ∧ q.1 / 4 ≤ o / 4 ∧ o / 4 ≤ (q.1 + q.2 - 1) / 4) ∨ c.wordFull o = true := by
  induction fill generalizing c with
  | nil => simp
  | cons a l ih =>
    rw [List.foldl_cons, ih, List.exists_mem_cons_iff, or_assoc, or_left_comm]
    by_cases hn : a.2 = 0
    · have hnone : c.fillWords a.1 a.2 = c := by simp [Cell.fillWords, wordsTouched, hn]
      rw [hnone]
      simp [hn]
    · have hlast : o / 4 < (a.1 + a.2 + 3) / 4 ↔ o / 4 ≤ (a.1 + a.2 - 1) / 4 := by omega
      simp [Cell.wordFull_fillWords hn, hlast, Nat.pos_of_ne_zero hn, or_left_comm]

theorem Cell.report_plain_spec (hq : (c.engine e).q = x :: r) (hi : x.internal = false) (hd : x.done = 0) (lane : W32) (fill : List (Nat × Nat)) :
    let t := c.report e 0 x lane fill
    (t.engine e).q = r ∧ t.k.fflags = c.k.fflags ||| x.flags ∧ (x.sb ≠ 0 → t.slot x.sb = c.slot x.sb - 1) ∧ t.store = c.store := by
  have hc := Cell.completed_spec e x (c.dequeue e 0)
  obtain ⟨hk, hsb, hst, -⟩ := Cell.dequeue_rest e 0 c
  rw [Cell.report_plain hi hd]
  refine ⟨by rw [hc.queue, Cell.dequeue_head hq], by rw [hc.flags, hk], fun h => ?_, hc.store.trans hst⟩
  rw [hc.slot h]
  simp only [Cell.slot, hsb]

theorem Cell.report_fill_spec (hq : (c.engine e).q = x :: r) (hi : x.internal = false) (hd : x.done = 1) (lane : W32) (fill : List (Nat × Nat)) :
    let t := c.report e 0 x lane fill
    (t.engine e).q = r ∧ t.k.fflags = c.k.fflags ||| x.flags ∧ (x.sb ≠ 0 → t.slot x.sb = c.slot x.sb - 1) ∧ t.store = c.store ∧
      (∀ off n i, (off, n) ∈ fill → i < n → t.wordFull (off + i) = true) ∧
      ∀ o, (∀ off n, (off, n) ∈ fill → 0 < n → o / 4 < off / 4 ∨ (off + n - 1) / 4 < o / 4) → t.wordFull o = c.wordFull o := by
  have hc := Cell.completed_spec e x (fill.foldl (fun c r => c.fillWords r.1 r.2) (c.dequeue e 0))
  obtain ⟨hk, hsb, hst, hew, -⟩ := Cell.dequeue_rest e 0 c
  have hf := Cell.filled_ranges fill (c.dequeue e 0)
  have hfull (o : Nat) : (c.report e 0 x lane fill).wordFull o = true ↔
      (∃ q ∈ fill, 0 < q.2 ∧ q.1 / 4 ≤ o / 4 ∧ o / 4 ≤ (q.1 + q.2 - 1) / 4) ∨ c.wordFull o = true := by
    rw [Cell.report_fill hi hd, Cell.wordFull_congr hc.words, Cell.wordFull_fillRanges, Cell.wordFull_congr hew]
  refine ⟨?_, ?_, fun h => ?_, ?_, fun off n i hm hlt => (hfull _).2 (.inl ⟨_, hm, by omega⟩), fun o ho => Bool.eq_iff_iff.2 ?_⟩
  · rw [Cell.report_fill hi hd, hc.queue, hf.engine, Cell.dequeue_head hq]
  · rw [Cell.report_fill hi hd, hc.flags, hf, hk]
  · rw [Cell.report_fill hi hd, hc.slot h]
    rw [hf]
    simp only [Cell.slot, hsb]
  · rw [Cell.report_fill hi hd, hc.store, hf, hst]
  · rw [hfull]
    refine ⟨fun h => h.resolve_left ?_, .inr⟩
    rintro ⟨q, hm, hpos, hlo, hhi⟩
    have := ho q.1 q.2 hm hpos
    omega

theorem Cell.report_count_spec (hq : (c.engine e).q = x :: r) (hi : x.internal = false) (hd : x.done = 3) (lane : W32) (fill : List (Nat × Nat)) :
    let t := c.report e 0 x lane fill
    let n : BitVec 3 := x.chan.setWidth 3
    (t.engine e).q = r ∧ t.k.ecnt[n.toNat]'n.isLt = c.k.ecnt[n.toNat]'n.isLt + 1 ∧ t.k.fflags = c.k.fflags ||| x.flags := by
  have hc := Cell.completed_spec e x ((c.dequeue e 0).count (x.chan.setWidth 3))
  obtain ⟨hk, -⟩ := Cell.dequeue_rest e 0 c
  have hw : Cell.Woken _ ((c.dequeue e 0).count (x.chan.setWidth 3)) := Cell.woken_wakeWhere ..
  have hcount : ((c.dequeue e 0).count (x.chan.setWidth 3)).k = { c.k with
      ecnt := c.k.ecnt.set (x.chan.setWidth 3).toNat (c.k.ecnt[(x.chan.setWidth 3).toNat]'(x.chan.setWidth 3).isLt + 1) (x.chan.setWidth 3).isLt } := by
    rw [hw, ← hk]
  rw [Cell.report_count hi hd]
  refine ⟨?_, ?_, ?_⟩
  · rw [hc.queue, hw.engine, ← Cell.dequeue_head hq]
    cases e <;> rfl
  · simp only [hc.flags, hcount]
    exact Vector.getElem_set_self _
  · rw [hc.flags, hcount]

theorem Cell.report_held_spec (hq : (c.engine e).q = x :: r) (hi : x.internal = false) (hd : x.done = 2) (hr : c.tokenRoom e x.chan = false)
    (lane : W32) (fill : List (Nat × Nat)) :
    let t := c.report e 0 x lane fill
    (t.engine e).q = r ∧ (t.engine e).held = (c.engine e).held ++ [⟨x.chan, lane, x.sb, x.flags, x.lane⟩] ∧ t.chan = c.chan ∧ t.sb = c.sb := by
  obtain ⟨-, hsb, -, -, hch, hheld⟩ := Cell.dequeue_rest e 0 c
  rw [Cell.report_held hi hd hr]
  dsimp only
  rw [Cell.engine_putEngine]
  refine ⟨Cell.dequeue_head hq, by rw [hheld], ?_, ?_⟩
  · rw [← hch]
    cases e <;> rfl
  · rw [← hsb]
    cases e <;> rfl

end

/-! ### Held tokens (R66) -/

/-- The oldest held token enters its channel where that has room. -/
theorem exec_completionTokenEntry {c : CellId} {e : Engine} {t : HeldToken} {r : List HeldToken} {s : State}
    (hh : ((s.cellAt c).engine e).held = t :: r) (hroom : ((s.cellAt c).chanAt t.chan).room = true) (hs : (s.cellAt c).stopped = false) :
    exec (.completionTokenEntry c e) s = .next (s.atCell c fun x =>
      ((((x.putEngine e { x.engine e with held := r }).tokenIn t).mergeFlags t.flags).slotDown t.sb).engineFree e) := by
  show execCompletionTokenEntry c e s = _
  simp [execCompletionTokenEntry, State.atCell, hs, hh, List.findIdx?_cons, hroom, delNth]

end Sys2Proof.Machine
end

section
/-! The sequencer's commands, the counts of sections (R285, R286), the lookahead and the tier polls of a walker (R299, R302). -/

namespace Sys2Proof.Machine

/-! ### Sections and the sequencer (R285, R286) -/

section
variable {x : Cmd} {t : CellId} {s : State} (ht : gsTarget x s = some t) (hch : s.cell.tokenChannel x = true)
include ht hch

theorem runGs_arm (hv : x.verb = 0) : runGs x s = .done x 0 [] (s.atCell t (Cell.arm (gsSec x) x.w1.toNat)) := by
  simp [runGs, ht, hch, hv]

theorem runGs_over (hv : x.verb = 1) (h0 : ((s.cellAt t).sectionAt (gsSec x)).count = 0) (hl : (s.cellAt t).looping (gsSec x) = false) :
    runGs x s = .done x 1 [] s := by
  simp [runGs, ht, hch, hv, h0, hl]

theorem runGs_waits (hv : x.verb = 1) (h : ((s.cellAt t).sectionAt (gsSec x)).count ≠ 0 ∨ (s.cellAt t).looping (gsSec x) = true) :
    runGs x s = .block none false s := by
  rcases h with h | h <;> simp [runGs, ht, hch, hv, h]

end

theorem Cell.arm_count (c : Cell) {sec : Nat} (n : Nat) (h : sec < 8) :
    ((c.arm sec n).sectionAt sec).count = min ((c.sectionAt sec).count + n) 0xFFFF_FFFF := by
  rw [Cell.arm, Cell.sectionAt_onSection h]

theorem loopSec_lt (x : Cmd) : loopSec x < 8 := Nat.mod_lt _ (by decide)

theorem cellAt_putCell (c : CellId) (x : Cell) (s : State) : (s.putCell c x).cellAt c = x := by
  unfold State.putCell State.cellAt
  by_cases h : c = s.here <;> simp [h]

theorem putCell_pkg (c : CellId) (x : Cell) (s : State) : (s.putCell c x).pkg = s.pkg := by
  unfold State.putCell
  split <;> rfl

/-- A loop at the head of its queue takes the whole count of its section (R285). -/
theorem exec_loopTake {c : CellId} {l : Cmd} {r : List Cmd} {s : State} (hq : (s.cellAt c).mx.q = l :: r) (hs : (s.cellAt c).stopped = false)
    (ha : s.active (s.cellAt c) = true) (hv : l.verb = 9) (hb : l.begun = true) (hn : l.note = 0) (hc : ((s.cellAt c).sectionAt (loopSec l)).count ≠ 0) :
    exec (.loopTake c) s = .next (s.putCell c ({ s.cellAt c with mx := { (s.cellAt c).mx with
      q := { l with note := ((s.cellAt c).sectionAt (loopSec l)).count } :: r } }.onSection (loopSec l) fun q => { q with count := 0 })) := by
  show execLoopTake c s = _
  simp [execLoopTake, hs, ha, hq, hv, hb, hn, hc]

/-! ### Lookahead and polls (R299, R302) -/

section
variable {wid : BitVec 2} {w : Walk} {s : State} (hs : s.cell.stopped = false) (ha : s.active s.cell = true) (hw : s.cell.walkAt wid.toNat = some w)
include hs ha hw

/-- The header that enters the lookahead is read, and its page joins the walk. -/
theorem exec_lookaheadFill {hdr : Word} {i : Nat} {p : Page} {t : State} (hf : w.following = some (hdr, i)) (hne : w.pages ≠ []) (hlen : w.pages.length < 5)
    (hd : w.ftabDue = false) (hst : ∀ p ∈ w.pages, p.stale = false) (hr : readHeader .kv w.cap hdr i s = .ok p t) :
    exec (.lookaheadFill s.here wid) s = .next ((meetTier wid.toNat p (t.onCell (Cell.onWalk wid.toNat (Walk.hold p)))).focus s.here) := by
  have hstale : w.pages.find? (·.stale) = none := List.find?_eq_none.2 fun p hp => by simp [hst p hp]
  have hroom : (w.pages.isEmpty || decide (5 ≤ w.pages.length)) = false := by simp [hne, hlen]
  show execLookaheadFill s.here wid s = _
  simp [execLookaheadFill, State.within, hs, ha, hw, hd, hstale, hf, hroom, fillPage, hr]

/-- TIER of the one page that is not near is read again. -/
theorem exec_tierPoll {p : Page} {tier : BitVec 2} {t : State} (hp : (w.pages.filter fun p => !p.stale && p.tier != 0 && p.err == 0) = [p])
    (hr : readTier p.hdr s = .ok tier t) :
    exec (.tierPoll s.here wid) s = .next ((t.onCell (Cell.onWalk wid.toNat fun w =>
      { w with pages := w.pages.map fun q => if q.index == p.index then { q with tier := tier } else q })).focus s.here) := by
  show execTierPoll s.here wid s = _
  simp only [execTierPoll, State.within, State.focus_here, hs, ha, hw, hp, List.foldl_cons, List.foldl_nil, hr]
  rfl

end

end Sys2Proof.Machine
end

section
/-! One unit of the chain unit and of the sketch unit (R194, R195, R306): what a group of elements becomes, and the scores and bits of pages. -/

namespace Sys2Proof.Machine

/-! ### Accesses that succeed, wait and fail -/

@[simp] theorem Io.bind_ok {α β : Type} (a : α) (s : State) (f : α → State → Io β) : (Io.ok a s).bind f = f a s := rfl
@[simp] theorem Io.bind_block {α β : Type} (w : Option ParkKey) (b : Bool) (s : State) (f : α → State → Io β) : (Io.block w b s).bind f = .block w b s := rfl
@[simp] theorem Io.bind_fault {α β : Type} (c : Byte) (s : State) (f : α → State → Io β) : (Io.fault c s).bind f = .fault c s := rfl
@[simp] theorem Io.ran_ok {α : Type} (info : W32) (a : α) (s : State) (f : α → State → Ran) : (Io.ok a s).ran info f = f a s := rfl
@[simp] theorem Io.ran_block {α : Type} (info : W32) (w : Option ParkKey) (b : Bool) (s : State) (f : α → State → Ran) : (Io.block w b s).ran info f = .block w b s := rfl
@[simp] theorem Io.ran_fault {α : Type} (info : W32) (c : Byte) (s : State) (f : α → State → Ran) : (Io.fault c s).ran info f = .fault c info s := rfl

/-- What succeeds as two accesses in order has two parts that do. -/
theorem Io.bind_eq_ok {α β : Type} {x : Io α} {f : α → State → Io β} {b : β} {t : State} :
    x.bind f = .ok b t ↔ ∃ a s, x = .ok a s ∧ f a s = .ok b t := by
  cases x with
  | ok a s => exact ⟨fun h => ⟨a, s, rfl, h⟩, by rintro ⟨_, _, h, h'⟩; cases h; exact h'⟩
  | block w b s => simp
  | fault c s => simp

@[simp] theorem Io.each_nil {α β : Type} (f : α → State → Io β) (s : State) : Io.each f [] s = .ok [] s := rfl

theorem Io.each_cons {α β : Type} (f : α → State → Io β) (a : α) (l : List α) (s : State) :
    Io.each f (a :: l) s = (f a s).bind fun b s => (Io.each f l s).bind fun l s => .ok (b :: l) s := rfl

/-- As many accesses succeed as were made. -/
theorem Io.length_of_each {α β : Type} {f : α → State → Io β} {l : List α} {r : List β} {s t : State} (h : Io.each f l s = .ok r t) :
    r.length = l.length := by
  induction l generalizing s r with
  | nil => cases h; rfl
  | cons a l ih =>
    rw [Io.each_cons] at h
    obtain ⟨b, s', -, h⟩ := Io.bind_eq_ok.1 h
    obtain ⟨r', s'', hr, h⟩ := Io.bind_eq_ok.1 h
    cases h
    rw [List.length_cons, List.length_cons, ih hr]

/-! ### The chain unit (R194, R195) -/

@[simp] theorem chainRan_ok {α : Type} (k : Nat) (a : α) (s : State) (f : α → State → Ran) : chainRan k (.ok a s) f = f a s := rfl
@[simp] theorem chainRan_fault {α : Type} (k : Nat) (c : Byte) (s : State) (f : α → State → Ran) :
    chainRan k (.fault c s) f = .fault cENGINE_FAULT (BitVec.ofNat 32 k) s := rfl

/-- The rounding of a chain's outputs. -/
def ChainDesc.rounding (d : ChainDesc) (x : Cmd) : Rounding := if d.rm = 7 then ⟨x.rm, x.sat⟩ else ⟨d.rm, d.sat⟩

/-- The outputs of a group with their flags. -/
def chainOuts (x : Cmd) (d : ChainDesc) (k : Nat) (ins auxs : List Nat) : List (Nat × Flags) :=
  ins.mapIdx fun j e =>
    let r := roundTo d.ofmt (d.rounding x) ((philox x.dkey (BitVec.ofNat 32 (k + j)) 0 x.draw 0x4000_0000).1.toNat % 2 ^ 16)
      (valueOf fFP32 (chainElem d e (auxs.getD j 0)).1)
    (r.1, (chainElem d e (auxs.getD j 0)).2 ||| r.2)

section
variable {x : Cmd} {s : State}

theorem runCh_over (hb : x.begun = true) (hk : (chainDesc x x.desc).count ≤ 8 * x.unit) :
    ∃ fill, runCh x s = .done x (BitVec.ofNat 32 (chainDesc x x.desc).count) fill s := by
  simp [runCh, hb, chainGroup, hk]

/-- A group whose elements are read is written, and goes on or fails with its writes. -/
theorem runCh_group (hb : x.begun = true) (hk : 8 * x.unit < (chainDesc x x.desc).count) {ins auxs : List Nat} {v w : State}
    (hi : readElems (chainDesc x x.desc).saddr (chainDesc x x.desc).ifmt (8 * x.unit) (min 8 ((chainDesc x x.desc).count - 8 * x.unit)) s = .ok ins v)
    (ha : (if (chainDesc x x.desc).aux then
        readElems (chainDesc x x.desc).aaddr (chainDesc x x.desc).afmt (8 * x.unit) (min 8 ((chainDesc x x.desc).count - 8 * x.unit)) v
      else .ok [] v) = .ok auxs w) :
    let l := chainOuts x (chainDesc x x.desc) (8 * x.unit) ins auxs
    runCh x s = chainRan (8 * x.unit) (writeElems (chainDesc x x.desc).daddr (chainDesc x x.desc).ofmt (8 * x.unit) (l.map Prod.fst) w) fun _ u =>
      .more { x with unit := x.unit + 1, flags := x.flags ||| orFlags (l.map Prod.snd) } u := by
  simp only [runCh, hb, if_true, chainGroup, Nat.not_le.2 hk, if_false, hi, ha, chainRan_ok]
  rfl

end

theorem chainElem_eq (d : ChainDesc) (a b : Nat) :
    let A := roundTo fFP32 rne 0 (valueOf d.ifmt a)
    let B := if d.aux then roundTo fFP32 rne 0 (valueOf d.afmt b) else (0, 0)
    chainElem d a b = d.used.foldl (fun v o =>
      let r := chainOp (bits o.toNat 11 5) v.1 (if bits o.toNat 8 3 = 4 then B.1 else (d.consts.getD (bits o.toNat 8 3) 0).toNat)
      (r.1, v.2 ||| r.2)) (A.1, A.2 ||| B.2) := rfl

/-! ### The sketch unit (R306) -/

/-- The command after a page has come to an outcome. -/
def skNext (x : Cmd) (r : Scored) (next : Word) : Cmd :=
  { x with unit := x.unit + 1, desc := (x.desc.take 8 ++ [next]) ++ (x.desc.drop 9 ++ [r.word]) }

/-- Σ q[e] × k[e] as a sum over the elements. -/
def sketchSum (n : Nat) (q k : List Byte) : Int :=
  (((elementsOfBytes 6 n q).zip (elementsOfBytes 6 n k)).map fun e => intOf 6 e.1 * intOf 6 e.2).sum

theorem sketchDot_eq_sum (n : Nat) (q k : List Byte) : sketchDot n q k = sketchSum n q k := by
  rw [sketchDot, sketchSum, List.sum_eq_foldl]

theorem le_foldl_max (a : Int) (l : List Int) : a ≤ l.foldl max a ∧ (∀ b ∈ l, b ≤ l.foldl max a) ∧ (l.foldl max a = a ∨ l.foldl max a ∈ l) := by
  induction l generalizing a with
  | nil => simp
  | cons b l ih =>
    obtain ⟨hle, hall, hmem⟩ := ih (max a b)
    rw [List.foldl_cons]
    refine ⟨by omega, ?_, ?_⟩
    · intro c hc
      rcases List.mem_cons.1 hc with rfl | hc
      · omega
      · exact hall c hc
    · rcases hmem with h | h
      · rcases max_choice a b with h' | h' <;> rw [h, h'] <;> simp
      · exact .inr (List.mem_cons_of_mem _ h)

/-- The top score bounds the scores and is one of them. -/
theorem topScore_spec {l : List Int} (h : l ≠ []) : (∀ v ∈ l, v ≤ topScore l) ∧ topScore l ∈ l := by
  cases l with
  | nil => exact absurd rfl h
  | cons a r =>
    obtain ⟨hle, hall, hmem⟩ := le_foldl_max a r
    exact ⟨List.forall_mem_cons.2 ⟨hle, hall⟩, List.mem_cons.2 hmem⟩

section
variable {x : Cmd} {s : State}

theorem runSk_begins (hb : x.begun = false) (h3 : x.w3 = 0) (hch : s.cell.tokenChannel x = true) {bytes : List Byte} {v : State}
    (hr : readMem .sk x.addr 64 s = .ok bytes v) :
    runSk x s = if skOk x (wordsOfBytes 8 bytes) then .more { x with begun := true, desc := wordsOfBytes 8 bytes ++ [skFirst (wordsOfBytes 8 bytes)] } v
      else .fault cENGINE_CMD 0 v := by
  simp [runSk, hb, h3, hch, hr, refused]

section
variable (hb : x.begun = true) (hu : x.unit < skPages x.desc)
include hb hu

theorem runSk_noPage (h0 : dw x.desc 8 = 0) : runSk x s = .more (skNext x (.bit false) 0) s := by
  simp [runSk, hb, Nat.not_le.2 hu, h0, skNext]

theorem runSk_page (h0 : dw x.desc 8 ≠ 0) {p : Page} {v : State} (hr : readHeader .sk 32 (dw x.desc 8) x.unit s = .ok p v)
    (hal : p.sketch.toNat % 64 = 0) : runSk x s = (scorePage x.desc p v).ran (BitVec.ofNat 32 x.unit) fun r s => .more (skNext x r p.next) s := by
  simp only [runSk, hb, Bool.not_true, Bool.false_eq_true, if_false, Nat.not_le.2 hu, h0, hr, Io.ran_ok, ne_eq, hal, not_true_eq_false, skNext]

end

/-- The tokens of a page that a score counts. -/
def skTokens (d : List Word) (p : Page) : List Nat := (List.range 32).filter fun j => decide (j < p.tcount) && decide (skLow d ≤ p.posBase + j)

section
variable {d : List Word} {p : Page} {v : State}

theorem scorePage_none (h : skTokens d p = []) : scorePage d p v = .ok (.bit false) v := by
  have h' : ((List.range 32).filter fun j => p.valid (skLow d) j) = [] := h
  simp [scorePage, h']

theorem scorePage_far (h : skTokens d p ≠ []) (ht : p.tier ≠ 0) : scorePage d p v = .ok (.bit true) v := by
  have h' : ((List.range 32).filter fun j => p.valid (skLow d) j) ≠ [] := h
  simp only [scorePage, List.isEmpty_eq_false_iff.2 h', ht, ne_eq, not_false_eq_true, if_true, Bool.false_eq_true, if_false]

/-- A near page has the greatest of its tokens' sums. -/
theorem scorePage_near (h : skTokens d p ≠ []) (ht : p.tier = 0) {q : List Byte} {ks : List (List Byte)} {u w : State}
    (hq : readMem .sk (skQuery d) (skSize d / 2) v = .ok q u)
    (hk : Io.each (fun j s => readMem .sk (p.sketch + BitVec.ofNat 64 (j * (skSize d / 2))) (skSize d / 2) s) (skTokens d p) u = .ok ks w) :
    ∃ m : Int, scorePage d p v = .ok (.score m) w ∧ (∀ k ∈ ks, sketchSum (skSize d) q k ≤ m) ∧ ∃ k ∈ ks, sketchSum (skSize d) q k = m := by
  have h' : ((List.range 32).filter fun j => p.valid (skLow d) j) ≠ [] := h
  have hk' : Io.each (fun j s => readMem .sk (p.sketch + BitVec.ofNat 64 (j * (skSize d / 2))) (skSize d / 2) s)
      ((List.range 32).filter fun j => p.valid (skLow d) j) u = .ok ks w := hk
  have hne : ks.map (sketchDot (skSize d) q) ≠ [] := by
    have := Io.length_of_each hk
    cases ks with
    | nil => exact absurd (List.length_eq_zero_iff.1 this.symm) h
    | cons => simp
  obtain ⟨hall, hmem⟩ := topScore_spec hne
  refine ⟨topScore (ks.map (sketchDot (skSize d) q)), ?_, fun k hk => ?_, ?_⟩
  · simp only [scorePage, List.isEmpty_eq_false_iff.2 h', ht, ne_eq, not_true_eq_false, if_false, Bool.false_eq_true, hq, hk', Io.bind_ok]
  · rw [← sketchDot_eq_sum]
    exact hall _ (List.mem_map_of_mem hk)
  · obtain ⟨k, hk, he⟩ := List.mem_map.1 hmem
    exact ⟨k, hk, by rw [← sketchDot_eq_sum, he]⟩

end

theorem runSk_over (hb : x.begun = true) (hu : skPages x.desc ≤ x.unit) {u : State} :
    let l := survivors (x.desc.take 8) ((x.desc.drop 9).map scoredOf)
    writeAll .sk [(skOut (x.desc.take 8), bytesOf (skBytes (x.desc.take 8)) ((l.mapIdx fun i b => if b then 2 ^ i else 0).sum)),
      (x.addr + 40, bytesOf 8 (l.filter id).length)] s = .ok () u →
    ∃ fill, runSk x s = .done x (BitVec.ofNat 32 (l.filter id).length) fill u := by
  intro l hw
  rw [List.sum_eq_foldl] at hw
  simp only [runSk, hb, Bool.not_true, Bool.false_eq_true, if_false, hu, if_true, skDone, skCount]
  rw [hw]
  exact ⟨_, rfl⟩

end

/-! ### The bits of OUT (R306) -/

/-- A count over the elements with their places is a count of places. -/
theorem length_filter_mapIdx {α : Type} (P : Nat × α → Bool) (l : List α) :
    ((l.mapIdx fun j x => (j, x)).filter P).length = ((List.range l.length).filter fun j => l[j]?.any fun x => P (j, x)).length := by
  induction l using List.reverseRecOn with
  | nil => rfl
  | append_singleton l a ih =>
    have hl : ((List.range l.length).filter fun j => (l ++ [a])[j]?.any fun x => P (j, x)) =
        (List.range l.length).filter fun j => l[j]?.any fun x => P (j, x) :=
      List.filter_congr fun j hj => by rw [List.getElem?_append_left (List.mem_range.1 hj)]
    rw [List.mapIdx_concat, List.filter_append, List.length_append, ih, List.length_append, List.length_singleton, List.range_succ, List.filter_append,
      List.length_append, hl]
    cases h : P (l.length, a) <;> simp [h]

/-- The pages that rank before a page, by their places. -/
theorem ranksAhead_eq (l : List Scored) (i : Nat) (v : Int) : ranksAhead l i v =
    ((List.range l.length).filter fun j => match l[j]? with | some (Scored.score w) => decide (v < w) || (w == v && decide (j < i)) | _ => false).length := by
  rw [ranksAhead, length_filter_mapIdx]
  congr 2
  funext j
  cases l[j]? with
  | none => rfl
  | some x => cases x <;> rfl

/-- The bit that an outcome comes to among those of all pages. -/
def survives (d : List Word) (l : List Scored) (i : Nat) : Scored → Bool
  | .bit b => b
  | .score v => if skTop d then decide (ranksAhead l i v < skTopk d) else decide (skThresh d ≤ v)

theorem survivors_getElem? (d : List Word) (l : List Scored) (i : Nat) : (survivors d l)[i]? = l[i]?.map (survives d l i) := by
  rw [survivors, List.getElem?_mapIdx]
  refine congrArg (fun f => l[i]?.map f) (funext fun x => ?_)
  cases x <;> rfl

end Sys2Proof.Machine
end

section
/-! Accesses of an engine to the cell's own store, and one chunk of a copy (R272, R292, R293). -/

namespace Sys2Proof.Machine

/-! ### Accesses in order -/

/-- Accesses that each succeed and change nothing succeed in order. -/
theorem Io.each_quiet {α β : Type} {f : α → State → Io β} {g : α → β} {l : List α} {s : State} (h : ∀ a ∈ l, f a s = .ok (g a) s) :
    Io.each f l s = .ok (l.map g) s := by
  induction l with
  | nil => rfl
  | cons a l ih => rw [Io.each_cons, h a List.mem_cons_self, Io.bind_ok, ih fun b hb => h b (List.mem_cons_of_mem a hb)]; rfl

theorem Io.each_map {α β γ : Type} (f : β → State → Io γ) (g : α → β) (l : List α) (s : State) :
    Io.each f (l.map g) s = Io.each (fun a => f (g a)) l s := by
  induction l generalizing s with
  | nil => rfl
  | cons a l ih => rw [List.map_cons, Io.each_cons, Io.each_cons]; simp only [ih]

/-- Changes of the cell in focus in order are one change. -/
theorem foldl_onCell {α : Type} (f : α → Cell → Cell) (l : List α) (s : State) :
    l.foldl (fun s a => s.onCell (f a)) s = s.onCell fun c => l.foldl (fun c a => f a c) c := by
  induction l generalizing s with
  | nil => rfl
  | cons a l ih => rw [List.foldl_cons, ih]; rfl

/-! ### The cell's own store -/

@[simp] theorem length_bytesOf (n v : Nat) : (bytesOf n v).length = n := by
  induction n generalizing v with
  | zero => rfl
  | succ n ih => rw [bytesOf, List.length_cons, ih]

@[simp] theorem Cell.length_load (c : Cell) (off n : Nat) : (c.load off n).length = n := by simp [Cell.load, sgets]

section
variable {a : Word} {n off : Nat} {s : State}

theorem spot_cell (wr : Bool) (e : Engine) (h : region a n = .cell off) : spot wr e a n s = .ok (.cell off) s := by
  rw [spot, h]

theorem readMem_cell (e : Engine) (h : region a n = .cell off) (hd : s.cell.damagedAt off n = false) :
    readMem e a n s = .ok (s.cell.load off n) s := by
  simp [readMem, spot_cell false e h, spotBad, hd, spotBytes]

theorem Cell.damagedAt_none {c : Cell} (h : c.badStore = []) (off n : Nat) : c.damagedAt off n = false := by
  simp [Cell.damagedAt, h, sget]

theorem carry_cell (h : region a n = .cell off) (hb : s.cell.badStore = []) (hp : s.cell.poisonStore = []) :
    carry a n s = .ok (s.cell.load off n, false) s := by
  simp [carry, spot_cell false .cp h, spotPoisoned, hp, sget, spotBytes, spotBad, Cell.damagedAt_none hb]

end

/-! ### One chunk of a copy (R293) -/

section
variable {d : List Word} {s : State}

/-- An element that is filled is its pattern. -/
theorem cpElement_fill (i : Nat) : cpElement 2 d i s = .ok [(cpDstAt d i, bytesOf (cpElem d) (cpPat d).toNat, false)] s := rfl

/-- An element of at most 8 bytes that lies in the cell's own store is read in one access. -/
theorem cpElement_cell {verb i src : Nat} {a : Word} (hv : verb ≠ 2) (he : cpElem d ≤ 8) (ha : cpSrcAt verb d i s = .ok a s)
    (hr : region a (cpElem d) = .cell src) (hb : s.cell.badStore = []) (hp : s.cell.poisonStore = []) :
    cpElement verb d i s = .ok [(cpDstAt d i, s.cell.load src (cpElem d), false)] s := by
  simp [cpElement, hv, ha, elemUnits, he, Io.each_cons, carry_cell hr hb hp]

theorem cpSrcAt_plain (i : Nat) : cpSrcAt 0 d i s = .ok (cpSrc d + strideSum (cpSstr d) (indexVector (cpCounts d) i)) s := rfl

/-- The source of a gathered element, where its index lies in the cell's own store. -/
theorem cpSrcAt_gather {i idx : Nat} (hb : s.cell.badStore = [])
    (h : region (cpIdx d + BitVec.ofNat 64 ((indexVector (cpCounts d) i).getD (cpNdim d - 1) 0 * (4 * 2 ^ cpIw d))) (4 * 2 ^ cpIw d) = .cell idx) :
    cpSrcAt 1 d i s = .ok (cpSrc d + strideSum (cpSstr d) (indexVector (cpCounts d) i) -
      BitVec.ofNat 64 ((indexVector (cpCounts d) i).getD (cpNdim d - 1) 0) * cpSstr d (cpNdim d - 1) +
      BitVec.ofNat 64 (ofBytes (s.cell.load idx (4 * 2 ^ cpIw d))) * cpSstr d (cpNdim d - 1)) s := by
  simp only [cpSrcAt, if_true, readMem_cell .cp h (Cell.damagedAt_none hb _ _), Io.bind_ok]

/-- A chunk of elements that are one unit each is read element by element. -/
theorem cpGatherChunk_units {verb u : Nat} {B : Nat → List Byte}
    (h : ∀ i < (cpChunk d u).2, cpElement verb d ((cpChunk d u).1 + i) s = .ok [(cpDstAt d ((cpChunk d u).1 + i), B i, false)] s) :
    cpGatherChunk verb d u s = .ok ((List.range (cpChunk d u).2).map fun i => (cpDstAt d ((cpChunk d u).1 + i), B i, false)) s := by
  simp only [cpGatherChunk]
  rw [Io.each_quiet fun i hi => h i (List.mem_range.1 hi), Io.bind_ok, ← List.flatMap_def, ← List.map_eq_flatMap]

/-- Units that lie in the cell's own store are stored in order. -/
theorem cpWriteChunk_cell {n : Nat} {a : Nat → Word} {B : Nat → List Byte} {dst : Nat → Nat} (h : ∀ i < n, region (a i) (B i).length = .cell (dst i)) :
    cpWriteChunk ((List.range n).map fun i => (a i, B i, false)) s =
      .ok () (s.onCell fun c => (List.range n).foldl (fun c i => c.storeAt (dst i) (B i)) c) := by
  simp only [cpWriteChunk]
  rw [Io.each_map, Io.each_quiet fun i hi => spot_cell true .cp (h i (List.mem_range.1 hi)), Io.bind_ok, List.zip_map', List.foldl_map]
  exact congrArg _ (foldl_onCell (fun i => Cell.storeAt (dst i) (B i)) _ s)

end

section
variable {x : Cmd} {s : State} (hi : x.internal = false)
include hi

theorem runCp_begins (hb : x.begun = false) (ha : x.addr.toNat % 64 = 0) (h3 : x.w3 = 0) (hch : s.cell.tokenChannel x = true) {bytes : List Byte} {v : State}
    (hr : readMem .cp x.addr 192 s = .ok bytes v) :
    runCp x s = if cpOk x.verb (wordsOfBytes 24 bytes) && (x.done != 1 || cpInStore (wordsOfBytes 24 bytes)) then
        .more { x with begun := true, desc := wordsOfBytes 24 bytes } v
      else .fault cENGINE_CMD 0 v := by
  simp [runCp, hi, hb, cpBegin, ha, h3, hch, hr, refused]

section
variable (hb : x.begun = true) (hrem : cpRem x.desc = false)
include hb hrem

theorem runCp_over (hn : (cpChunk x.desc x.unit).2 = 0) : ∃ fill, runCp x s = .done x (BitVec.ofNat 32 x.verb) fill s := by
  simp [runCp, hi, hb, hrem, cpLocal, hn]

/-- A chunk that is read is written, and the copy goes on or fails with its writes. -/
theorem runCp_chunk (hn : (cpChunk x.desc x.unit).2 ≠ 0) {l : List (Word × List Byte × Bool)} {v : State}
    (hg : cpGatherChunk x.verb x.desc x.unit s = .ok l v) :
    runCp x s = (cpWriteChunk l v).ran (BitVec.ofNat 32 (cpChunk x.desc x.unit).1) fun _ s => .more { x with unit := x.unit + 1 } s := by
  simp only [runCp, hi, Bool.false_eq_true, if_false, hb, Bool.not_true, hrem, cpLocal, hn, hg, Io.ran_ok]

/-- A chunk whose elements are read as single units, and whose destinations lie in the cell's own store, is stored there in order. -/
theorem runCp_cell (hn : (cpChunk x.desc x.unit).2 ≠ 0) {B : Nat → List Byte} {dst : Nat → Nat}
    (he : ∀ i < (cpChunk x.desc x.unit).2, cpElement x.verb x.desc ((cpChunk x.desc x.unit).1 + i) s =
      .ok [(cpDstAt x.desc ((cpChunk x.desc x.unit).1 + i), B i, false)] s)
    (hd : ∀ i < (cpChunk x.desc x.unit).2, region (cpDstAt x.desc ((cpChunk x.desc x.unit).1 + i)) (B i).length = .cell (dst i)) :
    runCp x s = .more { x with unit := x.unit + 1 } (s.onCell fun c =>
      (List.range (cpChunk x.desc x.unit).2).foldl (fun c i => c.storeAt (dst i) (B i)) c) := by
  rw [runCp_chunk hi hb hrem hn (cpGatherChunk_units he), cpWriteChunk_cell hd, Io.ran_ok]

end
end

end Sys2Proof.Machine
end

section
/-! One unit of a walker's command (R296-R305): opening a walk, loads, page-ins and freed pages, and the bytes that a load delivers. -/

namespace Sys2Proof.Machine

/-! ### What an access that succeeds leaves of the cell -/

theorem Cell.posted_evict (num : BitVec 15) (c : Cell) : c.Posted (c.evict num) := by
  unfold Cell.evict
  split
  · unfold Cell.wakeAll
    refine Cell.Posted.trans (c' := { c with win := c.win.filter fun w : WinRec => w.num != num }) rfl ?_
    exact (Cell.posted_wakeWhere _ _).trans rfl
  · exact .refl c

theorem posted_fetchRecord (num : BitVec 15) (s : State) : s.cell.Posted (fetchRecord num s).cell := by
  unfold fetchRecord
  split
  · exact .refl _
  · refine Cell.Posted.trans (c' := if s.cell.win.length < 8 then s.cell else match s.cell.win.head? with | some v => s.cell.evict v.num | none => s.cell)
      ?_ rfl
    split
    · exact .refl _
    · split
      · exact Cell.posted_evict _ _
      · exact .refl _

theorem posted_streamSpot {wr : Bool} {e : Engine} {num : BitVec 15} {pos : BitVec 48} {n : Nat} {s t : State} {sp : Spot}
    (h : streamSpot wr e num pos n s = .ok sp t) : s.cell.Posted t.cell := by
  have hs : s.cell.Posted (if s.cell.win.any (fun w : WinRec => w.num == num) then s else fetchRecord num s).cell := by
    split
    · exact .refl _
    · exact posted_fetchRecord num s
  unfold streamSpot at h
  dsimp only at h
  generalize (if s.cell.win.any (fun w : WinRec => w.num == num) then s else fetchRecord num s) = s1 at h hs
  repeat' split at h
  all_goals cases h
  all_goals exact hs.trans rfl

theorem posted_spot {wr : Bool} {e : Engine} {va : Word} {n : Nat} {s t : State} {sp : Spot} (h : spot wr e va n s = .ok sp t) :
    s.cell.Posted t.cell := by
  unfold spot at h
  split at h
  · cases h
  · cases h; exact .refl _
  · exact posted_streamSpot h
  · repeat' split at h
    all_goals cases h
    all_goals exact .refl _

theorem posted_readMem {e : Engine} {va : Word} {n : Nat} {s t : State} {l : List Byte} (h : readMem e va n s = .ok l t) : s.cell.Posted t.cell := by
  obtain ⟨sp, u, hsp, h⟩ := Io.bind_eq_ok.1 h
  split at h
  · cases h
  · cases h; exact posted_spot hsp

theorem posted_each {α β : Type} {f : α → State → Io β} (hf : ∀ a s b t, f a s = .ok b t → s.cell.Posted t.cell) {l : List α} {r : List β} {s t : State}
    (h : Io.each f l s = .ok r t) : s.cell.Posted t.cell := by
  induction l generalizing s r with
  | nil => cases h; exact .refl _
  | cons a l ih =>
    obtain ⟨b, u, hb, h⟩ := Io.bind_eq_ok.1 h
    obtain ⟨r', v, hr, h⟩ := Io.bind_eq_ok.1 h
    cases h
    exact (hf a s b u hb).trans (ih hr)

theorem Cell.Posted.walkAt {c d : Cell} (h : c.Posted d) (n : Nat) : d.walkAt n = c.walkAt n := by
  rw [h]
  rfl

theorem Cell.posted_foldl {α : Type} {f : Cell → α → Cell} (h : ∀ (c : Cell) (a : α), c.Posted (f c a)) (l : List α) (c : Cell) : c.Posted (l.foldl f c) := by
  induction l generalizing c with
  | nil => exact .refl c
  | cons a l ih => exact (h c a).trans (ih _)

theorem Cell.posted_deliver (x : Cmd) (w : Walk) (p : Option Page) (rows : List (Nat × List Byte)) (c : Cell) : c.Posted (c.deliver x w p rows) := by
  have hslabs (f : Nat → Nat) (g : Nat → List Byte) (l : List Nat) : c.Posted (l.foldl (fun c s => c.storeAt (f s) (g s)) c) :=
    Cell.posted_foldl (fun c s => Cell.posted_storeAt _ _ c) l c
  unfold Cell.deliver
  dsimp only
  split
  · exact (hslabs _ _ _).trans (Cell.posted_storeAt _ _ _)
  · exact hslabs _ _ _

/-! ### Walks -/

theorem Cell.walkAt_onWalk {n : Nat} (hn : n < 4) (f : Walk → Walk) (c : Cell) : (c.onWalk n f).walkAt n = (c.walkAt n).map f := by
  simp [Cell.onWalk, Cell.walkAt, List.getD, hn]

/-- The walk that a command names. -/
def Cmd.wid (x : Cmd) : Nat := bits x.w3.toNat 0 2

theorem Cmd.wid_lt (x : Cmd) : x.wid < 4 := Nat.mod_lt _ (by decide)

section
variable {x : Cmd} {s : State}

/-- A walker's command that has begun, or passes its checks, is run by its verb. -/
theorem runKv_runs (h : x.begun = true ∨ (kvOk x = true ∧ s.cell.tokenChannel x = true)) :
    runKv x s = match x.verb with
      | 0 => kvWalk x s
      | 1 | 2 => kvLoad x s
      | 3 => pagein x s
      | _ => kvFree x s := by
  have hgo : (!x.begun && (!kvOk x || !s.cell.tokenChannel x)) = false := by
    rcases h with h | ⟨h, h'⟩ <;> simp [*]
  rw [runKv, hgo]
  rfl

/-! ### Opening a walk (R298) -/

theorem kvWalk_ends (hu : x.unit = 0) (ha : x.addr = 0) : kvWalk x s = .done x 0 [] (s.onCell (Cell.putWalk x.wid none)) := by
  simp [kvWalk, hu, ha, Cmd.wid]

theorem kvWalk_begins (hu : x.unit = 0) (ha : x.addr ≠ 0) :
    kvWalk x s = .more { x with unit := 1, begun := true } (s.onCell (Cell.putWalk x.wid none)) := by
  simp only [kvWalk, hu, ha, if_false, Cmd.wid]

theorem kvWalk_waits (hu : x.unit = 1) (h : 16 ≤ s.openWalks) : kvWalk x s = .block none false s := by
  simp [kvWalk, hu, h]

theorem kvWalk_opens (hu : x.unit = 1) (h : s.openWalks < 16) {bytes : List Byte} {v : State} (hr : readMem .kv x.addr 64 s = .ok bytes v) :
    kvWalk x s = if walkOk (wordsOfBytes 8 bytes) then .more { x with unit := 2 } (v.onCell (Cell.putWalk x.wid (some (walkOf (wordsOfBytes 8 bytes)))))
      else .fault cENGINE_CMD 0 v := by
  cases hw : walkOk (wordsOfBytes 8 bytes) <;> simp [kvWalk, hu, Nat.not_le.2 h, hr, hw, refused, Cmd.wid]

theorem kvWalk_head (hu : 2 ≤ x.unit) {w : Walk} {hdr : Word} {i : Nat} {p : Page} {v : State} (hw : s.cell.walkAt x.wid = some w)
    (hd : w.ftabDue = false) (hp : w.pages = []) (hf : w.following = some (hdr, i)) (hr : readHeader .kv w.cap hdr i s = .ok p v) :
    kvWalk x s = .done x 0 [] (v.onCell (Cell.onWalk x.wid (Walk.hold p))) := by
  obtain ⟨u, hu⟩ := Nat.exists_eq_add_of_le' hu
  rw [Cmd.wid] at hw
  simp [kvWalk, hu, hw, hd, hp, hf, hr, Cmd.wid]

/-! ### Loads (R300, R301) -/

/-- The bytes of a token's row. -/
def loadRow (x : Cmd) (w : Walk) : Nat := if x.verb = 1 then w.kb else w.vb
/-- The address of a token's row. -/
def loadAddr (x : Cmd) (w : Walk) (p : Page) (j : Nat) : Word :=
  p.data + BitVec.ofNat 64 (if x.verb = 1 then 0 else w.cap * w.kb) + BitVec.ofNat 64 (j * loadRow x w)
/-- The tokens of a page that a load delivers. -/
def loadTokens (w : Walk) (p : Page) : List Nat := (List.range 32).filter fun j => decide (j < p.tcount) && decide (w.low ≤ p.posBase + j)
/-- The rows that a load delivers. -/
def loadRows (x : Cmd) (w : Walk) (p : Page) (l : List (List Byte)) : List (Nat × List Byte) :=
  ((loadTokens w p).zip l).map fun q => (q.1, (deliveredRow x w p q.1 q.2).1)

section
variable {w : Walk} (hw : s.cell.walkAt x.wid = some w) (hok : loadOk x w = true) (hd : w.ftabDue = false)
include hw hok hd

theorem kvLoad_past (hp : w.pages = []) (hf : w.following = none) :
    kvLoad x s = .done x (BitVec.ofBool true ++ BitVec.ofNat 31 w.index) (loadRanges x w) (s.onCell (Cell.deliver x w none [])) := by
  rw [Cmd.wid] at hw
  simp [kvLoad, hw, hok, hd, hp, hf, loadDone]

theorem kvLoad_error {p : Page} {ps : List Page} (hp : w.pages = p :: ps) (hs : p.stale = false) (he : p.err ≠ 0) :
    kvLoad x s = .fault p.err (BitVec.ofNat 32 w.index) s := by
  rw [Cmd.wid] at hw
  simp only [kvLoad, hw, hok, hd, hp, hs, he, Bool.not_true, Bool.false_eq_true, if_false, ne_eq, not_false_eq_true, if_true]

theorem kvLoad_far {p : Page} {ps : List Page} (hp : w.pages = p :: ps) (hs : p.stale = false) (he : p.err = 0) (ht : p.tier ≠ 0) :
    kvLoad x s = if p.tier = 3 then .fault cTIER_FAIL (BitVec.ofNat 32 w.index) (meetTier x.wid p s) else .block none false (meetTier x.wid p s) := by
  rw [Cmd.wid] at hw
  simp only [kvLoad, hw, hok, hd, hp, hs, he, ht, Bool.not_true, Bool.false_eq_true, if_false, ne_eq, not_true_eq_false, not_false_eq_true, if_true, Cmd.wid]

/-- A near page is delivered, and the cursor moves with ADV. -/
theorem kvLoad_near {p : Page} {ps : List Page} (hp : w.pages = p :: ps) (hs : p.stale = false) (he : p.err = 0) (ht : p.tier = 0)
    {l : List (List Byte)} {v : State} (hr : Io.each (fun j s => readMem .kv (loadAddr x w p j) (loadRow x w) s) (loadTokens w p) s = .ok l v) :
    ∃ z t, kvLoad x s = .done z (BitVec.ofBool false ++ BitVec.ofNat 31 w.index) (loadRanges x w) t ∧ t.pkg = v.pkg ∧
      t.cell.store = (v.cell.deliver x w (some p) (loadRows x w p l)).store ∧
      t.cell.walkAt x.wid = some (if bitOf x.w3.toNat 5 then { w with pages := ps, index := w.index + 1 } else w) := by
  have hwalk : (v.cell.deliver x w (some p) (loadRows x w p l)).walkAt x.wid = some w := by
    rw [(Cell.posted_deliver ..).walkAt, (posted_each (fun _ _ _ _ => posted_readMem) hr).walkAt, hw]
  have hr' : Io.each (fun j s => readMem .kv (p.data + BitVec.ofNat 64 (if x.verb = 1 then 0 else w.cap * w.kb) +
      BitVec.ofNat 64 (j * (if x.verb = 1 then w.kb else w.vb))) (if x.verb = 1 then w.kb else w.vb) s)
      ((List.range 32).filter fun j => p.valid w.low j) s = .ok l v := hr
  rw [Cmd.wid] at hw
  have hrun : ∃ fl, kvLoad x s = loadDone x x.wid w false fl (v.onCell (Cell.deliver x w (some p) (loadRows x w p l))) := by
    refine ⟨orFlags (((loadTokens w p).zip l).map fun q => (deliveredRow x w p q.1 q.2).2), ?_⟩
    simp only [kvLoad, hw, hok, hd, hp, hs, he, ht, Bool.not_true, Bool.false_eq_true, if_false, ne_eq, not_true_eq_false, hr', Io.ran_ok, List.map_map,
      loadRows]
    rfl
  obtain ⟨fl, hrun⟩ := hrun
  refine ⟨_, _, hrun, ?_⟩
  cases hadv : bitOf x.w3.toNat 5
  · exact ⟨rfl, rfl, hwalk⟩
  · refine ⟨rfl, rfl, ?_⟩
    show ((v.cell.deliver x w (some p) (loadRows x w p l)).onWalk x.wid _).walkAt x.wid = _
    rw [Cell.walkAt_onWalk x.wid_lt, hwalk]
    simp [hp]

end

end

end Sys2Proof.Machine
end

section
/-! Page-ins, freed pages and the bytes of a load (R297, R300, R304, R305). -/

namespace Sys2Proof.Machine

/-! ### TIER (R304) -/

/-- The bits of the mask of TIER. -/
theorem tierMask_bit : ∀ i < 64, (3#64 <<< 48).getLsbD i = (decide (48 ≤ i) && decide (i < 50)) := by decide

/-- Bits 49:48 of a word replaced. -/
theorem replace_tier (v : Word) (t : BitVec 2) :
    (v &&& ~~~(3#64 <<< 48)) ||| (t.setWidth 64 <<< 48) = v.extractLsb' 50 14 ++ t ++ v.extractLsb' 0 48 := by
  refine BitVec.eq_of_getLsbD_eq fun i hi => ?_
  simp only [BitVec.getLsbD_or, BitVec.getLsbD_and, BitVec.getLsbD_not, tierMask_bit i hi, BitVec.getLsbD_shiftLeft, BitVec.getLsbD_setWidth,
    BitVec.getLsbD_append, BitVec.getLsbD_extractLsb', hi]
  by_cases h48 : i < 48
  · simp [h48, show ¬ 48 ≤ i by omega]
  · by_cases h50 : i < 50
    · simp [h48, h50, show 48 ≤ i by omega, show i - 48 < 2 by omega, show i - 48 < 64 by omega]
    · simp [h48, h50, show 48 ≤ i by omega, show ¬ i - 48 < 2 by omega, show i - 48 - 2 < 14 by omega, show 50 + (i - 48 - 2) = i by omega,
        BitVec.getLsbD_of_ge t (i - 48) (by omega)]

theorem swapTier_cell {hdr : Word} {off : Nat} {s : State} (f : BitVec 2 → BitVec 2) (hr : region (hdr + 8) 8 = .cell off)
    (hd : s.cell.damagedAt off 8 = false) :
    let v := wordOfBytes (s.cell.load off 8)
    let t := v.extractLsb' 48 2
    swapTier hdr f s = .ok t (if f t = t then s else s.onCell (Cell.storeAt off (bytesOf 8 (v.extractLsb' 50 14 ++ f t ++ v.extractLsb' 0 48).toNat))) := by
  intro v t
  rw [← replace_tier]
  simp only [swapTier, spot_cell false .cp hr, spot_cell true .cp hr, Io.bind_ok, spotBad, hd, Bool.false_eq_true, if_false, spotBytes, writeSpot]
  rfl

/-! ### Page-ins (R304) -/

@[simp] theorem pageinRan_ok {α : Type} (x : Cmd) (a : α) (s : State) (f : α → State → Ran) : pageinRan x (.ok a s) f = f a s := rfl
@[simp] theorem pageinCopies_ok {α : Type} (x : Cmd) (a : α) (s : State) (f : α → State → Ran) : pageinCopies x (.ok a s) f = f a s := rfl

section
variable {x : Cmd} {s : State}

section
variable (h : x.begun = true ∨ (kvOk x = true ∧ s.cell.tokenChannel x = true))
include h

theorem runKv_walk (hv : x.verb = 0) : runKv x s = kvWalk x s := by simp only [runKv_runs h, hv]

theorem runKv_load (hv : x.verb = 1 ∨ x.verb = 2) : runKv x s = kvLoad x s := by
  rcases hv with hv | hv <;> simp only [runKv_runs h, hv]

theorem runKv_pagein (hv : x.verb = 3) (hc : x.ctx = s.cell.k.ctx) : runKv x s = pageinUnit x s := by
  simp [runKv_runs h, hv, pagein, inContext, hc]

theorem runKv_free (hv : x.verb = 4) : runKv x s = kvFree x s := by simp only [runKv_runs h, hv]

end

/-- A page-in that is a command's completes and leaves the walks. -/
theorem pageinDone_command (hi : x.internal = false) : pageinDone x s = .done x (BitVec.ofNat 32 (x.note % 4)) [] s := by
  simp [pageinDone, hi]

/-- A command's page-in of a page that is lost fails. -/
theorem pageinFails_command (hi : x.internal = false) : pageinFails x false s = .fault cTIER_FAIL (Config.pageinIndex x.addr) s := by
  simp [pageinFails, hi]

section
variable (hu : x.unit = 0) {p : Page} {v u : State} {old : BitVec 2} (hr : readHeader .cp 32 x.addr 0 s = .ok p v)
  (ht : swapTier x.addr (fun t => if t = 1 then 2 else t) v = .ok old u)
include hu hr ht

/-- The command after it has taken its page, or has found it taken or near. -/
def Cmd.tookPage (x : Cmd) (old : BitVec 2) : Cmd := { x with begun := true, note := old.toNat }

theorem pageinUnit_takes :
    pageinUnit x s = if old = 0 then pageinDone (x.tookPage old) u
      else if old = 2 then .more { x.tookPage old with unit := 1 } u
      else if old = 3 then pageinFails (x.tookPage old) false u
      else .more { x.tookPage old with unit := 2, desc := [p.data, p.far] } u := by
  simp only [pageinUnit, hu, hr, ht, pageinRan_ok, Cmd.tookPage]

end

section
variable {i : Nat} (hu : x.unit = i + 2)
include hu

/-- After its last chunk, the page is near. -/
theorem pageinUnit_ends (hn : 64 * bits x.w3.toNat 0 24 - 4096 * i = 0) {old : BitVec 2} {u : State} (ht : swapTier x.addr (fun _ => 0) s = .ok old u) :
    pageinUnit x s = pageinDone x u := by
  simp only [pageinUnit, hu, pageinChunk, hn, Nat.min_zero, if_true, ht, pageinRan_ok]

/-- A chunk is read whole, and then written. -/
theorem pageinUnit_copies (hn : 64 * bits x.w3.toNat 0 24 - 4096 * i ≠ 0) {sp : Spot} {v u : State}
    (hs : spot false .cp (dw x.desc 1 + BitVec.ofNat 64 (4096 * i)) (min 4096 (64 * bits x.w3.toNat 0 24 - 4096 * i)) s = .ok sp v)
    (hb : spotBad sp (min 4096 (64 * bits x.w3.toNat 0 24 - 4096 * i)) v = false)
    (hw : writeMem .cp (dw x.desc 0 + BitVec.ofNat 64 (4096 * i)) (spotBytes sp (min 4096 (64 * bits x.w3.toNat 0 24 - 4096 * i)) v) v = .ok () u) :
    pageinUnit x s = .more { x with unit := x.unit + 1 } u := by
  have hmin : min 4096 (64 * bits x.w3.toNat 0 24 - 4096 * i) ≠ 0 := by omega
  simp only [pageinUnit, hu, pageinChunk, hmin, if_false, hs, hb, Bool.false_eq_true, hw, pageinCopies_ok]

end

/-! ### Freed pages (R305) -/

theorem kvFree_begins (hb : x.begun = false) {bytes : List Byte} {v : State} (hr : readMem .kv x.addr 32 s = .ok bytes v) :
    kvFree x s = if freeOk x (wordsOfBytes 4 bytes) then .more { x with begun := true, desc := wordsOfBytes 4 bytes } v else .fault cENGINE_CMD 0 v := by
  cases hok : freeOk x (wordsOfBytes 4 bytes) <;> simp [kvFree, hb, hr, hok, refused]

section
variable (hb : x.begun = true) (hu : x.unit ≠ 0)
include hb hu

theorem kvFree_page (h0 : dw x.desc 4 ≠ 0) (hn : x.note < bits (dw x.desc 2).toNat 32 16) {p : Page} {v u : State}
    (hr : readHeader .kv 32 (dw x.desc 4) x.note s = .ok p v) (hp : p.posBase + p.tcount ≤ bits (dw x.desc 2).toNat 0 32)
    (hw : writeMem .kv (dw x.desc 1 + BitVec.ofNat 64 (8 * x.note)) (bytesOf 8 (dw x.desc 4).toNat) v = .ok () u) :
    kvFree x s = .more { x with note := x.note + 1, desc := x.desc.take 4 ++ [p.next] } u := by
  have hgo : (decide (dw x.desc 4 = 0) || decide (bits (dw x.desc 2).toNat 32 16 ≤ x.note)) = false := by
    rw [decide_eq_false h0, decide_eq_false (Nat.not_le.2 hn)]
    rfl
  simp only [kvFree, hb, Bool.not_true, Bool.false_eq_true, if_false, hu, hgo, hr, Io.ran_ok, Nat.not_lt.2 hp, hw]

theorem kvFree_over (h : dw x.desc 4 = 0 ∨ bits (dw x.desc 2).toNat 32 16 ≤ x.note) {u : State}
    (hw : writeAll .kv [(x.addr + 24, bytesOf 8 x.note), (dw x.desc 0, bytesOf 8 (dw x.desc 4).toNat)] s = .ok () u) :
    ∃ fill, kvFree x s = .done x (BitVec.ofNat 32 x.note) fill u := by
  have hgo : (decide (dw x.desc 4 = 0) || decide (bits (dw x.desc 2).toNat 32 16 ≤ x.note)) = true := by simpa using h
  simp only [kvFree, hb, Bool.not_true, Bool.false_eq_true, if_false, hu, hgo, if_true, freeDone, freeCount, hw, Io.ran_ok]
  exact ⟨_, rfl⟩

end

end

/-! ### The bytes of a load (R297, R300) -/

/-- A byte of a list of pieces of one length. -/
theorem getElem?_flatMap_range {α : Type} {g : Nat → List α} {n L : Nat} (hg : ∀ j < n, (g j).length = L) {j m : Nat} (hj : j < n) (hm : m < L) :
    ((List.range n).flatMap g)[L * j + m]? = (g j)[m]? := by
  induction n with
  | zero => omega
  | succ n ih =>
    have hlen : ((List.range n).flatMap g).length = L * n := by
      rw [List.length_flatMap, List.map_congr_left fun j hj => hg j (by have := List.mem_range.1 hj; omega)]
      simp [Nat.mul_comm]
    rw [List.range_succ, List.flatMap_append, List.flatMap_singleton]
    by_cases hjn : j < n
    · have hlt : L * j + m < L * n := by
        calc L * j + m < L * (j + 1) := by rw [Nat.mul_succ]; omega
          _ ≤ L * n := Nat.mul_le_mul_left L hjn
      rw [List.getElem?_append_left (by omega), ih (fun j hj => hg j (by omega)) hjn]
    · obtain rfl : j = n := by omega
      rw [List.getElem?_append_right (by omega), hlen, Nat.add_sub_cancel_left]

/-- The bytes of slabs of one length, stored one after another. -/
theorem store_slabs {off L : Nat} {g : Nat → List Byte} {n : Nat} (hg : ∀ i < n, (g i).length = L) {i m : Nat} (hi : i < n) (hm : m < L) (c : Cell) :
    sget 0 ((List.range n).foldl (fun c s => c.storeAt (off + L * s) (g s)) c).store (off + L * i + m) = (g i).getD m 0 := by
  induction n with
  | zero => omega
  | succ n ih =>
    rw [List.range_succ, List.foldl_append, List.foldl_cons, List.foldl_nil]
    show sget 0 (sputs 0 (off + L * n) (g n) _) _ = _
    rw [sget_sputs, hg n (by omega)]
    by_cases hin : i < n
    · have hlt : L * i + m < L * n := by
        calc L * i + m < L * (i + 1) := by rw [Nat.mul_succ]; omega
          _ ≤ L * n := Nat.mul_le_mul_left L hin
      rw [if_neg (by omega), ih (fun i hi => hg i (by omega)) hin]
    · obtain rfl : i = n := by omega
      rw [if_pos (by omega), show off + L * i + m - (off + L * i) = m by omega]

/-- The row of a token in the slabs that a load delivers: zero where the token is not valid. -/
def slabRow (n : Nat) (rows : List (Nat × List Byte)) (j : Nat) : List Byte := (aget rows j).getD (List.replicate (64 * n) 0)

theorem mem_of_aget {α : Type} {l : List (Nat × α)} {k : Nat} {v : α} (h : aget l k = some v) : (k, v) ∈ l := by
  induction l with
  | nil => cases h
  | cons a l ih =>
    obtain ⟨j, w⟩ := a
    rw [aget] at h
    split at h
    next hj => cases h; exact hj ▸ List.mem_cons_self
    next => exact List.mem_cons_of_mem _ (ih h)

theorem length_slabRow {n : Nat} {rows : List (Nat × List Byte)} (h : ∀ e ∈ rows, e.2.length = 64 * n) (j : Nat) : (slabRow n rows j).length = 64 * n := by
  unfold slabRow
  cases hrow : aget rows j with
  | none => simp
  | some l => exact h _ (mem_of_aget hrow)

/-- The pieces of every row lie in the slabs of a load. -/
theorem load_deliver {c : Cell} {x : Cmd} {w : Walk} {p : Option Page} {rows : List (Nat × List Byte)} (hbias : bitOf x.w3.toNat 6 = false) :
    let n := (if x.verb = 1 then w.kb else w.vb) / 64
    (∀ e ∈ rows, e.2.length = 64 * n) → ∀ j < 32, ∀ i < n,
      (c.deliver x w p rows).load (bits x.w1.toNat 0 17 + 2048 * i + 64 * j) 64 = ((slabRow n rows j).drop (64 * i)).take 64 := by
  intro n hrows j hj i hi
  have hlen (i : Nat) (hi : i < n) (j : Nat) : (((slabRow n rows j).drop (64 * i)).take 64).length = 64 := by
    rw [List.length_take, List.length_drop, length_slabRow hrows]
    omega
  have hslab (i : Nat) (hi : i < n) : ((List.range 32).flatMap fun j => ((slabRow n rows j).drop (64 * i)).take 64).length = 2048 := by
    rw [List.length_flatMap, List.map_congr_left fun j _ => hlen i hi j]
    rfl
  have hdel : (c.deliver x w p rows) = (List.range n).foldl (fun c s => c.storeAt (bits x.w1.toNat 0 17 + 2048 * s)
      ((List.range 32).flatMap fun j => ((slabRow n rows j).drop (64 * s)).take 64)) c := by
    simp only [Cell.deliver, hbias, Bool.false_eq_true, if_false]
    rfl
  refine List.ext_getElem (by rw [Cell.length_load, hlen i hi j]) fun m hm hm' => ?_
  rw [Cell.length_load] at hm
  have hbyte := store_slabs (off := bits x.w1.toNat 0 17) hslab hi (show 64 * j + m < 2048 by omega) c
  rw [← hdel, List.getD_eq_getElem?_getD, getElem?_flatMap_range (fun j _ => hlen i hi j) hj hm, List.getElem?_eq_getElem hm', Option.getD_some] at hbyte
  rw [← hbyte]
  simp [Cell.load, sgets, Nat.add_assoc]

end Sys2Proof.Machine
end

section
/-! The sums of the matrix engine (R48-R52) and one row of the online-softmax drain (R283). -/

namespace Sys2Proof.Machine

/-! ### Exact values as rationals -/

/-- A finite value over a lower power of two. -/
theorem numerator_rat {n : Bool} {m : Nat} {e low : Int} (h : low ≤ e) : (numerator n m e low : ℚ) * 2 ^ low = rat n m e := by
  have hpow : ((2 : ℚ) ^ (e - low).toNat) * 2 ^ low = 2 ^ e := by
    rw [← zpow_natCast, Int.toNat_of_nonneg (by omega), ← zpow_add₀ two_ne_zero, Int.sub_add_cancel]
  cases n <;> simp [numerator, rat, mul_assoc, hpow]

theorem Num.lt_fin (n k : Bool) (m l : Nat) (e d : Int) : (Num.fin n m e).lt (.fin k l d) = decide (Machine.rat n m e < Machine.rat k l d) := by
  have hpos : (0 : ℚ) < 2 ^ min e d := zpow_pos two_pos _
  rw [← numerator_rat (min_le_left e d), ← numerator_rat (min_le_right e d)]
  simp only [Num.lt, mul_lt_mul_iff_left₀ hpos, Int.cast_lt]

/-- Whether a value is finite. -/
def Num.Finite (x : Num) : Prop := ∃ n m e, x = .fin n m e

/-- The order of values that are not NaN. -/
def Num.key : Num → WithBot (WithTop ℚ)
  | .inf true => ⊥
  | .fin n m e => ((Machine.rat n m e : WithTop ℚ) : WithBot (WithTop ℚ))
  | _ => ((⊤ : WithTop ℚ) : WithBot (WithTop ℚ))

theorem Num.lt_iff_key {a b : Num} (ha : a.isNan = false) (hb : b.isNan = false) : a.lt b = true ↔ a.key < b.key := by
  cases a with
  | nan g => cases ha
  | inf n =>
    cases b with
    | nan g => cases hb
    | inf k => cases n <;> cases k <;> simp [Num.lt, Num.key]
    | fin k l d => cases n <;> simp [Num.lt, Num.key]
  | fin n m e =>
    cases b with
    | nan g => cases hb
    | inf k =>
      cases k with
      | true => simp [Num.lt, Num.key]
      | false => exact iff_of_true rfl (WithBot.coe_lt_coe.2 (WithTop.coe_lt_top _))
    | fin k l d => simp [Num.lt_fin, Num.key]

/-- The greatest of values is none of the lesser. -/
theorem foldl_top_key (sc : List Num) (m : Num) (hm : m.isNan = false) (hs : ∀ v ∈ sc, v.isNan = false) :
    (sc.foldl (fun a x => if a.lt x then x else a) m).isNan = false ∧ m.key ≤ (sc.foldl (fun a x => if a.lt x then x else a) m).key := by
  induction sc generalizing m with
  | nil => exact ⟨hm, le_refl _⟩
  | cons x sc ih =>
    have hx := hs x List.mem_cons_self
    have hs' : ∀ v ∈ sc, v.isNan = false := fun v hv => hs v (List.mem_cons_of_mem _ hv)
    rw [List.foldl_cons]
    by_cases hlt : m.lt x = true
    · rw [if_pos hlt]
      obtain ⟨hn, hle⟩ := ih x hx hs'
      exact ⟨hn, ((Num.lt_iff_key hm hx).1 hlt).le.trans hle⟩
    · rw [if_neg hlt]
      exact ih m hm hs'

theorem foldl_top_not_lt {sc : List Num} {m : Num} (hm : m.isNan = false) (hs : ∀ v ∈ sc, v.isNan = false) :
    (sc.foldl (fun a x => if a.lt x then x else a) m).lt m = false := by
  obtain ⟨hn, hle⟩ := foldl_top_key sc m hm hs
  exact Bool.eq_false_iff.2 fun h => absurd ((Num.lt_iff_key hn hm).1 h) (not_lt.2 hle)

/-! ### One row of `mx.smax` (R283) -/

/-- Outputs that are given are those of the case where they change. -/
theorem ite_some_eq {c : Prop} [Decidable c] {a b : List (Num × Flags)} {l : List Num}
    (h : (if c then none else some ((if c then a else b).map Prod.fst)) = some l) : l = b.map Prod.fst := by
  by_cases hc : c
  · simp [hc] at h
  · simpa [hc, eq_comm] using h

section
variable {fp : FmtDesc} {m l : Num} {sc o : List Num} (hm : m.isNan = false) (hl : l.isNan = false) (hs : ∀ v ∈ sc, v.isNan = false ∧ v ≠ .inf false)
include hm hl hs

/-- The parts of a row without NaN, +∞ among its scores, or a row maximum of −∞. -/
theorem smaxRow_parts {top : Num} (htop : sc.foldl (fun a x => if a.lt x then x else a) m = top) (hne : top ≠ .inf true) :
    let q := smaxRow fp m l sc o
    let w : Num := if m.lt top then (round32 (exp2Of (addExact 0 m top.negate).1, 0)).1 else .fin false 1 0
    q.m = top ∧ q.p = sc.map (fun x => (roundTo fp rne 0 (exp2Of (addExact 0 x top.negate).1)).1) ∧
      q.l = (round32 (sumExact 0 ((mulExact l w).1 :: q.p.map (valueOf fp)))).1 ∧ ∀ l', q.o = some l' → l' = o.map fun x => (round32 (mulExact x w)).1 := by
  intro q w
  have hnan : (m.isNan || l.isNan || sc.any Num.isNan || sc.contains (.inf false)) = false := by
    have h1 : sc.any Num.isNan = false := List.any_eq_false.2 fun v hv => by simp [(hs v hv).1]
    have h2 : sc.contains (.inf false) = false := by
      simpa using fun h => (hs _ h).2 rfl
    rw [hm, hl, h1, h2]
    rfl
  have hnot : top.lt m = false := htop ▸ foldl_top_not_lt hm fun v hv => (hs v hv).1
  have hone : (top = .inf true ∨ (!m.lt top) = true ∧ (!top.lt m) = true) ↔ ¬ m.lt top = true := by
    simp [hne, hnot]
  simp only [q, smaxRow, hnan, Bool.false_eq_true, if_false]
  rw [htop]
  simp only [hone, ite_not, apply_ite Prod.fst, collect, List.map_map]
  simp only [hne, if_false]
  refine ⟨trivial, rfl, rfl, fun l' h => ?_⟩
  exact (ite_some_eq h).trans (List.map_map ..)

end

/-! ### Integer sums (R52) -/

theorem intProduct_spec (n : Nat) (q : IntSum) (k : Nat) (v : Int) (last : Bool) :
    let t := q.inner.val + v
    let i := max (-8388608) (min 8388607 t)
    let w := max (-(2 ^ 31)) (min (2 ^ 31 - 1) (q.acc + i))
    (n ≤ q.inner.cnt + 1 ∨ last = true → (intProduct n q (k, v, last)).acc = w ∧ (intProduct n q (k, v, last)).inner = Inner.zero ∧
      (intProduct n q (k, v, last)).sat = (q.sat || decide (i ≠ t) || decide (w ≠ q.acc + i))) ∧
    (q.inner.cnt + 1 < n → last = false → (intProduct n q (k, v, last)).acc = q.acc ∧ (intProduct n q (k, v, last)).inner = ⟨i, q.inner.cnt + 1⟩ ∧
      (intProduct n q (k, v, last)).sat = (q.sat || decide (i ≠ t))) := by
  intro t i w
  have hi : clampInt (-8388608) 8388607 t = i := clampInt_eq (by decide)
  have hw : clampInt (-(2 ^ 31 : Nat)) (2 ^ 31 - 1 : Nat) (q.acc + i) = w := clampInt_eq (by decide)
  have hout : (decide (t > 8388607) || decide (t < -8388608)) = decide (i ≠ t) := by
    rw [Bool.eq_iff_iff]
    simp only [Bool.or_eq_true, decide_eq_true_eq]
    omega
  have hsat : (decide (q.acc + i < -(2 ^ 31 : Nat)) || decide (q.acc + i > (2 ^ 31 - 1 : Nat))) = decide (w ≠ q.acc + i) := by
    rw [Bool.eq_iff_iff]
    simp only [Bool.or_eq_true, decide_eq_true_eq]
    omega
  refine ⟨fun h => ?_, fun hn hlast => ?_⟩
  · have hnow : (decide (n ≤ q.inner.cnt + 1) || last) = true := by simpa using h
    simp only [intProduct, hnow, if_true, saturate32]
    rw [show q.inner.val + v = t from rfl, hi, hw, hout, hsat, Bool.or_assoc]
    exact ⟨rfl, trivial, rfl⟩
  · have hnow : (decide (n ≤ q.inner.cnt + 1) || last) = false := by simp [hn, hlast]
    simp only [intProduct, hnow, Bool.false_eq_true, if_false]
    rw [show q.inner.val + v = t from rfl, hi, hout]
    exact ⟨trivial, rfl, rfl⟩

/-! ### Float sums (R48-R51) -/

section
variable (blk : Nat) (sc : Nat → Nat × Nat) (acc : Nat × Flags) (p : Nat → Num × Num)

theorem floatEntry_half (ks : List Nat) : floatEntry .half blk sc acc ks p = ks.foldl (fun a k => addInto a (mulExact (p k).1 (p k).2)) acc := by
  simp only [floatEntry, sumHalf, List.foldl_map]

theorem eraseDups_constant {α : Type} [BEq α] [LawfulBEq α] {b : α} {l : List α} (h : ∀ a ∈ l, a = b) (hne : l ≠ []) : l.eraseDups = [b] := by
  cases l with
  | nil => exact absurd rfl hne
  | cons a l =>
    obtain rfl := h a List.mem_cons_self
    have hnone : l.filter (fun x => !x == a) = [] := List.filter_eq_nil_iff.2 fun x hx => by simp [h x (List.mem_cons_of_mem _ hx)]
    rw [List.eraseDups_cons, hnone]
    rfl

/-- Products of one block are one sum of R51. -/
theorem floatEntry_scaled {ks : List Nat} {b : Nat} (h : ∀ i ∈ ks, i / blk = b) (hne : ks ≠ []) :
    floatEntry .scaled blk sc acc ks p = sumBlock acc (ks.map p) (sc b).1 (sc b).2 := by
  have hblocks : (ks.map (· / blk)).eraseDups = [b] := eraseDups_constant (by simpa using h) (by simpa using hne)
  have hall : (ks.filter fun k => k / blk == b) = ks := List.filter_eq_self.2 fun k hk => by simp [h k hk]
  simp only [floatEntry, hblocks, List.foldl_cons, List.foldl_nil, hall]

end

end Sys2Proof.Machine
end

section
/-! A block of R51 is the exact sum of its truncated products. -/

namespace Sys2Proof.Machine

/-! ### The exact sum of finite values -/

/-- One step of the search for the least exponent. -/
def lowStep (a : Int) : Num → Int
  | .fin _ _ e => min a e
  | _ => a

/-- One step of the sum of numerators. -/
def sumStep (low : Int) (t : Int) : Num → Int
  | .fin n m e => t + numerator n m e low
  | _ => t

theorem sumFinite_eq (l : List Num) : sumFinite l = (l.foldl (sumStep (l.foldl lowStep 0)) 0, l.foldl lowStep 0) := rfl

theorem foldl_lowStep_le (l : List Num) (a : Int) : l.foldl lowStep a ≤ a ∧ ∀ n m e, .fin n m e ∈ l → l.foldl lowStep a ≤ e := by
  induction l generalizing a with
  | nil => exact ⟨le_refl _, by simp⟩
  | cons x l ih =>
    obtain ⟨hle, hall⟩ := ih (lowStep a x)
    have hstep : lowStep a x ≤ a := by cases x <;> simp [lowStep]
    refine ⟨hle.trans hstep, fun n m e h => ?_⟩
    rcases List.mem_cons.1 h with rfl | h
    · exact hle.trans (min_le_right a e)
    · exact hall n m e h

theorem foldl_sumStep_rat {low : Int} {l : List Num} (hf : ∀ x ∈ l, x.Finite) (hl : ∀ n m e, .fin n m e ∈ l → low ≤ e) (t : Int) :
    ((l.foldl (sumStep low) t : Int) : ℚ) * 2 ^ low = t * 2 ^ low + (l.map Num.rat).sum := by
  induction l generalizing t with
  | nil => simp
  | cons x l ih =>
    obtain ⟨n, m, e, rfl⟩ := hf x List.mem_cons_self
    rw [List.foldl_cons, ih (fun x hx => hf x (List.mem_cons_of_mem _ hx)) fun n m e h => hl n m e (List.mem_cons_of_mem _ h), List.map_cons, List.sum_cons]
    simp only [sumStep, Int.cast_add, add_mul, numerator_rat (hl n m e List.mem_cons_self), Num.rat, add_assoc]

/-- The sum of finite values is exact. -/
theorem sumFinite_rat {l : List Num} (hf : ∀ x ∈ l, x.Finite) : ((sumFinite l).1 : ℚ) * 2 ^ (sumFinite l).2 = (l.map Num.rat).sum := by
  rw [sumFinite_eq, foldl_sumStep_rat hf (foldl_lowStep_le l 0).2]
  simp

/-- A finite value with the sign of an integer. -/
theorem rat_natAbs (t k : Int) : rat (decide (t < 0)) t.natAbs k = t * 2 ^ k := by
  by_cases h : t < 0
  · have : ((t.natAbs : Int) : ℚ) = -t := by rw [Int.ofNat_natAbs_of_nonpos h.le]; push_cast; rfl
    simp only [rat, h, decide_true, if_true]
    rw [← Int.cast_natCast, this, neg_neg]
  · have : ((t.natAbs : Int) : ℚ) = t := by rw [Int.natAbs_of_nonneg (not_lt.1 h)]
    simp only [rat, h, decide_false, Bool.false_eq_true, if_false]
    rw [← Int.cast_natCast, this]

/-! ### Truncation toward zero (R51) -/

/-- A value truncated toward zero to a multiple of 2^low. -/
def cutTo (low : Int) (v : ℚ) : ℚ := (if 0 ≤ v then ⌊v / 2 ^ low⌋ else ⌈v / 2 ^ low⌉) * 2 ^ low

theorem cutTo_neg (low : Int) (v : ℚ) : cutTo low (-v) = -cutTo low v := by
  have hpos : (0 : ℚ) < 2 ^ low := zpow_pos two_pos _
  unfold cutTo
  rcases lt_trichotomy v 0 with h | h | h
  · rw [if_pos (by linarith), if_neg (by linarith), neg_div, Int.floor_neg]
    push_cast
    ring
  · simp [h]
  · rw [if_neg (by linarith), if_pos h.le, neg_div, Int.ceil_neg]
    push_cast
    ring

theorem cutTo_of_nonneg {low : Int} {v : ℚ} (h : 0 ≤ v) : cutTo low v = ⌊v / 2 ^ low⌋ * 2 ^ low := by rw [cutTo, if_pos h]

/-- A multiple of 2^low is not changed. -/
theorem cutTo_multiple (low : Int) (k : Nat) : cutTo low (k * 2 ^ low) = k * 2 ^ low := by
  have hpos : (0 : ℚ) < 2 ^ low := zpow_pos two_pos _
  rw [cutTo_of_nonneg (by positivity), mul_div_cancel_right₀ _ hpos.ne', Int.floor_natCast]
  rfl

theorem rat_sign (n : Bool) (m : Nat) (e : Int) : rat n m e = if n then -rat false m e else rat false m e := by
  cases n <;> simp [rat]

theorem cutTo_rat (low : Int) (n : Bool) (m : Nat) (e : Int) : cutTo low (rat n m e) = if n then -cutTo low (rat false m e) else cutTo low (rat false m e) := by
  cases n
  · rfl
  · rw [rat_sign, if_pos rfl, cutTo_neg, if_pos rfl]

theorem rat_false_split {low e : Int} (h : e ≤ low) (m : Nat) :
    rat false m e = ((m / 2 ^ (low - e).toNat : Nat) : ℚ) * 2 ^ low + ((m % 2 ^ (low - e).toNat : Nat) : ℚ) * 2 ^ e := by
  have hpow : ((2 ^ (low - e).toNat : Nat) : ℚ) * 2 ^ e = 2 ^ low := by
    push_cast
    rw [← zpow_natCast, Int.toNat_of_nonneg (by omega), ← zpow_add₀ two_ne_zero, Int.sub_add_cancel]
  have hm : (m : ℚ) = ((2 ^ (low - e).toNat : Nat) : ℚ) * ((m / 2 ^ (low - e).toNat : Nat) : ℚ) + ((m % 2 ^ (low - e).toNat : Nat) : ℚ) := by
    exact_mod_cast (Nat.div_add_mod m _).symm
  rw [rat_false, hm, add_mul, mul_right_comm, hpow, mul_comm (2 ^ low : ℚ)]

theorem cutTo_split {low e : Int} (h : e ≤ low) (m : Nat) : cutTo low (rat false m e) = ((m / 2 ^ (low - e).toNat : Nat) : ℚ) * 2 ^ low := by
  have hpos : (0 : ℚ) < 2 ^ low := zpow_pos two_pos _
  have hpose : (0 : ℚ) < 2 ^ e := zpow_pos two_pos _
  have hpow : ((2 ^ (low - e).toNat : Nat) : ℚ) * 2 ^ e = 2 ^ low := by
    push_cast
    rw [← zpow_natCast, Int.toNat_of_nonneg (by omega), ← zpow_add₀ two_ne_zero, Int.sub_add_cancel]
  have hr : ((m % 2 ^ (low - e).toNat : Nat) : ℚ) * 2 ^ e < 2 ^ low := by
    rw [← hpow]
    exact mul_lt_mul_of_pos_right (by exact_mod_cast Nat.mod_lt _ (by positivity)) hpose
  have hr0 : (0 : ℚ) ≤ ((m % 2 ^ (low - e).toNat : Nat) : ℚ) * 2 ^ e := by positivity
  rw [rat_false_split h, cutTo_of_nonneg (by positivity)]
  congr 1
  rw [add_div, mul_div_cancel_right₀ _ hpos.ne', add_comm, Int.floor_add_natCast, Int.floor_eq_zero_iff.2 ⟨by positivity, by rwa [div_lt_one hpos]⟩,
    zero_add, Int.cast_natCast]

/-- Truncation toward zero, with whether it changed the value. -/
theorem truncTo_spec {x : Num} (h : x.Finite) (low : Int) :
    (truncTo low x).1.Finite ∧ (truncTo low x).1.rat = cutTo low x.rat ∧ ((truncTo low x).2 = true ↔ cutTo low x.rat ≠ x.rat) := by
  obtain ⟨n, m, e, rfl⟩ := h
  by_cases hle : low ≤ e
  · have hsame : cutTo low (rat n m e) = rat n m e := by
      have hmul : rat false m e = ((m * 2 ^ (e - low).toNat : Nat) : ℚ) * 2 ^ low := by
        rw [← numerator_rat hle]
        rfl
      rw [cutTo_rat, rat_sign n, hmul, cutTo_multiple]
    simp only [truncTo, if_pos hle, Num.rat, hsame]
    exact ⟨⟨n, m, e, rfl⟩, trivial, by simp⟩
  · have hle' : e ≤ low := by omega
    have hcut := cutTo_split hle' m
    simp only [truncTo, if_neg hle, Num.rat]
    refine ⟨⟨_, _, _, rfl⟩, ?_, ?_⟩
    · rw [cutTo_rat, hcut, rat_sign]
      rfl
    · have hne : cutTo low (rat false m e) ≠ rat false m e ↔ m % 2 ^ (low - e).toNat ≠ 0 := by
        rw [hcut, rat_false_split hle']
        have hpose : (0 : ℚ) < 2 ^ e := zpow_pos two_pos _
        simp [hpose.ne']
      rw [bne_iff_ne, ← hne, cutTo_rat low n, rat_sign n]
      cases n
      · rfl
      · simp only [if_true, ne_eq, neg_inj]

/-! ### The exponent of the greatest value -/

/-- One step of the search for the greatest exponent. -/
def topStep (a : Option Int) : Num → Option Int
  | .fin _ m e => if m = 0 then a else some (match a with | none => (Nat.log2 m : Int) + e | some j => max j ((Nat.log2 m : Int) + e))
  | _ => a

theorem topExp_eq (l : List Num) : topExp l = l.foldl topStep none := by
  unfold topExp
  congr 1
  funext a x
  cases x with
  | nan => rfl
  | inf => rfl
  | fin n m e => cases a <;> simp [topStep]

theorem abs_rat (n : Bool) (m : Nat) (e : Int) : |rat n m e| = m * 2 ^ e := by
  have hpos : (0 : ℚ) < 2 ^ e := zpow_pos two_pos _
  cases n <;> simp [rat, abs_mul, abs_of_pos hpos]

/-- The binade of a value that is not zero. -/
theorem rat_binade (n : Bool) {m : Nat} (hm : m ≠ 0) (e : Int) :
    (2 : ℚ) ^ ((Nat.log2 m : Int) + e) ≤ |rat n m e| ∧ |rat n m e| < 2 ^ ((Nat.log2 m : Int) + e + 1) := by
  have hpos : (0 : ℚ) < 2 ^ e := zpow_pos two_pos _
  rw [abs_rat, zpow_add₀ two_ne_zero, show (Nat.log2 m : Int) + e + 1 = ((Nat.log2 m + 1 : Nat) : Int) + e by push_cast; ring, zpow_add₀ two_ne_zero,
    zpow_natCast, zpow_natCast]
  exact ⟨mul_le_mul_of_nonneg_right (by exact_mod_cast Nat.log2_self_le hm) hpos.le,
    mul_lt_mul_of_pos_right (by exact_mod_cast Nat.lt_log2_self) hpos⟩

/-- What the exponent found says of the values seen. -/
def TopOf (l : List Num) : Option Int → Prop
  | none => ∀ x ∈ l, x.rat = 0
  | some k => (∀ x ∈ l, |x.rat| < 2 ^ (k + 1)) ∧ ∃ x ∈ l, (2 : ℚ) ^ k ≤ |x.rat|

theorem topOf_step {l : List Num} {a : Option Int} (h : TopOf l a) {x : Num} (hx : x.Finite) : TopOf (l ++ [x]) (topStep a x) := by
  obtain ⟨n, m, e, rfl⟩ := hx
  by_cases hm : m = 0
  · have h0 : Num.rat (.fin n m e) = 0 := by simp [Num.rat, rat, hm]
    simp only [topStep, if_pos hm]
    cases a with
    | none => exact List.forall_mem_append.2 ⟨h, List.forall_mem_singleton.2 h0⟩
    | some k =>
      obtain ⟨hlt, y, hy, hle⟩ := h
      refine ⟨fun x hx => ?_, y, List.mem_append_left _ hy, hle⟩
      rcases List.mem_append.1 hx with hx | hx
      · exact hlt x hx
      · rw [List.mem_singleton.1 hx, h0, abs_zero]
        positivity
  · obtain ⟨hlo, hhi⟩ := rat_binade n hm e
    have mono {i j : Int} (h : i ≤ j) : (2 : ℚ) ^ i ≤ 2 ^ j := zpow_le_zpow_right₀ one_le_two h
    simp only [topStep, if_neg hm]
    cases a with
    | none =>
      refine ⟨fun y hy => ?_, _, List.mem_append_right _ (List.mem_singleton_self _), hlo⟩
      rcases List.mem_append.1 hy with hy | hy
      · rw [h y hy, abs_zero]
        positivity
      · rw [List.mem_singleton.1 hy]
        exact hhi
    | some k =>
      obtain ⟨hlt, y, hy, hle⟩ := h
      refine ⟨fun z hz => ?_, ?_⟩
      · rcases List.mem_append.1 hz with hz | hz
        · exact (hlt z hz).trans_le (mono (by dsimp only; omega))
        · rw [List.mem_singleton.1 hz]
          exact hhi.trans_le (mono (by dsimp only; omega))
      · rcases max_choice k ((Nat.log2 m : Int) + e) with hk | hk <;> dsimp only <;> rw [hk]
        · exact ⟨y, List.mem_append_left _ hy, hle⟩
        · exact ⟨_, List.mem_append_right _ (List.mem_singleton_self _), hlo⟩

theorem topOf_topExp {l : List Num} (h : ∀ x ∈ l, x.Finite) : TopOf l (topExp l) := by
  rw [topExp_eq]
  induction l using List.reverseRecOn with
  | nil => exact fun x hx => absurd hx List.not_mem_nil
  | append_singleton l x ih =>
    rw [List.foldl_append]
    exact topOf_step (ih fun y hy => h y (List.mem_append_left _ hy)) (h x (List.mem_append_right _ (List.mem_singleton_self x)))

/-- The exponent found is the one that bounds the values and is reached. -/
theorem topExp_unique {l : List Num} {E : Int} (h : ∀ x ∈ l, x.Finite) (hlt : ∀ x ∈ l, |x.rat| < 2 ^ (E + 1)) (hle : ∃ x ∈ l, (2 : ℚ) ^ E ≤ |x.rat|) :
    topExp l = some E := by
  have htop := topOf_topExp h
  obtain ⟨x, hx, hx'⟩ := hle
  cases hk : topExp l with
  | none =>
    rw [hk] at htop
    rw [htop x hx, abs_zero] at hx'
    exact absurd hx' (not_le.2 (by positivity))
  | some k =>
    rw [hk] at htop
    obtain ⟨hklt, y, hy, hy'⟩ := htop
    have h1 : E < k + 1 := (zpow_lt_zpow_iff_right₀ one_lt_two).1 (hx'.trans_lt (hklt x hx))
    have h2 : k < E + 1 := (zpow_lt_zpow_iff_right₀ one_lt_two).1 (hy'.trans_lt (hlt y hy))
    exact congrArg some (by omega)

/-! ### One block -/

theorem rat_mul (n k : Bool) (m l : Nat) (e d : Int) : rat (n != k) (m * l) (e + d) = rat n m e * rat k l d := by
  cases n <;> cases k <;> simp [rat, zpow_add₀] <;> ring

/-- The exact products of finite pairs. -/
theorem products_finite {l : List (Num × Num)} (hf : ∀ e ∈ l, e.1.Finite ∧ e.2.Finite) :
    (∀ x ∈ (l.map fun p => mulExact p.1 p.2).map Prod.fst, x.Finite) ∧
      ((l.map fun p => mulExact p.1 p.2).map Prod.fst).map Num.rat = l.map fun e => e.1.rat * e.2.rat := by
  have hmul (e : Num × Num) (he : e ∈ l) : (mulExact e.1 e.2).1.Finite ∧ (mulExact e.1 e.2).1.rat = e.1.rat * e.2.rat := by
    obtain ⟨⟨n, m, i, h1⟩, k, j, d, h2⟩ := hf e he
    rw [h1, h2]
    exact ⟨⟨_, _, _, rfl⟩, rat_mul n k m j i d⟩
  refine ⟨?_, ?_⟩
  · rw [List.map_map]
    exact List.forall_mem_map.2 fun e he => (hmul e he).1
  · rw [List.map_map, List.map_map]
    exact List.map_congr_left fun e he => (hmul e he).2

/-- Finite values hold no NaN and no infinity. -/
theorem finite_not_special {l : List Num} (h : ∀ x ∈ l, x.Finite) : l.any Num.isNan = false ∧ ∀ n, l.contains (.inf n) = false := by
  refine ⟨List.any_eq_false.2 fun x hx => ?_, fun n => ?_⟩
  · obtain ⟨_, _, _, rfl⟩ := h x hx
    simp [Num.isNan]
  · rw [List.contains_eq_mem, decide_eq_false_iff_not]
    intro hx
    obtain ⟨_, _, _, hx⟩ := h _ hx
    cases hx

theorem exists_mem_map {α β : Type} {f : α → β} {l : List α} {P : β → Prop} : (∃ b ∈ l.map f, P b) ↔ ∃ a ∈ l, P (f a) := by simp

/-- Truncated values, and whether one was changed. -/
theorem truncated_rat {p : List Num} (hp : ∀ x ∈ p, x.Finite) (low : Int) :
    (∀ x ∈ (p.map (truncTo low)).map Prod.fst, x.Finite) ∧
      ((p.map (truncTo low)).map Prod.fst).map Num.rat = (p.map Num.rat).map (cutTo low) ∧
      ((p.map (truncTo low)).any Prod.snd = true ↔ ∃ v ∈ p.map Num.rat, cutTo low v ≠ v) := by
  refine ⟨?_, ?_, ?_⟩
  · rw [List.map_map]
    exact List.forall_mem_map.2 fun x hx => (truncTo_spec (hp x hx) low).1
  · rw [List.map_map, List.map_map, List.map_map]
    exact List.map_congr_left fun x hx => (truncTo_spec (hp x hx) low).2.1
  · simp only [List.any_map, List.any_eq_true, Function.comp_apply, exists_mem_map]
    exact exists_congr fun x => and_congr_right fun hx => (truncTo_spec (hp x hx) low).2.2

/-- A block of finite pairs with finite scales is added as the exact sum of its products, each truncated below the greatest (R51). -/
theorem sumBlock_exact {l : List (Num × Num)} {sa sb : Nat} {E : Int} (acc : Nat × Flags) (ha : sa < 0xFF) (hb : sb < 0xFF)
    (hf : ∀ e ∈ l, e.1.Finite ∧ e.2.Finite) (hlt : ∀ e ∈ l, |e.1.rat * e.2.rat| < 2 ^ (E + 1)) (hle : ∃ e ∈ l, 2 ^ E ≤ |e.1.rat * e.2.rat|) :
    ∃ n m k, rat n m k = (l.map fun e => cutTo (E - 47) (e.1.rat * e.2.rat)).sum * 2 ^ ((sa : Int) + sb - 254) ∧
      ∀ f : Flags, ((∀ e ∈ l, cutTo (E - 47) (e.1.rat * e.2.rat) = e.1.rat * e.2.rat) → f = 0) →
        ((∃ e ∈ l, cutTo (E - 47) (e.1.rat * e.2.rat) ≠ e.1.rat * e.2.rat) → f = flIX) → sumBlock acc l sa sb = addInto acc (.fin n m k, f) := by
  obtain ⟨hfin, hrat⟩ := products_finite hf
  generalize hps : (l.map fun p => mulExact p.1 p.2) = ps at hfin hrat
  generalize hp : ps.map Prod.fst = p at hfin hrat
  have hlt' : ∀ v ∈ p.map Num.rat, |v| < 2 ^ (E + 1) := by
    rw [hrat]
    exact List.forall_mem_map.2 hlt
  have hle' : ∃ v ∈ p.map Num.rat, 2 ^ E ≤ |v| := by
    rw [hrat]
    exact exists_mem_map.2 hle
  have htop : topExp p = some E := topExp_unique hfin (List.forall_mem_map.1 hlt') ((exists_mem_map (P := fun v => 2 ^ E ≤ |v|)).1 hle')
  obtain ⟨hqfin, hqrat, hany⟩ := truncated_rat hfin (E - 47)
  replace hqrat := hqrat.trans (by rw [hrat, List.map_map])
  rw [hrat, exists_mem_map] at hany
  generalize hq : p.map (truncTo (E - 47)) = q at hqfin hqrat hany
  refine ⟨decide ((sumFinite (q.map Prod.fst)).1 < 0), (sumFinite (q.map Prod.fst)).1.natAbs,
    (sumFinite (q.map Prod.fst)).2 + (sa : Int) - 127 + (sb : Int) - 127, ?_, fun f h0 hx => ?_⟩
  · have hexp : (sumFinite (q.map Prod.fst)).2 + (sa : Int) - 127 + (sb : Int) - 127 = (sumFinite (q.map Prod.fst)).2 + ((sa : Int) + sb - 254) := by ring
    rw [rat_natAbs, hexp, zpow_add₀ two_ne_zero, ← mul_assoc, sumFinite_rat hqfin, hqrat]
    rfl
  · have hf : f = if q.any Prod.snd then flIX else 0 := by
      split
      next h => exact hx (hany.1 h)
      next h => exact h0 fun e he => not_not.1 fun hne => h (hany.2 ⟨e, he, hne⟩)
    obtain ⟨hnan, hinf⟩ := finite_not_special hfin
    have hsa : ¬ sa = 0xFF := by omega
    have hsb : ¬ sb = 0xFF := by omega
    simp only [sumBlock, hps, hp, hnan, hinf, hsa, hsb, htop, hq, hf, decide_false, Bool.and_self, Bool.or_self, Bool.false_eq_true, if_false]

end Sys2Proof.Machine
end

section
/-! The accumulator store and the tiles (R52, R270, R271): what is read after a write, and what a pass over entries or rows leaves of each. -/

namespace Sys2Proof.Machine

/-! ### Passes over parts of a state -/

/-- A pass whose steps leave a part leaves it. -/
theorem foldl_keeps {σ α γ : Type} {g : σ → γ} {step : σ → α → σ} {l : List α} (h : ∀ q, ∀ a ∈ l, g (step q a) = g q) (q : σ) :
    g (l.foldl step q) = g q := by
  induction l generalizing q with
  | nil => rfl
  | cons a l ih => rw [List.foldl_cons, ih fun q b hb => h q b (List.mem_cons_of_mem _ hb), h q a List.mem_cons_self]

/-- A pass whose steps each change one part leaves every part as its own step makes it of what stood there before. -/
theorem foldl_parts {σ α β γ : Type} (f : α → σ → β) (g : α → σ → γ) (V : α → β → γ) {step : σ → α → σ} {l : List α} (hn : l.Nodup)
    (hown : ∀ q, ∀ a ∈ l, g a (step q a) = V a (f a q))
    (hother : ∀ q, ∀ a ∈ l, ∀ b ∈ l, a ≠ b → f b (step q a) = f b q ∧ g b (step q a) = g b q) (q : σ) :
    ∀ a ∈ l, g a (l.foldl step q) = V a (f a q) := by
  induction l generalizing q with
  | nil => exact fun a ha => absurd ha List.not_mem_nil
  | cons b l ih =>
    obtain ⟨hb, hn⟩ := List.nodup_cons.1 hn
    have hne : ∀ a ∈ l, a ≠ b := fun a ha h => hb (h ▸ ha)
    intro a ha
    rw [List.foldl_cons]
    rcases List.mem_cons.1 ha with rfl | ha
    · rw [foldl_keeps (g := g a) (fun q c hc => (hother q c (List.mem_cons_of_mem _ hc) a List.mem_cons_self (hne c hc)).2), hown q a List.mem_cons_self]
    · rw [ih hn (fun q c hc => hown q c (List.mem_cons_of_mem _ hc))
        (fun q c hc d hd => hother q c (List.mem_cons_of_mem _ hc) d (List.mem_cons_of_mem _ hd)) (step q b) a ha,
        (hother q b List.mem_cons_self a (List.mem_cons_of_mem _ ha) (hne a ha).symm).1]

/-! ### Entries of the accumulator store (R271) -/

/-- An accumulator entry with its inner accumulator, by its key. -/
def Cell.entry (c : Cell) (k : Nat) : Nat × Inner := ((sget 0 c.acc k).toNat, sget Inner.zero c.inner k)

theorem Cell.accAt_entry (c : Cell) (row col : Nat) : c.accAt row col = (c.entry (accKey row col)).1 := rfl
theorem Cell.innerAt_entry (c : Cell) (row col : Nat) : c.innerAt row col = (c.entry (accKey row col)).2 := rfl

theorem Cell.entry_fst_lt (c : Cell) (k : Nat) : (c.entry k).1 < 2 ^ 32 := (sget 0 c.acc k).isLt

theorem accKey_inj {r r' k k' : Nat} (hk : k < 128) (hk' : k' < 128) : accKey r k = accKey r' k' ↔ r = r' ∧ k = k' := by
  unfold accKey
  omega

theorem Cell.entry_putAcc (row col v k : Nat) (c : Cell) :
    (c.putAcc row col v).entry k = if k = accKey row col then (v % 2 ^ 32, (c.entry k).2) else c.entry k := by
  split
  next h => subst h; simp [Cell.entry, Cell.putAcc]
  next h => simp only [Cell.entry, Cell.putAcc, sget_sput_other (0 : W32) _ h]

theorem Cell.entry_putInner (row col : Nat) (v : Inner) (k : Nat) (c : Cell) :
    (c.putInner row col v).entry k = if k = accKey row col then ((c.entry k).1, v) else c.entry k := by
  split
  next h => subst h; simp [Cell.entry, Cell.putInner]
  next h => simp [Cell.entry, Cell.putInner, sget_sput_other Inner.zero _ h]

theorem Cell.entry_discard (e : Nat × Nat) (k : Nat) (c : Cell) :
    (c.discard e).entry k = if k = accKey e.1 e.2 then ((c.entry k).1, Inner.zero) else c.entry k := Cell.entry_putInner ..

@[simp] theorem Cell.entry_overflowed (b : Bool) (k : Nat) (c : Cell) : (c.overflowed b).entry k = c.entry k := rfl
@[simp] theorem Cell.entry_progress (i r k : Nat) (c : Cell) : (c.progress i r).entry k = c.entry k := rfl
theorem Cell.tiles_progress (i r : Nat) (c : Cell) : (c.progress i r).tiles = c.tiles := rfl
theorem Cell.store_progress (i r : Nat) (c : Cell) : (c.progress i r).store = c.store := rfl

/-- An entry with its pending inner value promoted into it (R52). -/
def promoted (p : Nat × Inner) : Nat × Inner :=
  if p.2.cnt = 0 then p else (intCode fINT32 (saturate32 (intOf fINT32 p.1 + p.2.val)).1, Inner.zero)

theorem intCode32_lt (i : Int) : intCode fINT32 i < 2 ^ 32 := intCode_lt fINT32 i

theorem promoted_promoted (p : Nat × Inner) : promoted (promoted p) = promoted p := by
  by_cases h : p.2.cnt = 0
  · have hp : promoted p = p := if_pos h
    rw [hp, hp]
  · have hp : promoted p = (intCode fINT32 (saturate32 (intOf fINT32 p.1 + p.2.val)).1, Inner.zero) := if_neg h
    rw [hp]
    rfl

theorem Cell.entry_promote (e : Nat × Nat) (k : Nat) (c : Cell) :
    (c.promote e).entry k = if k = accKey e.1 e.2 then promoted (c.entry k) else c.entry k := by
  unfold Cell.promote
  dsimp only
  rw [Cell.innerAt_entry, Cell.accAt_entry]
  by_cases hk : k = accKey e.1 e.2
  · subst hk
    by_cases h0 : (c.entry (accKey e.1 e.2)).2.cnt = 0
    · simp [h0, promoted]
    · simp only [h0, if_false, if_true, promoted, Cell.entry_overflowed, Cell.entry_putAcc, Cell.entry_putInner, Nat.mod_eq_of_lt (intCode32_lt _)]
  · by_cases h0 : (c.entry (accKey e.1 e.2)).2.cnt = 0
    · simp [h0, hk]
    · simp [h0, hk, Cell.entry_putAcc, Cell.entry_putInner]

theorem Cell.accAt_promote (row col : Nat) (c : Cell) : (c.promote (row, col)).accAt row col = (promoted (c.entry (accKey row col))).1 := by
  rw [Cell.accAt_entry, Cell.entry_promote, if_pos rfl]

/-- Every entry of a list is promoted, and no other. -/
theorem Cell.entry_promoteAll (l : List (Nat × Nat)) (k : Nat) (c : Cell) :
    (c.promoteAll l).entry k = if ∃ e ∈ l, k = accKey e.1 e.2 then promoted (c.entry k) else c.entry k := by
  unfold Cell.promoteAll
  induction l generalizing c with
  | nil => simp
  | cons e l ih =>
    rw [List.foldl_cons, ih, Cell.entry_promote]
    by_cases h1 : k = accKey e.1 e.2 <;> by_cases h2 : ∃ e ∈ l, k = accKey e.1 e.2
    · rw [if_pos h2, if_pos h1, if_pos ⟨e, List.mem_cons_self, h1⟩, promoted_promoted]
    · rw [if_neg h2, if_pos h1, if_pos ⟨e, List.mem_cons_self, h1⟩]
    · obtain ⟨e', he', hk⟩ := h2
      rw [if_pos ⟨e', he', hk⟩, if_neg h1, if_pos ⟨e', List.mem_cons_of_mem _ he', hk⟩]
    · rw [if_neg h2, if_neg h1, if_neg]
      rintro ⟨e', he', hk⟩
      rcases List.mem_cons.1 he' with rfl | he'
      · exact h1 hk
      · exact h2 ⟨e', he', hk⟩

/-! ### Rectangles -/

theorem mem_rectangle {row0 rows col0 cols : Nat} {e : Nat × Nat} :
    e ∈ rectangle row0 rows col0 cols ↔ (row0 ≤ e.1 ∧ e.1 < row0 + rows) ∧ col0 ≤ e.2 ∧ e.2 < col0 + cols := by
  obtain ⟨r, k⟩ := e
  simp only [rectangle, List.mem_flatMap, List.mem_map, List.mem_range, Prod.mk.injEq]
  constructor
  · rintro ⟨i, hi, j, hj, rfl, rfl⟩
    omega
  · rintro ⟨⟨h1, h2⟩, h3, h4⟩
    exact ⟨r - row0, by omega, k - col0, by omega, by omega, by omega⟩

theorem nodup_rectangle (row0 rows col0 cols : Nat) : (rectangle row0 rows col0 cols).Nodup := by
  refine List.nodup_flatMap.2 ⟨fun i _ => (List.nodup_range.map fun a b h => by simpa using h), ?_⟩
  refine List.nodup_range.pairwise_of_forall_ne fun i _ j _ hij => ?_
  intro e he he'
  simp only [List.mem_map] at he he'
  obtain ⟨a, -, rfl⟩ := he
  obtain ⟨b, -, h⟩ := he'
  simp only [Prod.mk.injEq] at h
  omega

/-! ### Tiles (R270) -/

theorem Cell.tileRow_putTileRow {bytes : List Byte} (h : bytes.length = 64) (t r : Nat) (c : Cell) : (c.putTileRow t r bytes).tileRow t r = bytes := by
  have := sgets_sputs (0 : Byte) bytes (2048 * t + 64 * r) c.tiles
  rwa [h] at this

theorem Cell.tileRow_putTileRow_other {bytes : List Byte} (h : bytes.length = 64) {t r t' r' : Nat} (hr : r < 32) (hr' : r' < 32) (hne : ¬(t' = t ∧ r' = r))
    (c : Cell) : (c.putTileRow t r bytes).tileRow t' r' = c.tileRow t' r' := by
  unfold Cell.tileRow sgets
  refine List.map_congr_left fun i hi => ?_
  have hi := List.mem_range.1 hi
  exact sget_sputs_outside 0 bytes c.tiles (by omega)

theorem Cell.tileRow_congr {c d : Cell} (h : d.tiles = c.tiles) (t r : Nat) : d.tileRow t r = c.tileRow t r := by
  simp only [Cell.tileRow, h]

/-- Rows of one tile written in a pass. -/
theorem Cell.tileRow_putRows {t : Nat} {row : Nat → List Byte} {l : List Nat} (hn : l.Nodup) (hl : ∀ r ∈ l, r < 32) (hrow : ∀ r, (row r).length = 64) (c : Cell) :
    (∀ r ∈ l, (l.foldl (fun c r => c.putTileRow t r (row r)) c).tileRow t r = row r) ∧
      ∀ t' r', r' < 32 → (t' ≠ t ∨ r' ∉ l) → (l.foldl (fun c r => c.putTileRow t r (row r)) c).tileRow t' r' = c.tileRow t' r' := by
  refine ⟨?_, fun t' r' hr' hne => ?_⟩
  · refine foldl_parts (fun _ _ => ()) (fun r c => c.tileRow t r) (fun r _ => row r) hn (fun c r _ => Cell.tileRow_putTileRow (hrow r) t r c) ?_ c
    intro c a ha b hb hab
    exact ⟨rfl, Cell.tileRow_putTileRow_other (hrow a) (hl a ha) (hl b hb) (fun h => hab h.2.symm) c⟩
  · refine foldl_keeps (g := fun c : Cell => c.tileRow t' r') (fun c a ha => ?_) c
    refine Cell.tileRow_putTileRow_other (hrow a) (hl a ha) hr' (fun h => ?_) c
    rcases hne with hne | hne
    · exact hne h.1
    · exact hne (h.2 ▸ ha)

/-! ### Codes of 32 bits -/

theorem signed32_lt {c : Nat} (h : c < 2 ^ 31) (neg : Bool) : signed fFP32 neg c < 2 ^ 32 := by
  have hs : (floatFmt fFP32).signed = true := by decide
  have hw : width fFP32 - 1 = 31 := by decide
  cases neg <;> simp only [signed, hs, hw, Bool.and_true, Bool.false_eq_true, if_false, if_true] <;> omega

theorem roundFinite32_lt (r : Rounding) (rnd : Nat) (neg : Bool) (m : Nat) (e : Int) : (roundFinite fFP32 r rnd neg m e).1 < 2 ^ 32 := by
  have hs : (floatFmt fFP32).signed = true := by decide
  have hz : (floatFmt fFP32).negZero = true := by decide
  have hmax : (floatFmt fFP32).cmax < 2 ^ 31 := by decide
  have hinf : (floatFmt fFP32).inf = some 0x7F80_0000 := by decide
  unfold roundFinite
  simp only [hs, hz, Bool.not_true, Bool.and_false, Bool.false_eq_true, if_false, if_true]
  generalize (if roundsUp r.mode neg rnd _ then _ else _ : Nat) = c
  by_cases hm : m = 0
  · rw [if_pos hm]
    exact signed32_lt (by decide) neg
  rw [if_neg hm]
  by_cases hc : (floatFmt fFP32).cmax < c
  · rw [if_pos hc]
    simp only [overflowCode, hinf]
    split
    · exact signed32_lt hmax neg
    · exact signed32_lt (by decide) neg
  rw [if_neg hc]
  by_cases h0 : c = 0
  · rw [if_pos h0]
    exact signed32_lt (by decide) neg
  · rw [if_neg h0]
    exact signed32_lt (by omega) neg

/-- A value rounded to FP32 is a code of 32 bits. -/
theorem roundTo32_lt (r : Rounding) (rnd : Nat) (x : Num) : (roundTo fFP32 r rnd x).1 < 2 ^ 32 := by
  have hi : fFP32.isInt = false := by decide
  simp only [roundTo, hi, Bool.false_eq_true, if_false]
  cases x with
  | nan g => exact (by decide : nanCode fFP32 < 2 ^ 32)
  | inf neg =>
    have hs : (floatFmt fFP32).signed = true := by decide
    have hinf : (floatFmt fFP32).inf = some 0x7F80_0000 := by decide
    simp only [deliverInf, hs, hinf, Bool.not_true, Bool.and_false, Bool.false_eq_true, if_false]
    exact signed32_lt (by decide) neg
  | fin neg m e => exact roundFinite32_lt r rnd neg m e

theorem code32_lt (x : Num) : code32 x < 2 ^ 32 := roundTo32_lt _ _ x

theorem addInto_lt (acc : Nat × Flags) (x : Num × Flags) : (addInto acc x).1 < 2 ^ 32 := roundTo32_lt _ _ _

theorem sumEight_lt (l : List (Num × Num)) (acc : Nat × Flags) (h : acc.1 < 2 ^ 32) : (sumEight l acc).1 < 2 ^ 32 := by
  induction l, acc using sumEight.induct with
  | case1 acc => exact h
  | case2 p acc => exact addInto_lt _ _
  | case3 p q r acc x f1 hx y f2 hy t f3 ht ih =>
    rw [sumEight]
    simp only [hx, hy, ht]
    exact ih (addInto_lt _ _)

theorem sumBlock_lt (acc : Nat × Flags) (l : List (Num × Num)) (sa sb : Nat) : (sumBlock acc l sa sb).1 < 2 ^ 32 := by
  unfold sumBlock
  dsimp only
  split
  · exact (by decide : nanCode fFP32 < 2 ^ 32)
  · split
    · exact addInto_lt _ _
    · split
      · exact addInto_lt _ _
      · exact addInto_lt _ _

theorem foldl_lt {α : Type} {f : Nat × Flags → α → Nat × Flags} (hf : ∀ acc a, (f acc a).1 < 2 ^ 32) (l : List α) {acc : Nat × Flags} (h : acc.1 < 2 ^ 32) :
    (l.foldl f acc).1 < 2 ^ 32 := by
  induction l generalizing acc with
  | nil => exact h
  | cons a l ih => exact ih (hf acc a)

/-- A float sum is a code of 32 bits. -/
theorem floatEntry_lt (g : Group48) (blk : Nat) (sc : Nat → Nat × Nat) {acc : Nat × Flags} (h : acc.1 < 2 ^ 32) (ks : List Nat) (p : Nat → Num × Num) :
    (floatEntry g blk sc acc ks p).1 < 2 ^ 32 := by
  cases g with
  | half => exact foldl_lt (fun _ _ => addInto_lt _ _) _ h
  | eight => exact sumEight_lt _ _ h
  | scaled | int => exact foldl_lt (fun _ _ => sumBlock_lt _ _ _ _) _ h

end Sys2Proof.Machine
end

section
/-! The matrix engine's moves (R272, R274, R275, R279-R281, R284): tiles and accumulators to and from memory. -/

namespace Sys2Proof.Machine

/-! ### Numbers from digits -/

/-- The number whose digits of e bits are the values of a list, the least first. -/
def digits (e : Nat) : List Nat → Nat
  | [] => 0
  | v :: vs => v + 2 ^ e * digits e vs

theorem sum_mapIdx_digits (e : Nat) (vs : List Nat) : (vs.mapIdx fun c v => v * 2 ^ (c * e)).sum = digits e vs := by
  induction vs with
  | nil => rfl
  | cons v vs ih =>
    have hshift : (vs.mapIdx fun c v => v * 2 ^ ((c + 1) * e)) = (vs.mapIdx fun c v => v * 2 ^ (c * e)).map (2 ^ e * ·) := by
      refine List.ext_getElem? fun c => ?_
      rw [List.getElem?_map, List.getElem?_mapIdx, List.getElem?_mapIdx, Option.map_map]
      refine congrArg (fun f => vs[c]?.map f) (funext fun v => ?_)
      show v * 2 ^ ((c + 1) * e) = 2 ^ e * (v * 2 ^ (c * e))
      rw [Nat.add_mul, Nat.pow_add, Nat.one_mul]
      ring
    rw [List.mapIdx_cons, List.sum_cons, hshift, List.sum_map_mul_left, List.map_id', ih, digits]
    simp

theorem bits_digits {e : Nat} {vs : List Nat} (h : ∀ v ∈ vs, v < 2 ^ e) (c : Nat) : bits (digits e vs) (c * e) e = vs.getD c 0 := by
  induction vs generalizing c with
  | nil => simp [digits, bits]
  | cons v vs ih =>
    have hv := h v List.mem_cons_self
    cases c with
    | zero => simp [digits, bits, Nat.mod_eq_of_lt hv]
    | succ c =>
      rw [List.getD_cons_succ, ← ih (fun v hv => h v (List.mem_cons_of_mem _ hv)) c]
      unfold bits
      rw [digits, Nat.add_mul, Nat.one_mul, Nat.add_comm (c * e), Nat.pow_add, ← Nat.div_div_eq_div_mul, Nat.add_mul_div_left _ _ (by positivity),
        Nat.div_eq_of_lt hv, Nat.zero_add]

theorem ofBytes_bytesOf (n v : Nat) : ofBytes (bytesOf n v) = v % 2 ^ (8 * n) := by
  induction n generalizing v with
  | zero => simp [bytesOf, ofBytes, Nat.mod_one]
  | succ n ih =>
    rw [bytesOf, ofBytes, ih, show 8 * (n + 1) = 8 + 8 * n by omega, Nat.pow_add, Nat.mod_mul]
    rfl

theorem bits_mod {lo w N : Nat} (h : lo + w ≤ N) (v : Nat) : bits (v % 2 ^ N) lo w = bits v lo w := by
  unfold bits
  refine Nat.eq_of_testBit_eq fun i => ?_
  simp only [Nat.testBit_mod_two_pow, Nat.testBit_div_two_pow]
  by_cases hi : i < w
  · simp [hi, show i + lo < N by omega]
  · simp [hi]

theorem bits_lt (v lo w : Nat) : bits v lo w < 2 ^ w := Nat.mod_lt _ (by positivity)

theorem ofBytes_zero (n : Nat) : ofBytes (List.replicate n 0) = 0 := by
  induction n with
  | zero => rfl
  | succ n ih => rw [List.replicate_succ, ofBytes, ih]; rfl

/-! ### The run of a command -/

/-- The state in which a unit of a command works: a command that begins sets `KMXROW` (R287). -/
def mxStart (x : Cmd) (s : State) : State := if x.begun then s else s.onCell (Cell.progress 0 0)

/-- A command that has begun. -/
def Cmd.on (x : Cmd) : Cmd := { x with begun := true }

theorem mxStart_pkg (x : Cmd) (s : State) : (mxStart x s).pkg = s.pkg := by unfold mxStart; split <;> rfl
theorem mxStart_tiles (x : Cmd) (s : State) : (mxStart x s).cell.tiles = s.cell.tiles := by unfold mxStart; split <;> rfl
theorem mxStart_store (x : Cmd) (s : State) : (mxStart x s).cell.store = s.cell.store := by unfold mxStart; split <;> rfl
theorem mxStart_acc (x : Cmd) (s : State) : (mxStart x s).cell.acc = s.cell.acc := by unfold mxStart; split <;> rfl
theorem mxStart_entry (x : Cmd) (s : State) (k : Nat) : (mxStart x s).cell.entry k = s.cell.entry k := by unfold mxStart; split <;> rfl
theorem mxStart_poisonedRow (x : Cmd) (s : State) (r : Nat) : (mxStart x s).cell.poisonedRow r = s.cell.poisonedRow r := by unfold mxStart; split <;> rfl

theorem countProducts_zero (s : State) : countProducts 0 s = s := by
  unfold countProducts
  split <;> rfl

theorem countProducts_cell (n : Nat) (s : State) : (countProducts n s).cell = s.cell := by
  unfold countProducts
  split
  · split <;> rfl
  · rfl

theorem mxUnit_body {x : Cmd} (h : unitProducts x = 0) (s : State) : mxUnit x s = mxBody x s := by
  unfold mxUnit
  rw [h]
  cases mxBody x s <;> simp [countProducts_zero]

section
variable {x : Cmd} {s : State} (hok : mxOk x = true) (hch : s.cell.tokenChannel x = true)
include hok hch

/-- A command that passes its checks and is no loop does one unit. -/
theorem runMx_unit (hv : x.verb ≠ 9) : runMx x s = mxUnit x.on (mxStart x s) := by
  cases hb : x.begun
  · have hch' : (s.onCell (Cell.progress 0 0)).cell.tokenChannel x = true := hch
    simp only [runMx, mxStart, hb, Bool.false_eq_true, if_false, hok, hch', Bool.not_true, Bool.or_self, Bool.and_false, if_neg hv, Cmd.on]
  · simp only [runMx, mxStart, hb, if_true, Bool.not_true, Bool.false_and, Bool.false_eq_true, if_false, if_neg hv, Cmd.on]

/-- A command that multiplies nothing only does its body. -/
theorem runMx_body (hv : x.verb ≠ 9) (h2 : x.verb ≠ 2) (h3 : x.verb ≠ 3) : runMx x s = mxBody x.on (mxStart x s) := by
  rw [runMx_unit hok hch hv, mxUnit_body]
  unfold unitProducts
  split
  next h => exact absurd h h2
  next h => exact absurd h h3
  next => rfl

theorem runMx_ld (hv : x.verb = 0) : runMx x s = moveLd x.on (mxStart x s) := by
  rw [runMx_body hok hch (by omega) (by omega) (by omega)]
  simp only [mxBody, Cmd.on, hv]

theorem runMx_st (hv : x.verb = 1) : runMx x s = moveSt x.on (mxStart x s) := by
  rw [runMx_body hok hch (by omega) (by omega) (by omega)]
  simp only [mxBody, Cmd.on, hv]

theorem runMx_zero (hv : x.verb = 4) : runMx x s = mxZeroes x.on (mxStart x s) := by
  rw [runMx_body hok hch (by omega) (by omega) (by omega)]
  simp only [mxBody, Cmd.on, hv]

theorem runMx_drain (hv : x.verb = 5) : runMx x s = drain x.on (mxStart x s) := by
  rw [runMx_body hok hch (by omega) (by omega) (by omega)]
  simp only [mxBody, Cmd.on, hv]

theorem runMx_smax (hv : x.verb = 6) : runMx x s = smax x.on (mxStart x s) := by
  rw [runMx_body hok hch (by omega) (by omega) (by omega)]
  simp only [mxBody, Cmd.on, hv]

theorem runMx_accld (hv : x.verb = 7) : runMx x s = accld x.on (mxStart x s) := by
  rw [runMx_body hok hch (by omega) (by omega) (by omega)]
  simp only [mxBody, Cmd.on, hv]

theorem runMx_accst (hv : x.verb = 8) : runMx x s = accst x.on (mxStart x s) := by
  rw [runMx_body hok hch (by omega) (by omega) (by omega)]
  simp only [mxBody, Cmd.on, hv]

end

/-! ### Clearing and copies of accumulators (R279, R284) -/

/-- Entries discarded and cleared in a pass. -/
theorem zeroes_acc (l : List (Nat × Nat)) (c : Cell) :
    (l.foldl (fun c e => (c.discard e).putAcc e.1 e.2 0) c).acc = l.foldl (fun m e => sput 0 (accKey e.1 e.2) 0 m) c.acc := by
  induction l generalizing c with
  | nil => rfl
  | cons e l ih => rw [List.foldl_cons, ih]; rfl

theorem mxZeroes_spec {x : Cmd} (hv : x.verb = 4) (s : State) : ∃ t, mxZeroes x s = .done x 4 [] t ∧ t.pkg = s.pkg ∧ t.cell.tiles = s.cell.tiles ∧
    t.cell.store = s.cell.store ∧ t.cell.acc = (rectOf x.w1).foldl (fun m e => sput 0 (accKey e.1 e.2) 0 m) s.cell.acc := by
  simp only [mxZeroes, hv]
  refine ⟨_, rfl, rfl, ?_, ?_, zeroes_acc _ _⟩
  · refine foldl_keeps (g := Cell.tiles) (fun _ _ _ => ?_) s.cell
    rfl
  · refine foldl_keeps (g := Cell.store) (fun _ _ _ => ?_) s.cell
    rfl

theorem Cell.promote_store (e : Nat × Nat) (c : Cell) : (c.promote e).store = c.store := by
  unfold Cell.promote
  dsimp only
  split <;> rfl

theorem Cell.promoteAll_store (l : List (Nat × Nat)) (c : Cell) : (c.promoteAll l).store = c.store :=
  foldl_keeps (g := Cell.store) (fun c e _ => Cell.promote_store e c) c

/-- What `mx.accst` stores. -/
def accBytes (l : List (Nat × Nat)) (c : Cell) : List Byte := l.flatMap fun e => bytesOf 4 ((c.promoteAll l).accAt e.1 e.2)

theorem accBytes_congr {c d : Cell} (h : ∀ k, d.entry k = c.entry k) (l : List (Nat × Nat)) : accBytes l d = accBytes l c := by
  simp only [accBytes, Cell.accAt_entry, Cell.entry_promoteAll, h]

theorem accst_poisoned {x : Cmd} {s : State} (h : (rectOf x.w2).any (fun e => s.cell.poisonedRow e.1) = true) : accst x s = .fault cUNCORRECTABLE 0 s := by
  simp only [accst, h, if_true]

theorem accst_stores {x : Cmd} {s : State} (hv : x.verb = 8) (h : (rectOf x.w2).any (fun e => s.cell.poisonedRow e.1) = false) :
    ∃ fill t, accst x s = .done x 8 fill t ∧ t.pkg = s.pkg ∧ t.cell.store = sputs 0 (fld x.w1 0 17) (accBytes (rectOf x.w2) s.cell) s.cell.store := by
  simp only [accst, h, Bool.false_eq_true, if_false, hv]
  refine ⟨_, _, rfl, rfl, ?_⟩
  show sputs 0 _ _ (s.cell.promoteAll _).store = _
  rw [Cell.promoteAll_store]
  rfl

theorem accld_damaged {x : Cmd} {s : State} (h : s.cell.damagedAt (fld x.w1 0 17) (4 * (rectOf x.w2).length) = true) : accld x s = .fault cUNCORRECTABLE 0 s := by
  simp only [accld, h, if_true]

/-! ### Passes over a list with its places -/

theorem mem_placed {α : Type} {l : List α} {i : Nat} {p : α} : (i, p) ∈ (l.mapIdx fun i e => (i, e)) ↔ l[i]? = some p := by
  rw [List.mem_iff_getElem?]
  simp only [List.getElem?_mapIdx]
  constructor
  · rintro ⟨j, hj⟩
    obtain ⟨a, ha, hja⟩ := Option.map_eq_some_iff.1 hj
    cases hja
    exact ha
  · intro h
    exact ⟨i, by rw [h]; rfl⟩

theorem nodup_placed {α : Type} (l : List α) : (l.mapIdx fun i e => (i, e)).Nodup := by
  refine List.nodup_iff_getElem?_ne_getElem?.2 fun i j hij hj h => ?_
  rw [List.length_mapIdx] at hj
  rw [List.getElem?_mapIdx, List.getElem?_mapIdx, List.getElem?_eq_getElem hj, List.getElem?_eq_getElem (show i < l.length by omega)] at h
  have := congrArg Prod.fst (Option.some.inj h)
  dsimp only at this
  omega

/-- Different places of a list without repetitions hold different elements. -/
theorem placed_ne {α : Type} {l : List α} (hn : l.Nodup) {a b : Nat × α} (ha : a ∈ (l.mapIdx fun i e => (i, e))) (hb : b ∈ (l.mapIdx fun i e => (i, e)))
    (hab : a ≠ b) : a.2 ≠ b.2 := by
  obtain ⟨i, p⟩ := a
  obtain ⟨j, q⟩ := b
  rintro (rfl : p = q)
  obtain ⟨hlt, hi⟩ := List.getElem?_eq_some_iff.1 (mem_placed.1 ha)
  obtain ⟨hlt', hj⟩ := List.getElem?_eq_some_iff.1 (mem_placed.1 hb)
  exact hab (by rw [(hn.getElem_inj_iff (hi := hlt) (hj := hlt')).1 (hi.trans hj.symm)])

/-! ### `mx.accld` (R284) -/

/-- One entry loaded. -/
def Cell.loadEntry (off : Nat) (c : Cell) (q : Nat × Nat × Nat) : Cell := (c.discard q.2).putAcc q.2.1 q.2.2 (ofBytes (c.load (off + 4 * q.1) 4))

theorem Cell.entry_loadEntry (off k : Nat) (c : Cell) (q : Nat × Nat × Nat) :
    (c.loadEntry off q).entry k = if k = accKey q.2.1 q.2.2 then (ofBytes (c.load (off + 4 * q.1) 4) % 2 ^ 32, Inner.zero) else c.entry k := by
  rw [Cell.loadEntry, Cell.entry_putAcc, Cell.entry_discard]
  split <;> rfl

theorem Cell.load_loadEntry (off a n : Nat) (c : Cell) (q : Nat × Nat × Nat) : (c.loadEntry off q).load a n = c.load a n := rfl

/-- Entries of a rectangle loaded in a pass. -/
def Cell.loadEntries (off : Nat) (l : List (Nat × Nat)) (c : Cell) : Cell := (l.mapIdx fun i e => (i, e)).foldl (Cell.loadEntry off) c

section
variable {l : List (Nat × Nat)} (hl : ∀ e ∈ l, e.2 < 128) (off : Nat) (c : Cell)

theorem Cell.loadEntries_store : (c.loadEntries off l).store = c.store := by
  refine foldl_keeps (g := Cell.store) (fun _ _ _ => ?_) c
  rfl
theorem Cell.loadEntries_tiles : (c.loadEntries off l).tiles = c.tiles := by
  refine foldl_keeps (g := Cell.tiles) (fun _ _ _ => ?_) c
  rfl

include hl

theorem Cell.entry_loadEntries (hn : l.Nodup) {i : Nat} {p : Nat × Nat} (hp : l[i]? = some p) :
    (c.loadEntries off l).entry (accKey p.1 p.2) = (ofBytes (c.load (off + 4 * i) 4) % 2 ^ 32, Inner.zero) := by
  refine foldl_parts (fun (q : Nat × Nat × Nat) (c : Cell) => c.load (off + 4 * q.1) 4) (fun q c => c.entry (accKey q.2.1 q.2.2))
    (fun _ bytes => (ofBytes bytes % 2 ^ 32, Inner.zero)) (nodup_placed l) (fun c q _ => ?_) (fun c a ha b hb hab => ⟨Cell.load_loadEntry .., ?_⟩) c
    (i, p) (mem_placed.2 hp)
  · rw [Cell.entry_loadEntry, if_pos rfl]
  · rw [Cell.entry_loadEntry, if_neg]
    intro h
    obtain ⟨h1, h2⟩ := (accKey_inj (hl _ (List.mem_of_getElem? (mem_placed.1 hb))) (hl _ (List.mem_of_getElem? (mem_placed.1 ha)))).1 h
    exact placed_ne hn hb ha hab.symm (Prod.ext h1 h2)

theorem Cell.entry_loadEntries_other {p : Nat × Nat} (hp : p ∉ l) (hp2 : p.2 < 128) :
    (c.loadEntries off l).entry (accKey p.1 p.2) = c.entry (accKey p.1 p.2) := by
  refine foldl_keeps (g := fun c : Cell => c.entry (accKey p.1 p.2)) (fun c q hq => ?_) c
  have hq' : q.2 ∈ l := List.mem_of_getElem? (mem_placed.1 hq)
  rw [Cell.entry_loadEntry, if_neg]
  intro h
  obtain ⟨h1, h2⟩ := (accKey_inj hp2 (hl _ hq')).1 h
  exact hp (Prod.ext h1 h2 ▸ hq')

end

theorem accld_loads {x : Cmd} {s : State} (hv : x.verb = 7) (h : s.cell.damagedAt (fld x.w1 0 17) (4 * (rectOf x.w2).length) = false) :
    ∃ t, accld x s = .done x 7 [] t ∧ t.pkg = s.pkg ∧
      t.cell = ((s.cell.loadEntries (fld x.w1 0 17) (rectOf x.w2)).markRows false (fullRows x.w2)).progress 0 0 := by
  simp only [accld, h, Bool.false_eq_true, if_false, hv]
  exact ⟨_, rfl, rfl, rfl⟩

theorem ofBytes_lt (l : List Byte) : ofBytes l < 256 ^ l.length := by
  induction l with
  | nil => simp [ofBytes]
  | cons b l ih =>
    have hb := b.isLt
    rw [ofBytes, List.length_cons, Nat.pow_succ]
    omega

end Sys2Proof.Machine
end

section
/-! `mx.ld`, `mx.st` and `mx.drain` (R275, R281): what a unit leaves of the tile, the accumulators and memory. -/

namespace Sys2Proof.Machine

/-! ### `mx.ld` (R275) -/

/-- The rows of a tile behind those that a command loads are cleared. -/
def Cell.clearRows (t n : Nat) (c : Cell) : Cell := ((List.range 32).drop n).foldl (fun c i => c.putTileRow t i (List.replicate 64 0)) c

theorem mem_drop_range {n m r : Nat} : r ∈ (List.range m).drop n ↔ n ≤ r ∧ r < m := by
  rw [List.range_eq_range', List.drop_range', List.mem_range'_1]
  omega

theorem Cell.tileRow_clearRows (t n : Nat) (c : Cell) : (∀ r, n ≤ r → r < 32 → (c.clearRows t n).tileRow t r = List.replicate 64 0) ∧
    ∀ r, r < 32 → r < n → (c.clearRows t n).tileRow t r = c.tileRow t r := by
  have hn : ((List.range 32).drop n).Nodup := List.nodup_range.sublist (List.drop_sublist n _)
  obtain ⟨hin, hout⟩ := Cell.tileRow_putRows (t := t) (row := fun _ => List.replicate 64 0) hn (fun r hr => (mem_drop_range.1 hr).2)
    (fun _ => List.length_replicate) c
  exact ⟨fun r h h' => hin r (mem_drop_range.2 ⟨h, h'⟩), fun r h h' => hout t r h (.inr fun hr => absurd (mem_drop_range.1 hr).1 (by omega))⟩

section
variable {x : Cmd} {s v : State} {bytes : List Byte}

/-- The state after a row has been loaded. -/
def rowLoaded (x : Cmd) (bytes : List Byte) (v : State) : State := v.onCell fun c => (c.putTileRow (fld x.w3 29 3) x.unit bytes).progress 0 (x.unit + 1)

theorem moveLd_row (hv : x.verb = 0) (ht : fld x.w3 28 1 = 0) (hr : readMem .mx (moveAddr x x.unit) 64 s = .ok bytes v) :
    moveLd x s = if x.unit + 1 < fld x.w3 21 5 + 1 then .more { x with unit := x.unit + 1 } (rowLoaded x bytes v)
      else .done x 0 [] ((rowLoaded x bytes v).onCell (Cell.clearRows (fld x.w3 29 3) (fld x.w3 21 5 + 1))) := by
  simp only [moveLd, ht, if_true, hr, Io.ran_ok, hv]
  rfl

theorem moveLd_fault {code : Byte} (ht : fld x.w3 28 1 = 0) (hr : readMem .mx (moveAddr x x.unit) 64 s = .fault code v) :
    moveLd x s = .fault code (BitVec.ofNat 32 x.unit) v := by
  simp only [moveLd, ht, if_true, hr, Io.ran_fault]

theorem moveLd_block {w : Option ParkKey} {b : Bool} (ht : fld x.w3 28 1 = 0) (hr : readMem .mx (moveAddr x x.unit) 64 s = .block w b v) :
    moveLd x s = .block w b v := by
  simp only [moveLd, ht, if_true, hr, Io.ran_block]

theorem rowLoaded_rows (hb : bytes.length = 64) (hu : x.unit < 32) : (rowLoaded x bytes v).cell.tileRow (fld x.w3 29 3) x.unit = bytes ∧
    ∀ t r, r < 32 → ¬(t = fld x.w3 29 3 ∧ r = x.unit) → (rowLoaded x bytes v).cell.tileRow t r = v.cell.tileRow t r :=
  ⟨Cell.tileRow_putTileRow hb _ _ _, fun _ _ hr hne => Cell.tileRow_putTileRow_other hb hu hr hne _⟩

/-- Row r of the tile that a transposed load makes of memory rows. -/
def loadedRow (e n : Nat) (rows : List (List Byte)) (r : Nat) : List Byte :=
  if r < n then bytesOf 64 ((rows.mapIdx fun c bytes => bits (ofBytes bytes) (r * e) e * 2 ^ (c * e)).sum) else List.replicate 64 0

theorem length_loadedRow (e n : Nat) (rows : List (List Byte)) (r : Nat) : (loadedRow e n rows r).length = 64 := by
  unfold loadedRow
  split <;> simp

/-- An element of a row that a transposed load makes. -/
theorem loadedRow_element {e c : Nat} (he : c * e + e ≤ 512) (n : Nat) (rows : List (List Byte)) (r : Nat) :
    bits (ofBytes (loadedRow e n rows r)) (c * e) e = if r < n then bits (ofBytes (rows.getD c [])) (r * e) e else 0 := by
  unfold loadedRow
  split
  · have hmap : (rows.mapIdx fun c bytes => bits (ofBytes bytes) (r * e) e * 2 ^ (c * e)) =
        (rows.map fun bytes => bits (ofBytes bytes) (r * e) e).mapIdx fun c v => v * 2 ^ (c * e) := by
      refine List.ext_getElem? fun i => ?_
      rw [List.getElem?_mapIdx, List.getElem?_mapIdx, List.getElem?_map, Option.map_map]
      rfl
    rw [hmap, sum_mapIdx_digits, ofBytes_bytesOf, bits_mod (show c * e + e ≤ 8 * 64 from he),
      bits_digits (List.forall_mem_map.2 fun _ _ => bits_lt _ _ _)]
    rw [List.getD_eq_getElem?_getD, List.getD_eq_getElem?_getD, List.getElem?_map]
    cases rows[c]? with
    | none => simp [ofBytes, bits]
    | some l => rfl
  · rw [ofBytes_zero]
    simp [bits]

/-- A cell with every row of a tile written. -/
def Cell.loadedTile (t : Nat) (row : Nat → List Byte) (c : Cell) : Cell := (List.range 32).foldl (fun c r => c.putTileRow t r (row r)) c

theorem Cell.tileRow_loadedTile {t r : Nat} {row : Nat → List Byte} (hrow : ∀ r, (row r).length = 64) (hr : r < 32) (c : Cell) :
    (c.loadedTile t row).tileRow t r = row r :=
  (Cell.tileRow_putRows List.nodup_range (fun _ hr => List.mem_range.1 hr) hrow c).1 r (List.mem_range.2 hr)

theorem moveLd_transposed (hv : x.verb = 0) (ht : fld x.w3 28 1 = 1) {rows : List (List Byte)}
    (hr : Io.each (fun c s => readRow (moveAddr x c) (((fld x.w3 21 5 + 1) * moveWidth x + 7) / 8) s) (List.range (512 / moveWidth x)) s = .ok rows v) :
    moveLd x s = .done x 0 [] (v.onCell fun c => (c.loadedTile (fld x.w3 29 3) (loadedRow (moveWidth x) (fld x.w3 21 5 + 1) rows)).progress 0 0) := by
  simp only [moveLd, ht, Nat.one_ne_zero, if_false, hr, Io.ran_ok, hv, Cell.loadedTile, loadedRow, List.sum_eq_foldl]
  rfl

theorem moveWidth_mem (x : Cmd) : moveWidth x = 8 ∨ moveWidth x = 16 ∨ moveWidth x = 32 ∨ moveWidth x = 4 := by
  unfold moveWidth
  split <;> simp

theorem element_fits {x : Cmd} {c : Nat} (hc : c < 512 / moveWidth x) : c * moveWidth x + moveWidth x ≤ 512 := by
  rcases moveWidth_mem x with h | h | h | h <;> rw [h] at hc ⊢ <;> omega

theorem tileRow_onCell_loadedTile {t r : Nat} {row : Nat → List Byte} (hrow : ∀ r, (row r).length = 64) (hr : r < 32) :
    (v.onCell fun c => (c.loadedTile t row).progress 0 0).cell.tileRow t r = row r := by
  show ((v.cell.loadedTile t row).progress 0 0).tileRow t r = row r
  rw [Cell.tileRow_congr (Cell.tiles_progress 0 0 (v.cell.loadedTile t row)), Cell.tileRow_loadedTile hrow hr]

/-- A transposed load places element (c, r) of memory at element (r, c) of the tile. -/
theorem moveLd_elements (hv : x.verb = 0) (ht : fld x.w3 28 1 = 1) {rows : List (List Byte)}
    (hr : Io.each (fun c s => readRow (moveAddr x c) (((fld x.w3 21 5 + 1) * moveWidth x + 7) / 8) s) (List.range (512 / moveWidth x)) s = .ok rows v) :
    ∃ t, moveLd x s = .done x 0 [] t ∧ t.pkg = v.pkg ∧ ∀ r < 32, ∀ c < 512 / moveWidth x,
      bits (ofBytes (t.cell.tileRow (fld x.w3 29 3) r)) (c * moveWidth x) (moveWidth x) =
        if r < fld x.w3 21 5 + 1 then bits (ofBytes (rows.getD c [])) (r * moveWidth x) (moveWidth x) else 0 := by
  refine ⟨_, moveLd_transposed hv ht hr, State.onCell_pkg .., fun r hr c hc => ?_⟩
  rw [tileRow_onCell_loadedTile (fun r => length_loadedRow ..) hr]
  exact loadedRow_element (element_fits hc) _ rows r

/-! ### `mx.st` (R275) -/

theorem moveSt_damaged (ht : fld x.w3 28 1 = 0) (hb : s.cell.badRows (fld x.w3 29 3) [x.unit] = true) :
    moveSt x s = .fault cUNCORRECTABLE (BitVec.ofNat 32 x.unit) s := by
  simp only [moveSt, ht, if_true, hb]

theorem moveSt_row (hv : x.verb = 1) (ht : fld x.w3 28 1 = 0) (hb : s.cell.badRows (fld x.w3 29 3) [x.unit] = false)
    (hw : writeMem .mx (moveAddr x x.unit) (s.cell.tileRow (fld x.w3 29 3) x.unit) s = .ok () v) :
    ∃ fill, moveSt x s = if x.unit + 1 < fld x.w3 21 5 + 1 then .more { x with unit := x.unit + 1 } (v.onCell (Cell.progress 0 (x.unit + 1)))
      else .done x 1 fill (v.onCell (Cell.progress 0 (x.unit + 1))) := by
  simp only [moveSt, ht, if_true, hb, Bool.false_eq_true, if_false, hw, Io.ran_ok, hv]
  exact ⟨_, rfl⟩

/-- Writes of whole bytes that all happen or none are those of `writeAll`. -/
theorem writeAll_whole {e : Engine} {l : List (Word × List Byte)} {u : State} :
    ((Io.each (fun (q : Word × List Byte × Bool) s => spot true e q.1 q.2.1.length s) (l.map fun q => (q.1, q.2, false)) s).bind fun sps s =>
      .ok () ((sps.zip (l.map fun q => (q.1, q.2, false))).foldl (fun s q => writeHalf q.2.2.2 q.1 q.2.2.1 s) s)) = .ok () u ↔ writeAll e l s = .ok () u := by
  rw [Io.each_map]
  unfold writeAll
  simp only [List.zip_map_right, List.foldl_map, Prod.map, id_eq, writeHalf, Bool.false_eq_true, if_false]

/-- The bytes of memory row c of a transposed store. -/
def storedRow (x : Cmd) (cell : Cell) (n c : Nat) : List Byte :=
  bytesOf n (((List.range (fld x.w3 21 5 + 1)).map fun r => bits (ofBytes (cell.tileRow (fld x.w3 29 3) r)) (c * moveWidth x) (moveWidth x) * 2 ^ (r * moveWidth x)).sum)

/-- The pieces that a transposed store writes. -/
def storedPieces (x : Cmd) (cell : Cell) (n : Nat) : List (Word × List Byte) :=
  (List.range (512 / moveWidth x)).flatMap fun c =>
    (rowPieces (moveAddr x c) n).mapIdx fun i q => (q.1, ((storedRow x cell n c).drop (64 * i)).take q.2)

theorem moveSt_transposed (hv : x.verb = 1) (ht : fld x.w3 28 1 = 1) (h8 : (fld x.w3 21 5 + 1) * moveWidth x % 8 = 0)
    (hb : s.cell.badRows (fld x.w3 29 3) (List.range (fld x.w3 21 5 + 1)) = false)
    (hw : writeAll .mx (storedPieces x s.cell ((fld x.w3 21 5 + 1) * moveWidth x / 8)) s = .ok () v) :
    ∃ fill, moveSt x s = .done x 1 fill (v.onCell (Cell.progress 0 0)) := by
  have hn : ((fld x.w3 21 5 + 1) * moveWidth x + 7) / 8 = (fld x.w3 21 5 + 1) * moveWidth x / 8 := by omega
  have hparts : ((List.range (512 / moveWidth x)).flatMap fun c => (rowPieces (moveAddr x c) ((fld x.w3 21 5 + 1) * moveWidth x / 8)).mapIdx fun i q =>
      (q.1, ((storedRow x s.cell ((fld x.w3 21 5 + 1) * moveWidth x / 8) c).drop (64 * i)).take q.2, false)) =
      (storedPieces x s.cell ((fld x.w3 21 5 + 1) * moveWidth x / 8)).map fun q => (q.1, q.2, false) := by
    rw [storedPieces, List.map_flatMap]
    refine congrArg (fun f => List.flatMap f _) (funext fun c => ?_)
    refine List.ext_getElem? fun i => ?_
    rw [List.getElem?_map, List.getElem?_mapIdx, List.getElem?_mapIdx, Option.map_map]
    rfl
  obtain ⟨sps, u, hsp, hu⟩ := Io.bind_eq_ok.1 (writeAll_whole.2 hw)
  cases hu
  simp only [storedRow] at hparts
  simp only [moveSt, ht, Nat.one_ne_zero, if_false, hb, Bool.false_eq_true, hn, h8, bne_self_eq_false, Bool.false_and, hv, ← List.sum_eq_foldl]
  rw [hparts, hsp]
  exact ⟨_, rfl⟩

/-! ### `mx.drain` (R281) -/

/-- The rounding of a drain. -/
def drainRounding (x : Cmd) : Rounding := if fld x.w3 8 3 = 7 then ⟨x.rm, x.sat⟩ else ⟨BitVec.ofNat 3 (fld x.w3 8 3), fld x.w3 7 1 == 1⟩

/-- The 32 entries of a row as they are drained, with their flags. -/
def drained (x : Cmd) (c : Cell) : List (Nat × Flags) :=
  (List.range 32).map fun j => roundTo (fmtFld x.w3 11) (drainRounding x)
    ((philox x.dkey (BitVec.ofNat 32 (32 * fld x.w3 18 2 + j)) (BitVec.ofNat 32 (fld x.w3 25 7 + x.unit)) x.draw 0x2000_0000).1.toNat % 2 ^ 16)
    (valueOf (if (fmtFld x.w3 11).isInt then fINT32 else fFP32) (c.accAt (fld x.w3 25 7 + x.unit) (32 * fld x.w3 18 2 + j)))

/-- The state in which a row is drained: the first unit promotes every entry. -/
def drainStart (x : Cmd) (s : State) : State :=
  if x.unit = 0 then s.onCell (Cell.promoteAll (rectangle (fld x.w3 25 7) (fld x.w3 20 5 + 1) (32 * fld x.w3 18 2) 32)) else s

theorem drain_poisoned (hu : x.unit = 0) (h : ∃ i < fld x.w3 20 5 + 1, s.cell.poisonedRow (fld x.w3 25 7 + i) = true) :
    drain x s = .fault cUNCORRECTABLE 0 s := by
  have hany : ((List.range (fld x.w3 20 5 + 1)).any fun i => s.cell.poisonedRow (fld x.w3 25 7 + i)) = true := by
    obtain ⟨i, hi, h⟩ := h
    exact List.any_eq_true.2 ⟨i, List.mem_range.2 hi, h⟩
  simp only [drain, hu, hany, decide_true, Bool.and_self, if_true]

/-- The pieces that a drain writes of a row. -/
def drainPieces (x : Cmd) (c : Cell) : List (Word × List Byte) :=
  (rowPieces (drainAddr x x.unit) (drainBytes x)).mapIdx fun i q =>
    (q.1, ((bytesOfElements (fmtFld x.w3 11) ((drained x c).map Prod.fst)).drop (64 * i)).take q.2)

/-- The command with the flags of a drained row. -/
def Cmd.drainedFlags (x : Cmd) (c : Cell) : Cmd := { x with flags := x.flags ||| orFlags ((drained x c).map Prod.snd) }

theorem drain_row (hv : x.verb = 5) (h : ∀ i < fld x.w3 20 5 + 1, s.cell.poisonedRow (fld x.w3 25 7 + i) = false)
    (hw : writeAll .mx (drainPieces x (drainStart x s).cell) (drainStart x s) = .ok () v) :
    ∃ fill, drain x s = if x.unit + 1 < fld x.w3 20 5 + 1 then
        .more { x.drainedFlags (drainStart x s).cell with unit := x.unit + 1 } (v.onCell (Cell.progress 0 (x.unit + 1)))
      else .done (x.drainedFlags (drainStart x s).cell) 5 fill (v.onCell (Cell.progress 0 (x.unit + 1))) := by
  have hany : ((List.range (fld x.w3 20 5 + 1)).any fun i => s.cell.poisonedRow (fld x.w3 25 7 + i)) = false :=
    List.any_eq_false.2 fun i hi => by simp [h i (List.mem_range.1 hi)]
  have h5 : BitVec.ofNat 32 x.verb = 5 := by rw [hv]; rfl
  simp only [drain, hany, Bool.and_false, Bool.false_eq_true, if_false, h5]
  change ∃ fill, Io.ran (BitVec.ofNat 32 x.unit) (writeAll .mx (drainPieces x (drainStart x s).cell) (drainStart x s)) _ = _
  rw [hw]
  exact ⟨_, rfl⟩

end

end Sys2Proof.Machine
end

section
/-! `mx.mma` and `mx.mv` (R277, R278): every entry of a unit holds the sum of its products. -/

namespace Sys2Proof.Machine

theorem Cell.badRows_none {c : Cell} (h : c.badTiles = []) (t : Nat) (l : List Nat) : c.badRows t l = false := by
  simp [Cell.badRows, h, sget]

/-- What a unit of a command with several comes to: it goes on, or it is done. -/
def Ran.Goes (r : Ran) (more : Prop) [Decidable more] (x : Cmd) (lane : W32) (z : Cmd) (t : State) : Prop :=
  if more then r = .more z t ∧ z.unit = x.unit + 1 else r = .done z lane [] t

/-- Counting its products leaves what a unit comes to, and the cell. -/
theorem mxUnit_goes {x : Cmd} {s t : State} {more : Prop} [Decidable more] {lane : W32} {z : Cmd} (h : (mxBody x s).Goes more x lane z t) :
    ∃ t', (mxUnit x s).Goes more x lane z t' ∧ t'.cell = t.cell := by
  refine ⟨countProducts (unitProducts x) t, ?_, countProducts_cell _ _⟩
  unfold Ran.Goes at h ⊢
  split
  next hm =>
    rw [if_pos hm] at h
    obtain ⟨h, hu⟩ := h
    exact ⟨by simp only [mxUnit, h], hu⟩
  next hm =>
    rw [if_neg hm] at h
    simp only [mxUnit, h]

/-! ### `mx.mma` (R277) -/

/-- The products of a unit. -/
def mmaKs (x : Cmd) : List Nat := (List.range (fld x.w2 8 8 + 1)).filter fun k => k / 32 == x.unit
/-- Whether a unit starts from zero. -/
def mmaZero (x : Cmd) : Bool := fld x.w2 1 1 == 1 && x.unit == 0
/-- The key of an entry of the command. -/
def mmaKey (x : Cmd) (e : Nat × Nat) : Nat := accKey (fld x.w2 25 7 + e.1) (fld x.w2 18 7 + e.2)
/-- The operands of product k of an entry. -/
def mmaA (x : Cmd) (c : Cell) (i k : Nat) : Nat := c.operand (fld x.w1 15 3) (fld x.w1 14 1 == 1) (fmtFld x.w1 25) i k
def mmaB (x : Cmd) (c : Cell) (j k : Nat) : Nat := c.operand (fld x.w1 11 3) (fld x.w1 10 1 == 1) (fmtFld x.w1 18) j k

/-- The float sum of a unit into an entry that holds a. -/
def mmaSum (x : Cmd) (g : Group48) (c : Cell) (e : Nat × Nat) (a : Nat) : Nat × Flags :=
  floatEntry g (if fld x.w1 7 1 = 1 then 16 else 32) (mmaScale x c e.1 e.2) (a, 0) (mmaKs x)
    fun k => (valueOf (fmtFld x.w1 25) (mmaA x c e.1 k), valueOf (fmtFld x.w1 18) (mmaB x c e.2 k))

/-- The cell in which a float unit works: the first one discards or promotes what is pending. -/
def mmaStart (x : Cmd) (c : Cell) : Cell :=
  if x.unit = 0 then (rectangle (fld x.w2 25 7) 32 (fld x.w2 18 7) 32).foldl (fun c e => if mmaZero x then c.discard e else c.promote e) c else c

/-- One entry of a float unit. -/
def mmaFloatStep (x : Cmd) (g : Group48) (c : Cell) (r : Cell × Flags) (e : Nat × Nat) : Cell × Flags :=
  let q := mmaSum x g c e (if mmaZero x then 0 else r.1.accAt (fld x.w2 25 7 + e.1) (fld x.w2 18 7 + e.2))
  (r.1.putAcc (fld x.w2 25 7 + e.1) (fld x.w2 18 7 + e.2) q.1, r.2 ||| q.2)

/-- The entries after a float unit. -/
def mmaFloat (x : Cmd) (g : Group48) (c : Cell) : Cell × Flags := (rectangle 0 32 0 32).foldl (mmaFloatStep x g c) (mmaStart x c, 0)

/-- The integer products of a unit for an entry. -/
def mmaInts (x : Cmd) (c : Cell) (e : Nat × Nat) : List (Nat × Int × Bool) :=
  (mmaKs x).map fun k => (k, intOf (fmtFld x.w1 25) (mmaA x c e.1 k) * intOf (fmtFld x.w1 18) (mmaB x c e.2 k), k == fld x.w2 8 8 + 1 - 1 && !(fld x.w2 0 1 == 1))

/-- One entry of an integer unit. -/
def mmaIntStep (x : Cmd) (c : Cell) (r : Cell × Option Nat) (e : Nat × Nat) : Cell × Option Nat :=
  let q := intEntry (32 * (fld x.w2 3 5 + 1)) (mmaZero x) (mmaInts x c e) (fld x.w2 25 7 + e.1, fld x.w2 18 7 + e.2) r.1
  (q.1, least? r.2 q.2)

/-- The entries after an integer unit. -/
def mmaInt (x : Cmd) (c : Cell) : Cell × Option Nat := (rectangle 0 32 0 32).foldl (mmaIntStep x c) (c, none)

/-- How a unit that stops for no saturation ends. -/
def mmaEnd (x y : Cmd) (s : State) : Ran :=
  if 32 * (x.unit + 1) < fld x.w2 8 8 + 1 then .more { y with unit := x.unit + 1 } (s.onCell (Cell.progress (x.unit + 1) 0))
  else .done y (BitVec.ofNat 32 x.verb) [] (s.onCell (Cell.progress (x.unit + 1) 0))

section
variable {x : Cmd} {s : State} (hb : s.cell.badTiles = []) (h2 : fld x.w2 2 1 = 0)
include hb h2

theorem mma_float {g : Group48} (hg : mmaGroup x = some g) (hne : g ≠ .int) :
    ∃ y, mma x s = mmaEnd x y { s with cell := (mmaFloat x g s.cell).1 } := by
  have h21 : (fld x.w2 2 1 == 1) = false := by rw [h2]; rfl
  simp only [mma, Cell.badRows_none hb, Bool.or_self, Bool.and_false, Bool.false_eq_true, if_false, h21, Bool.false_and]
  rw [hg]
  refine ⟨{ x with flags := x.flags ||| (mmaFloat x g s.cell).2 }, ?_⟩
  cases g with
  | int => exact absurd rfl hne
  | half | eight | scaled => rfl

theorem mma_int (hg : mmaGroup x = some .int) : ∃ y, mma x s = mmaEnd x y { s with cell := (mmaInt x s.cell).1 } := by
  have h21 : (fld x.w2 2 1 == 1) = false := by rw [h2]; rfl
  simp only [mma, Cell.badRows_none hb, Bool.or_self, Bool.and_false, Bool.false_eq_true, if_false, h21, Bool.false_and]
  rw [hg]
  exact ⟨_, rfl⟩

end

theorem mmaEnd_goes (x y : Cmd) (s : State) : ∃ z t, (mmaEnd x y s).Goes (32 * (x.unit + 1) < fld x.w2 8 8 + 1) x (BitVec.ofNat 32 x.verb) z t ∧
    t.cell = s.cell.progress (x.unit + 1) 0 := by
  unfold mmaEnd Ran.Goes
  split
  · exact ⟨_, _, ⟨rfl, rfl⟩, rfl⟩
  · exact ⟨_, _, rfl, rfl⟩

theorem Cell.promote_tiles (e : Nat × Nat) (c : Cell) : (c.promote e).tiles = c.tiles := by
  unfold Cell.promote
  dsimp only
  split <;> rfl

theorem mmaStart_rest (x : Cmd) (c : Cell) : (mmaStart x c).tiles = c.tiles ∧ (mmaStart x c).store = c.store := by
  unfold mmaStart
  split
  · refine ⟨foldl_keeps (g := Cell.tiles) (fun c e _ => ?_) c, foldl_keeps (g := Cell.store) (fun c e _ => ?_) c⟩
    · split
      · rfl
      · exact Cell.promote_tiles e c
    · split
      · rfl
      · exact Cell.promote_store e c
  · exact ⟨rfl, rfl⟩

theorem mmaFloat_rest (x : Cmd) (g : Group48) (c : Cell) : (mmaFloat x g c).1.tiles = c.tiles ∧ (mmaFloat x g c).1.store = c.store := by
  obtain ⟨ht, hs⟩ := mmaStart_rest x c
  unfold mmaFloat
  generalize rectangle 0 32 0 32 = l
  refine ⟨(foldl_keeps (g := fun r : Cell × Flags => r.1.tiles) (fun _ _ _ => ?_) _).trans ht,
    (foldl_keeps (g := fun r : Cell × Flags => r.1.store) (fun _ _ _ => ?_) _).trans hs⟩ <;> rfl

theorem mmaInt_rest (x : Cmd) (c : Cell) : (mmaInt x c).1.tiles = c.tiles ∧ (mmaInt x c).1.store = c.store := by
  unfold mmaInt
  generalize rectangle 0 32 0 32 = l
  refine ⟨foldl_keeps (g := fun r : Cell × Option Nat => r.1.tiles) (fun _ _ _ => ?_) (c, none),
    foldl_keeps (g := fun r : Cell × Option Nat => r.1.store) (fun _ _ _ => ?_) (c, none)⟩ <;> rfl

theorem mmaKey_inj {x : Cmd} (hcol : fld x.w2 18 7 ≤ 96) {a b : Nat × Nat} (ha : a ∈ rectangle 0 32 0 32) (hb : b ∈ rectangle 0 32 0 32) (h : a ≠ b) :
    mmaKey x a ≠ mmaKey x b := by
  obtain ⟨-, -, ha⟩ := mem_rectangle.1 ha
  obtain ⟨-, -, hb⟩ := mem_rectangle.1 hb
  intro hk
  obtain ⟨h1, h2⟩ := (accKey_inj (by omega) (by omega)).1 hk
  exact h (Prod.ext (by omega) (by omega))

/-- What an entry holds when a float unit begins. -/
theorem mmaStart_entry (x : Cmd) (c : Cell) {e : Nat × Nat} (he : e ∈ rectangle 0 32 0 32) (hz : mmaZero x = false) :
    (mmaStart x c).entry (mmaKey x e) = if x.unit = 0 then promoted (c.entry (mmaKey x e)) else c.entry (mmaKey x e) := by
  unfold mmaStart
  split
  · simp only [hz, Bool.false_eq_true, if_false]
    refine (Cell.entry_promoteAll _ _ c).trans (if_pos ⟨(fld x.w2 25 7 + e.1, fld x.w2 18 7 + e.2), mem_rectangle.2 ?_, rfl⟩)
    have := mem_rectangle.1 he
    dsimp only
    omega
  · rfl

theorem mmaFloat_entry {x : Cmd} (g : Group48) (c : Cell) (hcol : fld x.w2 18 7 ≤ 96) {e : Nat × Nat} (he : e ∈ rectangle 0 32 0 32) :
    ((mmaFloat x g c).1.entry (mmaKey x e)).1 =
      (mmaSum x g c e (if mmaZero x then 0 else if x.unit = 0 then (promoted (c.entry (mmaKey x e))).1 else (c.entry (mmaKey x e)).1)).1 := by
  have hpass := foldl_parts (fun e (r : Cell × Flags) => r.1.entry (mmaKey x e)) (fun e r => r.1.entry (mmaKey x e))
    (fun e p => ((mmaSum x g c e (if mmaZero x then 0 else p.1)).1 % 2 ^ 32, p.2)) (step := mmaFloatStep x g c) (nodup_rectangle 0 32 0 32)
    (fun r e _ => (Cell.entry_putAcc ..).trans (if_pos rfl))
    (fun r a ha b hb hab => by
      have h : (mmaFloatStep x g c r a).1.entry (mmaKey x b) = r.1.entry (mmaKey x b) :=
        (Cell.entry_putAcc ..).trans (if_neg (mmaKey_inj hcol hb ha hab.symm))
      exact ⟨h, h⟩)
    (mmaStart x c, 0) e he
  dsimp only at hpass
  rw [mmaFloat, hpass]
  have hlt (a : Nat) (ha : a < 2 ^ 32) : (mmaSum x g c e a).1 % 2 ^ 32 = (mmaSum x g c e a).1 := Nat.mod_eq_of_lt (floatEntry_lt _ _ _ ha _ _)
  cases hz : mmaZero x
  · simp only [Bool.false_eq_true, if_false]
    rw [hlt _ (Cell.entry_fst_lt _ _), mmaStart_entry x c he hz, apply_ite Prod.fst]
  · simp only [if_true]
    exact hlt 0 (by decide)

/-- The integer sum of a unit into an entry. -/
def mmaIntSum (x : Cmd) (c : Cell) (e : Nat × Nat) (p : Nat × Inner) : IntSum :=
  (mmaInts x c e).foldl (intProduct (32 * (fld x.w2 3 5 + 1))) (if mmaZero x then ⟨0, Inner.zero, false, none⟩ else ⟨intOf fINT32 p.1, p.2, false, none⟩)

theorem entry_intEntry (n : Nat) (zero : Bool) (ps : List (Nat × Int × Bool)) (e : Nat × Nat) (k : Nat) (c : Cell) :
    let r := ps.foldl (intProduct n) (if zero then ⟨0, Inner.zero, false, none⟩ else ⟨intOf fINT32 (c.accAt e.1 e.2), c.innerAt e.1 e.2, false, none⟩)
    (intEntry n zero ps e c).1.entry k = if k = accKey e.1 e.2 then (intCode fINT32 r.acc, r.inner) else c.entry k := by
  intro r
  show (((c.putAcc e.1 e.2 (intCode fINT32 r.acc)).putInner e.1 e.2 r.inner).overflowed r.sat).entry k = _
  rw [Cell.entry_overflowed, Cell.entry_putInner, Cell.entry_putAcc]
  split
  · rw [Nat.mod_eq_of_lt (intCode32_lt _)]
  · rfl

theorem mmaInt_entry {x : Cmd} (c : Cell) (hcol : fld x.w2 18 7 ≤ 96) {e : Nat × Nat} (he : e ∈ rectangle 0 32 0 32) :
    (mmaInt x c).1.entry (mmaKey x e) = (intCode fINT32 (mmaIntSum x c e (c.entry (mmaKey x e))).acc, (mmaIntSum x c e (c.entry (mmaKey x e))).inner) :=
  foldl_parts (fun e (r : Cell × Option Nat) => r.1.entry (mmaKey x e)) (fun e r => r.1.entry (mmaKey x e))
    (fun e p => (intCode fINT32 (mmaIntSum x c e p).acc, (mmaIntSum x c e p).inner)) (step := mmaIntStep x c) (nodup_rectangle 0 32 0 32)
    (fun r e _ => (entry_intEntry ..).trans (if_pos rfl))
    (fun r a ha b hb hab => by
      have h : (mmaIntStep x c r a).1.entry (mmaKey x b) = r.1.entry (mmaKey x b) :=
        (entry_intEntry ..).trans (if_neg (mmaKey_inj hcol hb ha hab.symm))
      exact ⟨h, h⟩)
    (c, none) e he

end Sys2Proof.Machine
end

section
/-! `mx.mv` and the limits of the multiply commands (R276, R278). -/

namespace Sys2Proof.Machine

/-! ### Limits -/

theorem mmaOk_of_mxOk {x : Cmd} (hv : x.verb = 2) (h : mxOk x = true) : mmaOk x = true := by
  simp only [mxOk, hv, Bool.and_eq_true] at h
  exact h.2

theorem mmaOk_cols {x : Cmd} (h : mmaOk x = true) : fld x.w2 18 7 ≤ 96 := by
  simp only [mmaOk, Bool.and_eq_true, decide_eq_true_eq] at h
  obtain ⟨⟨⟨⟨⟨⟨⟨⟨⟨-, -⟩, -⟩, -⟩, hcol⟩, -⟩, -⟩, -⟩, -⟩, -⟩ := h
  exact hcol

/-- A float command stops for no saturation. -/
theorem mmaOk_float {x : Cmd} (h : mmaOk x = true) {g : Group48} (hg : mmaGroup x = some g) (hne : g ≠ .int) : fld x.w2 2 1 = 0 := by
  simp only [mmaOk, hg, Bool.and_eq_true] at h
  obtain ⟨-, h⟩ := h
  cases g with
  | int => exact absurd rfl hne
  | half | eight | scaled =>
    simp only [Bool.and_eq_true, beq_iff_eq] at h
    tauto

/-! ### `mx.mv` (R278) -/

/-- The elements of a vector. -/
def mvK (x : Cmd) : Nat := 512 / max (width (fmtFld x.w3 9)) (width (fmtFld x.w3 2))
/-- The bytes of a weight row. -/
def mvRow (x : Cmd) : Nat := mvK x * width (fmtFld x.w3 2) / 8
/-- The place of an entry of vector v and output i of the unit. -/
def mvAt (x : Cmd) (v i : Nat) : Nat × Nat := (8 * fld x.w3 22 4 + v, 32 * fld x.w3 20 2 + 32 * x.unit + i)

/-- The float sum of a vector and a weight row into an entry that holds a; the vector stands in the tile of `c`. -/
def mvSum (x : Cmd) (g : Group48) (c : Cell) (v : Nat) (w : List Byte) (a : Nat) : Nat × Flags :=
  floatEntry g 32 (fun _ => (0x7F, 0x7F)) (a, 0) (List.range (mvK x)) fun k =>
    (valueOf (fmtFld x.w3 9) (c.tileElem (fld x.w3 29 3) (fmtFld x.w3 9) v k),
      valueOf (fmtFld x.w3 2) (bits (ofBytes w) (k * width (fmtFld x.w3 2)) (width (fmtFld x.w3 2))))

/-- What is pending in an entry is discarded or promoted. -/
def mvReady (x : Cmd) (e : Nat × Nat) (c : Cell) : Cell := if fld x.w3 17 1 == 1 then c.discard e else c.promote e

/-- One entry of a float unit without scales. -/
def mvStep (x : Cmd) (g : Group48) (c : Cell) (v : Nat) (r : Cell × Flags) (q : Nat × List Byte) : Cell × Flags :=
  let p := mvSum x g c v q.2 (if fld x.w3 17 1 == 1 then 0 else (mvReady x (mvAt x v q.1) r.1).accAt (mvAt x v q.1).1 (mvAt x v q.1).2)
  ((mvReady x (mvAt x v q.1) r.1).putAcc (mvAt x v q.1).1 (mvAt x v q.1).2 p.1, r.2 ||| p.2)

/-- The entries after a float unit without scales. -/
def mvFloat (x : Cmd) (g : Group48) (c : Cell) (ws : List (List Byte)) (d : Cell) : Cell × Flags :=
  (List.range (fld x.w3 26 3 + 1)).foldl (fun r v => (ws.mapIdx fun i w => (i, w)).foldl (mvStep x g c v) r) (d, 0)

/-- How a unit ends. -/
def mvEnd (x y : Cmd) (s : State) : Ran :=
  if 32 * (x.unit + 1) < 32 * (fld x.w3 18 2 + 1) then .more { y with unit := x.unit + 1 } s else .done y (BitVec.ofNat 32 x.verb) [] s

theorem mvEnd_goes (x y : Cmd) (s : State) : ∃ z, (mvEnd x y s).Goes (32 * (x.unit + 1) < 32 * (fld x.w3 18 2 + 1)) x (BitVec.ofNat 32 x.verb) z s := by
  unfold mvEnd Ran.Goes
  split
  · exact ⟨_, rfl, rfl⟩
  · exact ⟨_, rfl⟩

theorem mapIdx_map_pair {α β : Type} (f : α → β) (l : List α) : (l.map f).mapIdx (fun i q => (i, q)) = (l.mapIdx fun i a => (i, a)).map fun p => (p.1, f p.2) := by
  refine List.ext_getElem (by simp) fun i h h' => by simp

theorem mv_float {x : Cmd} {s v : State} {g : Group48} {ws : List (List Byte)} (hb : s.cell.badTiles = []) (hs : fld x.w3 16 1 = 0)
    (hg : mvGroup x = some g) (hne : g ≠ .int)
    (hr : Io.each (fun n s => readMem .mx (x.addr + BitVec.ofNat 64 (n * mvRow x)) (mvRow x) s) ((List.range 32).map (32 * x.unit + ·)) s = .ok ws v) :
    ∃ y, mv x s = mvEnd x y { v with cell := (mvFloat x g s.cell ws v.cell).1.progress (x.unit + 1) 0 } := by
  have hsc : (fld x.w3 16 1 == 1) = false := by rw [hs]; rfl
  have hlen : ws.length = 32 := by rw [Io.length_of_each hr]; simp
  have hrow : (ws.zip (((List.range 32).map (32 * x.unit + ·)).map fun _ => ([] : List Byte))) = ws.map fun w => (w, []) :=
    List.ext_getElem (by simp [hlen]) fun i h h' => by simp
  unfold mvRow mvK at hr
  simp only [mv, Cell.badRows_none hb, hsc, Bool.false_and, Bool.or_self, Bool.false_eq_true, if_false, hr, Io.bind_ok, hrow, hg]
  refine ⟨{ x with flags := x.flags ||| (mvFloat x g s.cell ws v.cell).2 }, ?_⟩
  simp only [mapIdx_map_pair, List.foldl_map]
  cases g with
  | int => exact absurd rfl hne
  | half | eight | scaled => rfl

theorem mvAt_key {x : Cmd} {v v' i i' : Nat} (hi : i < 32) (hi' : i' < 32) (h : ¬(v = v' ∧ i = i')) :
    accKey (mvAt x v i).1 (mvAt x v i).2 ≠ accKey (mvAt x v' i').1 (mvAt x v' i').2 := by
  unfold accKey mvAt
  dsimp only
  omega

theorem entry_mvReady (x : Cmd) (e : Nat × Nat) (k : Nat) (c : Cell) : (mvReady x e c).entry k =
    if k = accKey e.1 e.2 then (if fld x.w3 17 1 == 1 then ((c.entry k).1, Inner.zero) else promoted (c.entry k)) else c.entry k := by
  unfold mvReady
  split
  · rw [Cell.entry_discard]
  · rw [Cell.entry_promote]

/-- What a step makes of the entry. -/
def mvEntry (x : Cmd) (g : Group48) (c : Cell) (v : Nat) (w : List Byte) (p : Nat × Inner) : Nat :=
  (mvSum x g c v w (if fld x.w3 17 1 == 1 then 0 else (promoted p).1)).1

theorem promoted_fst_lt {p : Nat × Inner} (h : p.1 < 2 ^ 32) : (promoted p).1 < 2 ^ 32 := by
  unfold promoted
  split
  · exact h
  · exact intCode32_lt _

theorem mvEntry_lt (x : Cmd) (g : Group48) (c : Cell) (v : Nat) (w : List Byte) {p : Nat × Inner} (h : p.1 < 2 ^ 32) : mvEntry x g c v w p < 2 ^ 32 := by
  refine floatEntry_lt _ _ _ ?_ _ _
  split
  · decide
  · exact promoted_fst_lt h

theorem mvStep_own (x : Cmd) (g : Group48) (c : Cell) (v : Nat) (r : Cell × Flags) (q : Nat × List Byte) :
    ((mvStep x g c v r q).1.entry (accKey (mvAt x v q.1).1 (mvAt x v q.1).2)).1 = mvEntry x g c v q.2 (r.1.entry (accKey (mvAt x v q.1).1 (mvAt x v q.1).2)) := by
  have hready : (if (fld x.w3 17 1 == 1) = true then 0 else (mvReady x (mvAt x v q.1) r.1).accAt (mvAt x v q.1).1 (mvAt x v q.1).2) =
      if (fld x.w3 17 1 == 1) = true then 0 else (promoted (r.1.entry (accKey (mvAt x v q.1).1 (mvAt x v q.1).2))).1 := by
    by_cases hz : (fld x.w3 17 1 == 1) = true
    · rw [if_pos hz, if_pos hz]
    · rw [if_neg hz, if_neg hz, Cell.accAt_entry, entry_mvReady, if_pos rfl, if_neg hz]
  unfold mvStep
  dsimp only
  rw [Cell.entry_putAcc, if_pos rfl, hready]
  exact Nat.mod_eq_of_lt (mvEntry_lt x g c v q.2 (Cell.entry_fst_lt _ _))

theorem mvStep_other {x : Cmd} {v : Nat} {q : Nat × List Byte} {k : Nat} (h : k ≠ accKey (mvAt x v q.1).1 (mvAt x v q.1).2) (g : Group48) (c : Cell) (r : Cell × Flags) :
    (mvStep x g c v r q).1.entry k = r.1.entry k := by
  unfold mvStep
  dsimp only
  rw [Cell.entry_putAcc, if_neg h, entry_mvReady, if_neg h]

theorem mvReady_rest (x : Cmd) (e : Nat × Nat) (c : Cell) : (mvReady x e c).tiles = c.tiles ∧ (mvReady x e c).store = c.store := by
  unfold mvReady
  split
  · exact ⟨rfl, rfl⟩
  · exact ⟨Cell.promote_tiles e c, Cell.promote_store e c⟩

theorem mvFloat_rest (x : Cmd) (g : Group48) (c : Cell) (ws : List (List Byte)) (d : Cell) :
    (mvFloat x g c ws d).1.tiles = d.tiles ∧ (mvFloat x g c ws d).1.store = d.store := by
  unfold mvFloat
  exact ⟨foldl_keeps (g := fun r : Cell × Flags => r.1.tiles)
      (fun _ _ _ => foldl_keeps (g := fun r : Cell × Flags => r.1.tiles) (fun r q _ => (mvReady_rest x _ r.1).1) _) (d, 0),
    foldl_keeps (g := fun r : Cell × Flags => r.1.store)
      (fun _ _ _ => foldl_keeps (g := fun r : Cell × Flags => r.1.store) (fun r q _ => (mvReady_rest x _ r.1).2) _) (d, 0)⟩

section
variable {ws : List (List Byte)} (hws : ws.length = 32)
include hws

theorem mem_weights {q : Nat × List Byte} (hq : q ∈ ws.mapIdx fun i w => (i, w)) : q.1 < 32 :=
  hws ▸ (List.getElem?_eq_some_iff.1 (mem_placed.1 hq)).1

/-- The pass of one vector over the weight rows. -/
theorem mvPass_own (x : Cmd) (g : Group48) (c : Cell) (v : Nat) (r : Cell × Flags) {i : Nat} (hi : i < 32) :
    (((ws.mapIdx fun i w => (i, w)).foldl (mvStep x g c v) r).1.entry (accKey (mvAt x v i).1 (mvAt x v i).2)).1 =
      mvEntry x g c v (ws.getD i []) (r.1.entry (accKey (mvAt x v i).1 (mvAt x v i).2)) := by
  have hq : ws[i]? = some (ws.getD i []) := by simp [hws, hi]
  exact foldl_parts (fun q (r : Cell × Flags) => r.1.entry (accKey (mvAt x v q.1).1 (mvAt x v q.1).2))
    (fun q r => (r.1.entry (accKey (mvAt x v q.1).1 (mvAt x v q.1).2)).1) (fun q p => mvEntry x g c v q.2 p) (nodup_placed ws)
    (fun r q _ => mvStep_own x g c v r q)
    (fun r a ha b hb hab => by
      have hne : ¬(v = v ∧ b.1 = a.1) := fun h => hab (by
        have h1 := mem_placed.1 ha
        rw [← h.2, mem_placed.1 hb] at h1
        exact Prod.ext h.2.symm (Option.some.inj h1).symm)
      have h := mvStep_other (x := x) (mvAt_key (mem_weights hws hb) (mem_weights hws ha) hne) g c r
      exact ⟨h, congrArg Prod.fst h⟩)
    r (i, ws.getD i []) (mem_placed.2 hq)

theorem mvPass_other {x : Cmd} {v v' i : Nat} (hi : i < 32) (hv : v' ≠ v) (g : Group48) (c : Cell) (r : Cell × Flags) :
    ((ws.mapIdx fun i w => (i, w)).foldl (mvStep x g c v) r).1.entry (accKey (mvAt x v' i).1 (mvAt x v' i).2) =
      r.1.entry (accKey (mvAt x v' i).1 (mvAt x v' i).2) :=
  foldl_keeps (g := fun r : Cell × Flags => r.1.entry (accKey (mvAt x v' i).1 (mvAt x v' i).2))
    (fun r _ hq => mvStep_other (mvAt_key hi (mem_weights hws hq) fun h => hv h.1) g c r) r

/-- Every entry of a unit holds the sum of its products. -/
theorem mvFloat_entry (x : Cmd) (g : Group48) (c d : Cell) {v i : Nat} (hv : v < fld x.w3 26 3 + 1) (hi : i < 32) :
    ((mvFloat x g c ws d).1.entry (accKey (mvAt x v i).1 (mvAt x v i).2)).1 =
      mvEntry x g c v (ws.getD i []) (d.entry (accKey (mvAt x v i).1 (mvAt x v i).2)) :=
  foldl_parts (fun v (r : Cell × Flags) => r.1.entry (accKey (mvAt x v i).1 (mvAt x v i).2)) (fun v r => (r.1.entry (accKey (mvAt x v i).1 (mvAt x v i).2)).1)
    (fun v p => mvEntry x g c v (ws.getD i []) p) List.nodup_range (fun r v _ => mvPass_own hws x g c v r hi)
    (fun r v _ v' _ hne => by
      have h := mvPass_other hws (x := x) hi hne.symm g c r
      exact ⟨h, congrArg Prod.fst h⟩)
    (d, 0) v (List.mem_range.2 hv)

end

end Sys2Proof.Machine
end

section
/-! `mx.mma` and `mx.mv` as the engine runs them (R277, R278). -/

namespace Sys2Proof.Machine

/-! ### What a command that has begun shares with itself -/

section
variable (x : Cmd)

@[simp] theorem Cmd.on_verb : x.on.verb = x.verb := rfl
@[simp] theorem Cmd.on_w1 : x.on.w1 = x.w1 := rfl
@[simp] theorem Cmd.on_w2 : x.on.w2 = x.w2 := rfl
@[simp] theorem Cmd.on_w3 : x.on.w3 = x.w3 := rfl
@[simp] theorem Cmd.on_unit : x.on.unit = x.unit := rfl
@[simp] theorem Cmd.on_scales : x.on.scales = x.scales := rfl

theorem mmaZero_on : mmaZero x.on = mmaZero x := rfl
theorem mmaKs_on : mmaKs x.on = mmaKs x := by simp only [mmaKs, Cmd.on_w2, Cmd.on_unit]
theorem mmaKey_on : mmaKey x.on = mmaKey x := by funext e; simp only [mmaKey, Cmd.on_w2]
theorem mmaScale_on : mmaScale x.on = mmaScale x := by funext c i j b; simp only [mmaScale, Cmd.on_w1, Cmd.on_w3, Cmd.on_scales]
theorem mmaA_on : mmaA x.on = mmaA x := by funext c i k; simp only [mmaA, Cmd.on_w1]
theorem mmaB_on : mmaB x.on = mmaB x := by funext c i k; simp only [mmaB, Cmd.on_w1]
theorem mmaSum_on : mmaSum x.on = mmaSum x := by
  funext g c e a
  simp only [mmaSum, mmaScale_on, mmaKs_on, mmaA_on, mmaB_on, Cmd.on_w1]
  rfl
theorem mmaInts_on : mmaInts x.on = mmaInts x := by
  funext c e
  simp only [mmaInts, mmaKs_on, mmaA_on, mmaB_on, Cmd.on_w1, Cmd.on_w2]
theorem mmaIntSum_on : mmaIntSum x.on = mmaIntSum x := by
  funext c e p
  simp only [mmaIntSum, mmaInts_on, mmaZero_on, Cmd.on_w2]
  rfl
theorem mvAt_on : mvAt x.on = mvAt x := by funext v i; simp only [mvAt, Cmd.on_w3, Cmd.on_unit]
theorem mvK_on : mvK x.on = mvK x := by simp only [mvK, Cmd.on_w3]
theorem mvSum_on : mvSum x.on = mvSum x := by
  funext g c v w a
  simp only [mvSum, mvK_on, Cmd.on_w3]
theorem mvEntry_on : mvEntry x.on = mvEntry x := by
  funext g c v w p
  simp only [mvEntry, mvSum_on, Cmd.on_w3]
  rfl

end

/-! ### Units -/

/-- A float unit of `mx.mma` on undamaged tiles. -/
theorem mma_float_goes {x : Cmd} {s : State} {g : Group48} (hmma : mmaOk x = true) (hb : s.cell.badTiles = []) (hg : mmaGroup x = some g) (hne : g ≠ .int) :
    ∃ z t, (mma x s).Goes (32 * (x.unit + 1) < fld x.w2 8 8 + 1) x (BitVec.ofNat 32 x.verb) z t ∧ t.cell.tiles = s.cell.tiles ∧ t.cell.store = s.cell.store ∧
      ∀ e ∈ rectangle 0 32 0 32, (t.cell.entry (mmaKey x e)).1 =
        (mmaSum x g s.cell e (if mmaZero x then 0 else if x.unit = 0 then (promoted (s.cell.entry (mmaKey x e))).1 else (s.cell.entry (mmaKey x e)).1)).1 := by
  obtain ⟨y, hrun⟩ := mma_float hb (mmaOk_float hmma hg hne) hg hne
  have hentry (e : Nat × Nat) (he : e ∈ rectangle 0 32 0 32) := mmaFloat_entry g s.cell (mmaOk_cols hmma) he
  obtain ⟨htiles, hstore⟩ := mmaFloat_rest x g s.cell
  generalize mmaFloat x g s.cell = r at hrun hentry htiles hstore
  obtain ⟨z, t, hgoes, ht⟩ := mmaEnd_goes x y { s with cell := r.1 }
  rw [hrun]
  refine ⟨z, t, hgoes, ?_, ?_, fun e he => ?_⟩ <;> rw [ht]
  · rw [Cell.tiles_progress]
    exact htiles
  · rw [Cell.store_progress]
    exact hstore
  · rw [Cell.entry_progress]
    exact hentry e he

/-- An integer unit of `mx.mma` on undamaged tiles that stops for no saturation. -/
theorem mma_int_goes {x : Cmd} {s : State} (hmma : mmaOk x = true) (hb : s.cell.badTiles = []) (hg : mmaGroup x = some .int) (hsat : fld x.w2 2 1 = 0) :
    ∃ z t, (mma x s).Goes (32 * (x.unit + 1) < fld x.w2 8 8 + 1) x (BitVec.ofNat 32 x.verb) z t ∧ t.cell.tiles = s.cell.tiles ∧ t.cell.store = s.cell.store ∧
      ∀ e ∈ rectangle 0 32 0 32, let r := mmaIntSum x s.cell e (s.cell.entry (mmaKey x e))
        t.cell.entry (mmaKey x e) = (intCode fINT32 r.acc, r.inner) := by
  obtain ⟨y, hrun⟩ := mma_int hb hsat hg
  have hentry (e : Nat × Nat) (he : e ∈ rectangle 0 32 0 32) := mmaInt_entry s.cell (mmaOk_cols hmma) he
  obtain ⟨htiles, hstore⟩ := mmaInt_rest x s.cell
  generalize mmaInt x s.cell = r at hrun hentry htiles hstore
  obtain ⟨z, t, hgoes, ht⟩ := mmaEnd_goes x y { s with cell := r.1 }
  rw [hrun]
  refine ⟨z, t, hgoes, ?_, ?_, fun e he => ?_⟩ <;> rw [ht]
  · rw [Cell.tiles_progress]
    exact htiles
  · rw [Cell.store_progress]
    exact hstore
  · rw [Cell.entry_progress]
    exact hentry e he

/-- A float unit of `mx.mv` without scales on undamaged tiles. -/
theorem mv_float_goes {x : Cmd} {s v : State} {g : Group48} {ws : List (List Byte)} (hb : s.cell.badTiles = []) (hs : fld x.w3 16 1 = 0)
    (hg : mvGroup x = some g) (hne : g ≠ .int)
    (hr : Io.each (fun n s => readMem .mx (x.addr + BitVec.ofNat 64 (n * mvRow x)) (mvRow x) s) ((List.range 32).map (32 * x.unit + ·)) s = .ok ws v) :
    ∃ z t, (mv x s).Goes (32 * (x.unit + 1) < 32 * (fld x.w3 18 2 + 1)) x (BitVec.ofNat 32 x.verb) z t ∧ t.cell.tiles = v.cell.tiles ∧
      t.cell.store = v.cell.store ∧ ∀ i < 32, ∀ j < fld x.w3 26 3 + 1, (t.cell.entry (accKey (mvAt x j i).1 (mvAt x j i).2)).1 =
        mvEntry x g s.cell j (ws.getD i []) (v.cell.entry (accKey (mvAt x j i).1 (mvAt x j i).2)) := by
  have hws : ws.length = 32 := by rw [Io.length_of_each hr]; simp
  obtain ⟨y, hrun⟩ := mv_float hb hs hg hne hr
  have hentry (j i : Nat) (hj : j < fld x.w3 26 3 + 1) (hi : i < 32) := mvFloat_entry hws x g s.cell v.cell hj hi
  obtain ⟨htiles, hstore⟩ := mvFloat_rest x g s.cell ws v.cell
  generalize mvFloat x g s.cell ws v.cell = r at hrun hentry htiles hstore
  obtain ⟨z, hgoes⟩ := mvEnd_goes x y { v with cell := r.1.progress (x.unit + 1) 0 }
  rw [hrun]
  exact ⟨z, _, hgoes, htiles, hstore, fun i hi j hj => hentry j i hj hi⟩

/-! ### The multiply commands of a cell -/

section
variable {x : Cmd} {s : State} (hok : mxOk x = true) (hch : s.cell.tokenChannel x = true)
include hok hch

theorem runMx_mma_float (hv : x.verb = 2) (hb : (mxStart x s).cell.badTiles = []) {g : Group48} (hg : mmaGroup x = some g) (hne : g ≠ .int) :
    ∃ z t, (runMx x s).Goes (32 * (x.unit + 1) < fld x.w2 8 8 + 1) x 2 z t ∧ t.cell.tiles = (mxStart x s).cell.tiles ∧ t.cell.store = (mxStart x s).cell.store ∧
      ∀ i < 32, ∀ j < 32, t.cell.accAt (fld x.w2 25 7 + i) (fld x.w2 18 7 + j) =
        (mmaSum x g (mxStart x s).cell (i, j) (if mmaZero x then 0
          else if x.unit = 0 then ((mxStart x s).cell.promote (fld x.w2 25 7 + i, fld x.w2 18 7 + j)).accAt (fld x.w2 25 7 + i) (fld x.w2 18 7 + j)
          else (mxStart x s).cell.accAt (fld x.w2 25 7 + i) (fld x.w2 18 7 + j))).1 := by
  have hbody : mxBody x.on (mxStart x s) = mma x.on (mxStart x s) := by simp only [mxBody, Cmd.on_verb, hv]
  have hlane : BitVec.ofNat 32 x.verb = 2 := by rw [hv]; rfl
  obtain ⟨z, t, hgoes, htiles, hstore, hentry⟩ := mma_float_goes (x := x.on) (mmaOk_of_mxOk hv hok) hb hg hne
  rw [← hbody] at hgoes
  obtain ⟨t', hgoes', ht⟩ := mxUnit_goes hgoes
  rw [← runMx_unit hok hch (by omega), Cmd.on_verb, hlane] at hgoes'
  rw [← ht] at htiles hstore hentry
  simp only [mmaSum_on, mmaKey_on, mmaZero_on] at hentry
  refine ⟨z, t', hgoes', htiles, hstore, fun i hi j hj => ?_⟩
  rw [Cell.accAt_promote]
  exact hentry (i, j) (mem_rectangle.2 (by dsimp only; omega))

theorem runMx_mma_int (hv : x.verb = 2) (hb : (mxStart x s).cell.badTiles = []) (hg : mmaGroup x = some .int) (hsat : fld x.w2 2 1 = 0) :
    ∃ z t, (runMx x s).Goes (32 * (x.unit + 1) < fld x.w2 8 8 + 1) x 2 z t ∧ t.cell.tiles = (mxStart x s).cell.tiles ∧ t.cell.store = (mxStart x s).cell.store ∧
      ∀ i < 32, ∀ j < 32,
        let r := mmaIntSum x (mxStart x s).cell (i, j) ((mxStart x s).cell.entry (mmaKey x (i, j)))
        t.cell.accAt (fld x.w2 25 7 + i) (fld x.w2 18 7 + j) = intCode fINT32 r.acc ∧ t.cell.innerAt (fld x.w2 25 7 + i) (fld x.w2 18 7 + j) = r.inner := by
  have hbody : mxBody x.on (mxStart x s) = mma x.on (mxStart x s) := by simp only [mxBody, Cmd.on_verb, hv]
  have hlane : BitVec.ofNat 32 x.verb = 2 := by rw [hv]; rfl
  obtain ⟨z, t, hgoes, htiles, hstore, hentry⟩ := mma_int_goes (x := x.on) (mmaOk_of_mxOk hv hok) hb hg hsat
  rw [← hbody] at hgoes
  obtain ⟨t', hgoes', ht⟩ := mxUnit_goes hgoes
  rw [← runMx_unit hok hch (by omega), Cmd.on_verb, hlane] at hgoes'
  rw [← ht] at htiles hstore hentry
  simp only [mmaIntSum_on, mmaKey_on] at hentry
  refine ⟨z, t', hgoes', htiles, hstore, fun i hi j hj => ?_⟩
  have hij := hentry (i, j) (mem_rectangle.2 (by dsimp only; omega))
  exact ⟨congrArg Prod.fst hij, congrArg Prod.snd hij⟩

theorem runMx_mv_float (hv : x.verb = 3) (hb : (mxStart x s).cell.badTiles = []) (hsc : fld x.w3 16 1 = 0) {ws : List (List Byte)} {v : State} {g : Group48}
    (hg : mvGroup x = some g) (hne : g ≠ .int)
    (hr : Io.each (fun n s => readMem .mx (x.addr + BitVec.ofNat 64 (n * mvRow x)) (mvRow x) s) ((List.range 32).map (32 * x.unit + ·)) (mxStart x s) = .ok ws v) :
    ∃ z t, (runMx x s).Goes (32 * (x.unit + 1) < 32 * (fld x.w3 18 2 + 1)) x 3 z t ∧ t.cell.tiles = v.cell.tiles ∧ t.cell.store = v.cell.store ∧
      ∀ i < 32, ∀ j < fld x.w3 26 3 + 1, t.cell.accAt (mvAt x j i).1 (mvAt x j i).2 =
        (mvSum x g (mxStart x s).cell j (ws.getD i []) (if fld x.w3 17 1 = 1 then 0 else (v.cell.promote (mvAt x j i)).accAt (mvAt x j i).1 (mvAt x j i).2)).1 := by
  have hbody : mxBody x.on (mxStart x s) = mv x.on (mxStart x s) := by simp only [mxBody, Cmd.on_verb, hv]
  have hlane : BitVec.ofNat 32 x.verb = 3 := by rw [hv]; rfl
  obtain ⟨z, t, hgoes, htiles, hstore, hentry⟩ := mv_float_goes (x := x.on) hb hsc hg hne hr
  rw [← hbody] at hgoes
  obtain ⟨t', hgoes', ht⟩ := mxUnit_goes hgoes
  rw [← runMx_unit hok hch (by omega), Cmd.on_verb, hlane] at hgoes'
  rw [← ht] at htiles hstore hentry
  simp only [mvEntry_on, mvAt_on] at hentry
  refine ⟨z, t', hgoes', htiles, hstore, fun i hi j hj => ?_⟩
  rw [Cell.accAt_promote]
  refine (hentry i hi j hj).trans ?_
  simp only [mvEntry, beq_iff_eq]

end

end Sys2Proof.Machine
end

section
/-! `mx.smax` (R282, R283): rows of the accumulator store, and what the drain leaves of each. -/

namespace Sys2Proof.Machine

/-! ### Rows of the accumulator store -/

/-- The 128 codes of a row. -/
def Cell.row (c : Cell) (r : Nat) : Nat → Nat := fun k => if k < 128 then c.accAt r k else 0

theorem Cell.row_apply {k : Nat} (h : k < 128) (c : Cell) (r : Nat) : c.row r k = c.accAt r k := if_pos h

theorem Cell.row_progress (i n r : Nat) (c : Cell) : (c.progress i n).row r = c.row r := rfl

/-- Values written from a column on. -/
def Cell.putRow (r k0 : Nat) (l : List Num) (c : Cell) : Cell := (l.mapIdx fun j v => (k0 + j, v)).foldl (fun c q => c.putAcc r q.1 (code32 q.2)) c

/-- The codes of a row with values written from a column on. -/
def setRow (k0 : Nat) (l : List Num) (p : Nat → Nat) : Nat → Nat := fun k => if k0 ≤ k ∧ k < k0 + l.length then code32 (l.getD (k - k0) (.nan false)) else p k

theorem setRow_at {j : Nat} {l : List Num} (h : j < l.length) (k0 : Nat) (p : Nat → Nat) : setRow k0 l p (k0 + j) = code32 (l.getD j (.nan false)) := by
  rw [setRow, if_pos (by omega), Nat.add_sub_cancel_left]

theorem setRow_outside {k k0 : Nat} {l : List Num} (h : ¬(k0 ≤ k ∧ k < k0 + l.length)) (p : Nat → Nat) : setRow k0 l p k = p k := if_neg h

theorem Cell.putRow_cons (r k0 : Nat) (v : Num) (l : List Num) (c : Cell) : c.putRow r k0 (v :: l) = (c.putAcc r k0 (code32 v)).putRow r (k0 + 1) l := by
  have hshift : (fun (j : Nat) (w : Num) => (k0 + (j + 1), w)) = fun j w => (k0 + 1 + j, w) := by
    funext j w
    rw [show k0 + (j + 1) = k0 + 1 + j by omega]
  rw [Cell.putRow, Cell.putRow, List.mapIdx_cons, List.foldl_cons, hshift]
  rfl

theorem Cell.row_putAcc {r k0 v : Nat} (hk : k0 < 128) (r' k : Nat) (c : Cell) :
    (c.putAcc r k0 v).row r' k = if r' = r ∧ k = k0 then v % 2 ^ 32 else c.row r' k := by
  by_cases h : k < 128
  · rw [Cell.row_apply h, Cell.row_apply h, Cell.accAt_entry, Cell.entry_putAcc, apply_ite Prod.fst]
    simp only [accKey_inj h hk, Cell.accAt_entry]
  · rw [if_neg (by omega), Cell.row, Cell.row, if_neg h, if_neg h]

theorem Cell.row_putRow_other {r r' : Nat} (hne : r' ≠ r) {k0 : Nat} {l : List Num} (hl : k0 + l.length ≤ 128) (c : Cell) : (c.putRow r k0 l).row r' = c.row r' := by
  induction l generalizing k0 c with
  | nil => rfl
  | cons v l ih =>
    rw [List.length_cons] at hl
    rw [Cell.putRow_cons, ih (by omega)]
    funext k
    rw [Cell.row_putAcc (by omega), if_neg fun h => hne h.1]

theorem Cell.row_putRow {r k0 : Nat} {l : List Num} (hl : k0 + l.length ≤ 128) (c : Cell) : (c.putRow r k0 l).row r = setRow k0 l (c.row r) := by
  induction l generalizing k0 c with
  | nil =>
    funext k
    exact (setRow_outside (by simp) _).symm
  | cons v l ih =>
    rw [List.length_cons] at hl
    rw [Cell.putRow_cons, ih (by omega)]
    funext k
    by_cases hk : k0 + 1 ≤ k ∧ k < k0 + 1 + l.length
    · obtain ⟨j, rfl⟩ := Nat.exists_eq_add_of_le hk.1
      rw [setRow_at (by omega), show k0 + 1 + j = k0 + (j + 1) by omega, setRow_at (by rw [List.length_cons]; omega), List.getD_cons_succ]
    · rw [setRow_outside hk, Cell.row_putAcc (by omega)]
      by_cases h0 : k = k0
      · subst h0
        have hset := setRow_at (j := 0) (l := v :: l) (by simp) k (c.row r)
        rw [Nat.add_zero] at hset
        rw [if_pos ⟨rfl, rfl⟩, hset, Nat.mod_eq_of_lt (code32_lt v)]
        rfl
      · rw [if_neg fun h => h0 h.2, setRow_outside (by rw [List.length_cons]; omega)]

theorem Cell.putRow_tiles (r k0 : Nat) (l : List Num) (c : Cell) : (c.putRow r k0 l).tiles = c.tiles := by
  unfold Cell.putRow
  refine foldl_keeps (g := Cell.tiles) (fun _ _ _ => ?_) c
  rfl

/-- The value of an entry once it is promoted. -/
def Cell.valueAt (c : Cell) (r k : Nat) : Num := valueOf fFP32 ((c.promote (r, k)).accAt r k)

/-- An entry among those promoted. -/
theorem Cell.row_promoteAll {l : List (Nat × Nat)} {r k : Nat} (h : (r, k) ∈ l) (hk : k < 128) (c : Cell) :
    (c.promoteAll l).row r k = (c.promote (r, k)).accAt r k := by
  rw [Cell.row_apply hk, Cell.accAt_promote, Cell.accAt_entry, Cell.entry_promoteAll, if_pos ⟨(r, k), h, rfl⟩]

theorem Cell.promoteAll_tiles (l : List (Nat × Nat)) (c : Cell) : (c.promoteAll l).tiles = c.tiles :=
  foldl_keeps (g := Cell.tiles) (fun c e _ => Cell.promote_tiles e c) c

/-! ### The limits of `mx.smax` (R282) -/

/-- The number of its outputs. -/
def smaxNo (x : Cmd) : Nat := 32 * (fld x.w1 3 1 + 1)
/-- The rows of the command. -/
def smaxRows (x : Cmd) : List Nat := (List.range 32).map (fld x.w1 25 7 + ·)

theorem mem_smaxRows {x : Cmd} {r : Nat} : r ∈ smaxRows x ↔ fld x.w1 25 7 ≤ r ∧ r < fld x.w1 25 7 + 32 := by
  simp only [smaxRows, List.mem_map, List.mem_range]
  exact ⟨fun ⟨i, hi, h⟩ => by omega, fun h => ⟨r - fld x.w1 25 7, by omega, by omega⟩⟩

theorem nodup_smaxRows (x : Cmd) : (smaxRows x).Nodup := List.nodup_range.map fun a b h => by simpa using h

theorem smaxOk_of_mxOk {x : Cmd} (hv : x.verb = 6) (h : mxOk x = true) : smaxOk x = true := by
  simp only [mxOk, hv, Bool.and_eq_true] at h
  exact h.2

theorem smaxOk_columns {x : Cmd} (h : smaxOk x = true) : fld x.w1 18 7 ≤ 96 ∧ fld x.w1 11 7 ≤ 126 ∧ fld x.w1 4 7 + smaxNo x ≤ 128 ∧
    (fld x.w1 11 7 + 2 ≤ fld x.w1 4 7 ∨ fld x.w1 4 7 + smaxNo x ≤ fld x.w1 11 7) := by
  simp only [smaxOk, Bool.and_eq_true, decide_eq_true_eq, Bool.not_eq_true', overlap, Bool.and_eq_false_iff, decide_eq_false_iff_not] at h
  obtain ⟨⟨⟨⟨⟨-, hs⟩, hm⟩, ho⟩, hno⟩, -⟩ := h
  unfold smaxNo
  omega

theorem smaxOk_format {x : Cmd} (h : smaxOk x = true) (hf : fld x.w1 1 1 = 0) : width (fmtFld x.w2 22) ≤ 16 := by
  have hfin : (fld x.w1 1 1 == 1) = false := by rw [hf]; rfl
  simp only [smaxOk, hfin, Bool.false_eq_true, if_false, Bool.and_eq_true, Bool.or_eq_true, decide_eq_true_eq, FmtDesc.isP3109] at h
  obtain ⟨-, -, hcode⟩ := h
  unfold width
  split <;> omega

/-! ### The final division (R283) -/

/-- The outputs of a row over its sum. -/
def smaxQuotients (x : Cmd) (p : Nat → Nat) : List (Num × Flags) :=
  (List.range (smaxNo x)).map fun j => round32 (quotient (valueOf fFP32 (p (fld x.w1 4 7 + j))) (valueOf fFP32 (p (fld x.w1 11 7 + 1))))

/-- One row divided. -/
def smaxDivide (x : Cmd) (q : Cell × Flags) (r : Nat) : Cell × Flags :=
  (q.1.putRow r (fld x.w1 4 7) ((smaxQuotients x (q.1.accAt r)).map Prod.fst), q.2 ||| orFlags ((smaxQuotients x (q.1.accAt r)).map Prod.snd))

/-- What the division promotes. -/
def smaxDivided (x : Cmd) : List (Nat × Nat) := (smaxRows x).flatMap fun r => (r, fld x.w1 11 7 + 1) :: (List.range (smaxNo x)).map fun j => (r, fld x.w1 4 7 + j)

theorem smax_divides {x : Cmd} {s : State} (hf : fld x.w1 1 1 = 1) (hp : (smaxRows x).any s.cell.poisonedRow = false) :
    ∃ z, smax x s = .done z (BitVec.ofNat 32 x.verb) [] { s with cell := ((smaxRows x).foldl (smaxDivide x) (s.cell.promoteAll (smaxDivided x), 0)).1.progress 0 0 } := by
  have hfin : (fld x.w1 1 1 == 1) = true := by rw [hf]; rfl
  unfold smaxRows at hp
  simp only [smax, hfin, hp, Bool.false_eq_true, if_false, if_true]
  exact ⟨_, rfl⟩

section
variable {x : Cmd} (hok : smaxOk x = true)
include hok

theorem smaxQuotients_row (c : Cell) (r : Nat) : smaxQuotients x (c.accAt r) = smaxQuotients x (c.row r) := by
  obtain ⟨-, hm, ho, -⟩ := smaxOk_columns hok
  refine List.map_congr_left fun j hj => ?_
  have hj := List.mem_range.1 hj
  rw [Cell.row_apply (by omega), Cell.row_apply (by omega)]

theorem row_smaxDivide (q : Cell × Flags) (r : Nat) :
    (smaxDivide x q r).1.row r = setRow (fld x.w1 4 7) ((smaxQuotients x (q.1.row r)).map Prod.fst) (q.1.row r) := by
  obtain ⟨-, -, ho, -⟩ := smaxOk_columns hok
  rw [smaxDivide, smaxQuotients_row hok]
  exact Cell.row_putRow (by simpa [smaxQuotients] using ho) q.1

theorem row_smaxDivide_other {r r' : Nat} (hne : r' ≠ r) (q : Cell × Flags) : (smaxDivide x q r).1.row r' = q.1.row r' := by
  obtain ⟨-, -, ho, -⟩ := smaxOk_columns hok
  exact Cell.row_putRow_other hne (by simpa [smaxQuotients] using ho) q.1

theorem row_smaxDivides (q : Cell × Flags) {r : Nat} (hr : r ∈ smaxRows x) :
    ((smaxRows x).foldl (smaxDivide x) q).1.row r = setRow (fld x.w1 4 7) ((smaxQuotients x (q.1.row r)).map Prod.fst) (q.1.row r) :=
  foldl_parts (fun r (q : Cell × Flags) => q.1.row r) (fun r q => q.1.row r) (fun _ p => setRow (fld x.w1 4 7) ((smaxQuotients x p).map Prod.fst) p) (nodup_smaxRows x)
    (fun q r _ => row_smaxDivide hok q r)
    (fun q _ _ _ _ hab => ⟨row_smaxDivide_other hok hab.symm q, row_smaxDivide_other hok hab.symm q⟩) q r hr

/-- Every output of every row is its quotient. -/
theorem smax_final {s : State} (hf : fld x.w1 1 1 = 1) (hp : (smaxRows x).any s.cell.poisonedRow = false) :
    ∃ z t, smax x s = .done z (BitVec.ofNat 32 x.verb) [] t ∧ t.pkg = s.pkg ∧ t.cell.tiles = s.cell.tiles ∧ ∀ r ∈ smaxRows x, ∀ j < smaxNo x,
      t.cell.accAt r (fld x.w1 4 7 + j) = code32 (round32 (quotient (s.cell.valueAt r (fld x.w1 4 7 + j)) (s.cell.valueAt r (fld x.w1 11 7 + 1)))).1 := by
  obtain ⟨-, hm, ho, -⟩ := smaxOk_columns hok
  obtain ⟨z, hrun⟩ := smax_divides hf hp
  have htiles : ((smaxRows x).foldl (smaxDivide x) (s.cell.promoteAll (smaxDivided x), 0)).1.tiles = s.cell.tiles :=
    (foldl_keeps (g := fun q : Cell × Flags => q.1.tiles) (fun q r _ => Cell.putRow_tiles ..) _).trans (Cell.promoteAll_tiles _ _)
  have hrows (r : Nat) (hr : r ∈ smaxRows x) := row_smaxDivides hok (s.cell.promoteAll (smaxDivided x), 0) hr
  generalize (smaxRows x).foldl (smaxDivide x) (s.cell.promoteAll (smaxDivided x), 0) = q at hrun htiles hrows
  refine ⟨z, _, hrun, rfl, htiles, fun r hr j hj => ?_⟩
  have hmem (k : Nat) (hk : k = fld x.w1 11 7 + 1 ∨ ∃ j < smaxNo x, k = fld x.w1 4 7 + j) : (r, k) ∈ smaxDivided x := by
    refine List.mem_flatMap.2 ⟨r, hr, ?_⟩
    rcases hk with rfl | ⟨j, hj, rfl⟩
    · exact List.mem_cons_self
    · exact List.mem_cons_of_mem _ (List.mem_map.2 ⟨j, List.mem_range.2 hj, rfl⟩)
  have hval : (smaxQuotients x ((s.cell.promoteAll (smaxDivided x)).row r))[j]? =
      some (round32 (quotient (s.cell.valueAt r (fld x.w1 4 7 + j)) (s.cell.valueAt r (fld x.w1 11 7 + 1)))) := by
    rw [smaxQuotients, List.getElem?_map, List.getElem?_range hj, Option.map_some, Cell.row_promoteAll (hmem _ (.inr ⟨j, hj, rfl⟩)) (by omega),
      Cell.row_promoteAll (hmem _ (.inl rfl)) (by omega)]
    rfl
  have hrow := congrFun (hrows r hr) (fld x.w1 4 7 + j)
  rw [Cell.row_apply (by omega), setRow_at (by simpa [smaxQuotients] using hj)] at hrow
  refine hrow.trans ?_
  rw [List.getD_eq_getElem?_getD, List.getElem?_map, hval]
  rfl

end

end Sys2Proof.Machine
end

section
/-! The rows of `mx.smax` (R283). -/

namespace Sys2Proof.Machine

theorem code32_zero : code32 (.fin false 0 0) = 0 := by decide

/-! ### One row -/

/-- The outputs of a row are as many as there were. -/
theorem smaxRow_length {fp : FmtDesc} {m l : Num} {sc o os : List Num} (h : (smaxRow fp m l sc o).o = some os) : os.length = o.length := by
  unfold smaxRow at h
  dsimp only at h
  split at h
  · obtain rfl := Option.some.inj h
    simp
  · rw [ite_some_eq h]
    simp

theorem smaxRow_codes (fp : FmtDesc) (m l : Num) (sc o : List Num) : (smaxRow fp m l sc o).p.length = sc.length := by
  unfold smaxRow
  dsimp only
  split <;> simp [collect]

/-- The outputs before the command. -/
def smaxOld (x : Cmd) (p : Nat → Nat) : List Num :=
  (List.range (smaxNo x)).map fun j => if fld x.w1 2 1 == 1 then .fin false 0 0 else valueOf fFP32 (p (fld x.w1 4 7 + j))

/-- A row of the command from its codes. -/
def smaxCalc (x : Cmd) (p : Nat → Nat) : SmaxRow :=
  let init := fld x.w1 2 1 == 1
  smaxRow (fmtFld x.w2 22) (if init then .inf true else valueOf fFP32 (p (fld x.w1 11 7))) (if init then .fin false 0 0 else valueOf fFP32 (p (fld x.w1 11 7 + 1)))
    ((List.range 32).map fun j => valueOf fFP32 (p (fld x.w1 18 7 + j)))
    (smaxOld x p)

/-- The outputs that the command writes. -/
def smaxOuts (x : Cmd) (p : Nat → Nat) : List Num :=
  (smaxCalc x p).o.getD (if fld x.w1 2 1 == 1 then smaxOld x p else [])

/-- The codes of a row after the command. -/
def smaxAfter (x : Cmd) (p : Nat → Nat) : Nat → Nat :=
  setRow (fld x.w1 4 7) (smaxOuts x p) (setRow (fld x.w1 11 7) [(smaxCalc x p).m, (smaxCalc x p).l] p)

/-- The tile row of P. -/
def smaxTile (x : Cmd) (p : Nat → Nat) : List Byte :=
  let bytes := bytesOfElements (fmtFld x.w2 22) (smaxCalc x p).p
  bytes ++ List.replicate (64 - bytes.length) 0

/-- One row of the drain. -/
def smaxStep (x : Cmd) (q : Cell × Flags) (ir : Nat × Nat) : Cell × Flags :=
  (((q.1.putRow ir.2 (fld x.w1 11 7) [(smaxCalc x (q.1.accAt ir.2)).m, (smaxCalc x (q.1.accAt ir.2)).l]).putRow ir.2 (fld x.w1 4 7)
    (smaxOuts x (q.1.accAt ir.2))).putTileRow (fld x.w2 29 3) ir.1 (smaxTile x (q.1.accAt ir.2)), q.2 ||| (smaxCalc x (q.1.accAt ir.2)).fl)

/-- What the drain promotes. -/
def smaxRead (x : Cmd) : List (Nat × Nat) := (smaxRows x).flatMap fun r => ((List.range 32).map fun j => (r, fld x.w1 18 7 + j)) ++
  (r, fld x.w1 11 7) :: (r, fld x.w1 11 7 + 1) :: (if fld x.w1 2 1 == 1 then [] else (List.range (smaxNo x)).map fun j => (r, fld x.w1 4 7 + j))

theorem smax_steps {x : Cmd} {s : State} (hf : fld x.w1 1 1 = 0) (hp : (smaxRows x).any s.cell.poisonedRow = false) :
    ∃ z t, smax x s = .done z (BitVec.ofNat 32 x.verb) [] t ∧ t.pkg = s.pkg ∧
      t.cell = (((smaxRows x).mapIdx fun i r => (i, r)).foldl (smaxStep x) (s.cell.promoteAll (smaxRead x), 0)).1.progress 0 0 := by
  have hfin : (fld x.w1 1 1 == 1) = false := by rw [hf]; rfl
  unfold smaxRows at hp
  simp only [smax, hfin, hp, Bool.false_eq_true, if_false]
  exact ⟨_, { s with cell := (((smaxRows x).mapIdx fun i r => (i, r)).foldl (smaxStep x) (s.cell.promoteAll (smaxRead x), 0)).1.progress 0 0 }, rfl, rfl, rfl⟩

theorem length_smaxOuts (x : Cmd) (p : Nat → Nat) : (smaxOuts x p).length ≤ smaxNo x := by
  unfold smaxOuts
  cases ho : (smaxCalc x p).o with
  | some os => exact (smaxRow_length ho).le.trans (by simp [smaxOld])
  | none =>
    rw [Option.getD_none]
    split <;> simp [smaxOld]

theorem mem_smaxPlaced (x : Cmd) {i : Nat} (hi : i < 32) : (i, fld x.w1 25 7 + i) ∈ (smaxRows x).mapIdx fun i r => (i, r) := by
  refine mem_placed.2 ?_
  rw [smaxRows, List.getElem?_map, List.getElem?_range hi, Option.map_some]

section
variable {x : Cmd} (hok : smaxOk x = true)
include hok

theorem smaxOld_row (c : Cell) (r : Nat) : smaxOld x (c.accAt r) = smaxOld x (c.row r) := by
  obtain ⟨-, -, ho, -⟩ := smaxOk_columns hok
  refine List.map_congr_left fun j hj => ?_
  have hj := List.mem_range.1 hj
  rw [Cell.row_apply (by omega)]

theorem smaxCalc_row (c : Cell) (r : Nat) : smaxCalc x (c.accAt r) = smaxCalc x (c.row r) := by
  obtain ⟨hs, hm, ho, -⟩ := smaxOk_columns hok
  have hsc : ((List.range 32).map fun j => valueOf fFP32 (c.accAt r (fld x.w1 18 7 + j))) = (List.range 32).map fun j => valueOf fFP32 (c.row r (fld x.w1 18 7 + j)) :=
    List.map_congr_left fun j hj => by
      have hj := List.mem_range.1 hj
      rw [Cell.row_apply (by omega)]
  simp only [smaxCalc, hsc, smaxOld_row hok, Cell.row_apply (show fld x.w1 11 7 < 128 by omega), Cell.row_apply (show fld x.w1 11 7 + 1 < 128 by omega)]

theorem length_smaxTile (hf : fld x.w1 1 1 = 0) (p : Nat → Nat) : (bytesOfElements (fmtFld x.w2 22) (smaxCalc x p).p).length ≤ 64 := by
  have hw := smaxOk_format hok hf
  have hp : (smaxCalc x p).p.length = 32 := (smaxRow_codes ..).trans (by simp)
  rw [bytesOfElements, length_bytesOf, hp]
  omega

theorem row_smaxStep (q : Cell × Flags) (ir : Nat × Nat) : (smaxStep x q ir).1.row ir.2 = smaxAfter x (q.1.row ir.2) := by
  obtain ⟨-, hm, ho, -⟩ := smaxOk_columns hok
  have hlen := length_smaxOuts x (q.1.accAt ir.2)
  have houts : smaxOuts x (q.1.accAt ir.2) = smaxOuts x (q.1.row ir.2) := by rw [smaxOuts, smaxOuts, smaxCalc_row hok, smaxOld_row hok]
  show (Cell.putRow ir.2 _ (smaxOuts x _) (Cell.putRow ir.2 _ _ q.1)).row ir.2 = _
  rw [Cell.row_putRow (by omega), Cell.row_putRow (by simp only [List.length_cons, List.length_nil]; omega), smaxAfter, houts, smaxCalc_row hok]

theorem row_smaxStep_other {r : Nat} {ir : Nat × Nat} (hne : r ≠ ir.2) (q : Cell × Flags) : (smaxStep x q ir).1.row r = q.1.row r := by
  obtain ⟨-, hm, ho, -⟩ := smaxOk_columns hok
  have hlen := length_smaxOuts x (q.1.accAt ir.2)
  show (Cell.putRow ir.2 _ (smaxOuts x _) (Cell.putRow ir.2 _ _ q.1)).row r = _
  rw [Cell.row_putRow_other hne (by omega), Cell.row_putRow_other hne (by simp only [List.length_cons, List.length_nil]; omega)]

/-- What the pass over the rows leaves of each row, and of its tile row. -/
theorem row_smaxSteps (hf : fld x.w1 1 1 = 0) (q : Cell × Flags) {i : Nat} (hi : i < 32) :
    (((smaxRows x).mapIdx fun i r => (i, r)).foldl (smaxStep x) q).1.row (fld x.w1 25 7 + i) = smaxAfter x (q.1.row (fld x.w1 25 7 + i)) ∧
      (((smaxRows x).mapIdx fun i r => (i, r)).foldl (smaxStep x) q).1.tileRow (fld x.w2 29 3) i = smaxTile x (q.1.row (fld x.w1 25 7 + i)) := by
  have htile (p : Nat → Nat) : (smaxTile x p).length = 64 := by
    have := length_smaxTile hok hf p
    rw [smaxTile, List.length_append, List.length_replicate]
    omega
  have hplace {ir : Nat × Nat} (h : ir ∈ (smaxRows x).mapIdx fun i r => (i, r)) : ir.1 < 32 := by
    have := (List.getElem?_eq_some_iff.1 (mem_placed.1 h)).1
    simpa [smaxRows] using this
  refine Prod.mk.inj (foldl_parts (fun (ir : Nat × Nat) (q : Cell × Flags) => q.1.row ir.2) (fun ir q => (q.1.row ir.2, q.1.tileRow (fld x.w2 29 3) ir.1))
    (fun _ p => (smaxAfter x p, smaxTile x p)) (nodup_placed _) (fun q ir _ => Prod.ext (row_smaxStep hok q ir) ?_) (fun q a ha b hb hab => ?_)
    q (i, fld x.w1 25 7 + i) (mem_smaxPlaced x hi))
  · have htiles : smaxTile x (q.1.accAt ir.2) = smaxTile x (q.1.row ir.2) := by rw [smaxTile, smaxTile, smaxCalc_row hok]
    exact (Cell.tileRow_putTileRow (htile _) _ _ _).trans htiles
  · have hrow := row_smaxStep_other hok (placed_ne (nodup_smaxRows x) hb ha hab.symm) q
    refine ⟨hrow, Prod.ext hrow ?_⟩
    have hne : ¬(fld x.w2 29 3 = fld x.w2 29 3 ∧ b.1 = a.1) := fun h => hab (by
      have h1 := mem_placed.1 ha
      rw [← h.2, mem_placed.1 hb] at h1
      exact Prod.ext h.2.symm (Option.some.inj h1).symm)
    exact (Cell.tileRow_putTileRow_other (htile _) (hplace ha) (hplace hb) hne _).trans
      (Cell.tileRow_congr ((Cell.putRow_tiles ..).trans (Cell.putRow_tiles ..)) _ _)

/-- The codes of a row once they are promoted. -/
def Cell.promotedRow (c : Cell) (r : Nat) : Nat → Nat := fun k => (c.promote (r, k)).accAt r k

theorem row_smaxRead (c : Cell) {r k : Nat} (hr : r ∈ smaxRows x)
    (hk : (∃ j < 32, k = fld x.w1 18 7 + j) ∨ k = fld x.w1 11 7 ∨ k = fld x.w1 11 7 + 1 ∨ ((fld x.w1 2 1 == 1) = false ∧ ∃ j < smaxNo x, k = fld x.w1 4 7 + j)) :
    (c.promoteAll (smaxRead x)).row r k = c.promotedRow r k := by
  obtain ⟨hs, hm, ho, -⟩ := smaxOk_columns hok
  refine Cell.row_promoteAll (List.mem_flatMap.2 ⟨r, hr, List.mem_append.2 ?_⟩) ?_ c
  · rcases hk with ⟨j, hj, rfl⟩ | rfl | rfl | ⟨hi, j, hj, rfl⟩
    · exact .inl (List.mem_map.2 ⟨j, List.mem_range.2 hj, rfl⟩)
    · exact .inr List.mem_cons_self
    · exact .inr (List.mem_cons_of_mem _ List.mem_cons_self)
    · rw [hi, if_neg Bool.false_ne_true]
      exact .inr (List.mem_cons_of_mem _ (List.mem_cons_of_mem _ (List.mem_map.2 ⟨j, List.mem_range.2 hj, rfl⟩)))
  · omega

theorem smaxOld_read (c : Cell) {r : Nat} (hr : r ∈ smaxRows x) : smaxOld x ((c.promoteAll (smaxRead x)).row r) = smaxOld x (c.promotedRow r) := by
  refine List.map_congr_left fun j hj => ?_
  cases hi : fld x.w1 2 1 == 1
  · rw [row_smaxRead hok c hr (.inr (.inr (.inr ⟨hi, j, List.mem_range.1 hj, rfl⟩)))]
  · rfl

theorem smaxCalc_read (c : Cell) {r : Nat} (hr : r ∈ smaxRows x) : smaxCalc x ((c.promoteAll (smaxRead x)).row r) = smaxCalc x (c.promotedRow r) := by
  have hsc : ((List.range 32).map fun j => valueOf fFP32 ((c.promoteAll (smaxRead x)).row r (fld x.w1 18 7 + j))) =
      (List.range 32).map fun j => valueOf fFP32 (c.promotedRow r (fld x.w1 18 7 + j)) :=
    List.map_congr_left fun j hj => by rw [row_smaxRead hok c hr (.inl ⟨j, List.mem_range.1 hj, rfl⟩)]
  simp only [smaxCalc, hsc, smaxOld_read hok c hr, row_smaxRead hok c hr (.inr (.inl rfl)), row_smaxRead hok c hr (.inr (.inr (.inl rfl)))]

theorem smaxTile_read (c : Cell) {r : Nat} (hr : r ∈ smaxRows x) : smaxTile x ((c.promoteAll (smaxRead x)).row r) = smaxTile x (c.promotedRow r) := by
  rw [smaxTile, smaxCalc_read hok c hr, smaxTile]

/-- What the drain leaves of every row. -/
theorem smax_rows {s : State} (hf : fld x.w1 1 1 = 0) (hp : (smaxRows x).any s.cell.poisonedRow = false) :
    ∃ z t, smax x s = .done z (BitVec.ofNat 32 x.verb) [] t ∧ t.pkg = s.pkg ∧ ∀ i < 32,
      t.cell.row (fld x.w1 25 7 + i) = smaxAfter x ((s.cell.promoteAll (smaxRead x)).row (fld x.w1 25 7 + i)) ∧
        t.cell.tileRow (fld x.w2 29 3) i = smaxTile x (s.cell.promotedRow (fld x.w1 25 7 + i)) := by
  obtain ⟨z, t, hrun, hpkg, ht⟩ := smax_steps hf hp
  have hrows (i : Nat) (hi : i < 32) := row_smaxSteps hok hf (s.cell.promoteAll (smaxRead x), 0) hi
  generalize ((smaxRows x).mapIdx fun i r => (i, r)).foldl (smaxStep x) (s.cell.promoteAll (smaxRead x), 0) = q at ht hrows
  refine ⟨z, t, hrun, hpkg, fun i hi => ?_⟩
  obtain ⟨hrow, htile⟩ := hrows i hi
  dsimp only at hrow htile
  have hr : fld x.w1 25 7 + i ∈ smaxRows x := mem_smaxRows.2 (by omega)
  rw [ht, Cell.row_progress, Cell.tileRow_congr (Cell.tiles_progress ..)]
  exact ⟨hrow, htile.trans (smaxTile_read hok s.cell hr)⟩

/-! ### The parts of a row after the command -/

section
variable (p : Nat → Nat)

theorem smaxAfter_top : smaxAfter x p (fld x.w1 11 7) = code32 (smaxCalc x p).m := by
  obtain ⟨-, -, -, hd⟩ := smaxOk_columns hok
  have hlen := length_smaxOuts x p
  rw [smaxAfter, setRow_outside (by omega)]
  exact setRow_at (j := 0) (l := [(smaxCalc x p).m, (smaxCalc x p).l]) (by simp) (fld x.w1 11 7) p

theorem smaxAfter_sum : smaxAfter x p (fld x.w1 11 7 + 1) = code32 (smaxCalc x p).l := by
  obtain ⟨-, -, -, hd⟩ := smaxOk_columns hok
  have hlen := length_smaxOuts x p
  rw [smaxAfter, setRow_outside (by omega)]
  exact setRow_at (j := 1) (l := [(smaxCalc x p).m, (smaxCalc x p).l]) (by simp) (fld x.w1 11 7) p

omit hok in
theorem smaxAfter_outs {l : List Num} (hl : smaxOuts x p = l) {j : Nat} (hj : j < l.length) : smaxAfter x p (fld x.w1 4 7 + j) = code32 (l.getD j (.nan false)) := by
  rw [smaxAfter, hl, setRow_at hj]

theorem smaxAfter_kept (hl : smaxOuts x p = []) {j : Nat} (hj : j < smaxNo x) : smaxAfter x p (fld x.w1 4 7 + j) = p (fld x.w1 4 7 + j) := by
  obtain ⟨-, -, -, hd⟩ := smaxOk_columns hok
  rw [smaxAfter, hl, setRow_outside (by simp), setRow_outside (by simp only [List.length_cons, List.length_nil]; omega)]

end

omit hok in
theorem smaxTile_take (p : Nat → Nat) : let bytes := bytesOfElements (fmtFld x.w2 22) (smaxCalc x p).p
    (smaxTile x p).take bytes.length = bytes := List.take_left

/-- The parts of every row after the drain. -/
theorem smax_drains {s : State} (hf : fld x.w1 1 1 = 0) (hp : (smaxRows x).any s.cell.poisonedRow = false) :
    ∃ z t, smax x s = .done z (BitVec.ofNat 32 x.verb) [] t ∧ t.pkg = s.pkg ∧ ∀ i < 32,
      let r := fld x.w1 25 7 + i
      let q := smaxCalc x (s.cell.promotedRow r)
      t.cell.accAt r (fld x.w1 11 7) = code32 q.m ∧ t.cell.accAt r (fld x.w1 11 7 + 1) = code32 q.l ∧
      (∀ l, q.o = some l → ∀ j < smaxNo x, t.cell.accAt r (fld x.w1 4 7 + j) = code32 (l.getD j (.nan false))) ∧
      (q.o = none → (fld x.w1 2 1 == 1) = false → ∀ j < smaxNo x, t.cell.accAt r (fld x.w1 4 7 + j) = s.cell.promotedRow r (fld x.w1 4 7 + j)) ∧
      (q.o = none → (fld x.w1 2 1 == 1) = true → ∀ j < smaxNo x, t.cell.accAt r (fld x.w1 4 7 + j) = 0) ∧
      (t.cell.tileRow (fld x.w2 29 3) i).take (bytesOfElements (fmtFld x.w2 22) q.p).length = bytesOfElements (fmtFld x.w2 22) q.p := by
  obtain ⟨hs, hm, ho, -⟩ := smaxOk_columns hok
  obtain ⟨z, t, hrun, hpkg, hrows⟩ := smax_rows hok hf hp
  refine ⟨z, t, hrun, hpkg, fun i hi => ?_⟩
  intro r q
  obtain ⟨hrow, htile⟩ := hrows i hi
  have hr : r ∈ smaxRows x := mem_smaxRows.2 (by omega)
  have hq : smaxCalc x ((s.cell.promoteAll (smaxRead x)).row r) = q := smaxCalc_read hok s.cell hr
  have hat {k : Nat} (hk : k < 128) : t.cell.accAt r k = smaxAfter x ((s.cell.promoteAll (smaxRead x)).row r) k :=
    (Cell.row_apply hk _ _).symm.trans (congrFun hrow k)
  have houts : smaxOuts x ((s.cell.promoteAll (smaxRead x)).row r) = q.o.getD (if fld x.w1 2 1 == 1 then smaxOld x (s.cell.promotedRow r) else []) := by
    rw [smaxOuts, hq, smaxOld_read hok s.cell hr]
  refine ⟨?_, ?_, fun l hl j hj => ?_, fun hn hi j hj => ?_, fun hn hi j hj => ?_, ?_⟩
  · rw [hat (by omega), smaxAfter_top hok, hq]
  · rw [hat (by omega), smaxAfter_sum hok, hq]
  · have hlen : l.length = smaxNo x := (smaxRow_length hl).trans (by simp [smaxOld])
    rw [hl] at houts
    rw [hat (by omega), smaxAfter_outs _ houts (by simpa [hlen] using hj)]
    rfl
  · rw [hn, hi] at houts
    rw [hat (by omega), smaxAfter_kept hok _ houts hj, row_smaxRead hok s.cell hr (.inr (.inr (.inr ⟨hi, j, hj, rfl⟩)))]
  · have hzeroes : smaxOld x (s.cell.promotedRow r) = (List.range (smaxNo x)).map fun _ => .fin false 0 0 := by
      rw [smaxOld, hi]
      rfl
    rw [hn, hi, hzeroes, Option.getD_none, if_pos rfl] at houts
    rw [hat (by omega), smaxAfter_outs _ houts (by simpa using hj)]
    rw [List.getD_eq_getElem?_getD, List.getElem?_map, List.getElem?_range hj]
    exact code32_zero
  · rw [htile]
    exact smaxTile_take _

end

/-! ### The drain of a cell -/

section
variable {x : Cmd} {s : State} (hok : mxOk x = true) (hch : s.cell.tokenChannel x = true) (hv : x.verb = 6)
  (hp : ∀ i < 32, (mxStart x s).cell.poisonedRow (fld x.w1 25 7 + i) = false)
include hok hch hv hp

omit hok hch hv in
theorem smaxRows_sound : (smaxRows x).any (mxStart x s).cell.poisonedRow = false :=
  List.any_eq_false.2 fun r hr => by
    obtain ⟨h1, h2⟩ := mem_smaxRows.1 hr
    have := hp (r - fld x.w1 25 7) (by omega)
    rw [Nat.add_sub_cancel' h1] at this
    simp [this]

theorem runMx_smax_final (hf : fld x.w1 1 1 = 1) : ∃ z t, runMx x s = .done z 6 [] t ∧ t.pkg = (mxStart x s).pkg ∧ t.cell.tiles = (mxStart x s).cell.tiles ∧
    ∀ r, fld x.w1 25 7 ≤ r → r < fld x.w1 25 7 + 32 → ∀ j < smaxNo x, t.cell.accAt r (fld x.w1 4 7 + j) =
      code32 (round32 (quotient ((mxStart x s).cell.valueAt r (fld x.w1 4 7 + j)) ((mxStart x s).cell.valueAt r (fld x.w1 11 7 + 1)))).1 := by
  have hlane : BitVec.ofNat 32 x.verb = 6 := by rw [hv]; rfl
  rw [runMx_smax hok hch hv, ← hlane]
  obtain ⟨z, t, hrun, hpkg, htiles, hrows⟩ := smax_final (x := x.on) (smaxOk_of_mxOk hv hok) hf (smaxRows_sound hp)
  exact ⟨z, t, hrun, hpkg, htiles, fun r h1 h2 j hj => hrows r (mem_smaxRows.2 ⟨h1, h2⟩) j hj⟩

theorem runMx_smax_drains (hf : fld x.w1 1 1 = 0) : ∃ z t, runMx x s = .done z 6 [] t ∧ t.pkg = (mxStart x s).pkg ∧ ∀ i < 32,
    let r := fld x.w1 25 7 + i
    let q := smaxCalc x ((mxStart x s).cell.promotedRow r)
    t.cell.accAt r (fld x.w1 11 7) = code32 q.m ∧ t.cell.accAt r (fld x.w1 11 7 + 1) = code32 q.l ∧
      (∀ l, q.o = some l → ∀ j < smaxNo x, t.cell.accAt r (fld x.w1 4 7 + j) = code32 (l.getD j (.nan false))) ∧
      (q.o = none → (fld x.w1 2 1 == 1) = false → ∀ j < smaxNo x, t.cell.accAt r (fld x.w1 4 7 + j) = (mxStart x s).cell.promotedRow r (fld x.w1 4 7 + j)) ∧
      (q.o = none → (fld x.w1 2 1 == 1) = true → ∀ j < smaxNo x, t.cell.accAt r (fld x.w1 4 7 + j) = 0) ∧
      (t.cell.tileRow (fld x.w2 29 3) i).take (bytesOfElements (fmtFld x.w2 22) q.p).length = bytesOfElements (fmtFld x.w2 22) q.p := by
  have hlane : BitVec.ofNat 32 x.verb = 6 := by rw [hv]; rfl
  rw [runMx_smax hok hch hv, ← hlane]
  exact smax_drains (x := x.on) (smaxOk_of_mxOk hv hok) hf (smaxRows_sound hp)

end

end Sys2Proof.Machine
end

section
/-! The matrix engine's moves, drain and copies as the engine runs them (R274, R275, R279-R281, R284). -/

namespace Sys2Proof.Machine

theorem fld_lt (w : W32) (lo n : Nat) : fld w lo n < 2 ^ n := bits_lt _ _ _

theorem rectOf_column {w : W32} (h : rectOk w = true) {e : Nat × Nat} (he : e ∈ rectOf w) : e.2 < 128 := by
  have hcol := (mem_rectangle.1 he).2
  simp only [rectOk, Bool.and_eq_true, decide_eq_true_eq] at h
  omega

section
variable {x : Cmd} {s v : State} (hok : mxOk x = true) (hch : s.cell.tokenChannel x = true)
include hok hch

/-! ### `mx.ld` -/

theorem runMx_ld_row (hv : x.verb = 0) (ht : fld x.w3 28 1 = 0) {bytes : List Byte} (hb : bytes.length = 64)
    (hr : readMem .mx (moveAddr x x.unit) 64 (mxStart x s) = .ok bytes v) :
    (x.unit + 1 < fld x.w3 21 5 + 1 → ∃ t, runMx x s = .more { x.on with unit := x.unit + 1 } t ∧ t.pkg = v.pkg ∧ t.cell.tileRow (fld x.w3 29 3) x.unit = bytes ∧
      ∀ T r, r < 32 → ¬(T = fld x.w3 29 3 ∧ r = x.unit) → t.cell.tileRow T r = v.cell.tileRow T r) ∧
    (x.unit + 1 = fld x.w3 21 5 + 1 → ∃ t, runMx x s = .done x.on 0 [] t ∧ t.pkg = v.pkg ∧ t.cell.tileRow (fld x.w3 29 3) x.unit = bytes ∧
      (∀ r, r < x.unit → t.cell.tileRow (fld x.w3 29 3) r = v.cell.tileRow (fld x.w3 29 3) r) ∧
      ∀ r, fld x.w3 21 5 + 1 ≤ r → r < 32 → t.cell.tileRow (fld x.w3 29 3) r = List.replicate 64 0) := by
  have hrun := (runMx_ld hok hch hv).trans (moveLd_row (x := x.on) hv ht hr)
  have h5 := fld_lt x.w3 21 5
  refine ⟨fun hlt => ?_, fun heq => ?_⟩
  · obtain ⟨hown, hother⟩ := rowLoaded_rows (x := x.on) (v := v) hb (show x.unit < 32 by omega)
    exact ⟨_, hrun.trans (if_pos hlt), rfl, hown, hother⟩
  · obtain ⟨hown, hother⟩ := rowLoaded_rows (x := x.on) (v := v) hb (show x.unit < 32 by omega)
    obtain ⟨hclear, hkept⟩ := Cell.tileRow_clearRows (fld x.w3 29 3) (fld x.w3 21 5 + 1) (rowLoaded x.on bytes v).cell
    refine ⟨_, hrun.trans (if_neg (Nat.not_lt.2 heq.ge)), rfl, (hkept _ (by omega) (by omega)).trans hown, fun r hr => ?_, hclear⟩
    exact (hkept r (by omega) (by omega)).trans (hother _ r (by omega) fun h => absurd h.2 (Nat.ne_of_lt hr))

theorem runMx_ld_fault (hv : x.verb = 0) (ht : fld x.w3 28 1 = 0) {code : Byte} (hr : readMem .mx (moveAddr x x.unit) 64 (mxStart x s) = .fault code v) :
    runMx x s = .fault code (BitVec.ofNat 32 x.unit) v := (runMx_ld hok hch hv).trans (moveLd_fault ht hr)

theorem runMx_ld_block (hv : x.verb = 0) (ht : fld x.w3 28 1 = 0) {w : Option ParkKey} {b : Bool}
    (hr : readMem .mx (moveAddr x x.unit) 64 (mxStart x s) = .block w b v) : runMx x s = .block w b v := (runMx_ld hok hch hv).trans (moveLd_block ht hr)

theorem runMx_ld_transposed (hv : x.verb = 0) (ht : fld x.w3 28 1 = 1) {rows : List (List Byte)}
    (hr : Io.each (fun c s => readRow (moveAddr x c) (((fld x.w3 21 5 + 1) * moveWidth x + 7) / 8) s) (List.range (512 / moveWidth x)) (mxStart x s) = .ok rows v) :
    ∃ t, runMx x s = .done x.on 0 [] t ∧ t.pkg = v.pkg ∧ ∀ r < 32, ∀ c < 512 / moveWidth x,
      bits (ofBytes (t.cell.tileRow (fld x.w3 29 3) r)) (c * moveWidth x) (moveWidth x) =
        if r < fld x.w3 21 5 + 1 then bits (ofBytes (rows.getD c [])) (r * moveWidth x) (moveWidth x) else 0 := by
  obtain ⟨t, hrun, ht⟩ := moveLd_elements (x := x.on) hv ht hr
  exact ⟨t, (runMx_ld hok hch hv).trans hrun, ht⟩

/-! ### `mx.st` -/

theorem runMx_st_damaged (hv : x.verb = 1) (ht : fld x.w3 28 1 = 0) (hb : (mxStart x s).cell.badRows (fld x.w3 29 3) [x.unit] = true) :
    runMx x s = .fault cUNCORRECTABLE (BitVec.ofNat 32 x.unit) (mxStart x s) := (runMx_st hok hch hv).trans (moveSt_damaged (x := x.on) ht hb)

theorem runMx_st_row (hv : x.verb = 1) (ht : fld x.w3 28 1 = 0) (hb : (mxStart x s).cell.badRows (fld x.w3 29 3) [x.unit] = false)
    (hw : writeMem .mx (moveAddr x x.unit) ((mxStart x s).cell.tileRow (fld x.w3 29 3) x.unit) (mxStart x s) = .ok () v) :
    ∃ t, t.pkg = v.pkg ∧ t.cell.store = v.cell.store ∧ t.cell.tiles = v.cell.tiles ∧
      (if x.unit + 1 < fld x.w3 21 5 + 1 then runMx x s = .more { x.on with unit := x.unit + 1 } t else ∃ fill, runMx x s = .done x.on 1 fill t) := by
  obtain ⟨fill, hrun⟩ := moveSt_row (x := x.on) hv ht hb hw
  refine ⟨v.onCell (Cell.progress 0 (x.unit + 1)), rfl, rfl, rfl, ?_⟩
  rw [runMx_st hok hch hv, hrun]
  split
  next hlt => exact if_pos hlt
  next hge => exact ⟨fill, if_neg hge⟩

theorem runMx_st_transposed (hv : x.verb = 1) (ht : fld x.w3 28 1 = 1) (h8 : (fld x.w3 21 5 + 1) * moveWidth x % 8 = 0)
    (hb : (mxStart x s).cell.badRows (fld x.w3 29 3) (List.range (fld x.w3 21 5 + 1)) = false)
    (hw : writeAll .mx (storedPieces x (mxStart x s).cell ((fld x.w3 21 5 + 1) * moveWidth x / 8)) (mxStart x s) = .ok () v) :
    ∃ t fill, runMx x s = .done x.on 1 fill t ∧ t.pkg = v.pkg ∧ t.cell.store = v.cell.store ∧ t.cell.tiles = v.cell.tiles := by
  obtain ⟨fill, hrun⟩ := moveSt_transposed (x := x.on) hv ht h8 hb hw
  exact ⟨_, fill, (runMx_st hok hch hv).trans hrun, rfl, rfl, rfl⟩

/-! ### `mx.drain` -/

theorem runMx_drain_poisoned (hv : x.verb = 5) (hu : x.unit = 0) (h : ∃ i < fld x.w3 20 5 + 1, (mxStart x s).cell.poisonedRow (fld x.w3 25 7 + i) = true) :
    runMx x s = .fault cUNCORRECTABLE 0 (mxStart x s) := (runMx_drain hok hch hv).trans (drain_poisoned (x := x.on) hu h)

theorem runMx_drain_row (hv : x.verb = 5) (h : ∀ i < fld x.w3 20 5 + 1, (mxStart x s).cell.poisonedRow (fld x.w3 25 7 + i) = false)
    (hw : writeAll .mx (drainPieces x (drainStart x (mxStart x s)).cell) (drainStart x (mxStart x s)) = .ok () v) :
    ∃ t, t.pkg = v.pkg ∧ t.cell.store = v.cell.store ∧ t.cell.acc = v.cell.acc ∧
      (if x.unit + 1 < fld x.w3 20 5 + 1 then runMx x s = .more { x.on.drainedFlags (drainStart x (mxStart x s)).cell with unit := x.unit + 1 } t
        else ∃ fill, runMx x s = .done (x.on.drainedFlags (drainStart x (mxStart x s)).cell) 5 fill t) := by
  obtain ⟨fill, hrun⟩ := drain_row (x := x.on) hv h hw
  refine ⟨v.onCell (Cell.progress 0 (x.unit + 1)), rfl, rfl, rfl, ?_⟩
  rw [runMx_drain hok hch hv, hrun]
  split
  next hlt => exact if_pos hlt
  next hge => exact ⟨fill, if_neg hge⟩

/-! ### Copies of accumulators -/

theorem runMx_accld_damaged (hv : x.verb = 7) (h : (mxStart x s).cell.damagedAt (fld x.w1 0 17) (4 * (rectOf x.w2).length) = true) :
    runMx x s = .fault cUNCORRECTABLE 0 (mxStart x s) := (runMx_accld hok hch hv).trans (accld_damaged (x := x.on) h)

theorem runMx_accld_loads (hv : x.verb = 7) (h : (mxStart x s).cell.damagedAt (fld x.w1 0 17) (4 * (rectOf x.w2).length) = false) :
    ∃ t, runMx x s = .done x.on 7 [] t ∧ t.pkg = (mxStart x s).pkg ∧ t.cell.store = (mxStart x s).cell.store ∧ t.cell.tiles = (mxStart x s).cell.tiles ∧
      (∀ i p, (rectOf x.w2)[i]? = some p → t.cell.accAt p.1 p.2 = ofBytes ((mxStart x s).cell.load (fld x.w1 0 17 + 4 * i) 4) ∧
        t.cell.innerAt p.1 p.2 = Inner.zero) ∧
      ∀ p, p ∉ rectOf x.w2 → p.2 < 128 → t.cell.accAt p.1 p.2 = (mxStart x s).cell.accAt p.1 p.2 := by
  have hrect : ∀ e ∈ rectOf x.w2, e.2 < 128 := by
    simp only [mxOk, hv, accMoveOk, Bool.and_eq_true] at hok
    obtain ⟨-, ⟨⟨-, hrect⟩, -⟩, -⟩ := hok
    exact fun e he => rectOf_column hrect he
  obtain ⟨t, hrun, hpkg, ht⟩ := accld_loads (x := x.on) (s := mxStart x s) hv h
  have hentry (k : Nat) : t.cell.entry k = ((mxStart x s).cell.loadEntries (fld x.w1 0 17) (rectOf x.w2)).entry k := by
    rw [ht]
    rfl
  refine ⟨t, (runMx_accld hok hch hv).trans hrun, hpkg, ?_, ?_, fun i p hp => ?_, fun p hp hp2 => ?_⟩
  · rw [ht]
    exact Cell.loadEntries_store ..
  · rw [ht]
    exact Cell.loadEntries_tiles ..
  · rw [Cell.accAt_entry, Cell.innerAt_entry, hentry, Cell.entry_loadEntries hrect _ _ (nodup_rectangle ..) hp]
    refine ⟨Nat.mod_eq_of_lt ?_, rfl⟩
    have := ofBytes_lt ((mxStart x s).cell.load (fld x.w1 0 17 + 4 * i) 4)
    rwa [Cell.length_load] at this
  · rw [Cell.accAt_entry, hentry, Cell.entry_loadEntries_other hrect _ _ hp hp2]
    rfl

/-! ### Clearing, and copies to the store -/

theorem runMx_zeroes (hv : x.verb = 4) : ∃ y t, runMx x s = .done y 4 [] t ∧ t.pkg = s.pkg ∧ t.cell.tiles = s.cell.tiles ∧ t.cell.store = s.cell.store ∧
    t.cell.acc = (rectOf x.w1).foldl (fun m e => sput 0 (accKey e.1 e.2) 0 m) s.cell.acc := by
  obtain ⟨t, hrun, hpkg, htiles, hstore, hacc⟩ := mxZeroes_spec (x := x.on) hv (mxStart x s)
  rw [mxStart_acc] at hacc
  exact ⟨x.on, t, (runMx_zero hok hch hv).trans hrun, hpkg.trans (mxStart_pkg x s), htiles.trans (mxStart_tiles x s), hstore.trans (mxStart_store x s), hacc⟩

theorem runMx_accst_poisoned (hv : x.verb = 8) (h : (rectOf x.w2).any (fun e => s.cell.poisonedRow e.1) = true) : ∃ t, runMx x s = .fault cUNCORRECTABLE 0 t := by
  simp only [← mxStart_poisonedRow x s] at h
  exact ⟨_, (runMx_accst hok hch hv).trans (accst_poisoned (x := x.on) h)⟩

theorem runMx_accst_stores (hv : x.verb = 8) (h : (rectOf x.w2).any (fun e => s.cell.poisonedRow e.1) = false) :
    ∃ y fill t, runMx x s = .done y 8 fill t ∧ t.pkg = s.pkg ∧
      t.cell.store = ((s.cell.promoteAll (rectOf x.w2)).storeAt (fld x.w1 0 17) (accBytes (rectOf x.w2) s.cell)).store := by
  simp only [← mxStart_poisonedRow x s] at h
  obtain ⟨fill, t, hrun, hpkg, hstore⟩ := accst_stores (x := x.on) hv h
  refine ⟨x.on, fill, t, (runMx_accst hok hch hv).trans hrun, hpkg.trans (mxStart_pkg x s), hstore.trans ?_⟩
  rw [accBytes_congr (mxStart_entry x s), mxStart_store, Cell.storeAt, Cell.promoteAll_store]
  rfl

end

end Sys2Proof.Machine
end

section
/-! One unit of engine work (R64, R66): the clauses of O45 put together, each from the laws of its engine. -/

namespace Sys2Proof.Machine

/-- Settles O45: the outcomes of a unit and its reports are the laws of queues and held tokens; every clause about an engine is the law of one unit of
that engine, for the command's verb and the unit it has come to. -/
theorem engineUnits : Obligations.EngineUnits := by
  unfold Obligations.EngineUnits
  refine ⟨?_, ?_, ?_, ?_, ?_, ?_, ?_, ?_, ?_, ?_, ?_, ?_, ?_, ?_, ?_, ?_, ?_, ?_, ?_, ?_, ?_, ?_, ?_, ?_⟩
  -- The unit, its outcomes and the reports (R64, R66).
  · intro e x r s hq hst hb hs ha hne
    show execEngineCompletion s.here e s = _
    rw [execEngineCompletion, State.within, State.focus_here, stepEngine_head (runEngine e) hq hst hb hs ha hne]
  · exact fun e x u => ⟨fun _ => rfl, fun _ _ _ => rfl, fun _ => rfl, fun k hk => ⟨settle_waits hk false, settle_no_entry hk false⟩,
      fun code info hf => settle_fault code info hf⟩
  · exact fun e x r c hq hi => ⟨fun lane fill hd => Cell.report_plain_spec hq hi hd lane fill, fun lane fill hd => Cell.report_fill_spec hq hi hd lane fill,
      fun lane fill hd => Cell.report_count_spec hq hi hd lane fill, fun lane fill hd hr => Cell.report_held_spec hq hi hd hr lane fill⟩
  -- The matrix engine (R274-R286) and its sums (R48-R52, R283).
  · exact fun x s hok hch => ⟨runMx_zeroes hok hch, runMx_accst_poisoned hok hch, runMx_accst_stores hok hch⟩
  · intro x s hok hch u y T R a e
    refine ⟨fun hv ht => ⟨fun bytes v hb hr => runMx_ld_row hok hch hv ht hb hr, fun code v hr => runMx_ld_fault hok hch hv ht hr,
        fun w b v hr => runMx_ld_block hok hch hv ht hr⟩, fun hv ht rows v hr => runMx_ld_transposed hok hch hv ht hr,
      fun hv ht => ⟨runMx_st_damaged hok hch hv ht, fun hb v hw => runMx_st_row hok hch hv ht hb hw⟩,
      fun hv ht h8 hb v hw => runMx_st_transposed hok hch hv ht h8 hb hw, fun hv hb => ?_, fun hv hb hsc => ?_, fun hv => ?_, fun hv hp => ?_,
      fun hv => ⟨runMx_accld_damaged hok hch hv, runMx_accld_loads hok hch hv⟩⟩
    · exact ⟨fun g hg hne => runMx_mma_float hok hch hv hb hg hne, fun hg hsat => runMx_mma_int hok hch hv hb hg hsat⟩
    · exact fun ws v g hg hne hr => runMx_mv_float hok hch hv hb hsc hg hne hr
    · exact ⟨runMx_drain_poisoned hok hch hv, fun h v hw => runMx_drain_row hok hch hv h hw⟩
    · exact ⟨runMx_smax_final hok hch hv hp, runMx_smax_drains hok hch hv hp⟩
  · exact fun blk sc acc p => ⟨fun _ _ => rfl, floatEntry_half blk sc acc p, fun _ _ _ => rfl,
      fun k ks b h => floatEntry_scaled blk sc acc p h (List.cons_ne_nil k ks), fun l sa sb E ha hb hf hlt hle => sumBlock_exact acc ha hb hf hlt hle⟩
  · exact intProduct_spec
  · exact fun fp m l sc o hm hl hs hne => smaxRow_parts hm hl hs rfl hne
  -- Copies (R292, R293).
  · intro x s hi hb ha h3 hch bytes v hr d
    have hrun := runCp_begins hi hb ha h3 hch hr
    refine ⟨fun hok hd => hrun.trans (if_pos ?_), fun hok => hrun.trans (if_neg ?_)⟩
    · rw [hok, Bool.true_and]
      simpa using hd
    · rw [hok, Bool.false_and]
      exact Bool.false_ne_true
  · intro x s hi hb hrem d e k n at_
    refine ⟨runCp_over hi hb hrem, fun hn => ⟨fun l v w hg hw => ?_, fun code l v w hg hw => ?_, fun he hbad hpois dst hdst => ⟨fun hv => ?_, fun src =>
      ⟨fun hv hsrc => ?_, fun idx => ?_⟩⟩⟩⟩
    · rw [show runEngine .cp x s = _ from runCp_chunk hi hb hrem hn hg, hw]
      rfl
    · rw [show runEngine .cp x s = _ from runCp_chunk hi hb hrem hn hg, hw]
      rfl
    · refine runCp_cell hi hb hrem hn (fun i _ => ?_) fun i hi => (congrArg _ (length_bytesOf ..)).trans (hdst i hi)
      rw [hv]
      exact cpElement_fill _
    · refine runCp_cell hi hb hrem hn (fun i hi => cpElement_cell (by omega) he ?_ (hsrc i hi) hbad hpois)
        fun i hi => (congrArg _ (Cell.length_load ..)).trans (hdst i hi)
      rw [hv]
      exact cpSrcAt_plain _
    · intro D w nD hv hidx hsrc
      refine runCp_cell hi hb hrem hn (fun i hi => cpElement_cell (by omega) he ?_ (hsrc i hi) hbad hpois)
        fun i hi => (congrArg _ (Cell.length_load ..)).trans (hdst i hi)
      rw [hv]
      exact cpSrcAt_gather hbad (hidx i hi)
  -- The walker (R296-R305).
  · intro x s hgo wid info
    refine ⟨fun hv => ?_, fun hv w hw hok hd => ?_, fun hv hc => ?_, fun hv => ?_⟩
    · have hrun := runKv_walk hgo hv
      exact ⟨fun hu ha => hrun.trans (kvWalk_ends hu ha), fun hu ha => hrun.trans (kvWalk_begins hu ha), fun hu h => hrun.trans (kvWalk_waits hu h),
        fun hu h bytes v hr => hrun.trans (kvWalk_opens hu h hr), fun hu w hdr i p v hw hd hp hf hr => hrun.trans (kvWalk_head hu hw hd hp hf hr)⟩
    · have hrun := runKv_load hgo hv
      refine ⟨fun hp hf => ⟨_, hrun.trans (kvLoad_past hw hok hd hp hf), rfl, rfl⟩, fun p ps hp hs => ⟨fun he => hrun.trans (kvLoad_error hw hok hd hp hs he),
        fun he ht => ?_, fun he ht => ?_, fun he ht l v hr => ?_⟩⟩
      · exact ⟨_, hrun.trans ((kvLoad_far hw hok hd hp hs he (by rw [ht]; decide)).trans (if_pos ht))⟩
      · have h0 : p.tier ≠ 0 := by rcases ht with ht | ht <;> rw [ht] <;> decide
        have h3 : p.tier ≠ 3 := by rcases ht with ht | ht <;> rw [ht] <;> decide
        exact ⟨_, hrun.trans ((kvLoad_far hw hok hd hp hs he h0).trans (if_neg h3))⟩
      · obtain ⟨z, t, hnear, hpkg, hstore, hwalk⟩ := kvLoad_near hw hok hd hp hs he ht hr
        exact ⟨z, t, hrun.trans hnear, hpkg, hstore, hwalk⟩
    · have hrun := runKv_pagein hgo hv hc
      refine ⟨fun hu p v old u hr ht => ?_, fun i hu => ⟨fun hn hi old u ht => ?_, fun hn sp v u hs hb hw => ?_⟩⟩
      · have htakes := hrun.trans (pageinUnit_takes hu hr ht)
        refine ⟨fun h0 hi => ?_, fun h1 => ?_, fun h2 => ?_, fun h3 hi => ?_⟩
        · subst h0
          exact ⟨_, _, htakes.trans ((if_pos rfl).trans (pageinDone_command hi)), rfl, rfl⟩
        · subst h1
          exact ⟨_, _, htakes.trans ((if_neg (by decide)).trans ((if_neg (by decide)).trans (if_neg (by decide)))), rfl, rfl, rfl, rfl⟩
        · subst h2
          exact ⟨_, _, htakes.trans ((if_neg (by decide)).trans (if_pos rfl)), rfl, rfl, rfl⟩
        · subst h3
          exact ⟨_, _, htakes.trans ((if_neg (by decide)).trans ((if_neg (by decide)).trans ((if_pos rfl).trans (pageinFails_command hi)))), rfl, rfl⟩
      · exact ⟨_, _, _, hrun.trans ((pageinUnit_ends hu hn ht).trans (pageinDone_command hi)), rfl, rfl⟩
      · exact ⟨_, hrun.trans (pageinUnit_copies hu hn hs hb hw), rfl, rfl⟩
    · have hrun := runKv_free hgo hv
      exact ⟨fun hb bytes v hr => hrun.trans (kvFree_begins hb hr), fun hb hu => ⟨fun h0 hn p v hr hp u hw => hrun.trans (kvFree_page hb hu h0 hn hr hp hw),
        fun h u hw => by
          obtain ⟨fill, hover⟩ := kvFree_over hb hu h hw
          exact ⟨fill, hrun.trans hover⟩⟩⟩
  · exact fun hdr f off s hr hd => swapTier_cell f hr hd
  · exact fun c x w p rows hbias => load_deliver hbias
  -- Sketches (R306).
  · intro x s
    refine ⟨fun hb h3 hch bytes v hr => runSk_begins hb h3 hch hr, fun hb hu => ⟨runSk_noPage hb hu, fun p v h0 hr hal => ?_⟩, fun hb hu u hw => runSk_over hb hu hw⟩
    have hrun := runSk_page hb hu h0 hr hal
    refine ⟨fun hjs => hrun.trans ?_, fun hjs ht => hrun.trans ?_, fun hjs ht q ks u w hq hk => ?_⟩
    · rw [scorePage_none hjs]
      rfl
    · rw [scorePage_far hjs ht]
      rfl
    · obtain ⟨m, hm, hall, hmem⟩ := scorePage_near hjs ht hq hk
      refine ⟨m, hrun.trans ?_, hall, hmem⟩
      rw [hm]
      rfl
  · intro d l i hi
    refine ⟨fun b hb => ?_, fun v hv ht => ?_, fun v hv ht => ?_⟩
    · rw [survivors_getElem?, hb]
      rfl
    · rw [survivors_getElem?, hv, Option.map_some, survives, if_neg (by rw [ht]; exact Bool.false_ne_true)]
    · rw [survivors_getElem?, hv, Option.map_some, survives, if_pos ht]
      exact congrArg (fun n => some (decide (n < skTopk d))) (ranksAhead_eq l i v)
  -- The chain unit (R194, R195).
  · intro x s hb d k n
    refine ⟨runCh_over hb, fun hk ins v auxs w hi ha => ?_⟩
    have hrun := runCh_group hb hk hi ha
    exact ⟨fun u hw => hrun.trans (congrArg (fun i => chainRan k i _) hw), fun code u hw => hrun.trans (congrArg (fun i => chainRan k i _) hw)⟩
  · exact chainElem_eq
  · exact fun v b => ⟨rfl, rfl, rfl, rfl, rfl, rfl, rfl, rfl, rfl, rfl, rfl, rfl, rfl, rfl⟩
  -- Sections, held tokens, loops, the lookahead and the tier polls (R66, R285, R286, R299, R302).
  · exact fun x t s ht hch => ⟨runGs_arm ht hch, runGs_over ht hch, runGs_waits ht hch⟩
  · exact fun c sec n h => Cell.arm_count c n h
  · exact fun c e t r s hh hroom hs => exec_completionTokenEntry hh hroom hs
  · intro c l r s hq hs ha hv hb hn hc
    refine ⟨_, exec_loopTake hq hs ha hv hb hn hc, ?_, ?_, putCell_pkg ..⟩
    · rw [cellAt_putCell]
      rfl
    · rw [cellAt_putCell, Cell.sectionAt_onSection (loopSec_lt l)]
  · exact fun wid w hdr i s hs ha hw hf hne hlen hd hst p t hr => exec_lookaheadFill hs ha hw hf hne hlen hd hst hr
  · exact fun wid w p tier t s hs ha hw hp hr => exec_tierPoll hs ha hw hp hr

end Sys2Proof.Machine
end

section
/-! The values of scalar operations as numbers and bits (R56, R87, R88): what the machine computes on bit vectors against what the spec's tables say. -/

namespace Sys2Proof.Machine

/-! ### The `.w` form (R56) -/

/-- With `.w` an operation works on the low 32 bits of its operands, and its result is sign-extended. -/
theorem inWidth_word (f : (n : Nat) → BitVec n → BitVec n → BitVec n) (A B : Word) :
    inWidth true f A B = (f 32 (A.setWidth 32) (B.setWidth 32)).signExtend 64 := rfl

/-- The low 32 bits of an operand leave a shift amount below 32 as it is. -/
theorem toNat_low_mod (B : Word) : (B.setWidth 32).toNat % 32 = B.toNat % 32 := by
  rw [BitVec.toNat_setWidth]
  omega

/-- A small result of the `.w` form has no sign bit to extend. -/
theorem signExtend_small {k : Nat} (hk : k ≤ 32) : (BitVec.ofNat 32 k).signExtend 64 = BitVec.ofNat 64 k := by
  have hmsb : (BitVec.ofNat 32 k).msb = false := by
    rw [BitVec.msb_eq_decide, decide_eq_false_iff_not, BitVec.toNat_ofNat]
    omega
  rw [BitVec.signExtend_eq_setWidth_of_msb_false hmsb]
  apply BitVec.eq_of_toNat_eq
  simp only [BitVec.toNat_setWidth, BitVec.toNat_ofNat]
  omega

theorem signExtend_neg_one : (-1 : W32).signExtend 64 = (-1 : Word) := by decide

/-! ### Products, extrema and comparisons -/

theorem mul_eq_ofNat {n : Nat} (A B : BitVec n) : A * B = BitVec.ofNat n (A.toNat * B.toNat) :=
  BitVec.eq_of_toNat_eq (by simp)

/-- The high half of a signed product. -/
theorem mulh_eq (A B : Word) : BitVec.ofInt 64 (A.toInt * B.toInt / 2 ^ 64) = BitVec.ofInt 64 ((A.toInt * B.toInt) >>> 64) := by
  have hshift : (A.toInt * B.toInt) >>> (64 : Int) = (A.toInt * B.toInt) >>> (64 : Nat) := Int.shiftRight_natCast_right _ 64
  rw [hshift, Int.shiftRight_eq_div_pow]
  rfl

theorem smin_eq (A B : Word) : (if A.slt B then A else B) = BitVec.ofInt 64 (min A.toInt B.toInt) := by
  rw [min_def_lt, apply_ite (BitVec.ofInt 64), BitVec.ofInt_toInt, BitVec.ofInt_toInt]
  exact if_congr BitVec.slt_iff_toInt_lt rfl rfl

theorem smax_eq (A B : Word) : (if A.slt B then B else A) = BitVec.ofInt 64 (max A.toInt B.toInt) := by
  rw [max_def_lt, apply_ite (BitVec.ofInt 64), BitVec.ofInt_toInt, BitVec.ofInt_toInt]
  exact if_congr BitVec.slt_iff_toInt_lt rfl rfl

theorem umin_eq (A B : Word) : (if A.ult B then A else B) = BitVec.ofNat 64 (min A.toNat B.toNat) := by
  rw [min_def_lt, apply_ite (BitVec.ofNat 64), BitVec.ofNat_toNat, BitVec.ofNat_toNat, BitVec.setWidth_eq, BitVec.setWidth_eq]
  exact if_congr BitVec.ult_iff_toNat_lt rfl rfl

theorem umax_eq (A B : Word) : (if A.ult B then B else A) = BitVec.ofNat 64 (max A.toNat B.toNat) := by
  rw [max_def_lt, apply_ite (BitVec.ofNat 64), BitVec.ofNat_toNat, BitVec.ofNat_toNat, BitVec.setWidth_eq, BitVec.setWidth_eq]
  exact if_congr BitVec.ult_iff_toNat_lt rfl rfl

/-- A signed comparison as a result of 1 or 0. -/
theorem ofFlag_slt (A B : Word) : ofFlag (A.slt B) = if A.toInt < B.toInt then 1 else 0 := if_congr BitVec.slt_iff_toInt_lt rfl rfl

/-- An unsigned comparison as a result of 1 or 0. -/
theorem ofFlag_ult (A B : Word) : ofFlag (A.ult B) = if A.toNat < B.toNat then 1 else 0 := if_congr BitVec.ult_iff_toNat_lt rfl rfl

/-! ### Rotation -/

theorem rotl_eq {n k : Nat} (hk : k < n) (A : BitVec n) : rotl A k = A.rotateLeft k := by
  rw [BitVec.rotateLeft_def, Nat.mod_eq_of_lt hk]
  rfl

/-! ### Counts of bits -/

/-- The first number below n with a property, or n where none has it. -/
theorem find_range_spec (n : Nat) (p : Nat → Bool) :
    let k := ((List.range n).find? p).getD n
    k ≤ n ∧ (∀ i < k, p i = false) ∧ (k < n → p k = true) := by
  intro k
  cases h : (List.range n).find? p with
  | none =>
    have hk : k = n := by simp [k, h]
    rw [List.find?_range_eq_none] at h
    simp only [hk]
    exact ⟨le_refl n, fun i hi => by simpa using h i hi, fun hn => absurd hn (lt_irrefl n)⟩
  | some i =>
    have hk : k = i := by simp [k, h]
    rw [List.find?_range_eq_some] at h
    obtain ⟨hp, hn, hb⟩ := h
    rw [List.mem_range] at hn
    simp only [hk]
    exact ⟨by omega, fun j hj => by simpa using hb j hj, fun _ => hp⟩

theorem popcOf_eq {n : Nat} (A : BitVec n) : popcOf A = BitVec.ofNat n ((List.range n).filter A.getLsbD).length := by
  rw [popcOf, List.countP_eq_length_filter]

theorem filter_getLsbD_low (A : Word) : (List.range 32).filter (A.setWidth 32).getLsbD = (List.range 32).filter A.getLsbD := by
  refine List.filter_congr fun i hi => ?_
  rw [BitVec.getLsbD_setWidth, decide_eq_true (List.mem_range.1 hi), Bool.true_and]

/-! ### Byte reversal -/

theorem ofBytes_div_mod (l : List Byte) (k : Nat) : ofBytes l / 256 ^ k % 256 = (l.getD k 0).toNat := by
  induction l generalizing k with
  | nil => simp [ofBytes]
  | cons b l ih =>
    have hb : b.toNat < 256 := b.isLt
    cases k with
    | zero =>
      rw [ofBytes, List.getD_cons_zero]
      omega
    | succ k =>
      rw [ofBytes, List.getD_cons_succ, ← ih k, Nat.pow_succ', ← Nat.div_div_eq_div_mul]
      congr 2
      omega

theorem getD_bytesOf {n k : Nat} (hk : k < n) (v : Nat) : (bytesOf n v).getD k 0 = BitVec.ofNat 8 (v / 256 ^ k) := by
  induction n generalizing k v with
  | zero => omega
  | succ n ih =>
    cases k with
    | zero => simp [bytesOf]
    | succ k => rw [bytesOf, List.getD_cons_succ, ih (by omega), Nat.div_div_eq_div_mul, Nat.pow_succ']

/-- Byte k of a reversed number of m bytes is byte m − 1 − k of the number. -/
theorem bswapOf_byte {m k : Nat} (hk : k < m) (A : BitVec (8 * m)) :
    (bswapOf A).extractLsb' (8 * k) 8 = A.extractLsb' (8 * (m - 1 - k)) 8 := by
  have hlen : (bytesOf m A.toNat).reverse.length = m := by simp
  have hpow (j : Nat) : 2 ^ (8 * j) = 256 ^ j := by rw [Nat.pow_mul]
  have hlt : ofBytes (bytesOf m A.toNat).reverse < 2 ^ (8 * m) := by
    rw [hpow]
    simpa [hlen] using ofBytes_lt (bytesOf m A.toNat).reverse
  have hbyte : (bytesOf m A.toNat).reverse.getD k 0 = (bytesOf m A.toNat).getD (m - 1 - k) 0 := by
    rw [List.getD_eq_getElem _ _ (by omega), List.getElem_reverse, List.getD_eq_getElem _ _ (by simp; omega)]
    simp
  apply BitVec.eq_of_toNat_eq
  rw [BitVec.extractLsb'_toNat, BitVec.extractLsb'_toNat, bswapOf, BitVec.toNat_ofNat, Nat.mul_div_cancel_left m (by decide), Nat.mod_eq_of_lt hlt,
    Nat.shiftRight_eq_div_pow, Nat.shiftRight_eq_div_pow, hpow, hpow]
  rw [show (2 : Nat) ^ 8 = 256 from rfl, ofBytes_div_mod, hbyte, getD_bytesOf (by omega), BitVec.toNat_ofNat]

/-! ### Division (R88) -/

theorem sdiv_eq_ofInt {n : Nat} (A B : BitVec n) : A.sdiv B = BitVec.ofInt n (A.toInt.tdiv B.toInt) := by
  apply BitVec.eq_of_toInt_eq
  rw [BitVec.toInt_sdiv, BitVec.toInt_ofInt]

theorem srem_eq_ofInt {n : Nat} (A B : BitVec n) : A.srem B = BitVec.ofInt n (A.toInt - B.toInt * A.toInt.tdiv B.toInt) := by
  rw [← Int.tmod_def, ← BitVec.toInt_srem, BitVec.ofInt_toInt]

theorem udiv_eq_ofNat {n : Nat} (A B : BitVec n) : A / B = BitVec.ofNat n (A.toNat / B.toNat) := by
  rw [← BitVec.toNat_udiv, BitVec.ofNat_toNat, BitVec.setWidth_eq]

theorem umod_eq_ofNat {n : Nat} (A B : BitVec n) : A % B = BitVec.ofNat n (A.toNat % B.toNat) := by
  rw [← BitVec.toNat_umod, BitVec.ofNat_toNat, BitVec.setWidth_eq]

end Sys2Proof.Machine
end

section
/-! Arithmetic, logic and division (R85, R87, R88): each instruction is one of the shared operations, and its value is the one of the spec's table. -/

namespace Sys2Proof.Machine

section operands
variable {s : State} {a b d : XIdx} {A B : Word}

/-! ### Instructions of one result -/

/-- An instruction of two sources that are FULL writes its value to a destination that is not PENDING (R85, R87). -/
theorem exec_alu {j : Instr} {f : Word → Word → Word} {v : Word} (ha : s.HasX a A) (hb : s.HasX b B) (hd : s.FreeX d)
    (hj : exec j s = .next (alu d a b f s)) (hv : f A B = v) : exec j s = .next (s.wroteX d v) := by
  rw [hj, alu_has ha hb hd, hv]

/-- So does an instruction of one source. -/
theorem exec_alu1 {j : Instr} {f : Word → Word} {v : Word} (ha : s.HasX a A) (hd : s.FreeX d) (hj : exec j s = .next (alu1 d a f s))
    (hv : f A = v) : exec j s = .next (s.wroteX d v) := by
  rw [hj, alu1_has ha hd, hv]

/-- A count of leading zeros is the number of the first bit, from the top, that is 1 (R87). -/
theorem exec_clz (ha : s.HasX a A) (hd : s.FreeX d) :
    (∃ n : Nat, exec (.clz d a false) s = .next (s.wroteX d (BitVec.ofNat 64 n)) ∧ n ≤ 64 ∧
      (∀ i < n, A.getMsbD i = false) ∧ (n < 64 → A.getMsbD n = true)) ∧
    ∃ n : Nat, exec (.clz d a true) s = .next (s.wroteX d (BitVec.ofNat 64 n)) ∧ n ≤ 32 ∧
      (∀ i < n, (A.setWidth 32).getMsbD i = false) ∧ (n < 32 → (A.setWidth 32).getMsbD n = true) := by
  have hspec := find_range_spec 32 (A.setWidth 32).getMsbD
  exact ⟨⟨_, exec_alu1 ha hd rfl rfl, find_range_spec 64 A.getMsbD⟩, ⟨_, exec_alu1 ha hd rfl (signExtend_small hspec.1), hspec⟩⟩

/-- A count of trailing zeros is the number of the first bit, from the bottom, that is 1 (R87). -/
theorem exec_ctz (ha : s.HasX a A) (hd : s.FreeX d) :
    (∃ n : Nat, exec (.ctz d a false) s = .next (s.wroteX d (BitVec.ofNat 64 n)) ∧ n ≤ 64 ∧
      (∀ i < n, A.getLsbD i = false) ∧ (n < 64 → A.getLsbD n = true)) ∧
    ∃ n : Nat, exec (.ctz d a true) s = .next (s.wroteX d (BitVec.ofNat 64 n)) ∧ n ≤ 32 ∧
      (∀ i < n, A.getLsbD i = false) ∧ (n < 32 → A.getLsbD n = true) := by
  have hlow {i : Nat} (hi : i < 32) : (A.setWidth 32).getLsbD i = A.getLsbD i := by simp [hi]
  obtain ⟨hle, hzero, hone⟩ := find_range_spec 32 (A.setWidth 32).getLsbD
  exact ⟨⟨_, exec_alu1 ha hd rfl rfl, find_range_spec 64 A.getLsbD⟩, ⟨_, exec_alu1 ha hd rfl (signExtend_small hle), hle,
    fun i hi => (hlow (hi.trans_le hle)).symm.trans (hzero i hi), fun hn => (hlow hn).symm.trans (hone hn)⟩⟩

/-- The number of bits that are 1 (R87). -/
theorem exec_popc (ha : s.HasX a A) (hd : s.FreeX d) :
    exec (.popc d a false) s = .next (s.wroteX d (BitVec.ofNat 64 (((List.range 64).filter A.getLsbD).length))) ∧
    exec (.popc d a true) s = .next (s.wroteX d (BitVec.ofNat 64 (((List.range 32).filter A.getLsbD).length))) := by
  have hle : ((List.range 32).filter A.getLsbD).length ≤ 32 := by simpa using List.length_filter_le A.getLsbD (List.range 32)
  refine ⟨exec_alu1 ha hd rfl (popcOf_eq A), exec_alu1 ha hd rfl ?_⟩
  rw [inWidth_word, popcOf_eq, filter_getLsbD_low, signExtend_small hle]

/-- The bytes in reverse order (R87). -/
theorem exec_bswap (ha : s.HasX a A) (hd : s.FreeX d) :
    (∃ r : Word, exec (.bswap d a false) s = .next (s.wroteX d r) ∧ ∀ k < 8, r.extractLsb' (8 * k) 8 = A.extractLsb' (56 - 8 * k) 8) ∧
    ∃ r : W32, exec (.bswap d a true) s = .next (s.wroteX d (r.signExtend 64)) ∧ ∀ k < 4, r.extractLsb' (8 * k) 8 = A.extractLsb' (24 - 8 * k) 8 := by
  refine ⟨⟨_, exec_alu1 ha hd rfl rfl, fun k hk => ?_⟩, ⟨_, exec_alu1 ha hd rfl rfl, fun k hk => ?_⟩⟩
  · rw [show 56 - 8 * k = 8 * (8 - 1 - k) by omega]
    exact bswapOf_byte (m := 8) hk A
  · rw [show 24 - 8 * k = 8 * (4 - 1 - k) by omega]
    refine (bswapOf_byte (m := 4) hk (A.setWidth 32)).trans ?_
    exact BitVec.extractLsb'_setWidth_of_le (by omega)

/-! ### Division (R88) -/

/-- A division by another number than 0 writes its value and raises no flag. -/
theorem exec_divide {j : Instr} {w : Bool} {f : (n : Nat) → BitVec n → BitVec n → BitVec n} {v : Word} (ha : s.HasX a A) (hb : s.HasX b B) (hd : s.FreeX d)
    (hz : ¬ (if w then B.setWidth 32 = 0#32 else B = 0)) (hj : exec j s = .next (divide d a b w f s)) (hv : inWidth w f A B = v) :
    exec j s = .next (s.wroteX d v) := by
  rw [hj, divide_nonzero ha hb hd hz, hv]

/-- What a division by 0 that writes v does: the flag merges, or its trap is taken or refused (R23, R88). -/
def DividesByZero (s : State) (d : XIdx) (j : Instr) (v : Word) : Prop :=
  (s.cell.k.te &&& flDZ = 0 → exec j s = .next ((s.wroteX d v).onCell (Cell.mergeFlags flDZ))) ∧
  (s.cell.k.te &&& flDZ ≠ 0 → s.cell.k.tven = true → s.cell.k.t = false →
    exec j s = .next (trapEntry cARITH 0x08 0 (s.cell.pc + 4) ((s.wroteX d v).onCell (Cell.mergeFlags flDZ)))) ∧
  (s.cell.k.te &&& flDZ ≠ 0 → (s.cell.k.tven = false ∨ s.cell.k.t = true) → exec j s = .next (raise cARITH 0x08 0 s))

/-- Where DZ is enabled, it is the whole detail of its trap (R23). -/
theorem detail_DZ : ∀ te : BitVec 5, te &&& flDZ ≠ 0 → (0#3 ++ (flDZ &&& te) : Byte) = 0x08 := by decide

theorem dividesByZero_of_withFlags {j : Instr} {v : Word} (hj : exec j s = .next (withFlags flDZ (s.wroteX d v) s)) : DividesByZero s d j v := by
  have hpc : (s.wroteX d v).cell.pc = s.cell.pc + 4 := by simp [State.wroteX]
  have htrap (hon : s.cell.k.te &&& flDZ ≠ 0) :
      exec j s = .next (trap cARITH 0x08 0 (s.cell.pc + 4) ((s.wroteX d v).onCell (Cell.mergeFlags flDZ)) s) := by
    rw [hj, withFlags_on (by rwa [BitVec.and_comm]), detail_DZ _ hon, hpc]
  refine ⟨fun hoff => ?_, fun hon he ht => ?_, fun hon hr => ?_⟩
  · rw [hj, withFlags_off (by rwa [BitVec.and_comm])]
  · rw [htrap hon, trap_taken he ht]
  · rw [htrap hon, trap_refused hr]

theorem exec_divide_zero {j : Instr} {w : Bool} {f : (n : Nat) → BitVec n → BitVec n → BitVec n} {v : Word} (ha : s.HasX a A) (hb : s.HasX b B)
    (hd : s.FreeX d) (hj : exec j s = .next (divide d a b w f s)) (hz : if w then B.setWidth 32 = 0#32 else B = 0) (hv : inWidth w f A B = v) :
    DividesByZero s d j v := by
  apply dividesByZero_of_withFlags
  rw [hj, divide_zero ha hb hd hz, hv]

end operands

/-! ### The obligations -/

/-- Settles O9: each instruction is one of the two shared operations, and its function has the value of R87's table. -/
theorem arithmeticAndLogic : Obligations.ArithmeticAndLogic := by
  refine ⟨fun d a b A B s ha hb hd => ?_, fun d a b A B s ha hb hd => ?_⟩
  · have two {j : Instr} {f v} : exec j s = .next (alu d a b f s) → f A B = v → exec j s = .next (s.wroteX d v) := exec_alu ha hb hd
    exact ⟨two rfl rfl, two rfl rfl, two rfl rfl, two rfl rfl, two rfl (mul_eq_ofNat A B),
      two rfl (congrArg (BitVec.signExtend 64) (mul_eq_ofNat (A.setWidth 32) (B.setWidth 32))),
      two rfl (mulh_eq A B), two rfl (by rw [Nat.shiftRight_eq_div_pow]),
      two rfl rfl, two rfl rfl, two rfl rfl, two rfl rfl, two rfl rfl,
      two rfl (smin_eq A B), two rfl (smax_eq A B), two rfl (umin_eq A B), two rfl (umax_eq A B), two rfl (ofFlag_slt A B), two rfl (ofFlag_ult A B)⟩
  · have two {j : Instr} {f v} : exec j s = .next (alu d a b f s) → f A B = v → exec j s = .next (s.wroteX d v) := exec_alu ha hb hd
    have word (g : Nat → W32) : (g ((B.setWidth 32).toNat % 32)).signExtend 64 = (g (B.toNat % 32)).signExtend 64 := by rw [toNat_low_mod]
    obtain ⟨hclz, hclzW⟩ := exec_clz ha hd
    obtain ⟨hctz, hctzW⟩ := exec_ctz ha hd
    obtain ⟨hpopc, hpopcW⟩ := exec_popc ha hd
    obtain ⟨hbswap, hbswapW⟩ := exec_bswap ha hd
    exact ⟨two rfl rfl, two rfl (word (A.setWidth 32 <<< ·)), two rfl rfl, two rfl (word (A.setWidth 32 >>> ·)), two rfl rfl, two rfl (word (A.setWidth 32).sshiftRight),
      two rfl (rotl_eq (Nat.mod_lt _ (by decide)) A),
      two rfl ((word (rotl (A.setWidth 32))).trans (congrArg (BitVec.signExtend 64) (rotl_eq (Nat.mod_lt _ (by decide)) (A.setWidth 32)))),
      hclz, hclzW, hctz, hctzW, hpopc, hpopcW, hbswap, hbswapW, fun p => two rfl rfl⟩

/-- Settles O10: by whether the divisor is 0 in the width of the form; then the flag alone decides between the result, its trap and a fault. -/
theorem division : Obligations.Division := by
  intro d a b A B s ha hb hd
  refine ⟨fun hB => ?_, fun hB => ?_, ?_⟩
  · have div {j : Instr} {f v} : exec j s = .next (divide d a b false f s) → inWidth false f A B = v → exec j s = .next (s.wroteX d v) :=
      exec_divide ha hb hd hB
    exact ⟨div rfl ((if_neg hB).trans (sdiv_eq_ofInt A B)), div rfl ((if_neg hB).trans (srem_eq_ofInt A B)),
      div rfl ((if_neg hB).trans (udiv_eq_ofNat A B)), div rfl ((if_neg hB).trans (umod_eq_ofNat A B))⟩
  · have div {j : Instr} {f v} (hj : exec j s = .next (divide d a b true f s)) (hv : f 32 (A.setWidth 32) (B.setWidth 32) = v) :
        exec j s = .next (s.wroteX d (v.signExtend 64)) := exec_divide (w := true) ha hb hd hB hj (congrArg (BitVec.signExtend 64) hv)
    exact ⟨div rfl ((if_neg hB).trans (sdiv_eq_ofInt ..)), div rfl ((if_neg hB).trans (srem_eq_ofInt ..)),
      div rfl ((if_neg hB).trans (udiv_eq_ofNat ..)), div rfl ((if_neg hB).trans (umod_eq_ofNat ..))⟩
  · have div {j : Instr} {w f v} : exec j s = .next (divide d a b w f s) → (if w then B.setWidth 32 = 0#32 else B = 0) → inWidth w f A B = v →
        DividesByZero s d j v := exec_divide_zero ha hb hd
    have word {f : (n : Nat) → BitVec n → BitVec n → BitVec n} {v : W32} (hv : f 32 (A.setWidth 32) (B.setWidth 32) = v) :
        inWidth true f A B = v.signExtend 64 := congrArg (BitVec.signExtend 64) hv
    simp only [List.forall_mem_cons]
    exact ⟨fun hz => div rfl hz (if_pos hz), fun hz => div rfl hz (if_pos hz), fun hz => div rfl hz (if_pos hz), fun hz => div rfl hz (if_pos hz),
      fun hz => div rfl hz ((word (if_pos hz)).trans signExtend_neg_one), fun hz => div rfl hz ((word (if_pos hz)).trans signExtend_neg_one),
      fun hz => div rfl hz (word (if_pos hz)), fun hz => div rfl hz (word (if_pos hz)), List.forall_mem_nil _⟩

end Sys2Proof.Machine
end

section
/-! Immediates, bit fields and scaled addresses (R90, R92), compares and predicate operations (R93). -/

namespace Sys2Proof.Machine

/-! ### Immediates (R90) -/

theorem zext_eq_ofNat (i : BitVec 16) : i.setWidth 64 = BitVec.ofNat 64 i.toNat := (BitVec.ofNat_toNat 64 i).symm

theorem lui_eq (i : BitVec 16) : (i ++ 0#16).signExtend 64 = BitVec.ofInt 64 (i.toInt * 65536) := by
  rw [BitVec.signExtend, BitVec.toInt_append_zero, Int.mul_comm]
  rfl

/-! ### Fields (R92) -/

section field
variable {w p : BitVec 6}

theorem fieldFits_iff : fieldFits w p = true ↔ p.toNat + w.toNat < 64 := by
  rw [fieldFits, decide_eq_true_eq]
  omega

/-- A field as a number: the quotient by the place of its lowest bit, modulo the size of the field. -/
theorem fieldOf_eq (A : Word) : fieldOf w p A = BitVec.ofNat 64 (A.toNat / 2 ^ p.toNat % 2 ^ (w.toNat + 1)) := by
  have hmask : 2 ^ (w.toNat + 1) - 1 < 2 ^ 64 := by
    have : 2 ^ (w.toNat + 1) ≤ 2 ^ 64 := Nat.pow_le_pow_right (by decide) (by omega)
    omega
  rw [fieldOf, ← Nat.and_two_pow_sub_one_eq_mod, ← Nat.shiftRight_eq_div_pow]
  apply BitVec.eq_of_toNat_eq
  rw [BitVec.toNat_and, BitVec.toNat_ushiftRight, BitVec.toNat_ofNat, Nat.mod_eq_of_lt hmask, BitVec.toNat_ofNat, Nat.mod_eq_of_lt]
  exact Nat.lt_of_le_of_lt Nat.and_le_right hmask

/-- A field shifted to the top and back down again is sign-extended. -/
theorem signedField_eq (h : fieldFits w p = true) (A : Word) :
    (A <<< (63 - w.toNat - p.toNat)).sshiftRight (63 - w.toNat) = (A.extractLsb' p.toNat (w.toNat + 1)).signExtend 64 := by
  rw [fieldFits_iff] at h
  have hmsb : (A <<< (63 - w.toNat - p.toNat)).msb = (A.extractLsb' p.toNat (w.toNat + 1)).msb := by
    have hin : ¬ 64 - 1 < 63 - w.toNat - p.toNat := by omega
    rw [BitVec.msb_eq_getLsbD_last, BitVec.msb_eq_getLsbD_last, BitVec.getLsbD_shiftLeft, BitVec.getLsbD_extractLsb',
      show 64 - 1 - (63 - w.toNat - p.toNat) = p.toNat + (w.toNat + 1 - 1) by omega]
    simp [hin]
  refine BitVec.eq_of_getLsbD_eq fun i hi => ?_
  rw [BitVec.getLsbD_sshiftRight, BitVec.getLsbD_signExtend, hmsb, decide_eq_true hi, decide_eq_false (by omega : ¬ 64 ≤ i), Bool.not_false, Bool.true_and, Bool.true_and]
  by_cases hin : i < w.toNat + 1
  · rw [if_pos (by omega), if_pos hin, BitVec.getLsbD_shiftLeft, BitVec.getLsbD_extractLsb', show 63 - w.toNat + i - (63 - w.toNat - p.toNat) = p.toNat + i by omega,
      decide_eq_true hin, decide_eq_true (by omega : 63 - w.toNat + i < 64), decide_eq_false (by omega : ¬ 63 - w.toNat + i < 63 - w.toNat - p.toNat)]
    rfl
  · rw [if_neg (by omega), if_neg hin]

/-- The mask of a field: ones at the places of its bits. -/
def fieldMask (w p : BitVec 6) : Word := BitVec.ofNat 64 (2 ^ (w.toNat + 1) - 1) <<< p.toNat

theorem getLsbD_fieldMask {i : Nat} (hi : i < 64) : (fieldMask w p).getLsbD i = decide (p.toNat ≤ i ∧ i ≤ p.toNat + w.toNat) := by
  rw [fieldMask, BitVec.getLsbD_shiftLeft, BitVec.getLsbD_ofNat, Nat.testBit_two_pow_sub_one, Bool.eq_iff_iff]
  simp only [Bool.and_eq_true, Bool.not_eq_true', decide_eq_true_eq, decide_eq_false_iff_not]
  omega

/-- A field put into a word: its bits come from the source, and the others stand. -/
theorem getLsbD_insertField (A X : Word) {i : Nat} (hi : i < 64) :
    ((X &&& ~~~fieldMask w p) ||| ((A <<< p.toNat) &&& fieldMask w p)).getLsbD i =
      if p.toNat ≤ i ∧ i ≤ p.toNat + w.toNat then A.getLsbD (i - p.toNat) else X.getLsbD i := by
  rw [BitVec.getLsbD_or, BitVec.getLsbD_and, BitVec.getLsbD_and, BitVec.getLsbD_not, getLsbD_fieldMask hi, BitVec.getLsbD_shiftLeft]
  split
  · next hin => simp [hin, hi]
  · next hout => simp [hout, hi]

end field

/-- Settles O11: each instruction is one of the two shared operations, and its function has the value of R90's or R92's table. -/
theorem immediatesAndFields : Obligations.ImmediatesAndFields := by
  refine ⟨fun d a A i sh s ha hd => ?_, fun d a b A B X w p sh s ha hb hfit => ⟨fun hd => ?_, fun hX => ?_⟩⟩
  · have one {j : Instr} {f v} : exec j s = .next (alu1 d a f s) → f A = v → exec j s = .next (s.wroteX d v) := exec_alu1 ha hd
    have hslti : ofFlag (A.slt (i.signExtend 64)) = if A.toInt < i.toInt then 1 else 0 := by
      rw [ofFlag_slt, BitVec.toInt_signExtend_of_le (by decide)]
    have hsltui : ofFlag (A.ult (i.setWidth 64)) = if A.toNat < i.toNat then 1 else 0 := by
      rw [ofFlag_ult, BitVec.toNat_setWidth_of_le (by decide)]
    have hlui : exec (.lui d i) s = .next (s.wroteX d (BitVec.ofInt 64 (i.toInt * 65536))) :=
      congrArg Host.Outcome.next ((retireX_wrote hd _).trans (congrArg (s.wroteX d) (lui_eq i)))
    exact ⟨one rfl rfl, one rfl (congrArg (A &&& ·) (zext_eq_ofNat i)), one rfl (congrArg (A ||| ·) (zext_eq_ofNat i)), one rfl (congrArg (A ^^^ ·) (zext_eq_ofNat i)),
      one rfl rfl, one rfl rfl, one rfl rfl, one rfl hslti, one rfl hsltui, hlui, fun hda => by subst hda; exact ⟨one rfl rfl, one rfl rfl⟩⟩
  · exact ⟨exec_alu ha hb hd rfl rfl, exec_alu1 ha hd rfl (fieldOf_eq A), exec_alu1 ha hd rfl (signedField_eq hfit A)⟩
  · exact ⟨_, exec_alu hX ha hX.free rfl rfl, fun i hi => getLsbD_insertField A X hi⟩

/-! ### Compares and predicates (R93) -/

/-- A compare of two registers that are FULL writes its truth (R93). -/
theorem exec_compare {s : State} {a b : XIdx} {A B : Word} {j : Instr} {p : PIdx} {f : Word → Word → Bool} {v : Bool} (ha : s.HasX a A) (hb : s.HasX b B)
    (hj : exec j s = .next (compare p a b f s)) (hv : f A B = v) : exec j s = .next (s.wroteP p v) := by
  rw [hj, compare_has ha hb, hv]

theorem sge_eq_decide (A B : Word) : (!A.slt B) = decide (A.toInt ≥ B.toInt) := by
  rw [BitVec.slt_eq_decide, ← decide_not]
  exact decide_eq_decide.2 Int.not_lt

theorem uge_eq_decide (A B : Word) : (!A.ult B) = decide (A.toNat ≥ B.toNat) := by
  rw [BitVec.ult_eq_decide, ← decide_not]
  exact decide_eq_decide.2 Nat.not_lt

/-- What a predicate reads after a write of predicate d: `p0` reads true, whichever is written (R8). -/
theorem pred_wroteP (d n : PIdx) (b : Bool) (s : State) :
    (s.wroteP d b).cell.pred n = if n = 0 then true else if n = d then b else s.cell.pred n := by
  have hput : (s.wroteP d b).cell.pred n = (s.cell.putP d b).pred n := Cell.pred_congr rfl n
  rw [hput]
  split
  · next h0 => rw [h0]; exact Cell.pred_zero _
  · next h0 =>
    split
    · next hd => subst hd; exact Cell.pred_putP_same h0 b s.cell
    · next hd => exact Cell.pred_putP_other hd b s.cell

/-- Settles O12: each instruction writes one predicate, a compare the truth of its comparison, and a write to `p0` is not kept. -/
theorem comparesAndPredicates : Obligations.ComparesAndPredicates := by
  refine ⟨fun d a b A B s ha hb => ?_, fun d a b s => ⟨rfl, rfl, rfl, rfl, rfl⟩, fun d n b s => pred_wroteP d n b s⟩
  have cmp {j : Instr} {f v} : exec j s = .next (compare d a b f s) → f A B = v → exec j s = .next (s.wroteP d v) := exec_compare ha hb
  exact ⟨cmp rfl rfl, cmp rfl (by rw [bne, decide_not]; rfl), cmp rfl (BitVec.slt_eq_decide ..), cmp rfl (sge_eq_decide A B),
    cmp rfl (BitVec.ult_eq_decide ..), cmp rfl (uge_eq_decide A B)⟩

end Sys2Proof.Machine
end

section
/-! Branches, calls, loops and jumps (R12, R94-R96). -/

namespace Sys2Proof.Machine

/-! ### Targets -/

/-- A target is the PC plus four times the displacement, modulo 16 KiB (R59, R94). -/
theorem target_eq (disp : BitVec 21) (s : State) : target disp s = BitVec.ofInt 14 (s.cell.pc.toNat + 4 * disp.toInt) := by
  have hdisp : BitVec.ofInt 14 disp.toInt = disp.setWidth 14 := BitVec.signExtend_eq_setWidth_of_le disp (by decide)
  rw [BitVec.ofInt_add, BitVec.ofInt_mul, BitVec.ofInt_natCast, BitVec.ofNat_toNat, BitVec.setWidth_eq, hdisp, target, BitVec.shiftLeft_eq_mul_twoPow, BitVec.mul_comm]
  rfl

/-- Bits 1:0 of a register target (R12). -/
theorem low_bits_zero_iff (t : Word) : t.extractLsb' 0 2 = 0#2 ↔ t.toNat % 4 = 0 := by
  rw [← BitVec.toNat_inj, BitVec.extractLsb'_toNat]
  rfl

variable {s : State} {a : XIdx} {A : Word}

theorem jumpTo_aligned (h : A.toNat % 4 = 0) (done s : State) : jumpTo A done s = jump (BitVec.ofNat 14 A.toNat) done := by
  rw [jumpTo, if_pos ((low_bits_zero_iff A).2 h), BitVec.ofNat_toNat]

theorem jumpTo_misaligned (h : A.toNat % 4 ≠ 0) (done s : State) : jumpTo A done s = raise cMISALIGNED 0 (A.setWidth 32) s :=
  if_neg (mt (low_bits_zero_iff A).1 h)

/-! ### Instructions -/

/-- An instruction that reads a register first goes on with its value where it is FULL (R17). -/
theorem exec_readX {j : Instr} {k : Word → State} (ha : s.HasX a A) (hj : exec j s = .next (readX a s k)) : exec j s = .next (k A) := by
  rw [hj, readX_has ha]

/-- A branch by a condition goes to its target or past its word (R94). -/
theorem branch_decide (c : Prop) [Decidable c] (disp : BitVec 21) (s : State) :
    branch (decide c) disp s = if c then jump (target disp s) s else advance 4 s := by
  simp [branch]

theorem branch_not (c : Bool) (disp : BitVec 21) (s : State) : branch (!c) disp s = if c then advance 4 s else jump (target disp s) s := by
  cases c <;> rfl

/-- A loop branches while its count is above 1, and ends with a count of 0; `x0` holds 0, so that a loop on it never branches (R95). -/
theorem exec_loop (ha : s.HasX a A) (disp : BitVec 21) :
    exec (.loop a disp) s = .next (if 1 < A.toNat then jump (target disp s) (setX a (A - 1) s) else s.wroteX a 0) :=
  (exec_readX ha rfl).trans rfl

theorem exec_jr (ha : s.HasX a A) : exec (.jr a) s = .next (jumpTo A s s) := (exec_readX ha rfl).trans rfl

theorem exec_ret (ha : s.HasX 31 A) : exec .ret s = .next (jumpTo A s s) := (exec_readX ha rfl).trans rfl

theorem exec_jalr {d : XIdx} (ha : s.HasX a A) (hd : s.FreeX d) : exec (.jalr d a) s = .next (jumpTo A (setX d (link s) s) s) :=
  (exec_readX ha rfl).trans (congrArg Host.Outcome.next (freeX_free _ hd))

/-- Settles O13: branches by their condition, jumps by the alignment of their target. -/
theorem controlFlow : Obligations.ControlFlow := by
  intro disp s T lk
  have hT : target disp s = T := target_eq disp s
  have hlk : link s = lk := link_eq s
  rw [← hT, ← hlk]
  refine ⟨rfl, fun p => ⟨rfl, congrArg Host.Outcome.next (branch_not ..)⟩, exec_call_free, fun a A ha => ?_⟩
  refine ⟨?_, ?_, exec_loop ha disp, fun hal => ⟨?_, fun d hd => ?_, fun h31 => ?_⟩, fun hmis => ⟨?_, fun d hd => ?_, fun h31 => ?_⟩⟩
  · exact (exec_readX ha rfl).trans (congrArg Host.Outcome.next (branch_decide (A = 0) disp s))
  · refine (exec_readX ha rfl).trans (congrArg Host.Outcome.next ?_)
    exact (branch_not (A == 0) disp s).trans (by simp)
  · rw [exec_jr ha, jumpTo_aligned hal]
  · rw [exec_jalr ha hd, jumpTo_aligned hal]
  · subst h31
    rw [exec_ret ha, jumpTo_aligned hal]
  · rw [exec_jr ha, jumpTo_misaligned hmis]
  · rw [exec_jalr ha hd, jumpTo_misaligned hmis]
  · subst h31
    rw [exec_ret ha, jumpTo_misaligned hmis]

end Sys2Proof.Machine
end

section
/-! Register states (R15-R18, R98): the register forms of major 0x24, and the wait of an instruction whose source is not FULL. -/

namespace Sys2Proof.Machine

/-! ### Writes that change nothing -/

/-- An update that leaves the cell in focus as it is leaves the state as it is. -/
theorem onCell_unchanged {f : Cell → Cell} {s : State} (h : f s.cell = s.cell) : s.onCell f = s := by
  rw [State.onCell, h]

theorem Cell.putX_self (n : XIdx) (c : Cell) : c.putX n (c.xreg n) = c := by
  unfold Cell.putX Cell.xreg
  split
  · rfl
  · exact congrArg (fun x => { c with x := x }) (Vector.set_getElem_self n.isLt)

theorem Cell.putV_self (n : VIdx) (c : Cell) : c.putV n (c.vreg n) = c :=
  congrArg (fun v => { c with v := v }) (Vector.set_getElem_self n.isLt)

section x
variable {a : XIdx} {s : State}

/-- The wired register is FULL (R8). -/
theorem ne_zero_of_not_full (h : (s.cell.xreg a).st ≠ .full) : a ≠ 0 := by
  rintro rfl
  exact h rfl

theorem setX_full_self (h : (s.cell.xreg a).st = .full) : setX a (s.cell.xreg a).val s = s := by
  have hreg : (⟨(s.cell.xreg a).val, .full⟩ : XReg) = s.cell.xreg a := by rw [← h]
  exact onCell_unchanged ((if_pos h).trans ((congrArg (fun r => s.cell.putX a r) hreg).trans (Cell.putX_self a s.cell)))

theorem setX_lands (h : (s.cell.xreg a).st ≠ .full) (v : Word) : setX a v s = s.onCell (Cell.landX a v) :=
  congrArg (fun c => { s with cell := c }) (if_neg h)

/-! ### The forms on `x` registers (R98) -/

/-- A destination that is PENDING holds the instruction without limit (R16). -/
theorem freeX_pending (t : State) (h : (s.cell.xreg a).st = .pending) : freeX a s t = hold .staying s := if_pos h

theorem exec_feSet_x (h : a ≠ 0) : exec (.feSet a .x) s = .next (freeX a s (advance 4 (setX a (s.cell.xreg a).val s))) :=
  congrArg Host.Outcome.next (if_neg h)

theorem exec_feClr_x : exec (.feClr a .x) s = .next (freeX a s (advance 4 (s.onCell (Cell.putX a ⟨(s.cell.xreg a).val, .empty⟩)))) := rfl

theorem exec_feTest_x (p : PIdx) : exec (.feTest p a .x) s = .next (s.wroteP p ((s.cell.xreg a).st == .full)) := rfl

theorem exec_park_full (h : (s.cell.xreg a).st = .full) : exec (.park a .x) s = .next (advance 4 s) :=
  congrArg Host.Outcome.next (if_pos h)

theorem feForms_full (h : (s.cell.xreg a).st = .full) (p : PIdx) :
    exec (.feSet a .x) s = .next (advance 4 s) ∧ exec (.feTest p a .x) s = .next (s.wroteP p true) ∧ exec (.park a .x) s = .next (advance 4 s) ∧
    exec (.feClr a .x) s = .next (advance 4 (s.onCell (Cell.putX a ⟨(s.cell.xreg a).val, .empty⟩))) := by
  have hfree : s.FreeX a := by simp [State.FreeX, h]
  refine ⟨?_, ?_, exec_park_full h, ?_⟩
  · by_cases h0 : a = 0
    · exact congrArg Host.Outcome.next (if_pos h0)
    · rw [exec_feSet_x h0, freeX_free _ hfree, setX_full_self h]
  · rw [exec_feTest_x, h]
    rfl
  · rw [exec_feClr_x, freeX_free _ hfree]

theorem feForms_empty (h : (s.cell.xreg a).st = .empty) (p : PIdx) :
    exec (.feSet a .x) s = .next (advance 4 (s.onCell (Cell.landX a (s.cell.xreg a).val))) ∧ exec (.feTest p a .x) s = .next (s.wroteP p false) ∧
    exec (.feClr a .x) s = .next (advance 4 s) := by
  have hfull : (s.cell.xreg a).st ≠ .full := by simp [h]
  have hfree : s.FreeX a := by simp [State.FreeX, h]
  have hreg : (⟨(s.cell.xreg a).val, .empty⟩ : XReg) = s.cell.xreg a := by rw [← h]
  refine ⟨?_, ?_, ?_⟩
  · rw [exec_feSet_x (ne_zero_of_not_full hfull), freeX_free _ hfree, setX_lands hfull]
  · rw [exec_feTest_x, h]
    rfl
  · rw [exec_feClr_x, freeX_free _ hfree, onCell_unchanged (by rw [hreg, Cell.putX_self])]

theorem feForms_pending (h : (s.cell.xreg a).st = .pending) (p : PIdx) :
    exec (.feSet a .x) s = .next (hold .staying s) ∧ exec (.feTest p a .x) s = .next (s.wroteP p false) ∧ exec (.feClr a .x) s = .next (hold .staying s) := by
  have hfull : (s.cell.xreg a).st ≠ .full := by simp [h]
  refine ⟨?_, ?_, ?_⟩
  · rw [exec_feSet_x (ne_zero_of_not_full hfull), freeX_pending _ h]
  · rw [exec_feTest_x, h]
    rfl
  · rw [exec_feClr_x, freeX_pending _ h]

end x

/-! ### The forms on packet registers (R98) -/

section v
variable {a : VIdx} {s : State}

theorem freeV_pending (t : State) (h : (s.cell.vreg a).st = .pending) : freeV a s t = hold .staying s := if_pos h

/-- `fe.set` on a packet register that is not PENDING: one that is FULL stands, and another becomes FULL with its lanes, and its waiters wake. -/
theorem exec_feSet_v (h : s.FreeV a) :
    exec (.feSet a .v) s = .next (advance 4 { s with
      cell := if (s.cell.vreg a).st = .full then s.cell else (s.cell.putV a { s.cell.vreg a with st := .full }).wakeOn (.regV a) }) :=
  congrArg Host.Outcome.next (freeV_free _ h)

/-- `fe.set` waits for a packet register that is PENDING (R98). -/
theorem exec_feSet_v_pending (h : (s.cell.vreg a).st = .pending) : exec (.feSet a .v) s = .next (hold .staying s) :=
  congrArg Host.Outcome.next (freeV_pending _ h)

theorem exec_feClr_v : exec (.feClr a .v) s = .next (freeV a s (advance 4 (s.onCell (Cell.putV a { s.cell.vreg a with st := .empty })))) := rfl

theorem exec_feTest_v (p : PIdx) : exec (.feTest p a .v) s = .next (s.wroteP p ((s.cell.vreg a).st == .full)) := rfl

theorem exec_park_v_full (h : (s.cell.vreg a).st = .full) : exec (.park a .v) s = .next (advance 4 s) :=
  congrArg Host.Outcome.next (if_pos h)

theorem exec_park_v_empty (h : (s.cell.vreg a).st ≠ .full) : exec (.park a .v) s = .next (park (.regV a) s) :=
  congrArg Host.Outcome.next (if_neg h)

theorem feForms_v_full (h : (s.cell.vreg a).st = .full) (p : PIdx) :
    exec (.feSet a .v) s = .next (advance 4 s) ∧ exec (.feTest p a .v) s = .next (s.wroteP p true) ∧ exec (.park a .v) s = .next (advance 4 s) ∧
    exec (.feClr a .v) s = .next (advance 4 (s.onCell (Cell.putV a { s.cell.vreg a with st := .empty }))) := by
  have hfree : s.FreeV a := by simp [State.FreeV, h]
  refine ⟨?_, ?_, exec_park_v_full h, ?_⟩
  · rw [exec_feSet_v hfree, if_pos h]
  · rw [exec_feTest_v, h]
    rfl
  · rw [exec_feClr_v, freeV_free _ hfree]

theorem feForms_v_empty (h : (s.cell.vreg a).st = .empty) (p : PIdx) :
    (∃ t, exec (.feSet a .v) s = .next t ∧ t.cell.pc = s.cell.pc + 4 ∧ t.cell.vreg a = { s.cell.vreg a with st := .full } ∧ t.cell.x = s.cell.x ∧
      ∀ n, n ≠ a → t.cell.vreg n = s.cell.vreg n) ∧
    exec (.feTest p a .v) s = .next (s.wroteP p false) ∧ exec (.feClr a .v) s = .next (advance 4 s) := by
  have hfull : (s.cell.vreg a).st ≠ .full := by simp [h]
  have hfree : s.FreeV a := by simp [State.FreeV, h]
  have hreg : { s.cell.vreg a with st := .empty } = s.cell.vreg a := by rw [← h]
  refine ⟨?_, ?_, ?_⟩
  · rw [exec_feSet_v hfree, if_neg hfull]
    have hv (n : VIdx) : ((s.cell.putV a { s.cell.vreg a with st := .full }).wakeOn (.regV a)).vreg n =
        (s.cell.putV a { s.cell.vreg a with st := .full }).vreg n := Cell.vreg_congr (by simp) n
    exact ⟨_, rfl, by simp, (hv a).trans (Cell.vreg_putV_same ..), by simp, fun n hn => (hv n).trans (Cell.vreg_putV_other hn ..)⟩
  · rw [exec_feTest_v, h]
    rfl
  · rw [exec_feClr_v, freeV_free _ hfree, onCell_unchanged (by rw [hreg, Cell.putV_self])]

theorem feForms_v_pending (h : (s.cell.vreg a).st = .pending) (p : PIdx) :
    exec (.feSet a .v) s = .next (hold .staying s) ∧ exec (.feTest p a .v) s = .next (s.wroteP p false) ∧ exec (.feClr a .v) s = .next (hold .staying s) := by
  refine ⟨?_, ?_, ?_⟩
  · exact exec_feSet_v_pending h
  · rw [exec_feTest_v, h]
    rfl
  · rw [exec_feClr_v, freeV_pending _ h]

end v

/-! ### Parks and holds (R17, R20) -/

section wait
variable {s : State}

/-- Handler h of a cell waits for a key, from the PC of an earlier cell, and the core is free; the registers stand (R20). -/
structure Cell.ParkedOn (c c' : Cell) (h : BitVec 6) (k : ParkKey) : Prop where
  cur : c'.cur = none
  st : (c'.hnd[h.toNat]'h.isLt).st = .parked
  pc : (c'.hnd[h.toNat]'h.isLt).pc = c.pc
  key : (c'.hnd[h.toNat]'h.isLt).key = some k
  x : c'.x = c.x
  v : c'.v = c.v

/-- With room in the wait table, outside a trap handler, a park takes the entry of the handler that runs. -/
theorem park_entry {h : BitVec 6} (k : ParkKey) (ht : s.cell.k.t = false) (hc : s.cell.cur = some h) (hw : s.cell.waitEntries < 64) :
    park k s = s.onCell (Cell.parkEntry h k false) := by
  simp [park, ht, hc, hw]

theorem parkedOn_park {h : BitVec 6} (k : ParkKey) (ht : s.cell.k.t = false) (hc : s.cell.cur = some h) (hw : s.cell.waitEntries < 64) :
    s.cell.ParkedOn (park k s).cell h k := by
  rw [park_entry k ht hc hw]
  constructor <;> simp [Cell.parkEntry, Cell.onHnd]

/-- A source that is PENDING, or EMPTY with reader mode park, holds the instruction (R17). -/
theorem readX_held {a : XIdx} (k : Word → State) (h : (s.cell.xreg a).st = .pending ∨ ((s.cell.xreg a).st = .empty ∧ s.cell.trapModeX a = false)) :
    readX a s k = hold (.expiring (.regX a)) s := by
  obtain h | ⟨h, hm⟩ := h
  · exact readX_pending k h
  · simp [readX, h, hm]

theorem readV_held {a : VIdx} (k : VReg → State) (h : (s.cell.vreg a).st = .pending ∨ ((s.cell.vreg a).st = .empty ∧ s.cell.trapModeV a = false)) :
    readV a s k = hold (.expiring (.regV a)) s := by
  obtain h | ⟨h, hm⟩ := h
  · simp [readV, h]
  · simp [readV, h, hm]

/-! ### Packet instructions whose first source is held -/

section
variable {a : VIdx} (h : (s.cell.vreg a).st = .pending ∨ ((s.cell.vreg a).st = .empty ∧ s.cell.trapModeV a = false))
include h

theorem packet1_held (rounds : Bool) (d : VIdx) (f : FmtDesc) (op : Nat → Nat → Nat × Flags) : packet1 rounds d a f op s = hold (.expiring (.regV a)) s := by
  rw [packet1, readV_held _ h]

theorem packet2_held (rounds : Bool) (d b : VIdx) (f : FmtDesc) (op : Nat → Nat → Nat → Nat × Flags) :
    packet2 rounds d a b f op s = hold (.expiring (.regV a)) s := by
  rw [packet2, readV_held _ h]

theorem viExact_held (d b : VIdx) (k : BitVec 3) (op : Int → Int → Int) : viExact d a b k op s = hold (.expiring (.regV a)) s := by
  unfold viExact
  exact packet2_held h ..

theorem exec_vadd_held (d b : VIdx) (k : BitVec 3) : exec (.vadd d a b k) s = .next (hold (.expiring (.regV a)) s) :=
  congrArg Host.Outcome.next (viExact_held h ..)

theorem exec_vabs_held (d : VIdx) (k : BitVec 3) : exec (.vabs d a k) s = .next (hold (.expiring (.regV a)) s) :=
  congrArg Host.Outcome.next (packet1_held h ..)

theorem exec_vfadd_held (d b : VIdx) (f : FmtDesc) : exec (.vfadd d a b f) s = .next (hold (.expiring (.regV a)) s) :=
  congrArg Host.Outcome.next (packet2_held h ..)

theorem exec_vcvt_held (d : VIdx) (f g : FmtDesc) : exec (.vcvt d a f g) s = .next (hold (.expiring (.regV a)) s) :=
  congrArg Host.Outcome.next (readV_held _ h)

end

/-- Settles O14: the register forms by the state of their register; every instruction listed reads the register first, and its hold ends in a park. -/
theorem registerStates : Obligations.RegisterStates := by
  refine ⟨⟨fun a p s h => feForms_full h p, fun a p s h => feForms_empty h p, fun a p s h => feForms_pending h p, fun a p s h => feForms_v_full h p,
    fun a p s h => feForms_v_empty h p, fun a p s h => feForms_v_pending h p, fun a s h ha ht hc hw => ?_, fun a s h ha ht hc hw => ?_⟩,
    fun a s ha d b k f g => ?_, fun a s ha => ⟨fun d b w p i disp => ?_, fun h hk hc ht hw => ?_⟩⟩
  · obtain ⟨hcur, hst, hpc, hkey, -, hv⟩ := parkedOn_park (.regV a) ht hc hw
    exact ⟨_, exec_park_v_empty ha, hcur, hst, hpc, hkey, hv⟩
  · obtain ⟨hcur, hst, hpc, hkey, hx, -⟩ := parkedOn_park (.regX a) ht hc hw
    exact ⟨_, exec_park_empty ha, hcur, hst, hpc, hkey, hx⟩
  · simp only [List.forall_mem_cons]
    exact ⟨exec_vadd_held ha d b k, exec_vabs_held ha d k, exec_vfadd_held ha d b f, exec_vcvt_held ha d f g, List.forall_mem_nil _⟩
  · have held {j : Instr} {k} (hj : exec j s = .next (readX a s k)) : exec j s = .next (hold (.expiring (.regX a)) s) :=
      hj.trans (congrArg Host.Outcome.next (readX_held k ha))
    simp only [List.forall_mem_cons]
    exact ⟨held rfl, held rfl, held rfl, held rfl, held rfl, held rfl, held rfl, held rfl, held rfl, List.forall_mem_nil _⟩
  · obtain ⟨hcur, hst, hpc, hkey, -, -⟩ := parkedOn_park (.regX a) ht hc hw
    exact ⟨_, exec_holdExpiry_here hk (by rw [park_entry _ ht hc hw]; rfl), hcur, hst, hpc, hkey⟩

end wait

end Sys2Proof.Machine
end

section
/-! Cell-store words and reader modes (R14, R18, R99, R100): the word forms of major 0x24, `fe.mode`, and the trap on the read of an EMPTY register. -/

namespace Sys2Proof.Machine

/-! ### Full bits of words (R14) -/

theorem Cell.wordFull_emptyWord (o q : Nat) (c : Cell) : (c.emptyWord o).wordFull q = (!decide (q / 4 = o / 4) && c.wordFull q) := by
  show (!sget false (sput false (o / 4) true c.emptyWords) (q / 4)) = _
  by_cases h : q / 4 = o / 4
  · simp [h]
  · simp [h, sget_sput_other false true h, Cell.wordFull]

@[simp] theorem Cell.fillWord_pc (o : Nat) (c : Cell) : (c.fillWord o).pc = c.pc := by simp [Cell.fillWord]

/-! ### The address of a word (R99) -/

section word
variable {s : State} {a : XIdx} {A : Word}

theorem onWord_outside (ha : s.HasX a A) (h : ∀ off, regionOf A ≠ .cell off) (k : Nat → State) :
    onWord a s k = raise cFE_SPACE 0 (A.setWidth 32) s := by
  rw [onWord, readX_has ha]
  split
  · next off hr => exact (h off hr).elim
  · rfl

variable {off : Nat}

theorem onWord_misaligned (ha : s.HasX a A) (hr : regionOf A = .cell off) (hal : off % 4 ≠ 0) (k : Nat → State) :
    onWord a s k = raise cMISALIGNED 0 (A.setWidth 32) s := by
  rw [onWord, readX_has ha]
  simp only [hr]
  rw [if_pos hal]

theorem onWord_aligned (ha : s.HasX a A) (hr : regionOf A = .cell off) (hal : off % 4 = 0) (hb : s.cell.storeBusy = false) (k : Nat → State) :
    onWord a s k = k off := by
  rw [onWord, readX_has ha]
  simp [hr, hal, hb]

/-- Each word form is its action at the address in its register. -/
theorem wordForm_onWord (a : XIdx) (p : PIdx) (s : State) :
    ∀ i ∈ [Instr.feSet a .word, .feClr a .word, .feTest p a .word, .park a .word], ∃ k, exec i s = .next (onWord a s k) := by
  simp only [List.forall_mem_cons]
  exact ⟨⟨_, rfl⟩, ⟨_, rfl⟩, ⟨_, rfl⟩, ⟨_, rfl⟩, List.forall_mem_nil _⟩

/-- A word form at an aligned word of the cell store, with no access to the store on its way, acts at once. -/
theorem exec_wordForm {i : Instr} {k : Nat → State} (ha : s.HasX a A) (hr : regionOf A = .cell off) (hal : off % 4 = 0) (hb : s.cell.storeBusy = false)
    (hi : exec i s = .next (onWord a s k)) : exec i s = .next (k off) := by
  rw [hi, onWord_aligned ha hr hal hb]

end word

/-! ### Reader modes (R18, R100) -/

/-- A mode register with one bit put in place. -/
def putMode (m : Bool) (a : BitVec 5) (w : W32) : W32 := (w &&& ~~~(1#32 <<< a.toNat)) ||| (if m then 1#32 <<< a.toNat else 0)

/-- The bit put in place reads as it was put, and the others stand. -/
theorem getLsbD_putMode (m : Bool) (a n : BitVec 5) (w : W32) : (putMode m a w).getLsbD n.toNat = if n = a then m else w.getLsbD n.toNat := by
  have hn : n.toNat < 32 := n.isLt
  have hbit : (1#32 <<< a.toNat).getLsbD n.toNat = decide (n = a) := by
    rw [BitVec.getLsbD_shiftLeft, BitVec.getLsbD_one, Bool.eq_iff_iff, decide_eq_true_eq, ← BitVec.toNat_inj]
    simp only [Bool.and_eq_true, Bool.not_eq_true', decide_eq_true_eq, decide_eq_false_iff_not]
    omega
  have hset : (if m then 1#32 <<< a.toNat else (0 : W32)).getLsbD n.toNat = (m && decide (n = a)) := by
    cases m
    · simp
    · exact hbit
  rw [putMode, BitVec.getLsbD_or, BitVec.getLsbD_and, BitVec.getLsbD_not, hbit, hset]
  by_cases h : n = a <;> simp [h, hn]

section mode
variable {m : Bool} {a : BitVec 5} {s : State}

/-- The mode of `x0` is not written: bit 0 of `KFEMODE0` is reserved (R30). -/
theorem exec_feMode_zero : exec (.feMode m 0 false) s = .next (advance 4 s) := rfl

theorem exec_feMode_x (h : a ≠ 0) :
    exec (.feMode m a false) s = .next (advance 4 (s.onCell fun c => { c with k := { c.k with femode0 := putMode m a c.k.femode0 } })) :=
  congrArg (fun k => Host.Outcome.next (advance 4 (s.onCell fun c => { c with k := k }))) (if_neg h)

theorem exec_feMode_v :
    exec (.feMode m a true) s = .next (advance 4 (s.onCell fun c => { c with k := { c.k with femode1 := putMode m a c.k.femode1 } })) := rfl

/-- The register's number as the detail of FE_TRAP: bits 7:5 name the file, 0 for `x` (R23). -/
theorem detail_xreg : ∀ a : XIdx, (0#3 ++ a : Byte) = a.setWidth 8 := by decide

/-- The read of an EMPTY register whose mode is trap traps with FE_TRAP, and the instruction is not performed (R18, R23). -/
theorem readX_trapped (he : (s.cell.xreg a).st = .empty) (hm : s.cell.trapModeX a = true) (hv : s.cell.k.tven = true) (ht : s.cell.k.t = false)
    (k : Word → State) : readX a s k = trapEntry cFE_TRAP (a.setWidth 8) 0 s.cell.pc s := by
  have hread : readX a s k = trapHere cFE_TRAP (0#3 ++ a) 0 s := by simp [readX, he, hm]
  rw [hread, trapHere, trap_taken hv ht, detail_xreg]

end mode

/-- Settles O15: the word forms by the place of their address, `fe.mode` by the bit that it writes. -/
theorem wordStatesAndReaderModes : Obligations.WordStatesAndReaderModes := by
  refine ⟨fun a A p s ha => ⟨fun hout i hi => ?_, fun off hr => ⟨fun hal i hi => ?_, fun hal hb => ?_⟩⟩, fun m a s => ⟨?_, ?_, fun d b he hm hv ht => ?_⟩⟩
  · obtain ⟨k, hk⟩ := wordForm_onWord a p s i hi
    rw [hk, onWord_outside ha hout]
  · obtain ⟨k, hk⟩ := wordForm_onWord a p s i hi
    rw [hk, onWord_misaligned ha hr hal]
  · have acts {i : Instr} {k} : exec i s = .next (onWord a s k) → exec i s = .next (k off) := exec_wordForm ha hr hal hb
    refine ⟨(acts rfl).trans rfl, fun hfull => ?_, ⟨_, acts rfl, ?_, ?_, ?_, fun o ho => ?_⟩, ⟨_, acts rfl, ?_, rfl, rfl, fun o ho => ?_⟩⟩
    · exact (acts rfl).trans (congrArg Host.Outcome.next (if_pos hfull))
    · exact (Cell.wordFull_fillWord ..).trans (by simp)
    · simp
    · simp
    · exact (Cell.wordFull_fillWord ..).trans (by simp [ho])
    · exact (Cell.wordFull_emptyWord ..).trans (by simp)
    · exact (Cell.wordFull_emptyWord ..).trans (by simp [ho])
  · by_cases h0 : a = 0
    · subst h0
      exact ⟨_, exec_feMode_zero, rfl, rfl, rfl, fun n => by simp [Cell.trapModeX]⟩
    · refine ⟨_, exec_feMode_x h0, rfl, rfl, rfl, fun n => ?_⟩
      rw [if_congr (and_iff_left h0) rfl rfl]
      exact getLsbD_putMode m a n s.cell.k.femode0
  · exact ⟨_, exec_feMode_v, rfl, rfl, rfl, fun n => getLsbD_putMode m a n s.cell.k.femode1⟩
  · exact congrArg Host.Outcome.next (readX_trapped he hm hv ht _)

end Sys2Proof.Machine
end

section
/-! What a widening receive makes of the elements of a packet (R33, R38, R131, R151). -/

namespace Sys2Proof.Machine

/-! ### The elements of lanes (R33) -/

theorem width_le (f : FmtDesc) : width f ≤ 32 := by
  unfold width
  split <;> decide

theorem perLane_pos (f : FmtDesc) : 0 < 32 / width f := Nat.div_pos (width_le f) (width_pos f)

theorem unpack_nil (f : FmtDesc) : unpack f [] = [] := rfl

theorem unpack_cons (f : FmtDesc) (w : W32) (l : List W32) :
    unpack f (w :: l) = (List.range (32 / width f)).map (fun j => bits w.toNat (j * width f) (width f)) ++ unpack f l := rfl

theorem length_unpack (f : FmtDesc) (l : List W32) : (unpack f l).length = 32 / width f * l.length := by
  induction l with
  | nil => rfl
  | cons w l ih => rw [unpack_cons, List.length_append, List.length_map, List.length_range, ih, List.length_cons, Nat.mul_succ, Nat.add_comm]

/-- Element i lies in lane i / n of n elements a lane, in its place there. -/
theorem getElem?_unpack (f : FmtDesc) {l : List W32} {i : Nat} (hi : i < 32 / width f * l.length) :
    (unpack f l)[i]? = some (bits (l.getD (i / (32 / width f)) 0).toNat (i % (32 / width f) * width f) (width f)) := by
  induction l generalizing i with
  | nil => simp at hi
  | cons w l ih =>
    have hper := perLane_pos f
    rw [unpack_cons]
    rcases Nat.lt_or_ge i (32 / width f) with h | h
    · rw [List.getElem?_append_left (by simpa using h), Nat.div_eq_of_lt h, Nat.mod_eq_of_lt h]
      simp [h]
    · obtain ⟨k, rfl⟩ := Nat.exists_eq_add_of_le h
      have hk : k < 32 / width f * l.length := by rw [List.length_cons, Nat.mul_succ] at hi; omega
      rw [List.getElem?_append_right (by simp), List.length_map, List.length_range, Nat.add_sub_cancel_left, ih hk, Nat.add_div_left _ hper,
        Nat.add_mod_left]
      rfl

/-! ### Scales (R38, R131) -/

section
variable {C : Channel} {c : Cell} {lane : W32} {k : Nat}

theorem scaleOf_entry (h : C.ssrc = false) : C.scaleOf c lane k = some (c.k.scale[C.scale.toNat]'C.scale.isLt).toNat := by simp [Channel.scaleOf, h]

/-- The scale lane has a byte for each of four blocks of 16 or 32 elements, and none for a further block. -/
theorem scaleOf_lane (h : C.ssrc = true) (hb : C.blk = 1 ∨ C.blk = 2) :
    C.scaleOf c lane k = let i := k / (if C.blk = 1 then 16 else 32); if 3 < i then none else some (bits lane.toNat (8 * i) 8) := by
  have h0 : ¬ C.blk = 0 := by
    intro h0
    rw [h0] at hb
    exact absurd hb (by decide)
  rw [Channel.scaleOf, h, Bool.not_true, if_neg Bool.false_ne_true, if_neg h0]

end

theorem scaled_finite {sc : Nat} (h : sc ≠ 0xFF) (neg : Bool) (m : Nat) (e : Int) : scaled (.fin neg m e) sc = .fin neg m (e + ((sc : Int) - 127)) := by
  simp [scaled, scaleExp, h]

theorem scaled_inf {sc : Nat} (h : sc ≠ 0xFF) (neg : Bool) : scaled (.inf neg) sc = .inf neg := by
  simp [scaled, scaleExp, h]

theorem scaled_nan (sig : Bool) (sc : Nat) : scaled (.nan sig) sc = .nan sig := rfl

/-- A NaN scale makes NaN of every element that is none. -/
theorem scaled_of_nanScale {x : Num} (h : ∀ sig, x ≠ .nan sig) : scaled x 0xFF = .nan false := by
  cases x with
  | nan sig => exact absurd rfl (h sig)
  | inf neg => rfl
  | fin neg m e => rfl

theorem rat_scaled (neg : Bool) (m : Nat) (e k : Int) : rat neg m (e + k) = rat neg m e * 2 ^ k := by
  rw [rat, rat, zpow_add₀ (by norm_num), mul_assoc]

/-! ### The destination (R151) -/

/-- The format that the elements of a format are converted to on receipt. -/
def widened (f : FmtDesc) : FmtDesc := if f.isInt then fINT32 else fFP32

theorem isInt_of_finite {f : FmtDesc} {c : Nat} (h : ∀ n m e, valueOf f c ≠ .fin n m e) : f.isInt = false := by
  by_contra hf
  exact h _ _ _ (if_pos (by simpa using hf))

/-- NaN is delivered to FP32 as its quiet NaN, and to INT32 as 0 with NV (R46). -/
theorem roundTo_widened_nan (f : FmtDesc) (r : Rounding) (rnd : Nat) (sig : Bool) :
    roundTo (widened f) r rnd (.nan sig) = if f.isInt then (0, flNV) else (0x7FC0_0000, if sig then flNV else 0) := by
  unfold widened
  cases f.isInt <;> cases sig <;> rfl

theorem roundTo_widened_inf {f : FmtDesc} (hf : f.isInt = false) (r : Rounding) (rnd : Nat) (neg : Bool) :
    roundTo (widened f) r rnd (.inf neg) = (if neg then 0xFF80_0000 else 0x7F80_0000, 0) := by
  rw [widened, hf]
  cases neg <;> rfl

/-! ### Groups of eight (R151) -/

/-- What a widening receive makes of the j-th element of a group, of a given code and scale. -/
def Channel.widenOne (C : Channel) (c : Cell) (j code scale : Nat) : Nat × Flags :=
  roundTo (widened C.fmt) (C.rounding c) (drawBits c.k.dkey c.draw j 0) (scaled (valueOf C.fmt code) scale)

section
variable (C : Channel) (c : Cell) (lanes : List W32) (g : Nat)

/-- The lanes of a packet that hold elements. -/
def Channel.data (C : Channel) (lanes : List W32) : List W32 := if C.ssrc then lanes.dropLast else lanes

/-- The elements of a group. -/
def Channel.group (C : Channel) (lanes : List W32) (g : Nat) : List Nat := ((unpack C.fmt (C.data lanes)).drop (8 * g)).take 8

/-- The scales of the elements of a group. -/
def Channel.scales (C : Channel) (c : Cell) (lanes : List W32) (g : Nat) : List (Option Nat) :=
  (List.range (C.group lanes g).length).map fun j => C.scaleOf c (lanes.getLastD 0) (8 * g + j)

theorem widen_eq : widen C c lanes g =
    if (unpack C.fmt (C.data lanes)).length ≤ 8 * g then none
    else if (C.scales c lanes g).any Option.isNone then none
    else some (collect ((C.group lanes g).mapIdx fun j e => C.widenOne c j e (((C.scales c lanes g).getD j none).getD 127))) := rfl

theorem length_group : (C.group lanes g).length = min 8 (32 / width C.fmt * (C.data lanes).length - 8 * g) := by
  rw [Channel.group, List.length_take, List.length_drop, length_unpack]

variable {C c lanes g}

theorem getElem?_group {j : Nat} (hj : j < (C.group lanes g).length) :
    (C.group lanes g)[j]? = some (bits ((C.data lanes).getD ((8 * g + j) / (32 / width C.fmt)) 0).toNat
      ((8 * g + j) % (32 / width C.fmt) * width C.fmt) (width C.fmt)) := by
  rw [length_group] at hj
  rw [Channel.group, List.getElem?_take_of_lt (by omega), List.getElem?_drop]
  exact getElem?_unpack C.fmt (by omega)

/-- A group past the elements of the packet is refused. -/
theorem widen_past (h : 32 / width C.fmt * (C.data lanes).length ≤ 8 * g) : widen C c lanes g = none := by
  rw [widen_eq, if_pos (by rw [length_unpack]; exact h)]

/-- A group with an element that has no scale is refused. -/
theorem widen_unscaled {j : Nat} (hj : j < (C.group lanes g).length) (h : C.scaleOf c (lanes.getLastD 0) (8 * g + j) = none) : widen C c lanes g = none := by
  have hany : (C.scales c lanes g).any Option.isNone = true :=
    List.any_eq_true.2 ⟨none, List.mem_map.2 ⟨j, List.mem_range.2 hj, h⟩, rfl⟩
  rw [widen_eq]
  rw [if_pos hany, ite_self]

/-- A group whose elements all have a scale is converted element by element. -/
theorem widen_group {scale : Nat → Nat} (h : 8 * g < 32 / width C.fmt * (C.data lanes).length)
    (hs : ∀ j < (C.group lanes g).length, C.scaleOf c (lanes.getLastD 0) (8 * g + j) = some (scale (8 * g + j))) :
    ∃ q : List (Nat × Flags), widen C c lanes g = some (q.map Prod.fst, orFlags (q.map Prod.snd)) ∧ q.length = (C.group lanes g).length ∧
      ∀ j < (C.group lanes g).length, q[j]? = some (C.widenOne c j (bits ((C.data lanes).getD ((8 * g + j) / (32 / width C.fmt)) 0).toNat
        ((8 * g + j) % (32 / width C.fmt) * width C.fmt) (width C.fmt)) (scale (8 * g + j))) := by
  have hlen : ¬ (unpack C.fmt (C.data lanes)).length ≤ 8 * g := by rw [length_unpack]; omega
  have hany : ¬ (C.scales c lanes g).any Option.isNone = true := by
    simp only [Channel.scales, List.any_map, List.any_eq_true, List.mem_range, Function.comp_apply, not_exists, not_and]
    intro j hj
    rw [hs j hj]
    exact Bool.false_ne_true
  refine ⟨_, by rw [widen_eq, if_neg hlen, if_neg hany]; rfl, List.length_mapIdx, fun j hj => ?_⟩
  have hscale : (C.scales c lanes g).getD j none = some (scale (8 * g + j)) := by
    rw [← hs j hj]
    simp [Channel.scales, hj]
  rw [List.getElem?_mapIdx, getElem?_group hj, hscale]
  rfl

end

/-! ### One element (R151) -/

section
variable {C : Channel} {c : Cell} {j code sc : Nat}

theorem widenOne_finite {neg : Bool} {m : Nat} {e : Int} (h : valueOf C.fmt code = .fin neg m e) (hs : sc ≠ 0xFF) :
    C.widenOne c j code sc = roundTo (widened C.fmt) (C.rounding c) (drawBits c.k.dkey c.draw j 0) (.fin neg m (e + ((sc : Int) - 127))) := by
  rw [Channel.widenOne, h, scaled_finite hs]

theorem widenOne_nan {sig : Bool} (h : valueOf C.fmt code = .nan sig) : C.widenOne c j code sc = (0x7FC0_0000, if sig then flNV else 0) := by
  have hf : C.fmt.isInt = false := isInt_of_finite (c := code) (by simp [h])
  rw [Channel.widenOne, h, scaled_nan, roundTo_widened_nan, hf]
  rfl

theorem widenOne_inf {neg : Bool} (h : valueOf C.fmt code = .inf neg) (hs : sc ≠ 0xFF) :
    C.widenOne c j code sc = (if neg then 0xFF80_0000 else 0x7F80_0000, 0) := by
  have hf : C.fmt.isInt = false := isInt_of_finite (c := code) (by simp [h])
  rw [Channel.widenOne, h, scaled_inf hs, roundTo_widened_inf hf]

theorem widenOne_nanScale (h : ∀ sig, valueOf C.fmt code ≠ .nan sig) :
    C.widenOne c j code 0xFF = if C.fmt.isInt then (0, flNV) else (0x7FC0_0000, 0) := by
  rw [Channel.widenOne, scaled_of_nanScale h, roundTo_widened_nan]
  rfl

end

end Sys2Proof.Machine
end

section
/-! Packets taken from channels (R117, R120, R123, R150, R153, R160): the oldest packet of a channel, and what `recv`, `peek`, `ctl.wait`, `drop` and
`clen` do with it. -/

namespace Sys2Proof.Machine

/-! ### Channels of a cell -/

@[simp] theorem Cell.chanAt_onChan_same (ch : ChIdx) (f : Channel → Channel) (c : Cell) : (c.onChan ch f).chanAt ch = f (c.chanAt ch) :=
  Vector.getElem_set_self _

theorem Cell.chanAt_congr {c c' : Cell} (h : c'.chan = c.chan) (ch : ChIdx) : c'.chanAt ch = c.chanAt ch := by
  simp only [Cell.chanAt, h]

/-! ### The place that a packet frees (R123, R383) -/

/-- The place of a packet of a conversation goes back to its home besides. -/
theorem freed_conv {home : Byte} {entry : BitVec 12} {role : BitVec 3} {p : Packet} (h : p.conv = some (home, entry, role)) (at' : CellId) (ch : ChIdx)
    (s : State) :
    freed at' ch p s = if home = s.pkg.number then
        (freed at' ch { p with conv := none } s).onPkg fun k => { k with convCredits := k.convCredits ++ [(entry, role, at', ch)] }
      else emit (.convCredit home entry role at' ch) (freed at' ch { p with conv := none } s) := by
  simp only [freed, h]

theorem freed_fabric_cell {p : Packet} (h : p.conv = none) (at' : CellId) (ch : ChIdx) (s : State) : (freed at' ch p s).cell = s.cell := by
  simp only [freed, h]
  split <;> rfl

theorem freed_fabric_mem {p : Packet} (h : p.conv = none) (at' : CellId) (ch : ChIdx) (s : State) : (freed at' ch p s).pkg.mem = s.pkg.mem := by
  simp only [freed, h]
  split
  · rfl
  · rw [State.onPkg_pkg]
    split
    · rfl
    · split <;> rfl

@[simp] theorem freed_cell (at' : CellId) (ch : ChIdx) (p : Packet) (s : State) : (freed at' ch p s).cell = s.cell := by
  cases h : p.conv with
  | none => exact freed_fabric_cell h at' ch s
  | some v =>
    rw [freed_conv h]
    split <;> exact freed_fabric_cell rfl at' ch s

@[simp] theorem freed_mem (at' : CellId) (ch : ChIdx) (p : Packet) (s : State) : (freed at' ch p s).pkg.mem = s.pkg.mem := by
  cases h : p.conv with
  | none => exact freed_fabric_mem h at' ch s
  | some v =>
    rw [freed_conv h]
    split <;> exact freed_fabric_mem rfl at' ch s

/-- The credit of a packet of a circuit that does not branch starts back at once (R123). -/
theorem freed_credit {p : Packet} {s : State} {c : CellId} {q : BitVec 3} {n : Nat} (hsrc : p.src = some (c, q, n)) (hconv : p.conv = none)
    (hj : s.pkg.joins = []) (at' : CellId) (ch : ChIdx) : (freed at' ch p s).pkg.creditWire = s.pkg.creditWire ++ [(c, q)] := by
  simp [freed, hsrc, hconv, hj]

/-! ### The oldest packet taken or marked read (R150) -/

section
variable {ch : ChIdx} {P : Packet} {r : List Packet} {s : State}

/-- A packet leaves a QUEUE channel. -/
theorem takePacket_queue (hp : (s.cell.chanAt ch).pkts = P :: r) (hl : (s.cell.chanAt ch).latest = false) :
    takePacket ch s = freed s.here ch P (s.onCell (Cell.onChan ch fun C => { C with pkts := r })) := by
  simp [takePacket, hp, hl]

/-- It stays in a LATEST one, as read. -/
theorem takePacket_latest (hp : (s.cell.chanAt ch).pkts = P :: r) (hl : (s.cell.chanAt ch).latest = true) :
    takePacket ch s = s.onCell (Cell.onChan ch fun C => { C with pkts := { P with read := true } :: r }) := by
  simp [takePacket, hp, hl]

theorem takePacket_empty (hp : (s.cell.chanAt ch).pkts = []) : takePacket ch s = s := by
  simp [takePacket, hp]

/-- What `recv` does with the packet that it has read, and what `peek` does. -/
def takeOrMark (remove : Bool) (ch : ChIdx) (s : State) : State := if remove then takePacket ch s else markRead ch s

/-- The packets of a channel of which the oldest was read. -/
def Channel.after (C : Channel) (remove : Bool) (P : Packet) (r : List Packet) : List Packet :=
  if remove && !C.latest then r else { P with read := true } :: r

theorem takeOrMark_cell (remove : Bool) (hp : (s.cell.chanAt ch).pkts = P :: r) :
    (takeOrMark remove ch s).cell = s.cell.onChan ch fun C => { C with pkts := (s.cell.chanAt ch).after remove P r } := by
  cases remove with
  | false => simp [takeOrMark, markRead, Channel.after, Cell.onChan, hp]
  | true =>
    cases hl : (s.cell.chanAt ch).latest
    · simp [takeOrMark, takePacket_queue hp hl, Channel.after, hl]
    · simp [takeOrMark, takePacket_latest hp hl, Channel.after, hl]

theorem takeOrMark_mem (remove : Bool) (hp : (s.cell.chanAt ch).pkts = P :: r) : (takeOrMark remove ch s).pkg.mem = s.pkg.mem := by
  cases remove with
  | false => rfl
  | true =>
    cases hl : (s.cell.chanAt ch).latest
    · simp [takeOrMark, takePacket_queue hp hl]
    · simp [takeOrMark, takePacket_latest hp hl]

end

/-! ### What an instruction finds (R150) -/

/-- The channel exists and no node owns it. -/
def Channel.Own (C : Channel) : Prop := C.en = true ∧ C.tgt.toNat < 64

section
variable {ch : ChIdx} {P : Packet} {r : List Packet} {s : State}

theorem misformed_channel (ch : ChIdx) (s : State) : misformed ch.toNat s = raise cCHANNEL_FORMAT (ch.setWidth 8) 0 s := by
  rw [misformed, BitVec.ofNat_toNat]

theorem ownChannel_own (h : (s.cell.chanAt ch).Own) (k : Channel → State) : ownChannel ch s k = k (s.cell.chanAt ch) := by
  obtain ⟨he, ht⟩ := h
  simp [ownChannel, he, ht]

theorem ownChannel_absent (h : (s.cell.chanAt ch).en = false ∨ 64 ≤ (s.cell.chanAt ch).tgt.toNat) (k : Channel → State) :
    ownChannel ch s k = raise cCHANNEL_FORMAT (ch.setWidth 8) 0 s := by
  rw [← misformed_channel]
  exact if_pos (by simpa using h)

theorem withPacket_absent (h : (s.cell.chanAt ch).en = false ∨ 64 ≤ (s.cell.chanAt ch).tgt.toNat) (k : Channel → Packet → State) :
    withPacket ch s k = raise cCHANNEL_FORMAT (ch.setWidth 8) 0 s := ownChannel_absent h _

theorem withPacket_empty (h : (s.cell.chanAt ch).Own) (hp : (s.cell.chanAt ch).pkts = []) (k : Channel → Packet → State) :
    withPacket ch s k = park (.chanIn ch) s := by
  rw [withPacket, ownChannel_own h]
  simp [Channel.oldest, hp]

theorem withPacket_poisoned (h : (s.cell.chanAt ch).Own) (hp : (s.cell.chanAt ch).pkts = P :: r) (hP : P.psn = true) (k : Channel → Packet → State) :
    withPacket ch s k = raise cUNCORRECTABLE 0 0 s := by
  rw [withPacket, ownChannel_own h]
  simp [Channel.oldest, hp, hP]

theorem withPacket_found (h : (s.cell.chanAt ch).Own) (hp : (s.cell.chanAt ch).pkts = P :: r) (hP : P.psn = false) (k : Channel → Packet → State) :
    withPacket ch s k = k (s.cell.chanAt ch) P := by
  rw [withPacket, ownChannel_own h]
  simp [Channel.oldest, hp, hP]

end

/-! ### A packet on its way to a register (R15, R150) -/

/-- What a result of the cell's own units asks: no memory, no class and no slot, just its register. -/
def resultReq (op : AccOp) (dst : Dst) : Req := ⟨op, dst, 0, 0, 7, 0, false, false, false, false, []⟩

/-- An access that was issued is in flight still where none of what it has changed has changed since. -/
theorem State.Issued.congr {s u t : State} {a : Access} (h : s.Issued u a) (hi : t.cell.inflight = u.cell.inflight) (hpc : t.cell.pc = u.cell.pc)
    (hst : t.cell.store = u.cell.store) (hsb : t.cell.sb = u.cell.sb) (hx : t.cell.x = u.cell.x) (hv : t.cell.v = u.cell.v)
    (hm : t.pkg.mem = u.pkg.mem) : s.Issued t a := by
  obtain ⟨h1, h2, h3, h4, h5, h6, h7⟩ := h
  refine ⟨hi.trans h1, h2, hpc.trans h3, hm.trans h4, hst.trans h5, fun hs => ?_, ?_⟩
  · rw [Cell.slot, hsb]
    exact h6 hs
  · exact Dst.Pending.congr (d := a.dst) h7 rfl rfl hx hv

section
variable {s : State} {op : AccOp} {dst : Dst} {ch : ChIdx} {p : PIdx} {b remove draws : Bool} {P : Packet} {r : List Packet}

/-- The state that a read of a channel leaves: the access in flight, END in the predicate, the packet taken or marked, and the draw count past a
stochastic conversion. -/
def State.received (s : State) (remove draws : Bool) (op : AccOp) (dst : Dst) (p : PIdx) (b : Bool) (ch : ChIdx) : State :=
  let t := takeOrMark remove ch (setP p b ((resultReq op dst).issued .none [] false s))
  if draws then t.onCell fun c => { c with draw := c.draw + 1 } else t

theorem advance_setP (n : Nat) (p : PIdx) (b : Bool) (s : State) : advance n (setP p b s) = setP p b (advance n s) := by
  unfold setP Cell.putP
  split <;> rfl

theorem issued_chan (q : Req) (loc : Loc) (after : List Nat) (l1 : Bool) (s : State) : (q.issued loc after l1 s).cell.chan = s.cell.chan := by
  have hp (d : Dst) (u : State) : (pendDst d u).cell.chan = u.cell.chan := by cases d <;> simp [pendDst]
  rw [issued_eq, advance_cell_chan, hp, State.onCell_cell, Cell.joined_eq]

theorem received_chanAt : (setP p b ((resultReq op dst).issued .none [] false s)).cell.chanAt ch = s.cell.chanAt ch :=
  Cell.chanAt_congr ((Cell.putP_chan p b _).trans (issued_chan ..)) ch

/-- A stochastic conversion moves the draw count alone (R44). -/
theorem received_drawn {α : Type} {field : Cell → α} (hdraw : ∀ c n, field { c with draw := n } = field c) :
    field (s.received remove draws op dst p b ch).cell = field (s.received remove false op dst p b ch).cell := by
  cases draws
  · rfl
  · exact hdraw _ _

section
variable (hp : (s.cell.chanAt ch).pkts = P :: r)
include hp

theorem received_cell : (s.received remove false op dst p b ch).cell =
    (setP p b ((resultReq op dst).issued .none [] false s)).cell.onChan ch fun C => { C with pkts := (s.cell.chanAt ch).after remove P r } := by
  refine (takeOrMark_cell remove ((congrArg Channel.pkts received_chanAt).trans hp)).trans ?_
  rw [received_chanAt]

/-- A read of a channel changes of the cell, beside what the issue does, its channels, a predicate and the draw count. -/
theorem received_field {α : Type} {field : Cell → α} (hchan : ∀ f c, field (Cell.onChan ch f c) = field c) (hpred : ∀ c, field (Cell.putP p b c) = field c)
    (hdraw : ∀ c n, field { c with draw := n } = field c) :
    field (s.received remove draws op dst p b ch).cell = field ((resultReq op dst).issued .none [] false s).cell := by
  rw [received_drawn hdraw, received_cell hp, hchan]
  exact hpred _

theorem received_pkts : ((s.received remove draws op dst p b ch).cell.chanAt ch).pkts = (s.cell.chanAt ch).after remove P r := by
  rw [Cell.chanAt_congr (received_drawn (field := Cell.chan) fun _ _ => rfl), received_cell hp, Cell.chanAt_onChan_same]

theorem received_pred (h0 : p ≠ 0) : (s.received remove draws op dst p b ch).cell.pred p = b := by
  rw [Cell.pred_congr (received_drawn (field := Cell.p) fun _ _ => rfl), received_cell hp]
  exact Cell.pred_putP_same h0 b _

theorem received_issued : ∃ a, s.Issued (s.received remove draws op dst p b ch) a ∧ a.op = op ∧ a.dst = dst := by
  have hu : s.Issued ((resultReq op dst).issued .none [] false s) ((resultReq op dst).access .none [] false s.cell) := issued_of_request rfl rfl
  refine ⟨_, hu.congr ?_ ?_ ?_ ?_ ?_ ?_ ?_, rfl, rfl⟩
  · exact received_field hp (fun _ _ => rfl) (Cell.putP_inflight p b) fun _ _ => rfl
  · exact received_field hp (fun _ _ => rfl) (Cell.putP_pc p b) fun _ _ => rfl
  · exact received_field hp (fun _ _ => rfl) (Cell.putP_store p b) fun _ _ => rfl
  · exact received_field hp (fun _ _ => rfl) (Cell.putP_sb p b) fun _ _ => rfl
  · exact received_field hp (fun _ _ => rfl) (Cell.putP_x p b) fun _ _ => rfl
  · exact received_field hp (fun _ _ => rfl) (Cell.putP_v p b) fun _ _ => rfl
  · cases draws <;> exact takeOrMark_mem remove ((congrArg Channel.pkts received_chanAt).trans hp)

end

end

/-! ### `recv`, `peek` and `ctl.wait` (R150, R160) -/

section
variable {s : State} {d : VIdx} {x : XIdx} {ch : ChIdx} {p : PIdx} {remove : Bool} {P : Packet} {r : List Packet}
  (ho : (s.cell.chanAt ch).Own) (hp : (s.cell.chanAt ch).pkts = P :: r) (hP : P.psn = false)
include ho hp hP

theorem receive_plain (hd : s.FreeV d) : receive remove d ch none p s = s.received remove false (.packet P.lanes) (.v d) p P.ends ch := by
  rw [receive, withPacket_found ho hp hP]
  refine (freeV_free _ hd).trans ((withFlags_none _ _).trans ?_)
  rw [advance_setP]
  rfl

theorem receive_widened (hd : s.FreeV d) {g : BitVec 3} {l : List Nat} (hw : widen (s.cell.chanAt ch) s.cell P.lanes g.toNat = some (l, 0)) :
    receive remove d ch (some g) p s = s.received remove (((s.cell.chanAt ch).rounding s.cell).mode == 4) (.packet (l.map (BitVec.ofNat 32))) (.v d) p P.ends ch := by
  rw [receive, withPacket_found ho hp hP]
  simp only [hw]
  refine (freeV_free _ hd).trans ((withFlags_none _ _).trans ?_)
  rw [advance_setP]
  rfl

theorem receive_unwidened {g : BitVec 3} (hw : widen (s.cell.chanAt ch) s.cell P.lanes g.toNat = none) :
    receive remove d ch (some g) p s = raise cCHANNEL_FORMAT (ch.setWidth 8) 0 s := by
  rw [receive, withPacket_found ho hp hP]
  simp only [hw]
  exact misformed_channel ch s

theorem exec_ctlWait_one (hx : s.FreeX x) {u : W32} (hl : P.lanes = [u]) :
    exec (.ctlWait x ch) s = .next (s.received true false (.value (u.setWidth 64) 0) (.x x) 0 true ch) := by
  refine congrArg Host.Outcome.next ((withPacket_found ho hp hP _).trans ?_)
  rw [hl]
  exact freeX_free _ hx

theorem exec_ctlWait_two (hx : s.FreeX x) {u v : W32} (hl : P.lanes = [u, v]) :
    exec (.ctlWait x ch) s = .next (s.received true false (.value (v ++ u) 0) (.x x) 0 true ch) := by
  refine congrArg Host.Outcome.next ((withPacket_found ho hp hP _).trans ?_)
  rw [hl]
  exact freeX_free _ hx

theorem exec_ctlWait_more (hl : 2 < P.lanes.length) : exec (.ctlWait x ch) s = .next (raise cCHANNEL_FORMAT (ch.setWidth 8) 0 s) := by
  refine congrArg Host.Outcome.next ((withPacket_found ho hp hP _).trans ?_)
  rw [← misformed_channel]
  match P.lanes, hl with
  | _ :: _ :: _ :: _, _ => rfl

end

/-! ### `drop` and `clen` (R153) -/

section
variable {s : State} {d : XIdx} {ch : ChIdx} {P : Packet} {r : List Packet} (ho : (s.cell.chanAt ch).Own)
include ho

theorem exec_drop_nothing (h : (s.cell.chanAt ch).latest = true ∨ (s.cell.chanAt ch).pkts = []) : exec (.drop ch) s = .next (advance 4 s) := by
  refine congrArg Host.Outcome.next ((ownChannel_own ho _).trans (congrArg (advance 4) ?_))
  split
  · rfl
  next hl => exact takePacket_empty (h.resolve_left hl)

theorem exec_drop_oldest (hl : (s.cell.chanAt ch).latest = false) (hp : (s.cell.chanAt ch).pkts = P :: r) :
    exec (.drop ch) s = .next (advance 4 (freed s.here ch P (s.onCell (Cell.onChan ch fun C => { C with pkts := r })))) := by
  refine congrArg Host.Outcome.next ((ownChannel_own ho _).trans (congrArg (advance 4) ?_))
  rw [hl, if_neg Bool.false_ne_true, takePacket_queue hp hl]

theorem exec_clen_empty (hd : s.FreeX d) (hp : (s.cell.chanAt ch).pkts = []) : exec (.clen d ch) s = .next (s.wroteX d 0) := by
  refine congrArg Host.Outcome.next ((ownChannel_own ho _).trans ((retireX_wrote hd _).trans ?_))
  rw [Channel.oldest, hp]
  rfl

theorem exec_clen_oldest (hd : s.FreeX d) (hp : (s.cell.chanAt ch).pkts = P :: r) : exec (.clen d ch) s = .next (s.wroteX d (BitVec.ofNat 64
    ((if P.psn then 2 ^ 9 else 0) + (if P.ends then 2 ^ 8 else 0) + 2 ^ 4 * P.lanes.length + (s.cell.chanAt ch).pkts.length))) := by
  refine congrArg Host.Outcome.next ((ownChannel_own ho _).trans ((retireX_wrote hd _).trans (congrArg (s.wroteX d) ?_)))
  rw [Channel.oldest, hp]
  refine congrArg (BitVec.ofNat 64) ?_
  cases P.psn <;> cases P.ends <;> simp [Nat.mul_comm]

end

end Sys2Proof.Machine
end

section
/-! The obligation on packets received and dropped: its clauses from the laws of channels and of widening. -/

namespace Sys2Proof.Machine

theorem after_remove (C : Channel) (P : Packet) (r : List Packet) : C.after true P r = if C.latest then { P with read := true } :: r else r := by
  cases h : C.latest <;> simp [Channel.after, h]

section
variable (d : VIdx) (x : XIdx) (ch : ChIdx) (p : PIdx) (s : State)

/-- A channel that is absent or a node's faults whatever reads it (log 20). -/
theorem absent_faults (h : (s.cell.chanAt ch).en = false ∨ 64 ≤ (s.cell.chanAt ch).tgt.toNat) (g : Option (BitVec 3)) :
    ∀ i ∈ [Instr.recv d ch g p, .peek d ch g p, .ctlWait x ch, .drop ch, .clen x ch], exec i s = .next (raise cCHANNEL_FORMAT (ch.setWidth 8) 0 s) := by
  have packet {i : Instr} {k} (hi : exec i s = .next (withPacket ch s k)) : exec i s = .next (raise cCHANNEL_FORMAT (ch.setWidth 8) 0 s) :=
    hi.trans (congrArg Host.Outcome.next (withPacket_absent h k))
  have channel {i : Instr} {k} (hi : exec i s = .next (ownChannel ch s k)) : exec i s = .next (raise cCHANNEL_FORMAT (ch.setWidth 8) 0 s) :=
    hi.trans (congrArg Host.Outcome.next (ownChannel_absent h k))
  simp only [List.forall_mem_cons]
  exact ⟨packet rfl, packet rfl, packet rfl, channel rfl, channel rfl, List.forall_mem_nil _⟩

/-- The three words that read a packet do the same with a channel that gives none. -/
theorem readers_of {t : State} (h : ∀ k, withPacket ch s k = t) (g : Option (BitVec 3)) :
    ∀ i ∈ [Instr.recv d ch g p, .peek d ch g p, .ctlWait x ch], exec i s = .next t := by
  have packet {i : Instr} {k} (hi : exec i s = .next (withPacket ch s k)) : exec i s = .next t := hi.trans (congrArg Host.Outcome.next (h k))
  simp only [List.forall_mem_cons]
  exact ⟨packet rfl, packet rfl, packet rfl, List.forall_mem_nil _⟩

variable {d x ch p s} {P : Packet} {r : List Packet} (ho : (s.cell.chanAt ch).Own) (hp : (s.cell.chanAt ch).pkts = P :: r) (hP : P.psn = false)
include ho hp hP

theorem exec_recv (hd : s.FreeV d) : ∃ t a, exec (.recv d ch none p) s = .next t ∧ s.Issued t a ∧ a.op = .packet P.lanes ∧ a.dst = .v d ∧
    (p ≠ 0 → t.cell.pred p = P.ends) ∧ (t.cell.chanAt ch).pkts = (if (s.cell.chanAt ch).latest then { P with read := true } :: r else r) := by
  obtain ⟨a, hi, hop, hdst⟩ := received_issued (remove := true) (draws := false) (op := .packet P.lanes) (dst := .v d) (p := p) (b := P.ends) hp
  exact ⟨_, a, congrArg Host.Outcome.next (receive_plain ho hp hP hd), hi, hop, hdst, received_pred hp, (received_pkts hp).trans (after_remove ..)⟩

theorem exec_peek (hd : s.FreeV d) : ∃ t a, exec (.peek d ch none p) s = .next t ∧ s.Issued t a ∧ a.op = .packet P.lanes ∧ a.dst = .v d ∧
    (p ≠ 0 → t.cell.pred p = P.ends) ∧ (t.cell.chanAt ch).pkts = { P with read := true } :: r := by
  obtain ⟨a, hi, hop, hdst⟩ := received_issued (remove := false) (draws := false) (op := .packet P.lanes) (dst := .v d) (p := p) (b := P.ends) hp
  exact ⟨_, a, congrArg Host.Outcome.next (receive_plain ho hp hP hd), hi, hop, hdst, received_pred hp, received_pkts hp⟩

theorem exec_recv_widened (hd : s.FreeV d) {g : BitVec 3} {l : List Nat} (hw : widen (s.cell.chanAt ch) s.cell P.lanes g.toNat = some (l, 0)) :
    ∃ t a, exec (.recv d ch (some g) p) s = .next t ∧ s.Issued t a ∧ a.op = .packet (l.map (BitVec.ofNat 32)) ∧ a.dst = .v d ∧
      (t.cell.chanAt ch).pkts = (if (s.cell.chanAt ch).latest then { P with read := true } :: r else r) := by
  obtain ⟨a, hi, hop, hdst⟩ := received_issued (remove := true) (draws := ((s.cell.chanAt ch).rounding s.cell).mode == 4)
    (op := .packet (l.map (BitVec.ofNat 32))) (dst := .v d) (p := p) (b := P.ends) hp
  exact ⟨_, a, congrArg Host.Outcome.next (receive_widened ho hp hP hd hw), hi, hop, hdst, (received_pkts hp).trans (after_remove ..)⟩

omit ho hP in
/-- What `ctl.wait` leaves of a packet of one or two lanes. -/
theorem ctlWait_issues {v : Word} (h : exec (.ctlWait x ch) s = .next (s.received true false (.value v 0) (.x x) 0 true ch)) :
    ∃ t a, exec (.ctlWait x ch) s = .next t ∧ s.Issued t a ∧ a.op = .value v 0 ∧ a.dst = .x x ∧
      (t.cell.chanAt ch).pkts = (if (s.cell.chanAt ch).latest then { P with read := true } :: r else r) := by
  obtain ⟨a, hi, hop, hdst⟩ := received_issued (remove := true) (draws := false) (op := .value v 0) (dst := .x x) (p := 0) (b := true) hp
  exact ⟨_, a, h, hi, hop, hdst, (received_pkts hp).trans (after_remove ..)⟩

end

/-- Settles O38: what reads a channel meets its state in the order of R150; a widened group is read off element by element. -/
theorem packetsReceivedAndDropped : Obligations.PacketsReceivedAndDropped := by
  refine ⟨fun d x ch p s => ⟨fun h g => absent_faults d x ch p s h g, fun he ht => ?_⟩, fun C c lanes g hblk => ?_, fun d ch s he ht => ?_⟩
  · have ho : (s.cell.chanAt ch).Own := ⟨he, ht⟩
    refine ⟨fun h g => readers_of d x ch p s (withPacket_empty ho h) g, fun P r hp => ⟨fun hP g => readers_of d x ch p s (withPacket_poisoned ho hp hP) g,
      fun hP hd => ⟨exec_recv ho hp hP hd, exec_peek ho hp hP hd, fun g l hw => exec_recv_widened ho hp hP hd hw,
        fun g hw => congrArg Host.Outcome.next (receive_unwidened ho hp hP hw)⟩,
      fun hP hx => ⟨fun u hl => ctlWait_issues hp (exec_ctlWait_one ho hp hP hx hl), fun u v hl => ctlWait_issues hp (exec_ctlWait_two ho hp hP hx hl),
        exec_ctlWait_more ho hp hP⟩⟩⟩
  · intro F data per n elem byte scale
    have hn : (C.group lanes g).length = n := length_group C lanes g
    refine ⟨widen_past, fun hs ⟨j, hj, hb⟩ => ?_, fun h hs => ?_⟩
    · refine widen_unscaled (hn ▸ hj) ?_
      rw [scaleOf_lane hs (hblk hs)]
      exact if_pos hb
    · have hscale : ∀ j < (C.group lanes g).length, C.scaleOf c (lanes.getLastD 0) (8 * g + j) = some (scale (8 * g + j)) := by
        intro j hj
        cases hssrc : C.ssrc with
        | false =>
          rw [scaleOf_entry hssrc]
          exact congrArg some (if_neg (by simp [hssrc])).symm
        | true =>
          have hb := hs hssrc j (hn ▸ hj)
          rw [scaleOf_lane hssrc (hblk hssrc)]
          refine (if_neg (by exact Nat.not_lt.2 hb)).trans (congrArg some ?_)
          exact (if_pos hssrc).symm
      obtain ⟨q, hq, hlen, hone⟩ := widen_group h hscale
      rw [hn] at hlen hone
      refine ⟨q, hq, hlen, fun j hj => ⟨fun neg m e hv hsc => ⟨m, e + ((scale (8 * g + j) : Int) - 127), rat_scaled neg m e _, ?_⟩, fun sig hv => ?_,
        fun neg hv hsc => ?_, fun hv hsc => ?_⟩⟩
      · rw [hone j hj]
        exact congrArg some (widenOne_finite hv hsc)
      · rw [hone j hj]
        exact congrArg some (widenOne_nan hv)
      · rw [hone j hj]
        exact congrArg some (widenOne_inf hv hsc)
      · rw [hone j hj, hsc]
        exact congrArg some (widenOne_nanScale hv)
  · have ho : (s.cell.chanAt ch).Own := ⟨he, ht⟩
    refine ⟨exec_drop_nothing ho, fun P r hl hp => ⟨_, exec_drop_oldest ho hl hp, ?_, ?_, ?_, ?_, fun c q n hsrc hconv hj => ?_⟩,
      fun hd hp => exec_clen_empty ho hd hp, fun P r hd hp _ _ => exec_clen_oldest ho hd hp⟩
    · rw [advance_cell_pc, freed_cell]
      rfl
    · exact (congrArg (fun c : Cell => (c.chanAt ch).pkts) (freed_cell ..)).trans (congrArg Channel.pkts (Cell.chanAt_onChan_same ..))
    · rw [advance_cell_x, freed_cell]
      rfl
    · rw [advance_cell_v, freed_cell]
      rfl
    · exact freed_credit (s := s.onCell _) hsrc hconv hj ..

end Sys2Proof.Machine
end

section
/-! Handler selection (R144, R145): which of the candidates a free core runs, and what the selection leaves of each handler. -/

namespace Sys2Proof.Machine

/-! ### The highest level -/

/-- The greatest value of a function over a list bounds each of its values, and is one of them unless it is the start. -/
theorem foldl_max_spec {α : Type} (f : α → Nat) (l : List α) (a : Nat) :
    let L := l.foldl (fun m x => max m (f x)) a
    a ≤ L ∧ (∀ x ∈ l, f x ≤ L) ∧ (L = a ∨ ∃ x ∈ l, f x = L) := by
  induction l generalizing a with
  | nil => exact ⟨le_rfl, fun _ h => absurd h List.not_mem_nil, .inl rfl⟩
  | cons x l ih =>
    obtain ⟨hle, hall, hone⟩ := ih (max a (f x))
    refine ⟨(le_max_left _ _).trans hle, List.forall_mem_cons.2 ⟨(le_max_right _ _).trans hle, hall⟩, ?_⟩
    rcases hone with h | ⟨y, hy, h⟩
    · rcases max_choice a (f x) with hm | hm
      · exact .inl (h.trans hm)
      · exact .inr ⟨x, List.mem_cons_self, (h.trans hm).symm⟩
    · exact .inr ⟨y, List.mem_cons_of_mem _ hy, h⟩

/-- Some element reaches the greatest value of a list that is not empty. -/
theorem exists_foldl_max {α : Type} (f : α → Nat) {l : List α} (h : l ≠ []) : ∃ x ∈ l, f x = l.foldl (fun m x => max m (f x)) 0 := by
  obtain ⟨-, hall, hzero | hone⟩ := foldl_max_spec f l 0
  · obtain ⟨x, hx⟩ := List.exists_mem_of_ne_nil l h
    exact ⟨x, hx, by have := hall x hx; omega⟩
  · exact hone

/-- Sixty-four numbers in a row reach every handler. -/
theorem handler_past (start h : BitVec 6) : ∃ i < 64, BitVec.ofNat 6 (start.toNat + 1 + i) = h := by
  refine ⟨(h.toNat + 63 - start.toNat) % 64, by omega, BitVec.eq_of_toNat_eq ?_⟩
  rw [BitVec.toNat_ofNat]
  omega

/-! ### Who is selected (R145) -/

/-- The handlers past the pointer of a level, in the order in which they are looked at. -/
def Cell.turns (c : Cell) (L i : Nat) : BitVec 6 := BitVec.ofNat 6 ((c.ptr.toList.getD L 63).toNat + 1 + i)

/-- Of the candidates of the highest level the first past its pointer is selected. -/
theorem Cell.selects_first {c : Cell} (hne : c.candidates ≠ []) :
    ∃ h, c.selects = some (h, c.effPrio h) ∧ h ∈ c.candidates ∧ (∀ g ∈ c.candidates, c.effPrio g ≤ c.effPrio h) ∧
      ∀ i < 64, (∀ j ≤ i, c.turns (c.effPrio h) j ≠ h) → c.turns (c.effPrio h) i ∈ c.candidates → c.effPrio (c.turns (c.effPrio h) i) < c.effPrio h := by
  obtain ⟨-, htop, -⟩ := foldl_max_spec c.effPrio c.candidates 0
  obtain ⟨g, hg, hgL⟩ := exists_foldl_max c.effPrio hne
  have hsel : c.selects = (((List.range 64).map (c.turns (c.candidates.foldl (fun m h => max m (c.effPrio h)) 0))).find? fun h =>
      c.candidates.contains h && c.effPrio h == c.candidates.foldl (fun m h => max m (c.effPrio h)) 0).map
        fun h => (h, c.candidates.foldl (fun m h => max m (c.effPrio h)) 0) := rfl
  generalize c.candidates.foldl (fun m h => max m (c.effPrio h)) 0 = L at htop hgL hsel
  obtain ⟨i, hi, hig⟩ := handler_past (c.ptr.toList.getD L 63) g
  obtain ⟨h, hfind⟩ : ∃ h, ((List.range 64).map (c.turns L)).find? (fun h => c.candidates.contains h && c.effPrio h == L) = some h := by
    refine Option.isSome_iff_exists.1 (List.find?_isSome.2 ⟨g, List.mem_map.2 ⟨i, List.mem_range.2 hi, hig⟩, ?_⟩)
    simp [hg, hgL]
  rw [hfind] at hsel
  obtain ⟨hp, n, hn, hnh, hbefore⟩ := List.find?_eq_some_iff_getElem.1 hfind
  simp only [Bool.and_eq_true, List.contains_iff_mem, beq_iff_eq] at hp
  obtain ⟨hmem, rfl⟩ := hp
  refine ⟨h, hsel, hmem, htop, fun i hi hpast hcand => lt_of_le_of_ne (htop _ hcand) fun heq => ?_⟩
  have hin : i < n := by
    by_contra hle
    exact hpast n (by omega) (by simpa using hnh)
  have := hbefore i hin
  simp [hcand, heq] at this

/-! ### What the selection leaves -/

/-- The entry of the selected handler runs, and has not been passed over. -/
theorem Cell.handler_selected_same (h : BitVec 6) (L : Nat) (c : Cell) :
    (c.selected h L).handler h = { c.handler h with st := .running, age := 0, pass := 0, key := none, wide := false } := by
  simp [Cell.handler, Cell.selected]

/-- Every other candidate is passed over once more. -/
theorem Cell.handler_selected_candidate {c : Cell} {g h : BitVec 6} (hg : g ∈ c.candidates) (hne : g ≠ h) (L : Nat) :
    (c.selected h L).handler g = { c.handler g with pass := (c.handler g).pass + 1 } := by
  have hn : ¬ g.toNat = h.toNat := fun e => hne (BitVec.eq_of_toNat_eq e)
  simp [Cell.handler, Cell.selected, hn, hg]

/-- The cell with every age that is due advanced, as a selection finds it. -/
def Cell.withAges (c : Cell) : Cell := { c with hnd := c.hnd.map Handler.aged }

theorem exec_handlerSelection {c : CellId} {s : State} (hcur : (s.cellAt c).cur = none) (hs : (s.cellAt c).stopped = false)
    (ha : s.active (s.cellAt c) = true) {h : BitVec 6} {L : Nat} (hsel : (s.cellAt c).withAges.selects = some (h, L)) :
    exec (.handlerSelection c) s = .next (s.putCell c ((s.cellAt c).withAges.selected h L)) := by
  show execHandlerSelection c s = _
  refine congrArg Host.Outcome.next ((if_neg (by simp [hcur, hs, ha])).trans ?_)
  split
  next heq => cases hsel.symm.trans heq
  next heq =>
    cases hsel.symm.trans heq
    rfl

theorem Cell.handler_onHnd_same (h : BitVec 6) (f : Handler → Handler) (c : Cell) : (c.onHnd h f).handler h = f (c.handler h) :=
  Vector.getElem_set_self _

theorem Cell.handler_onHnd_other {g h : BitVec 6} (hne : g ≠ h) (f : Handler → Handler) (c : Cell) : (c.onHnd h f).handler g = c.handler g :=
  Vector.getElem_set_ne h.isLt g.isLt fun e => hne (BitVec.eq_of_toNat_eq e.symm)

theorem Handler.aged_of_due {h : Handler} (hp : 4096 ≤ h.pass) : h.aged = { h with age := h.age + 1, pass := 0 } := if_pos hp

/-- Settles O42: the selection by the order in which it looks at the candidates, the aging by the handler that it changes. -/
theorem handlerSelected : Obligations.HandlerSelected := by
  refine ⟨fun c s hcur hs ha => ?_, fun c h s hp => ⟨_, rfl, ?_, ?_, fun g hg => ?_⟩⟩
  · intro y hne
    obtain ⟨h, hsel, hmem, htop, hfirst⟩ := Cell.selects_first hne
    refine ⟨_, h, exec_handlerSelection hcur hs ha hsel, ?_⟩
    rw [cellAt_putCell]
    refine ⟨rfl, hmem, htop, hfirst, rfl, ?_, ?_, rfl, fun g hg hgh => ?_, rfl⟩
    · exact congrArg Handler.st (Cell.handler_selected_same ..)
    · exact congrArg Handler.age (Cell.handler_selected_same ..)
    · exact congrArg Handler.pass (Cell.handler_selected_candidate hg hgh _)
  · rw [cellAt_atCell, Cell.handler_onHnd_same, Handler.aged_of_due hp]
  · rw [cellAt_atCell, Cell.handler_onHnd_same, Handler.aged_of_due hp]
  · rw [cellAt_atCell, Cell.handler_onHnd_other hg]

end Sys2Proof.Machine
end

section
/-! Constants (R121, R161) and the requests that a cell makes of the loader (R162, R164). -/

namespace Sys2Proof.Machine

/-! ### The target of `arg.set` (R161) -/

theorem bits_eq_extract {n : Nat} (v : BitVec n) (lo w : Nat) : bits v.toNat lo w = (v.extractLsb' lo w).toNat := by
  rw [BitVec.extractLsb'_toNat, Nat.shiftRight_eq_div_pow]
  rfl

theorem bits_eq_zero_iff {n : Nat} (v : BitVec n) (lo w : Nat) : bits v.toNat lo w = 0 ↔ v.extractLsb' lo w = 0 := by
  rw [bits_eq_extract, ← BitVec.toNat_inj]
  rfl

theorem argReserved_iff (A : Word) : argReserved A = true ↔ A.extractLsb' 22 42 = 0 ∧ A.extractLsb' 14 2 = 0 ∧ A.extractLsb' 5 3 = 0 := by
  simp only [argReserved, Bool.and_eq_true, beq_iff_eq, bits_eq_zero_iff, and_assoc]

section
variable {A : Word} {brd : Board} {s : State} (hb : s.boardOf s.cell = some brd)
include hb

theorem argCell_eq : argCell A s =
    if A.extractLsb' 22 42 = 0 ∧ A.extractLsb' 14 2 = 0 ∧ A.extractLsb' 5 3 = 0 ∧ (A.extractLsb' 16 6).toNat < 8 * brd.h ∧ (A.extractLsb' 8 6).toNat < 8 * brd.w
    then some (brd.cellAt (A.extractLsb' 16 6).toNat (A.extractLsb' 8 6).toNat) else none := by
  rw [argCell, hb]
  simp only [Bool.and_eq_true, argReserved_iff, decide_eq_true_eq, bits_eq_extract, and_assoc]

end

theorem readV_has {b : VIdx} {r : VReg} {s : State} (hv : s.HasV b r) (k : VReg → State) : readV b s k = k r := by
  obtain ⟨hr, hf⟩ := hv
  rw [readV_full k (by rw [hr]; exact hf), hr]

section
variable {a : XIdx} {b : VIdx} {A : Word} {r : VReg} {s : State} (ha : s.HasX a A) (hv : s.HasV b r)
include ha hv

theorem exec_argSet_constant {c : CellId} (hc : argCell A s = some c) (hk : ((s.cellAt c).chanAt (A.setWidth 5)).const = true) :
    exec (.argSet a b) s = .next (advance 4 (s.atCell c (Cell.onChan (A.setWidth 5) fun C => { C with nextConst := some r.packet }))) := by
  refine congrArg Host.Outcome.next ((readX_has ha _).trans ((readV_has hv _).trans ?_))
  rw [hc]
  exact if_neg (by simp [hk])

theorem exec_argSet_other {c : CellId} (hc : argCell A s = some c) (hk : ((s.cellAt c).chanAt (A.setWidth 5)).const = false) :
    exec (.argSet a b) s = .next (raise cCHANNEL_FORMAT ((A.setWidth 5 : ChIdx).setWidth 8) 0 s) := by
  refine congrArg Host.Outcome.next ((readX_has ha _).trans ((readV_has hv _).trans ?_))
  rw [hc, ← misformed_channel]
  exact if_pos (by simp [hk])

theorem exec_argSet_unnamed (hc : argCell A s = none) : exec (.argSet a b) s = .next (raise cACCESS 0 (A.setWidth 32) s) := by
  refine congrArg Host.Outcome.next ((readX_has ha _).trans ((readV_has hv _).trans ?_))
  rw [hc]
  rfl

end

/-! ### An arrival at a channel (R20, R117, R120) -/

@[simp] theorem Cell.fire_chan (ch : ChIdx) (c : Cell) : (c.fire ch).chan = c.chan := by
  unfold Cell.fire
  dsimp only
  split <;> rfl

/-- What enters a channel takes its place there, with its number in the order of arrival. -/
theorem Cell.chanAt_enter (merging : Bool) (ch : ChIdx) (P : Packet) (c : Cell) :
    (c.enter merging ch P).chanAt ch = (c.chanAt ch).arrive merging { P with stamp := c.arrivals } := by
  rw [Cell.enter, Cell.chanAt_congr ((Cell.wakeOn_chan ..).trans (Cell.fire_chan ..)), Cell.chanAt_onChan_same]
  rfl

theorem Channel.arrive_eq (merging : Bool) (P : Packet) (C : Channel) : C.arrive merging P = { C with pkts := (C.arrive merging P).pkts } := by
  unfold Channel.arrive
  split
  · rfl
  · split <;> rfl

/-- A LATEST channel holds the newest packet alone, unread. -/
theorem Channel.arrive_latest {C : Channel} (h : C.latest = true) (merging : Bool) (P : Packet) :
    (C.arrive merging P).pkts = [{ P with read := false, src := none, conv := none }] := by
  rw [Channel.arrive, if_pos h]

theorem Cell.handler_congr {c c' : Cell} (h : c'.hnd = c.hnd) (g : BitVec 6) : c'.handler g = c.handler g := by
  simp only [Cell.handler, h]

/-- A wake leaves a handler that is not parked. -/
theorem Cell.handler_wakeOn {c : Cell} {h : BitVec 6} (hst : (c.handler h).st ≠ .parked) (k : ParkKey) : (c.wakeOn k).handler h = c.handler h := by
  have hst' : ¬ c.hnd[h.toNat].st = .parked := hst
  simp [Cell.handler, Cell.wakeOn, Cell.wakeWhere, hst']

/-- A firing channel makes the idle handler that it names RUNNABLE. -/
theorem Cell.handler_fire {c : Cell} {ch : ChIdx} {h : BitVec 6} (hf : (c.chanAt ch).fire = true) (ht : (c.chanAt ch).tgt = h.setWidth 7)
    (hst : (c.handler h).st = .idle) : (c.fire ch).handler h = { c.handler h with st := .runnable, chan := ch, byStart := false } := by
  have hlt : (h.setWidth 7).toNat < 64 := by
    rw [BitVec.toNat_setWidth_of_le (by decide)]
    exact h.isLt
  have hback : (h.setWidth 7).setWidth 6 = h := (BitVec.setWidth_setWidth_of_le _ (by decide)).trans (BitVec.setWidth_eq h)
  have hfire : c.fire ch = c.onHnd h (Handler.fired ch) := by
    refine (if_pos (by rw [hf, ht]; simpa using hlt)).trans ?_
    rw [ht, hback]
  rw [hfire, Cell.handler_onHnd_same]
  exact if_pos hst

/-- So does an arrival there. -/
theorem Cell.handler_enter {c : Cell} {ch : ChIdx} {h : BitVec 6} (hf : (c.chanAt ch).fire = true) (ht : (c.chanAt ch).tgt = h.setWidth 7)
    (hst : (c.handler h).st = .idle) (merging : Bool) (P : Packet) :
    (c.enter merging ch P).handler h = { c.handler h with st := .runnable, chan := ch, byStart := false } := by
  let c1 : Cell := ({ c with arrivals := c.arrivals + 1 }).onChan ch (Channel.arrive merging { P with stamp := c.arrivals })
  have hC : c1.chanAt ch = { c.chanAt ch with pkts := (c1.chanAt ch).pkts } := by
    rw [Cell.chanAt_onChan_same]
    exact Channel.arrive_eq ..
  have hfired : (c1.fire ch).handler h = { c.handler h with st := .runnable, chan := ch, byStart := false } :=
    Cell.handler_fire (by rw [hC]; exact hf) (by rw [hC]; exact ht) hst
  rw [show c.enter merging ch P = (c1.fire ch).wakeOn (.chanIn ch) from rfl, Cell.handler_wakeOn (by simp [hfired]), hfired]

/-! ### Constants installed (R121, R161) -/

theorem exec_constantInstall {c : CellId} {ch : ChIdx} {lanes : List W32} {s : State} (hn : ((s.cellAt c).chanAt ch).nextConst = some lanes)
    (hs : (s.cellAt c).stopped = false) : exec (.constantInstall c ch) s = .next (s.putCell c
      (((s.cellAt c).onChan ch fun C => { C with nextConst := none }).enter false ch (packetOf lanes true false))) := by
  refine congrArg (fun x => Host.Outcome.next (s.putCell c x)) ?_
  simp [hn, hs]

/-! ### Requests to the loader (R162, R164) -/

/-- What is in flight stays so where only the package has changed, outside memory. -/
theorem State.Issued.onPkg {s t : State} {a : Access} (h : s.Issued t a) (f : Package → Package) (hf : (f t.pkg).mem = t.pkg.mem) : s.Issued (t.onPkg f) a :=
  h.congr rfl rfl rfl rfl rfl rfl hf

section
variable {d a b : XIdx} {A B : Word} {s : State} (hd : s.FreeX d)
include hd

/-- A request joins those to the loader, and an access waits for its status. -/
theorem requestLoad_issues (addr desc : Word) (drain : Bool) : ∃ acc, s.Issued (requestLoad d addr desc drain s) acc ∧ acc.op = .await ∧ acc.dst = .x d ∧
    (requestLoad d addr desc drain s).pkg.loads =
      s.pkg.loads ++ [⟨some (s.here, acc.id), s.cell.k.ctx, addr, desc, s.cell.windows, drain, .asked, [], 0⟩] := by
  have hu : s.Issued ((resultReq .await (.x d)).issued .none [] false s) ((resultReq .await (.x d)).access .none [] false s.cell) := issued_of_request rfl rfl
  have hr : requestLoad d addr desc drain s = ((resultReq .await (.x d)).issued .none [] false s).onPkg fun p =>
      { p with loads := p.loads ++ [⟨some (s.here, s.cell.nextId), s.cell.k.ctx, addr, desc, s.cell.windows, drain, .asked, [], 0⟩] } := freeX_free _ hd
  rw [hr]
  refine ⟨_, hu.onPkg _ rfl, rfl, rfl, ?_⟩
  rw [State.onPkg_pkg, issued_pkg]
  rfl

theorem exec_cfgLoad (hl : s.cell.k.lvl = true) (ha : s.HasX a A) (hb : s.HasX b B) : ∃ t acc, exec (.cfgLoad d a b) s = .next t ∧ s.Issued t acc ∧
    acc.op = .await ∧ acc.dst = .x d ∧ t.pkg.loads = s.pkg.loads ++ [⟨some (s.here, acc.id), s.cell.k.ctx, A, B, s.cell.windows, false, .asked, [], 0⟩] := by
  obtain ⟨acc, h⟩ := requestLoad_issues hd A B false
  exact ⟨_, acc, congrArg Host.Outcome.next ((if_pos hl).trans ((readX_has ha _).trans (readX_has hb _))), h⟩

theorem exec_cfgDrain (hl : s.cell.k.lvl = true) (hb : s.HasX b B) : ∃ t acc, exec (.cfgDrain d b) s = .next t ∧ s.Issued t acc ∧
    acc.op = .await ∧ acc.dst = .x d ∧ t.pkg.loads = s.pkg.loads ++ [⟨some (s.here, acc.id), s.cell.k.ctx, 0, B, s.cell.windows, true, .asked, [], 0⟩] := by
  obtain ⟨acc, h⟩ := requestLoad_issues hd 0 B true
  exact ⟨_, acc, congrArg Host.Outcome.next ((if_pos hl).trans (readX_has hb _)), h⟩

end

end Sys2Proof.Machine
end

section
/-! The loader (R134, R162-R164): what it finds of a request, the acceptance of one, a graceful load that waits, and the switch-over. -/

namespace Sys2Proof.Machine

/-! ### The check of a request (R162, R164; log 72) -/

section
variable {q : LoadReq} {p : Package} {b : Board}

theorem checkLoad_misaligned (hd : q.drain = false) (ha : q.addr.toNat % 8 ≠ 0) : checkLoad q p = (.refused cMISALIGNED, p) :=
  if_pos (by simp [hd, ha])

/-- The image of a load begins on an aligned word; a drain has none. -/
def LoadReq.Aligned (q : LoadReq) : Prop := q.drain = true ∨ q.addr.toNat % 8 = 0

theorem LoadReq.Aligned.not_refused (ha : q.Aligned) : ¬ (!q.drain && decide (q.addr.toNat % 8 ≠ 0)) = true := by
  rcases ha with h | h <;> simp [h]

theorem checkLoad_nowhere (ha : q.Aligned) (hb : describedBoard q.ctx q.desc p = none) : checkLoad q p = (.refused cACCESS, p) := by
  refine (if_neg ha.not_refused).trans ?_
  rw [hb]

section
variable (ha : q.Aligned) (hb : describedBoard q.ctx q.desc p = some b)
include ha hb

theorem checkLoad_draining (hph : b.phase = .draining) : checkLoad q p = (.later, p) := by
  refine (if_neg ha.not_refused).trans ?_
  rw [hb]
  exact if_pos (by simp [hph])

variable (hph : b.phase ≠ .draining)
include hph

theorem checkLoad_reserved (hok : descOk q.drain q.desc = false) : checkLoad q p = (.refused cCONFIG_CHECK, p) := by
  refine (if_neg ha.not_refused).trans ?_
  rw [hb]
  exact (if_neg (by simpa using hph)).trans (if_pos (by simp [hok]))

variable (hok : descOk q.drain q.desc = true)
include hok

theorem checkLoad_drain (hd : q.drain = true) : checkLoad q p = (.accepted b [], p) := by
  refine (if_neg ha.not_refused).trans ?_
  rw [hb]
  exact (if_neg (by simpa using hph)).trans ((if_neg (by simp [hok])).trans (if_pos hd))

variable (hd : q.drain = false) {l : List Byte} {p' : Package}
  (hr : readVirtual q.ctx q.addr.toNat (8 * (q.desc.extractLsb' 24 24).toNat) p = (.ok (l, false), p'))
include hd hr

theorem checkLoad_image_refused (hi : checkImage (8 * b.h) (8 * b.w) (wordsOfBytes (q.desc.extractLsb' 24 24).toNat l) = none) :
    checkLoad q p = (.refused cCONFIG_CHECK, p') := by
  refine (if_neg ha.not_refused).trans ?_
  rw [hb]
  refine (if_neg (by simpa using hph)).trans ((if_neg (by simp [hok])).trans ((if_neg (by simp [hd])).trans ?_))
  simp only [bits_eq_extract, hr, hi, Bool.false_eq_true, if_false]

theorem checkLoad_image {gs : List CfgGroup} (hi : checkImage (8 * b.h) (8 * b.w) (wordsOfBytes (q.desc.extractLsb' 24 24).toNat l) = some gs) :
    checkLoad q p = (.accepted b gs, p') := by
  refine (if_neg ha.not_refused).trans ?_
  rw [hb]
  refine (if_neg (by simpa using hph)).trans ((if_neg (by simp [hok])).trans ((if_neg (by simp [hd])).trans ?_))
  simp only [bits_eq_extract, hr, hi, Bool.false_eq_true, if_false]

end
end

/-! ### The acceptance of a request (R134, R162-R164) -/

section
variable {k : Nat} {q : LoadReq} {c : CellId} {id : Nat} {s : State} (hi : q.issuer = some (c, id))

theorem exec_loadAcceptance_waits (hk : s.pkg.loads[k]? = some q)
    (hw : s.pkg.loaderBusy q.die = true ∨ s.pkg.stalledAt q.ctx (.load q.board q.issuer) = true) : exec (.loadAcceptance k) s = .next s := by
  refine congrArg Host.Outcome.next ?_
  rw [hk]
  exact if_pos (by rcases hw with h | h <;> simp [h])

include hi in
theorem exec_loadAcceptance (hk : s.pkg.loads[k]? = some q) (hph : q.phase = .asked) (hbusy : s.pkg.loaderBusy q.die = false)
    (hst : s.pkg.stalledAt q.ctx (.load q.board q.issuer) = false) : exec (.loadAcceptance k) s = .next (decideLoad k q s) := by
  refine congrArg Host.Outcome.next ?_
  rw [hk]
  refine (if_neg (by simp [hph, hbusy, hst])).trans ?_
  rw [hi]

theorem decideLoad_later {p : Package} (h : checkLoad q s.pkg = (.later, p)) : decideLoad k q s = s := by
  rw [decideLoad, h]

theorem decideLoad_accepted {p : Package} {b : Board} {gs : List CfgGroup} (h : checkLoad q s.pkg = (.accepted b gs, p)) :
    decideLoad k q s = acceptLoad k q b gs { s with pkg := p } := by
  rw [decideLoad, h]

include hi

theorem answerLoad_issuer (code : Byte) (s : State) : answerLoad q code s = landValue c id (code.setWidth 64) 0 s := by
  rw [answerLoad, hi]

theorem decideLoad_refused {p : Package} {code : Byte} (h : checkLoad q s.pkg = (.refused code, p)) :
    decideLoad k q s = landValue c id (code.setWidth 64) 0 { s with pkg := { p with loads := delNth k p.loads } } := by
  rw [decideLoad, h]
  exact answerLoad_issuer hi ..

theorem acceptLoad_drain (hd : q.drain = true) (b : Board) (gs : List CfgGroup) (s : State) : acceptLoad k q b gs s =
    (beginDrain b .draining s).onPkg fun p => dropLoads b.id { p.onBoard b.id (fun x => { x with drainFor := some (c, id) }) with loads := delNth k p.loads } := by
  rw [acceptLoad, if_pos hd, hi]

/-- The request with its image and its board, in the phase that follows. -/
def LoadReq.next (ph : LoadPhase) (gs : List CfgGroup) (b : Board) (q : LoadReq) : LoadReq := { q with phase := ph, groups := gs, board := b.id }

/-- A graceful load answers at once unless its issuer lies on the board, and any other one once the load before it has ended. -/
theorem acceptLoad_load (hd : q.drain = false) (b : Board) (gs : List CfgGroup) (s : State) :
    let on (ph : LoadPhase) : State := s.onPkg fun p => { p with loads := modNth (LoadReq.next ph gs b) k p.loads }
    (q.desc.getLsbD 16 = true → b.holds c = false → acceptLoad k q b gs s = landValue c id 0 0 (on .graceful)) ∧
    (q.desc.getLsbD 16 = true → b.holds c = true → acceptLoad k q b gs s = on .graceful) ∧
    (q.desc.getLsbD 16 = false → acceptLoad k q b gs s = landValue c id 0 0 (beginDrain b .empty (on .words))) := by
  have hfrom : q.from_ b = b.holds c := by simp [LoadReq.from_, hi]
  have hland (s : State) : answerLoad q 0 s = landValue c id 0 0 s := answerLoad_issuer hi 0 s
  refine ⟨fun hg hb => ?_, fun hg hb => ?_, fun hg => ?_⟩
  all_goals
    rw [acceptLoad, if_neg (by simp [hd])]
    simp only [hg, hfrom]
  · simp only [hb, hland]
    rfl
  · simp only [hb]
    rfl
  · simp only [hland]
    rfl

end

/-! ### The status of a request (R162) -/

theorem Cell.xreg_landX_same {d : XIdx} (h : d ≠ 0) (v : Word) (c : Cell) : (c.landX d v).xreg d = ⟨v, .full⟩ :=
  (Cell.xreg_congr (Cell.wakeOn_x ..) d).trans (Cell.xreg_putX_same h _ _)

theorem Cell.land_x {a : Access} {d : XIdx} (h : a.dst = .x d) (v : Word) (f : Flags) (c : Cell) : (c.land a v f).x = (c.landX d v).x := by
  unfold Cell.land
  rw [Cell.finish_x, h]
  dsimp only
  split <;> rfl

theorem landValue_here {id : Nat} {a : Access} {d : XIdx} {s : State} (ha : s.cell.inflight.find? (fun x => x.id == id) = some a) (hd : a.dst = .x d)
    (h0 : d ≠ 0) (v : Word) (f : Flags) : (landValue s.here id v f s).cell.xreg d = ⟨v, .full⟩ := by
  have hc : (landValue s.here id v f s).cell = s.cell.land a v f := by
    rw [← State.cellAt_here s] at ha
    rw [← State.cellAt_here (landValue s.here id v f s), landValue, atCell_here, cellAt_atCell, ha, State.cellAt_here]
  rw [hc, Cell.xreg_congr (Cell.land_x hd v f s.cell) d]
  exact Cell.xreg_landX_same h0 v s.cell

/-! ### A graceful load that waits (R163; log 72) -/

section
variable {k : Nat} {q : LoadReq} {b : Board} {s : State} (hk : s.pkg.loads[k]? = some q) (hb : s.pkg.board q.board = some b)

section
variable (hph : q.phase = .graceful)
include hk hb hph

theorem exec_boardQuiescent_owed {c : CellId} {id : Nat} {a : Access} (hi : q.issuer = some (c, id))
    (ha : (s.cellAt c).inflight.find? (fun a => a.id == id) = some a) (hl : a.live = false) : exec (.boardQuiescent k) s = .next (landValue c id 0 0 s) := by
  have howed : q.owed s = some true := by simp [LoadReq.owed, hi, ha, hl]
  refine congrArg Host.Outcome.next ?_
  simp only [hk, hph, hb]
  exact (if_pos howed).trans (answerLoad_issuer hi 0 s)

theorem exec_boardQuiescent_busy (ho : q.owed s ≠ some true) (hq : s.quiescent b = false) : exec (.boardQuiescent k) s = .next s := by
  refine congrArg Host.Outcome.next ?_
  simp only [hk, hph, hb]
  exact (if_neg ho).trans (if_neg (by simp [hq]))

theorem exec_boardQuiescent (ho : q.owed s ≠ some true) (hq : s.quiescent b = true) : exec (.boardQuiescent k) s =
    .next ((beginDrain b .empty s).onPkg fun p => { p with loads := modNth (fun q => { q with phase := .words }) k p.loads }) := by
  refine congrArg Host.Outcome.next ?_
  simp only [hk, hph, hb]
  exact (if_neg ho).trans (if_pos hq)

end

/-! ### The switch-over (R134, R162) -/

/-- The load of an instruction first fires on a board of no launch. -/
theorem exec_switchOver (hk : s.pkg.loads[k]? = some q) (hb : s.pkg.board q.board = some b) (hph : q.phase = .words) (hi : q.issuer.isSome = true)
    (hm : s.pkg.memberOf b = none) : exec (.switchOver k) s =
    .next ((fireBoard ⟨b, q.desc.getLsbD 17, q.ctx, q.windows⟩ q.groups { s with pkg := { s.pkg with loads := delNth k s.pkg.loads } }).onPkg
      (Package.onBoard b.id fun x =>
        { x with phase := .running, generation := x.generation + 1, watchdog := 0, products := 0, cls := none, ahead := none, lvl := q.desc.getLsbD 17 })) := by
  obtain ⟨i, hi⟩ := Option.isSome_iff_exists.1 hi
  have hb' : (s.onPkg fun p => { p with loads := delNth k p.loads }).pkg.board q.board = some b := hb
  have hm' : (s.onPkg fun p => { p with loads := delNth k p.loads }).pkg.memberOf b = none := hm
  refine congrArg Host.Outcome.next ?_
  rw [hk]
  refine (if_neg (by simp [hph])).trans ?_
  simp only [hb', hm', hi]
  rfl

end

end Sys2Proof.Machine
end

section
/-! The obligation on constants and the loader: its clauses from the laws of `arg.set`, of arrivals and of requests to the loader. -/

namespace Sys2Proof.Machine

theorem chanAt_advance (n : Nat) (c : CellId) (ch : ChIdx) (s : State) : ((advance n s).cellAt c).chanAt ch = (s.cellAt c).chanAt ch :=
  Cell.chanAt_congr (cellAt_onCell_field (field := Cell.chan) (f := fun c => { c with pc := c.pc + BitVec.ofNat 14 n, hold := none }) (fun _ => rfl) c s) ch

section
variable {a : XIdx} {b : VIdx} {A : Word} {r : VReg} {brd : Board} {s : State} (ha : s.HasX a A) (hv : s.HasV b r)
include ha hv

/-- An accepted `arg.set` changes of the machine the constant that its channel will hold, and its own PC. -/
theorem exec_argSet_accepted {c : CellId} (hc : argCell A s = some c) (hk : ((s.cellAt c).chanAt (A.setWidth 5)).const = true) :
    ∃ t, exec (.argSet a b) s = .next t ∧ ((t.cellAt c).chanAt (A.setWidth 5)).nextConst = some r.packet ∧ t.cell.pc = s.cell.pc + 4 ∧ t.cell.x = s.cell.x ∧
      t.cell.v = s.cell.v ∧ t.pkg = s.pkg := by
  refine ⟨_, exec_argSet_constant ha hv hc hk, ?_, ?_, ?_, ?_, atCell_pkg ..⟩
  · rw [chanAt_advance, cellAt_atCell, Cell.chanAt_onChan_same]
  · exact congrArg (· + 4) (atCell_field (field := Cell.pc) (f := Cell.onChan _ _) (fun _ => rfl) c s)
  · exact atCell_field (field := Cell.x) (f := Cell.onChan _ _) (fun _ => rfl) c s
  · exact atCell_field (field := Cell.v) (f := Cell.onChan _ _) (fun _ => rfl) c s

end

/-- A constant that is installed arrives at its channel. -/
theorem exec_constantInstall_arrives {c : CellId} {ch : ChIdx} {lanes : List W32} {s : State} (hn : ((s.cellAt c).chanAt ch).nextConst = some lanes)
    (hs : (s.cellAt c).stopped = false) : ∃ t, exec (.constantInstall c ch) s = .next t ∧ ((t.cellAt c).chanAt ch).nextConst = none ∧ t.pkg = s.pkg ∧
      (((s.cellAt c).chanAt ch).latest = true → ((t.cellAt c).chanAt ch).pkts.map Packet.lanes = [lanes] ∧ ((t.cellAt c).chanAt ch).pkts.map Packet.read = [false]) ∧
      ∀ h : BitVec 6, ((s.cellAt c).chanAt ch).fire = true → ((s.cellAt c).chanAt ch).tgt = h.setWidth 7 → ((s.cellAt c).handler h).st = .idle →
        ((t.cellAt c).handler h).st = .runnable := by
  refine ⟨_, exec_constantInstall hn hs, ?_, putCell_pkg .., fun hl => ?_, fun h hf ht hst => ?_⟩
  · rw [cellAt_putCell, Cell.chanAt_enter, Channel.arrive_eq, Cell.chanAt_onChan_same]
  · rw [cellAt_putCell, Cell.chanAt_enter, Channel.arrive_latest (by rw [Cell.chanAt_onChan_same]; exact hl)]
    exact ⟨rfl, rfl⟩
  · rw [cellAt_putCell]
    refine congrArg Handler.st (Cell.handler_enter (c := (s.cellAt c).onChan ch _) ?_ ?_ hst false _)
    · rw [Cell.chanAt_onChan_same]
      exact hf
    · rw [Cell.chanAt_onChan_same]
      exact ht

/-- Settles O43: `arg.set` by what its target names, the requests by the level, and the loader's acceptance by what it finds, in the order of log 72. -/
theorem configurationAndLoader : Obligations.ConfigurationAndLoader := by
  refine ⟨⟨fun a b A r brd s ha hv hb => ?_, fun c ch lanes s hn hs => exec_constantInstall_arrives hn hs, fun d a b A B s ha hb hd =>
      ⟨fun hl => ⟨exec_cfgLoad hd hl ha hb, exec_cfgDrain hd hl hb⟩, fun hl => ⟨?_, ?_⟩⟩⟩,
    fun k q c id s hk hph hi => ?_, fun id v d a s hf hd h0 => landValue_here hf hd h0 v 0,
    fun k q b s hk hph hb => ⟨fun c id a hi ha hl => exec_boardQuiescent_owed hk hb hph hi ha hl, exec_boardQuiescent_busy hk hb hph,
      exec_boardQuiescent hk hb hph⟩,
    fun k q b s hk hph hi hb hm => exec_switchOver hk hb hph hi hm⟩
  · intro c ch named
    have hcell := argCell_eq (A := A) hb
    exact ⟨fun hn => exec_argSet_accepted ha hv (hcell.trans (if_pos hn)), fun hn => exec_argSet_other ha hv (hcell.trans (if_pos hn)),
      fun hn => exec_argSet_unnamed ha hv (hcell.trans (if_neg hn))⟩
  · exact congrArg Host.Outcome.next (if_neg (by simp [State.runtime, hl]))
  · exact congrArg Host.Outcome.next (if_neg (by simp [State.runtime, hl]))
  · intro gone
    refine ⟨exec_loadAcceptance_waits hk, fun hbusy hst => ?_⟩
    rw [exec_loadAcceptance hi hk hph hbusy hst]
    have refused {code : Byte} {p : Package} (h : checkLoad q s.pkg = (.refused code, p)) :=
      congrArg (Host.Outcome.next : State → Result) (decideLoad_refused (k := k) hi h)
    refine ⟨fun hd ha => refused (checkLoad_misaligned hd ha), fun ha => ⟨fun hb => refused (checkLoad_nowhere ha hb), fun b hb =>
      ⟨fun hp => congrArg Host.Outcome.next (decideLoad_later (checkLoad_draining ha hb hp)), fun hp hok => refused (checkLoad_reserved ha hb hp hok),
        fun hp hok => ⟨fun hd => ?_, fun l p hd hr => ?_⟩⟩⟩⟩
    · rw [decideLoad_accepted (checkLoad_drain ha hb hp hok hd), acceptLoad_drain hi hd]
    · intro words
      refine ⟨fun hc => refused (checkLoad_image_refused ha hb hp hok hd hr hc), fun gs hc => ?_⟩
      intro on
      rw [decideLoad_accepted (checkLoad_image ha hb hp hok hd hr hc)]
      obtain ⟨helsewhere, hown, hnow⟩ := acceptLoad_load (k := k) hi hd b gs { s with pkg := p }
      exact ⟨fun hg hh => congrArg Host.Outcome.next (helsewhere hg hh), fun hg hh => congrArg Host.Outcome.next (hown hg hh),
        fun hg => congrArg Host.Outcome.next (hnow hg)⟩

end Sys2Proof.Machine
end

section
/-! The completion of a controller's run (R141) for a word that no configuration holds. -/

namespace Sys2Proof.Machine

/-- Word 0 of a controller of one child whose KIND is 3, the code that R141 refuses with CONFIG_CHECK. -/
def kindThree : Word := 3 <<< 38

theorem kindThree_refused (w1 : Word) : controllerOk kindThree w1 = false := by
  simp [controllerOk, kindThree, ctlKind, bits]

/-- A run of two iterations whose first done has come back is under way. -/
theorem ctlComplete_kindThree : ctlComplete kindThree 2 [1, 0, 0, 0] [1, 0, 0, 0] = false := by decide

/-- Refutes O41: it is stated for every word 0, and takes each KIND from 2 on as streaming, of one permit for a run. The model does so for KIND 2 alone:
with KIND 3, which no configured controller has, a run of two iterations is not complete after its first done. -/
theorem not_packetsTravelAndNodesServe : ¬ Obligations.PacketsTravelAndNodesServe := by
  rintro ⟨-, -, hcontroller⟩
  obtain ⟨-, hcomplete, -⟩ := hcontroller kindThree 0 2 [1, 0, 0, 0] [1, 0, 0, 0] [0, 0, 0, 0]
  have hone : ∀ c ≤ (kindThree.extractLsb' 36 2).toNat, [1, 0, 0, 0].getD c 0 = 1 := by decide
  exact absurd (hcomplete.2 ⟨rfl, hone⟩) (by simp [ctlComplete_kindThree])

end Sys2Proof.Machine
end

section
/-! Packets sent (R154, R160): what an instruction finds of its out-queue, and the packet that it places there. -/

namespace Sys2Proof.Machine

/-! ### Out-queues of a cell -/

@[simp] theorem Cell.queue_enqueue_same (q : BitVec 3) (P : Packet) (c : Cell) :
    (c.enqueue q P).queue q = { c.queue q with pkts := (c.queue q).pkts ++ [P] } :=
  Vector.getElem_set_self _

theorem Cell.queue_enqueue_other {k q : BitVec 3} (hne : k ≠ q) (P : Packet) (c : Cell) : (c.enqueue q P).queue k = c.queue k :=
  Vector.getElem_set_ne q.isLt k.isLt fun e => hne (BitVec.eq_of_toNat_eq e.symm)

/-- The state that a packet placed in an out-queue leaves (R154). -/
def State.sending (s : State) (q : BitVec 3) (P : Packet) : State := advance 4 (s.onCell (Cell.enqueue q P))

theorem sending_queue_same (q : BitVec 3) (P : Packet) (s : State) : ((s.sending q P).cell.queue q).pkts = (s.cell.queue q).pkts ++ [P] :=
  congrArg OutQueue.pkts (Cell.queue_enqueue_same q P s.cell)

theorem sending_queue_other {k q : BitVec 3} (hne : k ≠ q) (P : Packet) (s : State) : (s.sending q P).cell.queue k = s.cell.queue k :=
  Cell.queue_enqueue_other hne P s.cell

/-! ### What an instruction finds (R154) -/

section
variable {q : BitVec 3} {s : State}

theorem ownQueue_absent (h : (s.cell.queue q).en = false) (t : State) : ownQueue q s t = raise cCHANNEL_FORMAT (q.setWidth 8) 0 s := by
  rw [ownQueue, if_pos (by simp [h]), misformed, BitVec.ofNat_toNat]

theorem ownQueue_own (h : (s.cell.queue q).en = true) (t : State) : ownQueue q s t = t := if_neg (by simp [h])

theorem place2_full (h : 2 ≤ (s.cell.queue q).pkts.length) (P : Packet) : place2 q P s = hold (.expiring (.chanOut q)) s := if_pos h

theorem place2_room (h : (s.cell.queue q).pkts.length < 2) (P : Packet) : place2 q P s = s.sending q P := if_neg (Nat.not_le.2 h)

end

/-! ### Instructions -/

/-- What R154 says of an instruction that sends a packet of these lanes, END and PSN. -/
def State.Sends (s : State) (q : BitVec 3) (r : Result) (lanes : List W32) (ends psn : Bool) : Prop :=
  ((s.cell.queue q).en = false → r = .next (raise cCHANNEL_FORMAT (q.setWidth 8) 0 s)) ∧
  ((s.cell.queue q).en = true → 2 ≤ (s.cell.queue q).pkts.length → r = .next (hold (.expiring (.chanOut q)) s)) ∧
  ((s.cell.queue q).en = true → (s.cell.queue q).pkts.length < 2 →
    ∃ t P, r = .next t ∧ (t.cell.queue q).pkts = (s.cell.queue q).pkts ++ [P] ∧ P.lanes = lanes ∧ P.ends = ends ∧ P.psn = psn ∧
      t.cell.pc = s.cell.pc + 4 ∧ t.cell.x = s.cell.x ∧ t.cell.v = s.cell.v ∧ t.cell.chan = s.cell.chan ∧
      (∀ k, k ≠ q → t.cell.queue k = s.cell.queue k) ∧ t.pkg = s.pkg)

/-- An instruction that places a packet in its own out-queue sends it. -/
theorem sends_placed (q : BitVec 3) (lanes : List W32) (ends psn : Bool) (s : State) :
    s.Sends q (.next (ownQueue q s (place2 q (packetOf lanes ends psn) s))) lanes ends psn := by
  refine ⟨fun he => by rw [ownQueue_absent he], fun he hl => by rw [ownQueue_own he, place2_full hl], fun he hl => ?_⟩
  refine ⟨s.sending q (packetOf lanes ends psn), packetOf lanes ends psn, by rw [ownQueue_own he, place2_room hl], sending_queue_same .., rfl, rfl, rfl,
    rfl, rfl, rfl, rfl, fun k hk => sending_queue_other hk .., rfl⟩

section
variable {va : VIdx} {a b : XIdx} {A B : Word} {V : VReg} {s : State}

theorem exec_send (hv : s.HasV va V) (q : BitVec 3) (psn inv : Bool) (p : PIdx) :
    exec (.send q va psn inv p) s = .next (ownQueue q s (place2 q (packetOf V.packet (s.cell.pred p != inv) psn) s)) :=
  congrArg Host.Outcome.next (readV_has hv _)

theorem exec_sendx (ha : s.HasX a A) (q : BitVec 3) (psn inv : Bool) (p : PIdx) (w : Bool) :
    exec (.sendx q a psn inv p w) s = .next (ownQueue q s (place2 q
      (packetOf (if w then [A.setWidth 32] else [A.setWidth 32, A.extractLsb' 32 32]) (s.cell.pred p != inv) psn) s)) :=
  congrArg Host.Outcome.next (readX_has ha _)

theorem exec_ctlDone (ha : s.HasX a A) (q : BitVec 3) :
    exec (.ctlDone q a) s = .next (ownQueue q s (place2 q (packetOf [A.setWidth 32] true false) s)) :=
  congrArg Host.Outcome.next (readX_has ha _)

theorem exec_ctlPermit (ha : s.HasX a A) (hb : s.HasX b B) (q : BitVec 3) :
    exec (.ctlPermit q a b) s = .next (ownQueue q s (place2 q (packetOf [A.setWidth 32, B.setWidth 32] true false) s)) :=
  congrArg Host.Outcome.next ((readX_has ha _).trans (readX_has hb _))

end

/-- Settles O39: each of the four instructions places a packet of its own lanes in its out-queue. -/
theorem packetsSent : Obligations.PacketsSent := by
  intro q va a b A B V psn inv w p s ha hb hv ends e he
  change s.Sends q (exec e.1 s) e.2.1 e.2.2.1 e.2.2.2
  simp only [List.mem_cons, List.not_mem_nil, or_false] at he
  rcases he with rfl | rfl | rfl | rfl
  · rw [exec_send hv]
    exact sends_placed ..
  · rw [exec_sendx ha]
    exact sends_placed ..
  · rw [exec_ctlDone ha]
    exact sends_placed ..
  · rw [exec_ctlPermit ha hb]
    exact sends_placed ..

end Sys2Proof.Machine
end

section
/-! The handler instructions (R20, R157-R159): the end of an activation, the fields of a handler entry, and the binding of a channel. -/

namespace Sys2Proof.Machine

section
variable {a b d : XIdx} {A B : Word} {s : State}

/-! ### `hnd.end` and `hnd.self` (R20, R157, R159) -/

/-- The entry of a handler whose activation has ended, when a token waits on the channel given, or on none (R20; log 63). -/
def Handler.ended (w : Option ChIdx) (x : Handler) : Handler :=
  { x with st := if w.isSome then .runnable else .idle, pc := x.entry, chan := w.getD x.chan, byStart := x.byStart && w.isNone,
           pend := .none, key := none, wide := false }

theorem Cell.handler_endActivation_same (r : BitVec 6) (c : Cell) : (c.endActivation r).handler r = (c.handler r).ended (c.waitingChannel r) :=
  (Cell.handler_congr (c := c.onHnd r _) rfl r).trans (Cell.handler_onHnd_same r (Handler.ended (c.waitingChannel r)) c)

theorem exec_hndEnd_trapped (ht : s.cell.k.t = true) : exec .hndEnd s = .next (raise cILLEGAL 0 0 s) :=
  congrArg Host.Outcome.next (if_pos ht)

theorem exec_hndEnd {r : BitVec 6} (ht : s.cell.k.t = false) (hr : s.cell.cur = some r) :
    exec .hndEnd s = .next (s.onCell (Cell.endActivation r)) := by
  refine congrArg Host.Outcome.next ((if_neg (by simp [ht])).trans ?_)
  rw [hr]

theorem exec_hndSelf {r : BitVec 6} (hr : s.cell.cur = some r) (hd : s.FreeX d) : exec (.hndSelf d) s = .next (s.wroteX d (r.setWidth 64)) := by
  refine congrArg Host.Outcome.next ((retireX_wrote hd _).trans ?_)
  rw [hr]
  rfl

/-! ### The fields of an entry (R157) -/

/-- An entry of the handler table changed, and the word performed. -/
def State.changedHnd (s : State) (h : BitVec 6) (f : Handler → Handler) : State := advance 4 (s.onCell (Cell.onHnd h f))

/-- What R157 leaves of the handler table. -/
theorem changedHnd_table (h : BitVec 6) (f : Handler → Handler) (s : State) : (s.changedHnd h f).cell.pc = s.cell.pc + 4 ∧
    (s.changedHnd h f).cell.handler h = f (s.cell.handler h) ∧ ∀ k, k ≠ h → (s.changedHnd h f).cell.handler k = s.cell.handler k :=
  ⟨rfl, Cell.handler_onHnd_same h f s.cell, fun _ hk => Cell.handler_onHnd_other hk f s.cell⟩

theorem onHandler_absent (ha : s.HasX a A) (hv : (s.cell.handler (A.setWidth 6)).v = false) (f : BitVec 6 → State) :
    onHandler a s f = raise cCHANNEL_FORMAT 0 0 s :=
  (readX_has ha _).trans (if_neg (by simp [hv]))

theorem onHandler_present (ha : s.HasX a A) (hv : (s.cell.handler (A.setWidth 6)).v = true) (f : BitVec 6 → State) :
    onHandler a s f = f (A.setWidth 6) :=
  (readX_has ha _).trans (if_pos hv)

/-- `hnd.prio` reads both of its sources before it looks at the entry. -/
theorem exec_hndPrio (ha : s.HasX a A) (hb : s.HasX b B) :
    exec (.hndPrio a b) s = .next (onHandler a s fun h => s.changedHnd h fun e => { e with prio := B.setWidth 4 }) :=
  have hh : onHandler a s (fun h => s.changedHnd h fun e => { e with prio := B.setWidth 4 }) = _ := readX_has ha _
  congrArg Host.Outcome.next ((readX_has ha _).trans ((readX_has hb _).trans hh.symm))

/-- An instruction on a handler that is not there. -/
theorem exec_absentHandler (ha : s.HasX a A) (hb : s.HasX b B) (hv : (s.cell.handler (A.setWidth 6)).v = false) :
    ∀ i ∈ [Instr.hndMask a, .hndUnmask a, .hndPrio a b], exec i s = .next (raise cCHANNEL_FORMAT 0 0 s) := by
  intro i hi
  simp only [List.mem_cons, List.not_mem_nil, or_false] at hi
  rcases hi with rfl | rfl | rfl
  · exact congrArg Host.Outcome.next (onHandler_absent ha hv _)
  · exact congrArg Host.Outcome.next (onHandler_absent ha hv _)
  · rw [exec_hndPrio ha hb, onHandler_absent ha hv]

/-! ### `hnd.bind` (R158) -/

/-- The handler that a channel names after a binding is the one bound. -/
theorem handlerTarget_lt (g : BitVec 6) : (g.setWidth 7).toNat < 64 := by
  rw [BitVec.toNat_setWidth_of_le (by decide)]
  exact g.isLt

theorem handlerTarget_back (g : BitVec 6) : (g.setWidth 7).setWidth 6 = g :=
  (BitVec.setWidth_setWidth_of_le _ (by decide)).trans (BitVec.setWidth_eq g)

/-- A channel of a handler passes a token on to it alone, and only where it fires. -/
theorem Cell.fire_handlerTarget {c : Cell} {ch : ChIdx} {g : BitVec 6} (ht : (c.chanAt ch).tgt = g.setWidth 7) :
    c.fire ch = if (c.chanAt ch).fire then c.onHnd g (Handler.fired ch) else c := by
  simp only [Cell.fire, ht, handlerTarget_lt, handlerTarget_back, decide_true, Bool.and_true]

/-- A channel with another target. -/
def Cell.retargeted (ch : ChIdx) (g : BitVec 6) (c : Cell) : Cell := c.onChan ch fun C => { C with tgt := g.setWidth 7 }

theorem Cell.chanAt_retargeted (ch : ChIdx) (g : BitVec 6) (c : Cell) : (c.retargeted ch g).chanAt ch = { c.chanAt ch with tgt := g.setWidth 7 } :=
  Cell.chanAt_onChan_same ..

/-- The handler bound becomes RUNNABLE by a token that waits on a channel that fires. -/
theorem Cell.bindChannel_eq (ch : ChIdx) (g : BitVec 6) (c : Cell) : c.bindChannel ch g =
    if (c.chanAt ch).waiting = true ∧ (c.chanAt ch).fire = true then (c.retargeted ch g).onHnd g (Handler.fired ch) else c.retargeted ch g := by
  have hC := Cell.chanAt_retargeted ch g c
  have hw : ((c.retargeted ch g).chanAt ch).waiting = (c.chanAt ch).waiting := by rw [hC]; rfl
  have hf : ((c.retargeted ch g).chanAt ch).fire = (c.chanAt ch).fire := by rw [hC]
  rw [Cell.bindChannel, ite_and, ← hw, ← hf, ← Cell.fire_handlerTarget (congrArg Channel.tgt hC)]
  rfl

theorem Cell.chanAt_bindChannel (ch : ChIdx) (g : BitVec 6) (c : Cell) : (c.bindChannel ch g).chanAt ch = { c.chanAt ch with tgt := g.setWidth 7 } := by
  rw [← Cell.chanAt_retargeted, Cell.bindChannel_eq]
  split <;> rfl

theorem Cell.bindChannel_pc (ch : ChIdx) (g : BitVec 6) (c : Cell) : (c.bindChannel ch g).pc = c.pc := by
  rw [Cell.bindChannel_eq]
  split <;> rfl

theorem Handler.fired_st (ch : ChIdx) (h : Handler) : (h.fired ch).st = if h.st = .idle then .runnable else h.st := by
  unfold Handler.fired
  split <;> rfl

theorem Cell.handler_bindChannel_st (ch : ChIdx) (g : BitVec 6) (c : Cell) : ((c.bindChannel ch g).handler g).st =
    if (c.handler g).st = .idle ∧ (c.chanAt ch).fire = true ∧ (c.chanAt ch).waiting = true then .runnable else (c.handler g).st := by
  rw [Cell.bindChannel_eq]
  by_cases h : (c.chanAt ch).waiting = true ∧ (c.chanAt ch).fire = true
  · rw [if_pos h, Cell.handler_onHnd_same, Handler.fired_st]
    simp only [h, and_self, and_true]
    rfl
  · rw [if_neg h, if_neg fun hall => h ⟨hall.2.2, hall.2.1⟩]
    rfl

theorem Cell.handler_bindChannel_other {k g : BitVec 6} (hk : k ≠ g) (ch : ChIdx) (c : Cell) : (c.bindChannel ch g).handler k = c.handler k := by
  rw [Cell.bindChannel_eq]
  split
  · exact Cell.handler_onHnd_other hk _ _
  · rfl

section
variable (ha : s.HasX a A) (hb : s.HasX b B)
include ha hb

theorem exec_hndBind (he : (s.cell.chanAt (A.setWidth 5)).en = true) (ht : (s.cell.chanAt (A.setWidth 5)).tgt.toNat < 64)
    (hv : (s.cell.handler (B.setWidth 6)).v = true) :
    exec (.hndBind a b) s = .next (advance 4 (s.onCell (Cell.bindChannel (A.setWidth 5) (B.setWidth 6)))) := by
  refine congrArg Host.Outcome.next ((readX_has ha _).trans ((readX_has hb _).trans (if_neg ?_)))
  simp [he, ht, hv]

theorem exec_hndBind_refused (h : (s.cell.chanAt (A.setWidth 5)).en = false ∨ 64 ≤ (s.cell.chanAt (A.setWidth 5)).tgt.toNat ∨
    (s.cell.handler (B.setWidth 6)).v = false) :
    exec (.hndBind a b) s = .next (raise cCHANNEL_FORMAT ((A.setWidth 5 : ChIdx).setWidth 8) 0 s) := by
  refine congrArg Host.Outcome.next ((readX_has ha _).trans ((readX_has hb _).trans ((if_pos ?_).trans (misformed_channel ..))))
  simpa [or_assoc] using h

end

end

/-! ### The obligation -/

/-- Settles O40: each handler instruction by what it does to the entry or the channel that it names. -/
theorem handlerInstructions : Obligations.HandlerInstructions := by
  intro a b d A B s ha hb h ch g
  refine ⟨exec_hndEnd_trapped, fun r ht hr => ⟨_, exec_hndEnd ht hr, rfl, ?_, ?_, rfl, rfl, rfl, rfl, rfl⟩, fun r hr hd => exec_hndSelf hr hd,
    exec_absentHandler ha hb, fun hv => ⟨?_, ?_, ?_⟩, fun he ht hv => ⟨_, exec_hndBind ha hb he ht hv, congrArg (· + 4) (Cell.bindChannel_pc ch g s.cell), ?_, ?_, ?_, ?_⟩, exec_hndBind_refused ha hb⟩
  · exact congrArg Handler.st (Cell.handler_endActivation_same r s.cell)
  · exact congrArg Handler.pc (Cell.handler_endActivation_same r s.cell)
  · exact ⟨_, congrArg Host.Outcome.next (onHandler_present ha hv _), changedHnd_table ..⟩
  · exact ⟨_, congrArg Host.Outcome.next (onHandler_present ha hv _), changedHnd_table ..⟩
  · exact ⟨_, (exec_hndPrio ha hb).trans (congrArg Host.Outcome.next (onHandler_present ha hv _)), changedHnd_table ..⟩
  · exact congrArg Channel.tgt (Cell.chanAt_bindChannel ch g s.cell)
  · exact (congrArg Channel.pkts (Cell.chanAt_bindChannel ch g s.cell) :)
  · exact Cell.handler_bindChannel_st ch g s.cell
  · exact fun k hk => Cell.handler_bindChannel_other hk ch s.cell

end Sys2Proof.Machine
end

section
/-! Records as words of fields (R333, R343): what a word holds at the place of each of its fields. -/

namespace Sys2Proof.Machine

/-! ### Words of fields -/

/-- Fields given as value, lowest bit and width, each within its width and below those after it. -/
def Laid : List (Nat × Nat × Nat) → Prop
  | [] => True
  | (v, i, n) :: l => v < 2 ^ n ∧ (∀ e ∈ l, i + n ≤ e.2.1) ∧ Laid l

/-- The number that fields spell. -/
def laidSum (l : List (Nat × Nat × Nat)) : Nat := (l.map fun e => e.1 * 2 ^ e.2.1).sum

theorem laidSum_cons (v i n : Nat) (l : List (Nat × Nat × Nat)) : laidSum ((v, i, n) :: l) = v * 2 ^ i + laidSum l := List.sum_cons

theorem fields_laid (l : List (Nat × Nat × Nat)) : fields (l.map fun e => (e.1, e.2.1)) = BitVec.ofNat 64 (laidSum l) := by
  induction l with
  | nil => rfl
  | cons e l ih =>
    obtain ⟨v, i, n⟩ := e
    rw [List.map_cons, fields_cons, ih, laidSum_cons, BitVec.ofNat_add]

/-- Fields from bit k on leave what is below it zero. -/
theorem dvd_laidSum {k : Nat} {l : List (Nat × Nat × Nat)} (h : ∀ e ∈ l, k ≤ e.2.1) : 2 ^ k ∣ laidSum l := by
  refine List.dvd_sum fun x hx => ?_
  obtain ⟨e, he, rfl⟩ := List.mem_map.1 hx
  exact Dvd.dvd.mul_left (Nat.pow_dvd_pow 2 (h e he)) _

/-- The first field, with the others above it. -/
theorem laidSum_first {v i n : Nat} {l : List (Nat × Nat × Nat)} (hv : v < 2 ^ n) (hl : ∀ e ∈ l, i + n ≤ e.2.1) :
    laidSum ((v, i, n) :: l) / 2 ^ i % 2 ^ n = v := by
  obtain ⟨k, hk⟩ := dvd_laidSum hl
  rw [laidSum_cons, hk, Nat.pow_add, Nat.mul_assoc, Nat.mul_comm v, ← Nat.mul_add, Nat.mul_div_cancel_left _ (Nat.two_pow_pos i), Nat.add_mul_mod_self_left,
    Nat.mod_eq_of_lt hv]

/-- What is above the first field does not depend on it. -/
theorem laidSum_above {v i n j : Nat} {l : List (Nat × Nat × Nat)} (hv : v < 2 ^ n) (hl : ∀ e ∈ l, i + n ≤ e.2.1) (hj : i + n ≤ j) :
    laidSum ((v, i, n) :: l) / 2 ^ j = laidSum l / 2 ^ j := by
  obtain ⟨k, hk⟩ := dvd_laidSum hl
  obtain ⟨d, rfl⟩ := Nat.exists_eq_add_of_le hj
  have hlow : v * 2 ^ i < 2 ^ (i + n) := by
    rw [Nat.pow_add, Nat.mul_comm]
    exact Nat.mul_lt_mul_of_pos_left hv (Nat.two_pow_pos i)
  rw [laidSum_cons, hk, Nat.pow_add _ (i + n), ← Nat.div_div_eq_div_mul, ← Nat.div_div_eq_div_mul, Nat.add_mul_div_left _ _ (Nat.two_pow_pos _),
    Nat.div_eq_of_lt hlow, Nat.zero_add, Nat.mul_div_cancel_left _ (Nat.two_pow_pos _)]

/-- Every field is found at its place. -/
theorem laidSum_field {v i n : Nat} : ∀ {l : List (Nat × Nat × Nat)}, Laid l → (v, i, n) ∈ l → laidSum l / 2 ^ i % 2 ^ n = v
  | (_, _, _) :: l, ⟨hv, hl, hlaid⟩, hmem => by
    rcases List.mem_cons.1 hmem with heq | hin
    · cases heq
      exact laidSum_first hv hl
    · rw [laidSum_above hv hl (hl _ hin)]
      exact laidSum_field hlaid hin

/-- What a word of fields holds at the place of one of them. -/
theorem extract_fields {l : List (Nat × Nat × Nat)} (h : Laid l) {v i n : Nat} (hmem : (v, i, n) ∈ l) (hin : i + n ≤ 64) :
    ((fields (l.map fun e => (e.1, e.2.1))).extractLsb' i n).toNat = v := by
  have hcut : laidSum l % 2 ^ 64 / 2 ^ i % 2 ^ n = laidSum l / 2 ^ i % 2 ^ n := by
    refine Nat.eq_of_testBit_eq fun j => ?_
    rw [Nat.testBit_mod_two_pow, Nat.testBit_mod_two_pow, Nat.testBit_div_two_pow, Nat.testBit_div_two_pow, Nat.testBit_mod_two_pow]
    by_cases hj : j < n
    · rw [decide_eq_true (show j + i < 64 by omega), Bool.true_and]
    · rw [decide_eq_false hj, Bool.false_and, Bool.false_and]
  rw [fields_laid, BitVec.extractLsb'_toNat, BitVec.toNat_ofNat, Nat.shiftRight_eq_div_pow, hcut]
  exact laidSum_field h hmem

theorem extract_fields_eq {l : List (Nat × Nat × Nat)} (h : Laid l) {i n : Nat} {x : BitVec n} (hmem : (x.toNat, i, n) ∈ l) (hin : i + n ≤ 64) :
    (fields (l.map fun e => (e.1, e.2.1))).extractLsb' i n = x :=
  BitVec.eq_of_toNat_eq (extract_fields h hmem hin)

/-- A field of one bit. -/
theorem bit_of_extract {w : Word} {i : Nat} {b : Bool} (h : w.extractLsb' i 1 = BitVec.ofBool b) : w.getLsbD i = b := by
  have h0 := congrArg (BitVec.getLsbD · 0) h
  simpa only [BitVec.getLsbD_extractLsb', BitVec.getLsbD_ofBool, Nat.add_zero, decide_true, Bool.true_and, Nat.zero_lt_one, beq_self_eq_true] using h0

/-! ### Acknowledgement records (R343) and fault records (R333) -/

section
variable (L : Launch) (save : Word) (code : Byte) (cycles : Word)

theorem ackRecord_laid (hp : L.prio < 16) : Laid [(5, 0, 8), (code.toNat, 8, 8), (L.prio + 1, 32, 5), (L.ctx.toNat, 40, 6)] := by
  have hprio : L.prio + 1 < 32 := by omega
  simpa [Laid, hprio] using And.intro code.isLt L.ctx.isLt

theorem ackRecord_words (hp : L.prio < 16) : let r := ackRecord L save code cycles
    r.length = 8 ∧ (r.getD 0 0).extractLsb' 0 8 = 5#8 ∧ (r.getD 0 0).extractLsb' 8 8 = code ∧ (r.getD 0 0).extractLsb' 32 5 = BitVec.ofNat 5 (L.prio + 1) ∧
      (r.getD 0 0).extractLsb' 40 6 = L.ctx ∧ (r.getD 1 0).extractLsb' 0 48 = L.pos ∧ (r.getD 1 0).extractLsb' 48 16 = L.tag ∧ r.getD 2 0 = save ∧
      r.getD 3 0 = cycles := by
  have hl := ackRecord_laid L code hp
  have hprio : (BitVec.ofNat 5 (L.prio + 1)).toNat = L.prio + 1 := Nat.mod_eq_of_lt (by omega)
  exact ⟨rfl, extract_fields_eq hl (x := 5#8) (by simp) (by decide), extract_fields_eq hl (by simp) (by decide),
    extract_fields_eq hl (by simp [hprio]) (by decide), extract_fields_eq hl (by simp) (by decide),
    BitVec.extractLsb'_append_eq_right, BitVec.extractLsb'_append_eq_left, rfl, rfl⟩

end

section
variable (c : CellId) (x : Cell) (f : FaultRec)

theorem faultRecord_laid : Laid [(1, 0, 8), (f.code.toNat, 8, 8), (c.toNat, 32, 14), (f.hnd.toNat, 46, 7), (f.src.toNat, 53, 2),
    (if f.t then 1 else 0, 55, 1), (f.detail.toNat, 56, 8)] := by
  have ht : (if f.t then 1 else 0) < 2 := by split <;> decide
  simpa [Laid, ht] using ⟨f.code.isLt, c.isLt, f.hnd.isLt, f.src.isLt, f.detail.isLt⟩

theorem faultRecord_laid_pc (h : cfgIdx x f < 2 ^ 16) : Laid [(f.pc.toNat, 0, 14), (cfgIdx x f, 16, 16), (f.word.toNat, 32, 32)] := by
  simpa [Laid] using ⟨f.pc.isLt, h, f.word.isLt⟩

theorem faultRecord_words : let r := faultRecord c x f
    r.length = 8 ∧ (r.getD 0 0).extractLsb' 0 8 = 1#8 ∧ (r.getD 0 0).extractLsb' 8 8 = f.code ∧ (r.getD 0 0).extractLsb' 32 14 = c ∧
      (r.getD 0 0).extractLsb' 46 7 = f.hnd ∧ (r.getD 0 0).extractLsb' 53 2 = f.src ∧ (r.getD 0 0).getLsbD 55 = f.t ∧ (r.getD 0 0).extractLsb' 56 8 = f.detail ∧
      (cfgIdx x f < 2 ^ 16 → (r.getD 1 0).extractLsb' 0 14 = f.pc ∧ ((r.getD 1 0).extractLsb' 16 16).toNat = cfgIdx x f ∧ (r.getD 1 0).extractLsb' 32 32 = f.word) ∧
      (r.getD 2 0).extractLsb' 32 32 = f.info ∧ (r.getD 2 0).extractLsb' 0 32 = f.aux0 ∧ r.getD 3 0 = f.aux1 := by
  intro r
  have hl := faultRecord_laid c f
  have ht : (r.getD 0 0).extractLsb' 55 1 = BitVec.ofBool f.t := extract_fields_eq hl (by cases f.t <;> simp) (by decide)
  refine ⟨rfl, extract_fields_eq hl (x := 1#8) (by simp) (by decide), extract_fields_eq hl (by simp) (by decide), extract_fields_eq hl (by simp) (by decide),
    extract_fields_eq hl (by simp) (by decide), extract_fields_eq hl (by simp) (by decide), bit_of_extract ht, extract_fields_eq hl (by simp) (by decide),
    fun hidx => ?_, BitVec.extractLsb'_append_eq_left, BitVec.extractLsb'_append_eq_right, rfl⟩
  have hl := faultRecord_laid_pc x f hidx
  exact ⟨extract_fields_eq hl (by simp) (by decide), extract_fields hl (by simp) (by decide), extract_fields_eq hl (by simp) (by decide)⟩

end

end Sys2Proof.Machine
end

section
/-! What the sequencers and the loader hold of a package, its boards, launches and requests for loads: what posting a record, a push of a stream and the end
of a load leave of it (R134, R214, R225). -/

namespace Sys2Proof.Machine

/-- The boards, the launches and the requests to the loader. -/
def Package.ledger (p : Package) : List Board × List Launch × List LoadReq := (p.boards, p.launches, p.loads)

theorem Package.ledger_eq {p p' : Package} (h : p'.ledger = p.ledger) : p'.boards = p.boards ∧ p'.launches = p.launches ∧ p'.loads = p.loads :=
  ⟨congrArg Prod.fst h, congrArg (fun x => x.2.1) h, congrArg (fun x => x.2.2) h⟩

theorem Package.ledger_congr {p p' : Package} (hb : p'.boards = p.boards) (hl : p'.launches = p.launches) (hq : p'.loads = p.loads) :
    p'.ledger = p.ledger := by
  rw [Package.ledger, hb, hl, hq]
  rfl

/-! ### Contexts, records and signals -/

theorem ledger_onCtx (ctx : BitVec 6) (f : Context → Context) (p : Package) : (p.onCtx ctx f).ledger = p.ledger := by
  unfold Package.onCtx
  split <;> rfl

theorem ledger_ite {c : Prop} [Decidable c] {s t u : State} (h : t.pkg.ledger = s.pkg.ledger) (h' : u.pkg.ledger = s.pkg.ledger) :
    (if c then t else u).pkg.ledger = s.pkg.ledger := by
  split
  · exact h
  · exact h'

theorem ledger_signal (n : Nat) (vec : Bool) (s : State) : (signal n vec s).pkg.ledger = s.pkg.ledger := by
  unfold signal
  split
  · exact ledger_ite rfl (ledger_ite rfl rfl)
  · rfl

theorem ledger_setRecord (b : Bound) (r : StreamRec) (s : State) : (setRecord b r s).pkg.ledger = s.pkg.ledger := by
  have hpush {push : CellId → Cell → Cell} {due : Bool} :
      ((s.onPkg fun p => { p.write b.pa (recordBytes r) with allocDue := due }).mapCells push).pkg.ledger = s.pkg.ledger :=
    Package.ledger_congr rfl rfl rfl
  unfold setRecord
  dsimp only
  split
  · exact (foldl_keeps (g := fun t : State => t.pkg.ledger) (fun t n _ => ledger_signal n true t) _).trans hpush
  · exact hpush

theorem ledger_deadlockCheck (ctx : BitVec 6) (num : BitVec 15) (s : State) : (deadlockCheck ctx num s).pkg.ledger = s.pkg.ledger := by
  unfold deadlockCheck
  split
  · rfl
  · dsimp only
    split
    · rfl
    · split
      · rw [atCell_pkg, ledger_setRecord]
      · rfl

theorem ledger_changeRecord (b : Bound) (r : StreamRec) (s : State) : (changeRecord b r s).pkg.ledger = s.pkg.ledger :=
  (ledger_deadlockCheck ..).trans (ledger_setRecord ..)

/-! ### Translations and writes -/

theorem ledger_translateFor {rd wr : Bool} {ctx : BitVec 6} {va : Word} {p p' : Package} {g : Got Xlat} (h : translateFor rd wr ctx va p = (g, p')) :
    p'.ledger = p.ledger := by
  have hp := congrArg Package.ledger (translateFor_pkg rd wr ctx va p)
  rw [h] at hp
  exact hp

theorem ledger_framePlace {wr : Bool} {ctx : BitVec 6} {frames : List Word} {back : BitVec 2} {k logn : Nat} {pos : BitVec 48} {p p' : Package} {g : Got Place}
    (h : framePlace wr ctx frames back k logn pos p = (g, p')) : p'.ledger = p.ledger := by
  have hp := congrArg Package.ledger (framePlace_pkg wr ctx frames back k logn pos p)
  rw [h] at hp
  exact hp

theorem ledger_framePlaces (wr : Bool) (b : Bound) (r : StreamRec) :
    ∀ (l : List (BitVec 48 × Nat)) {p p' : Package} {g : Got (List (Place × Nat))}, framePlaces wr b r l p = (g, p') → p'.ledger = p.ledger
  | [], _, _, _, h => by cases h; rfl
  | (pos, n) :: l, p, p', g, h => by
    unfold framePlaces at h
    split at h
    next heq =>
      have h1 := ledger_framePlace heq
      split at h
      · cases h
        exact h1
      · split at h
        next heq' =>
          cases h
          exact (ledger_framePlaces wr b r l heq').trans h1
        next => exact (ledger_framePlaces wr b r l h).trans h1
    next heq =>
      cases h
      exact ledger_framePlace heq
    next heq =>
      cases h
      exact ledger_framePlace heq

theorem ledger_place (rd wr : Bool) (ctx : BitVec 6) :
    ∀ (l : List (Nat × Nat)) {p p' : Package} {g : Got (List (Nat × Nat))}, place rd wr ctx l p = (g, p') → p'.ledger = p.ledger
  | [], _, _, _, h => by cases h; rfl
  | (va, n) :: l, p, p', g, h => by
    unfold place at h
    split at h
    next heq =>
      have h1 := ledger_translateFor heq
      split at h
      next heq' =>
        cases h
        exact (ledger_place rd wr ctx l heq').trans h1
      next => exact (ledger_place rd wr ctx l h).trans h1
    next heq =>
      cases h
      exact ledger_translateFor heq
    next heq =>
      cases h
      exact ledger_translateFor heq

theorem ledger_writePieces : ∀ (l : List (Nat × Nat)) (data : List Byte) (p : Package), (Package.writePieces l data p).ledger = p.ledger
  | [], _, _ => rfl
  | (k, n) :: l, data, p => ledger_writePieces l (data.drop n) (p.write k (data.take n))

theorem ledger_writeVirtual {ctx : BitVec 6} {va : Nat} {data : List Byte} {p p' : Package} {g : Got Unit} (h : writeVirtual ctx va data p = (g, p')) :
    p'.ledger = p.ledger := by
  unfold writeVirtual at h
  split at h
  next heq =>
    have h1 := ledger_place _ _ _ _ heq
    split at h
    · cases h
      exact h1
    · cases h
      exact (ledger_writePieces ..).trans h1
  next heq =>
    cases h
    exact ledger_place _ _ _ _ heq
  next heq =>
    cases h
    exact ledger_place _ _ _ _ heq

theorem ledger_writePlace (pl : Place) (data : List Byte) (s : State) : (writePlace pl data s).pkg.ledger = s.pkg.ledger := by
  cases pl with
  | cell c off => exact congrArg Package.ledger (atCell_pkg ..)
  | phys k => rfl

theorem ledger_writePlaces : ∀ (l : List (Place × Nat)) (data : List Byte) (s : State), (writePlaces l data s).pkg.ledger = s.pkg.ledger
  | [], _, _ => rfl
  | (pl, n) :: l, data, s => (ledger_writePlaces l (data.drop n) _).trans (ledger_writePlace pl (data.take n) s)

/-! ### The event stream (R224, R225) -/

theorem ledger_publishNow {ctx : BitVec 6} {d : List Word} {s t : State} (h : publishNow ctx d s = .done t) : t.pkg.ledger = s.pkg.ledger := by
  unfold publishNow at h
  split at h
  · dsimp only at h
    split at h
    · cases h
    · split at h
      next heq =>
        cases h
        rw [ledger_signal, ledger_setRecord, ledger_writePlaces, ledger_onCtx, ledger_framePlaces _ _ _ _ heq]
      · cases h
      · cases h
  · cases h

theorem ledger_dropRecord (ctx : BitVec 6) (s : State) : (dropRecord ctx s).pkg.ledger = s.pkg.ledger := ledger_onCtx ..

theorem ledger_post (ctx : BitVec 6) (d : List Word) (s : State) : (post ctx d s).pkg.ledger = s.pkg.ledger := by
  have hwait (c : Context) : (if c.overflow.length < 256 then s.onPkg (Package.onCtx ctx fun c => { c with overflow := c.overflow ++ [d] })
      else dropRecord ctx s).pkg.ledger = s.pkg.ledger := by
    split
    · exact ledger_onCtx ..
    · exact ledger_dropRecord ..
  unfold post
  split
  · rfl
  · dsimp only
    split
    · exact hwait _
    · split
      next h => exact ledger_publishNow h
      · exact hwait _
      · exact (ledger_onCtx ..).trans (hwait _)
      · exact ledger_dropRecord ..

/-! ### The end of a load (R134, R218) -/

theorem ledger_leaveStreams (b : Board) (s : State) : (leaveStreams b s).pkg.ledger = s.pkg.ledger := by
  refine foldl_keeps (g := fun t : State => t.pkg.ledger) (fun t x _ => ?_) s
  refine foldl_keeps (g := fun t : State => t.pkg.ledger) (fun t o _ => ?_) t
  exact ledger_ite (ledger_changeRecord ..) rfl

theorem ledger_endRoles (b : Board) (s : State) : (endRoles b s).pkg.ledger = s.pkg.ledger := by
  refine (foldl_keeps (g := fun t : State => t.pkg.ledger) (fun t q _ => ?_) _).trans ?_ <;> rfl

theorem ledger_endLoad (b : Board) (s : State) : (endLoad b s).pkg.ledger = s.pkg.ledger :=
  (ledger_endRoles ..).trans (ledger_leaveStreams ..)

end Sys2Proof.Machine
end

section
/-! The fault that a board's sequencer accepts first (R336), and its acceptance (R332). -/

namespace Sys2Proof.Machine

/-! ### The first fault raised (R336) -/

/-- Whether a cell of a board holds a fault that its sequencer may accept. -/
def State.faultedOn (s : State) (b : Board) (c : CellId) : Bool := b.holds c && (s.cellAt c).board == some b.id && (s.cellAt c).fault.isSome

theorem faultedOn_iff {s : State} {b : Board} {c : CellId} :
    s.faultedOn b c = true ↔ b.holds c = true ∧ (s.cellAt c).board = some b.id ∧ (s.cellAt c).fault.isSome = true := by
  simp only [State.faultedOn, Bool.and_eq_true, beq_iff_eq, and_assoc]

/-- The lower of a cell and another one, if there is another. -/
def lowerCell (m : Option CellId) (c : CellId) : Option CellId :=
  match m with
  | some d => if c.toNat < d.toNat then some c else some d
  | none => some c

theorem raisedOn_eq (s : State) (b : Board) :
    s.raisedOn b = (s.pkg.raised.find? (s.faultedOn b)).or (((s.cells.map Prod.fst).filter (s.faultedOn b)).foldl lowerCell none) := by
  unfold State.raisedOn
  change (match s.pkg.raised.find? (s.faultedOn b) with | some c => some c | none => _) = _
  cases s.pkg.raised.find? (s.faultedOn b) <;> rfl

theorem lowerCell_spec (m : Option CellId) (c : CellId) : ∃ d, lowerCell m c = some d ∧ d.toNat ≤ c.toNat ∧ (d = c ∨ m = some d) ∧ ∀ e ∈ m, d.toNat ≤ e.toNat := by
  cases m with
  | none => exact ⟨c, rfl, Nat.le_refl _, .inl rfl, nofun⟩
  | some e =>
    by_cases h : c.toNat < e.toNat
    · exact ⟨c, if_pos h, Nat.le_refl _, .inl rfl, fun f hf => by cases hf; omega⟩
    · exact ⟨e, if_neg h, by omega, .inr rfl, fun f hf => by cases hf; exact Nat.le_refl _⟩

/-- The lowest cell of a list, and of what one begins with. -/
theorem foldl_lowerCell {l : List CellId} {m : Option CellId} {c : CellId} (h : l.foldl lowerCell m = some c) :
    (c ∈ l ∨ m = some c) ∧ (∀ d ∈ l, c.toNat ≤ d.toNat) ∧ ∀ d ∈ m, c.toNat ≤ d.toNat := by
  induction l generalizing m with
  | nil =>
    refine ⟨.inr h, nofun, fun d hd => ?_⟩
    cases (Option.mem_def.1 hd).symm.trans h
    exact Nat.le_refl _
  | cons a l ih =>
    obtain ⟨e, he, hea, hem, helow⟩ := lowerCell_spec m a
    obtain ⟨hmem, hlow, hfirst⟩ := ih h
    have hce : c.toNat ≤ e.toNat := hfirst e he
    refine ⟨?_, fun d hd => ?_, fun d hd => hce.trans (helow d hd)⟩
    · rcases hmem with hin | heq
      · exact .inl (List.mem_cons_of_mem _ hin)
      · cases he.symm.trans heq
        exact hem.imp_left fun hc => List.mem_cons.2 (.inl hc)
    · rcases List.mem_cons.1 hd with rfl | hd
      · exact hce.trans hea
      · exact hlow d hd

theorem mem_of_sget_ne {α : Type} {dflt : α} {k : Nat} : ∀ {m : List (Nat × α)}, sget dflt m k ≠ dflt → ∃ v, (k, v) ∈ m
  | [], h => absurd rfl h
  | (j, v) :: m, h => by
    by_cases hj : j = k
    · exact ⟨v, hj ▸ List.mem_cons_self⟩
    · obtain ⟨w, hw⟩ := mem_of_sget_ne (m := m) (k := k) (dflt := dflt) (by simpa [sget, hj] using h)
      exact ⟨w, List.mem_cons_of_mem _ hw⟩

/-- A cell that differs from one at reset is one of those listed. -/
theorem mem_cells {s : State} {c : CellId} (h : s.cellAt c ≠ Cell.reset) : c ∈ s.cells.map Prod.fst := by
  unfold State.cellAt at h
  unfold State.cells
  by_cases hc : c = s.here
  · exact hc ▸ List.mem_cons_self
  · rw [if_neg hc] at h
    obtain ⟨x, hx⟩ := mem_of_sget_ne h
    refine List.mem_cons_of_mem _ (List.mem_map.2 ⟨(c, x), List.mem_map.2 ⟨(c.toNat, x), hx, ?_⟩, rfl⟩)
    rw [BitVec.ofNat_toNat, BitVec.setWidth_eq]

theorem mem_cells_of_fault {s : State} {c : CellId} (h : (s.cellAt c).fault.isSome = true) : c ∈ s.cells.map Prod.fst :=
  mem_cells fun hr => by
    rw [hr] at h
    cases h

/-- The fault accepted is one of the board; where no order is known, that of its lowest cell. -/
theorem raisedOn_spec {b : Board} {c : CellId} {s : State} (h : s.raisedOn b = some c) : s.faultedOn b c = true ∧
    ((∀ d ∈ s.pkg.raised, s.faultedOn b d = false) → ∀ d, s.faultedOn b d = true → c.toNat ≤ d.toNat) := by
  rw [raisedOn_eq] at h
  cases hf : s.pkg.raised.find? (s.faultedOn b) with
  | some d =>
    rw [hf] at h
    cases h
    exact ⟨List.find?_some hf, fun hnone => absurd (List.find?_some hf) (by simp [hnone c (List.mem_of_find?_eq_some hf)])⟩
  | none =>
    rw [hf, Option.none_or] at h
    obtain ⟨hmem, hlow, -⟩ := foldl_lowerCell h
    refine ⟨(List.mem_filter.1 (hmem.resolve_right nofun)).2, fun _ d hd => hlow d (List.mem_filter.2 ⟨?_, hd⟩)⟩
    obtain ⟨-, -, hfault⟩ := faultedOn_iff.1 hd
    exact mem_cells_of_fault hfault

/-! ### Acceptance (R332) -/

section
variable {x : Board} {s : State}

theorem takeFault_draining (h : x.phase = .draining) : takeFault x s = none := if_pos (by simp [h])

theorem takeFault_none (h : s.raisedOn x = none) : takeFault x s = none := by
  unfold takeFault
  split
  · rfl
  · rw [h]
    rfl

theorem takeFault_raised {c : CellId} {f : FaultRec} (hp : x.phase ≠ .draining) (hc : s.raisedOn x = some c) (hf : (s.cellAt c).fault = some f) :
    takeFault x s = some (stopGang x f.code (publishFault x c (s.cellAt c) f s)) := by
  refine (if_neg (by simp [hp])).trans ?_
  rw [hc, Option.bind_some, hf, Option.map_some]

/-- A board that runs on takes the fault raised on it. -/
theorem takeFault_isSome (hp : x.phase ≠ .draining) (h : (s.raisedOn x).isSome = true) : ∃ t, takeFault x s = some t := by
  obtain ⟨c, hc⟩ := Option.isSome_iff_exists.1 h
  obtain ⟨-, -, hfault⟩ := faultedOn_iff.1 (raisedOn_spec hc).1
  obtain ⟨f, hf⟩ := Option.isSome_iff_exists.1 hfault
  exact ⟨_, takeFault_raised hp hc hf⟩

theorem exec_faultAcceptance {b : Nat} (hb : s.pkg.board b = some x) : exec (.faultAcceptance b) s = .next ((takeFault x s).getD s) := by
  refine congrArg Host.Outcome.next ?_
  rw [hb]
  rfl

end

end Sys2Proof.Machine
end

section
/-! Stopping a gang (R326, R336, R346): every board of it drains, no load of it follows, and a pre-emption under way is answered. -/

namespace Sys2Proof.Machine

/-! ### What a launch asks (R346) -/

/-- The launches with the pre-emption asked of each. -/
def Package.asks (p : Package) : List (Nat × Option PreReq) := p.launches.map fun l : Launch => (l.id, l.preempt)

theorem launch_preempt (p : Package) (id : Nat) : (p.launch id).bind (·.preempt) = (p.asks.find? fun e => e.1 == id).bind Prod.snd := by
  rw [Package.asks, List.find?_map, Option.bind_map]
  rfl

theorem launch_preempt_congr {p p' : Package} (h : p'.asks = p.asks) (id : Nat) : (p'.launch id).bind (·.preempt) = (p.launch id).bind (·.preempt) := by
  rw [launch_preempt, launch_preempt, h]

theorem asks_onLaunch {f : Launch → Launch} (hf : ∀ l : Launch, (f l).id = l.id ∧ (f l).preempt = l.preempt) (id : Nat) (p : Package) :
    (p.onLaunch id f).asks = p.asks := by
  simp only [Package.asks, Package.onLaunch, List.map_map]
  refine List.map_congr_left fun l _ => ?_
  obtain ⟨hid, hpre⟩ := hf l
  show ((if l.id == id then f l else l).id, (if l.id == id then f l else l).preempt) = (l.id, l.preempt)
  split
  · rw [hid, hpre]
  · rfl

theorem asks_onMember (m : Nat) (f : Member → Member) (id : Nat) (p : Package) : (p.onLaunch id (Launch.onMember m f)).asks = p.asks :=
  asks_onLaunch (f := Launch.onMember m f) (fun _ => ⟨rfl, rfl⟩) id p

theorem launch_onLaunch {f : Launch → Launch} (hf : ∀ l : Launch, (f l).id = l.id) (id : Nat) (p : Package) :
    (p.onLaunch id f).launch id = (p.launch id).map f := by
  have hid (l : Launch) : (if l.id == id then f l else l).id = l.id := by
    split
    · exact hf l
    · rfl
  rw [Package.launch, Package.onLaunch, List.find?_map]
  have hfind : (p.launches.find? ((fun l : Launch => l.id == id) ∘ fun l => if l.id == id then f l else l)) = p.launch id := by
    refine congrArg (p.launches.find? ·) (funext fun l => ?_)
    simp only [Function.comp, hid]
  rw [hfind]
  cases h : p.launch id with
  | none => rfl
  | some l => exact congrArg some (if_pos (List.find?_some h))

/-! ### One board drained (R134, R336) -/

/-- A board takes the drain configuration, and no further load of it runs. -/
def drainBoard (b : Board) (s : State) : State := (beginDrain b .draining s).onPkg (dropLoads b.id)

/-- A board after a step that keeps what it is, and may class it. -/
def Board.Same (x y : Board) : Prop := y.id = x.id ∧ y.launch = x.launch ∧ y.phase = x.phase

/-- What a classification leaves (R322). -/
theorem classify_ledger (id lines : Nat) (s : State) : let t := classify id lines s
    (∀ y ∈ t.pkg.boards, ∃ x ∈ s.pkg.boards, x.Same y) ∧ t.pkg.asks = s.pkg.asks ∧ t.pkg.loads = s.pkg.loads := by
  have hsame : ∀ y ∈ s.pkg.boards, ∃ x ∈ s.pkg.boards, x.Same y := fun y hy => ⟨y, hy, rfl, rfl, rfl⟩
  have hclass (c : Bool) : ∀ y ∈ (s.pkg.onBoard id fun b => { b with cls := some c }).boards, ∃ x ∈ s.pkg.boards, x.Same y := by
    intro y hy
    obtain ⟨x, hx, rfl⟩ := List.mem_map.1 hy
    refine ⟨x, hx, ?_⟩
    split <;> exact ⟨rfl, rfl, rfl⟩
  unfold classify
  split
  · exact ⟨hsame, rfl, rfl⟩
  · split
    · exact ⟨hsame, rfl, rfl⟩
    · dsimp only
      split
      · split
        · exact ⟨hclass _, asks_onMember .., rfl⟩
        · exact ⟨hclass _, rfl, rfl⟩
      · exact ⟨hclass _, rfl, rfl⟩

theorem asks_of_ledger {p p' : Package} (h : p'.ledger = p.ledger) : p'.asks = p.asks := by
  obtain ⟨-, hl, -⟩ := Package.ledger_eq h
  rw [Package.asks, hl]
  rfl

/-- A package whose board of a number drains, without the loads that the board's graph still asks for. -/
def Package.drained (id : Nat) (p : Package) : Package := dropLoads id (p.onBoard id fun x => { x with phase := .draining })

theorem drained_ledger (id : Nat) (p : Package) :
    (∀ y ∈ (p.drained id).boards, ∃ x ∈ p.boards, y.id = x.id ∧ y.launch = x.launch ∧ y.phase = if x.id = id then .draining else x.phase) ∧
      (p.drained id).asks = p.asks ∧ (p.drained id).loads = (dropLoads id p).loads := by
  refine ⟨fun y hy => ?_, rfl, rfl⟩
  obtain ⟨x, hx, rfl⟩ := List.mem_map.1 hy
  refine ⟨x, hx, ?_⟩
  by_cases h : x.id = id
  · rw [if_pos (by simpa using h), if_pos h]
    exact ⟨rfl, rfl, rfl⟩
  · rw [if_neg (by simpa using h), if_neg h]
    exact ⟨rfl, rfl, rfl⟩

/-- The load that runs on a board, if one does, classified. -/
def State.classed (s : State) (b : Board) : State :=
  if b.phase == .running || b.phase == .preempting then classify b.id (Config.linesMoved s.tick b.id) s else s

theorem drainBoard_eq (b : Board) (s : State) : drainBoard b s =
    ((endLoad b (s.classed b)).onPkg (Package.onBoard b.id fun x => { x with phase := .draining })).onPkg (dropLoads b.id) := rfl

theorem classed_ledger (b : Board) (s : State) :
    (∀ y ∈ (s.classed b).pkg.boards, ∃ x ∈ s.pkg.boards, x.Same y) ∧ (s.classed b).pkg.asks = s.pkg.asks ∧ (s.classed b).pkg.loads = s.pkg.loads := by
  unfold State.classed
  split
  · exact classify_ledger ..
  · exact ⟨fun y hy => ⟨y, hy, rfl, rfl, rfl⟩, rfl, rfl⟩

theorem drainBoard_ledger (b : Board) (s : State) :
    (∀ y ∈ (drainBoard b s).pkg.boards, ∃ x ∈ s.pkg.boards, y.id = x.id ∧ y.launch = x.launch ∧ y.phase = if x.id = b.id then .draining else x.phase) ∧
      (drainBoard b s).pkg.asks = s.pkg.asks ∧ (drainBoard b s).pkg.loads = (dropLoads b.id s.pkg).loads := by
  obtain ⟨hboards, hasks, hloads⟩ := classed_ledger b s
  have hend := ledger_endLoad b (s.classed b)
  obtain ⟨heb, -, heq⟩ := Package.ledger_eq hend
  rw [drainBoard_eq, State.onPkg_pkg, State.onPkg_pkg, ← Package.drained]
  obtain ⟨hdb, hda, hdl⟩ := drained_ledger b.id (endLoad b (s.classed b)).pkg
  refine ⟨fun y hy => ?_, hda.trans ((asks_of_ledger hend).trans hasks), hdl.trans ?_⟩
  · obtain ⟨z, hz, hid, hlaunch, hphase⟩ := hdb y hy
    obtain ⟨x, hx, hid', hlaunch', hphase'⟩ := hboards z (heb ▸ hz)
    rw [hid', hphase'] at hphase
    exact ⟨x, hx, hid.trans hid', hlaunch.trans hlaunch', hphase⟩
  · simp only [dropLoads, heq, hloads]

/-! ### Every board of a gang -/

/-- A list of boards takes the drain configuration, but those that have it. -/
def drainAll (bs : List Board) (s : State) : State := bs.foldl (fun s b => if b.phase == .draining then s else drainBoard b s) s

theorem drainGang_eq (l : Nat) (s : State) : drainGang l s = drainAll (s.pkg.gang l) s := rfl

theorem drainAll_cons (b : Board) (bs : List Board) (s : State) :
    drainAll (b :: bs) s = drainAll bs (if b.phase == .draining then s else drainBoard b s) := List.foldl_cons

/-- What drains of a list of boards, what is left of the requests for their loads, and that no pre-emption is answered. -/
theorem drainAll_ledger (bs : List Board) (s : State) : let t := drainAll bs s
    (∀ y ∈ t.pkg.boards, ∃ x ∈ s.pkg.boards, y.id = x.id ∧ y.launch = x.launch ∧
      (y.phase = .draining ∨ y.phase = x.phase ∧ ∀ b ∈ bs, b.phase ≠ .draining → x.id ≠ b.id)) ∧
      t.pkg.asks = s.pkg.asks ∧
      ∀ q ∈ t.pkg.loads, q ∈ s.pkg.loads ∧ ∀ b ∈ bs, b.phase ≠ .draining → ¬ (q.board = b.id ∧ (q.issuer = none ∨ q.phase ≠ .asked)) := by
  induction bs generalizing s with
  | nil => exact ⟨fun y hy => ⟨y, hy, rfl, rfl, .inr ⟨rfl, List.forall_mem_nil _⟩⟩, rfl, fun q hq => ⟨hq, List.forall_mem_nil _⟩⟩
  | cons b bs ih =>
    by_cases hb : b.phase = .draining
    · rw [drainAll_cons, if_pos (by simp [hb])]
      obtain ⟨hboards, hasks, hloads⟩ := ih s
      refine ⟨fun y hy => ?_, hasks, fun q hq => ?_⟩
      · obtain ⟨x, hx, hid, hlaunch, hphase⟩ := hboards y hy
        exact ⟨x, hx, hid, hlaunch, hphase.imp_right fun h => ⟨h.1, List.forall_mem_cons.2 ⟨fun hne => absurd hb hne, h.2⟩⟩⟩
      · obtain ⟨hin, hq⟩ := hloads q hq
        exact ⟨hin, List.forall_mem_cons.2 ⟨fun hne => absurd hb hne, hq⟩⟩
    · rw [drainAll_cons, if_neg (by simp [hb])]
      obtain ⟨hboards, hasks, hloads⟩ := ih (drainBoard b s)
      obtain ⟨hboards1, hasks1, hloads1⟩ := drainBoard_ledger b s
      refine ⟨fun y hy => ?_, hasks.trans hasks1, fun q hq => ?_⟩
      · obtain ⟨z, hz, hid, hlaunch, hphase⟩ := hboards y hy
        obtain ⟨x, hx, hid1, hlaunch1, hphase1⟩ := hboards1 z hz
        refine ⟨x, hx, hid.trans hid1, hlaunch.trans hlaunch1, ?_⟩
        by_cases hxb : x.id = b.id
        · rw [if_pos hxb] at hphase1
          exact .inl (hphase.elim id fun h => h.1.trans hphase1)
        · rw [if_neg hxb] at hphase1
          exact hphase.imp_right fun h => ⟨h.1.trans hphase1, List.forall_mem_cons.2 ⟨fun _ => hxb, fun c hc hne => hid1 ▸ h.2 c hc hne⟩⟩
      · obtain ⟨hin, hq⟩ := hloads q hq
        rw [hloads1] at hin
        obtain ⟨hin, hkept⟩ := List.mem_filter.1 hin
        refine ⟨hin, List.forall_mem_cons.2 ⟨fun _ hdropped => ?_, hq⟩⟩
        obtain ⟨hboard, hrun⟩ := hdropped
        have hdrop : (q.board == b.id && (q.issuer.isNone || q.phase != .asked)) = true := by simpa [hboard] using hrun
        simp [hdrop] at hkept

/-- Draining a gang leaves none of its boards running. -/
theorem drainGang_draining (l : Nat) (s : State) : ∀ y ∈ (drainGang l s).pkg.boards, y.launch = some l → y.phase = .draining := by
  intro y hy hl
  rw [drainGang_eq] at hy
  obtain ⟨x, hx, -, hlaunch, hphase⟩ := (drainAll_ledger _ s).1 y hy
  rcases hphase with h | ⟨hsame, hno⟩
  · exact h
  · by_contra hne
    exact hno x (List.mem_filter.2 ⟨hx, by simp [← hlaunch, hl]⟩) (hsame ▸ hne) rfl

/-! ### The stop (R326, R336, R346) -/

theorem publishFault_alone {b : Board} (hb : b.launch = none) (c : CellId) (x : Cell) (f : FaultRec) (s : State) :
    publishFault b c x f s = post b.ctx (faultRecord c x f) s := by
  unfold publishFault
  rw [hb]

theorem publishFault_launch {b : Board} {l : Nat} (hb : b.launch = some l) (c : CellId) (x : Cell) (f : FaultRec) (s : State) :
    publishFault b c x f s =
      (post b.ctx (faultRecord c x f) s).onPkg (Package.onLaunch l fun L => { L with status := some (L.status.getD f.code) }) := by
  unfold publishFault
  rw [hb]

/-- A published fault changes the status of a launch alone. -/
theorem publishFault_ledger (b : Board) (c : CellId) (x : Cell) (f : FaultRec) (s : State) : let t := publishFault b c x f s
    t.pkg.boards = s.pkg.boards ∧ t.pkg.asks = s.pkg.asks ∧ t.pkg.loads = s.pkg.loads := by
  have h := ledger_post b.ctx (faultRecord c x f) s
  obtain ⟨hboards, -, hloads⟩ := Package.ledger_eq h
  cases hb : b.launch with
  | none =>
    rw [publishFault_alone hb]
    exact ⟨hboards, asks_of_ledger h, hloads⟩
  | some l =>
    rw [publishFault_launch hb]
    refine ⟨hboards, (asks_onLaunch (fun L => ?_) l _).trans (asks_of_ledger h), hloads⟩
    exact ⟨rfl, rfl⟩

theorem acceptRaised_none {b : Board} {s : State} (h : s.raisedOn b = none) : acceptRaised b s = s := by
  unfold acceptRaised
  rw [h]

theorem acceptRaised_ledger (b : Board) (s : State) : let t := acceptRaised b s
    t.pkg.boards = s.pkg.boards ∧ t.pkg.asks = s.pkg.asks ∧ t.pkg.loads = s.pkg.loads := by
  unfold acceptRaised
  split
  · exact ⟨rfl, rfl, rfl⟩
  · split
    · exact ⟨rfl, rfl, rfl⟩
    · exact publishFault_ledger ..

/-- The faults that some boards have raised are accepted. -/
def acceptAll (bs : List Board) (s : State) : State := bs.foldl (fun s x => acceptRaised x s) s

theorem acceptAll_none {bs : List Board} {s : State} (h : ∀ x ∈ bs, s.raisedOn x = none) : acceptAll bs s = s := by
  induction bs with
  | nil => rfl
  | cons b bs ih =>
    obtain ⟨hb, hbs⟩ := List.forall_mem_cons.1 h
    exact (congrArg (acceptAll bs) (acceptRaised_none hb)).trans (ih hbs)

theorem acceptAll_ledger (bs : List Board) (s : State) : let t := acceptAll bs s
    t.pkg.boards = s.pkg.boards ∧ t.pkg.asks = s.pkg.asks ∧ t.pkg.loads = s.pkg.loads :=
  ⟨foldl_keeps (g := fun t : State => t.pkg.boards) (fun t x _ => (acceptRaised_ledger x t).1) s,
    foldl_keeps (g := fun t : State => t.pkg.asks) (fun t x _ => (acceptRaised_ledger x t).2.1) s,
    foldl_keeps (g := fun t : State => t.pkg.loads) (fun t x _ => (acceptRaised_ledger x t).2.2) s⟩

theorem ledger_wreckSave (L : Launch) (save : Word) (s : State) : (wreckSave L save s).pkg.ledger = s.pkg.ledger := by
  refine foldl_keeps (g := fun t : State => t.pkg.ledger) (fun t off _ => ?_) s
  split
  next h => exact ledger_writeVirtual h
  next => rfl

/-! ### The answer to a pre-emption (R341, R346) -/

section
variable {id : Nat} {L : Launch} {code : Byte} {s : State}

theorem answerPreempt_gone (h : s.pkg.launch id = none) : answerPreempt id code s = s := by
  unfold answerPreempt
  rw [h]

theorem answerPreempt_unasked (h : s.pkg.launch id = some L) (hp : L.preempt = none) : answerPreempt id code s = s := by
  unfold answerPreempt
  simp only [h, hp]

theorem answerPreempt_asked {q : PreReq} (h : s.pkg.launch id = some L) (hp : L.preempt = some q) : answerPreempt id code s =
    (post L.ctx (ackRecord L q.save code (Config.elapsedCycles s.tick)) s).onPkg (Package.onLaunch id fun l => { l with preempt := none }) := by
  unfold answerPreempt
  simp only [h, hp]

theorem answerPreempt_quiet (h : (s.pkg.launch id).bind (·.preempt) = none) : answerPreempt id code s = s := by
  cases hL : s.pkg.launch id with
  | none => exact answerPreempt_gone hL
  | some L =>
    rw [hL] at h
    exact answerPreempt_unasked hL h

end

/-- Once answered, a launch is asked no longer; its boards and their loads are as they were. -/
theorem answerPreempt_ledger (id : Nat) (code : Byte) (s : State) : (answerPreempt id code s).pkg.boards = s.pkg.boards ∧
    ((answerPreempt id code s).pkg.launch id).bind (·.preempt) = none ∧ (answerPreempt id code s).pkg.loads = s.pkg.loads := by
  cases hL : s.pkg.launch id with
  | none =>
    rw [answerPreempt_gone hL, hL]
    exact ⟨rfl, rfl, rfl⟩
  | some L =>
    cases hp : L.preempt with
    | none =>
      rw [answerPreempt_unasked hL hp, hL]
      exact ⟨rfl, hp, rfl⟩
    | some q =>
      rw [answerPreempt_asked hL hp]
      obtain ⟨hboards, hlaunches, hloads⟩ := Package.ledger_eq (ledger_post L.ctx (ackRecord L q.save code (Config.elapsedCycles s.tick)) s)
      refine ⟨hboards, ?_, hloads⟩
      refine (congrArg (Option.bind · _) (launch_onLaunch (fun l => ?_) id _)).trans ?_
      · rfl
      · cases (post L.ctx (ackRecord L q.save code (Config.elapsedCycles s.tick)) s).pkg.launch id <;> rfl

/-! ### The gang stopped -/

/-- The save area of a pre-emption under way is spoiled (R346). -/
def spoilSave (l : Nat) (s : State) : State :=
  match s.pkg.launch l with
  | some L => L.preempt.elim s fun q => wreckSave L q.save s
  | none => s

theorem spoilSave_quiet {l : Nat} {s : State} (h : (s.pkg.launch l).bind (·.preempt) = none) : spoilSave l s = s := by
  unfold spoilSave
  split
  next hL =>
    rw [hL] at h
    rw [show Launch.preempt _ = none from h]
    rfl
  next => rfl

theorem ledger_spoilSave (l : Nat) (s : State) : (spoilSave l s).pkg.ledger = s.pkg.ledger := by
  unfold spoilSave
  split
  next L _ =>
    cases L.preempt with
    | none => rfl
    | some q => exact ledger_wreckSave ..
  next => rfl

section
variable {b : Board}

theorem stopGang_alone (hb : b.launch = none) (code : Byte) (s : State) : stopGang b code s = drainBoard b s := by
  unfold stopGang
  rw [hb]
  rfl

variable {l : Nat} (hb : b.launch = some l)
include hb

theorem stopGang_launch (code : Byte) (s : State) : stopGang b code s = answerPreempt l code (spoilSave l (drainGang l
    (acceptAll ((s.pkg.gang l).filter fun x => x.id != b.id && x.phase != .draining) s))) := by
  unfold stopGang
  rw [hb]
  rfl

/-- The boards of the gang drain, none of their loads follows, and no pre-emption stays unanswered. -/
theorem stopGang_stops (code : Byte) (s : State) : let t := stopGang b code s
    (∀ y ∈ t.pkg.boards, y.launch = some l → y.phase = .draining) ∧
    (∀ y ∈ s.pkg.gang l, y.phase ≠ .draining → ∀ q ∈ t.pkg.loads, ¬ (q.board = y.id ∧ (q.issuer = none ∨ q.phase ≠ .asked))) ∧
    (t.pkg.launch l).bind (·.preempt) = none := by
  rw [stopGang_launch hb]
  let u := acceptAll ((s.pkg.gang l).filter fun x => x.id != b.id && x.phase != .draining) s
  obtain ⟨hacc, -, -⟩ := acceptAll_ledger ((s.pkg.gang l).filter fun x => x.id != b.id && x.phase != .draining) s
  obtain ⟨hboards, -, hloads⟩ := Package.ledger_eq (ledger_spoilSave l (drainGang l u))
  obtain ⟨haboards, hquiet, haloads⟩ := answerPreempt_ledger l code (spoilSave l (drainGang l u))
  have hgang : u.pkg.gang l = s.pkg.gang l := congrArg (List.filter fun b : Board => b.launch == some l) hacc
  refine ⟨fun y hy => drainGang_draining l u y ?_, fun y hy hp q hq => ?_, hquiet⟩
  · rwa [haboards, hboards] at hy
  · rw [haloads, hloads] at hq
    exact ((drainAll_ledger _ u).2.2 q hq).2 y (hgang ▸ hy) hp

/-- Where no other board has raised a fault and nothing is asked, the stop is the drain of the gang. -/
theorem stopGang_plain (code : Byte) {s : State} (hr : ∀ y ∈ s.pkg.gang l, y.id ≠ b.id → y.phase ≠ .draining → s.raisedOn y = none)
    (hp : (s.pkg.launch l).bind (·.preempt) = none) : stopGang b code s = drainGang l s := by
  have hacc : acceptAll ((s.pkg.gang l).filter fun x => x.id != b.id && x.phase != .draining) s = s := by
    refine acceptAll_none fun x hx => ?_
    obtain ⟨hin, hcond⟩ := List.mem_filter.1 hx
    obtain ⟨hid, hphase⟩ : x.id ≠ b.id ∧ x.phase ≠ .draining := by simpa using hcond
    exact hr x hin hid hphase
  have hquiet : ((drainGang l s).pkg.launch l).bind (·.preempt) = none := (launch_preempt_congr (drainAll_ledger _ s).2.1 l).trans hp
  rw [stopGang_launch hb, hacc, spoilSave_quiet hquiet, answerPreempt_quiet hquiet]

end

end Sys2Proof.Machine
end

section
/-! The watchdog (R337), and the release of boards (R164, R326, R338). -/

namespace Sys2Proof.Machine

/-! ### The watchdog (R337) -/

section
variable {b : Nat} {x : Board} {s : State} (hb : s.pkg.board b = some x)
include hb

theorem exec_watchdogExpiry_held (h : s.pkg.watchdogLimit = 0 ∨ x.watchdog < s.pkg.watchdogLimit ∨ s.watchHeld x = true) :
    exec (.watchdogExpiry b) s = .next s := by
  refine congrArg Host.Outcome.next ?_
  rw [hb]
  exact if_pos (by simpa [or_assoc] using h)

theorem exec_watchdogExpiry_due (hl : s.pkg.watchdogLimit ≠ 0) (hw : s.pkg.watchdogLimit ≤ x.watchdog) (hh : s.watchHeld x = false) :
    exec (.watchdogExpiry b) s =
      .next ((takeFault x s).getD (watchdogStop x (BitVec.ofNat 32 (s.cells.filter fun e => e.2.board == some b && e.2.parks).length) s)) := by
  refine congrArg Host.Outcome.next ?_
  rw [hb]
  exact if_neg (by simp [hl, hw, hh])

end

/-- A board whose count goes on runs. -/
theorem running_of_counting {x : Board} {s : State} (h : s.watchHeld x = false) : x.phase = .running := by
  simp only [State.watchHeld, Bool.or_eq_false_iff, bne_eq_false_iff_eq, and_assoc] at h
  exact h.1

theorem Cell.getD_hnd (h : BitVec 6) (c : Cell) : c.hnd.toList.getD h.toNat Handler.reset = c.handler h := by
  have hlt : h.toNat < c.hnd.toList.length := by
    rw [Vector.length_toList]
    exact h.isLt
  rw [List.getD_eq_getElem _ _ hlt, Vector.getElem_toList]
  rfl

/-- The lowest activation that is PARKED is found first. -/
theorem Cell.find_parked {c : Cell} {h : BitVec 6} (hst : (c.handler h).st = .parked) (hlow : ∀ g : BitVec 6, g.toNat < h.toNat → (c.handler g).st ≠ .parked) :
    ((List.range 64).find? fun i => (c.hnd.toList.getD i Handler.reset).st == .parked) = some h.toNat := by
  refine List.find?_range_eq_some.2 ⟨by simp only [Cell.getD_hnd, hst, beq_self_eq_true], List.mem_range.2 h.isLt, fun j hj => ?_⟩
  have hj6 : (BitVec.ofNat 6 j).toNat = j := Nat.mod_eq_of_lt (hj.trans h.isLt)
  have hne := hlow (BitVec.ofNat 6 j) (hj6.symm ▸ hj)
  rw [← Cell.getD_hnd, hj6] at hne
  simpa using hne

section
variable {b : Board} {info : W32} {s : State}

/-- What every record of the watchdog says. -/
theorem watchdogFault_record (b : Board) (info : W32) (s : State) : (watchdogFault b info s).2.code = 0x18 ∧ (watchdogFault b info s).2.src = 3 ∧
    (watchdogFault b info s).2.info = info ∧ (watchdogFault b info s).2.t = (s.cellAt (watchdogFault b info s).1).k.t := by
  unfold watchdogFault
  split
  · exact ⟨rfl, rfl, rfl, rfl⟩
  · dsimp only
    split <;> exact ⟨rfl, rfl, rfl, rfl⟩

theorem watchdogFault_none (h : s.firstParked b = none) : (watchdogFault b info s).1 = b.cellAt 0 0 ∧ (watchdogFault b info s).2.hnd = 127 := by
  unfold watchdogFault
  rw [h]
  exact ⟨rfl, rfl⟩

theorem watchdogFault_cell {c : CellId} (h : s.firstParked b = some c) : (watchdogFault b info s).1 = c := by
  unfold watchdogFault
  rw [h]
  dsimp only
  split <;> rfl

/-- A record that names a PARKED activation holds its PC and the word there. -/
theorem watchdogFault_parked {c : CellId} (h : s.firstParked b = some c) {g : BitVec 6} (hst : ((s.cellAt c).handler g).st = .parked)
    (hlow : ∀ k : BitVec 6, k.toNat < g.toNat → ((s.cellAt c).handler k).st ≠ .parked) :
    (watchdogFault b info s).2.hnd = g.setWidth 7 ∧ (watchdogFault b info s).2.pc = ((s.cellAt c).handler g).pc ∧
      (watchdogFault b info s).2.word = (s.cellAt c).wordAt (watchdogFault b info s).2.pc := by
  unfold watchdogFault
  rw [h]
  dsimp only
  rw [Cell.find_parked hst hlow, ← Cell.getD_hnd]
  exact ⟨BitVec.ofNat_toNat .., rfl, rfl⟩

end

/-! ### The release of a board (R164, R338) -/

/-- A board released, but for the answer to the `cfg.drain` that drained it. -/
def vacated (b : Board) (s : State) : State := releaseBoard { b with drainFor := none } s

theorem releaseBoard_undrained {b : Board} (h : b.drainFor = none) (s : State) : releaseBoard b s = vacated b s := by
  unfold vacated releaseBoard
  rw [h]

theorem releaseBoard_drained {b : Board} {c : CellId} {id : Nat} (h : b.drainFor = some (c, id)) (s : State) :
    releaseBoard b s = landValue c id 0 0 (vacated b s) := by
  unfold vacated releaseBoard
  rw [h]

theorem landValue_pkg (c : CellId) (id : Nat) (v : Word) (f : Flags) (s : State) : (landValue c id v f s).pkg = s.pkg := atCell_pkg ..

theorem releaseBoard_pkg (b : Board) (s : State) : (releaseBoard b s).pkg = (vacated b s).pkg := by
  cases h : b.drainFor with
  | none => rw [releaseBoard_undrained h]
  | some e => rw [releaseBoard_drained h, landValue_pkg]

/-- A value for a cell that waits for none is lost. -/
theorem landValue_idle {s : State} (h : s.cell.inflight = []) (c : CellId) (id : Nat) (v : Word) (f : Flags) : (landValue c id v f s).cell = s.cell := by
  unfold landValue State.atCell State.putCell
  split
  next hc =>
    subst hc
    simp only [State.cellAt_here, h, List.find?_nil]
  next => rfl

theorem vacated_cell {b : Board} {s : State} (h : s.cell.board = some b.id) : (vacated b s).cell = s.cell.released := if_pos (by simp [h])

theorem releaseBoard_cell {b : Board} {s : State} (h : s.cell.board = some b.id) : (releaseBoard b s).cell = s.cell.released := by
  cases hd : b.drainFor with
  | none => rw [releaseBoard_undrained hd, vacated_cell h]
  | some e =>
    rw [releaseBoard_drained hd, landValue_idle, vacated_cell h]
    rw [vacated_cell h]
    rfl

theorem releaseBoard_boards (b : Board) (s : State) : (releaseBoard b s).pkg.boards = s.pkg.boards.filter fun x => x.id != b.id := by
  rw [releaseBoard_pkg]
  rfl

theorem releaseBoard_mem (b : Board) (s : State) : (releaseBoard b s).pkg.mem = s.pkg.mem := by
  rw [releaseBoard_pkg]
  rfl

theorem releaseBoard_allocDue (b : Board) (s : State) : (releaseBoard b s).pkg.allocDue = true := by
  rw [releaseBoard_pkg]
  rfl

theorem board_none {p : Package} {id : Nat} (h : ∀ y ∈ p.boards, y.id ≠ id) : p.board id = none :=
  List.find?_eq_none.2 fun y hy => by simpa using h y hy

theorem releaseBoard_gone (b : Board) (s : State) : (releaseBoard b s).pkg.board b.id = none := by
  refine board_none fun y hy => ?_
  rw [releaseBoard_boards] at hy
  simpa using (List.mem_filter.1 hy).2

section
variable {b : Nat} {x : Board} {s : State} (hb : s.pkg.board b = some x)
include hb

theorem exec_boardRelease_waits (h : x.phase ≠ .draining ∨ s.busy x = true) : exec (.boardRelease b) s = .next s := by
  refine congrArg Host.Outcome.next ?_
  rw [hb]
  exact if_pos (by simpa using h)

theorem exec_boardRelease_alone (hp : x.phase = .draining) (hq : s.busy x = false) (hm : s.pkg.memberOf x = none) :
    exec (.boardRelease b) s = .next (releaseBoard x s) := by
  refine congrArg Host.Outcome.next ?_
  simp only [hb]
  refine (if_neg (by simp [hp, hq])).trans ?_
  rw [hm]

theorem exec_boardRelease_member (hp : x.phase = .draining) (hq : s.busy x = false) {L : Launch} {m : Member} (hm : s.pkg.memberOf x = some (L, m)) :
    exec (.boardRelease b) s = .next (releaseBoard x (if L.status.isSome then dropPipes L.id x.member s else s)) := by
  refine congrArg Host.Outcome.next ?_
  simp only [hb]
  refine (if_neg (by simp [hp, hq])).trans ?_
  rw [hm]

end

/-! ### The pipes of a member (R317, R326) -/

theorem unbindPipes_launches (L : Launch) (qs : List Pipe) (s : State) : (unbindPipes L qs s).pkg.launches = s.pkg.launches := by
  refine foldl_keeps (g := fun t : State => t.pkg.launches) (fun t q _ => ?_) s
  rfl

/-- What stays bound is not one of the pipes. -/
theorem unbindPipes_bound (L : Launch) {qs : List Pipe} : ∀ {s : State}, ∀ x ∈ (unbindPipes L qs s).pkg.bound,
    x ∈ s.pkg.bound ∧ ∀ q ∈ qs, ¬ (x.ctx = L.ctx ∧ x.num = q.stream) := by
  induction qs with
  | nil => exact fun x hx => ⟨hx, List.forall_mem_nil _⟩
  | cons q qs ih =>
    intro s x hx
    obtain ⟨hin, hqs⟩ := ih x hx
    obtain ⟨hin, hq⟩ := List.mem_filter.1 hin
    exact ⟨hin, List.forall_mem_cons.2 ⟨by simpa [imp_iff_not_or] using hq, hqs⟩⟩

section
variable {id m : Nat} {L : Launch} {s : State} (hL : s.pkg.launch id = some L)
include hL

theorem dropPipes_eq : dropPipes id m s = (unbindPipes L (L.pipes.filter fun q => q.member == m) s).onPkg
    (Package.onLaunch id fun l => { l with pipes := l.pipes.filter fun q => q.member != m }) := by
  unfold dropPipes
  rw [hL]

theorem dropPipes_bound : ∀ q ∈ L.pipes, q.member = m → ∀ x ∈ (dropPipes id m s).pkg.bound, ¬ (x.ctx = L.ctx ∧ x.num = q.stream) := by
  intro q hq hm x hx
  rw [dropPipes_eq hL] at hx
  exact (unbindPipes_bound L x hx).2 q (List.mem_filter.2 ⟨hq, by simp [hm]⟩)

theorem dropPipes_pipes : ((dropPipes id m s).pkg.launch id).map Launch.pipes = some (L.pipes.filter fun q => q.member != m) := by
  have hl : (unbindPipes L (L.pipes.filter fun q => q.member == m) s).pkg.launch id = some L :=
    (congrArg (List.find? fun l : Launch => l.id == id) (unbindPipes_launches ..)).trans hL
  rw [dropPipes_eq hL, State.onPkg_pkg]
  refine (congrArg (Option.map Launch.pipes) (launch_onLaunch (fun l => ?_) id _)).trans ?_
  · rfl
  · rw [hl]
    rfl

end

end Sys2Proof.Machine
end

section
/-! Pre-emption (R339-R343): the save area of a launch, and how a save and its timeout end. -/

namespace Sys2Proof.Machine

/-! ### The save area (R342) -/

theorem length_sgets {α : Type} (d : α) (m : List (Nat × α)) (k n : Nat) : (sgets d m k n).length = n := by
  rw [sgets, List.length_map, List.length_range]

theorem length_words (l : List W32) : (l.flatMap fun w => bytesOf 4 w.toNat).length = 4 * l.length := by
  induction l with
  | nil => rfl
  | cons w l ih =>
    rw [List.flatMap_cons, List.length_append, length_bytesOf, ih, List.length_cons]
    omega

theorem saveBlock_length (n at' : Nat) (c : Cell) : (saveBlock n at' c).length = 245760 := by
  simp only [saveBlock, List.length_append, List.length_map, List.length_range, length_words, length_sgets]

/-- A cell's block begins with its store. -/
theorem saveBlock_store (n at' : Nat) (c : Cell) : (saveBlock n at' c).take 131072 = sgets 0 c.store 0 131072 := by
  simp only [saveBlock, List.append_assoc]
  exact List.take_left' (length_sgets ..)

theorem savingBoard_first (L : Launch) (b : Board) (bs : List Board) (save va : Word)
    (h : (va - save).toNat < L.areaStart b.member + (4096 + 64 * b.h * b.w * 245760)) (hle : save.toNat ≤ va.toNat) :
    L.savingBoard (b :: bs) save va = b.cellAt 0 0 := by
  rw [BitVec.toNat_sub_of_le (BitVec.le_def.2 hle)] at h
  unfold Launch.savingBoard
  dsimp only
  rw [List.find?_cons_of_pos (by exact decide_eq_true h)]
  rfl

theorem writeAreas_nil (L : Launch) (n : Nat) (save : Word) (p : Package) : writeAreas L n save [] p = (.ok (), p) := rfl

/-- One area written, and then the others. The definition is unfolded by `delta`: its equation lemma would evaluate the 4096 bytes of a header. -/
theorem writeAreas_cons {L : Launch} {n : Nat} {save : Word} {v : Saved} {p p' : Package}
    (h : writeVirtual L.ctx (save.toNat + L.areaStart v.member) (saveArea n (L.areaStart v.member) v.cells) p = (.ok (), p')) (r : List Saved) :
    writeAreas L n save (v :: r) p = writeAreas L n save r p' := by
  delta writeAreas
  simp only [writeAreas._f, h]

/-! ### The boards of a launch saved are released (R339) -/

/-- What stays of the boards is none of those released. -/
theorem foldl_releaseBoard_boards {bs : List Board} : ∀ {s : State}, ∀ y ∈ (bs.foldl (fun s b => releaseBoard b s) s).pkg.boards,
    y ∈ s.pkg.boards ∧ ∀ b ∈ bs, y.id ≠ b.id := by
  induction bs with
  | nil => exact fun y hy => ⟨hy, List.forall_mem_nil _⟩
  | cons b bs ih =>
    intro s y hy
    rw [List.foldl_cons] at hy
    obtain ⟨hin, hbs⟩ := ih y hy
    rw [releaseBoard_boards] at hin
    obtain ⟨hin, hb⟩ := List.mem_filter.1 hin
    exact ⟨hin, List.forall_mem_cons.2 ⟨by simpa using hb, hbs⟩⟩

theorem vacate_boards (L : Launch) (bs : List Board) (s : State) : ∀ x ∈ bs, (vacate L bs s).pkg.board x.id = none :=
  fun x hx => board_none fun y hy => (foldl_releaseBoard_boards y hy).2 x hx

theorem vacate_members (L : Launch) (bs : List Board) (s : State) : ∀ y ∈ (vacate L bs s).pkg.launches, y.id = L.id → ∀ m ∈ y.members, m.board = none := by
  intro y hy hid m hm
  obtain ⟨z, -, rfl⟩ := List.mem_map.1 hy
  by_cases hz : (z.id == L.id) = true
  · rw [if_pos hz] at hm
    obtain ⟨k, -, rfl⟩ := List.mem_map.1 hm
    rfl
  · rw [if_neg hz] at hid
    exact absurd hid (by simpa using hz)

theorem vacate_joins (L : Launch) (bs : List Board) (s : State) : ∀ j ∈ (vacate L bs s).pkg.joins, ∀ x ∈ bs, x.holds j.cell = false := by
  intro j hj x hx
  have hnot := (List.mem_filter.1 hj).2
  simp only [Bool.not_eq_true', List.any_eq_false, Bool.not_eq_true] at hnot
  exact hnot x hx

theorem vacate_mem (L : Launch) (bs : List Board) (s : State) : (vacate L bs s).pkg.mem = s.pkg.mem := by
  refine (foldl_keeps (g := fun t : State => t.pkg.mem) (fun t b _ => releaseBoard_mem b t) _).trans ?_
  rfl

/-! ### The save and its timeout -/

/-- Whether a save has to wait: a board of the launch is not collected, or the launch is over or in a stall (R339). -/
def State.saveWaits (s : State) (l : Nat) (L : Launch) : Bool :=
  L.status.isSome || !((s.pkg.gang l).all fun b =>
    (b.phase == .preempting || (b.phase == .empty && (L.members[b.member]?).any (·.ended))) && s.collectable b) || L.complete s.pkg || s.pkg.stalledAt L.ctx (.save l)

section
variable {l : Nat} {L : Launch} {s : State}

theorem saveWaits_running (h : (s.pkg.gang l).any (fun b => b.phase == .running) = true) : s.saveWaits l L = true := by
  obtain ⟨b, hb, hrun⟩ := List.any_eq_true.1 h
  have hall : ((s.pkg.gang l).all fun b =>
      (b.phase == .preempting || (b.phase == .empty && (L.members[b.member]?).any (·.ended))) && s.collectable b) = false :=
    List.all_eq_false.2 ⟨b, hb, by simp [beq_iff_eq.1 hrun]⟩
  simp only [State.saveWaits, hall, Bool.not_false, Bool.or_true, Bool.true_or]

theorem saveWaits_stalled (h : s.pkg.stalledAt L.ctx (.save l) = true) : s.saveWaits l L = true := by
  simp only [State.saveWaits, h, Bool.or_true]

theorem saveWaits_collected (hst : L.status = none) (hall : (s.pkg.gang l).all (fun b => b.phase == .preempting && s.collectable b) = true)
    (hc : L.complete s.pkg = false) (h : s.pkg.stalledAt L.ctx (.save l) = false) : s.saveWaits l L = false := by
  have hall' : ((s.pkg.gang l).all fun b =>
      (b.phase == .preempting || (b.phase == .empty && (L.members[b.member]?).any (·.ended))) && s.collectable b) = true := by
    refine List.all_eq_true.2 fun b hb => ?_
    obtain ⟨hp, hcol⟩ := Bool.and_eq_true_iff.1 (List.all_eq_true.1 hall b hb)
    rw [hp, hcol]
    rfl
  simp only [State.saveWaits, hst, hall', hc, h, Option.isSome_none, Bool.not_true, Bool.or_false]

variable (hL : s.pkg.launch l = some L)
include hL

theorem exec_preemptionSave_unasked (hp : L.preempt = none) : exec (.preemptionSave l) s = .next s := by
  refine congrArg Host.Outcome.next ?_
  simp only [hL, hp]

theorem exec_preemptionTimeout_unasked (hp : L.preempt = none) : exec (.preemptionTimeout l) s = .next s := by
  refine congrArg Host.Outcome.next ?_
  simp only [hL, hp]

variable {q : PreReq} (hp : L.preempt = some q)
include hp

theorem exec_preemptionSave_waits (h : s.saveWaits l L = true) : exec (.preemptionSave l) s = .next s := by
  refine congrArg Host.Outcome.next ?_
  simp only [hL, hp]
  exact if_pos h

section
variable (hw : s.saveWaits l L = false)
include hw

theorem exec_preemptionSave_done {p : Package}
    (h : writeAreas L s.pkg.saves q.save ((s.pkg.gang l).map (savedBoard s)) s.pkg = (.ok (), p)) : exec (.preemptionSave l) s =
      .next (answerPreempt l 0 (vacate L (s.pkg.gang l)
        { s with pkg := { p.onLaunch l (fun x => { x with st := .candidate, saved := (s.pkg.gang l).map (savedBoard s), saveAt := (q.save, s.pkg.saves),
                                                          pinned := pins L (s.pkg.gang l) s }) with saves := s.pkg.saves + 1 } })) := by
  refine congrArg Host.Outcome.next ?_
  simp only [hL, hp]
  refine (if_neg (Bool.eq_false_iff.1 hw)).trans ?_
  simp only [h]

theorem exec_preemptionSave_refused {p : Package}
    (h : writeAreas L s.pkg.saves q.save ((s.pkg.gang l).map (savedBoard s)) s.pkg = (.bad, p)) : exec (.preemptionSave l) s =
      .next (answerPreempt l cACCESS
        { s with pkg := { p with boards := p.boards.map fun b => if b.launch == some l && b.phase == .preempting then { b with phase := .running } else b } }) := by
  refine congrArg Host.Outcome.next ?_
  simp only [hL, hp]
  refine (if_neg (Bool.eq_false_iff.1 hw)).trans ?_
  simp only [h]

theorem exec_preemptionSave_stalls {p : Package} {a : Nat} {v : Word}
    (h : writeAreas L s.pkg.saves q.save ((s.pkg.gang l).map (savedBoard s)) s.pkg = (.stall a v, p)) : exec (.preemptionSave l) s =
      .next (stallUnit (.save l) L.ctx (L.savingBoard (s.pkg.gang l) q.save v) 6 1 a v s) := by
  refine congrArg Host.Outcome.next ?_
  simp only [hL, hp]
  refine (if_neg (Bool.eq_false_iff.1 hw)).trans ?_
  simp only [h]

end

variable {b : Board} {r : List Board} (hg : s.pkg.gang l = b :: r)
include hg

theorem exec_preemptionTimeout_unlimited (hq : q.limit = 0) : exec (.preemptionTimeout l) s = .next s := by
  refine congrArg Host.Outcome.next ?_
  simp only [hL, hp, hg]
  exact if_pos (by simp [hq])

theorem exec_preemptionTimeout_due (hq : q.limit ≠ 0) (hst : L.status = none) : exec (.preemptionTimeout l) s =
    .next (((b :: r).findSome? fun x => takeFault x s).getD (watchdogStop b (BitVec.ofNat 32 (waitingUnits l s)) s)) := by
  refine congrArg Host.Outcome.next ?_
  simp only [hL, hp, hg]
  exact if_neg (by simp [hq, hst])

end

end Sys2Proof.Machine
end

section
/-! The obligation on faults and pre-emption: its clauses from the laws of the stop, of the watchdog, of releases and of saves. -/

namespace Sys2Proof.Machine

/-- A board that has raised a fault takes it before the watchdog stops it, and before its pre-emption times out. -/
theorem takeFault_first {x : Board} {s : State} (hp : x.phase ≠ .draining) (h : (s.raisedOn x).isSome = true) (t : State) :
    (takeFault x s).getD t = (takeFault x s).getD s := by
  obtain ⟨u, hu⟩ := takeFault_isSome hp h
  rw [hu, Option.getD_some, Option.getD_some]

/-- What a board does at the watchdog's limit (R336, R337). -/
theorem exec_watchdogExpiry {b : Nat} {x : Board} {s : State} (hb : s.pkg.board b = some x) (hl : s.pkg.watchdogLimit ≠ 0)
    (hw : s.pkg.watchdogLimit ≤ x.watchdog) (hh : s.watchHeld x = false) :
    (s.raisedOn x = none → exec (.watchdogExpiry b) s =
      .next (watchdogStop x (BitVec.ofNat 32 (s.cells.filter fun e => e.2.board == some b && e.2.parks).length) s)) ∧
    ((s.raisedOn x).isSome = true → exec (.watchdogExpiry b) s = exec (.faultAcceptance b) s) := by
  rw [exec_watchdogExpiry_due hb hl hw hh]
  refine ⟨fun hn => ?_, fun hs => ?_⟩
  · rw [takeFault_none hn, Option.getD_none]
  · rw [exec_faultAcceptance hb, takeFault_first (by rw [running_of_counting hh]; exact nofun) hs]

/-- The timeout of a pre-emption (R341). -/
theorem exec_preemptionTimeout {l : Nat} {L : Launch} {q : PreReq} {b : Board} {r : List Board} {s : State} (hL : s.pkg.launch l = some L)
    (hp : L.preempt = some q) (hg : s.pkg.gang l = b :: r) :
    (q.limit ≠ 0 → L.status = none → (∀ x ∈ b :: r, s.raisedOn x = none) →
      exec (.preemptionTimeout l) s = .next (watchdogStop b (BitVec.ofNat 32 (waitingUnits l s)) s)) ∧
    (q.limit ≠ 0 → L.status = none → b.phase ≠ .draining → (s.raisedOn b).isSome = true → s.pkg.board b.id = some b →
      exec (.preemptionTimeout l) s = exec (.faultAcceptance b.id) s) ∧
    (q.limit = 0 → exec (.preemptionTimeout l) s = .next s) := by
  refine ⟨fun hq hst hnone => ?_, fun hq hst hphase hraised hb => ?_, exec_preemptionTimeout_unlimited hL hp hg⟩
  · rw [exec_preemptionTimeout_due hL hp hg hq hst, List.findSome?_eq_none_iff.2 fun x hx => takeFault_none (hnone x hx), Option.getD_none]
  · obtain ⟨t, ht⟩ := takeFault_isSome hphase hraised
    rw [exec_preemptionTimeout_due hL hp hg hq hst, exec_faultAcceptance hb, List.findSome?_cons_of_isSome (by rw [ht]; rfl), ht]
    rfl

/-- Settles O57: the stop of a gang by what it leaves of boards, launches and loads; the records by their fields; the watchdog, the release, the save and
its timeout by the case that each meets. -/
theorem faultsAndPreemption : Obligations.FaultsAndPreemption := by
  refine ⟨fun b x s hb => ⟨fun h => ?_, fun c f hp hc hf => ?_⟩, fun b c s hc => ?_, fun b code c x f s => ⟨fun hb => ?_, fun l hb => ?_⟩,
    fun l L code s hL => ⟨answerPreempt_unasked hL, fun q hq => answerPreempt_asked hL hq⟩, fun L save code cycles => ackRecord_words L save code cycles,
    faultRecord_words, fun b x s hb => ⟨exec_watchdogExpiry_held hb, exec_watchdogExpiry hb⟩, fun b info s => ?_, fun b x s hb => ⟨exec_boardRelease_waits hb, ?_⟩,
    fun b c id s hd => ?_, fun id m L s hL => ⟨dropPipes_bound hL, dropPipes_pipes hL⟩,
    fun L bs s => ⟨vacate_boards L bs s, vacate_members L bs s, vacate_joins L bs s, vacate_mem L bs s⟩,
    fun b s => ⟨releaseBoard_gone b s, releaseBoard_allocDue b s, releaseBoard_mem b s, fun hb => ?_⟩, fun l L s hL => ⟨fun hp => ?_, fun q hp => ?_⟩,
    savingBoard_first, fun L n save v r p => ⟨writeAreas_nil L n save p, fun p' h => writeAreas_cons h r⟩,
    fun n at' c => ⟨saveBlock_length n at' c, saveBlock_store n at' c⟩⟩
  · rw [exec_faultAcceptance hb, h.elim takeFault_draining takeFault_none]
    rfl
  · rw [exec_faultAcceptance hb, takeFault_raised hp hc hf]
    rfl
  · obtain ⟨hfaulted, hlow⟩ := raisedOn_spec hc
    obtain ⟨hholds, -, hfault⟩ := faultedOn_iff.1 hfaulted
    refine ⟨hholds, hfault, fun hraised d hd hbd hfd => hlow (fun e he => ?_) d (faultedOn_iff.2 ⟨hd, hbd, hfd⟩)⟩
    rw [← Bool.not_eq_true, faultedOn_iff]
    rintro ⟨hholds', hboard', hfault'⟩
    rcases hraised e he with h | h | h
    · exact Bool.false_ne_true (h.symm.trans hholds')
    · exact h hboard'
    · exact Bool.false_ne_true ((congrArg Option.isSome h).symm.trans hfault')
  · exact ⟨stopGang_alone hb code s, publishFault_alone hb c x f s⟩
  · obtain ⟨hdrain, hloads, hquiet⟩ := stopGang_stops hb code s
    exact ⟨publishFault_launch hb c x f s, hdrain, hloads, hquiet, stopGang_plain hb code⟩
  · intro w
    obtain ⟨hcode, hsrc, hinfo, ht⟩ := watchdogFault_record b info s
    exact ⟨rfl, hcode, hsrc, hinfo, ht, watchdogFault_none, fun c hc => ⟨watchdogFault_cell hc, fun g => watchdogFault_parked hc⟩⟩
  · rintro hp hq u (⟨hm, rfl⟩ | ⟨L, m, hm, rfl⟩)
    · exact exec_boardRelease_alone hb hp hq hm
    · exact exec_boardRelease_member hb hp hq hm
  · exact releaseBoard_drained hd s
  · rw [releaseBoard_cell hb]
    exact ⟨rfl, rfl⟩
  · exact ⟨exec_preemptionSave_unasked hL hp, exec_preemptionTimeout_unasked hL hp⟩
  · refine ⟨fun b r hg => exec_preemptionTimeout hL hp hg, fun h => exec_preemptionSave_waits hL hp (saveWaits_running h),
      fun h => exec_preemptionSave_waits hL hp (saveWaits_stalled h), fun hst hall hc hs => ?_⟩
    have hw := saveWaits_collected hst hall hc hs
    exact ⟨fun p => exec_preemptionSave_done hL hp hw, fun p => exec_preemptionSave_refused hL hp hw, fun a v p => exec_preemptionSave_stalls hL hp hw⟩

end Sys2Proof.Machine
end

section
/-! What the operations that packet instructions share do (R168, R169): the results of one, two or three FULL sources, element by element, and the elements
themselves. -/

namespace Sys2Proof.Machine

/-! ### Lists -/

/-- A function that does not look at the number of an element. -/
theorem mapIdx_unnumbered {α β : Type} (g : α → β) (l : List α) : (l.mapIdx fun _ x => g x) = l.map g :=
  List.ext_getElem (by simp) fun i h h' => by simp

theorem mapIdx_of_map {α β γ : Type} (h : Nat → β → γ) (g : α → β) (l : List α) : (l.map g).mapIdx h = l.mapIdx fun k x => h k (g x) :=
  List.ext_getElem (by simp) fun i h h' => by simp

/-- Pairs taken apart are what a function of two arguments takes. -/
theorem mapIdx_zip {α β γ δ : Type} (h : Nat → γ → δ) (g : α → β → γ) (l : List α) (l' : List β) :
    ((l.zip l').mapIdx fun k e => h k (g e.1 e.2)) = (List.zipWith g l l').mapIdx h :=
  List.ext_getElem (by simp) fun i h h' => by simp

theorem mapIdx_zip_unnumbered {α β γ : Type} (g : α → β → γ) (l : List α) (l' : List β) :
    ((l.zip l').mapIdx fun _ e => g e.1 e.2) = List.zipWith g l l' :=
  List.ext_getElem (by simp) fun i h h' => by simp

/-! ### Flags -/

/-- Elements that raise no flag leave none. -/
theorem orFlags_silent {l : List Flags} (h : ∀ f ∈ l, f = 0) : orFlags l = 0 := by
  unfold orFlags
  induction l with
  | nil => rfl
  | cons f l ih =>
    rw [List.foldl_cons, h f List.mem_cons_self]
    exact ih fun g hg => h g (List.mem_cons_of_mem _ hg)

/-! ### Retirement -/

theorem next_congr {t u : State} (h : t = u) : (.next t : Result) = .next u := congrArg _ h

section
variable {s : State} {d a b : VIdx} {A B C : VReg}

/-- A register that holds a packet may be written (R15, R16). -/
theorem State.HasV.free (h : s.HasV d C) : s.FreeV d := by
  obtain ⟨hr, hf⟩ := h
  unfold State.FreeV
  rw [hr, hf]
  exact Fe.noConfusion

theorem packetDone_free (hd : s.FreeV d) (rounds : Bool) (lanes : List W32) (f : Flags) :
    packetDone rounds d lanes f s = s.wrotePacket rounds d lanes f :=
  freeV_free _ hd

/-- Without rounding and flags, the register and the PC are all that is written. -/
theorem wrotePacket_silent (s : State) (d : VIdx) (lanes : List W32) : s.wrotePacket false d lanes 0 = s.wroteV d lanes :=
  withFlags_none _ _

theorem wroteElems_silent (s : State) (d : VIdx) (f : FmtDesc) (n : Nat) (l : List Nat) :
    s.wroteElems false d f n (l.map fun c => (c, 0)) = s.wroteV d (packLanes f n l) := by
  have hfl : orFlags ((l.map fun c => (c, (0 : Flags))).map Prod.snd) = 0 := orFlags_silent (by simp)
  rw [State.wroteElems, hfl, wrotePacket_silent, List.map_map]
  exact congrArg (fun l => s.wroteV d (packLanes f n l)) (List.map_id l)

/-! ### One, two and three sources (R168) -/

/-- One FULL source. -/
theorem packet1_has (ha : s.HasV a A) (hd : s.FreeV d) (rounds : Bool) (f : FmtDesc) (op : Nat → Nat → Nat × Flags) :
    packet1 rounds d a f op s = s.wroteElems rounds d f A.length ((A.elems f A.length).mapIdx op) :=
  (readV_has ha _).trans (packetDone_free hd ..)

/-- Two FULL sources: the result length is the lesser of theirs. -/
theorem packet2_has (ha : s.HasV a A) (hb : s.HasV b B) (hd : s.FreeV d) (rounds : Bool) (f : FmtDesc) (op : Nat → Nat → Nat → Nat × Flags) :
    packet2 rounds d a b f op s = s.wroteElems rounds d f (min A.length B.length)
      (((A.elems f (min A.length B.length)).zip (B.elems f (min A.length B.length))).mapIdx fun k e => op k e.1 e.2) :=
  (readV_has ha _).trans ((readV_has hb _).trans (packetDone_free hd ..))

/-- Three FULL sources, the destination the third. -/
theorem packet3_has (ha : s.HasV a A) (hb : s.HasV b B) (hd : s.HasV d C) (rounds : Bool) (f : FmtDesc) (op : Nat → Nat → Nat → Nat → Nat × Flags) :
    packet3 rounds d a b f op s = let m := min (min A.length B.length) C.length
      s.wroteElems rounds d f m (((A.elems f m).zip ((B.elems f m).zip (C.elems f m))).mapIdx fun k e => op k e.1 e.2.1 e.2.2) :=
  (readV_has ha _).trans ((readV_has hb _).trans ((readV_has hd _).trans (packetDone_free hd.free ..)))

/-- One source whose elements raise no flag. -/
theorem packet1_silent (ha : s.HasV a A) (hd : s.FreeV d) (f : FmtDesc) (g : Nat → Nat) :
    packet1 false d a f (fun _ x => (g x, 0)) s = s.wroteV d (packLanes f A.length ((A.elems f A.length).map g)) := by
  rw [packet1_has ha hd, mapIdx_unnumbered fun x => (g x, (0 : Flags)), ← wroteElems_silent, List.map_map]
  rfl

/-- Two sources whose elements raise no flag. -/
theorem packet2_silent (ha : s.HasV a A) (hb : s.HasV b B) (hd : s.FreeV d) (f : FmtDesc) (g : Nat → Nat → Nat) :
    packet2 false d a b f (fun _ x y => (g x y, 0)) s = s.wroteV d (packLanes f (min A.length B.length)
      (List.zipWith g (A.elems f (min A.length B.length)) (B.elems f (min A.length B.length)))) := by
  rw [packet2_has ha hb hd, mapIdx_zip_unnumbered fun x y => (g x y, (0 : Flags)), ← wroteElems_silent, List.map_zipWith]

end

/-! ### Elements (R31, R33) -/

/-- An element has as many bits as its format. -/
theorem elems_lt {f : FmtDesc} {n c : Nat} {r : VReg} (h : c ∈ r.elems f n) : c < 2 ^ width f := by
  unfold VReg.elems unpack at h
  obtain ⟨w, -, hc⟩ := List.mem_flatMap.1 h
  obtain ⟨j, -, rfl⟩ := List.mem_map.1 hc
  exact bits_lt ..

/-- Operations that agree on the codes of a format give the same results. -/
theorem zipWith_elems_congr {α : Type} {f : FmtDesc} {g h : Nat → Nat → α} (he : ∀ x < 2 ^ width f, ∀ y < 2 ^ width f, g x y = h x y)
    (A B : VReg) (n m : Nat) :
    List.zipWith g (A.elems f n) (B.elems f m) = List.zipWith h (A.elems f n) (B.elems f m) := by
  refine List.ext_getElem (by simp) fun i _ _ => ?_
  rw [List.getElem_zipWith, List.getElem_zipWith]
  exact he _ (elems_lt (List.getElem_mem _)) _ (elems_lt (List.getElem_mem _))

/-- A packet has 1 to 8 lanes (R9). -/
theorem VReg.length_pos (r : VReg) : 1 ≤ r.length := by
  unfold VReg.length
  split
  · decide
  · next h => bv_omega

theorem VReg.length_le (r : VReg) : r.length ≤ 8 := by
  unfold VReg.length
  split
  · decide
  · bv_omega

end Sys2Proof.Machine
end

section
/-! Integer lanes (R171): results kept or clamped, and operations on codes as numbers and bits. -/

namespace Sys2Proof.Machine

/-- An exact integer is kept to the low bits of a format, or clamped to its range (R171). -/
theorem narrow_eq (f : FmtDesc) (sat : Bool) (i : Int) : narrow f sat i = keepInt f sat i := by
  simp only [narrow, keepInt, intCode, clampInt_eq (intMin_le_intMax f)]

/-! ### Whole lanes as UINT32 elements -/

theorem bits_all {w : W32} : bits w.toNat (0 * 32) 32 = w.toNat := by
  rw [bits, zero_mul, pow_zero, Nat.div_one, Nat.mod_eq_of_lt w.isLt]

theorem unpack_lanes (l : List W32) : unpack fUINT32 l = l.map BitVec.toNat := by
  induction l with
  | nil => rfl
  | cons w l ih =>
    rw [unpack_cons, ih]
    exact congrArg (· :: l.map BitVec.toNat) bits_all

theorem packLanes_lanes (l : List Nat) : packLanes fUINT32 l.length l = l.map (BitVec.ofNat 32) := by
  induction l with
  | nil => rfl
  | cons c l ih =>
    have hlane : packLane fUINT32 ((c :: l).take 1) = c := by simp [packLane]
    exact congrArg₂ (fun c l => BitVec.ofNat 32 c :: l) hlane ih

/-- An operation on UINT32 elements is one on whole lanes (R171). -/
theorem packLanes_zipWith (g : Nat → Nat → Nat) (h : W32 → W32 → W32) (he : ∀ x y : W32, BitVec.ofNat 32 (g x.toNat y.toNat) = h x y) (A B : VReg) :
    let n := min A.length B.length
    packLanes fUINT32 n (List.zipWith g (A.elems fUINT32 n) (B.elems fUINT32 n)) = List.zipWith h (A.lanes.toList.take n) (B.lanes.toList.take n) := by
  intro n
  have hn : n ≤ 8 := (min_le_left _ _).trans A.length_le
  have hlen (r : VReg) : (r.lanes.toList.take n).length = n := by simpa using hn
  simp only [VReg.elems, unpack_lanes, List.zipWith_map]
  have hl : (List.zipWith (fun x y : W32 => g x.toNat y.toNat) (A.lanes.toList.take n) (B.lanes.toList.take n)).length = n := by
    rw [List.length_zipWith, hlen, hlen, min_self]
  refine Eq.trans (congrArg (packLanes fUINT32 · _) hl.symm) ((packLanes_lanes _).trans ?_)
  simp only [List.map_zipWith, he]

/-! ### Codes as numbers -/

/-- A code is known by its value (R34). -/
theorem intOf_inj {f : FmtDesc} {x y : Nat} (hx : x < 2 ^ width f) (hy : y < 2 ^ width f) : intOf f x = intOf f y ↔ x = y := by
  refine ⟨fun h => ?_, congrArg _⟩
  unfold intOf at h
  split at h <;> split at h <;> omega

theorem toNat_shiftLeft_code (w x k : Nat) : (BitVec.ofNat w x <<< k).toNat = x * 2 ^ k % 2 ^ w := by
  rw [BitVec.toNat_shiftLeft, BitVec.toNat_ofNat, Nat.shiftLeft_eq, Nat.mod_mul_mod]

theorem toNat_ushiftRight_code {w x : Nat} (hx : x < 2 ^ w) (k : Nat) : (BitVec.ofNat w x >>> k).toNat = x / 2 ^ k := by
  rw [BitVec.toNat_ushiftRight, BitVec.toNat_ofNat, Nat.mod_eq_of_lt hx, Nat.shiftRight_eq_div_pow]

/-! ### The operations -/

section
variable {s : State} {d a b : VIdx} {A B C : VReg}

theorem viExact_has (ha : s.HasV a A) (hb : s.HasV b B) (hd : s.FreeV d) (f : BitVec 3) (op : Int → Int → Int) :
    viExact d a b f op s = let F : FmtDesc := f.setWidth 7
      let n := min A.length B.length
      s.wroteV d (packLanes F n ((List.zipWith op (A.ints F n) (B.ints F n)).map (keepInt F s.cell.k.sat))) := by
  simp only [viExact, packet2_silent ha hb hd, intDesc, narrow_eq, VReg.ints, List.map_zipWith, List.zipWith_map]

theorem viOne_has (ha : s.HasV a A) (hd : s.FreeV d) (f : BitVec 3) (op : Int → Int) :
    viOne d a f op s = let F : FmtDesc := f.setWidth 7
      s.wroteV d (packLanes F A.length ((A.ints F A.length).map fun i => keepInt F s.cell.k.sat (op i))) := by
  simp only [viOne, packet1_silent ha hd, intDesc, narrow_eq, VReg.ints, List.map_map]
  rfl

/-- An operation on codes, as any function that agrees with it on the codes of the format. -/
theorem viCode_has (ha : s.HasV a A) (hb : s.HasV b B) (hd : s.FreeV d) (f : BitVec 3) (op : FmtDesc → Nat → Nat → Nat) (g : Nat → Nat → Nat)
    (he : ∀ x < 2 ^ width (f.setWidth 7), ∀ y < 2 ^ width (f.setWidth 7), op (f.setWidth 7) x y = g x y) :
    viCode d a b f op s = let F : FmtDesc := f.setWidth 7
      let n := min A.length B.length
      s.wroteV d (packLanes F n (List.zipWith g (A.elems F n) (B.elems F n))) := by
  simp only [viCode, packet2_silent ha hb hd, intDesc, zipWith_elems_congr he]

theorem viCode_lanes (ha : s.HasV a A) (hb : s.HasV b B) (hd : s.FreeV d) (g : Nat → Nat → Nat) (h : W32 → W32 → W32)
    (he : ∀ x y : W32, BitVec.ofNat 32 (g x.toNat y.toNat) = h x y) : viCode d a b 5 (fun _ => g) s = let n := min A.length B.length
      s.wroteV d (List.zipWith h (A.lanes.toList.take n) (B.lanes.toList.take n)) :=
  (packet2_silent ha hb hd fUINT32 g).trans (congrArg (s.wroteV d) (packLanes_zipWith g h he A B))

/-- The elements that `vsel` picks. -/
theorem vsel_has (ha : s.HasV a A) (hb : s.HasV b B) (hd : s.HasV d C) (F : FmtDesc) :
    packet3 false d a b F (fun _ x y c => (if c ≠ 0 then x else y, 0)) s = let m := min (min A.length B.length) C.length
      s.wroteV d (packLanes F m (List.zipWith (fun e z => if z ≠ 0 then e.1 else e.2) ((A.elems F m).zip (B.elems F m)) (C.elems F m))) := by
  rw [packet3_has ha hb hd]
  refine Eq.trans ?_ (wroteElems_silent ..)
  exact congrArg (s.wroteElems false d F _) (List.ext_getElem (by simp [min_assoc]) fun i h h' => by simp)

end

/-- Settles O31: each instruction is one of the shared operations, and its function has the value of R171's table. -/
theorem integerLanes : Obligations.IntegerLanes := by
  intro d a b A B C f s ha hb
  refine ⟨fun hd => ⟨?_, ?_, ?_, ?_, ?_, ?_, ?_, ?_, ?_, ?_, ?_, ?_, ?_, ?_⟩, fun hC => next_congr (vsel_has ha hb hC (f.setWidth 7))⟩
  · exact next_congr (viExact_has ha hb hd f _)
  · exact next_congr (viExact_has ha hb hd f _)
  · exact next_congr (viExact_has ha hb hd f _)
  · exact next_congr (viOne_has ha hd f _)
  · exact next_congr ((viOne_has ha hd f _).trans (by simp only [zero_sub]))
  · refine next_congr (viCode_has ha hb hd f _ _ fun x _ y _ => ?_)
    simp only [← not_lt, ite_not]
  · exact next_congr (viCode_has ha hb hd f _ _ fun x _ y _ => rfl)
  · exact next_congr (viCode_lanes ha hb hd _ _ fun x y => by rw [← BitVec.toNat_and, BitVec.ofNat_toNat, BitVec.setWidth_eq])
  · exact next_congr (viCode_lanes ha hb hd _ _ fun x y => by rw [← BitVec.toNat_or, BitVec.ofNat_toNat, BitVec.setWidth_eq])
  · exact next_congr (viCode_lanes ha hb hd _ _ fun x y => by rw [← BitVec.toNat_xor, BitVec.ofNat_toNat, BitVec.setWidth_eq])
  · exact next_congr (viCode_has ha hb hd f _ _ fun x _ y _ => toNat_shiftLeft_code _ x _)
  · exact next_congr (viCode_has ha hb hd f _ _ fun x hx y _ => toNat_ushiftRight_code hx _)
  · exact next_congr (viCode_has ha hb hd f _ _ fun x _ y _ => rfl)
  · refine next_congr (viCode_has ha hb hd f _ _ fun x hx y hy => ?_)
    simp only [← intOf_inj hx hy]
    rfl

end Sys2Proof.Machine
end

section
/-! Exact arithmetic on values (R173) and the order of numbers (R174): sums and products of finite values, of infinities and of NaNs, and what the float
operations make of codes. -/

namespace Sys2Proof.Machine

/-! ### Values as rationals -/

theorem rat_eq_zero_iff {n : Bool} {m : Nat} {e : Int} : rat n m e = 0 ↔ m = 0 := by
  have hpos : (2 : ℚ) ^ e ≠ 0 := (zpow_pos two_pos _).ne'
  cases n <;> simp [rat, hpos]

theorem rat_zero (n : Bool) (e : Int) : rat n 0 e = 0 := rat_eq_zero_iff.2 rfl

theorem rat_false_nonneg (m : Nat) (e : Int) : 0 ≤ rat false m e := by
  rw [rat_false]
  positivity

/-- Values of one sign add up to zero only where both are zero. -/
theorem rat_add_same_sign {n : Bool} {m p : Nat} {e d : Int} (h : rat n m e + rat n p d = 0) : m = 0 ∧ p = 0 := by
  have hm := rat_false_nonneg m e
  have hp := rat_false_nonneg p d
  rw [rat_sign n m, rat_sign n p] at h
  rw [← rat_eq_zero_iff (n := false) (e := e), ← rat_eq_zero_iff (n := false) (e := d)]
  cases n
  · simp only [Bool.false_eq_true, if_false] at h
    constructor <;> linarith
  · simp only [if_true] at h
    constructor <;> linarith

theorem rat_not (n : Bool) (m : Nat) (e : Int) : rat (!n) m e = -rat n m e := by
  cases n <;> simp [rat]

/-! ### Finite operands -/

section
variable (mode : BitVec 3) (n k l : Bool) (m p q : Nat) (e d g : Int)

/-- The exact sum; a zero keeps the sign of its operands where they have one, and takes the mode's where not (R173). -/
theorem addExact_fin : ∃ s r h, addExact mode (.fin n m e) (.fin k p d) = (.fin s r h, 0) ∧ rat s r h = rat n m e + rat k p d ∧
    (r = 0 → s = if n = k then n else mode == 3) := by
  have hsum : ((numerator n m e (min e d) + numerator k p d (min e d) : Int) : ℚ) * 2 ^ min e d = rat n m e + rat k p d := by
    rw [Int.cast_add, add_mul, numerator_rat (min_le_left e d), numerator_rat (min_le_right e d)]
  simp only [addExact]
  generalize numerator n m e (min e d) + numerator k p d (min e d) = t at hsum
  by_cases ht : t = 0
  · have hzero : rat n m e + rat k p d = 0 := by rw [← hsum, ht, Int.cast_zero, zero_mul]
    rw [if_pos ht, hzero]
    by_cases hnk : n = k
    · subst hnk
      obtain ⟨rfl, rfl⟩ := rat_add_same_sign hzero
      exact ⟨n, 0, 0, by simp, rat_zero _ _, fun _ => by simp⟩
    · exact ⟨mode == 3, 0, 0, by simp [hnk, zeroSum], rat_zero _ _, fun _ => (if_neg hnk).symm⟩
  · rw [if_neg ht]
    exact ⟨_, _, _, rfl, (rat_natAbs t _).trans hsum, fun h => absurd (Int.natAbs_eq_zero.1 h) ht⟩

/-- The exact product has the sign of its operands together. -/
theorem mulExact_fin : ∃ s r h, mulExact (.fin n m e) (.fin k p d) = (.fin s r h, 0) ∧ rat s r h = rat n m e * rat k p d ∧ s = (n != k) :=
  ⟨_, _, _, rfl, rat_mul n k m p e d, rfl⟩

theorem fmaExact_eq (x y z : Num) : fmaExact mode x y z =
    ((addExact mode (mulExact x y).1 z).1, (mulExact x y).2 ||| (addExact mode (mulExact x y).1 z).2 ||| (if z.isSig then flNV else 0)) := rfl

/-- The exact value of a × b + c. -/
theorem fmaExact_fin : ∃ s r h, fmaExact mode (.fin n m e) (.fin k p d) (.fin l q g) = (.fin s r h, 0) ∧
    rat s r h = rat n m e * rat k p d + rat l q g ∧ (r = 0 → s = if (n != k) = l then (n != k) else mode == 3) := by
  obtain ⟨s, r, h, hadd, hrat, hsign⟩ := addExact_fin mode (n != k) l (m * p) q (e + d) g
  refine ⟨s, r, h, ?_, hrat.trans (by rw [rat_mul]), hsign⟩
  simp [fmaExact_eq, mulExact, hadd, Num.isSig]

end

/-! ### NaN operands (R37, R173) -/

theorem isSig_of_not_nan {x : Num} (h : x.isNan = false) : x.isSig = false := by
  cases x with
  | nan g => cases h
  | inf n => rfl
  | fin n m e => rfl

section
variable {mode : BitVec 3} {x y z : Num}

theorem nanFrom_pair (x y : Num) : nanFrom [x, y] = (.nan false, if x.isSig || y.isSig then flNV else 0) := by simp [nanFrom]

/-- What holds with a NaN on either side holds where one of two values is NaN. -/
theorem nan_cases {P : Num → Num → Prop} (hl : ∀ g y, P (.nan g) y) (hr : ∀ x g, P x (.nan g)) (h : x.isNan = true ∨ y.isNan = true) : P x y := by
  rcases h with h | h
  · cases x with
    | nan g => exact hl g y
    | inf n => cases h
    | fin n m e => cases h
  · cases y with
    | nan g => exact hr x g
    | inf n => cases h
    | fin n m e => cases h

theorem addExact_nan (h : x.isNan = true ∨ y.isNan = true) : addExact mode x y = (.nan false, if x.isSig || y.isSig then flNV else 0) := by
  rw [← nanFrom_pair]
  exact nan_cases (P := fun x y => addExact mode x y = nanFrom [x, y]) (fun _ _ => rfl) (fun x _ => by cases x <;> rfl) h

theorem mulExact_nan (h : x.isNan = true ∨ y.isNan = true) : mulExact x y = (.nan false, if x.isSig || y.isSig then flNV else 0) := by
  rw [← nanFrom_pair]
  exact nan_cases (P := fun x y => mulExact x y = nanFrom [x, y]) (fun _ _ => rfl) (fun x _ => by cases x <;> rfl) h

/-- A product is never a signalling NaN. -/
theorem mulExact_quiet (x y : Num) : (mulExact x y).1.isSig = false := by
  by_cases h : x.isNan = true ∨ y.isNan = true
  · rw [mulExact_nan h]
    rfl
  · cases x with
    | nan g => simp [Num.isNan] at h
    | inf n =>
      cases y with
      | nan g => simp [Num.isNan] at h
      | inf k => rfl
      | fin k p d =>
        simp only [mulExact]
        split <;> rfl
    | fin n m e =>
      cases y with
      | nan g => simp [Num.isNan] at h
      | inf k =>
        simp only [mulExact]
        split <;> rfl
      | fin k p d => rfl

/-- A product that is NaN makes the sum NaN; the flags of both are raised. -/
theorem fmaExact_nan_product (h : (mulExact x y).1.isNan = true) :
    fmaExact mode x y z = (.nan false, (mulExact x y).2 ||| (if z.isSig then flNV else 0)) := by
  rw [fmaExact_eq, addExact_nan (.inl h), mulExact_quiet, Bool.false_or, BitVec.or_assoc, BitVec.or_self]

theorem fmaExact_nan_factor (h : x.isNan = true ∨ y.isNan = true) :
    fmaExact mode x y z = (.nan false, (if x.isSig || y.isSig then flNV else 0) ||| (if z.isSig then flNV else 0)) := by
  rw [fmaExact_nan_product (by rw [mulExact_nan h]; rfl), mulExact_nan h]

theorem fmaExact_nan_addend (h : z.isNan = true) : fmaExact mode x y z = (.nan false, (mulExact x y).2 ||| (if z.isSig then flNV else 0)) := by
  rw [fmaExact_eq, addExact_nan (.inr h), mulExact_quiet, Bool.false_or, BitVec.or_assoc, BitVec.or_self]

/-! ### Infinities -/

/-- ∞ × 0 in a multiply-add (R173). -/
theorem fmaExact_invalid (h : mulExact x y = (.nan false, flNV)) (hz : z.isNan = false) : fmaExact mode x y z = (.nan false, flNV) := by
  rw [fmaExact_nan_product (by rw [h]; rfl), h, isSig_of_not_nan hz]
  rfl

theorem addExact_inf_inf (n k : Bool) : addExact mode (.inf n) (.inf k) = if n = k then (.inf n, 0) else (.nan false, flNV) := rfl

theorem mulExact_inf_fin (n k : Bool) (p : Nat) (d : Int) :
    mulExact (.inf n) (.fin k p d) = if p = 0 then (.nan false, flNV) else (.inf (n != k), 0) := rfl

theorem mulExact_fin_inf (n k : Bool) (p : Nat) (d : Int) :
    mulExact (.fin k p d) (.inf n) = if p = 0 then (.nan false, flNV) else (.inf (n != k), 0) := rfl

/-- A product that is infinite, and an addend that is infinite too. -/
theorem fmaExact_inf {n : Bool} (h : mulExact x y = (.inf n, 0)) (k : Bool) :
    fmaExact mode x y (.inf k) = if n = k then (.inf n, 0) else (.nan false, flNV) := by
  rw [fmaExact_eq, h, addExact_inf_inf]
  split <;> simp [Num.isSig]

theorem fmaExact_inf_fin {n : Bool} (h : mulExact x y = (.inf n, 0)) (k : Bool) (m : Nat) (e : Int) : fmaExact mode x y (.fin k m e) = (.inf n, 0) := by
  simp [fmaExact_eq, h, addExact, Num.isSig]

theorem fmaExact_fin_inf (n k l : Bool) (m p : Nat) (e d : Int) : fmaExact mode (.fin n m e) (.fin k p d) (.inf l) = (.inf l, 0) := by
  simp [fmaExact_eq, mulExact, addExact, Num.isSig]

end

/-! ### The order of numbers (R174) -/

/-- Numbers rank as their values do, and −0 below +0. -/
theorem ranksBelow_iff {x y : Num} (hx : x.isNan = false) (hy : y.isNan = false) : x.ranksBelow y = true ↔ x.Below y := by
  cases x with
  | nan g => cases hx
  | inf n =>
    cases y with
    | nan g => cases hy
    | inf k => simp [Num.ranksBelow, Num.lt, Num.Below]
    | fin k l d => simp [Num.ranksBelow, Num.lt, Num.Below]
  | fin n m e =>
    cases y with
    | nan g => cases hy
    | inf k => simp [Num.ranksBelow, Num.lt, Num.Below]
    | fin k l d =>
      by_cases hz : m = 0 ∧ l = 0
      · obtain ⟨rfl, rfl⟩ := hz
        simp [Num.ranksBelow, Num.Below, rat_zero]
      · have hlt : (Num.fin n m e).ranksBelow (.fin k l d) = (Num.fin n m e).lt (.fin k l d) := by
          cases m with
          | succ m => rfl
          | zero =>
            cases l with
            | succ l => rfl
            | zero => exact absurd ⟨rfl, rfl⟩ hz
        rw [hlt, Num.lt_fin, decide_eq_true_iff, Num.Below]
        exact ⟨.inl, fun h => h.resolve_right fun ⟨h1, h2, _⟩ => hz ⟨h1, h2⟩⟩

theorem below_asymm {x y : Num} (h : x.Below y) : ¬ y.Below x := by
  cases x with
  | nan g => exact absurd h (by simp [Num.Below])
  | inf n => cases y <;> simp_all [Num.Below]
  | fin n m e =>
    cases y with
    | nan g => exact absurd h (by simp [Num.Below])
    | inf k => simp_all [Num.Below]
    | fin k l d =>
      rcases h with h | ⟨rfl, rfl, rfl, rfl⟩
      · rintro (h' | ⟨rfl, rfl, -, -⟩)
        · exact lt_asymm h h'
        · simp [rat_zero] at h
      · simp [Num.Below, rat_zero]

/-- The lesser and the greater of two numbers, and the first of two that rank alike. -/
theorem minMax_numbers {f : FmtDesc} {a b : Nat} (hx : (valueOf f a).isNan = false) (hy : (valueOf f b).isNan = false) :
    ((valueOf f a).Below (valueOf f b) → (minMax f false a b).1 = a ∧ (minMax f true a b).1 = b) ∧
      ((valueOf f b).Below (valueOf f a) → (minMax f false a b).1 = b ∧ (minMax f true a b).1 = a) ∧
      (¬ (valueOf f a).Below (valueOf f b) → ¬ (valueOf f b).Below (valueOf f a) → (minMax f false a b).1 = a ∧ (minMax f true a b).1 = a) := by
  have hmin : (minMax f false a b).1 = if (valueOf f b).ranksBelow (valueOf f a) = true then b else a := by simp [minMax, hx, hy]
  have hmax : (minMax f true a b).1 = if (valueOf f a).ranksBelow (valueOf f b) = true then b else a := by simp [minMax, hx, hy]
  have hab := ranksBelow_iff hx hy
  have hba := ranksBelow_iff hy hx
  rw [hmin, hmax]
  refine ⟨fun h => ⟨?_, ?_⟩, fun h => ⟨?_, ?_⟩, fun h h' => ⟨?_, ?_⟩⟩
  · exact if_neg (mt hba.1 (below_asymm h))
  · exact if_pos (hab.2 h)
  · exact if_pos (hba.2 h)
  · exact if_neg (mt hab.1 (below_asymm h))
  · exact if_neg (mt hba.1 h')
  · exact if_neg (mt hab.1 h)

theorem minMax_flags (f : FmtDesc) (greatest : Bool) (a b : Nat) :
    (minMax f greatest a b).2 = if (valueOf f a).isSig || (valueOf f b).isSig then flNV else 0 := by
  simp only [minMax]
  split <;> [split; split] <;> rfl

theorem minMax_nans {f : FmtDesc} {a b : Nat} (greatest : Bool) (hx : (valueOf f a).isNan = true) (hy : (valueOf f b).isNan = true) :
    (minMax f greatest a b).1 = nanCode f := by
  simp [minMax, hx, hy]

theorem minMax_nan_left {f : FmtDesc} {a b : Nat} (greatest : Bool) (hx : (valueOf f a).isNan = true) (hy : (valueOf f b).isNan = false) :
    (minMax f greatest a b).1 = b := by
  simp [minMax, hx, hy]

theorem minMax_nan_right {f : FmtDesc} {a b : Nat} (greatest : Bool) (hx : (valueOf f a).isNan = false) (hy : (valueOf f b).isNan = true) :
    (minMax f greatest a b).1 = a := by
  simp [minMax, hx, hy]

/-! ### Signs of codes (R174) -/

/-- Formats with −0 are none of P3109, checked for each descriptor. -/
theorem not_isP3109_of_negZero : ∀ f : FmtDesc, f.isFloat = true → (floatFmt f).signed = true → (floatFmt f).negZero = true → f.isP3109 = false := by
  decide +kernel

section
variable {f : FmtDesc} {c : Nat}

theorem signCode_nan (h : (valueOf f c).isNan = true) (neg : Bool) : signCode neg f c = (nanCode f, if (valueOf f c).isSig then flNV else 0) := by
  simp [signCode, h]

theorem signCode_signed (h : (valueOf f c).isNan = false) (hs : (floatFmt f).signed = true) (neg : Bool) : signCode neg f c =
    if f.isP3109 && c == 0 then (0, 0) else (if neg then c ^^^ 2 ^ (width f - 1) else c % 2 ^ (width f - 1), 0) := by
  simp [signCode, h, hs]

theorem signCode_unsigned (h : (valueOf f c).isNan = false) (hs : (floatFmt f).signed = false) (neg : Bool) : signCode neg f c =
    if !neg || c = 0 then (c, 0) else (nanCode f, flNV) := by
  simp [signCode, h, hs]

/-- `vfneg` inverts the sign bit and no other; the zero of a format without −0 stays. -/
theorem signCode_inverts (hf : f.isFloat = true) (hc : c < 2 ^ width f) (h : (valueOf f c).isNan = false) (hs : (floatFmt f).signed = true)
    (hz : (floatFmt f).negZero = true ∨ c ≠ 0) :
    ∃ r, signCode true f c = (r, 0) ∧ r < 2 ^ width f ∧ ∀ i < width f, r.testBit i = (c.testBit i ^^ decide (i = width f - 1)) := by
  have hp : ¬ (f.isP3109 && c == 0) = true := by
    rcases hz with hz | hz
    · simp [not_isP3109_of_negZero f hf hs hz]
    · simp [hz]
  rw [signCode_signed h hs, if_neg hp, if_pos rfl]
  refine ⟨_, rfl, Nat.xor_lt_two_pow hc (Nat.pow_lt_pow_right one_lt_two (Nat.sub_lt (width_pos f) one_pos)), fun i _ => ?_⟩
  rw [Nat.testBit_xor, Nat.testBit_two_pow]
  simp only [eq_comm]

/-- `vfabs` clears the sign bit. -/
theorem signCode_clears (h : (valueOf f c).isNan = false) (hs : (floatFmt f).signed = true) :
    ∃ r, signCode false f c = (r, 0) ∧ ∀ i, r.testBit i = (c.testBit i && decide (i < width f - 1)) := by
  rw [signCode_signed h hs]
  by_cases hp : (f.isP3109 && c == 0) = true
  · rw [if_pos hp]
    obtain ⟨-, h0⟩ := Bool.and_eq_true_iff.1 hp
    rw [beq_iff_eq.1 h0]
    exact ⟨0, rfl, by simp⟩
  · rw [if_neg hp]
    exact ⟨_, rfl, fun i => by rw [if_neg Bool.false_ne_true, Nat.testBit_mod_two_pow, Bool.and_comm]⟩

theorem valueOf_zero_not_nan (hf : f.isFloat = true) : (valueOf f 0).isNan = false := by
  obtain ⟨m, e, hv, -⟩ := magValue_magnitude (floatFmt f) false 0
  rw [valueOf_magnitude hf (Nat.zero_le _), hv]
  rfl

theorem signCode_zero (hf : f.isFloat = true) (hs : (floatFmt f).signed = true) (hz : (floatFmt f).negZero = false) : signCode true f 0 = (0, 0) := by
  obtain ⟨hp, -⟩ := nan_of_no_negZero f hf hs hz
  rw [signCode_signed (valueOf_zero_not_nan hf) hs, hp]
  rfl

end

theorem cmpCode_eq (f : FmtDesc) (x y : Nat) : cmpCode f x y =
    (if (valueOf f x).isNan || (valueOf f y).isNan then 2
      else if (valueOf f x).lt (valueOf f y) then 2 ^ width f - 1 else if (valueOf f y).lt (valueOf f x) then 1 else 0,
     if (valueOf f x).isSig || (valueOf f y).isSig then flNV else 0) := by
  simp only [cmpCode]
  split <;> rfl

/-! ### The instructions -/

theorem vfRound_eq (s : State) (f : FmtDesc) (k : Nat) (x : Num × Flags) : vfRound s.cell f k x = s.round f k x := rfl

section
variable {s : State} {d a b : VIdx} {A B C : VReg}

/-- An operation that rounds, element by element. -/
theorem vfTwo_has (ha : s.HasV a A) (hb : s.HasV b B) (hd : s.FreeV d) (f : FmtDesc) (op : Num → Num → Num × Flags) :
    vfTwo d a b f op s = let n := min A.length B.length
      s.wroteElems true d f n ((List.zipWith op (A.nums f n) (B.nums f n)).mapIdx fun k x => s.round f k x) := by
  simp only [vfTwo, packet2_has ha hb hd, vfRound_eq, VReg.nums, List.zipWith_map]
  rw [← mapIdx_zip (fun k x => s.round f k x) fun x y => op (valueOf f x) (valueOf f y)]

/-- An operation on codes that raises flags of its own. -/
theorem packet2_codes (ha : s.HasV a A) (hb : s.HasV b B) (hd : s.FreeV d) (f : FmtDesc) (g : Nat → Nat → Nat × Flags) :
    packet2 false d a b f (fun _ x y => g x y) s = let n := min A.length B.length
      s.wroteElems false d f n (List.zipWith g (A.elems f n) (B.elems f n)) := by
  rw [packet2_has ha hb hd, mapIdx_zip_unnumbered g]

theorem packet1_codes (ha : s.HasV a A) (hd : s.FreeV d) (f : FmtDesc) (g : Nat → Nat × Flags) :
    packet1 false d a f (fun _ x => g x) s = s.wroteElems false d f A.length ((A.elems f A.length).map g) := by
  rw [packet1_has ha hd, mapIdx_unnumbered g]

theorem vfma_has (ha : s.HasV a A) (hb : s.HasV b B) (hd : s.HasV d C) (f : FmtDesc) (op : Num → Num → Num → Num × Flags) :
    packet3 true d a b f (fun k x y c => vfRound s.cell f k (op (valueOf f x) (valueOf f y) (valueOf f c))) s =
      let m := min (min A.length B.length) C.length
      s.wroteElems true d f m
        ((List.zipWith (fun e z => op e.1 e.2 z) ((A.nums f m).zip (B.nums f m)) (C.nums f m)).mapIdx fun k x => s.round f k x) := by
  rw [packet3_has ha hb hd]
  exact congrArg (s.wroteElems true d f _) (List.ext_getElem (by simp [VReg.nums, min_assoc]) fun i h h' => by simp [VReg.nums, vfRound_eq])

end

/-- Settles O32: exact values by the kind of their operands, and the instructions as operations on elements. -/
theorem floatLanes : Obligations.FloatLanes := by
  refine ⟨fun mode n k l m p q e d g => ⟨addExact_fin .., mulExact_fin .., fmaExact_fin ..⟩, fun mode n k m p e d x => ?_, fun mode x y z h => ?_,
    fun mode x y z _ _ hz => fmaExact_nan_addend hz, fun f a b hf => ?_, fun f c hf hc => ?_, fun n k m p e d => ?_, fun d a b A B C f s ha hb hf => ?_⟩
  · refine ⟨rfl, rfl, rfl, rfl, by simp [mulExact_inf_fin, mulExact_fin_inf],
      fun hx => ⟨fmaExact_fin_inf .., fmaExact_invalid rfl hx, fmaExact_invalid rfl hx, ?_, fun hp => ?_⟩⟩
    · rw [fmaExact_inf rfl]
      cases n <;> cases k <;> rfl
    · have hprod : mulExact (.inf n) (.fin k p d) = (.inf (n != k), 0) := if_neg hp
      refine ⟨?_, ?_, fmaExact_inf_fin hprod ..⟩
      · rw [fmaExact_inf hprod]
        cases n <;> cases k <;> rfl
      · rw [fmaExact_inf hprod, if_pos rfl]
  · exact ⟨addExact_nan h, mulExact_nan h, fmaExact_nan_factor h⟩
  · exact ⟨minMax_flags .., minMax_flags .., fun hx hy => ⟨minMax_nans _ hx hy, minMax_nans _ hx hy⟩,
      fun hx hy => ⟨minMax_nan_left _ hx hy, minMax_nan_left _ hx hy⟩, fun hx hy => ⟨minMax_nan_right _ hx hy, minMax_nan_right _ hx hy⟩,
      fun hx hy => minMax_numbers hx hy⟩
  · refine ⟨fun h neg => signCode_nan h neg, fun h hs => ⟨signCode_inverts hf hc h hs, signCode_clears h hs, signCode_zero hf hs⟩, fun h hs => ⟨?_, ?_⟩⟩
    · simp [signCode_unsigned h hs]
    · rw [signCode_unsigned h hs]
      by_cases h0 : c = 0
      · simp [h0]
      · simp [h0, nanCode]
  · exact ⟨by simp [Num.lt_fin], rfl, rfl, rfl⟩
  · refine ⟨fun hd => ⟨?_, ?_, ?_, ?_, ?_, ?_, ?_, ?_⟩, fun hC => next_congr (vfma_has ha hb hC f _)⟩
    · exact next_congr (vfTwo_has ha hb hd f _)
    · exact next_congr (vfTwo_has ha hb hd f _)
    · exact next_congr (vfTwo_has ha hb hd f _)
    · exact next_congr (packet2_codes ha hb hd f _)
    · exact next_congr (packet2_codes ha hb hd f _)
    · exact next_congr (packet1_codes ha hd f _)
    · exact next_congr (packet1_codes ha hd f _)
    · exact next_congr ((packet2_codes ha hb hd f _).trans (by rw [funext₂ (cmpCode_eq f)]))

end Sys2Proof.Machine
end

section
/-! Values truncated to FP32 (R179): what a finite code of FP32 is worth, and what truncation toward zero leaves of a value. -/

namespace Sys2Proof.Machine

/-! ### Multiples of a power of two -/

theorem cutTo_le {low : Int} {v : ℚ} (h : 0 ≤ v) : cutTo low v ≤ v := by
  have hpos : (0 : ℚ) < 2 ^ low := zpow_pos two_pos _
  rw [cutTo_of_nonneg h, ← le_div_iff₀ hpos]
  exact Int.floor_le _

/-- A multiple of a greater power of two is one of a lesser. -/
theorem cutTo_coarse {a b : Int} (h : b ≤ a) (k : Nat) : cutTo b (k * 2 ^ a) = k * 2 ^ a := by
  have hsplit : (k : ℚ) * 2 ^ a = ((k * 2 ^ (a - b).toNat : Nat) : ℚ) * 2 ^ b := by
    push_cast
    rw [mul_assoc, ← zpow_natCast, Int.toNat_of_nonneg (by omega), ← zpow_add₀ two_ne_zero, Int.sub_add_cancel]
  rw [hsplit, cutTo_multiple]

/-- Truncation to a coarser multiple takes in the finer one before it. -/
theorem cutTo_cutTo {a b : Int} (h : a ≤ b) {v : ℚ} (hv : 0 ≤ v) : cutTo b (cutTo a v) = cutTo b v := by
  have hstep : (2 : ℚ) ^ b = 2 ^ a * ((2 ^ (b - a).toNat : Nat) : ℚ) := by
    push_cast
    rw [← zpow_natCast, Int.toNat_of_nonneg (by omega), ← zpow_add₀ two_ne_zero, add_sub_cancel]
  have hpos : (0 : ℚ) < 2 ^ a := zpow_pos two_pos _
  have hfloor : (0 : ℚ) ≤ ⌊v / 2 ^ a⌋ := by exact_mod_cast Int.floor_nonneg.2 (div_nonneg hv hpos.le)
  rw [cutTo_of_nonneg hv, cutTo_of_nonneg (mul_nonneg hfloor hpos.le), cutTo_of_nonneg hv]
  congr 2
  rw [hstep, mul_comm, mul_div_mul_left _ _ hpos.ne', ← div_div, Int.floor_div_natCast, Int.floor_div_natCast, Int.floor_intCast]

/-- Finer multiples of a value that is already cut are itself. -/
theorem cutTo_cutTo_fine {a b : Int} (h : b ≤ a) {v : ℚ} (hv : 0 ≤ v) : cutTo b (cutTo a v) = cutTo a v := by
  have hpos : (0 : ℚ) < 2 ^ a := zpow_pos two_pos _
  rw [cutTo_of_nonneg hv, ← Int.toNat_of_nonneg (Int.floor_nonneg.2 (div_nonneg hv hpos.le)), Int.cast_natCast, cutTo_coarse h]

/-! ### The binade of a value -/

/-- A value that is not zero lies in the binade of its leading bit. -/
theorem log_rat {m : Nat} (hm : m ≠ 0) (e : Int) : Int.log 2 (rat false m e) = (Nat.log2 m : Int) + e := by
  obtain ⟨hlo, hhi⟩ := rat_binade false hm e
  have hpos : 0 < rat false m e := (rat_false_nonneg m e).lt_of_ne fun h => hm (rat_eq_zero_iff.1 h.symm)
  rw [abs_of_pos hpos] at hlo hhi
  have h1 := (Int.zpow_le_iff_le_log (b := 2) one_lt_two hpos).1 (by exact_mod_cast hlo)
  have h2 := (Int.lt_zpow_iff_log_lt (b := 2) one_lt_two hpos).1 (by exact_mod_cast hhi)
  omega

/-- The magnitude below a value is the value cut at the spacing of its binade (R40). -/
theorem magnitude_bracket (ff : FloatFmt) {m : Nat} (hm : m ≠ 0) (e : Int) :
    ff.magnitude (bracket ff.t ff.b m e).code = cutTo (roundBinade ff.b m e + 1 - ff.b - ff.t) (rat false m e) := by
  obtain ⟨hhi, hlo⟩ := roundBinade_bounds ff.t ff.b hm e
  have hq := places_cut m (e - (roundBinade ff.b m e + 1 - ff.b - ff.t))
  rw [bracket_cut, cutTo_of_nonneg (rat_false_nonneg m e)]
  generalize hn : roundBinade ff.b m e = n at *
  have hx : rat false m e / 2 ^ ((n : Int) + 1 - ff.b - ff.t) = m * 2 ^ (e - (n + 1 - ff.b - ff.t)) := by
    rw [rat_false, mul_div_assoc, ← zpow_sub₀ two_ne_zero]
  generalize cut m (e - (n + 1 - ff.b - ff.t)) = q at *
  have hj : q.code < 2 ^ (ff.t + 1) := by exact_mod_cast hq.lower.trans_lt hhi
  have hn : n = 0 ∨ 2 ^ ff.t ≤ q.code := hlo.imp_right fun h => Nat.lt_succ_iff.mp (by exact_mod_cast h.trans_lt hq.upper)
  have hfloor : ⌊rat false m e / 2 ^ ((n : Int) + 1 - ff.b - ff.t)⌋ = (q.code : Int) := by
    rw [hx, Int.floor_eq_iff]
    exact ⟨by exact_mod_cast hq.lower, by exact_mod_cast hq.upper⟩
  rw [hfloor]
  exact magnitude_binade ff hj.le hn

/-! ### FP32 -/

theorem signed_fFP32 (neg : Bool) (c : Nat) : signed fFP32 neg c = if neg then c + 2 ^ 31 else c := by
  cases neg <;> rfl

/-- Codes of FP32 up to the largest finite magnitude, of either sign. -/
theorem valueOf_signed32 {k : Nat} (hk : k ≤ 0x7F7F_FFFF) (neg : Bool) : valueOf fFP32 (signed fFP32 neg k) = magValue (floatFmt fFP32) neg k := by
  have htop : (signed fFP32 neg k).testBit 31 = neg := by
    rw [signed_fFP32]
    cases neg <;> simp only [Bool.false_eq_true, if_false, if_true]
    · exact Nat.testBit_lt_two_pow (by omega)
    · exact Nat.testBit_of_two_pow_le_and_two_pow_add_one_gt (by omega) (by omega)
  have hmag : signed fFP32 neg k % 2 ^ 31 = k := by
    rw [signed_fFP32]
    cases neg <;> simp only [Bool.false_eq_true, if_false, if_true] <;> omega
  have hinf : (some k == (floatFmt fFP32).inf) = false := by
    rw [beq_eq_false_iff_ne]
    exact fun h => absurd (Option.some.inj h) (by omega)
  have hval : valueOf fFP32 (signed fFP32 neg k) = if some (signed fFP32 neg k % 2 ^ 31) == (floatFmt fFP32).inf then .inf ((signed fFP32 neg k).testBit 31)
      else if signed fFP32 neg k % 2 ^ 31 ≤ 0x7F7F_FFFF then magValue (floatFmt fFP32) ((signed fFP32 neg k).testBit 31) (signed fFP32 neg k % 2 ^ 31)
      else .nan (!(signed fFP32 neg k % 2 ^ 31).testBit 22) := rfl
  rw [hval, hmag, htop, hinf, if_neg Bool.false_ne_true, if_pos hk]

/-- The parts of a finite value of FP32. -/
theorem finite_fFP32 {c : Nat} (hc : c < 2 ^ 32) {neg : Bool} {m : Nat} {e : Int} (h : valueOf fFP32 c = .fin neg m e) : m < 2 ^ 24 ∧ -149 ≤ e ∧ e ≤ 104 := by
  obtain ⟨k, hk, -, hval, -, -⟩ := code_of_finite (f := fFP32) (by decide) hc h
  have hmax : k ≤ 0x7F7F_FFFF := hk
  have hdef : magValue (floatFmt fFP32) neg k =
      if k / 2 ^ 23 = 0 then .fin neg (k % 2 ^ 23) (1 - 127 - (23 : Nat)) else .fin neg (2 ^ 23 + k % 2 ^ 23) ((k / 2 ^ 23 : Nat) - 127 - (23 : Nat)) := rfl
  rw [hdef] at hval
  split at hval <;> (obtain ⟨-, rfl, rfl⟩ := Num.fin.inj hval; omega)

/-- A code past the largest finite one would be worth 2^128. -/
theorem magnitude_past_fFP32 : (floatFmt fFP32).magnitude (0x7F7F_FFFF + 1) = 2 ^ (128 : Int) := by
  have h := magnitude_binade (floatFmt fFP32) (n := 254) (j := 2 ^ 23) (by decide) (.inr le_rfl)
  refine h.trans ?_
  have hexp : ((254 : Nat) : Int) + 1 - (floatFmt fFP32).b - ((floatFmt fFP32).t : Nat) = 105 := by decide
  rw [hexp]
  norm_num

/-- A value below 2^128 truncated to FP32 (R179): cut at the spacing of its binade, or of the subnormals. -/
theorem truncFP32_value (neg : Bool) {m : Nat} {e : Int} (hm : m ≠ 0) (hx : rat false m e < 2 ^ (128 : Int)) :
    ∃ q g, valueOf fFP32 (truncFP32 neg m e) = .fin neg q g ∧ rat false q g = cutTo (max ((Nat.log2 m : Int) + e - 23) (-149)) (rat false m e) := by
  have hp := places_bracket (floatFmt fFP32) hm e
  have hmag := magnitude_bracket (floatFmt fFP32) hm e
  have hlow : (roundBinade (floatFmt fFP32).b m e : Int) + 1 - (floatFmt fFP32).b - ((floatFmt fFP32).t : Nat) = max ((Nat.log2 m : Int) + e - 23) (-149) := by
    have ht : (floatFmt fFP32).t = 23 := rfl
    have hb : (floatFmt fFP32).b = 127 := rfl
    rw [ht, hb, roundBinade]
    omega
  rw [hlow] at hmag
  have hcode : (bracket (floatFmt fFP32).t (floatFmt fFP32).b m e).code ≤ 0x7F7F_FFFF :=
    Nat.lt_succ_iff.1 ((magnitude_strictMono (floatFmt fFP32)).lt_iff_lt.1 ((hp.lower.trans_lt hx).trans_eq magnitude_past_fFP32.symm))
  have hround : truncFP32 neg m e = signed fFP32 neg (bracket (floatFmt fFP32).t (floatFmt fFP32).b m e).code :=
    (congrArg Prod.fst (roundFinite_within (f := fFP32) (r := ⟨1, false⟩) (rnd := 0) (neg := neg) hm hp (.inr rfl) hcode)).trans
      (if_neg fun h => absurd h.2 (by decide))
  obtain ⟨q, g, hq, hrat⟩ := magValue_magnitude (floatFmt fFP32) neg (bracket (floatFmt fFP32).t (floatFmt fFP32).b m e).code
  exact ⟨q, g, by rw [hround, valueOf_signed32 hcode, hq], hrat.trans hmag⟩

/-- A value of at most 24 bits and not below the spacing of the subnormals is not changed. -/
theorem truncFP32_exact (neg : Bool) {m : Nat} {e : Int} (hm : m ≠ 0) (hbits : m < 2 ^ 24) (he : -149 ≤ e) (hx : rat false m e < 2 ^ (128 : Int)) :
    ∃ q g, valueOf fFP32 (truncFP32 neg m e) = .fin neg q g ∧ rat false q g = rat false m e := by
  obtain ⟨q, g, hv, hq⟩ := truncFP32_value neg hm hx
  have hlog : Nat.log2 m < 24 := (Nat.log2_lt hm).2 hbits
  exact ⟨q, g, hv, hq.trans (cutTo_coarse (by omega) m)⟩

end Sys2Proof.Machine
end

section
/-! Reciprocals and reciprocal roots (R179): the fraction that the machine computes is the exact value cut to 12 significant bits. -/

namespace Sys2Proof.Machine

/-! ### Quotients of powers of two -/

/-- A quotient of 2^(L+12) by a number of leading bit L has 12 bits, or is 2^12. -/
theorem pow_div_bounds {m : Nat} (hm : m ≠ 0) : 2 ^ 11 ≤ 2 ^ (Nat.log2 m + 12) / m ∧ 2 ^ (Nat.log2 m + 12) / m ≤ 2 ^ 12 := by
  have hlo := Nat.log2_self_le hm
  have hhi : m < 2 ^ (Nat.log2 m + 1) := Nat.lt_log2_self
  have hpos : 0 < m := Nat.pos_of_ne_zero hm
  constructor
  · rw [Nat.le_div_iff_mul_le hpos]
    calc 2 ^ 11 * m ≤ 2 ^ 11 * 2 ^ (Nat.log2 m + 1) := Nat.mul_le_mul_left _ hhi.le
      _ = 2 ^ (Nat.log2 m + 12) := by rw [← pow_add]; congr 1; omega
  · rw [Nat.div_le_iff_le_mul_add_pred hpos]
    calc 2 ^ (Nat.log2 m + 12) = 2 ^ 12 * 2 ^ Nat.log2 m := by rw [← pow_add, add_comm]
      _ ≤ 2 ^ 12 * m := Nat.mul_le_mul_left _ hlo
      _ ≤ m * 2 ^ 12 + (m - 1) := by rw [mul_comm]; exact Nat.le_add_right ..

/-- The reciprocal of a value in units of the last place that `vrcp` computes. -/
theorem one_div_rat (m : Nat) (e : Int) (j : Nat) : 1 / rat false m e = ((2 ^ j : Nat) : ℚ) / m * 2 ^ (-(j : Int) - e) := by
  have hj : ((2 : ℚ) ^ j) ≠ 0 := by positivity
  rw [rat_false, zpow_sub₀ two_ne_zero, zpow_neg, zpow_natCast]
  push_cast
  field_simp

/-- A value between two multiples of a power of two lies in the binade of the lower. -/
theorem log_of_bracket {N : Nat} (hN : N ≠ 0) {g : Int} {y : ℚ} (hlo : N * 2 ^ g ≤ y) (hhi : y < (N + 1) * 2 ^ g) : Int.log 2 y = (Nat.log2 N : Int) + g := by
  have hg : (0 : ℚ) < 2 ^ g := zpow_pos two_pos _
  have hpos : 0 < y := lt_of_lt_of_le (mul_pos (by exact_mod_cast Nat.pos_of_ne_zero hN) hg) hlo
  have h1 : ((2 : Nat) : ℚ) ^ ((Nat.log2 N : Int) + g) ≤ y := by
    refine le_trans ?_ hlo
    rw [Nat.cast_ofNat, zpow_add₀ two_ne_zero, zpow_natCast]
    exact mul_le_mul_of_nonneg_right (by exact_mod_cast Nat.log2_self_le hN) hg.le
  have h2 : y < ((2 : Nat) : ℚ) ^ ((Nat.log2 N : Int) + g + 1) := by
    refine hhi.trans_le ?_
    rw [Nat.cast_ofNat, add_right_comm, zpow_add₀ two_ne_zero, show (Nat.log2 N : Int) + 1 = ((Nat.log2 N + 1 : Nat) : Int) from rfl, zpow_natCast]
    exact mul_le_mul_of_nonneg_right (by exact_mod_cast Nat.succ_le_of_lt Nat.lt_log2_self) hg.le
  have h1' := (Int.zpow_le_iff_le_log one_lt_two hpos).1 h1
  have h2' := (Int.lt_zpow_iff_log_lt one_lt_two hpos).1 h2
  omega

/-- The quotient is 2^12 only where it leaves no remainder. -/
theorem pow_div_full {m : Nat} (hm : m ≠ 0) (h : 2 ^ (Nat.log2 m + 12) / m = 2 ^ 12) : ((2 ^ (Nat.log2 m + 12) : Nat) : ℚ) / m = 2 ^ 12 := by
  have hm' : (0 : ℚ) < m := Nat.cast_pos.2 (Nat.pos_of_ne_zero hm)
  refine le_antisymm ?_ ?_
  · rw [div_le_iff₀ hm', pow_add, mul_comm (2 ^ Nat.log2 m)]
    push_cast
    exact mul_le_mul_of_nonneg_left (by exact_mod_cast Nat.log2_self_le hm) (by positivity)
  · refine le_trans ?_ (places_div (2 ^ (Nat.log2 m + 12)) m (Nat.pos_of_ne_zero hm)).lower
    exact_mod_cast h.ge

/-- The fraction that `vrcp` computes is the reciprocal cut to 12 significant bits. -/
theorem rcp_fraction {m : Nat} (hm : m ≠ 0) (e : Int) :
    let N := 2 ^ (Nat.log2 m + 12) / m
    let g : Int := -(Nat.log2 m + 12 : Nat) - e
    let y : ℚ := 1 / rat false m e
    N ≠ 0 ∧ (Nat.log2 N : Int) + g = Int.log 2 y ∧ rat false N g = cutTo (Int.log 2 y - 11) y := by
  intro N g y
  obtain ⟨hlo, hhi⟩ := pow_div_bounds hm
  have hN0 : N ≠ 0 := fun h => absurd (h ▸ hlo : 2 ^ 11 ≤ 0) (by decide)
  have hg : (0 : ℚ) < 2 ^ g := zpow_pos two_pos _
  have hp := places_div (2 ^ (Nat.log2 m + 12)) m (Nat.pos_of_ne_zero hm)
  have hy : y = ((2 ^ (Nat.log2 m + 12) : Nat) : ℚ) / m * 2 ^ g := one_div_rat m e _
  have hlog : Int.log 2 y = (Nat.log2 N : Int) + g := by
    refine log_of_bracket hN0 ?_ ?_ <;> rw [hy]
    · exact mul_le_mul_of_nonneg_right hp.lower hg.le
    · exact mul_lt_mul_of_pos_right hp.upper hg
  have hpos : 0 ≤ y := by rw [hy]; positivity
  refine ⟨hN0, hlog.symm, ?_⟩
  rcases hhi.lt_or_eq with hlt | heq
  · have h11 : Nat.log2 N = 11 := (Nat.log2_eq_iff hN0).2 ⟨hlo, hlt⟩
    rw [hlog, h11, Nat.cast_ofNat, add_sub_cancel_left, cutTo_of_nonneg hpos, hy, mul_div_cancel_right₀ _ hg.ne', rat_false]
    congr 1
    exact_mod_cast (Rat.floor_natCast_div_natCast (2 ^ (Nat.log2 m + 12)) m).symm
  · have h12 : N = 2 ^ 12 := heq
    have hyN : y = ((2 ^ 11 : Nat) : ℚ) * 2 ^ (g + 1) := by
      rw [hy, pow_div_full hm heq, zpow_add_one₀ two_ne_zero]
      push_cast
      ring
    have hlog12 : Nat.log2 N = 12 := by rw [h12]; exact Nat.log2_two_pow
    rw [hlog, hlog12, show ((12 : Nat) : Int) + g - 11 = g + 1 by push_cast; ring, hyN, cutTo_coarse le_rfl, h12, rat_false, zpow_add_one₀ two_ne_zero]
    push_cast
    ring

/-! ### `vrcp` -/

/-- The values whose reciprocal overflows are those up to 2^−128. -/
theorem rcp_overflows_iff {m : Nat} (hm : m ≠ 0) (e : Int) :
    ((Nat.log2 m : Int) + e < -128 ∨ ((Nat.log2 m : Int) + e = -128 ∧ m = 2 ^ Nat.log2 m)) ↔ rat false m e ≤ 2 ^ (-128 : Int) := by
  obtain ⟨hlo, hhi⟩ := rat_binade false hm e
  rw [abs_of_nonneg (rat_false_nonneg m e)] at hlo hhi
  have hpow : (2 : ℚ) ^ ((Nat.log2 m : Int) + e) = rat false (2 ^ Nat.log2 m) e := by
    rw [zpow_add₀ two_ne_zero, rat_false, zpow_natCast]
    push_cast
    rfl
  constructor
  · rintro (h | ⟨h, h'⟩)
    · exact hhi.le.trans (zpow_le_zpow_right₀ one_le_two (by omega))
    · rw [← h'] at hpow
      rw [← hpow, h]
  · intro h
    have hle := (zpow_le_zpow_iff_right₀ (one_lt_two (α := ℚ))).1 (hlo.trans h)
    rcases hle.lt_or_eq with hlt | heq
    · exact .inl hlt
    · refine .inr ⟨heq, le_antisymm ?_ (Nat.log2_self_le hm)⟩
      rw [← heq, hpow, rat_false, rat_false, mul_le_mul_iff_left₀ (zpow_pos two_pos _)] at h
      exact_mod_cast h

section
variable {c m : Nat} {neg : Bool} {e : Int}

theorem rcpCode_finite (h : valueOf fFP32 c = .fin neg m e) : rcpCode c =
    if m = 0 then (signed fFP32 neg 0x7F80_0000, flDZ)
    else if (Nat.log2 m : Int) + e < -128 ∨ ((Nat.log2 m : Int) + e = -128 ∧ m = 2 ^ Nat.log2 m) then (signed fFP32 neg 0x7F80_0000, flOF ||| flIX)
    else (truncFP32 neg (2 ^ (Nat.log2 m + 12) / m) (-(Nat.log2 m + 12 : Nat) - e), 0) := by
  simp only [rcpCode, h]

theorem rcpCode_overflows (h : valueOf fFP32 c = .fin neg m e) (hm : m ≠ 0) (hx : rat false m e ≤ 2 ^ (-128 : Int)) :
    rcpCode c = (signed fFP32 neg 0x7F80_0000, flOF ||| flIX) := by
  rw [rcpCode_finite h, if_neg hm, if_pos ((rcp_overflows_iff hm e).2 hx)]

/-- The reciprocal, cut to 12 significant bits or to the subnormal spacing (R179). -/
theorem rcpCode_value (h : valueOf fFP32 c = .fin neg m e) (hx : 2 ^ (-128 : Int) < rat false m e) :
    let y : ℚ := 1 / rat false m e
    let u : ℚ := max (2 ^ (Int.log 2 y - 11)) (2 ^ (-149 : Int))
    ∃ q g, valueOf fFP32 (rcpCode c).1 = .fin neg q g ∧ rat false q g = ⌊y / u⌋ * u ∧ (rcpCode c).2 = 0 := by
  intro y u
  have hxpos : 0 < rat false m e := (zpow_pos two_pos _).trans hx
  have hm : m ≠ 0 := fun h0 => hxpos.ne' (rat_eq_zero_iff.2 h0)
  have hypos : 0 ≤ y := (one_div_pos.2 hxpos).le
  have hylt : y < 2 ^ (128 : Int) := (one_div_lt_one_div_of_lt (zpow_pos two_pos _) hx).trans_eq (by rw [zpow_neg, one_div, inv_inv])
  obtain ⟨hN, hlog, hfrac⟩ := rcp_fraction hm e
  change _ = Int.log 2 y at hlog
  change _ = cutTo (Int.log 2 y - 11) y at hfrac
  obtain ⟨q, g, hv, hrat⟩ := truncFP32_value neg hN ((hfrac.le.trans (cutTo_le hypos)).trans_lt hylt)
  have hcode := (rcpCode_finite h).trans ((if_neg hm).trans (if_neg fun h => absurd ((rcp_overflows_iff hm e).1 h) hx.not_ge))
  have hu : u = 2 ^ max (Int.log 2 y - 11) (-149) := ((zpow_right_mono₀ (one_le_two (α := ℚ))).map_max).symm
  refine ⟨q, g, by rw [hcode]; exact hv, ?_, by rw [hcode]⟩
  rw [hrat, hlog, hfrac, hu, ← cutTo_of_nonneg hypos]
  rcases le_total (Int.log 2 y - 11) (-149) with hsub | hnorm
  · rw [max_eq_right hsub, max_eq_right (by omega), cutTo_cutTo hsub hypos]
  · rw [max_eq_left hnorm, cutTo_cutTo_fine (by omega) hypos]

end

/-! ### Integer square roots -/

/-- The root is found bit by bit. -/
theorem isqrtFrom_spec (n b r : Nat) (hlo : r * r ≤ n) (hhi : n < (r + 2 ^ b) * (r + 2 ^ b)) :
    isqrtFrom n b r * isqrtFrom n b r ≤ n ∧ n < (isqrtFrom n b r + 1) * (isqrtFrom n b r + 1) := by
  induction b generalizing r with
  | zero => exact ⟨hlo, hhi⟩
  | succ b ih =>
    rw [isqrtFrom]
    split
    · next h => exact ih _ h (by rwa [add_assoc, ← two_mul, ← pow_succ'])
    · next h => exact ih _ hlo (not_le.1 h)

theorem isqrt_spec (n : Nat) : isqrt n * isqrt n ≤ n ∧ n < (isqrt n + 1) * (isqrt n + 1) := by
  refine isqrtFrom_spec n _ 0 (Nat.zero_le _) ?_
  rw [Nat.zero_add, ← pow_add]
  exact Nat.lt_log2_self.trans_le (Nat.pow_le_pow_right two_pos (by omega))

/-- The root of a quotient, rounded down. -/
theorem isqrt_div_spec (a : Nat) {m : Nat} (hm : 0 < m) :
    ((isqrt (a / m) : Nat) : ℚ) ^ 2 ≤ (a : ℚ) / m ∧ (a : ℚ) / m < (((isqrt (a / m) : Nat) : ℚ) + 1) ^ 2 := by
  obtain ⟨hlo, hhi⟩ := isqrt_spec (a / m)
  have hp := places_div a m hm
  rw [sq, sq]
  exact ⟨le_trans (by exact_mod_cast hlo) hp.lower, hp.upper.trans_le (by exact_mod_cast hhi)⟩

/-! ### `vrsq` -/

/-- The root of a value between 2^22 and 2^24 has 12 bits, or is 2^12; scaled by 2^g, it is a multiple of the unit of its 12 bits. -/
theorem root_unit {Y : ℚ} {N : Nat} (g : Int) (hlo : (N : ℚ) ^ 2 ≤ Y) (hhi : Y < ((N : ℚ) + 1) ^ 2) (h22 : 2 ^ 22 ≤ Y) (h24 : Y ≤ 2 ^ 24) :
    let u : ℚ := 2 ^ (Int.log 2 (Y * (2 ^ g) ^ 2) / 2 - 11)
    N ≤ 2 ^ 12 ∧ 2 ^ g ≤ u ∧ ∃ i : Nat, (N : ℚ) * 2 ^ g = i * u := by
  intro u
  have hscale : (0 : ℚ) < (2 ^ g) ^ 2 := by positivity
  have hpos : 0 < Y * (2 ^ g) ^ 2 := mul_pos (lt_of_lt_of_le (by positivity) h22) hscale
  have hpow (i : Nat) : ((2 : Nat) : ℚ) ^ ((i : Int) + 2 * g) = 2 ^ i * (2 ^ g) ^ 2 := by
    rw [Nat.cast_ofNat, zpow_add₀ two_ne_zero, zpow_natCast, mul_comm (2 : Int) g, zpow_mul]
    rfl
  have hN : N ≤ 2 ^ 12 := by
    have hsq : N ^ 2 ≤ (2 ^ 12) ^ 2 := by exact_mod_cast hlo.trans h24
    exact le_of_pow_le_pow_left₀ two_ne_zero (Nat.zero_le _) hsq
  rcases h24.lt_or_eq with hlt | rfl
  · have hlog22 : ((22 : Nat) : Int) + 2 * g ≤ Int.log 2 (Y * (2 ^ g) ^ 2) :=
      (Int.zpow_le_iff_le_log one_lt_two hpos).1 ((hpow 22).trans_le (mul_le_mul_of_nonneg_right h22 hscale.le))
    have hlog24 : Int.log 2 (Y * (2 ^ g) ^ 2) < ((24 : Nat) : Int) + 2 * g :=
      (Int.lt_zpow_iff_log_lt one_lt_two hpos).1 ((mul_lt_mul_of_pos_right hlt hscale).trans_eq (hpow 24).symm)
    have hu : u = 2 ^ g := congrArg (fun i : Int => (2 : ℚ) ^ i) (by omega)
    exact ⟨hN, hu.ge, N, by rw [hu]⟩
  · have hu : u = 2 ^ (g + 1) := congrArg (fun i : Int => (2 : ℚ) ^ i) (by rw [← hpow, Int.log_zpow one_lt_two]; omega)
    have hfull : N = 2 ^ 12 := by
      have hsq : (2 ^ 12) ^ 2 < (N + 1) ^ 2 := by exact_mod_cast hhi
      exact le_antisymm hN (Nat.lt_succ_iff.1 (lt_of_pow_lt_pow_left₀ 2 (Nat.zero_le _) hsq))
    refine ⟨hN, hu ▸ zpow_le_zpow_right₀ one_le_two (by omega), 2 ^ 11, ?_⟩
    rw [hfull, hu, zpow_add_one₀ two_ne_zero]
    push_cast
    ring

/-- The fraction that `vrsq` computes of m · 4^h: the root of 4^k / m, rounded down. -/
theorem rsq_fraction {m k : Nat} (hm : m ≠ 0) (h : Int) (hk : 2 ^ 22 * m ≤ 2 ^ (2 * k)) (hk' : 2 ^ (2 * k) ≤ 2 ^ 24 * m) :
    let N := isqrt (2 ^ (2 * k) / m)
    let g : Int := -(k : Int) - h
    let y : ℚ := 1 / rat false m (2 * h)
    let u : ℚ := 2 ^ (Int.log 2 y / 2 - 11)
    N ≠ 0 ∧ N ≤ 2 ^ 12 ∧ rat false N g ^ 2 ≤ y ∧ y < (rat false N g + u) ^ 2 ∧ ∃ i : Nat, rat false N g = i * u := by
  intro N g y u
  have hm' : (0 : ℚ) < m := Nat.cast_pos.2 (Nat.pos_of_ne_zero hm)
  have hg : (0 : ℚ) < 2 ^ g := zpow_pos two_pos _
  obtain ⟨hlo, hhi⟩ := isqrt_div_spec (2 ^ (2 * k)) (Nat.pos_of_ne_zero hm)
  have hy : y = ((2 ^ (2 * k) : Nat) : ℚ) / m * (2 ^ g) ^ 2 := by
    rw [← zpow_natCast, ← zpow_mul, show g * (2 : Nat) = -((2 * k : Nat) : Int) - 2 * h by simp only [g]; push_cast; ring]
    exact one_div_rat m (2 * h) (2 * k)
  have h22 : 2 ^ 22 ≤ ((2 ^ (2 * k) : Nat) : ℚ) / m := (le_div_iff₀ hm').2 (by exact_mod_cast hk)
  have h24 : ((2 ^ (2 * k) : Nat) : ℚ) / m ≤ 2 ^ 24 := (div_le_iff₀ hm').2 (by exact_mod_cast hk')
  obtain ⟨hN12, hgu, i, hi⟩ := root_unit g hlo hhi h22 h24
  rw [← hy] at hgu hi
  change _ < ((N : ℚ) + 1) ^ 2 at hhi
  have hN0 : N ≠ 0 := fun h0 => by
    rw [h0, Nat.cast_zero, zero_add, one_pow] at hhi
    exact absurd (h22.trans hhi.le) (by norm_num)
  refine ⟨hN0, hN12, ?_, ?_, i, hi⟩
  · rw [rat_false, mul_pow, hy]
    exact mul_le_mul_of_nonneg_right hlo (by positivity)
  · calc y = ((2 ^ (2 * k) : Nat) : ℚ) / m * (2 ^ g) ^ 2 := hy
      _ < ((N : ℚ) + 1) ^ 2 * (2 ^ g) ^ 2 := mul_lt_mul_of_pos_right hhi (by positivity)
      _ = (rat false N g + 2 ^ g) ^ 2 := by rw [rat_false]; ring
      _ ≤ (rat false N g + u) ^ 2 := pow_le_pow_left₀ (add_nonneg (rat_false_nonneg N g) hg.le) (add_le_add_right hgu _) 2

/-! ### The exponent of a root -/

/-- The mantissa that `vrsq` works on, with an even exponent. -/
def evenMantissa (m : Nat) (e : Int) : Nat := if e % 2 = 0 then m else 2 * m

/-- Half of the even exponent that goes with it. -/
def halfExponent (e : Int) : Int := if e % 2 = 0 then e / 2 else (e - 1) / 2

/-- The fraction bits that `vrsq` takes of a root. -/
def rootBits (m : Nat) : Nat := if Nat.log2 m % 2 = 0 then (Nat.log2 m + 24) / 2 else (Nat.log2 m + 23) / 2

theorem rat_evenMantissa (m : Nat) (e : Int) : rat false (evenMantissa m e) (2 * halfExponent e) = rat false m e := by
  unfold evenMantissa halfExponent
  split
  · next h => rw [show 2 * (e / 2) = e by omega]
  · next h =>
    rw [show 2 * ((e - 1) / 2) = e - 1 by omega, rat_false, rat_false, zpow_sub_one₀ two_ne_zero]
    push_cast
    ring

theorem rootBits_bounds {m : Nat} (hm : m ≠ 0) : 2 ^ 22 * m ≤ 2 ^ (2 * rootBits m) ∧ 2 ^ (2 * rootBits m) ≤ 2 ^ 24 * m := by
  have hlo := Nat.log2_self_le hm
  have hhi : m < 2 ^ (Nat.log2 m + 1) := Nat.lt_log2_self
  have hk : Nat.log2 m + 23 ≤ 2 * rootBits m ∧ 2 * rootBits m ≤ Nat.log2 m + 24 := by
    unfold rootBits
    split <;> omega
  constructor
  · calc 2 ^ 22 * m ≤ 2 ^ 22 * 2 ^ (Nat.log2 m + 1) := by omega
      _ = 2 ^ (Nat.log2 m + 23) := by rw [← pow_add]; congr 1; omega
      _ ≤ 2 ^ (2 * rootBits m) := Nat.pow_le_pow_right two_pos hk.1
  · calc 2 ^ (2 * rootBits m) ≤ 2 ^ (Nat.log2 m + 24) := Nat.pow_le_pow_right two_pos hk.2
      _ = 2 ^ 24 * 2 ^ Nat.log2 m := by rw [← pow_add, add_comm]
      _ ≤ 2 ^ 24 * m := Nat.mul_le_mul_left _ hlo

section
variable {c m : Nat} {neg : Bool} {e : Int}

theorem rsqCode_finite (h : valueOf fFP32 c = .fin neg m e) : rsqCode c =
    if m = 0 then (signed fFP32 neg 0x7F80_0000, flDZ)
    else if neg then (nanCode fFP32, flNV)
    else (truncFP32 false (isqrt (2 ^ (2 * rootBits (evenMantissa m e)) / evenMantissa m e)) (-(rootBits (evenMantissa m e) : Int) - halfExponent e), 0) := by
  simp only [rsqCode, h]
  rfl

/-- The reciprocal root, cut to 12 significant bits (R179). -/
theorem rsqCode_value (hc : c < 2 ^ 32) (h : valueOf fFP32 c = .fin false m e) (hm : m ≠ 0) :
    let y : ℚ := 1 / rat false m e
    let u : ℚ := 2 ^ (Int.log 2 y / 2 - 11)
    ∃ q g, valueOf fFP32 (rsqCode c).1 = .fin false q g ∧ (rat false q g) ^ 2 ≤ y ∧ y < (rat false q g + u) ^ 2 ∧
      (∃ i : Nat, rat false q g = i * u) ∧ (rsqCode c).2 = 0 := by
  obtain ⟨hbits, hemin, hemax⟩ := finite_fFP32 hc h
  have hm' : evenMantissa m e ≠ 0 := by unfold evenMantissa; split <;> omega
  have hlog : Nat.log2 (evenMantissa m e) < 25 := (Nat.log2_lt hm').2 (by unfold evenMantissa; split <;> omega)
  obtain ⟨hk, hk'⟩ := rootBits_bounds hm'
  obtain ⟨hN, hN12, hlow, hhigh, i, hi⟩ := rsq_fraction hm' (halfExponent e) hk hk'
  rw [rat_evenMantissa] at hlow hhigh hi
  have hcode := (rsqCode_finite h).trans ((if_neg hm).trans (if_neg Bool.false_ne_true))
  have hexp : -149 ≤ -(rootBits (evenMantissa m e) : Int) - halfExponent e ∧ -(rootBits (evenMantissa m e) : Int) - halfExponent e ≤ 100 := by
    unfold rootBits halfExponent
    constructor <;> split <;> split <;> omega
  generalize isqrt (2 ^ (2 * rootBits (evenMantissa m e)) / evenMantissa m e) = N at *
  generalize -(rootBits (evenMantissa m e) : Int) - halfExponent e = g at *
  have hsmall : rat false N g < 2 ^ (128 : Int) := by
    have hNq : (N : ℚ) ≤ 2 ^ 12 := by exact_mod_cast hN12
    have hpow : (2 : ℚ) ^ g ≤ 2 ^ (100 : Int) := zpow_le_zpow_right₀ one_le_two hexp.2
    rw [rat_false]
    calc (N : ℚ) * 2 ^ g ≤ 2 ^ 12 * 2 ^ (100 : Int) := mul_le_mul hNq hpow (zpow_pos two_pos _).le (by positivity)
      _ < 2 ^ (128 : Int) := by norm_num
  obtain ⟨q, g', hv, hrat⟩ := truncFP32_exact false hN (hN12.trans_lt (by decide)) hexp.1 hsmall
  rw [hcode]
  exact ⟨q, g', hv, by rw [hrat]; exact hlow, by rw [hrat]; exact hhigh, ⟨i, by rw [hrat]; exact hi⟩, rfl⟩

end

end Sys2Proof.Machine
end

section
/-! Newton steps, powers and logarithms of two (R180, R181), conversions (R177), and the obligation on all of these. -/

namespace Sys2Proof.Machine

/-! ### Special inputs of the reciprocals (R179) -/

section
variable {c : Nat}

theorem rcpCode_nan {g : Bool} (h : valueOf fFP32 c = .nan g) : rcpCode c = (0x7FC0_0000, if g then flNV else 0) := by
  simp only [rcpCode, h]
  rfl

theorem rsqCode_nan {g : Bool} (h : valueOf fFP32 c = .nan g) : rsqCode c = (0x7FC0_0000, if g then flNV else 0) := by
  simp only [rsqCode, h]
  rfl

theorem rcpCode_inf {neg : Bool} (h : valueOf fFP32 c = .inf neg) : rcpCode c = (if neg then 0x8000_0000 else 0, 0) := by
  simp only [rcpCode, h]
  cases neg <;> rfl

theorem rsqCode_inf {neg : Bool} (h : valueOf fFP32 c = .inf neg) : rsqCode c = (if neg then (0x7FC0_0000, flNV) else (0, 0)) := by
  simp only [rsqCode, h]
  rfl

end

/-- Codes of the infinities. -/
theorem signed32_inf (neg : Bool) : signed fFP32 neg 0x7F80_0000 = if neg then 0xFF80_0000 else 0x7F80_0000 := by
  cases neg <;> rfl

/-! ### Newton steps (R180) -/

/-- A value divided by two. -/
def Num.half : Num → Num
  | .fin n m e => .fin n m (e - 1)
  | x => x

theorem rat_half (n : Bool) (m : Nat) (e : Int) : rat n m (e - 1) = rat n m e / 2 := by
  rw [rat, rat, zpow_sub_one₀ two_ne_zero, mul_div_assoc, div_eq_mul_inv ((2 : ℚ) ^ e)]

section
variable {r : Rounding} {rnd x y : Nat} {root : Bool}

theorem stepCode_zero {k : Bool} {g : Int} (h : valueOf fFP32 y = .fin k 0 g) : stepCode root r rnd x y = (y, 0) := by
  simp only [stepCode, h]
  rfl

theorem stepCode_inf {k : Bool} (h : valueOf fFP32 y = .inf k) : stepCode root r rnd x y = (y, 0) := by
  simp only [stepCode, h]
  rfl

/-- A NaN beside an approximation that is neither zero nor infinite. -/
theorem stepCode_nan (hz : ∀ k g, valueOf fFP32 y ≠ .fin k 0 g) (hi : ∀ k, valueOf fFP32 y ≠ .inf k)
    (h : (valueOf fFP32 x).isNan = true ∨ (valueOf fFP32 y).isNan = true) :
    stepCode root r rnd x y = (0x7FC0_0000, if (valueOf fFP32 x).isSig || (valueOf fFP32 y).isSig then flNV else 0) := by
  have hor : ((valueOf fFP32 x).isNan || (valueOf fFP32 y).isNan) = true := by simpa using h
  simp only [stepCode]
  cases hy : valueOf fFP32 y with
  | inf k => exact absurd hy (hi k)
  | nan g =>
    rw [hy] at hor
    simp only [Num.isZero, Bool.false_eq_true, if_false, hor, if_true]
    rfl
  | fin k l g =>
    have hl : l ≠ 0 := fun h0 => hz k g (h0 ▸ hy)
    rw [hy] at hor
    simp only [Num.isZero, beq_eq_false_iff_ne.2 hl, Bool.false_eq_true, if_false, hor, if_true]
    rfl

/-- The last steps of R180 on x·y or x·y·y: taken from 2 or 3, times y, halved for a root, and rounded. -/
def newton (r : Rounding) (rnd : Nat) (root : Bool) (Y q : Num) (f : Flags) : Nat × Flags :=
  let d := addExact r.mode (.fin false (if root then 3 else 2) 0) q.negate
  let z := mulExact Y d.1
  let c := roundTo fFP32 r rnd (if root then z.1.half else z.1)
  (c.1, f ||| d.2 ||| z.2 ||| c.2)

/-- A step on numbers. -/
theorem stepCode_numbers {k : Bool} {l : Nat} {g : Int} (hx : (valueOf fFP32 x).isNan = false) (hy : valueOf fFP32 y = .fin k l g) (hl : l ≠ 0) :
    stepCode root r rnd x y = let p := mulExact (valueOf fFP32 x) (.fin k l g)
      let q := if root then mulExact p.1 (.fin k l g) else (p.1, 0)
      newton r rnd root (.fin k l g) q.1 (p.2 ||| q.2) := by
  have hn : (Num.fin k l g).isNan = false := rfl
  simp only [stepCode, hy, hx, hn, Num.isZero, beq_eq_false_iff_ne.2 hl, Bool.or_self, Bool.false_eq_true, if_false]
  rfl

section
variable {k n : Bool} {l m : Nat} {g e : Int} (hl : l ≠ 0)

theorem no_flags_or (f : Flags) : 0 ||| f = f := BitVec.zero_or

include hl in
theorem newton_inf : newton r rnd root (.fin k l g) (.inf n) 0 = (if (!n) != k then 0xFF80_0000 else 0x7F80_0000, 0) := by
  have hsub (c : Nat) : addExact r.mode (.fin false c 0) (.inf !n) = (.inf !n, 0) := rfl
  have hmul : mulExact (.fin k l g) (.inf !n) = (.inf ((!n) != k), 0) := if_neg hl
  have hhalf (z : Bool) : (if root then (Num.inf z).half else .inf z) = .inf z := by cases root <;> rfl
  have hround (z : Bool) : roundTo fFP32 r rnd (.inf z) = (if z then 0xFF80_0000 else 0x7F80_0000, 0) := by cases z <;> rfl
  simp only [newton, Num.negate, hsub, hmul, hhalf, hround, no_flags_or]

theorem newton_fin : ∃ q M E, newton r rnd root (.fin k l g) (.fin n m e) 0 = roundTo fFP32 r rnd (.fin q M E) ∧
    rat q M E = if root then rat k l g * (3 - rat n m e) / 2 else rat k l g * (2 - rat n m e) := by
  obtain ⟨q, M, E, hsub, hrat, -⟩ := addExact_fin r.mode false (!n) (if root then 3 else 2) m 0 e
  have hmul : mulExact (.fin k l g) (.fin q M E) = (.fin (k != q) (l * M) (g + E), 0) := rfl
  rw [rat_not, ← sub_eq_add_neg] at hrat
  simp only [newton, Num.negate, hsub, hmul, no_flags_or]
  cases root with
  | false => exact ⟨_, _, _, rfl, by simp [rat_mul, hrat, rat_false]⟩
  | true => exact ⟨_, _, _, rfl, by simp [rat_half, rat_mul, hrat, rat_false]⟩

end

/-- With x infinite, so is the step. -/
theorem stepCode_infinite {k : Bool} {l : Nat} {g : Int} {neg : Bool} (hx : valueOf fFP32 x = .inf neg) (hy : valueOf fFP32 y = .fin k l g) (hl : l ≠ 0) :
    stepCode root r rnd x y = (if neg != (root && k) then 0x7F80_0000 else 0xFF80_0000, 0) := by
  have hmul (n : Bool) : mulExact (.inf n) (.fin k l g) = (.inf (n != k), 0) := if_neg hl
  rw [stepCode_numbers (by rw [hx]; rfl) hy hl, hx]
  cases root with
  | false =>
    simp only [hmul, Bool.false_eq_true, if_false, no_flags_or, newton_inf hl]
    cases neg <;> cases k <;> rfl
  | true =>
    simp only [hmul, if_true, no_flags_or, newton_inf hl]
    cases neg <;> cases k <;> rfl

/-- With x finite, the step is the exact value of its formula, rounded once. -/
theorem stepCode_finite {k neg : Bool} {l m : Nat} {g e : Int} (hx : valueOf fFP32 x = .fin neg m e) (hy : valueOf fFP32 y = .fin k l g) (hl : l ≠ 0) :
    ∃ q M E, stepCode root r rnd x y = roundTo fFP32 r rnd (.fin q M E) ∧
      rat q M E = if root then rat k l g * (3 - rat neg m e * rat k l g * rat k l g) / 2 else rat k l g * (2 - rat neg m e * rat k l g) := by
  have hmul (n : Bool) (i : Nat) (j : Int) : mulExact (.fin n i j) (.fin k l g) = (.fin (n != k) (i * l) (j + g), 0) := rfl
  rw [stepCode_numbers (by rw [hx]; rfl) hy hl, hx]
  cases root with
  | false =>
    simp only [hmul, Bool.false_eq_true, if_false, no_flags_or, ← rat_mul]
    exact newton_fin
  | true =>
    simp only [hmul, if_true, no_flags_or, ← rat_mul]
    exact newton_fin

end

/-! ### Powers and logarithms of two (R181) -/

/-- An integer as a numerator over a lower power of two. -/
theorem numerator_of_int {neg : Bool} {m : Nat} {e i : Int} {P : Nat} (he : -(P : Int) ≤ e) (h : rat neg m e = i) :
    numerator neg m e (-(P : Int)) = i * (2 ^ P : Nat) := by
  have hnum := (numerator_rat he).trans h
  rw [zpow_neg, zpow_natCast, ← div_eq_mul_inv, div_eq_iff (by positivity)] at hnum
  exact_mod_cast hnum

/-- An integer power of two is exact. -/
theorem exp2Of_int {neg : Bool} {m : Nat} {e i : Int} (hi : -1024 ≤ i) (h : rat neg m e = i) : exp2Of (.fin neg m e) = .fin false 1 i := by
  have hsmall : ¬ (neg && m != 0 && decide (10 < (Nat.log2 m : Int) + e)) = true := by
    simp only [Bool.and_eq_true, bne_iff_ne, decide_eq_true_eq, not_and, not_lt]
    rintro ⟨rfl, hm⟩
    have hneg : rat true m e = -rat false m e := rat_not false m e
    have hle : rat false m e ≤ 1024 := by
      have : (-1024 : ℚ) ≤ i := by exact_mod_cast hi
      linarith
    obtain ⟨hlo, -⟩ := rat_binade false hm e
    rw [abs_of_nonneg (rat_false_nonneg m e)] at hlo
    have hpow : (2 : ℚ) ^ ((Nat.log2 m : Int) + e) ≤ 2 ^ (10 : Int) := hlo.trans (hle.trans_eq (by norm_num))
    exact (zpow_le_zpow_iff_right₀ one_lt_two).1 hpow
  have hnum : numerator neg m e (-((128 + max 128 (-e).toNat : Nat) : Int)) = _ := numerator_of_int (by omega) h
  have hpos : (2 ^ (128 + max 128 (-e).toNat) : Nat) ≠ 0 := by positivity
  simp only [exp2Of, if_neg hsmall, hnum]
  rw [Int.mul_emod_left, Int.mul_ediv_cancel _ (by exact_mod_cast hpos)]
  rfl

/-- The fraction bits of the logarithm of 1 are 0. -/
theorem log2Bits_one (prec n : Nat) : log2Bits prec n (2 ^ prec) 0 = 0 := by
  induction n with
  | zero => rfl
  | succ n ih =>
    have hw : 2 ^ prec * 2 ^ prec / 2 ^ prec = 2 ^ prec := Nat.mul_div_cancel _ (by positivity)
    have hlt : ¬ 2 ^ (prec + 1) ≤ 2 ^ prec := by
      rw [not_le]
      exact Nat.pow_lt_pow_right one_lt_two (Nat.lt_succ_self _)
    rw [log2Bits, hw, if_neg hlt]
    exact ih

/-- The logarithm of a power of two is exact. -/
theorem log2Of_pow (i : Nat) (e : Int) : ∃ q M E, log2Of (.fin false (2 ^ i) e) = (.fin q M E, 0) ∧ rat q M E = i + e ∧ (M = 0 → q = false) := by
  have hbits : log2Bits 384 160 (2 ^ i * 2 ^ 384 / 2 ^ i) 0 = 0 := by
    rw [Nat.mul_div_cancel_left _ (by positivity)]
    exact log2Bits_one 384 160
  have hne : 2 ^ i ≠ 0 := by positivity
  have hlog : log2Of (.fin false (2 ^ i) e) = (log2Fin (2 ^ i) e, 0) := by simp only [log2Of, if_neg hne, Bool.false_eq_true, if_false]
  have hfin : log2Fin (2 ^ i) e = if ((i : Int) + e) * 2 ^ 160 = 0 then .fin false 0 0
      else .fin (decide (((i : Int) + e) * 2 ^ 160 < 0)) (((i : Int) + e) * 2 ^ 160).natAbs (-160) := by
    simp only [log2Fin, Nat.log2_two_pow, hbits, Nat.cast_zero, add_zero]
  rw [hlog, hfin]
  split
  · next h =>
    have hsum : (i : Int) + e = 0 := by omega
    exact ⟨false, 0, 0, rfl, by rw [rat_zero]; exact_mod_cast hsum.symm, fun _ => rfl⟩
  · next h =>
    refine ⟨_, _, _, rfl, ?_, fun h0 => absurd (Int.natAbs_eq_zero.1 h0) h⟩
    have hcast : ((((i : Int) + e) * 2 ^ 160 : Int) : ℚ) = (i + e) * 2 ^ (160 : Int) := by
      push_cast
      norm_num
    rw [rat_natAbs, hcast, mul_assoc, ← zpow_add₀ two_ne_zero, add_neg_cancel, zpow_zero, mul_one]

/-! ### Conversions (R177) -/

section
variable {s : State} {d a b : VIdx} {A B : VReg}

/-- Elements of one format converted to another and placed densely. -/
theorem convertDense_has (hd : s.FreeV d) (dst src : FmtDesc) (l : List Nat) :
    convertDense d dst src l s = let r := (l.map (valueOf src)).mapIdx fun k x => s.round dst k (x, 0)
      s.wrotePacket true d (pack dst (r.map Prod.fst)) (orFlags (r.map Prod.snd)) := by
  have hround : (l.mapIdx fun k c => roundTo dst s.cell.rounding (s.cell.rnd dst k) (valueOf src c)) =
      (l.map (valueOf src)).mapIdx fun k x => s.round dst k (x, 0) := by
    rw [mapIdx_of_map]
    exact congrArg (List.mapIdx · l) (funext₂ fun k c => by simp [State.round])
  refine (packetDone_free hd ..).trans ?_
  rw [hround]

theorem packet1_rounds (ha : s.HasV a A) (hd : s.FreeV d) (f : FmtDesc) (op : Num → Num × Flags) :
    packet1 true d a f (fun k x => vfRound s.cell f k (op (valueOf f x))) s =
      s.wroteElems true d f A.length ((A.nums f A.length).mapIdx fun k x => s.round f k (op x)) := by
  rw [packet1_has ha hd, VReg.nums, mapIdx_of_map]
  rfl

theorem exec_vunpack (ha : s.HasV a A) (hd : s.FreeV d) (dst src : FmtDesc) :
    ∃ r : List (Nat × Flags), r = (((A.elems src A.length).take 8).map (valueOf src)).mapIdx
        (fun k x => roundTo dst s.cell.rounding (drawBits s.cell.k.dkey s.cell.draw k 0) x) ∧
      exec (.vunpack d a dst src) s = .next (s.wrotePacket true d
        (r.map fun e => if dst.isInt && intSigned dst then BitVec.ofInt 32 (intOf dst e.1) else BitVec.ofNat 32 e.1) (orFlags (r.map Prod.snd))) := by
  refine ⟨_, rfl, next_congr ((readV_has ha _).trans ((packetDone_free hd ..).trans ?_))⟩
  rw [mapIdx_of_map]
  simp only [List.map_map]
  rfl

end

/-- Settles O33: the instructions as operations on elements, and the functions by their special inputs and by what they compute of a finite one. -/
theorem conversionsAndFunctions : Obligations.ConversionsAndFunctions := by
  intro d a b A B dst src s ha hb hd _ _
  refine ⟨?_, ?_, exec_vunpack ha hd dst src, ?_, ?_, ?_, ?_, ?_, ?_, fun c hc => ⟨fun g h => ⟨rcpCode_nan h, rsqCode_nan h⟩,
    fun neg h => ⟨rcpCode_inf h, rsqCode_inf h⟩, fun neg m e h => ⟨fun hm => ?_, fun hm hx => ?_, rcpCode_value h, fun hm hn => ?_, fun hm hn => ?_⟩⟩,
    fun root r rnd x y _ _ => ⟨fun k g h => stepCode_zero h, fun k h => stepCode_inf h, fun hz hi h => stepCode_nan hz hi h,
      fun k l g hy hl => ⟨fun neg hx => stepCode_infinite hx hy hl, fun neg m e hx => stepCode_finite hx hy hl⟩⟩,
    fun g => ⟨rfl, rfl⟩, rfl, rfl, rfl, rfl, fun neg m e => ⟨fun i hi h => exp2Of_int hi h, fun hm => ?_, fun hm hn => ?_, fun i hm => ?_⟩⟩
  · exact next_congr ((readV_has ha _).trans (convertDense_has hd ..))
  · exact next_congr ((readV_has ha _).trans (convertDense_has hd ..))
  · exact next_congr (packet1_codes ha hd fFP32 rcpCode)
  · exact next_congr (packet1_codes ha hd fFP32 rsqCode)
  · exact next_congr (packet1_rounds ha hd fFP32 fun x => (exp2Of x, 0))
  · exact next_congr (packet1_rounds ha hd fFP32 log2Of)
  · exact next_congr (packet2_has ha hb hd ..)
  · exact next_congr (packet2_has ha hb hd ..)
  · rw [rcpCode_finite h, rsqCode_finite h, if_pos hm, if_pos hm, signed32_inf]
    exact ⟨rfl, rfl⟩
  · rw [rcpCode_overflows h hm hx, signed32_inf]
  · rw [rsqCode_finite h, if_neg hm, if_pos hn]
    rfl
  · subst hn
    exact rsqCode_value hc h hm
  · rw [log2Of, if_pos hm]
  · rw [log2Of, if_neg hm, if_pos hn]
  · subst hm
    exact log2Of_pow i e

end Sys2Proof.Machine
end

section
/-! Reductions and lane movement (R183, R184): exact sums with the sign of a zero, the greatest element, and what the movers write. -/

namespace Sys2Proof.Machine

/-! ### The exact sum of finite values (R183) -/

/-- Whether a finite value has the minus sign. -/
def Num.minus : Num → Bool
  | .fin n _ _ => n
  | _ => false

section
variable {mode : BitVec 3} {l : List Num}

theorem sumExact_finite (h : ∀ x ∈ l, x.Finite) : sumExact mode l =
    if (sumFinite l).1 = 0 then (.fin (l.all Num.minus || mode == 3) 0 0, 0)
    else (.fin (decide ((sumFinite l).1 < 0)) (sumFinite l).1.natAbs (sumFinite l).2, 0) := by
  obtain ⟨hnan, hinf⟩ := finite_not_special h
  simp only [sumExact, hnan, hinf, Bool.and_self, Bool.false_eq_true, if_false]
  rfl

theorem sumFinite_eq_zero_iff (h : ∀ x ∈ l, x.Finite) : (sumFinite l).1 = 0 ↔ (l.map Num.rat).sum = 0 := by
  have hpos : (2 : ℚ) ^ (sumFinite l).2 ≠ 0 := (zpow_pos two_pos _).ne'
  rw [← sumFinite_rat h, mul_eq_zero, or_iff_left hpos, Int.cast_eq_zero]

/-- Values that all have the minus sign and add up to zero are all −0. -/
theorem all_minus_zero (h : ∀ x ∈ l, x.Finite) (hneg : l.all Num.minus = true) (hsum : (l.map Num.rat).sum = 0) : ∀ x ∈ l, ∃ e, x = .fin true 0 e := by
  have hfin : ∀ x ∈ l, ∃ m e, x = .fin true m e := fun x hx => by
    obtain ⟨n, m, e, rfl⟩ := h x hx
    have hn : n = true := List.all_eq_true.1 hneg _ hx
    exact ⟨m, e, by rw [hn]⟩
  have hle : ∀ q ∈ (l.map Num.rat).map (fun q => -q), 0 ≤ q := by
    rw [List.map_map]
    refine List.forall_mem_map.2 fun x hx => ?_
    obtain ⟨m, e, rfl⟩ := hfin x hx
    exact (rat_false_nonneg m e).trans_eq (rat_not true m e)
  have hzero : ((l.map Num.rat).map fun q => -q).sum = 0 := by rw [← List.sum_neg, hsum, neg_zero]
  intro x hx
  obtain ⟨m, e, rfl⟩ := hfin x hx
  have hx0 := List.all_zero_of_le_zero_le_of_sum_eq_zero hle hzero (List.mem_map_of_mem (List.mem_map_of_mem hx))
  obtain rfl : m = 0 := rat_eq_zero_iff.1 (neg_eq_zero.1 hx0)
  exact ⟨e, rfl⟩

/-- The sum of values that are all −0 is −0 under every mode. -/
theorem sumExact_minus_zeros (h : ∀ x ∈ l, ∃ e, x = .fin true 0 e) : sumExact mode l = (.fin true 0 0, 0) := by
  have hfin : ∀ x ∈ l, x.Finite := fun x hx => (h x hx).elim fun e he => ⟨true, 0, e, he⟩
  have hzero : (l.map Num.rat).sum = 0 := List.sum_eq_zero fun q hq => by
    obtain ⟨x, hx, rfl⟩ := List.mem_map.1 hq
    obtain ⟨e, rfl⟩ := h x hx
    exact rat_zero true e
  have hneg : l.all Num.minus = true := List.all_eq_true.2 fun x hx => by
    obtain ⟨e, rfl⟩ := h x hx
    rfl
  rw [sumExact_finite hfin, if_pos ((sumFinite_eq_zero_iff hfin).2 hzero), hneg, Bool.true_or]

/-- Any other zero sum has the sign of the mode. -/
theorem sumExact_zero (h : ∀ x ∈ l, x.Finite) (hne : ∃ x ∈ l, ¬∃ e, x = .fin true 0 e) (hsum : (l.map Num.rat).sum = 0) :
    sumExact mode l = (.fin (mode == 3) 0 0, 0) := by
  have hneg : l.all Num.minus = false := Bool.eq_false_iff.2 fun hall => by
    obtain ⟨x, hx, hx0⟩ := hne
    exact hx0 (all_minus_zero h hall hsum x hx)
  rw [sumExact_finite h, if_pos ((sumFinite_eq_zero_iff h).2 hsum), hneg, Bool.false_or]

/-- A sum of finite values is exact. -/
theorem sumExact_rat (h : ∀ x ∈ l, x.Finite) : ∃ n m e, sumExact mode l = (.fin n m e, 0) ∧ rat n m e = (l.map Num.rat).sum := by
  rw [sumExact_finite h]
  split
  · next h0 => exact ⟨_, _, _, rfl, by rw [rat_zero, (sumFinite_eq_zero_iff h).1 h0]⟩
  · exact ⟨_, _, _, rfl, by rw [rat_natAbs, sumFinite_rat h]⟩

end

/-! ### The greatest element (R183) -/

section
variable {f : FmtDesc}

/-- Whether a code is that of a number: in an integer format each is. -/
def IsNumber (f : FmtDesc) (c : Nat) : Prop := f.isInt = false → (valueOf f c).isNan = false

/-- One step of the search for the greatest element. -/
def bestStep (f : FmtDesc) (best : Option (Nat × Nat)) (e : Nat × Nat) : Option (Nat × Nat) :=
  if !f.isInt && (valueOf f e.1).isNan then best
  else match best with
    | none => some e
    | some b => if ranksBelow f b.1 e.1 then some e else some b

theorem greatest_eq (l : List Nat) : greatest f l = (l.mapIdx fun k c => (c, k)).foldl (bestStep f) none := rfl

theorem isNumber_iff {c : Nat} : IsNumber f c ↔ (!f.isInt && (valueOf f c).isNan) = false := by
  unfold IsNumber
  cases f.isInt <;> simp

theorem bestStep_nan {best : Option (Nat × Nat)} {e : Nat × Nat} (h : ¬ IsNumber f e.1) : bestStep f best e = best :=
  if_pos (Bool.not_eq_false _ ▸ mt isNumber_iff.2 h)

theorem bestStep_first {e : Nat × Nat} (h : IsNumber f e.1) : bestStep f none e = some e := by
  rw [bestStep, isNumber_iff.1 h]
  rfl

theorem bestStep_some {b e : Nat × Nat} (h : IsNumber f e.1) : bestStep f (some b) e = if ranksBelow f b.1 e.1 then some e else some b := by
  rw [bestStep, isNumber_iff.1 h]
  rfl

/-- Among elements that rank below m, so does the greatest. -/
theorem foldl_best_below {m : Nat} {l : List (Nat × Nat)} (h : ∀ e ∈ l, IsNumber f e.1 → ranksBelow f e.1 m = true) {best : Option (Nat × Nat)}
    (hb : ∀ b ∈ best, ranksBelow f b.1 m = true) : ∀ b ∈ l.foldl (bestStep f) best, ranksBelow f b.1 m = true := by
  induction l generalizing best with
  | nil => exact hb
  | cons e l ih =>
    refine ih (fun x hx => h x (List.mem_cons_of_mem _ hx)) ?_
    by_cases hn : IsNumber f e.1
    · have he := h e List.mem_cons_self hn
      cases best with
      | none =>
        rw [bestStep_first hn]
        rintro b ⟨⟩
        exact he
      | some c =>
        rw [bestStep_some hn]
        split
        · rintro b ⟨⟩
          exact he
        · exact hb
    · rw [bestStep_nan hn]
      exact hb

/-- An element below which none ranks stays the greatest. -/
theorem foldl_best_stays {b : Nat × Nat} {l : List (Nat × Nat)} (h : ∀ e ∈ l, IsNumber f e.1 → ranksBelow f b.1 e.1 = false) :
    l.foldl (bestStep f) (some b) = some b := by
  induction l with
  | nil => rfl
  | cons e l ih =>
    have hstep : bestStep f (some b) e = some b := by
      by_cases hn : IsNumber f e.1
      · rw [bestStep_some hn, h e List.mem_cons_self hn, if_neg Bool.false_ne_true]
      · exact bestStep_nan hn
    rw [List.foldl_cons, hstep]
    exact ih fun x hx => h x (List.mem_cons_of_mem _ hx)

/-- The first of the greatest elements is found, with its number. -/
theorem greatest_some {l : List Nat} {m i : Nat} (hi : i < l.length) (hm : l.getD i 0 = m) (hn : IsNumber f m)
    (hall : ∀ j < l.length, IsNumber f (l.getD j 0) → ranksBelow f m (l.getD j 0) = false)
    (hfirst : ∀ j < i, IsNumber f (l.getD j 0) → ranksBelow f (l.getD j 0) m = true) : greatest f l = some (m, i) := by
  generalize hL : l.mapIdx (fun k c => (c, k)) = L
  have hlen : L.length = l.length := by rw [← hL, List.length_mapIdx]
  have hget (j : Nat) (hj : j < L.length) : L[j] = (l.getD j 0, j) := by
    simp only [← hL, List.getElem_mapIdx, List.getD_eq_getElem _ _ (hlen ▸ hj)]
  have hsplit : L = L.take i ++ (m, i) :: L.drop (i + 1) := by
    rw [← hm, ← hget i (hlen ▸ hi), ← List.drop_eq_getElem_cons, List.take_append_drop]
  have hbefore : ∀ e ∈ L.take i, IsNumber f e.1 → ranksBelow f e.1 m = true := fun e he => by
    obtain ⟨j, hj, rfl⟩ := List.mem_take_iff_getElem.1 he
    rw [hget j (by omega)]
    exact hfirst j (by omega)
  have hafter : ∀ e ∈ L.drop (i + 1), IsNumber f e.1 → ranksBelow f m e.1 = false := fun e he => by
    obtain ⟨j, hj, rfl⟩ := List.mem_iff_getElem.1 (List.mem_of_mem_drop he)
    rw [hget j hj]
    exact hall j (hlen ▸ hj)
  have hbest := foldl_best_below hbefore (best := none) (by simp)
  rw [greatest_eq, hL, hsplit, List.foldl_append, List.foldl_cons]
  have hstep : bestStep f ((L.take i).foldl (bestStep f) none) (m, i) = some (m, i) := by
    cases hb : (L.take i).foldl (bestStep f) none with
    | none => exact bestStep_first hn
    | some b => exact (bestStep_some (e := (m, i)) hn).trans (if_pos (hbest b hb))
  rw [hstep]
  exact foldl_best_stays hafter

/-- Among NaNs there is none. -/
theorem greatest_none {l : List Nat} (hf : f.isInt = false) (h : ∀ c ∈ l, (valueOf f c).isNan = true) : greatest f l = none := by
  rw [greatest_eq]
  generalize hL : l.mapIdx (fun k c => (c, k)) = L
  have hnan : ∀ e ∈ L, ¬ IsNumber f e.1 := by
    rw [← hL]
    intro e he hn
    obtain ⟨j, hj, rfl⟩ := List.mem_mapIdx.1 he
    exact Bool.false_ne_true ((hn hf).symm.trans (h _ (List.getElem_mem hj)))
  clear hL
  induction L with
  | nil => rfl
  | cons e L ih =>
    rw [List.foldl_cons, bestStep_nan (hnan e List.mem_cons_self)]
    exact ih fun x hx => hnan x (List.mem_cons_of_mem _ hx)

end

/-! ### The instructions -/

section
variable {s : State} {d a b : VIdx} {A B : VReg}

/-- One source, and any lanes and flags made of it. -/
theorem one_has (ha : s.HasV a A) (hd : s.FreeV d) (rounds : Bool) (lanes : VReg → List W32) (fl : VReg → Flags) :
    readV a s (fun A => packetDone rounds d (lanes A) (fl A) s) = s.wrotePacket rounds d (lanes A) (fl A) :=
  (readV_has ha _).trans (packetDone_free hd ..)

/-- Two sources, and any lanes and flags made of them. -/
theorem two_has (ha : s.HasV a A) (hb : s.HasV b B) (hd : s.FreeV d) (rounds : Bool) (lanes : VReg → VReg → List W32) (fl : VReg → VReg → Flags) :
    readV a s (fun A => readV b s fun B => packetDone rounds d (lanes A B) (fl A B) s) = s.wrotePacket rounds d (lanes A B) (fl A B) :=
  (readV_has ha _).trans ((readV_has hb _).trans (packetDone_free hd ..))

theorem foldl_sum (g : Nat → Int) (l : List Nat) (t : Int) : l.foldl (fun t c => t + g c) t = t + (l.map g).sum := by
  induction l generalizing t with
  | nil => simp
  | cons c l ih => rw [List.foldl_cons, ih, List.map_cons, List.sum_cons, add_assoc]

theorem exec_vsum_int (ha : s.HasV a A) (hd : s.FreeV d) {f : FmtDesc} (hf : f.isInt = true) : exec (.vsum d a f) s = .next (s.wroteV d
    [BitVec.ofNat 32 (keepInt (if intSigned f then fINT32 else fUINT32) s.cell.k.sat (((A.elems f A.length).map (intOf f)).sum))]) := by
  refine next_congr ((readV_has ha _).trans ?_)
  simp only [hf, if_true, packetDone_free hd, wrotePacket_silent, sumInt, narrow_eq, foldl_sum, zero_add]

theorem exec_vsum_float (ha : s.HasV a A) (hd : s.FreeV d) {f : FmtDesc} (hf : f.isInt = false) :
    ∃ r, r = s.round fFP32 0 (sumExact s.cell.k.rm ((A.elems f A.length).map (valueOf f))) ∧
      exec (.vsum d a f) s = .next (s.wrotePacket true d [BitVec.ofNat 32 r.1] r.2) := by
  refine ⟨_, rfl, next_congr ((readV_has ha _).trans ?_)⟩
  simp only [hf, Bool.false_eq_true, if_false, packetDone_free hd, vfRound_eq]

theorem exec_vmaxr (ha : s.HasV a A) (hd : s.FreeV d) (f : FmtDesc) {e : Nat × Nat} (h : (greatest f (A.elems f A.length)).getD (nanCode f, 0) = e) :
    exec (.vmaxr d a f) s = .next (s.wrotePacket false d [BitVec.ofNat 32 e.1, BitVec.ofNat 32 e.2]
      (if !f.isInt && (A.elems f A.length).any (fun c => (valueOf f c).isSig) then flNV else 0)) := by
  refine next_congr ((readV_has ha _).trans ?_)
  simp only [packetDone_free hd, h]

/-- One sum or difference of a butterfly of an integer format. -/
theorem flyOut_int {f : FmtDesc} (hf : f.isInt = true) (c : Cell) (k : Nat) (minus : Bool) (x y : Nat) :
    flyOut c f k minus x y = (keepInt f c.k.sat (if minus then intOf f x - intOf f y else intOf f x + intOf f y), 0) := by
  rw [flyOut, if_pos hf, narrow_eq]

theorem flyOut_float {f : FmtDesc} (hf : f.isInt = false) (s : State) (k : Nat) (minus : Bool) (x y : Nat) :
    flyOut s.cell f k minus x y = s.round f k (addExact s.cell.k.rm (valueOf f x) (if minus then (valueOf f y).negate else valueOf f y)) := by
  rw [flyOut, if_neg (by simp [hf]), vfRound_eq]

/-- Results without flags, numbered. -/
theorem mapIdx_silent (h : Nat → Nat → Nat) (l : List Nat) : (l.mapIdx fun i x => (h i x, (0 : Flags))) = (l.mapIdx h).map fun c => (c, 0) :=
  List.ext_getElem (by simp) fun i _ _ => by simp

theorem exec_vbfly_int (ha : s.HasV a A) (hd : s.FreeV d) {f : FmtDesc} (hf : f.isInt = true) (k : BitVec 3) :
    let E := A.elems f A.length
    exec (.vbfly d a k f) s = .next (s.wroteV d (packLanes f A.length (E.mapIdx fun i x =>
      if i.testBit k.toNat then keepInt f s.cell.k.sat (intOf f (E.getD (i - 2 ^ k.toNat) 0) - intOf f x)
      else if i + 2 ^ k.toNat < E.length then keepInt f s.cell.k.sat (intOf f x + intOf f (E.getD (i + 2 ^ k.toNat) 0)) else x))) := by
  intro E
  refine next_congr ((readV_has ha _).trans ((packetDone_free hd ..).trans ?_))
  rw [← wroteElems_silent, ← mapIdx_silent, hf]
  refine congrArg (s.wroteElems false d f A.length) (congrArg (List.mapIdx · E) (funext₂ fun i x => ?_))
  simp only [flyOut_int hf]
  split <;> [rfl; split <;> rfl]

theorem exec_vbfly_float (ha : s.HasV a A) (hd : s.FreeV d) {f : FmtDesc} (hf : f.isInt = false) (k : BitVec 3) :
    let E := A.elems f A.length
    exec (.vbfly d a k f) s = .next (s.wroteElems true d f A.length (E.mapIdx fun i x =>
      if i.testBit k.toNat then s.round f i (addExact s.cell.k.rm (valueOf f (E.getD (i - 2 ^ k.toNat) 0)) (valueOf f x).negate)
      else if i + 2 ^ k.toNat < E.length then s.round f i (addExact s.cell.k.rm (valueOf f x) (valueOf f (E.getD (i + 2 ^ k.toNat) 0)))
      else (x, 0))) := by
  intro E
  refine next_congr ((readV_has ha _).trans ((packetDone_free hd ..).trans ?_))
  rw [hf]
  refine congrArg (s.wroteElems true d f A.length) (congrArg (List.mapIdx · E) (funext₂ fun i x => ?_))
  simp only [flyOut_float hf, if_true, Bool.false_eq_true, if_false]
  rfl

/-- A write of all 8 lanes leaves none of the old ones. -/
theorem VReg.lanes_write_all (r A : VReg) : (r.write A.lanes.toList).lanes = A.lanes := by
  refine Vector.ext fun i hi => ?_
  simp [VReg.write]

/-- The encoded length of 1 to 8 lanes (R9). -/
theorem lanes_of_setWidth : ∀ n : BitVec 5, 1 ≤ n.toNat → n.toNat ≤ 8 → (if n.setWidth 3 = 0 then 8 else (n.setWidth 3 : BitVec 3).toNat) = n.toNat := by
  decide

/-- `vlen` copies all 8 lanes, and sets the length alone (R184). -/
theorem exec_vlen (ha : s.HasV a A) (hd : s.FreeV d) {n : BitVec 5} (h1 : 1 ≤ n.toNat) (h8 : n.toNat ≤ 8) :
    ∃ t, exec (.vlen d a n) s = .next t ∧ t.cell.pc = s.cell.pc + 4 ∧
      (t.cell.vreg d).lanes = A.lanes ∧ (t.cell.vreg d).length = n.toNat ∧ (t.cell.vreg d).st = .full ∧ t.cell.x = s.cell.x ∧
      ∀ m, m ≠ d → t.cell.vreg m = s.cell.vreg m := by
  generalize hu : (setV d A.lanes.toList s).onCell (fun c => c.putV d { c.vreg d with len := n.setWidth 3 }) = u
  have hreg (m : VIdx) : (advance 4 u).cell.vreg m = u.cell.vreg m := Cell.vreg_congr (by simp) m
  have hsame : u.cell.vreg d = { (s.cell.vreg d).write A.lanes.toList with len := n.setWidth 3 } := by
    rw [← hu, State.onCell_cell, setV_cell, Cell.vreg_putV_same, Cell.vreg_fillV_same]
  refine ⟨advance 4 u, ?_, ?_, ?_, ?_, ?_, ?_, fun m hm => ?_⟩
  · exact next_congr ((readV_has ha _).trans ((freeV_free _ hd).trans (congrArg (advance 4) hu)))
  · simp [advance, ← hu]
  · rw [hreg, hsame, VReg.lanes_write_all]
  · rw [hreg, hsame]
    exact lanes_of_setWidth n h1 h8
  · rw [hreg, hsame]
    rfl
  · simp [← hu]
  · rw [hreg, ← hu, State.onCell_cell, setV_cell, Cell.vreg_putV_other hm, Cell.vreg_fillV_other hm]

end

/-- Settles O34: sums by the signs of their terms, the greatest element by the search for it, and the movers as they write. -/
theorem reductionsAndMovement : Obligations.ReductionsAndMovement := by
  refine ⟨fun mode l h _ => ⟨sumExact_minus_zeros, sumExact_zero h, fun _ => sumExact_rat h⟩, fun d a b A B f s ha hb hd _ => ?_⟩
  refine ⟨exec_vsum_int ha hd, exec_vsum_float ha hd, fun m i hi hm hn hall hfirst => ?_, fun hf hnan => ?_, ?_, fun i => ?_,
    fun k hf => exec_vbfly_int ha hd hf k, fun k hf => exec_vbfly_float ha hd hf k, fun n => exec_vlen ha hd⟩
  · exact exec_vmaxr ha hd f (e := (m, i)) (by rw [greatest_some hi hm hn hall hfirst]; rfl)
  · exact (exec_vmaxr ha hd f (e := (nanCode f, 0)) (by rw [greatest_none hf hnan]; rfl)).trans (by rw [hf]; rfl)
  · exact next_congr ((two_has ha hb hd false _ fun _ _ => 0).trans (wrotePacket_silent ..))
  · refine next_congr ((one_has ha hd false _ fun _ => 0).trans ((wrotePacket_silent ..).trans ?_))
    split
    · rfl
    · next h => rw [List.getD_eq_default _ _ (not_lt.1 h)]

end Sys2Proof.Machine
end

section
/-! Block scales (R186, R187): the running maximum of magnitudes, its FP32 code and its E8M0 code. -/

namespace Sys2Proof.Machine

/-! ### The greatest of values that are not NaN -/

/-- The value found is the start or one of the values, and none of them is greater. -/
theorem foldl_top_spec (sc : List Num) {m : Num} (hm : m.isNan = false) (hs : ∀ v ∈ sc, v.isNan = false) :
    let r := sc.foldl (fun a x => if a.lt x then x else a) m
    (r = m ∨ r ∈ sc) ∧ ∀ v ∈ sc, v.key ≤ r.key := by
  induction sc generalizing m with
  | nil => exact ⟨.inl rfl, fun v hv => absurd hv List.not_mem_nil⟩
  | cons x sc ih =>
    have hx := hs x List.mem_cons_self
    have hs' : ∀ v ∈ sc, v.isNan = false := fun v hv => hs v (List.mem_cons_of_mem _ hv)
    intro r
    have hstart : (if m.lt x then x else m).isNan = false ∧ x.key ≤ (if m.lt x then x else m).key ∧
        ((if m.lt x then x else m) = x ∨ (if m.lt x then x else m) = m) := by
      by_cases hlt : m.lt x = true
      · rw [if_pos hlt]
        exact ⟨hx, le_rfl, .inl rfl⟩
      · rw [if_neg hlt]
        exact ⟨hm, not_lt.1 (mt (Num.lt_iff_key hm hx).2 hlt), .inr rfl⟩
    obtain ⟨hnan, hle, hone⟩ := hstart
    obtain ⟨hmem, hall⟩ := ih hnan hs'
    refine ⟨?_, List.forall_mem_cons.2 ⟨hle.trans (foldl_top_key sc _ hnan hs').2, hall⟩⟩
    rcases hmem with h | h
    · rcases hone with h' | h'
      · exact .inr (h.trans h' ▸ List.mem_cons_self)
      · exact .inl (h.trans h')
    · exact .inr (List.mem_cons_of_mem _ h)

/-! ### The running maximum (R186) -/

/-- The magnitude of a value that is not NaN. -/
def Num.mag : Num → Num
  | .fin _ m e => .fin false m e
  | _ => .inf false

theorem mag_not_nan (x : Num) : x.mag.isNan = false := by
  cases x <;> rfl

/-- The running maximum of `vbscale`. -/
def runningMax (l : List W32) : Num := l.foldl (fun m w => maxMagnitude m (valueOf fFP32 w.toNat)) (.fin false 0 0)

theorem maxMagnitude_nan {a b : Num} (h : a.isNan = true ∨ b.isNan = true) : maxMagnitude a b = .nan false :=
  nan_cases (P := fun a b => maxMagnitude a b = .nan false) (fun _ _ => rfl) (fun a _ => by cases a <;> rfl) h

theorem maxMagnitude_numbers {a b : Num} (ha : a.isNan = false) (hb : b.isNan = false) :
    maxMagnitude a b = if a.mag.lt b.mag then b.mag else a.mag := by
  cases a with
  | nan g => cases ha
  | inf n =>
    cases b with
    | nan g => cases hb
    | inf k => rfl
    | fin k p d => rfl
  | fin n m e =>
    cases b with
    | nan g => cases hb
    | inf k => rfl
    | fin k p d => rfl

section
variable {l : List W32}

/-- One NaN makes the maximum NaN. -/
theorem runningMax_nan (h : ∃ w ∈ l, (valueOf fFP32 w.toNat).isNan = true) : runningMax l = .nan false := by
  have hstays (l : List W32) : l.foldl (fun m w => maxMagnitude m (valueOf fFP32 w.toNat)) (.nan false) = .nan false := by
    induction l with
    | nil => rfl
    | cons w l ih => exact ih
  obtain ⟨w, hw, hn⟩ := h
  obtain ⟨l1, l2, rfl⟩ := List.append_of_mem hw
  rw [runningMax, List.foldl_append, List.foldl_cons, maxMagnitude_nan (.inr hn), hstays]

/-- Without NaN it is the greatest magnitude. -/
theorem runningMax_numbers (h : ∀ w ∈ l, (valueOf fFP32 w.toNat).isNan = false) :
    runningMax l = (l.map fun w => (valueOf fFP32 w.toNat).mag).foldl (fun a x => if a.lt x then x else a) (.fin false 0 0) := by
  have hfold (l : List W32) (h : ∀ w ∈ l, (valueOf fFP32 w.toNat).isNan = false) (a : Num) (ha : a.mag = a) :
      l.foldl (fun m w => maxMagnitude m (valueOf fFP32 w.toNat)) a =
        (l.map fun w => (valueOf fFP32 w.toNat).mag).foldl (fun a x => if a.lt x then x else a) a := by
    induction l generalizing a with
    | nil => rfl
    | cons w l ih =>
      rw [List.foldl_cons, List.map_cons, List.foldl_cons, maxMagnitude_numbers (ha ▸ mag_not_nan a) (h w List.mem_cons_self), ha]
      refine ih (fun w hw => h w (List.mem_cons_of_mem _ hw)) _ ?_
      split
      · cases valueOf fFP32 w.toNat <;> rfl
      · exact ha
  exact hfold l h _ rfl

/-- The greatest of values that are not NaN: 0 or the magnitude of one, and no magnitude is greater. -/
theorem runningMax_spec (h : ∀ w ∈ l, (valueOf fFP32 w.toNat).isNan = false) :
    (runningMax l = .fin false 0 0 ∨ ∃ w ∈ l, runningMax l = (valueOf fFP32 w.toNat).mag) ∧
      ∀ w ∈ l, (valueOf fFP32 w.toNat).mag.key ≤ (runningMax l).key := by
  obtain ⟨hmem, hall⟩ := foldl_top_spec (l.map fun w => (valueOf fFP32 w.toNat).mag) (m := .fin false 0 0) rfl
    (List.forall_mem_map.2 fun w _ => mag_not_nan _)
  rw [← runningMax_numbers h] at hmem hall
  refine ⟨hmem.imp_right fun hr => ?_, List.forall_mem_map.1 hall⟩
  obtain ⟨w, hw, he⟩ := List.mem_map.1 hr
  exact ⟨w, hw, he.symm⟩

theorem runningMax_inf (h : ∀ w ∈ l, (valueOf fFP32 w.toNat).isNan = false) (hi : ∃ w ∈ l, ∃ k, valueOf fFP32 w.toNat = .inf k) :
    runningMax l = .inf false := by
  obtain ⟨hmem, hall⟩ := runningMax_spec h
  obtain ⟨w, hw, k, hk⟩ := hi
  have htop := hall w hw
  rw [hk] at htop
  have hfin (m : Nat) (e : Int) : runningMax l ≠ .fin false m e := fun he => by
    rw [he] at htop
    exact absurd (WithBot.coe_le_coe.1 htop) (not_le.2 (WithTop.coe_lt_top _))
  rcases hmem with h0 | ⟨z, -, hz⟩
  · exact absurd h0 (hfin _ _)
  · cases hv : valueOf fFP32 z.toNat with
    | fin n m e => exact absurd (hz.trans (by rw [hv]; rfl)) (hfin m e)
    | nan g => rw [hz, hv]; rfl
    | inf n => rw [hz, hv]; rfl

/-- Of finite values, its magnitude is that of a greatest one. -/
theorem runningMax_fin {w : W32} (hw : w ∈ l) {k : Bool} {m : Nat} {e : Int} (hv : valueOf fFP32 w.toNat = .fin k m e)
    (hall : ∀ z ∈ l, ∃ k' m' e', valueOf fFP32 z.toNat = .fin k' m' e' ∧ rat false m' e' ≤ rat false m e) :
    ∃ m' e', runningMax l = .fin false m' e' ∧ rat false m' e' = rat false m e ∧
      ((m' = 0 ∧ e' = 0) ∨ ∃ z ∈ l, ∃ k', valueOf fFP32 z.toNat = .fin k' m' e') := by
  obtain ⟨hmem, hle⟩ := runningMax_spec (l := l) fun z hz => by
    obtain ⟨k', m', e', hz', -⟩ := hall z hz
    rw [hz']
    rfl
  have hge := hle w hw
  rw [hv] at hge
  have hrat {m' : Nat} {e' : Int} (h : runningMax l = .fin false m' e') : rat false m e ≤ rat false m' e' := by
    rw [h] at hge
    exact WithTop.coe_le_coe.1 (WithBot.coe_le_coe.1 hge)
  rcases hmem with h0 | ⟨z, hz, hzmag⟩
  · exact ⟨0, 0, h0, le_antisymm ((rat_zero _ _).trans_le (rat_false_nonneg m e)) (hrat h0), .inl ⟨rfl, rfl⟩⟩
  · obtain ⟨k', m', e', hz', hzle⟩ := hall z hz
    rw [hz'] at hzmag
    exact ⟨m', e', hzmag, le_antisymm hzle (hrat hzmag), .inr ⟨z, hz, k', hz'⟩⟩

end

/-! ### The code of a magnitude -/

theorem magValue_unsigned {ff : FloatFmt} {n : Bool} {c m : Nat} {e : Int} (h : magValue ff n c = .fin n m e) : magValue ff false c = .fin false m e := by
  unfold magValue at *
  dsimp only at *
  split at h
  · next h0 =>
    obtain ⟨-, rfl, rfl⟩ := Num.fin.inj h
    exact if_pos h0
  · next h0 =>
    obtain ⟨-, rfl, rfl⟩ := Num.fin.inj h
    exact if_neg h0

/-- The magnitude code of a finite FP32 lane is the lane without its sign bit. -/
theorem magnitude_of_lane {w : W32} {k : Bool} {m : Nat} {e : Int} (h : valueOf fFP32 w.toNat = .fin k m e) :
    ∃ c ≤ 0x7F7F_FFFF, (w &&& 0x7FFF_FFFF).toNat = c ∧ magValue (floatFmt fFP32) false c = .fin false m e ∧
      rat false m e = (floatFmt fFP32).magnitude c := by
  obtain ⟨c, hc, hw, hval, -, -⟩ := code_of_finite (f := fFP32) (by decide) w.isLt h
  have hc' : c ≤ 0x7F7F_FFFF := hc
  obtain ⟨m', e', hval', hrat⟩ := magValue_magnitude (floatFmt fFP32) k c
  obtain ⟨-, rfl, rfl⟩ := Num.fin.inj (hval'.symm.trans hval)
  refine ⟨c, hc', ?_, magValue_unsigned hval, hrat⟩
  have hmask : (w &&& 0x7FFF_FFFF).toNat = w.toNat % 2 ^ 31 := by
    rw [BitVec.toNat_and]
    exact Nat.and_two_pow_sub_one_eq_mod w.toNat 31
  rw [hmask, hw, signed_fFP32]
  cases k <;> simp only [Bool.false_eq_true, if_false, if_true] <;> omega

/-- A value that has the magnitude of a finite lane, and is 0 or that of some lane, has its code. -/
theorem code_of_magnitude {w : W32} {k : Bool} {m m' : Nat} {e e' : Int} (h : valueOf fFP32 w.toNat = .fin k m e) (hrat : rat false m' e' = rat false m e)
    (hm : (m' = 0 ∧ e' = 0) ∨ ∃ z : W32, ∃ k', valueOf fFP32 z.toNat = .fin k' m' e') :
    (roundTo fFP32 rne 0 (.fin false m' e')).1 = (w &&& 0x7FFF_FFFF).toNat := by
  obtain ⟨c, -, hw, -, hc⟩ := magnitude_of_lane h
  have hinj := (magnitude_strictMono (floatFmt fFP32)).injective
  rw [hw]
  rcases hm with ⟨rfl, rfl⟩ | ⟨z, k', hz⟩
  · rw [rat_zero, hc, ← magnitude_zero (floatFmt fFP32)] at hrat
    exact hinj hrat
  · obtain ⟨c', hmax, -, hval, hc'⟩ := magnitude_of_lane hz
    have hcode : valueOf fFP32 c' = .fin false m' e' := (valueOf_signed32 hmax false).trans hval
    rw [roundTo_exact (f := fFP32) (by decide) (by decide) 0 (hmax.trans_lt (by decide)) hcode]
    exact hinj (hc'.symm.trans (hrat.trans hc))

/-- The E8M0 code of a finite maximum (R186). -/
theorem blockScale_fin (f : FmtDesc) (m : Nat) (e : Int) : BitVec.ofNat 32 (blockScale f (.fin false m e)) =
    if m = 0 then 0 else BitVec.ofInt 32 (max 0 (min 254 (Int.log 2 (rat false m e) - emax f + 127))) := by
  by_cases hm : m = 0
  · simp [blockScale, hm]
  · have hscale : blockScale f (.fin false m e) = (clampInt 0 254 (floorLog2 m e - emax f + 127)).toNat := if_neg hm
    rw [hscale, if_neg hm, clampInt_eq (by decide), floorLog2, ← log_rat hm, ← BitVec.ofInt_natCast, Int.toNat_of_nonneg (le_max_left _ _)]

/-! ### The exponent of the largest finite value -/

theorem emax_E2M1 : ∀ f : FmtDesc, f.isNarrow = true → f.code = 11 → emax f = 2 := by decide +kernel

theorem emax_E4M3 : ∀ f : FmtDesc, f.isNarrow = true → f.code = 12 → emax f = 8 := by decide +kernel

theorem emax_E5M2 : ∀ f : FmtDesc, f.isNarrow = true → f.code = 13 → emax f = 15 := by decide +kernel

theorem cmax_pos : ∀ f : FmtDesc, f.isNarrow = true → 0 < (floatFmt f).cmax := by decide +kernel

theorem emax_eq {f : FmtDesc} (hf : f.isNarrow = true) {m : Nat} {e : Int} (h : magValue (floatFmt f) false (floatFmt f).cmax = .fin false m e) :
    emax f = Int.log 2 (rat false m e) := by
  obtain ⟨m', e', hval, hrat⟩ := magValue_magnitude (floatFmt f) false (floatFmt f).cmax
  obtain ⟨-, rfl, rfl⟩ := Num.fin.inj (hval.symm.trans h)
  have hpos : 0 < rat false m' e' := by
    rw [hrat, ← magnitude_zero (floatFmt f)]
    exact magnitude_strictMono _ (cmax_pos f hf)
  have hm : m' ≠ 0 := fun h0 => hpos.ne' (rat_eq_zero_iff.2 h0)
  rw [log_rat hm, emax, h]
  rfl

/-! ### The instructions -/

section
variable {s : State} {d a b : VIdx} {A B : VReg} {f : FmtDesc} (ha : s.HasV a A) (hb : s.HasV b B) (hd : s.FreeV d)
include ha hb hd

theorem exec_vbscale {amax : Num} (h : runningMax (A.packet ++ [B.lanes[0]]) = amax) : exec (.vbscale d a b f) s =
    .next (s.wroteV d [BitVec.ofNat 32 (roundTo fFP32 rne 0 amax).1, BitVec.ofNat 32 (blockScale f amax)]) := by
  subst h
  exact next_congr ((two_has ha hb hd false _ fun _ _ => 0).trans (wrotePacket_silent ..))

/-- A greatest value among finite ones gives its code without the sign, and its scale. -/
theorem exec_vbscale_fin {w : W32} (hw : w ∈ A.packet ++ [B.lanes[0]]) {k : Bool} {m : Nat} {e : Int} (hv : valueOf fFP32 w.toNat = .fin k m e)
    (hall : ∀ z ∈ A.packet ++ [B.lanes[0]], ∃ k' m' e', valueOf fFP32 z.toNat = .fin k' m' e' ∧ rat false m' e' ≤ rat false m e) :
    exec (.vbscale d a b f) s = .next (s.wroteV d [w &&& 0x7FFF_FFFF,
      if m = 0 then 0 else BitVec.ofInt 32 (max 0 (min 254 (Int.log 2 (rat false m e) - emax f + 127)))]) := by
  obtain ⟨m', e', hmax, hrat, hfrom⟩ := runningMax_fin hw hv hall
  have hcode := code_of_magnitude hv hrat (hfrom.imp_right fun ⟨z, _, hz⟩ => ⟨z, hz⟩)
  have hzero : m' = 0 ↔ m = 0 := by rw [← rat_eq_zero_iff (n := false) (e := e'), hrat, rat_eq_zero_iff]
  rw [exec_vbscale ha hb hd hmax, hcode, blockScale_fin, hrat, BitVec.ofNat_toNat, BitVec.setWidth_eq]
  simp only [hzero]

theorem exec_vquant : ∃ r : List (Nat × Flags), r = A.packet.mapIdx (fun k w => s.round f k (unscaled (valueOf fFP32 w.toNat) (scaleByte B), 0)) ∧
    exec (.vquant d a b f) s = .next (s.wrotePacket true d (pack f (r.map Prod.fst)) (orFlags (r.map Prod.snd))) :=
  ⟨_, rfl, next_congr ((readV_has ha _).trans ((readV_has hb _).trans (packetDone_free hd ..)))⟩

theorem exec_vdequant : ∃ r : List (Nat × Flags),
    r = ((A.elems f A.length).take 8).mapIdx (fun k c => s.round fFP32 k (scaled (valueOf f c) (scaleByte B), 0)) ∧
      exec (.vdequant d a b f) s = .next (s.wrotePacket true d (r.map fun e => BitVec.ofNat 32 e.1) (orFlags (r.map Prod.snd))) := by
  refine ⟨_, rfl, next_congr ((readV_has ha _).trans ((readV_has hb _).trans ((packetDone_free hd ..).trans ?_)))⟩
  rw [List.map_map]
  rfl

end

end Sys2Proof.Machine
end

section
/-! Softmax merges (R188), dice (R190), colour conversion (R191) and normalising (R192), and the obligation on them and on block scales. -/

namespace Sys2Proof.Machine

/-! ### The order of maxima -/

theorem lt_asymm_numbers {x y : Num} (hx : x.isNan = false) (hy : y.isNan = false) (h : x.lt y = true) : y.lt x = false :=
  Bool.eq_false_iff.2 fun h' => lt_asymm ((Num.lt_iff_key hx hy).1 h) ((Num.lt_iff_key hy hx).1 h')

theorem lt_irrefl_number {x : Num} (hx : x.isNan = false) : x.lt x = false :=
  Bool.eq_false_iff.2 fun h => lt_irrefl _ ((Num.lt_iff_key hx hx).1 h)

/-! ### The weights of a merge (R188) -/

/-- The weight of a side whose maximum is below the common one: a power of two rounded to FP32, with its flags. -/
def lesserWeight (x m : Num) : Num × Flags :=
  let d := addExact 0 x m.negate
  let c := roundTo fFP32 rne 0 (exp2Of d.1)
  (valueOf fFP32 c.1, d.2 ||| c.2)

theorem mergeWeight_lesser {x m : Num} (h : x.lt m = true) : mergeWeight x m = lesserWeight x m := by
  rw [mergeWeight, h]
  rfl

theorem mergeWeight_equal {x m : Num} (h : x.lt m = false) (h' : m.lt x = false) : mergeWeight x m = (.fin false 1 0, 0) := by
  rw [mergeWeight, h, h']
  rfl

/-- The side with the greater maximum has weight 1, and the other its power of two. -/
theorem mergeWeight_of_max {x y : Num} (hx : x.isNan = false) {w : Num} {f : Flags}
    (h : if x.lt y then (w, f) = lesserWeight x (if x.lt y then y else x) else w = .fin false 1 0 ∧ f = 0) :
    mergeWeight x (if x.lt y then y else x) = (w, f) := by
  by_cases hlt : x.lt y = true
  · simp only [hlt, if_true] at h ⊢
    rw [mergeWeight_lesser hlt, h]
  · have hge : x.lt y = false := Bool.eq_false_iff.2 hlt
    simp only [hge, Bool.false_eq_true, if_false] at h ⊢
    obtain ⟨rfl, rfl⟩ := h
    exact mergeWeight_equal (lt_irrefl_number hx) (lt_irrefl_number hx)

/-- Of two maxima, one is as good as the other where neither is below. -/
theorem mergeWeight_of_max_right {x y : Num} (hx : x.isNan = false) (hy : y.isNan = false) {w : Num} {f : Flags}
    (h : if y.lt x then (w, f) = lesserWeight y (if x.lt y then y else x) else w = .fin false 1 0 ∧ f = 0) :
    mergeWeight y (if x.lt y then y else x) = (w, f) := by
  by_cases hlt : y.lt x = true
  · have hge := lt_asymm_numbers hy hx hlt
    simp only [hlt, hge, Bool.false_eq_true, if_false, if_true] at h ⊢
    rw [mergeWeight_lesser hlt, h]
  · have hge : y.lt x = false := Bool.eq_false_iff.2 hlt
    simp only [hge, Bool.false_eq_true, if_false] at h
    obtain ⟨rfl, rfl⟩ := h
    split
    · exact mergeWeight_equal (lt_irrefl_number hy) (lt_irrefl_number hy)
    · next h' => exact mergeWeight_equal hge (Bool.eq_false_iff.2 h')

/-! ### The lanes of a merge -/

/-- One weighted output of a merge, before it is rounded. -/
def mergedLane (mode : BitVec 3) (w1 w2 : Num) (x y : W32) : Num × Flags :=
  let p := mulExact (valueOf fFP32 x.toNat) w1
  let q := mulExact (valueOf fFP32 y.toNat) w2
  let t := addExact mode p.1 q.1
  (t.1, p.2 ||| q.2 ||| t.2)

section
variable {c : Cell} {a b : List W32} {m1 m2 : Num} (h1 : valueOf fFP32 (a.headD 0).toNat = m1) (h2 : valueOf fFP32 (b.headD 0).toNat = m2)
include h1 h2

/-- Two neutral states. -/
theorem mergeStates_neutral (h : m1 = .inf true) (h' : m2 = .inf true) : mergeStates c a b = (0xFF80_0000 :: (a.tail.map fun _ => 0), 0) := by
  subst h h'
  simp only [mergeStates, h1, h2, and_self, if_true]

/-- A NaN maximum. -/
theorem mergeStates_nan (h : m1.isNan = true ∨ m2.isNan = true) :
    mergeStates c a b = (a.map fun _ => nanCode fFP32, if m1.isSig || m2.isSig then flNV else 0) := by
  have hne : ¬ (m1 = .inf true ∧ m2 = .inf true) := by
    rintro ⟨rfl, rfl⟩
    simp [Num.isNan] at h
  have hnan : (m1.isNan || m2.isNan) = true := by simpa using h
  simp only [mergeStates, h1, h2, if_neg hne, hnan, if_true]

/-- Two states of which one is not neutral, and neither is NaN. -/
theorem mergeStates_numbers (hne : ¬ (m1 = .inf true ∧ m2 = .inf true)) (hn1 : m1.isNan = false) (hn2 : m2.isNan = false) {w1 w2 : Num} {f1 f2 : Flags}
    (hw1 : mergeWeight m1 (if m1.lt m2 then m2 else m1) = (w1, f1)) (hw2 : mergeWeight m2 (if m1.lt m2 then m2 else m1) = (w2, f2)) :
    let r := (a.tail.zip b.tail).mapIdx fun k e => vfRound c fFP32 (k + 1) (mergedLane c.k.rm w1 w2 e.1 e.2)
    mergeStates c a b = ((if m1.lt m2 then (b.headD 0).toNat else (a.headD 0).toNat) :: r.map Prod.fst, f1 ||| f2 ||| orFlags (r.map Prod.snd)) := by
  have hnan : (m1.isNan || m2.isNan) = false := by rw [hn1, hn2]; rfl
  have hfirst {α : Type} (x y : α) : (if (!m1.lt m2) = true then x else y) = if m1.lt m2 then y else x := by cases m1.lt m2 <;> rfl
  simp only [mergeStates, h1, h2, if_neg hne, hnan, Bool.false_eq_true, if_false, hfirst, hw1, hw2]
  rfl

end

/-- The first of at least one lane. -/
theorem headD_take (r : VReg) {n : Nat} (hn : 1 ≤ n) : (r.lanes.toList.take n).headD 0 = r.lanes[0] := by
  have hlen : 0 < (r.lanes.toList.take n).length := by
    rw [List.length_take, Vector.length_toList]
    omega
  rw [List.headD_eq_head?_getD, List.head?_eq_getElem?, List.getElem?_eq_getElem hlen, Option.getD_some, List.getElem_take]
  simp

section
variable {s : State} {d a b : VIdx} {A B : VReg} (ha : s.HasV a A) (hb : s.HasV b B) (hd : s.FreeV d)
include ha hb hd

theorem exec_vsmerge {out : List Nat} {fl : Flags}
    (h : mergeStates s.cell (A.lanes.toList.take (min A.length B.length)) (B.lanes.toList.take (min A.length B.length)) = (out, fl)) :
    exec (.vsmerge d a b) s = .next (s.wrotePacket true d (out.map (BitVec.ofNat 32)) fl) := by
  refine next_congr ((readV_has ha _).trans ((readV_has hb _).trans ?_))
  simp only [least, h, packetDone_free hd]

/-- The three kinds of a merge (R188). -/
theorem exec_vsmerge_cases :
    let n := min A.length B.length
    let m1 := valueOf fFP32 A.lanes[0].toNat
    let m2 := valueOf fFP32 B.lanes[0].toNat
    (m1 = .inf true → m2 = .inf true → exec (.vsmerge d a b) s = .next (s.wrotePacket true d (0xFF80_0000 :: List.replicate (n - 1) 0) 0)) ∧
      (m1.isNan = true ∨ m2.isNan = true → exec (.vsmerge d a b) s =
        .next (s.wrotePacket true d (List.replicate n 0x7FC0_0000) (if m1.isSig || m2.isSig then flNV else 0))) ∧
      (¬(m1 = .inf true ∧ m2 = .inf true) → m1.isNan = false → m2.isNan = false →
        let m := if m1.lt m2 then m2 else m1
        ∀ w1 w2 f1 f2, (if m1.lt m2 then (w1, f1) = lesserWeight m1 m else w1 = .fin false 1 0 ∧ f1 = 0) →
          (if m2.lt m1 then (w2, f2) = lesserWeight m2 m else w2 = .fin false 1 0 ∧ f2 = 0) →
          let r : List (Nat × Flags) := (((A.lanes.toList.take n).tail).zip ((B.lanes.toList.take n).tail)).mapIdx fun k e =>
            s.round fFP32 (k + 1) (mergedLane s.cell.k.rm w1 w2 e.1 e.2)
          exec (.vsmerge d a b) s = .next (s.wrotePacket true d ((if m1.lt m2 then B.lanes[0] else A.lanes[0]) :: r.map fun e => BitVec.ofNat 32 e.1)
            (f1 ||| f2 ||| orFlags (r.map Prod.snd)))) := by
  intro n m1 m2
  have hn : 1 ≤ n := le_min A.length_pos B.length_pos
  have hlen : (A.lanes.toList.take n).length = n := by
    rw [List.length_take, Vector.length_toList]
    exact min_eq_left ((min_le_left _ _).trans A.length_le)
  have h1 : valueOf fFP32 ((A.lanes.toList.take n).headD 0).toNat = m1 := by rw [headD_take A hn]
  have h2 : valueOf fFP32 ((B.lanes.toList.take n).headD 0).toNat = m2 := by rw [headD_take B hn]
  refine ⟨fun h h' => ?_, fun h => ?_, fun hne hn1 hn2 => ?_⟩
  · rw [exec_vsmerge ha hb hd (mergeStates_neutral h1 h2 h h'), List.map_const', List.length_tail, hlen, List.map_cons, List.map_replicate]
    rfl
  · rw [exec_vsmerge ha hb hd (mergeStates_nan h1 h2 h), List.map_const', hlen, List.map_replicate]
    rfl
  · intro m w1 w2 f1 f2 hw1 hw2
    rw [exec_vsmerge ha hb hd (mergeStates_numbers h1 h2 hne hn1 hn2 (mergeWeight_of_max hn1 hw1) (mergeWeight_of_max_right hn1 hn2 hw2)), List.map_cons,
      List.map_map, apply_ite (BitVec.ofNat 32), headD_take A hn, headD_take B hn, BitVec.ofNat_toNat, BitVec.ofNat_toNat,
      BitVec.setWidth_eq, BitVec.setWidth_eq]
    rfl

end

/-! ### Colour conversion (R191) -/

/-- Whether a value is finite, as a test. -/
def Num.isFin : Num → Bool
  | .fin _ _ _ => true
  | _ => false

theorem isFin_iff {x : Num} : x.isFin = true ↔ x.Finite := by
  cases x <;> simp [Num.isFin, Num.Finite]

section
variable {c : Cell} {B : VReg} {w : W32} {j k : Nat}

/-- The coefficients of a row. -/
def cscRow (B : VReg) (k : Nat) : List Num := [cscCoef B (3 * k), cscCoef B (3 * k + 1), cscCoef B (3 * k + 2), cscCoef B (9 + k)]

/-- The terms of an output channel. -/
def cscTerms (B : VReg) (w : W32) (k : Nat) : List Num :=
  [(mulExact (cscCoef B (3 * k)) (.fin false (bits w.toNat (8 * 0) 8) 0)).1, (mulExact (cscCoef B (3 * k + 1)) (.fin false (bits w.toNat (8 * 1) 8) 0)).1,
    (mulExact (cscCoef B (3 * k + 2)) (.fin false (bits w.toNat (8 * 2) 8) 0)).1, cscCoef B (9 + k)]

theorem cscOut_refused (h : ∃ x ∈ cscRow B k, ¬ x.Finite) : cscOut c B w j k = (0, flNV) := by
  have hall : ¬ (cscRow B k).all Num.isFin = true := by
    obtain ⟨x, hx, hne⟩ := h
    exact fun hall => hne (isFin_iff.1 (List.all_eq_true.1 hall x hx))
  exact if_neg hall

theorem cscOut_finite (h : ∀ x ∈ cscRow B k, x.Finite) {q : Bool} {m : Nat} {e : Int} {f : Flags} (hsum : sumExact c.k.rm (cscTerms B w k) = (.fin q m e, f)) :
    cscOut c B w j k = ((clampInt 0 255 (roundInt c.k.rm (drawBits c.k.dkey c.draw j k) q m e).1).toNat, 0) := by
  have hall : (cscRow B k).all Num.isFin = true := List.all_eq_true.2 fun x hx => isFin_iff.2 (h x hx)
  refine (if_pos hall).trans ?_
  change (match (sumExact c.k.rm (cscTerms B w k)).1 with | .fin neg m e => _ | _ => _) = _
  rw [hsum]

/-- The exact value of a channel is rounded and clamped. -/
theorem cscOut_value {n0 n1 n2 n3 : Bool} {m0 m1 m2 m3 : Nat} {e0 e1 e2 e3 : Int} (h0 : cscCoef B (3 * k) = .fin n0 m0 e0)
    (h1 : cscCoef B (3 * k + 1) = .fin n1 m1 e1) (h2 : cscCoef B (3 * k + 2) = .fin n2 m2 e2) (h3 : cscCoef B (9 + k) = .fin n3 m3 e3) :
    ∃ q m e, rat q m e = rat n0 m0 e0 * (w.toNat % 2 ^ 8 : Nat) + rat n1 m1 e1 * (w.toNat / 2 ^ 8 % 2 ^ 8 : Nat) +
        rat n2 m2 e2 * (w.toNat / 2 ^ 16 % 2 ^ 8 : Nat) + rat n3 m3 e3 ∧
      cscOut c B w j k = ((max 0 (min 255 (roundInt c.k.rm (drawBits c.k.dkey c.draw j k) q m e).1)).toNat, 0) := by
  have hterms : cscTerms B w k = [.fin (n0 != false) (m0 * bits w.toNat (8 * 0) 8) (e0 + 0), .fin (n1 != false) (m1 * bits w.toNat (8 * 1) 8) (e1 + 0),
      .fin (n2 != false) (m2 * bits w.toNat (8 * 2) 8) (e2 + 0), .fin n3 m3 e3] := by
    simp only [cscTerms, h0, h1, h2, h3, mulExact]
  have hfin : ∀ x ∈ cscTerms B w k, x.Finite := by
    rw [hterms]
    simp [Num.Finite]
  have hrow : ∀ x ∈ cscRow B k, x.Finite := by
    rw [cscRow, h0, h1, h2, h3]
    simp [Num.Finite]
  have hterm (n : Bool) (m i : Nat) (e : Int) : Num.rat (.fin (n != false) (m * i) (e + 0)) = rat n m e * i :=
    (rat_mul n false m i e 0).trans (by rw [rat_false, zpow_zero, mul_one])
  have hlast : Num.rat (.fin n3 m3 e3) = rat n3 m3 e3 := rfl
  obtain ⟨q, m, e, hsum, hrat⟩ := sumExact_rat (mode := c.k.rm) hfin
  refine ⟨q, m, e, ?_, ?_⟩
  · rw [hrat, hterms]
    simp only [List.map_cons, List.map_nil, List.sum_cons, List.sum_nil, hterm, hlast, bits, Nat.mul_zero, pow_zero, Nat.div_one]
    ring
  · rw [cscOut_finite hrow hsum, clampInt_eq (by decide)]

end

section
variable {s : State} {d a b : VIdx} {A B : VReg} (ha : s.HasV a A) (hb : s.HasV b B) (hd : s.FreeV d)
include ha hb hd

theorem exec_vcsc : ∃ r : List (Nat × Flags), r = A.packet.mapIdx (fun j w =>
      ((cscOut s.cell B w j 0).1 + 2 ^ 8 * (cscOut s.cell B w j 1).1 + 2 ^ 16 * (cscOut s.cell B w j 2).1 + 2 ^ 24 * (w.toNat / 2 ^ 24),
        (cscOut s.cell B w j 0).2 ||| (cscOut s.cell B w j 1).2 ||| (cscOut s.cell B w j 2).2)) ∧
    exec (.vcsc d a b) s = .next (s.wrotePacket true d (r.map fun e => BitVec.ofNat 32 e.1) (orFlags (r.map Prod.snd))) := by
  have htop (w : W32) : bits w.toNat 24 8 = w.toNat / 2 ^ 24 := Nat.mod_eq_of_lt (by have := w.isLt; omega)
  refine ⟨_, rfl, next_congr ((readV_has ha _).trans ((readV_has hb _).trans ((packetDone_free hd ..).trans ?_)))⟩
  simp only [List.map_map, htop]
  rfl

theorem exec_vnorm (f : FmtDesc) : ∃ r : List (Nat × Flags), r = ((A.elems fUINT8 A.length).take (256 / width f)).mapIdx (fun k x =>
      let t (i : Nat) : Num := valueOf fFP32 (B.lanes.toList.getD i 0).toNat
      let y := addExact s.cell.k.rm (.fin false x 0) (t (k % 4)).negate
      let z := mulExact y.1 (t (4 + k % 4))
      s.round f k (z.1, y.2 ||| z.2)) ∧
    exec (.vnorm d a b f) s = .next (s.wrotePacket true d (pack f (r.map Prod.fst)) (orFlags (r.map Prod.snd))) :=
  ⟨_, rfl, next_congr ((readV_has ha _).trans ((readV_has hb _).trans (packetDone_free hd ..)))⟩

end

/-! ### Dice (R190) -/

section
variable {s : State} {d a : VIdx} {A : VReg} (ha : s.HasV a A) (hd : s.FreeV d)
include ha hd

theorem exec_vdice_bits (si : BitVec 5) : exec (.vdice d a si false) s =
    .next (s.wroteV d (A.packet.map fun i => (philox s.cell.k.dkey i 0 (BitVec.ofNat 32 si.toNat) 0x8000_0000).1)) := by
  refine next_congr ((one_has ha hd false _ fun _ => 0).trans ((wrotePacket_silent ..).trans ?_))
  rw [BitVec.ofNat_toNat]
  rfl

theorem exec_vdice_fraction (si : BitVec 5) : exec (.vdice d a si true) s = .next (s.wroteV d (A.packet.map fun i =>
    BitVec.ofNat 32 (roundTo fFP32 rne 0 (.fin false ((philox s.cell.k.dkey i 0 (BitVec.ofNat 32 si.toNat) 0x8000_0000).1.toNat / 256) (-24))).1)) := by
  refine next_congr ((one_has ha hd false _ fun _ => 0).trans ((wrotePacket_silent ..).trans ?_))
  rw [BitVec.ofNat_toNat]
  rfl

end

/-- Settles O35: block scales by the running maximum, merges by the order of their maxima, and the pipelines element by element. -/
theorem scalesMergesAndPipelines : Obligations.ScalesMergesAndPipelines := by
  intro d a b A B f s ha hb hd
  refine ⟨fun hf => ⟨⟨fun h => ?_, fun h hi => ?_, fun w hw k m e hv hall => exec_vbscale_fin ha hb hd hw hv hall⟩, emax_E2M1 f hf, emax_E4M3 f hf,
    emax_E5M2 f hf, fun m e h => emax_eq hf h, exec_vquant ha hb hd, exec_vdequant ha hb hd⟩, ?_,
    fun si => ⟨exec_vdice_bits ha hd si, exec_vdice_fraction ha hd si⟩, exec_vcsc ha hb hd, fun w j k _ => ⟨?_, ?_⟩, fun _ => exec_vnorm ha hb hd f⟩
  · rw [exec_vbscale ha hb hd (runningMax_nan h)]
    rfl
  · rw [exec_vbscale ha hb hd (runningMax_inf h hi)]
    rfl
  · exact exec_vsmerge_cases ha hb hd
  · intro n0 m0 e0 n1 m1 e1 n2 m2 e2 n3 m3 e3 h0 h1 h2 h3
    exact cscOut_value h0 h1 h2 h3
  · rintro ⟨i, hi, hne⟩
    refine cscOut_refused ⟨cscCoef B i, ?_, fun ⟨n, m, e, h⟩ => hne n m e h⟩
    exact List.mem_map_of_mem (f := cscCoef B) hi

end Sys2Proof.Machine
end
